-- ==== Sys2Proof/Word.lean ====
section
/-! DEFINITION. The words of the TVK-4880: bytes, 32-bit registers, 64-bit descriptor words, and the plainest
arithmetic on the numbers that registers and counters hold. -/

namespace Sys2Proof

/-- One byte of memory (R15). -/
abbrev Byte := BitVec 8

/-- One register (R18). -/
abbrev W32 := BitVec 32

/-- One 64-bit register access, doorbell value or summary register (R21, R103, R138). -/
abbrev W64 := BitVec 64

/-- A counter that saturates at all ones of 32 bits. -/
def satInc32 (n k : Nat) : Nat := min (n + k) 0xFFFFFFFF

/-- Rounding up of a quotient. -/
def ceilDiv (a b : Nat) : Nat := (a + b - 1) / b

end Sys2Proof
end

