-- ==== Sys2Proof/Machine/SMap.lean ====
section
/-! DEFINITION. Sparse tables of the device: a list of (key, value) pairs in one canonical form, keys strictly
rising and no pair that holds the table's default. Registers that come in families (4,096 rings, 1,024 contexts,
81,920 cores ...) are held so, and an unlisted key reads as the default. -/

namespace Sys2Proof.Machine

/-- A sparse table: keys strictly rising, no entry equal to the default. -/
abbrev SMap (α : Type) := List (Nat × α)

/-- The value at key `k`, the default `d` where none is listed. -/
def SMap.get {α : Type} (d : α) : SMap α → Nat → α
  | [], _ => d
  | (k', v) :: t, k => if k' = k then v else SMap.get d t k

/-- The value at key `k`, if one is listed. -/
def SMap.find {α : Type} : SMap α → Nat → Option α
  | [], _ => none
  | (k', v) :: t, k => if k' = k then some v else SMap.find t k

/-- Removes key `k`. -/
def SMap.del {α : Type} : SMap α → Nat → SMap α
  | [], _ => []
  | (k', v) :: t, k => if k' = k then SMap.del t k else (k', v) :: SMap.del t k

/-- Lists `v` at key `k`, in place of what is listed there. -/
def SMap.ins {α : Type} : SMap α → Nat → α → SMap α
  | [], k, v => [(k, v)]
  | (k', v') :: t, k, v =>
    if k < k' then (k, v) :: (k', v') :: t
    else if k = k' then (k, v) :: t
    else (k', v') :: SMap.ins t k v

/-- Writes `v` at key `k`; writing the default removes the entry. -/
def SMap.put {α : Type} [DecidableEq α] (d : α) (m : SMap α) (k : Nat) (v : α) : SMap α :=
  if v = d then m.del k else m.ins k v

/-- Changes the value at key `k`. -/
def SMap.upd {α : Type} [DecidableEq α] (d : α) (m : SMap α) (k : Nat) (f : α → α) : SMap α :=
  m.put d k (f (m.get d k))

/-- Changes every listed value. -/
def SMap.mapAll {α : Type} (m : SMap α) (f : Nat → α → α) : SMap α := m.map fun p => (p.1, f p.1 p.2)

/-- Every key of the table lies above `b`. -/
def SMap.above {α : Type} (b : Nat) : SMap α → Bool
  | [] => true
  | (k, _) :: t => decide (b < k) && SMap.above b t

/-- Keys strictly rise. -/
def SMap.sorted {α : Type} : SMap α → Bool
  | [] => true
  | (k, _) :: t => SMap.above k t && SMap.sorted t

/-- The canonical form: keys strictly rising, no entry equal to the default. -/
def SMap.wf {α : Type} [DecidableEq α] (d : α) (m : SMap α) : Bool :=
  m.sorted && m.all fun p => decide (p.2 ≠ d)

end Sys2Proof.Machine
end

