-- ==== Sys2Proof/Machine/Types.lean ====
section
/-! DEFINITION. The named things of the TVK-4880's manual: states and codes as inductive types, the records of a
layout image, a sage pack and a ring entry as structures, and the payloads that commands carry. -/

namespace Sys2Proof.Machine

/-- A PCIe function: the driver's physical function, or the virtual function n + 1 of seat n (R10, R415). -/
inductive Fn where
  | pf
  | vf (seat : Nat)
  deriving DecidableEq, Repr

/-- The state of the shadow buffer (R62). -/
inductive Shadow where
  | empty | loading | loaded | validating | valid | refused | swapPending | retired
  deriving DecidableEq, Repr

/-- LAY_STATUS.SHADOW (R62). -/
def Shadow.code : Shadow → Nat
  | .empty => 0 | .loading => 1 | .loaded => 2 | .validating => 3
  | .valid => 4 | .refused => 5 | .swapPending => 6 | .retired => 7

/-- The state of a ring (R128). -/
inductive RingState where
  | inactive | running | stopped | hostLost
  deriving DecidableEq, Repr

/-- RING_STATE.STATE (R128). -/
def RingState.code : RingState → Nat
  | .inactive => 0 | .running => 1 | .stopped => 2 | .hostLost => 3

/-- The state of a seat (R371). -/
inductive SeatState where
  | unused | inService | fenced | resetting | scrubbing
  deriving DecidableEq, Repr

/-- SEAT_STATUS.STATE (R371). -/
def SeatState.code : SeatState → Nat
  | .unused => 0 | .inService => 1 | .fenced => 2 | .resetting => 3 | .scrubbing => 4

/-- The save state of a context (R409). -/
inductive SaveState where
  | none | saving | saved | incomplete
  deriving DecidableEq, Repr

/-- SEAT_SAVE_STATE field (R409). -/
def SaveState.code : SaveState → Nat
  | .none => 0 | .saving => 1 | .saved => 2 | .incomplete => 3

/-- The state of the sage pack (R503). -/
inductive PackState where
  | empty | loading | loaded | validating | ready | running | done | refused
  deriving DecidableEq, Repr

/-- TST_STATUS.STATE (R503); 6 is not used. -/
def PackState.code : PackState → Nat
  | .empty => 0 | .loading => 1 | .loaded => 2 | .validating => 3
  | .ready => 4 | .running => 5 | .done => 7 | .refused => 8

/-- The firmware-update state (R544). -/
inductive FwState where
  | idle | staging | verifying | writing | pending | failed
  deriving DecidableEq, Repr

/-- MGT_FW_STATUS.STATE (R544). -/
def FwState.code : FwState → Nat
  | .idle => 0 | .staging => 1 | .verifying => 2 | .writing => 3 | .pending => 4 | .failed => 5

/-- The state of a Quinay port (R446). -/
inductive PortState where
  | disabled | empty | identifying | refused | training | up | retraining | down
  deriving DecidableEq, Repr

/-- QLK_PORT_STATUS.STATE (R446). -/
def PortState.code : PortState → Nat
  | .disabled => 0 | .empty => 1 | .identifying => 2 | .refused => 3
  | .training => 4 | .up => 5 | .retraining => 6 | .down => 7

/-- The state of a remap entry (R365). -/
inductive RemapState where
  | free | copy | active | dead
  deriving DecidableEq, Repr

/-- MEM_FRAME_REMAP.STATE (R365). -/
def RemapState.code : RemapState → Nat
  | .free => 0 | .copy => 1 | .active => 2 | .dead => 3

/-- The kind of a frame (R382). -/
inductive FrameKind where
  | free | context | seat | device
  deriving DecidableEq, Repr

/-- The thermal state of a memory stack (R355). -/
inductive Thermal where
  | normal | refresh2x | refresh4x | capped | protect
  deriving DecidableEq, Repr

/-- MEM_STATUS.THERMAL (R355). -/
def Thermal.code : Thermal → Nat
  | .normal => 0 | .refresh2x => 1 | .refresh4x => 2 | .capped => 3 | .protect => 4

/-- The state of a trick (R221). -/
inductive TrickState where
  | open_ | commit | prepared | committing | committed | aborted
  deriving DecidableEq, Repr

/-- The status of an operation (R153). -/
inductive Status where
  | ok | skipped | badDescriptor | dataError | noSpace | aborted | segmentFault | cmdbufError | peerError | hostLost
  deriving DecidableEq, Repr

/-- The STATUS byte of a completion entry (R153). -/
def Status.code : Status → Nat
  | .ok => 0 | .skipped => 1 | .badDescriptor => 2 | .dataError => 3 | .noSpace => 4 | .aborted => 5
  | .segmentFault => 6 | .cmdbufError => 7 | .peerError => 8 | .hostLost => 9

/-- The stall reason of a slot (R163). -/
inductive Stall where
  | none | idle | scoreboardFull | routeCredit | wait | bandwidth | completionFull | collector | staleEntry
  | swapPending | trickBackpressure | thermal | peer | hostLost | fenced | slice | clockStart | cmdbuf | sramFatal
  deriving DecidableEq, Repr

/-- SLT_STALL.REASON (R163). -/
def Stall.code : Stall → Nat
  | .none => 0 | .idle => 1 | .scoreboardFull => 2 | .routeCredit => 3 | .wait => 4 | .bandwidth => 5
  | .completionFull => 6 | .collector => 7 | .staleEntry => 8 | .swapPending => 9 | .trickBackpressure => 10
  | .thermal => 11 | .peer => 12 | .hostLost => 13 | .fenced => 14 | .slice => 15 | .clockStart => 16
  | .cmdbuf => 17 | .sramFatal => 18

/-- The sticky flags of a completion entry (R154). -/
structure Flags where
  invalid : Bool := false
  overflow : Bool := false
  widened : Bool := false
  poisoned : Bool := false
  crushed : Bool := false
  defaultRows : Bool := false
  exactClip : Bool := false
  seqSkew : Bool := false
  deriving DecidableEq, Repr

/-- The OR of two flag sets (R112, R501). -/
def Flags.or (a b : Flags) : Flags :=
  ⟨a.invalid || b.invalid, a.overflow || b.overflow, a.widened || b.widened, a.poisoned || b.poisoned,
   a.crushed || b.crushed, a.defaultRows || b.defaultRows, a.exactClip || b.exactClip, a.seqSkew || b.seqSkew⟩

/-- The FLAGS field of a completion entry (R154). -/
def Flags.code (f : Flags) : Nat :=
  f.invalid.toNat + 2 * f.overflow.toNat + 4 * f.widened.toNat + 8 * f.poisoned.toNat + 16 * f.crushed.toNat
    + 32 * f.defaultRows.toNat + 64 * f.exactClip.toNat + 128 * f.seqSkew.toNat

/-- The excursion bits of MARGIN (R152, R389). -/
structure Excursions where
  thermal : Bool := false
  rerun : Bool := false
  peerLate : Bool := false
  trickStall : Bool := false
  deriving DecidableEq, Repr

/-- The OR of two excursion sets. -/
def Excursions.or (a b : Excursions) : Excursions :=
  ⟨a.thermal || b.thermal, a.rerun || b.rerun, a.peerLate || b.peerLate, a.trickStall || b.trickStall⟩

/-- Seat table record (R49). -/
structure SeatRec where
  kind : Nat := 0
  contexts : Nat := 0
  flags : Nat := 0
  clusters : Nat := 0
  saveBase : Nat := 0
  saveLength : Nat := 0
  slice : Nat := 0
  maxOpWcet : Nat := 0
  deriving DecidableEq, Repr

/-- Station route record (R52, R53). -/
structure RouteRec where
  seat : Nat := 0
  src : Nat := 0
  dst : Nat := 0
  stream : Nat := 0
  srcPlace : Nat := 0
  dstPlace : Nat := 0
  credits : Nat := 0
  deriving DecidableEq, Repr

/-- Table placement record (R54). -/
structure TableRec where
  table : Nat := 0
  seat : Nat := 0
  rowFormat : Nat := 0
  dimension : Nat := 0
  slotAtoms : Nat := 0
  defaultKind : Nat := 0
  rows : Nat := 0
  stackMask : Nat := 0
  interleave : Nat := 0
  pcMask : Nat := 0
  base : Nat := 0
  lengthPerStack : Nat := 0
  defaultRow : Nat := 0
  deriving DecidableEq, Repr

/-- Bandwidth split record, shares in 1/256 (R55). -/
structure SplitRec where
  read : Nat := 0
  write : Nat := 0
  remote : Nat := 0
  deriving DecidableEq, Repr

/-- Ring record (R56); `seat` 255 is an unassigned ring. -/
structure RingRec where
  seat : Nat := 255
  localIx : Nat := 0
  slot : Nat := 0
  context : Nat := 0
  log2Size : Nat := 0
  submitBase : Nat := 0
  completeBase : Nat := 0
  deriving DecidableEq, Repr

/-- Cascade role record (R58). -/
structure CascadeRec where
  role : Nat := 0
  dealer : Nat := 0
  portEnable : Nat := 0
  cascadeId : Nat := 0
  moduleIndex : Nat := 0
  members : Nat := 1
  dealerIndex : Nat := 0
  deriving DecidableEq, Repr

/-- WCET record (R60). -/
structure WcetRec where
  ring : Nat := 0
  wcet : Nat := 0
  base : Nat := 0
  deriving DecidableEq, Repr

/-- A decoded layout image: the header fields in use and the ten sections (R44 to R61). `slots` holds the seat of
each slot (255 unused), `clusters` the seat of each cluster (255 unowned), `fenced` the fenced-core list. -/
structure Layout where
  serial : Nat := 0
  keySlot : Nat := 0
  digest : List Byte := []
  seats : List SeatRec := []
  clusters : List Nat := []
  routes : List RouteRec := []
  tables : List TableRec := []
  splits : List SplitRec := []
  rings : List RingRec := []
  slots : List Nat := []
  cascade : CascadeRec := {}
  domains : Nat := 0
  wcets : List WcetRec := []
  fenced : List Nat := []
  deriving DecidableEq, Repr

/-- One ring entry, decoded: opcode, flags and the six descriptor words (R96, R99). -/
structure OpWord where
  opcode : Nat := 0
  flags : Nat := 0
  d0 : Nat := 0
  d1 : Nat := 0
  d2 : Nat := 0
  d3 : Nat := 0
  d4 : Nat := 0
  d5 : Nat := 0
  deriving DecidableEq, Repr

/-- A small payload that replaces descriptor word `word` (R149 to R151). -/
structure Payload where
  word : Nat
  bytes : List Byte
  deriving DecidableEq, Repr

/-- A tile: header fields and payload bytes (R83 to R87). `poison` is the POISON mask. -/
structure Tile where
  format : Nat := 0
  rows : Nat := 0
  cols : Nat := 0
  shiftMode : Nat := 0
  shift : Nat := 0
  stream : Nat := 0
  sequence : Nat := 0
  poison : Nat := 0
  check : Nat := 0
  payload : List Byte := []
  deriving DecidableEq, Repr

/-- What happened to a tile on its way (R90, R480, R591): nothing, a parity mismatch of a header word, a parity
mismatch of a payload word of row `row`, or damage that makes CHECK fail under every stream id and sequence. -/
inductive TileFault where
  | none | headerParity | rowParity (row : Nat) | damaged
  deriving DecidableEq, Repr

/-- Symbol errors that a DRAM atom has developed (R349): (symbol, error value) pairs. Symbols 0 to 3 are the address, 4 to 67 the data,
68 on the check symbols. Where `transient` holds, a re-read (R350) finds the errors of `reread` in their place. -/
structure Upset where
  symbols : List (Nat × Byte) := []
  transient : Bool := false
  reread : List (Nat × Byte) := []
  deriving DecidableEq, Repr

/-- What a re-read finds, where it differs from the read. -/
def Upset.again (u : Upset) : Option (List (Nat × Byte)) := if u.transient then some u.reread else none

/-- Where a memory request comes from (R375, R376): a tag, or the internal class that carries none. -/
inductive Source where
  | tagged (tag : Nat)
  | internal
  deriving DecidableEq, Repr

/-- A request to a memory base die (R384): source, byte address, and the bytes to write (none for a read of the
atom). The bytes lie within one atom. -/
structure MemReq where
  source : Source
  addr : Nat
  write : Option (List Byte)
  deriving DecidableEq, Repr

/-- How a host-class access arrives (R419, R429): CXL.mem, UIO, or CXL.io through a VF's peer aperture. -/
inductive HostPath where
  | mem
  | uio (requester : Nat)
  | aperture (seat requester : Nat)
  deriving DecidableEq, Repr

/-- The identity contents of a cable as CMIS gives them (R444, R445). -/
structure CableId where
  readOk : Bool
  checksumOk : Bool
  maxPower : Nat
  length : Nat
  lanes : Nat
  vendorName : List Byte
  vendorPn : List Byte
  deriving DecidableEq, Repr

/-- A Quinay message after its flits were accepted (R453): header fields, CASCADE of its flits, body, and the flits of the
message that carried POISON, counted from 0 (R449). -/
structure QMessage where
  src : Nat
  dst : Nat
  cascade : Nat
  kind : Nat
  seat : Nat
  context : Nat
  reason : Nat
  xseq : Nat
  coll : Nat
  dest : Nat
  check : Nat
  poison : List Nat
  body : List Byte
  deriving DecidableEq, Repr

/-- Which SRAM table of a die an error lies in (R482). -/
inductive SramTable where
  | directory | filter | frameMap | repair | replicaMap | completionLog | trickTable
  deriving DecidableEq, Repr

/-- The transport of an SPDM request (R548): MCTP on the management port, or the mailbox of the MGT block. -/
inductive SpdmPort where
  | mctp | mailbox
  deriving DecidableEq, Repr

/-- The numbers of a pair test as the hardware shows them: what each core's check value and flags differ by, bit by bit, from
what sound cores give (0 for a sound core; R510); at an arbitration, from what the arbiter gives (R511). -/
structure TestDeviation where
  valueA : W64
  valueB : W64
  flagsA : Nat
  flagsB : Nat
  deriving DecidableEq, Repr

/-- A run of a gather unit: the scoreboard place of its operation, and the output rows or bags whose partial results meet a parity
mismatch on their way (R198). -/
structure GatherRun where
  place : Nat
  mismatch : List Nat := []
  deriving DecidableEq, Repr

/-- An OPREF (R98). -/
structure Opref where
  addr : Nat
  kind : Nat
  hint : Nat
  uses : Nat
  resv : Nat
  deriving DecidableEq, Repr

/-- The low `w` bits of `x` from bit `lo` on. -/
def bitsAt (x lo w : Nat) : Nat := (x >>> lo) % 2 ^ w

/-- Bit `i` of `x`. -/
def bitAt (x i : Nat) : Bool := x.testBit i

/-- Reads an OPREF from its 64 bits (R98). -/
def Opref.ofNat (x : Nat) : Opref :=
  ⟨bitsAt x 0 48, bitsAt x 48 2, bitsAt x 50 2, bitsAt x 52 4, bitsAt x 56 8⟩

end Sys2Proof.Machine
end

