-- ==== Sys2Proof/Syntax.lean ====
section
/-! DEFINITION. The commands of the TVK-4880: one constructor for each row of spec/opcode_table.json, in its order, with
the operands of the row. A ring, slot, seat, context (device-wide), stack, port, cluster or core is given by its index; a
`place` is the number of a scoreboard place, an `off` a byte offset in the BAR0 of a function, `fc` the fast cycle within
the slow cycle, `v` the value written. -/

namespace Sys2Proof

open Machine

/-- A command. Each docstring is the row it stands for and its rule. -/
inductive Instr where
  /-- REGISTER_WRITE (R19). -/
  | registerWrite (fn : Fn) (off : Nat) (wide : Bool) (v : Nat)
  /-- BAD_ACCESS (R22). -/
  | badAccess (fn : Fn) (off size : Nat) (isRead : Bool)
  /-- LATCHING_LO_READ (R162). -/
  | latchingLoRead (fn : Fn) (off : Nat)
  /-- LEAF_CLEAR (R560). -/
  | leafClear (fn : Fn) (off v : Nat)
  /-- LAY_LOAD (R63). -/
  | layLoad
  /-- LAYOUT_COPY_DONE (R64). -/
  | layoutCopyDone (bytes : List Byte)
  /-- LAY_VALIDATE (R65). -/
  | layValidate
  /-- LAYOUT_VALIDATION_DONE (R65). -/
  | layoutValidationDone
  /-- LAY_SWAP (R69). -/
  | laySwap
  /-- LAY_DISCARD (R74). -/
  | layDiscard
  /-- SWAP_POINT (R70). -/
  | swapPoint
  /-- LAY_KEY_ENROLL (R80). -/
  | layKeyEnroll (slot : Nat)
  /-- LAY_KEY_CLEAR (R80). -/
  | layKeyClear (slot : Nat)
  /-- DOMAIN_POWER_UP_DONE (R526). -/
  | domainPowerUpDone (domain : Nat)
  /-- CLUSTER_CLOCK_START_DONE (R529). -/
  | clusterClockStartDone (cluster : Nat)
  /-- SUBMISSION_DOORBELL (R138). -/
  | submissionDoorbell (seat localIx v : Nat)
  /-- COMPLETION_DOORBELL (R138). -/
  | completionDoorbell (seat localIx v : Nat)
  /-- MAILBOX_WRITE (R151). -/
  | mailboxWrite (seat off : Nat) (bytes : List Byte)
  /-- FETCH_ROUND (R141). -/
  | fetchRound (slot fc : Nat) (parity : List Nat)
  /-- SLOT_IDLE (R147). -/
  | slotIdle (slot : Nat)
  /-- STALE_REREAD (R145). -/
  | staleReread (ring fc : Nat)
  /-- SLOT_RECHECK (R146). -/
  | slotRecheck (slot fc : Nat)
  /-- SLT_RECHECK_WRITE (R169). -/
  | sltRecheckWrite (slot v : Nat)
  /-- RING_STOP (R129). -/
  | ringStop (ring : Nat)
  /-- RING_START (R129). -/
  | ringStart (ring : Nat)
  /-- RING_RESET (R129). -/
  | ringReset (ring : Nat)
  /-- RING_ZEROING_DONE (R130). -/
  | ringZeroingDone (ring : Nat)
  /-- RING_MODE_WRITE (R131). -/
  | ringModeWrite (ring v : Nat)
  /-- SKIPPED_OPERATION (R106). -/
  | skippedOperation (place : Nat)
  /-- OPERATION_RETIRE (R160). -/
  | operationRetire (place fc : Nat)
  /-- COMPLETION_ENTRY_WRITE (R159). -/
  | completionEntryWrite (ring : Nat)
  /-- EXC_RECORD_CLEAR (R275). -/
  | excRecordClear (ring : Nat)
  /-- MARK (R100). -/
  | mark (place : Nat)
  /-- WAIT (R102). -/
  | wait (place : Nat)
  /-- WAIT_SATISFIED (R102). -/
  | waitSatisfied (place : Nat)
  /-- ACQUIRE_INVALIDATE (R122). -/
  | acquireInvalidate (place : Nat)
  /-- ACQUIRE_BYPASS (R122). -/
  | acquireBypass (place : Nat)
  /-- ACQUIRE_RESTORE (R122). -/
  | acquireRestore (place : Nat)
  /-- FLUSH (R123). -/
  | flush (place : Nat)
  /-- FENCE (R124). -/
  | fence (place : Nat)
  /-- TILE_LOAD (R99). -/
  | tileLoad (place : Nat)
  /-- TILE_STORE (R99). -/
  | tileStore (place : Nat)
  /-- COPY (R100). -/
  | copy (place : Nat)
  /-- TILE_ARRIVAL (R90). -/
  | tileArrival (route : Nat) (fault scaleFault : TileFault)
  /-- ROUTE_CREDIT_RETURN (R92). -/
  | routeCreditReturn (route : Nat)
  /-- GATHER (R188). -/
  | gather (run : GatherRun)
  /-- GATHER_POOL (R188). -/
  | gatherPool (run : GatherRun)
  /-- PREFETCH_ROWS (R199). -/
  | prefetchRows (place : Nat)
  /-- PREFETCH_LINE_LAND (R199). -/
  | prefetchLineLand (place : Nat)
  /-- TRICK_OPEN (R214). -/
  | trickOpen (place : Nat)
  /-- TRICK_ADMIT (R216). -/
  | trickAdmit (place : Nat)
  /-- TRICK_PUT (R217). -/
  | trickPut (place : Nat) (once twice : List Nat)
  /-- TRICK_COMMIT (R223). -/
  | trickCommit (place : Nat)
  /-- TRICK_ABORT (R221). -/
  | trickAbort (place : Nat)
  /-- TRICK_PREPARED (R221). -/
  | trickPrepared (trick : Nat) (failed : Bool)
  /-- DIE_EPOCH_ACK (R232). -/
  | dieEpochAck (trick stack : Nat)
  /-- SETTLING_START (R236). -/
  | settlingStart (trick : Nat)
  /-- SETTLE_DONE (R237). -/
  | settleDone (stack granule : Nat)
  /-- OVERLAY_SPACE_FREED (R239). -/
  | overlaySpaceFreed (place : Nat)
  /-- EPOCH_PIN (R234). -/
  | epochPin (place : Nat)
  /-- ROW_MIGRATE_MOVE (R241). -/
  | rowMigrateMove (place : Nat)
  /-- ROW_MIGRATE_REPLICATE (R241). -/
  | rowMigrateReplicate (place : Nat)
  /-- ROW_MIGRATE_DROP_REPLICA (R241). -/
  | rowMigrateDropReplica (place : Nat)
  /-- MIGRATE_COMMIT_CHECK (R243). -/
  | migrateCommitCheck (place : Nat)
  /-- MATMUL (R267). -/
  | matmul (place : Nat)
  /-- GEMV (R295). -/
  | gemv (place : Nat)
  /-- COMBINE_BUFFER_SPACE_FREED (R291). -/
  | combineBufferSpaceFreed (place : Nat)
  /-- VECTOR (R299). -/
  | vector (place : Nat)
  /-- REDUCE (R304). -/
  | reduce (place : Nat)
  /-- QUANTIZE (R313). -/
  | quantize (place : Nat)
  /-- WIDENING_RERUN (R322). -/
  | wideningRerun (place : Nat)
  /-- DEQUANTIZE (R328). -/
  | dequantize (place : Nat)
  /-- SUMMARY (R308). -/
  | summary (place : Nat)
  /-- SKIP_IF (R104). -/
  | skipIf (place : Nat)
  /-- LAUNCH_GRAPH_LAUNCH (R111). -/
  | launchGraphLaunch (place : Nat)
  /-- LAUNCH_GRAPH_PUBLISH (R109). -/
  | launchGraphPublish (place : Nat)
  /-- LAUNCH_GRAPH_RETIRE (R113). -/
  | launchGraphRetire (place : Nat)
  /-- RUN_CMDBUF (R164). -/
  | runCmdbuf (place : Nat)
  /-- CMDBUF_TRANSLATED (R165). -/
  | cmdbufTranslated (place : Nat)
  /-- CHECK (R491). -/
  | check (place : Nat)
  /-- EGRESS (R431). -/
  | egress (place : Nat) (parity : Bool)
  /-- EXCHANGE (R464). -/
  | exchange (place : Nat)
  /-- ALL_TO_ALL (R466). -/
  | allToAll (place : Nat)
  /-- STEP_TOKEN_ISSUE (R469). -/
  | stepTokenIssue (place : Nat)
  /-- STEP_TOKEN_AWAIT (R469). -/
  | stepTokenAwait (place : Nat)
  /-- STEP_TOKEN_RESPOND (R469). -/
  | stepTokenRespond (place : Nat)
  /-- MEMORY_REQUEST (R384). -/
  | memoryRequest (request : MemReq) (upset : Upset) (parity : Bool)
  /-- ROW_REPAIR_DONE (R360). -/
  | rowRepairDone (stack : Nat)
  /-- ZERO_FILL_DONE (R386). -/
  | zeroFillDone (stack frame : Nat)
  /-- REQUEST_ISSUE (R343). -/
  | requestIssue (cycles : Nat)
  /-- PATROL_SCRUB (R353). -/
  | patrolScrub (stack index : Nat) (upset : Upset)
  /-- TEMPERATURE_SAMPLE (R354). -/
  | temperatureSample (stack celsius : Nat)
  /-- MEM_CLEAR_TEMP_MAX (R368). -/
  | memClearTempMax (stack : Nat)
  /-- MEM_SPARE_BASE_WRITE (R364). -/
  | memSpareBaseWrite (stack v : Nat)
  /-- FRAME_REMAP_WRITE (R365). -/
  | frameRemapWrite (stack entry v : Nat)
  /-- FRAME_COPY_DONE (R366). -/
  | frameCopyDone (stack entry : Nat)
  /-- SEG_ENABLE (R379). -/
  | segEnable (ctx seg v : Nat)
  /-- SEG_DISABLE (R380). -/
  | segDisable (ctx seg v : Nat)
  /-- SEG_DROP_DONE (R380). -/
  | segDropDone (ctx seg : Nat)
  /-- SEAT_SAVE (R402). -/
  | seatSave (seat ctx : Nat)
  /-- SEAT_RESTORE (R402). -/
  | seatRestore (seat ctx : Nat)
  /-- SEAT_RESET_CONTEXT (R402). -/
  | seatResetContext (seat ctx : Nat)
  /-- SEAT_RESET (R405). -/
  | seatReset (seat : Nat)
  /-- VF_FLR (R416). -/
  | vfFlr (seat : Nat)
  /-- SEAT_DRAINED (R372). -/
  | seatDrained (seat : Nat)
  /-- SCRUB_DONE (R406). -/
  | scrubDone (seat : Nat)
  /-- SLICE_EXPIRY (R392). -/
  | sliceExpiry (seat : Nat)
  /-- CONTEXT_QUIESCENT (R393). -/
  | contextQuiescent (seat : Nat)
  /-- SAVE_DONE (R400). -/
  | saveDone (seat : Nat)
  /-- RESTORE_DONE (R401). -/
  | restoreDone (seat : Nat)
  /-- WINDOW_ENABLE (R418). -/
  | windowEnable (window v : Nat)
  /-- WINDOW_DISABLE (R418). -/
  | windowDisable (window v : Nat)
  /-- HOST_CLASS_WRITE (R419). -/
  | hostClassWrite (path : HostPath) (addr : Nat) (bytes : List Byte)
  /-- HOST_CLASS_READ (R421). -/
  | hostClassRead (path : HostPath) (addr len : Nat)
  /-- LINK_TRAINED (R414). -/
  | linkTrained (speed width : Nat) (flit256 cxl : Bool)
  /-- DECODER_COMMIT (R417). -/
  | decoderCommit (hpaBase : Nat)
  /-- VF_ENABLE (R565). -/
  | vfEnable (busMaster : Nat)
  /-- MSIX_ENABLE (R565). -/
  | msixEnable (fn : Fn) (fnMask unmask : Bool)
  /-- PERST_ASSERT (R434). -/
  | perstAssert
  /-- HOT_RESET (R434). -/
  | hotReset
  /-- PF_FLR (R416). -/
  | pfFlr
  /-- DATA_LINK_DOWN (R434). -/
  | dataLinkDown
  /-- LINK_UP (R436). -/
  | linkUp
  /-- LOG_SLOT_READ (R439). -/
  | logSlotRead (fn : Fn) (slot : Nat)
  /-- IDENTIFY_MEMORY_DEVICE (R412). -/
  | identifyMemoryDevice
  /-- GET_SUPPORTED_LOGS (R412). -/
  | getSupportedLogs
  /-- GET_LOG (R412). -/
  | getLog
  /-- GET_EVENT_RECORDS (R412). -/
  | getEventRecords
  /-- CDAT_DOE_REQUEST (R412). -/
  | cdatDoeRequest
  /-- CABLE_INSERT (R447). -/
  | cableInsert (port : Nat)
  /-- CABLE_REMOVE (R447). -/
  | cableRemove (port : Nat)
  /-- CABLE_IDENTITY_READ (R445). -/
  | cableIdentityRead (port : Nat) (id : CableId)
  /-- LANE_LOCK (R447). -/
  | laneLock (port : Nat)
  /-- TRAINING_TIMEOUT (R447). -/
  | trainingTimeout (port : Nat)
  /-- LOCK_LOST (R447). -/
  | lockLost (port : Nat)
  /-- RETRAIN_TIMEOUT (R447). -/
  | retrainTimeout (port : Nat)
  /-- QLK_RETRAIN (R447). -/
  | qlkRetrain (port : Nat)
  /-- CAGE_OVERCURRENT (R582). -/
  | cageOvercurrent (port : Nat)
  /-- IDENT (R448). -/
  | ident (port seq cascade module : Nat)
  /-- NAK (R451). -/
  | nak (port ack : Nat)
  /-- CREDIT (R452). -/
  | credit (port seq dataCredits controlCredits : Nat)
  /-- CREDIT_RETURN_TIMER (R452). -/
  | creditReturnTimer (port : Nat)
  /-- EXCHANGE_MESSAGE (R459). -/
  | exchangeMessage (port : Nat) (m : QMessage)
  /-- A2A_BLOCK (R467). -/
  | a2aBlock (port : Nat) (m : QMessage)
  /-- TOKEN (R475). -/
  | token (port : Nat) (m : QMessage)
  /-- RESPONSE (R471). -/
  | response (port : Nat) (m : QMessage)
  /-- STATUS (R472). -/
  | status (port : Nat) (m : QMessage)
  /-- XACK (R464). -/
  | xack (port : Nat) (m : QMessage)
  /-- XNAK (R459). -/
  | xnak (port : Nat) (m : QMessage)
  /-- STATUS_TIMER (R472). -/
  | statusTimer
  /-- A2A_RESEND_TIMER (R467). -/
  | a2aResendTimer
  /-- QLK_ROUTE_WRITE (R456). -/
  | qlkRouteWrite (module v : Nat)
  /-- QLK_EXCLUDE_WRITE (R475). -/
  | qlkExcludeWrite (word v : Nat)
  /-- CORE_FAULT (R484). -/
  | coreFault (place core : Nat)
  /-- SRAM_DOUBLE_BIT_ERROR (R482). -/
  | sramDoubleBitError (stack : Nat) (table : SramTable) (index : Nat)
  /-- CHK_START (R493). -/
  | chkStart (unit v : Nat)
  /-- CHK_RUNNING_WRITE (R493). -/
  | chkRunningWrite (unit : Nat) (hi : Bool) (v : Nat)
  /-- CHK_COMMAND_DONE (R493). -/
  | chkCommandDone (unit : Nat)
  /-- TST_LOAD (R502). -/
  | tstLoad
  /-- PACK_COPY_DONE (R503). -/
  | packCopyDone (bytes : List Byte)
  /-- TST_VALIDATE (R504). -/
  | tstValidate
  /-- PACK_VALIDATION_DONE (R504). -/
  | packValidationDone
  /-- TST_START (R503). -/
  | tstStart
  /-- TST_STOP (R503). -/
  | tstStop
  /-- TST_DISCARD (R503). -/
  | tstDiscard
  /-- TST_CTRL_WRITE (R516). -/
  | tstCtrlWrite (v : Nat)
  /-- TEST_START (R509). -/
  | testStart (core : Nat)
  /-- TEST_DONE (R510). -/
  | testDone (core : Nat) (deviation : TestDeviation)
  /-- ARBITRATION_DONE (R511). -/
  | arbitrationDone (core : Nat) (deviation : TestDeviation)
  /-- TEST_ABANDON (R508). -/
  | testAbandon (cluster : Nat)
  /-- BUDGET_WINDOW (R507). -/
  | budgetWindow
  /-- POWER_SAMPLE (R521). -/
  | powerSample (millivolts watts : Nat) (temps : List Nat)
  /-- SUPPLY_RECOVERY (R519). -/
  | supplyRecovery
  /-- PWR_LIMIT_WRITE (R551). -/
  | pwrLimitWrite (v : Nat)
  /-- PWR_PEAK_CLEAR (R551). -/
  | pwrPeakClear
  /-- PWR_RESET_WARM (R534). -/
  | pwrResetWarm (v : Nat)
  /-- PWR_RESET_COLD (R534). -/
  | pwrResetCold (v : Nat)
  /-- WARM_RESET (R536). -/
  | warmReset
  /-- COLD_RESET (R535). -/
  | coldReset
  /-- OVERLAY_REBUILD_DONE (R251). -/
  | overlayRebuildDone
  /-- PWR_EN_ASSERT (R531). -/
  | pwrEnAssert (slotId : Nat)
  /-- PWR_EN_DEASSERT (R539). -/
  | pwrEnDeassert
  /-- FIRMWARE_BOOT (R542). -/
  | firmwareBoot
  /-- SELFTEST_DONE (R532). -/
  | selftestDone (failed : List Nat)
  /-- THERMAL_TRIP (R540). -/
  | thermalTrip (memory : Bool) (celsius : Nat)
  /-- CLK_QUARANTINE (R538). -/
  | clkQuarantine (v : Nat)
  /-- QUARANTINE_APPLY (R538). -/
  | quarantineApply
  /-- MESH_CLOCK_STOP (R530). -/
  | meshClockStop (stack : Nat)
  /-- SELF_REFRESH_ENTRY (R530). -/
  | selfRefreshEntry (group : Nat)
  /-- FW_STAGE (R545). -/
  | fwStage
  /-- FW_CLEAR (R544). -/
  | fwClear
  /-- FW_STAGE_COPY_DONE (R544). -/
  | fwStageCopyDone (bytes : List Byte)
  /-- FW_VERIFY_DONE (R544). -/
  | fwVerifyDone
  /-- FW_FLASH_WRITE_DONE (R544). -/
  | fwFlashWriteDone (ok : Bool)
  /-- PLDM_REQUEST_UPDATE (R546). -/
  | pldmRequestUpdate
  /-- PLDM_PASS_COMPONENT_TABLE (R546). -/
  | pldmPassComponentTable (component : Nat)
  /-- PLDM_UPDATE_COMPONENT (R546). -/
  | pldmUpdateComponent (component : Nat)
  /-- PLDM_ACTIVATE_FIRMWARE (R546). -/
  | pldmActivateFirmware
  /-- PLDM_GET_STATUS (R546). -/
  | pldmGetStatus
  /-- PLDM_CANCEL_UPDATE (R546). -/
  | pldmCancelUpdate
  /-- PLDM_PLATFORM_MONITORING (R546). -/
  | pldmPlatformMonitoring
  /-- GET_VERSION (R548). -/
  | getVersion (port : SpdmPort)
  /-- GET_CAPABILITIES (R548). -/
  | getCapabilities (port : SpdmPort)
  /-- NEGOTIATE_ALGORITHMS (R548). -/
  | negotiateAlgorithms (port : SpdmPort)
  /-- GET_DIGESTS (R548). -/
  | getDigests (port : SpdmPort)
  /-- GET_CERTIFICATE (R548). -/
  | getCertificate (port : SpdmPort) (offset length : Nat)
  /-- CHALLENGE (R548). -/
  | challenge (port : SpdmPort) (nonce : List Byte)
  /-- GET_MEASUREMENTS (R549). -/
  | getMeasurements (port : SpdmPort) (nonce : List Byte) (index : Nat)
  /-- SPDM_UNSUPPORTED_REQUEST (R548). -/
  | spdmUnsupportedRequest (port : SpdmPort) (code : Nat)
  /-- ATTENTION_TICK (R558). -/
  | attentionTick
  /-- ATN_REARM (R564). -/
  | atnRearm
  /-- SEAT_ATN_REARM (R569). -/
  | seatAtnRearm (seat : Nat)
  /-- JTAG_TRST (R577). -/
  | jtagTrst (low : Bool)
  /-- JTAG_BYPASS (R577). -/
  | jtagBypass
  /-- JTAG_IDCODE (R578). -/
  | jtagIdcode
  /-- JTAG_SAMPLE_PRELOAD (R577). -/
  | jtagSamplePreload
  /-- JTAG_EXTEST (R579). -/
  | jtagExtest
  /-- JTAG_CLAMP (R579). -/
  | jtagClamp
  /-- JTAG_HIGHZ (R579). -/
  | jtagHighz
  /-- FLIT_DISCARD (R451). -/
  | flitDiscard (port : Nat) (crcBad : Bool)
  /-- IDLE (R450). -/
  | idle (port ack : Nat)
  /-- SELF_REFRESH_EXIT (R530). -/
  | selfRefreshExit (group : Nat)
  /-- MESH_CLOCK_START (R530). -/
  | meshClockStart (stack : Nat)
  /-- DOMAIN_POWER_DOWN_DONE (R526). -/
  | domainPowerDownDone (domain : Nat)
  deriving DecidableEq, Repr

end Sys2Proof
end

