-- ==== Sys2Proof/Decode.lean ====
section
/-! DEFINITION. The command that a word spells by the bits of spec/opcode_table.json. The table gives no row a bit
pattern: a command of the block is an event, not a word, so no word spells one. (An operation's 64-byte entry is read by
FETCH_ROUND from ring memory, in Machine/Fetch.lean.) -/

namespace Sys2Proof

/-- No row of the table has bits, so no word of any length spells a command. -/
def decodeTableWord (_nbits _w : Nat) : Option Instr := none

end Sys2Proof
end

