-- ==== Sys2Proof/Machine/Bits.lean ====
section
/-! DEFINITION. Byte strings: little-endian fields (R15), the rotation of the check values (R490), and the checks of the
device: the cyclic redundancy checks of R489 and the Reed–Solomon code of R349. -/

namespace Sys2Proof.Machine

/-- The number that bytes hold little-endian (R15). -/
def leNat : List Byte → Nat
  | [] => 0
  | b :: t => b.toNat + 256 * leNat t

/-- The `w` bytes that hold `n` little-endian (R15). -/
def leBytes : Nat → Nat → List Byte
  | 0, _ => []
  | w + 1, n => BitVec.ofNat 8 n :: leBytes w (n / 256)

/-- The number that bytes hold most significant first (R45). -/
def beNat (bs : List Byte) : Nat := bs.foldl (fun a b => 256 * a + b.toNat) 0

/-- `n` bytes from offset `off`; bytes past the end read 0. -/
def slice (bs : List Byte) (off n : Nat) : List Byte :=
  let t := (bs.drop off).take n
  t ++ List.replicate (n - t.length) 0

/-- The little-endian field of `w` bytes at offset `off`. -/
def field (bs : List Byte) (off w : Nat) : Nat := leNat (slice bs off w)

/-- Bytes with those from `off` on replaced by `new`. -/
def splice (bs : List Byte) (off : Nat) (new : List Byte) : List Byte :=
  slice bs 0 off ++ new ++ bs.drop (off + new.length)

/-- Pads with zero bytes to a multiple of `k`. -/
def padTo (bs : List Byte) (k : Nat) : List Byte := bs ++ List.replicate (ceilDiv bs.length k * k - bs.length) 0

/-- rotate_left on 32 bits by 16 places (R490). -/
def rot16 (x : Nat) : Nat := (x % 2 ^ 16) * 2 ^ 16 + x / 2 ^ 16 % 2 ^ 16

/-- The signed value of a byte. -/
def sbyte (x : Nat) : Int := if x % 256 < 128 then (x % 256 : Int) else (x % 256 : Int) - 256

/-- Repeats a function. -/
def iter {α : Type} (f : α → α) : Nat → α → α
  | 0, x => x
  | n + 1, x => iter f n (f x)

/-- A cyclic redundancy check of the device: width, polynomial (reflected form where it is reflected), final XOR (R489). -/
structure CrcKind where
  width : Nat
  poly : Nat
  reflected : Bool
  final : Nat
  deriving DecidableEq, Repr

/-- Selectors 0 to 3 (R489). -/
def crcKind : Nat → CrcKind
  | 0 => ⟨32, 0x82F63B78, true, 0xFFFFFFFF⟩
  | 1 => ⟨32, 0xEDB88320, true, 0xFFFFFFFF⟩
  | 2 => ⟨64, 0x42F0E1EBA9EA3693, false, 0⟩
  | _ => ⟨16, 0x1021, false, 0⟩

/-- The register state after one byte (R489). -/
def CrcKind.byte (k : CrcKind) (r : Nat) (b : Byte) : Nat :=
  if k.reflected then
    iter (fun r => if r % 2 = 1 then r / 2 ^^^ k.poly else r / 2) 8 (r ^^^ b.toNat)
  else
    iter (fun r => if r / 2 ^ (k.width - 1) = 1 then (2 * r) % 2 ^ k.width ^^^ k.poly else (2 * r) % 2 ^ k.width) 8
      (r ^^^ (b.toNat * 2 ^ (k.width - 8)))

/-- The running value after bytes in ascending address order (R489). -/
def CrcKind.run (k : CrcKind) (r : Nat) (bs : List Byte) : Nat := bs.foldl k.byte r

/-- The fold of a place and a sequence (R490). -/
def foldOf (place seq : Nat) : Nat := place ^^^ rot16 seq

/-- The initial value of a check (R490). -/
def CrcKind.init (k : CrcKind) (seed fold : Nat) : Nat := (seed ^^^ fold) % 2 ^ k.width

/-- CRC-32C with a seed of all ones and a fold (R87, R134, R226, R454). -/
def crc32c (fold : Nat) (bs : List Byte) : Nat :=
  (crcKind 0).run ((crcKind 0).init 0xFFFFFFFF fold) bs ^^^ 0xFFFFFFFF

/-- CRC-64/ECMA-182 from 0 (R46). -/
def crc64 (bs : List Byte) : Nat := (crcKind 2).run 0 bs

/-! The Reed–Solomon code of the CORRECT class over GF(2^8) (R349). -/

/-- Multiplication by α in the field of polynomial 0x11D. -/
def gfDouble (x : Nat) : Nat := if x < 128 then 2 * x else (2 * x) ^^^ 0x11D

/-- Product in the field. -/
def gfMul (x y : Nat) : Nat :=
  ((List.range 8).foldl (fun (p : Nat × Nat) i => (if y.testBit i then p.1 ^^^ p.2 else p.1, gfDouble p.2)) (0, x)).1

/-- Power in the field. -/
def gfPow (x : Nat) : Nat → Nat
  | 0 => 1
  | n + 1 => gfMul x (gfPow x n)

/-- Inverse in the field, 0 of 0. -/
def gfInv (x : Nat) : Nat := gfPow x 254

/-- The locator of codeword symbol `i` of 72: α^(71 − i). -/
def rsLocator (i : Nat) : Nat := gfPow 2 (71 - i)

/-- Syndrome `j` of an error pattern of (symbol, value) pairs. -/
def rsSyndrome (es : List (Nat × Nat)) (j : Nat) : Nat :=
  es.foldl (fun s e => s ^^^ gfMul e.2 (gfPow (rsLocator e.1) j)) 0

/-- The four syndromes. -/
def rsSyndromes (es : List (Nat × Nat)) : List Nat := (List.range 4).map (rsSyndrome es)

/-- The error pattern of at most two symbols that has the syndromes, if there is one. -/
def rsDecode (s : List Nat) : Option (List (Nat × Nat)) :=
  if s.all (· == 0) then some []
  else
    let s0 := s.getD 0 0
    let s1 := s.getD 1 0
    match (List.range 72).find? fun i => rsSyndromes [(i, s0)] == s with
    | some i => some [(i, s0)]
    | none =>
      (List.range 72).findSome? fun i => (List.range i).findSome? fun j =>
        let yi := gfMul (s1 ^^^ gfMul s0 (rsLocator j)) (gfInv (rsLocator i ^^^ rsLocator j))
        let es := [(j, s0 ^^^ yi), (i, yi)]
        if rsSyndromes es == s then some es else none

end Sys2Proof.Machine
end

