-- ==== Sys2Proof/Config.lean ====
section
/-! DEFINITION. What an implementation fixes and the manual does not give, and the free values: constants without a
body, so that no proof can see a value of them (logs 5, 7, 8, 10 to 13). -/

namespace Sys2Proof.Config

/-- A byte of a frame whose placement changed at a swap point (R332), by loss stamp and address (log 5). -/
opaque lostByte : Nat → Nat → Byte

/-- A count that the manual leaves to time, by free-value counter (R408, logs 11 and 25). -/
opaque freeNat : Nat → Nat

/-- How the die spreads the chunks of an interleaved frame (stack, frame) over its places, and in which DRAM row of a pseudo-channel (stack,
pseudo-channel) each of its rows lies: any permutation (R331, log 10). -/
opaque spread : Nat → Nat → Equiv.Perm (Fin 64)
opaque dramRow : Nat → Nat → Equiv.Perm (Fin 1048576)

/-- The native operations that a TVK-2200 record translates to, as opcode, flags and descriptor words, none where it has
no translation (R165, R166, log 12). -/
opaque translate : List Byte → Option (List (List Nat))

/-- The location that a front-end reads a row with replicas from, by the operation's place, window and row: that of the shortest request queue
(R205, log 32). -/
opaque replicaChoice : Nat → Nat → Nat → Nat

/-- The counter of the overlay filter that hash function i of a (table, row) names (R229, log 47). -/
opaque filterHash : Nat → Nat → Nat → Nat

/-- Boot ROM version, stepping, serial number (R552, R556, log 7). -/
opaque bootRom : Nat
opaque stepping : Nat
opaque serial : Nat

/-- The firmware image that module flash holds at reset (R541, log 8). -/
opaque fwVersion : Nat
opaque fwSecurity : Nat
opaque fwDigest : List Byte

/-- SHA-512 of the vendor root key in mask ROM (R542) and of the Calquine pack key that the firmware carries (R496). -/
opaque rootKeyHash : List Byte
opaque packKeyHash : List Byte

/-- The certificate chain of slot 0 for a running firmware digest and security version (R547, log 13). -/
opaque certificateChain : List Byte → Nat → List Byte

/-- The signature of the alias key of a firmware digest over a transcript (R547, R548, log 13). -/
opaque aliasSign : List Byte → List Byte → List Byte

/-- SHA-384 of a byte string (R548, log 13). -/
opaque sha384 : List Byte → List Byte

/-- The fixed bytes of an answer whose format another standard gives, by request name (R412, R546, R548, log 13). -/
opaque answer : Nat → List Byte

/-- The payload of a PLDM GetStatus answer for MGT_FW_STATUS state and error, and of a platform-monitoring answer for the
readings listed (R546, log 13). -/
opaque pldmStatus : Nat → Nat → List Byte
opaque pldmMonitor : List Nat → List Byte

/-- The code of an element of an integer format that TILE_STORE writes with a shift that is not 0, by format, code and shift: the manual
states none (R86, R256, log 26). -/
opaque unstatedCode : Nat → Nat → Int → Nat

end Sys2Proof.Config
end

