-- ==== Sys2Proof/Machine/State.lean ====
section
/-! DEFINITION. The state of the TVK-4880: every register, buffer, table and pin that the manual gives it, plain
data throughout, and the queue of commands that wait. A docstring gives what a field is, its width in bits (W=),
the rule that names it and its value at reset. -/

namespace Sys2Proof.Machine

/-! ## Rings, slots and the scoreboard (04) -/

/-- Where an operation of the scoreboard stands: not started, started, its work done, retired (R118, R159). -/
inductive Phase where
  | waiting | running | finished | retired
  deriving DecidableEq, Repr

/-- A first offender (R274). -/
structure Offender where
  row : Nat
  col : Nat
  kblock : Nat
  deriving DecidableEq, Repr

/-- A tile that a consumer has received on operand `operand` (R89 to R91); `scale` is the paired scale tile. -/
structure Arrived where
  operand : Nat
  seq : Nat
  tile : Tile
  scale : Option Tile
  deriving DecidableEq, Repr

/-- A stream operand whose consumer drains (R91) or counts unplaced tiles (R591). -/
structure StreamSt where
  operand : Nat
  received : Nat := 0
  draining : Bool := false
  deriving DecidableEq, Repr

/-- A memory write that waits for its operation to retire: context virtual address and bytes. -/
structure PendingWrite where
  addr : Nat
  bytes : List Byte
  deriving DecidableEq, Repr

/-- An operation of a launch's body or of a command buffer (R112, R164): the operation, its payload, the index that an exception record
shows for it (R275: of its body entry, or of the record that it translates), and the records that it waits for (R165). -/
structure BodyOp where
  op : OpWord
  payload : Option Payload := none
  index : Nat := 0
  needs : List Nat := []
  deriving DecidableEq, Repr

/-- A result that the home cores of a widening pair's partner keep until its QUANTIZE retires (R321): codes by row, poison by row and
column block. -/
structure KeptResult where
  codes : List (List Nat)
  poison : List (List Bool)
  deriving DecidableEq, Repr

/-- A place of the scoreboard (R38, R143): one operation in flight. -/
structure Place where
  /-- Place number, given in the order of taking. -/
  id : Nat
  ring : Nat
  slot : Nat
  seat : Nat
  ctx : Nat
  /-- SEQUENCE of its operation entry (R127). -/
  seq : Nat
  op : OpWord
  /-- Inline or mailbox payload (R149). -/
  payload : Option Payload := none
  /-- A check of R101, R136 or R149 failed: it completes with BAD_DESCRIPTOR. -/
  bad : Bool := false
  /-- SKIP_IF covers it (R106). -/
  skipped : Bool := false
  phase : Phase := .waiting
  status : Status := .ok
  flags : Flags := {}
  offender : Option Offender := none
  /-- Body position of the operation whose offender a launch shows, and the index that the record shows for it (R275). -/
  offenderOp : Option Nat := none
  offenderIx : Nat := 0
  /-- Body index of the operation whose status a launch shows (R112). -/
  statusIx : Option Nat := none
  /-- Fast-cycle time of its start and of its retirement (R156, R152). -/
  start : Nat := 0
  stop : Nat := 0
  /-- Epoch pinned by the ring at its start (R152). -/
  epoch : Option Nat := none
  /-- The bytes DEST receives at retirement (R100). -/
  dest : Option PendingWrite := none
  /-- SUMn written when a SUMMARY retires (R308). -/
  summary : Option (Nat × Nat) := none
  /-- Stream tiles received (R89). -/
  arrived : List Arrived := []
  streams : List StreamSt := []
  /-- Tiles produced and not yet sent for want of credits (R92): a core operation's stand in the tile buffers of their assemblers (R293). -/
  unsent : List Tile := []
  /-- The launch that it is a body operation of, and its index in the body (R112). -/
  parent : Option Nat := none
  bodyIx : Nat := 0
  /-- The index that an exception record shows for it (R275), and the records of its buffer that it waits for (R165). -/
  shownIx : Nat := 0
  needs : List Nat := []
  /-- The acquire flag of the launch that it belongs to (R479). -/
  acquire : Bool := false
  /-- Body operations of a launch or command buffer that have no place yet. -/
  body : List BodyOp := []
  bodyNext : Nat := 0
  /-- Body operations that a SKIP_IF of the body still skips as they take places (R106). -/
  bodySkip : Nat := 0
  /-- Graph version a launch pins (R111). -/
  pinned : Option (Nat × Nat) := none
  /-- The widening partner of a QUANTIZE, and what the pair keeps (R319 to R321). -/
  partner : Option Nat := none
  kept : List Tile := []
  exceeded : Nat := 0
  /-- The result of the partner's first pass (R321). -/
  result : Option KeptResult := none
  /-- A core of it holds its parts for a full combine buffer, or has gone on (R291). -/
  combineHeld : Bool := false
  combineFreed : Bool := false
  /-- The read to the host of a VISIBLE fence is on its way (R124). -/
  hostRead : Bool := false
  /-- Core whose fault started a recovery re-run in this operation (R484 to R486). -/
  reruns : List Nat := []
  /-- Cores whose second fault in this operation poisons output, each with the free-value counter that tells how far the core had
  come (R486). -/
  failed : List (Nat × Nat) := []
  /-- The excursions the operation met (R389), and the memory stacks that it has read or written (R357). -/
  excursions : Excursions := {}
  touched : List Nat := []
  /-- It waits on memory, a trick, a peer or the host: the reason SLT_STALL shows (R163). -/
  stall : Stall := .none
  /-- Trick table entry that it works on (R214). -/
  trick : Option Nat := none
  /-- Messages sent and not yet acknowledged: (peer, XSEQ); blocks still to send: (peer, index) (R460, R464, R467). -/
  unacked : List (Nat × Nat) := []
  unsentMsgs : List (Nat × Nat) := []
  /-- Collective number of an ALL_TO_ALL, once it has started (R467). -/
  coll : Option Nat := none
  /-- Rows of a PREFETCH_ROWS that have not landed: row and number of positions (R199, R200). -/
  prefetch : List (Nat × Nat) := []
  /-- It is a PREFETCH_ROWS that was cancelled: the rows whose reads had been issued still land (R203). -/
  cancelled : Bool := false
  deriving DecidableEq, Repr

/-- Exception record of a ring (R275, R279). -/
structure ExcRec where
  valid : Bool := false
  opcode : Nat := 0
  context : Nat := 0
  seq : Nat := 0
  row : Nat := 0
  col : Nat := 0
  kblock : Nat := 0
  opIndex : Nat := 0
  inBody : Bool := false
  deriving DecidableEq, Repr

/-- The state of one ring (R126 to R130, R167). -/
structure Ring where
  /-- RING_STATE.STATE. W=3. R128. Reset 0. -/
  state : RingState := .inactive
  /-- GENERATION. W=16. R130. Reset 0. -/
  generation : Nat := 0
  /-- TAIL. W=32. R126. Reset 0. -/
  tail : Nat := 0
  /-- FETCHED. W=32. R126. Reset 0. -/
  fetched : Nat := 0
  /-- COMPLETED. W=32. R126. Reset 0. -/
  completed : Nat := 0
  /-- CONSUMED. W=32. R126. Reset 0. -/
  consumed : Nat := 0
  /-- RING_MODE.SMALL_PATH. W=1. R170. Reset 0. -/
  smallPath : Bool := false
  /-- RING_MODE.NOTIFY. W=2. R170. Reset 0. -/
  notify : Nat := 0
  /-- RING_MODE.DEVICE_APPEND. W=1. R170. Reset 0. -/
  append : Bool := false
  /-- RNG_STALE. W=32. R167. Reset 0. -/
  stale : Nat := 0
  /-- RNG_DB_ERR. W=32. R167. Reset 0. -/
  dbErr : Nat := 0
  /-- The completion ring is being zeroed and nothing is fetched. W=1. R130. Reset 0. -/
  zeroing : Bool := false
  /-- Last value accepted at the submission doorbell. W=64. R137. Reset 0. -/
  dbSubmit : Nat := 0
  /-- Last value accepted at the completion doorbell. W=64. R137. Reset 0. -/
  dbComplete : Nat := 0
  /-- How often the entry that the ring waits for was found stale: 0 not waiting, 3 both re-reads failed. W=2. R145. Reset 0. -/
  staleReads : Nat := 0
  /-- The count of that entry. W=32. R145. Reset 0. -/
  staleAt : Nat := 0
  /-- Operations taken. W=32. R142. Reset 0. -/
  taken : Nat := 0
  /-- Operations still to be skipped as they arrive. W=12. R106. Reset 0. -/
  skip : Nat := 0
  /-- Pinned epoch. W=64. R234. Reset none. -/
  pin : Option Nat := none
  /-- Fast-cycle time of the first operation of the step that runs. W=52. R388. Reset none. -/
  stepStart : Option Nat := none
  /-- A step has begun: an operation was taken since the last step-ending operation was taken. W=1. R387. Reset 0. -/
  inStep : Bool := false
  /-- Excursions of the step. W=4. R389. Reset 0. -/
  excursions : Excursions := {}
  /-- Memory stacks that the step has read or written. W=12. R357. Reset none. -/
  touched : List Nat := []
  /-- Exception record. W=256. R279. Reset 0. -/
  exc : ExcRec := {}
  /-- SEAT_QNT_CRUSHED. W=32. R329. Reset 0. -/
  crushed : Nat := 0
  /-- SEAT_QNT_WIDENED. W=32. R329. Reset 0. -/
  widened : Nat := 0
  /-- SEAT_QNT_CLAMPED. W=32. R329. Reset 0. -/
  clamped : Nat := 0
  /-- Completion log, last 256 entries by slot. W=65536. R438. Reset empty. -/
  log : SMap (List Byte) := []
  deriving DecidableEq, Repr

/-- The state of one fetch slot (R140 to R147, R162, R169). -/
structure Slot where
  /-- The slot is idle. W=1. R147. Reset 1. -/
  idle : Bool := true
  /-- SLT_STALL.REASON. W=8. R163. Reset 1. -/
  stall : Stall := .idle
  /-- SLT_STALL.RING. W=12. R169. Reset 0. -/
  stallRing : Nat := 0
  /-- OPS_FETCHED. W=64. R162. Reset 0. -/
  opsFetched : Nat := 0
  /-- OPS_RETIRED. W=64. R162. Reset 0. -/
  opsRetired : Nat := 0
  /-- TILES_MOVED. W=64. R162. Reset 0. -/
  tiles : Nat := 0
  /-- BYTES_GATHERED. W=64. R162. Reset 0. -/
  bytes : Nat := 0
  /-- SLT_RECHECK.PERIOD. W=17. R169. Reset 4096. -/
  recheck : Nat := 4096
  deriving DecidableEq, Repr

/-- A tile in flight; that of a widening QUANTIZE is for its partner alone (R321). -/
structure Sent where
  tile : Tile
  only : Option Nat := none
  deriving DecidableEq, Repr

/-- A tile route (R52, R92). -/
structure Route where
  spec : RouteRec := {}
  /-- Credits that the producer holds. W=11. R92. Reset none (no route at reset). -/
  credits : Nat := 0
  /-- Tiles in flight, oldest first. R93. Reset none. -/
  queue : List Sent := []
  /-- Tiles accepted whose credit the consumer has not returned. W=11. R92. Reset none. -/
  unread : Nat := 0
  deriving DecidableEq, Repr

/-! ## Seats and contexts (11) -/

/-- One segment (R377, R410). -/
structure Seg where
  /-- SEG_VBASE. W=48. R410. Reset 0. -/
  vbase : Nat := 0
  /-- SEG_PBASE. W=40. R410. Reset 0. -/
  pbase : Nat := 0
  /-- SEG_LENGTH. W=21. R410. Reset 0. -/
  length : Nat := 0
  /-- SEG_ATTR. W=10. R410. Reset 0. -/
  enable : Bool := false
  read : Bool := false
  write : Bool := false
  detect : Bool := false
  hint : Nat := 0
  uses : Nat := 0
  /-- SEG_STATUS.ERR. W=3. R379. Reset 0. -/
  err : Nat := 0
  /-- SEG_STATUS.DROPPING. W=1. R380. Reset 0. -/
  dropping : Bool := false
  deriving DecidableEq, Repr

/-- A bypass range (R122). -/
structure Bypass where
  addr : Nat
  length : Nat
  deriving DecidableEq, Repr

/-- Counters of a context (R408). -/
structure Meter where
  /-- CYCLES. W=64. R408. Reset 0 after cold reset. -/
  cycles : Nat := 0
  /-- READ_BYTES. W=64. R408. Reset 0 after cold reset. -/
  read : Nat := 0
  /-- WRITE_BYTES. W=64. R408. Reset 0 after cold reset. -/
  write : Nat := 0
  /-- REMOTE_BYTES. W=64. R408. Reset 0 after cold reset. -/
  remote : Nat := 0
  /-- ROWS. W=64. R408. Reset 0 after cold reset. -/
  rows : Nat := 0
  /-- EGRESS_BYTES. W=64. R408. Reset 0 after cold reset. -/
  egress : Nat := 0
  /-- LOADED. W=64. R408. Reset 0 after cold reset. -/
  loaded : Nat := 0
  deriving DecidableEq, Repr

/-- The state of one context, device-wide index seat × 16 + context (R14, R373). -/
structure Ctx where
  /-- Segments 0 to 7. W=8 segments. R377. Reset disabled. -/
  segs : SMap Seg := []
  /-- SUM0 to SUM15. W=16 of 64. R103. Reset 0. -/
  sums : SMap Nat := []
  /-- Bypass ranges, at most 4. W=4 of 96. R122. Reset none. -/
  bypass : List Bypass := []
  /-- SEAT_SAVE_STATE field. W=2. R409. Reset 0. -/
  save : SaveState := .none
  /-- SAVE_COUNT of its last save. W=64. R399. Reset 0. -/
  saveCount : Nat := 0
  /-- SEAT_SLICE_DEBT. W=32. R395. Reset 0. -/
  debt : Nat := 0
  /-- SEAT_SLICE_OVERRUN_MAX. W=32. R395. Reset 0. -/
  overrunMax : Nat := 0
  /-- SEAT_SLICES. W=32. R409. Reset 0. -/
  slices : Nat := 0
  /-- Metering counters. W=7 of 64. R408. Reset 0 after cold reset. -/
  meter : Meter := {}
  /-- Number of its next ALL_TO_ALL. W=32. R467. Reset 0. -/
  collectives : Nat := 0
  /-- Blocks arrived for collectives not retired: (collective number, count). W=list. R467. Reset none. -/
  blocks : SMap Nat := []
  deriving DecidableEq, Repr

/-- One graph version of a seat's store (R109). -/
structure Graph where
  graph : Nat
  version : Nat
  body : List (OpWord × Option Payload)
  entries : Nat
  /-- Launchable: not from before a RETIRE (R114). -/
  live : Bool
  /-- Slow cycle in which its PUBLISH retired (R111). -/
  since : Nat
  deriving DecidableEq, Repr

/-- The state of one seat (R371, R409, R411). -/
structure Seat where
  /-- SEAT_STATUS.STATE. W=3. R371. Reset 0. -/
  state : SeatState := .unused
  /-- LOADED with LOADED_VALID. W=5. R409. Reset none. -/
  loaded : Option Nat := none
  /-- The context chosen to be loaded next. W=4. R392. Reset none. -/
  next : Option Nat := none
  /-- Slow-cycle count at which the slice ends. W=48. R392. Reset 0. -/
  sliceEnd : Nat := 0
  /-- The slice has expired and the loaded context stops; slow count of the expiry. W=48. R393. Reset none. -/
  expired : Option Nat := none
  /-- Context whose save (false) or restore (true) is running. W=5. R400. Reset none. -/
  moving : Option (Nat × Bool) := none
  /-- That restore only checks the slot, as SEAT_CMD RESTORE of a time-shared seat does (R402). W=1. R402. Reset 0. -/
  checking : Bool := false
  /-- SEAT_FAULT_INFO. W=11. R409. Reset 0. -/
  faultCtx : Nat := 0
  faultKind : Nat := 0
  faultSeg : Nat := 0
  /-- SEAT_FAULT_ADDR. W=48. R409. Reset 0. -/
  faultAddr : Nat := 0
  /-- SEAT_TAG_REJECTS. W=32. R409. Reset 0. -/
  tagRejects : Nat := 0
  /-- SEAT_RING_NOTIFY. W=64. R170. Reset 0. -/
  notify : Nat := 0
  /-- SEAT_ARITH_ATN_RING. W=6. R279. Reset 0. -/
  arithRing : Nat := 0
  /-- SEAT_CHK_ATN_RING. W=6. R517. Reset 0. -/
  chkRing : Nat := 0
  /-- SEAT_LOG_SELECT. W=6. R441. Reset 0. -/
  logSelect : Nat := 0
  /-- Latched entry of the VF log window and of what slot. W=256. R439. Reset none. -/
  logLatch : Option (Nat × List Byte) := none
  /-- Mailbox page. W=32768. R151. Reset zeros. -/
  mailbox : List Host.Cell := []
  /-- Graph store versions. W=list. R108. Reset none. -/
  graphs : List Graph := []
  /-- Highest version number per graph id. W=256 of 32. R109. Reset 0. -/
  graphCount : SMap Nat := []
  /-- Handoffs since cold reset. W=64. R550. Reset 0. -/
  handoffs : Nat := 0
  /-- The scrub that runs makes the seat UNUSED at its end. W=1. R372. Reset 0. -/
  leaving : Bool := false
  deriving DecidableEq, Repr

/-! ## Memory and caches (10) -/

/-- What covers frames of a stack (R383): the layout area, a staging area, a spare pool or a save segment (DEVICE), a table
or default row (SEAT), or a segment, ring or completion ring of a context (CONTEXT). -/
structure Cover where
  first : Nat
  count : Nat
  kind : FrameKind
  tag : Nat
  deriving DecidableEq, Repr

/-- Frames pinned to a pseudo-channel (R332). -/
structure Pin where
  first : Nat
  count : Nat
  pc : Nat
  deriving DecidableEq, Repr

/-- What a frame holds. KIND and TAG of its frame map entry follow from what covers it (R383). -/
structure Frame where
  /-- ZERO_PENDING of the frame map. W=1. R382. Reset 1. -/
  zero : Bool := true
  /-- Stamp of the loss of its contents, 0 for none. W=own. R332. Reset 0. -/
  lost : Nat := 0
  deriving DecidableEq, Repr

/-- A remap entry (R365, R368). -/
structure Remap where
  /-- MEM_FRAME_REMAP.FRAME. W=20. R368. Reset 0. -/
  frame : Nat := 0
  /-- MEM_FRAME_REMAP.STATE. W=2. R368. Reset 0. -/
  state : RemapState := .free
  deriving DecidableEq, Repr

/-- A request held at its die (R356): whether its data is poisoned (R352), what a re-read of its atom finds (R350), and whether it is the
last of a host-class write, whose completion it brings (R422). -/
structure HeldReq where
  req : MemReq
  poison : Bool := false
  again : Option (List (Nat × Byte)) := none
  reply : Bool := false
  deriving DecidableEq, Repr

/-- What a memory stack's registers and tables hold (R354 to R368). -/
structure Stack where
  /-- MEM_STATUS.THERMAL. W=3. R368. Reset 0. -/
  thermal : Thermal := .normal
  /-- Slow count of its last return to NORMAL: the model's own record for R357. W=48. R357. Reset none. -/
  cooled : Option Nat := none
  /-- MEM_STATUS.TEMP. W=8. R368. Reset 0. -/
  temp : Nat := 0
  /-- MEM_STATUS.TEMP_MAX. W=8. R368. Reset 0. -/
  tempMax : Nat := 0
  /-- MEM_CE_COUNT. W=32. R368. Reset 0. -/
  ce : Nat := 0
  /-- MEM_UE_COUNT. W=32. R368. Reset 0. -/
  ue : Nat := 0
  /-- MEM_DETECT_RETRY. W=32. R368. Reset 0. -/
  retry : Nat := 0
  /-- MEM_POISON_READS. W=32. R368. Reset 0. -/
  poisonReads : Nat := 0
  /-- MEM_REPAIRS.ROWS. W=16. R368. Reset 0. -/
  repairs : Nat := 0
  /-- MEM_SPARE_BASE. W=20. R368. Reset 0xE_DC00 on M0, 0xE_E000 on M1 to M11 (held as the difference from it). -/
  spareBase : Option Nat := none
  /-- MEM_FAULT_ADDR. W=36. R368. Reset 0. -/
  faultAddr : Nat := 0
  /-- MEM_FAULT_LOC. W=30. R368. Reset 0. -/
  faultPc : Nat := 0
  faultBank : Nat := 0
  faultRow : Nat := 0
  faultSpare : Option Nat := none
  /-- MEM_FAULT_INFO. W=16. R368. Reset 0. -/
  faultKind : Nat := 0
  faultSeat : Nat := 0
  faultHost : Bool := false
  /-- Suspect rows: DRAM row key to corrected reads, at most 256. W=table. R358. Reset empty. -/
  suspects : SMap Nat := []
  /-- Repair table: DRAM row key to the spare row in its place. W=table. R360. Reset empty. -/
  repair : SMap Nat := []
  /-- Spare rows used in each bank. W=4 per bank. R359. Reset 0. -/
  sparesUsed : SMap Nat := []
  /-- Rows that met R359 with no spare left (R362). W=table. R362. Reset empty. -/
  exhausted : List Nat := []
  /-- Row and bank under repair, with the requests held. W=own. R360. Reset none. -/
  repairing : List (Nat × Nat) := []
  /-- Remap entries. W=8192 of 30. R368. Reset 0. -/
  remap : SMap Remap := []
  /-- ZERO_PENDING and loss marks of the frames. W=1048576 of 1. R382. Reset ZERO_PENDING. -/
  frames : SMap Frame := []
  /-- KIND and TAG of the frame map, as what covers the frames. W=1048576 of 18. R382. Reset none: FREE. -/
  covers : List Cover := []
  /-- Frames that are being zero-filled. W=own. R386. Reset none. -/
  filling : List Nat := []
  /-- Frames pinned to a pseudo-channel at the last swap point, spare frames apart. W=table. R332. Reset none. -/
  pins : List Pin := []
  /-- First frame of the spare pool that the last swap point pinned. W=20. R332. Reset none. -/
  pinSpare : Option Nat := none
  /-- Requests held at the die, oldest first. W=list. R356. Reset none. -/
  held : List HeldReq := []
  /-- The memory group is in self-refresh. W=1. R530. Reset 0. -/
  selfRefresh : Bool := false
  /-- An SRAM table entry holds an uncorrectable error: (table, index). W=list. R482. Reset none. -/
  sramBad : List (SramTable × Nat) := []
  deriving DecidableEq, Repr

/-- The kind of a stream-cache line (R335, R336). -/
inductive LineKind where
  | normal | keep | lastUse (n : Nat) | reclaimable
  deriving DecidableEq, Repr

/-- A stream-cache line (R28, R334). -/
structure Line where
  /-- Compute stack that holds it. -/
  stack : Nat
  tag : Nat
  /-- Device physical address shifted right by 6 (R334). -/
  atom : Nat
  data : List Byte
  dirty : Bool
  poison : Bool
  kind : LineKind
  /-- Time of its last use, for the replacement order (R337). -/
  stamp : Nat
  /-- Table and epoch of a prefetched row line (R201). -/
  row : Option (Nat × Nat)
  deriving DecidableEq, Repr

/-- A memory: the bytes, the poison and the upsets of the twelve stacks. -/
structure Mem where
  /-- The bytes of M0 to M11 at device physical addresses. W=768 GiB. R16. Reset nothing listed: zeros (R386). -/
  cells : List Host.Cell := []
  /-- Atoms stored as stored poison, by atom number. W=1 per atom. R351. Reset none. -/
  poison : List Nat := []
  /-- Symbol errors of atoms. W=own. R349. Reset none. -/
  upsets : SMap (List (Nat × Byte)) := []
  /-- The twelve stacks. W=12 records. R24. Reset as their fields. -/
  dies : SMap Stack := []
  deriving DecidableEq, Repr

/-- The stream caches (R334 to R339, R369). -/
structure Cache where
  /-- Lines of the four caches. W=4 of 3145728 lines. R334. Reset none. -/
  lines : List Line := []
  /-- Clock of the replacement order. W=own. R337. Reset 0. -/
  clock : Nat := 0
  /-- MEM_SC_KEEP_DENIED of C0 to C3. W=32. R369. Reset 0. -/
  keepDenied : SMap Nat := []
  /-- The four most recent commit epochs of each table, with whether earlier ones exist. W=4 of 64 per table. R201. Reset none. -/
  commits : SMap (List Nat) := []
  deriving DecidableEq, Repr

/-- Who waits until a request has issued (log 35): a row of a PREFETCH_ROWS, an operation, the fetcher of a slot, or nobody (write-backs,
settling, completion entries). -/
inductive Charger where
  | row (place row : Nat)
  | work (place : Nat)
  | fetch (slot : Nat)
  | loose
  deriving DecidableEq, Repr

/-- A request that waits on its buckets (R343) and what it charges. -/
structure Charge where
  who : Charger
  /-- READ or WRITE bucket of a pseudo-channel, or a REMOTE bucket: (bucket key, bytes). -/
  buckets : List (Nat × Nat)
  deriving DecidableEq, Repr

/-- The bandwidth regulator (R343 to R347). -/
structure Regulator where
  /-- READ, WRITE and REMOTE buckets by key, as 1/4,096 bytes below the cap of 8,448 bytes. W=own. R343. Reset 0: full (DESIGN CHOICE, log 6). -/
  buckets : SMap Int := []
  /-- Requests that wait to issue. W=list. R343. Reset none. -/
  queue : List Charge := []
  deriving DecidableEq, Repr

/-- One core (R25, R27, R398, log 80). -/
structure Core where
  /-- Scratchpad bytes that are not 0. W=524288. R25. Reset zeros. -/
  pad : List Host.Cell := []
  /-- Scratchpad bytes that arrived poisoned, ascending (R352; the parity of their words, R480). W=16384. R480. Reset none. -/
  padPoison : List Nat := []
  /-- The 128 normal accumulators. W=128 of 32. R284. Reset 0. -/
  acc : SMap Nat := []
  /-- The eight exact-mode accumulators. W=8 of 384. R269. Reset 0. -/
  exact : SMap Nat := []
  /-- Core registers and control-core state. W=23552. R398. Reset 0. -/
  regs : SMap Nat := []
  /-- Units whose parts wait in its combine buffer: place, output block, K-block, at most 16. W=16 units. R291. Reset none. -/
  combine : List (Nat × Nat × Nat) := []
  deriving DecidableEq, Repr

/-! ## Tables and tricks (06) -/

/-- A staging record (R226) with its directory entry (R228). Its bytes, PREV and CHECK among them, stand in its staging area (R224). -/
structure Staged where
  stack : Nat
  /-- Start granule in 64-byte units from the staging base (R228). -/
  granule : Nat
  table : Nat
  row : Nat
  /-- KIND of R226: 1 update, 2 replica or moved row, 3 migration copy not committed. -/
  kind : Nat
  trick : Nat
  handle : Nat
  seat : Nat
  /-- The pseudo-channel that a KIND 2 or 3 record stands for (R241). -/
  pc : Nat
  /-- Row bytes as the slot holds them, whole atoms. -/
  bytes : List Byte
  /-- HEADER of a split row. -/
  header : List Byte
  /-- The copy of a row that a migration read as poisoned. -/
  poison : Bool
  /-- COMMITTED with its EPOCH. -/
  epoch : Option Nat
  /-- Order in which it was staged: place of the PUT, list position (R219). -/
  order : Nat
  deriving DecidableEq, Repr

/-- A row migration in progress (R241 to R243): Er is the epoch it read the row at. -/
structure Migration where
  table : Nat
  row : Nat
  mode : Nat
  stack : Nat
  pcs : List Nat
  er : Nat
  /-- A trick committed a write to the row at an epoch above Er. -/
  conflict : Bool := false
  /-- Conflicts met so far. -/
  retries : Nat := 0
  deriving DecidableEq, Repr

/-- A trick table entry (R215). -/
structure Trick where
  /-- Number of the entry, 0 to 1,023. -/
  entry : Nat
  handle : Nat
  seat : Nat
  ring : Nat
  rowsMax : Nat
  /-- SCOPE 1: a cascade trick. -/
  cascade : Bool
  state : TrickState
  /-- The handle is in use (R214). -/
  handleInUse : Bool
  /-- Staged positions, repeats included (R220). -/
  staged : Nat := 0
  /-- The TRICK_COMMIT or ROW_MIGRATE in progress, by place. -/
  commit : Option Nat := none
  /-- POISONED where a die could not write a record (R221). -/
  flags : Flags := {}
  /-- Epoch E and the stacks whose acknowledgement is awaited (R232). -/
  epoch : Option Nat := none
  unacked : List Nat := []
  /-- The row migration that it carries. -/
  migrate : Option Migration := none
  deriving DecidableEq, Repr

/-- A valid record of the commit log (R233), oldest first. Its bytes stand in M0's commit log (R224). -/
structure CommitRec where
  /-- Its place in the ring of 4,096. -/
  slot : Nat := 0
  /-- 0 PREPARED, 1 COMMIT, 2 ABORT. -/
  decision : Nat
  cascade : Bool
  trick : Nat
  epoch : Nat
  handle : Nat
  seat : Nat
  dies : List Nat
  rows : Nat
  step : Nat := 0
  cascadeEpoch : Nat := 0
  deriving DecidableEq, Repr

/-- A replica map entry: the locations of a row from an epoch on (R242). -/
structure Replica where
  table : Nat
  row : Nat
  since : Nat
  /-- (stack, pseudo-channel) of each copy, at most four. -/
  places : List (Nat × Nat)
  /-- The row was moved: the home slot is not read. -/
  moved : Bool
  deriving DecidableEq, Repr

/-- The trick coordinator, the overlay directories and the staging areas (R215 to R252). -/
structure Trk where
  /-- TRK_EPOCH: latest committed epoch. W=64. R231. Reset 0. -/
  lce : Nat := 0
  /-- Last epoch given to a commit record. W=64. R231. Reset 0. -/
  lastEpoch : Nat := 0
  /-- TRK_FLOOR. W=64. R236. Reset 0. -/
  floor : Nat := 0
  /-- Trick table. W=1024 entries. R215. Reset empty. -/
  tricks : List Trick := []
  /-- Table records as the last swap point placed them; tables keep their rows through a warm reset. W=4096 records. R71. Reset none. -/
  placed : List TableRec := []
  /-- Staging records with their directory entries. W=4194304 per stack. R228. Reset empty. -/
  staged : List Staged := []
  /-- Commit log. W=4096 of 512. R233. Reset empty. -/
  log : List CommitRec := []
  /-- Where the next record of the commit log goes. W=12. R233. Reset 0. -/
  logNext : Nat := 0
  /-- Replica map. W=65536 entries. R242. Reset empty. -/
  replicas : List Replica := []
  /-- Tricks whose settling has started. W=1 per trick. R236. Reset none. -/
  settling : List Nat := []
  /-- TRK_MIGRATE_RETRIES. W=32. R252. Reset 0. -/
  retries : Nat := 0
  /-- TRK_ATN_INFO. W=14. R252. Reset 0. -/
  infoStack : Nat := 0
  infoSeat : Nat := 0
  /-- Cascade tricks whose half was discarded, to be reported. W=list. R249. Reset none. -/
  discarded : List Nat := []
  /-- The overlay is being rebuilt after a warm reset. W=1. R251. Reset 0. -/
  rebuilding : Bool := false
  deriving DecidableEq, Repr

/-! ## Cascade (13) -/

/-- One Quinay port (R446, R476). -/
structure Port where
  /-- QLK_PORT_STATUS.STATE. W=3. R446. Reset 0. -/
  state : PortState := .disabled
  /-- REFUSE. W=3. R448. Reset 0. -/
  refuse : Nat := 0
  /-- SWITCH. W=1. R476. Reset 0. -/
  switch : Bool := false
  /-- FAR_MODULE. W=10. R476. Reset 0. -/
  farModule : Nat := 0
  /-- A cable is present. W=1. R581. Reset 0 (pin level, DESIGN CHOICE, log 6). -/
  cable : Bool := false
  /-- CAGE_LPMODE. W=1. R583. Reset 1 (DESIGN CHOICE, log 6). -/
  lowPower : Bool := true
  /-- CAGE_3V3 was switched off by its limit. W=1. R582. Reset 0. -/
  overcurrent : Bool := false
  /-- QLK_CABLE_INFO. W=20. R476. Reset 0. -/
  maxPower : Nat := 0
  length : Nat := 0
  lanes : Nat := 0
  /-- QLK_CABLE_VENDOR. W=128. R476. Reset 0. -/
  vendor : List Byte := []
  /-- QLK_CABLE_PN. W=128. R476. Reset 0. -/
  pn : List Byte := []
  /-- QLK_CRC_ERRORS. W=32. R476. Reset 0. -/
  crcErrors : Nat := 0
  /-- QLK_REPLAYS. W=32. R476. Reset 0. -/
  replays : Nat := 0
  /-- QLK_RETRAINS. W=32. R476. Reset 0. -/
  retrains : Nat := 0
  /-- QLK_MISROUTED. W=32. R476. Reset 0. -/
  misrouted : Nat := 0
  /-- QLK_TX_FLITS. W=64. R476. Reset 0. -/
  txFlits : Nat := 0
  /-- QLK_RX_FLITS. W=64. R476. Reset 0. -/
  rxFlits : Nat := 0
  /-- The lanes are locked and IDENT is awaited. W=1. R447. Reset 0. -/
  locked : Bool := false
  /-- Next SEQ to send. W=12. R450. Reset 0 (DESIGN CHOICE, log 6). -/
  txSeq : Nat := 0
  /-- Next SEQ expected. W=12. R451. Reset 0 (DESIGN CHOICE, log 6). -/
  rxSeq : Nat := 0
  /-- Replay buffer: sequences not yet acknowledged, oldest first. W=2048 flits. R451. Reset none. -/
  replay : List Nat := []
  /-- A run of discards has been answered by a NAK. W=1. R451. Reset 0. -/
  nakSent : Bool := false
  /-- The sequence named by the last NAKs in a row and their number. W=16. R447. Reset none. -/
  nakRun : Option (Nat × Nat) := none
  /-- Retraining attempts in a row without lock. W=2. R447. Reset 0. -/
  retrainFails : Nat := 0
  /-- Credits held for the data class. W=11. R452. Reset 1024. -/
  creditData : Nat := 1024
  /-- Credits held for the control class. W=7. R452. Reset 64. -/
  creditControl : Nat := 64
  /-- Receive buffers freed and not yet returned, data and control class. W=18. R452. Reset 0. -/
  freedData : Nat := 0
  freedControl : Nat := 0
  /-- Control-class messages that wait for a credit or for room in the replay buffer, oldest first. W=list. R452. Reset none. -/
  outbox : List QMessage := []
  deriving DecidableEq, Repr

/-- A member's row of the dealer's member table (R472, R477). -/
structure Member where
  /-- THERMAL. W=3. R477. Reset 0. -/
  thermal : Nat := 0
  /-- Last step responded for. W=64. R477. Reset none. -/
  step : Option Nat := none
  /-- PROGRESS. W=64. R477. Reset 0. -/
  progress : Nat := 0
  /-- SEEN. W=32. R477. Reset 0. -/
  seen : Nat := 0
  /-- Trick reports of its last responses: (HANDLE, STATE). W=list. R471. Reset none. -/
  reports : List (Nat × Nat) := []
  /-- HELD_EPOCH. W=64. R471. Reset 0. -/
  heldEpoch : Nat := 0
  deriving DecidableEq, Repr

/-- A token received or issued (R470): step, cascade epoch, decisions (HANDLE, DECISION); `prev` is the cascade epoch that was in
force on this module before it. -/
structure TokenRec where
  step : Nat
  epoch : Nat
  prev : Nat
  decisions : List (Nat × Nat)
  applied : Bool
  deriving DecidableEq, Repr

/-- The cascade block (R442 to R477). -/
structure Qlk where
  /-- Ports Q0 to Q7. W=8 records. R442. Reset as their fields. -/
  ports : SMap Port := []
  /-- QLK_ROUTE, VALID × 128 + PORT. W=1024 of 8. R477. Reset 0. -/
  route : SMap Nat := []
  /-- QLK_EXCLUDE. W=32 of 32. R477. Reset 0. -/
  exclude : SMap Nat := []
  /-- QLK_STEP. W=64. R477. Reset 0. -/
  step : Nat := 0
  /-- QLK_CASCADE_EPOCH. W=64. R477. Reset 0. -/
  epoch : Nat := 0
  /-- QLK_MEMBER_SELECT. W=10. R477. Reset 0. -/
  select : Nat := 0
  /-- Member table. W=1024 records. R477. Reset as its fields. -/
  members : SMap Member := []
  /-- QLK_ATN_INFO. W=18. R477. Reset 0. -/
  infoPort : Nat := 0
  infoModule : Nat := 0
  /-- XSEQ sent to and expected from each module. W=1024 of 32. R455. Reset 0. -/
  xsend : SMap Nat := []
  xrecv : SMap Nat := []
  /-- The last 16 tokens received or issued. W=list. R469. Reset none. -/
  tokens : List TokenRec := []
  /-- The period in which STATUS messages are sent: between AWAIT and RESPOND. W=1. R472. Reset 0. -/
  reporting : Bool := false
  /-- A stack left NORMAL, or the module waited with PEER, during the step. W=2. R471. Reset 0. -/
  stepThermal : Bool := false
  stepPeerWait : Bool := false
  /-- Highest cascade epoch held in full. W=64. R249. Reset 0. -/
  heldEpoch : Nat := 0
  /-- This dealer has issued no token since its reset. W=1. R248. Reset 1. -/
  restarted : Bool := true
  /-- Decisions that a restarted dealer has still to send again: (HANDLE, DECISION). W=list. R248, R470. Reset none. -/
  owed : List (Nat × Nat) := []
  /-- Blocks to resend after XNAK BUSY: (place, peer, block). W=list. R467. Reset none. -/
  resend : List (Nat × Nat × Nat) := []
  deriving DecidableEq, Repr

/-! ## Check-value units, host link, GLB (15, 12) -/

/-- One check-value unit (R514). -/
structure ChkUnit where
  /-- CHK_CTRL.SELECTOR. W=2. R514. Reset 0. -/
  selector : Nat := 0
  /-- CHK_CTRL.FOLD. W=1. R514. Reset 0. -/
  fold : Bool := false
  /-- CHK_CTRL.COMPARE. W=1. R514. Reset 0. -/
  compare : Bool := false
  /-- CHK_CTRL.INIT. W=1. R514. Reset 1. -/
  init : Bool := true
  /-- CHK_STATUS. W=4. R514. Reset 0. -/
  busy : Bool := false
  done : Bool := false
  matched : Bool := false
  poisoned : Bool := false
  /-- CHK_ADDR. W=40. R514. Reset 0. -/
  addr : Nat := 0
  /-- CHK_LEN. W=40. R514. Reset 0. -/
  len : Nat := 0
  /-- CHK_SEED. W=64. R514. Reset 0. -/
  seed : Nat := 0
  /-- CHK_SEQ. W=32. R514. Reset 0. -/
  seq : Nat := 0
  /-- CHK_EXPECT. W=64. R514. Reset 0. -/
  expect : Nat := 0
  /-- CHK_RUNNING. W=64. R514. Reset 0. -/
  running : Nat := 0
  /-- CHK_RESULT. W=64. R514. Reset 0. -/
  result : Nat := 0
  deriving DecidableEq, Repr

/-- The integrity block (R514, R515) and the fenced set (R513, R516). -/
structure Chk where
  /-- Units 0 to 23. W=24 records. R514. Reset as their fields. -/
  units : SMap ChkUnit := []
  /-- CHK_ATN_INFO. W=15. R515. Reset 0. -/
  infoUnit : Nat := 0
  infoSeat : Option Nat := none
  /-- CHK_FAULT_CORE. W=17. R515. Reset 0. -/
  faultCore : Nat := 0
  /-- CHK_PARITY_COUNT. W=32. R515. Reset 0. -/
  parity : Nat := 0
  /-- CHK_CORE_FAULTS. W=32. R515. Reset 0. -/
  coreFaults : Nat := 0
  /-- CHK_RERUNS. W=32. R515. Reset 0. -/
  reruns : Nat := 0
  /-- CHK_SEAT_MISMATCHES. W=32. R515. Reset 0. -/
  mismatches : Nat := 0
  /-- Fenced set, ascending core indices. W=81920. R513. Reset empty. -/
  fenced : List Nat := []
  /-- TST_SUSPECT. W=18. R516. Reset none. -/
  suspect : Option Nat := none
  /-- Cores that are suspect. W=81920. R483. Reset none. -/
  suspects : List Nat := []
  /-- CLK_QUARANTINE_PENDING. W=18. R551. Reset none. -/
  pending : Option Nat := none
  deriving DecidableEq, Repr

/-- One window (R418, R440). -/
structure Window where
  /-- GLB_WIN_BASE. W=40. R440. Reset 0. -/
  base : Nat := 0
  /-- GLB_WIN_LENGTH. W=24. R440. Reset 0. -/
  length : Nat := 0
  /-- GLB_WIN_CTRL. W=32. R440. Reset 0. -/
  enable : Bool := false
  reqCheck : Bool := false
  context : Nat := 0
  requester : Nat := 0
  deriving DecidableEq, Repr

/-- PCIe state of a function and its MSI-X entry (R565). -/
structure FnCfg where
  /-- MSI-X Enable. W=1. R565. Reset 0. -/
  msixEnable : Bool := false
  /-- Function Mask. W=1. R565. Reset 0. -/
  fnMask : Bool := false
  /-- Bus Master Enable. W=1. R431. Reset 0 (PRESUMED 0, PCIe, log 17). -/
  busMaster : Bool := false
  /-- MSI-X table entry 0: address, data. W=96. R565. Reset 0 (PRESUMED 0, PCIe, log 17). -/
  addr : Nat := 0
  data : Nat := 0
  /-- Vector Control mask bit. W=1. R565. Reset 1 (PRESUMED 1, PCIe, log 17). -/
  masked : Bool := true
  /-- Pending bit. W=1. R562. Reset 0. -/
  pending : Bool := false
  /-- ARMED. W=1. R562. Reset 1. -/
  armed : Bool := true
  /-- ATN_MSIX_MASK or SEAT_ATN_MSIX_MASK. W=12. R562. Reset 0. -/
  mask : Nat := 0
  /-- ATN_SUMMARY or SEAT_ATN_SUMMARY as last computed. W=12. R558. Reset 0 (seats); 0x001 (PF). -/
  summary : Nat := 0
  /-- ATN_FIRST or SEAT_ATN_FIRST: group and slow count. W=52. R566. Reset none. -/
  first : Option (Nat × Nat) := none
  deriving DecidableEq, Repr

/-- The host link and the GLB block (R412 to R441, R556). -/
structure Glb where
  /-- GLB_LINK_STATUS. W=14. R440. Reset 0. -/
  speed : Nat := 0
  width : Nat := 0
  flit256 : Bool := false
  cxlMem : Bool := false
  dlUp : Bool := false
  committed : Bool := false
  vfEnable : Bool := false
  /-- Base of the HDM range in host addresses. W=64. R417. Reset 0. -/
  hpaBase : Nat := 0
  /-- A host loss event has come and the link is not up again. W=1. R436. Reset 0. -/
  hostLost : Bool := false
  /-- GLB_HOST_ATN_INFO. W=12. R440. Reset 0. -/
  infoSeat : Option Nat := none
  infoKind : Nat := 0
  infoPath : Nat := 0
  /-- GLB_HOST_FAULT_ADDR. W=40. R440. Reset 0. -/
  faultAddr : Nat := 0
  /-- GLB_HOST_LOSS_COUNT. W=32. R440. Reset 0. -/
  lossCount : Nat := 0
  /-- GLB_HOST_INGRESS_FAULTS. W=32. R440. Reset 0. -/
  ingressFaults : Nat := 0
  /-- GLB_HOST_POISON_READS. W=32. R440. Reset 0. -/
  poisonReads : Nat := 0
  /-- GLB_LOG_SELECT. W=12. R440. Reset 0. -/
  logSelect : Nat := 0
  /-- Latched entry of the log window and of what slot. W=256. R439. Reset none. -/
  logLatch : Option (Nat × List Byte) := none
  /-- GLB_VF_APERTURE, ENABLE × 2^31 + WINDOW. W=64 of 32. R440. Reset 0. -/
  aperture : SMap Nat := []
  /-- Window table. W=1024 of 96. R418. Reset 0. -/
  windows : SMap Window := []
  /-- Functions: 0 the PF, n + 1 the VF of seat Sn. W=65 records. R565. Reset as their fields. -/
  fns : SMap FnCfg := []
  /-- Host address of the BARs, 0 for none: BAR0 of function f at key 2 f, BAR2 of a VF at 2 f + 1. W=64. R432. Reset 0 (PRESUMED 0, PCIe, log 17). -/
  bars : SMap Nat := []
  /-- GLB_ARITH_ATN_INFO. W=18. R278. Reset 0. -/
  arithSeat : Nat := 0
  arithRing : Nat := 0
  /-- Maximum payload size. W=10. R412. Reset 128 (PRESUMED 128, PCIe, log 17). -/
  maxPayload : Nat := 128
  deriving DecidableEq, Repr

/-- What the device sends out, in order (R412, R431, R450, R564, R420). -/
inductive Out where
  /-- A posted write to host memory, by the requester of a seat's VF. -/
  | hostWrite (seat addr : Nat) (bytes : List Byte) (poison : Bool)
  /-- The read to the host of a VISIBLE fence (R124). -/
  | hostRead (seat : Nat)
  /-- An MSI-X message of function 0 or n + 1. -/
  | msix (fn addr data : Nat)
  /-- Data returned by a register read or a host read; `poison` is the CXL poison indication. -/
  | readData (value : List Byte) (poison : Bool)
  /-- A host-class write completes. -/
  | writeDone
  /-- Unsupported Request (R420). -/
  | unsupported
  /-- A Quinay message and the port that carries it. -/
  | message (port : Nat) (m : QMessage)
  /-- A flit that carries no message: port, TYPE, ACK and payload (R450). -/
  | flit (port kind ack : Nat) (payload : List Byte)
  /-- An answer on the management port, the mailbox or the CXL mailbox. -/
  | response (bytes : List Byte)
  deriving DecidableEq, Repr

/-- Everything that operations, rings, seats, memory and links work on. -/
structure Dev where
  /-- The free-value counter: the model's own field; every free value is a Config constant applied to it. W=own. R3. Reset 0 (DESIGN CHOICE, log 11). -/
  free : Nat := 0
  /-- CLK_SLOW: the slow count. W=48. R528. Reset 0. -/
  slow : Nat := 0
  /-- Leaf registers by key (LeafReg.key). W=9 each. R559. Reset 0. -/
  leaves : SMap Nat := []
  /-- Leaf mask registers by the same key. W=9 each. R558. Reset 0. -/
  masks : SMap Nat := []
  /-- Leaves whose event recurred in this slow cycle: the model's own record for R560. W=own. R560. Reset none. -/
  recent : SMap Nat := []
  /-- Active layout image. W=16 MiB. R62. Reset none. -/
  layout : Option Layout := none
  /-- Seats whose slots start no step because a swap is pending. W=64. R69. Reset none. -/
  swapStop : List Nat := []
  /-- Rings 0 to 4,095. W=4096 records. R125. Reset as their fields. -/
  rings : SMap Ring := []
  /-- RNG_ATN_RING. W=12. R168. Reset 0. -/
  ringInfo : Nat := 0
  /-- Slots 0 to 127. W=128 records. R169. Reset as their fields. -/
  slots : SMap Slot := []
  /-- HI registers latched by a read of their LO register, by key. W=32 each. R162. Reset 0. -/
  latches : SMap Nat := []
  /-- Scoreboard. W=4096 places. R38. Reset empty. -/
  board : List Place := []
  /-- Number of the next place. W=own. R38. Reset 0. -/
  nextPlace : Nat := 0
  /-- Retirements accepted in a fast cycle by the collector of each compute stack: (time, count). W=own. R160. Reset none. -/
  collector : SMap (Nat × Nat) := []
  /-- Seats. W=64 records. R371. Reset as their fields. -/
  seats : SMap Seat := []
  /-- Contexts, by device-wide index. W=1024 records. R373. Reset as their fields. -/
  ctxs : SMap Ctx := []
  /-- Memory. W=768 GiB. R7. Reset as its fields. -/
  mem : Mem := {}
  /-- Stream caches. W=4 of 192 MiB. R334. Reset empty. -/
  cache : Cache := {}
  /-- Regulator. W=own. R343. Reset as its fields. -/
  reg : Regulator := {}
  /-- Cores, by device-wide index. W=81920 records. R27. Reset zero. -/
  cores : SMap Core := []
  /-- Routes of the active image. W=65536. R52. Reset none. -/
  routes : List Route := []
  /-- Tables and tricks. W=own. R252. Reset as its fields. -/
  trk : Trk := {}
  /-- Cascade. W=own. R477. Reset as its fields. -/
  qlk : Qlk := {}
  /-- Check-value units and the fenced set. W=own. R515. Reset as its fields. -/
  chk : Chk := {}
  /-- Host link and GLB. W=own. R440. Reset as its fields. -/
  glb : Glb := {}
  /-- Clusters whose clock is starting. W=1280. R529. Reset none. -/
  clkStarting : List Nat := []
  /-- PWR_DOMAIN_ON. W=20. R551. Reset 0x0_0001. -/
  domainOn : Nat := 1
  /-- Domains that are powering up, and down. W=20 each. R526. Reset none. -/
  domainRising : List Nat := []
  domainFalling : List Nat := []
  /-- Compute base dies whose mesh clock is stopped. W=4. R530. Reset none. -/
  meshStopped : List Nat := []
  /-- Everything sent out since reset, oldest first: the model's record of its outputs. W=list. R412. Reset none. -/
  out : List Out := []
  deriving DecidableEq, Repr

/-! ## The other blocks (02, 15, 16, 17, 18) -/

/-- The layout block (R62 to R82). -/
structure Lay where
  /-- LAY_STATUS.SHADOW. W=3. R62. Reset 0. -/
  shadow : Shadow := .empty
  /-- ACTIVE_BUFFER. W=1. R82. Reset 0. -/
  activeBuffer : Nat := 0
  /-- LAY_REFUSE.CODE. W=8. R82. Reset 0. -/
  code : Nat := 0
  /-- LAY_REFUSE.SECTION. W=8. R82. Reset 0. -/
  section_ : Nat := 0
  /-- LAY_REFUSE_ENTRY. W=32. R82. Reset 0. -/
  entry : Nat := 0
  /-- LAY_SRC. W=64. R82. Reset 0. -/
  src : Nat := 0
  /-- LAY_SRC_LEN. W=25. R82. Reset 0. -/
  srcLen : Nat := 0
  /-- LAY_LOADED. W=25. R82. Reset 0. -/
  loaded : Nat := 0
  /-- LAY_FENCED. W=64. R82. Reset 0. -/
  fencedSeats : Nat := 0
  /-- LAY_KEY_HASH0 to 15. W=512. R82. Reset 0. -/
  keyHash : SMap Nat := []
  /-- Provider-key slots of the identity memory. W=4 of 512. R79. Reset DESIGN CHOICE empty, log 7. -/
  keys : List (Option (List Byte)) := [none, none, none, none]
  /-- The bytes in the shadow buffer. W=32 MiB. R42. Reset none. -/
  image : List Byte := []
  /-- The bytes in the active buffer. W=32 MiB. R42. Reset none. -/
  activeImage : List Byte := []
  /-- The image that validation decoded from the shadow buffer. W=16 MiB. R65. Reset none. -/
  staged : Option Layout := none
  /-- Slow count of the last swap point. W=48. R74. Reset none. -/
  swapAt : Option Nat := none
  deriving DecidableEq, Repr

/-- A decoded sage pack (R496 to R499). -/
structure Test where
  id : Nat
  firstOp : Nat
  opCount : Nat
  gens : List (Nat × Nat)
  selector : Nat
  resultOffset : Nat
  resultBytes : Nat
  expected : Nat
  expect : Bool
  deriving DecidableEq, Repr

/-- A generator record (R497). -/
structure Gen where
  seed : Nat
  bytes : Nat
  format : Nat
  andMask : Nat
  orMask : Nat
  deriving DecidableEq, Repr

/-- A validated pack. -/
structure Pack where
  digest : List Byte
  gens : List Gen
  ops : List OpWord
  tests : List Test
  deriving DecidableEq, Repr

/-- A test that a pair of cores runs: core, partner, test index, tries, whether each core's value differed from EXPECTED on the first
run, and whether the test waits for arbitration. -/
structure Running where
  core : Nat
  partner : Nat
  test : Nat
  tries : Nat := 0
  missA : Bool := false
  missB : Bool := false
  arbitrating : Bool := false
  deriving DecidableEq, Repr

/-- The sage-pack block (R502 to R516). -/
structure Tst where
  /-- TST_STATUS.STATE. W=4. R503. Reset 0. -/
  state : PackState := .empty
  /-- TST_REFUSE.CODE. W=8. R516. Reset 0. -/
  code : Nat := 0
  /-- TST_REFUSE.SECTION. W=8. R516. Reset 0. -/
  section_ : Nat := 0
  /-- TST_REFUSE_ENTRY. W=32. R516. Reset 0. -/
  entry : Nat := 0
  /-- TST_SRC. W=64. R516. Reset 0. -/
  src : Nat := 0
  /-- TST_SRC_LEN. W=25. R516. Reset 0. -/
  srcLen : Nat := 0
  /-- TST_CTRL.REPEAT. W=1. R516. Reset 0. -/
  repeat_ : Bool := false
  /-- TST_CTRL.BUDGET. W=3. R516. Reset 5. -/
  budget : Nat := 5
  /-- TST_PASSES. W=32. R516. Reset 0. -/
  passes : Nat := 0
  /-- TST_COVERED: cores that have finished the pass. W=17. R509. Reset none. -/
  covered : List Nat := []
  /-- TST_TRANSIENTS. W=32. R516. Reset 0. -/
  transients : Nat := 0
  /-- TST_MISMATCHES. W=32. R516. Reset 0. -/
  mismatches : Nat := 0
  /-- TST_FENCE_LAST. W=18. R516. Reset none. -/
  fenceLast : Option Nat := none
  /-- TST_FENCE_SELECT. W=12. R516. Reset 0. -/
  fenceSelect : Nat := 0
  /-- TST_ATN_INFO. W=17. R516. Reset 0. -/
  infoCore : Nat := 0
  /-- TST_ATN_TEST. W=32. R516. Reset 0. -/
  infoTest : Nat := 0
  /-- The pack bytes that were copied. W=16 MiB. R502. Reset none. -/
  image : List Byte := []
  /-- The pack that validation decoded. W=16 MiB. R502. Reset none. -/
  pack : Option Pack := none
  /-- Tests passed in this pass: (core, test index). W=own. R511. Reset none. -/
  passed : List (Nat × Nat) := []
  /-- Tests in progress. W=own. R509. Reset none. -/
  running : List Running := []
  /-- Slow cycles of the budget window used by each cluster. W=own. R507. Reset 0. -/
  used : SMap Nat := []
  deriving DecidableEq, Repr

/-- Where the start-up sequence stands (R531, R543, R539, R540). -/
inductive Boot where
  /-- D0 is off. -/
  | off
  /-- A supply fault or thermal trip holds D1 to D19 off. -/
  | supplyFault
  | tripped
  /-- The boot ROM runs (step 3). -/
  | rom
  /-- The firmware runs the start-up self-test (steps 4 to 6). -/
  | selftest
  /-- Step 7 has been reached: HELD or an active image. -/
  | ready
  /-- Recovery-HELD (R543). -/
  | recovery
  deriving DecidableEq, Repr

/-- The power and clock block with the pins of D0 (R518 to R540, R551). -/
structure Pwr where
  /-- PWR_INPUT.VOLTAGE. W=16. R551. Reset 0. -/
  voltage : Nat := 0
  /-- The last 100 samples of input power, newest first. W=own. R521. Reset none. -/
  samples : List Nat := []
  /-- PWR_PEAK. W=16. R551. Reset 0. -/
  peak : Nat := 0
  /-- PWR_LIMIT. W=12. R551. Reset 2600. -/
  limit : Nat := 2600
  /-- PWR_GOVERNOR.LEVEL. W=4. R551. Reset 0. -/
  level : Nat := 0
  /-- Samples since the level last changed. W=own. R521. Reset 0. -/
  sinceChange : Nat := 0
  /-- PWR_THROTTLED. W=32. R551. Reset 0. -/
  throttled : Nat := 0
  /-- PWR_DIE_TEMP, C0 to C3. W=32. R551. Reset 0. -/
  dieTemp : List Nat := [0, 0, 0, 0]
  /-- Consecutive samples out of range. W=4. R519. Reset 0. -/
  badSamples : Nat := 0
  /-- PWR_RESET_CAUSE. W=4. R551. Reset DESIGN CHOICE 1 POWER_ON, log 9. -/
  cause : Nat := 1
  /-- The next power-up records THERMAL_TRIP. W=1. R540. Reset 0. -/
  tripLatched : Bool := false
  /-- A reset that is requested and has not begun, by its PWR_RESET_CAUSE code. W=4. R534. Reset none. -/
  requested : Option Nat := none
  /-- PWR_EN pin. W=1. R572. Reset 1 (DESIGN CHOICE, log 9). -/
  pwrEn : Bool := true
  /-- PWR_GOOD pin. W=1. R585. Reset 1 (DESIGN CHOICE, log 9). -/
  good : Bool := true
  /-- THERMTRIP_N driven low. W=1. R540. Reset 0. -/
  tripPin : Bool := false
  /-- SLOT_ID as sampled. W=3. R576. Reset 7 (an open pin reads 1; DESIGN CHOICE, log 9). -/
  slotId : Nat := 7
  /-- Start-up sequence. W=own. R531. Reset at step 3 (DESIGN CHOICE, log 9). -/
  boot : Boot := .rom
  /-- CLK_CLUSTER_SELECT. W=6. R551. Reset 0. -/
  clusterSelect : Nat := 0
  /-- The reset in progress is warm, so the self-test adds to the kept set. W=1. R532. Reset 0. -/
  warm : Bool := false
  deriving DecidableEq, Repr

/-- A firmware image as its header tells it (R541), with the refusal code that R542 gives it (0 accepted). -/
structure FwImage where
  version : Nat
  security : Nat
  arithRev : Nat
  digest : List Byte
  code : Nat
  deriving DecidableEq, Repr

/-- State of an SPDM connection (R548). -/
structure Spdm where
  version : Bool := false
  capabilities : Bool := false
  algorithms : Bool := false
  deriving DecidableEq, Repr

/-- The management block (R541 to R552). -/
structure Mgt where
  /-- MGT_BOOT_STATUS.REASON. W=8. R552. Reset 0. -/
  reason : Nat := 0
  /-- MGT_BOOT_STATUS.SELFTEST_DONE. W=1. R552. Reset 0. -/
  selftestDone : Bool := false
  /-- The firmware that runs. W=own. R552. Reset the flash image (DESIGN CHOICE, log 8). -/
  running : FwImage
  /-- The image in module flash. W=16 MiB. R541. Reset as Config.firmware (DESIGN CHOICE, log 8). -/
  flash : Option FwImage
  /-- SECURITY_FLOOR in flash. W=32. R552. Reset 0 (DESIGN CHOICE, log 8). -/
  floor : Nat := 0
  /-- MGT_FW_STATUS.STATE. W=3. R552. Reset 0. -/
  state : FwState := .idle
  /-- MGT_FW_STATUS.ERROR. W=8. R552. Reset 0. -/
  error : Nat := 0
  /-- MGT_FW_STATUS.SOURCE. W=1. R552. Reset 0. -/
  pldm : Bool := false
  /-- MGT_FW_SRC. W=64. R552. Reset 0. -/
  src : Nat := 0
  /-- MGT_FW_SRC_LEN. W=25. R552. Reset 0. -/
  srcLen : Nat := 0
  /-- MGT_FW_WRITTEN. W=25. R552. Reset 0. -/
  written : Nat := 0
  /-- The image that verification decoded and that is being written. W=own. R544. Reset none. -/
  staged : Option FwImage := none
  /-- Bytes of the image that was copied. W=25. R544. Reset 0. -/
  stagedLen : Nat := 0
  /-- A PLDM update session is open. W=1. R546. Reset 0. -/
  session : Bool := false
  /-- MGT_SPDM_CTRL.LENGTH. W=13. R552. Reset 0. -/
  spdmLength : Nat := 0
  /-- MGT_SPDM_STATUS.BUSY. W=1. R552. Reset 0. -/
  spdmBusy : Bool := false
  /-- MGT_SPDM_STATUS.LENGTH. W=13. R552. Reset 0. -/
  spdmAnswer : Nat := 0
  /-- MGT_SPDM_BUF. W=32768. R552. Reset 0. -/
  spdmBuf : List Host.Cell := []
  /-- SPDM connections of the management port and of the mailbox. W=3 each. R548. Reset none. -/
  mctp : Spdm := {}
  mailbox : Spdm := {}
  deriving DecidableEq, Repr

/-- The attention block of the physical function (R558 to R566). -/
structure Atn where
  /-- ATN_PIN_MASK. W=12. R562. Reset 0. -/
  pinMask : Nat := 0
  /-- ATN_PIN.FORCE. W=1. R562. Reset 0. -/
  force : Bool := false
  /-- ATTN_N is driven low (ATN_PIN.ASSERTED). W=1. R563. Reset 0. -/
  pin : Bool := false
  /-- The group causes of R559, group by group, as last computed. W=12 registers. R562. Reset LAYOUT 1, else 0. -/
  causes : SMap Nat := [(0, 1)]
  /-- The pin condition of the last slow cycle, which reaches ATTN_N in the next (R561). W=1. R561. Reset 0. -/
  pinNext : Bool := false
  deriving DecidableEq, Repr

/-- The JTAG port (R577 to R579). -/
structure Jtag where
  /-- Instruction in force: 0 reset (IDCODE by IEEE 1149.1), 1 BYPASS, 2 IDCODE, 3 SAMPLE/PRELOAD, 4 EXTEST, 5 CLAMP, 6 HIGHZ. W=5. R577. Reset 0. -/
  ir : Nat := 0
  /-- JTAG_TRST_N holds the port in Test-Logic-Reset. W=1. R577. Reset 1 (pull-down, R572). -/
  held : Bool := true
  /-- The data register last captured. W=own. R578. Reset 0. -/
  dr : Nat := 0
  deriving DecidableEq, Repr

/-- The state of the block. -/
structure State where
  /-- Commands that wait, first in first out. W=list. The model's own. Reset empty. -/
  pending : List Instr
  dev : Dev
  lay : Lay
  tst : Tst
  pwr : Pwr
  mgt : Mgt
  atn : Atn
  jtag : Jtag
  deriving DecidableEq, Repr

/-- Why a command ends without a next state: no command of the table does. -/
inductive Fault where
  deriving DecidableEq, Repr

/-- Why the model has no meaning for a command. -/
inductive Refusal where
  /-- The command has no meaning yet; the arm of exec names it. Safe. -/
  | notModelled (mnemonic : String)
  deriving DecidableEq, Repr

/-- The block right after a cold reset by power: D0 is up and the boot ROM is about to run (R531, log 9). -/
def State.reset : State :=
  { pending := [], dev := { glb := { fns := [(0, { summary := 1 })] } }, lay := {}, tst := {}, pwr := {},
    mgt := { running := ⟨Config.fwVersion, Config.fwSecurity, 1, Config.fwDigest, 0⟩,
             flash := some ⟨Config.fwVersion, Config.fwSecurity, 1, Config.fwDigest, 0⟩ },
    atn := {}, jtag := {} }

end Sys2Proof.Machine
end

