-- ==== Sys2Proof/Machine/Ops.lean ====
section
/-! DEFINITION. The named operations over registers: records by index, attention leaves (R558 to R560), counters, the
queries that chapters share (HELD, seat and ring of the active image), and what the device sends out. -/

namespace Sys2Proof.Machine

/-! ## Attention leaves -/

/-- The leaf registers of R559 and R567. -/
inductive LeafReg where
  | lay | rng | seat (n : Nat) | mem (x : Nat) | trk | arith | qlk | host | chk | tst | pwr | mgt
  | vfRing (n : Nat) | vfSeg (n : Nat) | vfArith (n : Nat) | vfChk (n : Nat)
  deriving DecidableEq, Repr

/-- The key of a leaf register in Dev.leaves. -/
def LeafReg.key : LeafReg → Nat
  | .lay => 0 | .rng => 1 | .trk => 2 | .arith => 3 | .qlk => 4 | .host => 5 | .chk => 6 | .tst => 7 | .pwr => 8
  | .mgt => 9 | .mem x => 16 + x % 16 | .seat n => 64 + n % 64 | .vfRing n => 128 + n % 64 | .vfSeg n => 192 + n % 64
  | .vfArith n => 256 + n % 64 | .vfChk n => 320 + n % 64

/-- The leaf bits that are set (the W1C ones). -/
def Dev.leaf (d : Dev) (r : LeafReg) : Nat := d.leaves.get 0 r.key

/-- The mask register beside a leaf register. -/
def Dev.mask (d : Dev) (r : LeafReg) : Nat := d.masks.get 0 r.key

/-- An event sets leaf bit `bit`; where the leaf was set before, the recurrence is remembered for the slow cycle
(R560). -/
def Dev.setLeaf (d : Dev) (r : LeafReg) (bit : Nat) : Dev :=
  { d with leaves := d.leaves.put 0 r.key (d.leaves.get 0 r.key ||| 2 ^ bit),
           recent := d.recent.put 0 r.key (d.recent.get 0 r.key ||| (d.leaves.get 0 r.key &&& 2 ^ bit)) }

/-- The bits of `x` that are not in `y`. -/
def bitClear (x y : Nat) : Nat := x ^^^ (x &&& y)

/-- A write of 1s to W1C leaves clears them, but for those whose event recurred in this slow cycle (R560). -/
def Dev.clearLeaf (d : Dev) (r : LeafReg) (v : Nat) : Dev :=
  { d with leaves := d.leaves.put 0 r.key (bitClear (d.leaves.get 0 r.key) (bitClear v (d.recent.get 0 r.key))) }

/-- Clears a leaf register whatever its events (resets and R571). -/
def Dev.zeroLeaf (d : Dev) (r : LeafReg) : Dev :=
  { d with leaves := d.leaves.put 0 r.key 0, recent := d.recent.put 0 r.key 0 }

/-- An event sets a leaf of the state. -/
def State.setLeaf (s : State) (r : LeafReg) (bit : Nat) : State := { s with dev := s.dev.setLeaf r bit }

/-! ## Records by index -/

def Dev.ring (d : Dev) (i : Nat) : Ring := d.rings.get {} i
def Dev.setRing (d : Dev) (i : Nat) (r : Ring) : Dev := { d with rings := d.rings.put {} i r }
def Dev.updRing (d : Dev) (i : Nat) (f : Ring → Ring) : Dev := d.setRing i (f (d.ring i))
def Dev.slot (d : Dev) (i : Nat) : Slot := d.slots.get {} i
def Dev.updSlot (d : Dev) (i : Nat) (f : Slot → Slot) : Dev := { d with slots := d.slots.put {} i (f (d.slot i)) }
def Dev.seat (d : Dev) (i : Nat) : Seat := d.seats.get {} i
def Dev.updSeat (d : Dev) (i : Nat) (f : Seat → Seat) : Dev := { d with seats := d.seats.put {} i (f (d.seat i)) }
def Dev.ctx (d : Dev) (i : Nat) : Ctx := d.ctxs.get {} i
def Dev.updCtx (d : Dev) (i : Nat) (f : Ctx → Ctx) : Dev := { d with ctxs := d.ctxs.put {} i (f (d.ctx i)) }
def Dev.core (d : Dev) (i : Nat) : Core := d.cores.get {} i
def Dev.updCore (d : Dev) (i : Nat) (f : Core → Core) : Dev := { d with cores := d.cores.put {} i (f (d.core i)) }
def Mem.stack (m : Mem) (x : Nat) : Stack := m.dies.get {} x
def Mem.updStack (m : Mem) (x : Nat) (f : Stack → Stack) : Mem := { m with dies := m.dies.put {} x (f (m.stack x)) }
def Dev.updStack (d : Dev) (x : Nat) (f : Stack → Stack) : Dev := { d with mem := d.mem.updStack x f }
def Dev.port (d : Dev) (p : Nat) : Port := d.qlk.ports.get {} p
def Dev.updPort (d : Dev) (p : Nat) (f : Port → Port) : Dev :=
  { d with qlk := { d.qlk with ports := d.qlk.ports.put {} p (f (d.port p)) } }
def Dev.unit (d : Dev) (u : Nat) : ChkUnit := d.chk.units.get {} u
def Dev.updUnit (d : Dev) (u : Nat) (f : ChkUnit → ChkUnit) : Dev :=
  { d with chk := { d.chk with units := d.chk.units.put {} u (f (d.unit u)) } }
def Dev.window (d : Dev) (w : Nat) : Window := d.glb.windows.get {} w
def Dev.updWindow (d : Dev) (w : Nat) (f : Window → Window) : Dev :=
  { d with glb := { d.glb with windows := d.glb.windows.put {} w (f (d.window w)) } }
/-- Function 0 is the PF, n + 1 the VF of seat Sn (R10). -/
def Fn.index : Fn → Nat
  | .pf => 0
  | .vf n => n + 1
def Dev.fn (d : Dev) (f : Nat) : FnCfg := d.glb.fns.get {} f
def Dev.updFn (d : Dev) (i : Nat) (f : FnCfg → FnCfg) : Dev :=
  { d with glb := { d.glb with fns := d.glb.fns.put {} i (f (d.fn i)) } }

/-- Segment `s` of device-wide context `x` (R377). -/
def Dev.seg (d : Dev) (x s : Nat) : Seg := (d.ctx x).segs.get {} s
def Dev.updSeg (d : Dev) (x s : Nat) (f : Seg → Seg) : Dev :=
  d.updCtx x fun c => { c with segs := c.segs.put {} s (f (c.segs.get {} s)) }

/-! ## Time, output, free values -/

/-- The device's time in fast cycles (R156, R528): 16 fast cycles in a slow one; `fc` is the phase (log 4). -/
def Dev.now (d : Dev) (fc : Nat) : Nat := 16 * d.slow + fc % 16

/-- Sends something out (log 124). -/
def Dev.emit (d : Dev) (o : Out) : Dev := { d with out := d.out ++ [o] }
def State.emit (s : State) (o : Out) : State := { s with dev := s.dev.emit o }

/-- Moves on to a fresh free value (log 11). -/
def Dev.tickFree (d : Dev) : Dev := { d with free := d.free + 1 }

/-! ## Queries -/

/-- The device is HELD: no image is active (R76). -/
def Dev.held (d : Dev) : Bool := d.layout.isNone

/-- A seat in service (R81, R404): IN_SERVICE, or FENCED, whose begun steps still run. -/
def Seat.serves (k : Seat) : Bool := k.state == .inService || k.state == .fenced

/-- Registers of every PF block respond (R555). -/
def State.ready (s : State) : Bool := s.pwr.boot == .ready

/-- The registers of ATN, PWR, CLK and MGT respond (R543, R555). -/
def State.mgtReady (s : State) : Bool := s.pwr.boot == .ready || s.pwr.boot == .recovery

/-- VF accesses reach seat Sn: its VF exists on the link and the seat is in use (R371, R415). -/
def Dev.vfOpen (d : Dev) (n : Nat) : Bool := d.glb.vfEnable && (d.seat n).state != .unused

/-- The seat record of the active image. -/
def Dev.seatRec (d : Dev) (n : Nat) : SeatRec := ((d.layout.map (·.seats)).getD []).getD n {}

/-- The ring record of the active image. -/
def Dev.ringRec (d : Dev) (i : Nat) : RingRec := ((d.layout.map (·.rings)).getD []).getD i {}

/-- Ring i is assigned to a seat. -/
def RingRec.assigned (r : RingRec) : Bool := r.seat < 64

/-- The seat of a slot in the active image, if it is in use (R56). -/
def Dev.slotSeat (d : Dev) (i : Nat) : Option Nat :=
  let s := ((d.layout.map (·.slots)).getD []).getD i 255
  if s < 64 then some s else none

/-- The rings of the active image, with their indices. -/
def Dev.ringList (d : Dev) : List (Nat × RingRec) :=
  (((d.layout.map (·.rings)).getD []).zipIdx.map fun p => (p.2, p.1)).filter fun p => p.2.assigned

/-- The ring of seat `n` with local index `k` (R137). -/
def Dev.ringOf (d : Dev) (n k : Nat) : Option Nat :=
  (d.ringList.find? fun p => p.2.seat == n && p.2.localIx == k).map (·.1)

/-- The clusters of seat `n` in ascending index (R51). -/
def Layout.clustersOf (l : Layout) (n : Nat) : List Nat :=
  (l.clusters.zipIdx.filter fun p => p.1 == n).map (·.2)

def Dev.clustersOf (d : Dev) (n : Nat) : List Nat := (d.layout.map (·.clustersOf n)).getD []

/-- The owner of a cluster (R51). -/
def Dev.clusterOwner (d : Dev) (c : Nat) : Option Nat :=
  let n := ((d.layout.map (·.clusters)).getD []).getD c 255
  if n < 64 then some n else none

/-- The cores of clusters, ascending (R9). -/
def coresOf (cs : List Nat) : List Nat := cs.flatMap fun c => (List.range 64).map fun i => 64 * c + i

/-- The compute stack of a cluster, of a slot, of a memory stack (R9, R12, R8). -/
def clusterStack (c : Nat) : Nat := c / 320
def slotStack (s : Nat) : Nat := s / 32
def memOwner (x : Nat) : Nat := x / 3

/-- The domain of the compute-die half that holds a cluster (R26). -/
def halfDomain (c : Nat) : Nat := 4 + 2 * clusterStack c + (if c % 16 < 8 then 0 else 1)

/-- The tag of a device-wide context (R375). -/
def tagOf (x : Nat) : Nat := (x / 16) * 1024 + x

/-- The seat of a tag. -/
def tagSeat (t : Nat) : Nat := t / 1024

/-- The stack of a device physical address and the offset within it (R31). -/
def stackOf (a : Nat) : Nat := a / 2 ^ 36 % 16
def offsetOf (a : Nat) : Nat := a % 2 ^ 36

/-- A table record of the active image by id. -/
def Dev.table (d : Dev) (t : Nat) : Option TableRec := ((d.layout.map (·.tables)).getD []).find? (·.table == t)

/-- A split record: seat n, stack x (R55). -/
def Dev.split (d : Dev) (n x : Nat) : SplitRec := ((d.layout.map (·.splits)).getD []).getD (12 * n + x) {}

/-- The WCET record of a ring, which makes it a step ring (R387). -/
def Dev.wcet (d : Dev) (ring : Nat) : Option WcetRec := ((d.layout.map (·.wcets)).getD []).find? (·.ring == ring)

/-- The cascade role record; a device with no image acts standalone. -/
def Dev.cascade (d : Dev) : CascadeRec := (d.layout.map (·.cascade)).getD {}

/-- R443 holds for port p: HELD, its domain off, or the image's PORT_ENABLE bit clear. -/
def Dev.portOff (d : Dev) (p : Nat) : Bool :=
  d.held || !d.domainOn.testBit (if p < 4 then 2 else 3) || !d.cascade.portEnable.testBit p

/-- Ports enter or leave DISABLED as R443 starts or stops holding (R447, first two rows). -/
def Dev.settlePorts (d : Dev) : Dev :=
  (List.range 8).foldl (fun d p => d.updPort p fun k =>
    if d.portOff p then
      if k.state = .disabled then k else { k with state := .disabled, locked := false, replay := [], lowPower := true, refuse := 0 }
    else if k.state = .disabled then { k with state := if k.cable then .identifying else .empty }
    else k) d

/-- Operations of a ring, of a seat, of a context in the scoreboard (R38). A retired operation holds its place until its completion
entry is written (R159); until then it counts as in flight for R129 and R131 too (log 133). -/
def Dev.ringPlaces (d : Dev) (r : Nat) : List Place := d.board.filter (·.ring == r)
def Dev.seatPlaces (d : Dev) (n : Nat) : List Place := d.board.filter (·.seat == n)
def Dev.ctxPlaces (d : Dev) (x : Nat) : List Place := d.board.filter fun p => p.seat * 16 + p.ctx == x
def Dev.ringBusy (d : Dev) (r : Nat) : Bool := !(d.ringPlaces r).isEmpty
def Dev.seatBusy (d : Dev) (n : Nat) : Bool := !(d.seatPlaces n).isEmpty

/-- The device-wide context of a place. -/
def Place.ctxIx (p : Place) : Nat := p.seat * 16 + p.ctx

/-- The place with a number. -/
def Dev.place (d : Dev) (i : Nat) : Option Place := d.board.find? (·.id == i)

/-- Changes a place. -/
def Dev.updPlace (d : Dev) (i : Nat) (f : Place → Place) : Dev :=
  { d with board := d.board.map fun p => if p.id = i then f p else p }

/-- A core of the cluster is fenced (R512, R513). -/
def Dev.clusterFenced (d : Dev) (c : Nat) : Bool := d.chk.fenced.any fun k => k / 64 == c

/-- Inserts into an ascending list without repeats. -/
def insertAsc (x : Nat) : List Nat → List Nat
  | [] => [x]
  | y :: t => if x < y then x :: y :: t else if x = y then y :: t else y :: insertAsc x t

end Sys2Proof.Machine
end

