-- ==== Sys2Proof/Machine/Attention.lean ====
section
/-! DEFINITION. The attention tree (17): causes, summaries, the pin, the MSI-X vectors, and the rearm commands. -/

namespace Sys2Proof.Machine

/-- The value a leaf register shows: its W1C bits and the RO leaves that follow a condition (R82, R552, R560). -/
def State.leafValue (s : State) (r : LeafReg) : Nat :=
  match r with
  | .lay => s.dev.leaf .lay ||| (if s.dev.held then 2 else 0)
  | .mgt => s.dev.leaf .mgt ||| (if s.pwr.boot == .recovery then 8 else 0)
  | r => s.dev.leaf r

/-- A leaf register has an unmasked leaf set (R558). -/
def State.unmasked (s : State) (r : LeafReg) : Bool := bitClear (s.leafValue r) (s.dev.mask r) != 0

/-- Bits 0 to n − 1 of a predicate. -/
def bitsOf (n : Nat) (f : Nat → Bool) : Nat := ((List.range n).map fun i => if f i then 2 ^ i else 0).foldl (· + ·) 0

/-- The cause register of group g (R558, R559). -/
def State.cause (s : State) (g : Nat) : Nat :=
  let one := fun r => (s.unmasked r).toNat
  match g with
  | 0 => one .lay | 1 => one .rng
  | 2 => bitsOf 64 fun n => s.unmasked (.seat n)
  | 3 => bitsOf 12 fun x => s.unmasked (.mem x)
  | 4 => one .trk | 5 => one .arith | 6 => one .qlk | 7 => one .host | 8 => one .chk | 9 => one .tst | 10 => one .pwr
  | 11 => one .mgt | _ => 0

/-- ATN_SUMMARY (R558). -/
def State.summaryNow (s : State) : Nat := bitsOf 12 fun g => s.cause g != 0

/-- SEAT_ATN_SUMMARY (R567). -/
def State.seatSummaryNow (s : State) (n : Nat) : Nat :=
  (if s.unmasked (.vfRing n) then 2 else 0) + (if s.unmasked (.vfSeg n) then 4 else 0)
    + (if s.unmasked (.vfArith n) then 32 else 0) + (if s.unmasked (.vfChk n) then 256 else 0)

/-- The lowest bit of a number that is set, 0 of 0. -/
def lowestBit (x : Nat) : Nat := ((List.range 64).find? fun i => x.testBit i).getD 0

/-- A message of a function's vector can be sent (R565). -/
def FnCfg.open_ (f : FnCfg) : Bool := f.msixEnable && !f.fnMask && !f.masked

/-- Sends the message of function `i`, or makes it pending (R565). -/
def Dev.sendMsix (d : Dev) (i : Nat) : Dev :=
  let f := d.fn i
  if f.open_ then d.emit (.msix i f.addr f.data) else d.updFn i fun f => { f with pending := true }

/-- The MSI-X rule of R564 and R569: an armed vector with a request sends and disarms. -/
def Dev.fireMsix (d : Dev) (i : Nat) : Dev :=
  let f := d.fn i
  if f.armed && bitClear f.summary f.mask != 0 then (d.updFn i fun f => { f with armed := false }).sendMsix i else d

/-- Takes over a new summary: ATN_FIRST records its change from 0 (R566). -/
def FnCfg.takeSummary (f : FnCfg) (new slow : Nat) : FnCfg :=
  { f with summary := new,
           first := if f.summary = 0 ∧ new ≠ 0 ∧ f.first = none then some (lowestBit new, slow) else f.first }

/-- A pending message is sent once nothing holds it (R565). -/
def Dev.flushMsix (d : Dev) (i : Nat) : Dev :=
  let f := d.fn i
  if f.pending && f.open_ then (d.updFn i fun f => { f with pending := false }).emit (.msix i f.addr f.data) else d

/-- D0 is on and the slow count runs (R524, R528). -/
def State.d0On (s : State) : Bool := s.pwr.boot != .off

/-- The pin condition of R558, as R563 restricts it in recovery-HELD. -/
def State.pinCondition (s : State) (summary : Nat) : Bool :=
  let sum := if s.pwr.boot == .recovery then summary &&& 2 ^ 11 else summary
  bitClear sum s.atn.pinMask != 0 || s.atn.force

/-- The loaded context of a time-shared seat counts a slow cycle (R408). -/
def Dev.countLoaded (d : Dev) (n : Nat) : Dev :=
  match (d.seat n).loaded with
  | some c => d.updCtx (16 * n + c) fun k => { k with meter := { k.meter with loaded := (k.meter.loaded + 1) % 2 ^ 64 } }
  | none => d

/-- A seat's part of a tick: its summary and its vector, which follows R569 only while VF Enable is 1 (R565). -/
def Dev.seatTick (d : Dev) (n sum slow : Nat) : Dev :=
  let d := d.countLoaded n
  let d := d.updFn (n + 1) fun f => f.takeSummary sum slow
  if d.glb.vfEnable then d.fireMsix (n + 1) else d

/-- One slow cycle of the attention tree (R558 to R569). -/
def State.tick (s : State) : State :=
  let slow := (s.dev.slow + 1) % 2 ^ 48
  let sum := s.summaryNow
  let d := { s.dev with slow := slow, recent := [] }
  let d := (d.updFn 0 fun f => f.takeSummary sum slow).fireMsix 0
  let d := (List.range 64).foldl (fun d n => d.seatTick n (s.seatSummaryNow n) slow) d
  let causes := (List.range 12).foldl (fun m g => SMap.put 0 m g (s.cause g)) []
  { s with dev := d,
           atn := { s.atn with causes := causes, pin := s.atn.pinNext && s.pwr.boot != .tripped,
                               pinNext := s.pinCondition sum } }

/-- ATTENTION_TICK (R558): one slow cycle. -/
def execAttentionTick (s : State) : Host.Outcome State Fault Refusal :=
  .next (if s.d0On then s.tick else s)

/-- ATN_REARM (R564): arms the PF vector; the rule applies again in the same slow cycle. -/
def execAtnRearm (s : State) : Host.Outcome State Fault Refusal :=
  .next (if s.mgtReady then { s with dev := (s.dev.updFn 0 fun f => { f with armed := true }).fireMsix 0 } else s)

/-- SEAT_ATN_REARM (R568, R569): arms the seat's vector. -/
def execSeatAtnRearm (seat : Nat) (s : State) : Host.Outcome State Fault Refusal :=
  .next (if s.ready && s.dev.vfOpen seat then
      { s with dev := (s.dev.updFn (seat + 1) fun f => { f with armed := true }).fireMsix (seat + 1) }
    else s)

/-- MSIX_ENABLE (R565): MSI-X Enable is set with the Function Mask given, and with `unmask` the Vector Control mask bit of
entry 0 is cleared; a pending message is then sent. The PF answers in recovery-HELD too (R543, R555). -/
def execMsixEnable (fn : Fn) (fnMask unmask : Bool) (s : State) : Host.Outcome State Fault Refusal :=
  let present := match fn with
    | .pf => true
    | .vf _ => s.dev.glb.vfEnable
  .next (if s.mgtReady && present then
      { s with dev := (s.dev.updFn fn.index fun f =>
          { f with msixEnable := true, fnMask := fnMask, masked := f.masked && !unmask }).flushMsix fn.index }
    else s)

/-- VF_ENABLE (R565, R440): VF Enable becomes 1; the seats' vectors follow R569 from here on. `busMaster` gives each VF's
Bus Master Enable (R431, log 56). -/
def execVfEnable (busMaster : Nat) (s : State) : Host.Outcome State Fault Refusal :=
  .next (if s.ready && s.dev.glb.dlUp then
      let d := { s.dev with glb := { s.dev.glb with vfEnable := true } }
      { s with dev := (List.range 64).foldl (fun d n =>
          (d.updFn (n + 1) fun f => { f with busMaster := busMaster.testBit n }).fireMsix (n + 1)) d }
    else s)

end Sys2Proof.Machine
end

