-- ==== Sys2Proof/Machine/Extents.lean ====
section
/-! DEFINITION. Where an image places tables and rows (05), and the extents of what it places in memory (02). -/

namespace Sys2Proof.Machine

/-! ## Table geometry (R171 to R177) -/

/-- Bytes of a row (R171). -/
def TableRec.rowBytes (t : TableRec) : Nat :=
  if t.rowFormat = 1 then 4 + t.dimension else if t.rowFormat = 2 then 4 + t.dimension / 2 else 2 * t.dimension

/-- A split table (R174). -/
def TableRec.isSplit (t : TableRec) : Bool := decide ((t.rowFormat = 1 ∨ t.rowFormat = 2) ∧ t.rowBytes = 1028)

/-- The bits that are set, ascending. -/
def setBits (n x : Nat) : List Nat := (List.range n).filter x.testBit

/-- The stacks and the pseudo-channels of a table (R175). -/
def TableRec.dies (t : TableRec) : List Nat := setBits 12 t.stackMask
def TableRec.pcs (t : TableRec) : List Nat := setBits 64 t.pcMask

/-- Bytes of a part (R176). -/
def TableRec.part (t : TableRec) : Nat := t.lengthPerStack / t.pcs.length

/-- Rows of a part (R176). -/
def TableRec.rowsPerPart (t : TableRec) : Nat :=
  ceilDiv t.rows (t.interleave * (t.dies.length * t.pcs.length)) * t.interleave

/-- Where a row lies (R176): stack, pseudo-channel, slot address, and for a split table the address of its header. -/
structure RowPlace where
  stack : Nat
  pc : Nat
  addr : Nat
  header : Nat
  deriving DecidableEq, Repr

/-- The place of row r (R175, R176). -/
def TableRec.place (t : TableRec) (r : Nat) : RowPlace :=
  let ns := t.dies.length
  let u := ns * t.pcs.length
  let s := r / t.interleave
  let k := s % u
  let q := s / u
  let stack := t.dies.getD (k % ns) 0
  let j := k / ns
  let l := q * t.interleave + r % t.interleave
  let base := stack * 2 ^ 36 + t.base + j * t.part
  ⟨stack, t.pcs.getD j 0, base + l * t.slotAtoms * 64, base + t.rowsPerPart * 1024 + 4 * l⟩

/-! ## Extents (R588) -/

/-- A structure that an image places in memory: section and record that name it, first byte, length, seat. `kind` is the
cover it gives its frames (R383), `tag` the tag. -/
structure Extent where
  sect : Nat
  idx : Nat
  start : Nat
  len : Nat
  seat : Nat
  kind : FrameKind
  tag : Nat
  deriving DecidableEq, Repr

/-- The extent lies wholly in one of M0 to M11 (R588). -/
def Extent.inStack (e : Extent) : Bool :=
  decide (e.start / 2 ^ 36 ≤ 11) && decide ((e.start + e.len - 1) / 2 ^ 36 = e.start / 2 ^ 36)

/-- Two ranges share a byte. -/
def rangesMeet (a n b m : Nat) : Bool := decide (0 < n) && decide (0 < m) && decide (a < b + m) && decide (b < a + n)

/-- The save segments of the seats in use. -/
def Layout.saveExtents (l : Layout) : List Extent :=
  (l.seats.zipIdx.filter (·.1.kind != 0)).map fun p => ⟨1, p.2, p.1.saveBase, p.1.saveLength, p.2, .device, 0⟩

/-- The areas of a table on its stacks. -/
def TableRec.areas (t : TableRec) (i : Nat) : List Extent :=
  t.dies.map fun x => ⟨4, i, x * 2 ^ 36 + t.base, t.lengthPerStack, t.seat, .seat, t.seat * 1024⟩

/-- The default row of a table, if it is stored (R180). -/
def TableRec.defaultExtent (t : TableRec) (i : Nat) : List Extent :=
  if t.defaultKind = 1 then [⟨4, i, t.defaultRow, ceilDiv t.rowBytes 64 * 64, t.seat, .seat, t.seat * 1024⟩] else []

/-- Tables and default rows. -/
def Layout.tableExtents (l : Layout) : List Extent :=
  l.tables.zipIdx.flatMap fun p => p.1.areas p.2 ++ p.1.defaultExtent p.2

/-- Submission and completion ring of a ring record (R125). -/
def RingRec.extents (r : RingRec) (i : Nat) : List Extent :=
  if r.seat = 255 then []
  else
    let t := tagOf (r.seat * 16 + r.context)
    [⟨6, i, r.submitBase, 2 ^ r.log2Size * 64, r.seat, .context, t⟩, ⟨6, i, r.completeBase, 2 ^ r.log2Size * 32, r.seat, .context, t⟩]

/-- Rings and completion rings. -/
def Layout.ringExtents (l : Layout) : List Extent := l.rings.zipIdx.flatMap fun p => p.1.extents p.2

/-- Everything the image places. -/
def Layout.extents (l : Layout) : List Extent := l.saveExtents ++ l.tableExtents ++ l.ringExtents

/-- The two image buffers of the layout area (R42). -/
def layoutBuffer (b : Nat) : Nat := 0xFFC000000 + b * 0x2000000

/-- The regions that the device reserves on stack x (R333): first byte and length (log 58). -/
def reserved (x spare : Nat) : List (Nat × Nat) :=
  let b := x * 2 ^ 36
  (if x = 0 then [(b + 0xFFC000000, 0x4000000), (b + 0xEFC000000, 0x100000000)] else [(b + 0xF00000000, 0x100000000)])
    ++ [(b + spare * 65536, 8192 * 65536)]

/-- The frames of an extent, as bytes. -/
def Extent.frames (e : Extent) : Nat × Nat := (e.start / 65536 * 65536, ceilDiv (e.start + e.len) 65536 * 65536 - e.start / 65536 * 65536)

/-- The structures of the image that DETECT may not cover: tables, default rows, rings and completion rings (R379, log 62). -/
def Layout.correctOnly (l : Layout) : List Extent := l.tableExtents ++ l.ringExtents

end Sys2Proof.Machine
end

