-- ==== Sys2Proof/Machine/Dram.lean ====
section
/-! DEFINITION. Where a byte of a memory stack lies (10): frames, spare frames and retirement, pinned frames, and the DRAM row of each
1 KiB chunk. -/

namespace Sys2Proof.Machine

/-- The frame of a device physical address within its stack (R331). -/
def frameOf (a : Nat) : Nat := offsetOf a / 65536

/-- First byte of frame f of stack x. -/
def frameAddr (x f : Nat) : Nat := x * 2 ^ 36 + f * 65536

/-- MEM_SPARE_BASE of stack x (R333, R368). -/
def Mem.spareBase (m : Mem) (x : Nat) : Nat := (m.stack x).spareBase.getD (if x = 0 then 0xEDC00 else 0xEE000)

/-- Where an access goes: an ACTIVE remap entry sends its frame to its spare frame (R364). A device physical address has 40
bits (R16). -/
def Mem.locate (m : Mem) (a : Nat) : Nat :=
  let x := stackOf a
  match (m.stack x).remap.find? fun e => e.2.state == .active && e.2.frame == frameOf a with
  | some e => (frameAddr x (m.spareBase x + e.1) + a % 65536) % 2 ^ 40
  | none => a % 2 ^ 40

/-- The address whose accesses go to a located address: that of the retired frame where it lies in a bound spare frame (R364). -/
def Mem.unlocate (m : Mem) (a : Nat) : Nat :=
  let x := stackOf a
  match (m.stack x).remap.find? fun e => e.2.state == .active && m.spareBase x + e.1 == frameOf a with
  | some e => frameAddr x e.2.frame + a % 65536
  | none => a

/-! ## DRAM rows (R330 to R332) -/

/-- The pseudo-channel that a frame is pinned to (R332). -/
def Stack.pinOf (k : Stack) (f : Nat) : Option Nat :=
  match k.pinSpare with
  | some b => if b ≤ f ∧ f < b + 8192 then some ((f - b) % 64)
    else (k.pins.find? fun p => decide (p.first ≤ f) && decide (f < p.first + p.count)).map (·.pc)
  | none => (k.pins.find? fun p => decide (p.first ≤ f) && decide (f < p.first + p.count)).map (·.pc)

/-- The frames below `f` that are pinned to pseudo-channel `pc`. -/
def Stack.pinnedBelow (k : Stack) (pc f : Nat) : Nat :=
  ((k.pins.filter (·.pc == pc)).map fun p => min (p.first + p.count) f - min p.first f).sum +
    match k.pinSpare with
    | some b => (min (b + 8192) f - min b f + 63 - pc) / 64
    | none => 0

/-- The DRAM rows of a pseudo-channel that pinned frames leave to the interleaved ones. -/
def Stack.rowsLeft (k : Stack) (pc : Nat) : Nat := 1048576 - 64 * k.pinnedBelow pc 1048576

/-- The place of an interleaved chunk by its number: the rows left are taken level by level, one of each pseudo-channel that still has one,
so that the chunks spread as evenly as the pinned frames allow (R331). `left` lists the rows left. -/
def spreadOver (left : List Nat) : Nat → Nat → Nat → Nat × Nat
  | 0, _, _ => (0, 0)
  | fuel + 1, level, j =>
    let open_ := (List.range 64).filter fun p => decide (level < left.getD p 0)
    let next := open_.foldl (fun m p => min m (left.getD p 0)) 1048576
    let size := (next - level) * open_.length
    if j < size then (open_.getD (j % open_.length) 0, level + j / open_.length) else spreadOver left fuel next (j - size)

/-- The pseudo-channel of a located address and the number of its DRAM row there (R331, log 10). -/
def Mem.dram (m : Mem) (a : Nat) : Nat × Nat :=
  let x := stackOf a
  let k := m.stack x
  let f := frameOf a
  let i := a / 1024 % 64
  let p := match k.pinOf f with
    | some p => (p, 64 * k.pinnedBelow p f + i)
    | none =>
      let inner := f - ((List.range 64).map fun p => k.pinnedBelow p f).sum
      let q := spreadOver ((List.range 64).map k.rowsLeft) 65 0 (64 * inner + (Config.spread x f (Fin.ofNat 64 i)).val)
      (q.1, 64 * k.pinnedBelow q.1 1048576 + q.2)
  (p.1, (Config.dramRow x p.1 (Fin.ofNat 1048576 p.2)).val)

/-- Pseudo-channel, bank and row of a located address (R330). -/
def Mem.pcOf (m : Mem) (a : Nat) : Nat := (m.dram a).1
def Mem.bankOf (m : Mem) (a : Nat) : Nat := (m.dram a).2 / 16384
def Mem.rowOf (m : Mem) (a : Nat) : Nat := (m.dram a).2 % 16384

end Sys2Proof.Machine
end

