-- ==== Sys2Proof/Machine/Memory.lean ====
section
/-! DEFINITION. Memory as the memory base dies serve it (10, 11): bytes, frames, remapping, protection classes and
stored poison, row repair, and requests with their tag check. -/

namespace Sys2Proof.Machine

/-! ## Bytes -/

/-- What an address reads as that nothing is listed at: 0, or a free byte of a frame that lost its contents (R332, R386,
logs 5, 6). `a` is located. -/
def Mem.dflt (m : Mem) (a : Nat) : Byte :=
  let n := ((m.stack (stackOf a)).frames.get {} (frameOf a)).lost
  if n = 0 then 0 else Config.lostByte n a

/-- The byte at a located address. -/
def Mem.rawByte (m : Mem) (a : Nat) : Byte :=
  match SMap.find m.cells a with
  | some v => v
  | none => m.dflt a

/-- The byte that an access to device physical address `a` reads. -/
def Mem.byte (m : Mem) (a : Nat) : Byte := m.rawByte (m.locate a)

/-- Writes a byte at a located address; the value an unlisted byte reads as is not listed. -/
def Mem.putRaw (m : Mem) (a : Nat) (v : Byte) : Mem :=
  { m with cells := if v = m.dflt a then SMap.del m.cells a else SMap.ins m.cells a v }

/-- Writes a byte at device physical address `a`. -/
def Mem.putByte (m : Mem) (a : Nat) (v : Byte) : Mem := m.putRaw (m.locate a) v

/-- The bytes of memory from `a` on, whatever ZERO_PENDING and poison say. -/
def Mem.bytes (m : Mem) (a n : Nat) : List Byte := (List.range n).map fun i => m.byte (a + i)

/-- Writes bytes from `a` on. -/
def Mem.putBytes (m : Mem) : Nat → List Byte → Mem
  | _, [] => m
  | a, b :: t => (m.putByte a b).putBytes (a + 1) t

/-- Drops what is listed in [a, a + n). -/
def Mem.dropRange (m : Mem) (a n : Nat) : Mem :=
  { m with cells := m.cells.filter fun c => !(decide (a ≤ c.1) && decide (c.1 < a + n)) }

/-- The canonical form of the bytes: addresses of 40 bits rising, none listed at the value it would read unlisted. -/
def Mem.wf (m : Mem) : Bool :=
  SMap.sorted m.cells && m.cells.all fun c => decide (c.2 ≠ m.dflt c.1) && decide (c.1 < 2 ^ 40)

/-! ## Frames -/

/-- An entry of the frame map (R382). -/
structure FrameEntry where
  kind : FrameKind
  tag : Nat
  zero : Bool
  deriving DecidableEq, Repr

/-- The cover reaches the frame. -/
def Cover.has (c : Cover) (f : Nat) : Bool := decide (c.first ≤ f) && decide (f < c.first + c.count)

/-- KIND and TAG of a frame from what covers it: the first row of R383 that matches. -/
def frameOwner (cs : List Cover) (f : Nat) : FrameKind × Nat :=
  let cs := cs.filter (·.has f)
  if cs.any (·.kind == .device) then (.device, 0)
  else match cs.find? (·.kind == .seat) with
    | some c => (.seat, c.tag / 1024 * 1024)
    | none => match cs with
      | [] => (.free, 0)
      | c :: rest => if rest.all (·.tag == c.tag) then (.context, c.tag) else (.seat, c.tag / 1024 * 1024)

/-- The frame map entry of frame f of stack x (R382). -/
def Mem.frame (m : Mem) (x f : Nat) : FrameEntry :=
  let k := m.stack x
  let o := frameOwner k.covers f
  ⟨o.1, o.2, (k.frames.get {} f).zero⟩

/-- Makes a frame ZERO_PENDING: what was in it, where its accesses go, is gone (R364, R380, R386, R406). -/
def Mem.zeroFrame (m : Mem) (x f : Nat) : Mem :=
  let b := m.locate (frameAddr x f)
  let m := m.dropRange b 65536
  let m := m.updStack (stackOf b) fun k => { k with frames := SMap.upd {} k.frames (frameOf b) fun e => { e with lost := 0 } }
  let m := m.updStack x fun k => { k with frames := SMap.upd {} k.frames f fun e => { e with zero := true } }
  { m with poison := m.poison.filter fun a => a / 1024 != b / 65536, upsets := m.upsets.filter fun e => e.1 / 1024 != b / 65536 }

/-- The frames of [f, f + n) of stack x that hold anything: a loss mark, listed bytes, poison or upsets, or that are retired. -/
def Mem.usedFrames (m : Mem) (x f n : Nat) : List Nat :=
  let k := m.stack x
  let own : List Nat := (m.cells.map fun c => c.1) ++ (m.poison.map fun p => 64 * p) ++ m.upsets.map fun u => 64 * u.1
  let used : List Nat := (k.frames.map fun e => e.1) ++ ((own.filter fun a => stackOf a == x).map frameOf) ++ k.remap.map fun e => e.2.frame
  (used.filter fun g => decide (f ≤ g) && decide (g < f + n)).eraseDups

/-- Makes frames f to f + n − 1 of stack x ZERO_PENDING. -/
def Mem.zeroFrames (m : Mem) (x f n : Nat) : Mem := (m.usedFrames x f n).foldl (fun m g => m.zeroFrame x g) m

/-- A frame whose placement changes loses its contents: it reads free values from here on (R332, log 5). -/
def Mem.loseFrame (m : Mem) (x f stamp : Nat) : Mem :=
  let m := m.dropRange (frameAddr x f) 65536
  let m := m.updStack x fun k => { k with frames := SMap.upd {} k.frames f fun e => { e with lost := stamp } }
  let atom := fun (a : Nat) => a / 2 ^ 30 == x && a / 1024 % 2 ^ 20 == f
  { m with poison := m.poison.filter fun a => !atom a, upsets := m.upsets.filter fun e => !atom e.1 }

/-- The zero fill of a frame, where its accesses go: 1,024 atoms of zeros, and ZERO_PENDING clears (R386). -/
def Mem.fillFrame (m : Mem) (x f : Nat) : Mem :=
  let b := m.locate (frameAddr x f)
  let m := m.dropRange b 65536
  let m := m.updStack (stackOf b) fun k => { k with frames := SMap.upd {} k.frames (frameOf b) fun e => { e with lost := 0 } }
  let m := m.updStack x fun k => { k with frames := SMap.upd {} k.frames f fun e => { e with zero := false } }
  { m with poison := m.poison.filter fun a => a / 1024 != b / 65536, upsets := m.upsets.filter fun e => e.1 / 1024 != b / 65536 }

/-- A tag of 16 bits is valid: CONTEXT bits [9:4] equal SEAT (R375). -/
def tagValid (tag : Nat) : Bool := decide (tag < 2 ^ 16) && tag / 16 % 64 == tagSeat tag

/-- A tagged request passes the check of R384; one whose tag is not valid (R375) passes none. -/
def FrameEntry.admits (e : FrameEntry) (tag : Nat) : Bool :=
  tagValid tag && ((e.kind == .context && e.tag == tag) || (e.kind == .seat && tagSeat e.tag == tagSeat tag))

/-! ## Atoms: protection and poison -/

/-- A table, default row, ring, completion ring or save segment of the active image holds the address: class CORRECT always (R348). -/
def Dev.structureAt (d : Dev) (a : Nat) : Bool :=
  ((d.layout.map (·.extents)).getD []).any fun e => decide (e.start ≤ a) && decide (a < e.start + e.len)

/-- An enabled segment of class DETECT covers the address, and no structure that always carries CORRECT does (R348). -/
def Dev.isDetect (d : Dev) (a : Nat) : Bool :=
  (d.ctxs.any fun c => c.2.segs.any fun g =>
    g.2.enable && g.2.detect && decide (g.2.pbase ≤ a) && decide (a < g.2.pbase + g.2.length * 65536)) && !d.structureAt a

/-- Atom `a / 64` (located) is stored poison (R351). -/
def Mem.isPoison (m : Mem) (a : Nat) : Bool := m.poison.contains (m.locate a / 64)

/-- Stores poison, or clears it (R351). -/
def Mem.setPoison (m : Mem) (a : Nat) (on : Bool) : Mem :=
  let k := m.locate a / 64
  { m with poison := if on then insertAsc k m.poison else m.poison.filter (· ≠ k) }

/-- Who makes a request, for MEM_FAULT_INFO (R368). -/
structure Who where
  seat : Nat := 0
  host : Bool := false
  deriving DecidableEq, Repr

/-- Records a fault (R350, R368): MEM_FAULT_ADDR the address of the request, MEM_FAULT_LOC the DRAM row of the located address `b`. -/
def Dev.recordAt (d : Dev) (a b kind : Nat) (w : Who) : Dev :=
  d.updStack (stackOf a) fun k =>
    { k with faultAddr := offsetOf a / 64 * 64, faultPc := d.mem.pcOf b, faultBank := d.mem.bankOf b, faultRow := d.mem.rowOf b,
             faultSpare := SMap.find k.repair (offsetOf b / 1024), faultKind := kind, faultSeat := w.seat,
             faultHost := w.host }

/-- Records a fault of the atom that an access to `a` reaches. -/
def Dev.recordFault (d : Dev) (a kind : Nat) (w : Who) : Dev := d.recordAt a (d.mem.locate a) kind w

/-- A row meets R359 through a request to `a`: its repair starts, or its bank has no unused spare (R360 to R362). -/
def Dev.repairRow (d : Dev) (a : Nat) (w : Who) : Dev :=
  let x := stackOf a
  let b := d.mem.locate a
  let c := offsetOf b / 1024
  let k := d.mem.stack x
  let bank := d.mem.pcOf b * 64 + d.mem.bankOf b
  if k.repairing.any (·.1 == c) then d
  else if k.sparesUsed.get 0 bank < 8 then
    d.updStack x fun k =>
      { k with repairing := k.repairing ++ [(c, k.sparesUsed.get 0 bank)], sparesUsed := SMap.upd 0 k.sparesUsed bank (· + 1),
               suspects := SMap.del k.suspects c }
  else
    ((d.updStack x fun k =>
      { k with exhausted := insertAsc c k.exhausted, suspects := SMap.del k.suspects c }).recordFault a 6 w).setLeaf
      (.mem x) 3

/-- The suspect entry that gives way in a full table: the lowest count (R358). -/
def lowestSuspect (m : SMap Nat) : Nat :=
  (m.foldl (fun (b : Nat × Nat) p => if p.2 < b.2 then (p.1, p.2) else b) ((m.headD (0, 0)).1, (m.headD (0, 0)).2)).1

/-- Counts a corrected read of the row of `a`; the fourth repairs it (R358, R359). -/
def Dev.countCorrected (d : Dev) (a : Nat) (w : Who) : Dev :=
  let x := stackOf a
  let c := offsetOf (d.mem.locate a) / 1024
  let k := d.mem.stack x
  if k.exhausted.contains c then d
  else
    let n := k.suspects.get 0 c + 1
    let base := if n = 1 ∧ 256 ≤ k.suspects.length then SMap.del k.suspects (lowestSuspect k.suspects) else k.suspects
    let d := d.updStack x fun k => { k with suspects := SMap.put 0 base c n }
    if 4 ≤ n then d.repairRow a w else d

/-- What a check of an atom's symbol errors finds (R349 to R351). -/
inductive AtomCheck where
  | clean
  /-- Stored poison: the check symbols are the correct ones inverted. -/
  | poison
  | corrected
  | address
  | uncorrectable
  /-- A DETECT atom that does not match. -/
  | mismatch
  deriving DecidableEq, Repr

/-- The error pattern as field values. -/
def upsetPairs (es : List (Nat × Byte)) : List (Nat × Nat) := es.map fun e => (e.1, e.2.toNat)

/-- Every check symbol of a CORRECT atom inverted (R351). -/
def rsInverted : List (Nat × Nat) := [(68, 0xFF), (69, 0xFF), (70, 0xFF), (71, 0xFF)]

/-- The check of a CORRECT atom: symbols 0 to 3 are the address (R349); stored poison comes before a correction (R350). -/
def checkCorrect (es : List (Nat × Byte)) : AtomCheck :=
  let s := rsSyndromes (upsetPairs es)
  if s = rsSyndromes rsInverted then .poison
  else match rsDecode s with
    | some [] => .clean
    | some ps => if ps.any (·.1 < 4) then .address else .corrected
    | none => .uncorrectable

/-- The error of one symbol. -/
def errorAt (es : List (Nat × Byte)) (i : Nat) : Byte := (es.filter (·.1 == i)).foldl (fun b e => b ^^^ e.2) 0

/-- The mismatch of a DETECT atom's CRC-16, by the linearity of the code: symbols 0 and 1 are the low half of the index, which sets the
initial value, 4 to 67 the data, 68 and 69 the stored check (R349). -/
def detectMismatch (es : List (Nat × Byte)) : Nat :=
  (crcKind 3).run ((errorAt es 0).toNat + 256 * (errorAt es 1).toNat) ((List.range 64).map fun i => errorAt es (i + 4))
    ^^^ ((errorAt es 68).toNat + 256 * (errorAt es 69).toNat)

/-- The check of a DETECT atom (R350). -/
def checkDetect (es : List (Nat × Byte)) : AtomCheck :=
  let x := detectMismatch es
  if x = 0 then .clean else if x = 0xFFFF then .poison else .mismatch

/-- The check of an atom by its class. -/
def atomCheck (detect : Bool) (es : List (Nat × Byte)) : AtomCheck := if detect then checkDetect es else checkCorrect es

/-- The check asks for a re-read (R350). -/
def AtomCheck.again : AtomCheck → Bool
  | .address | .uncorrectable | .mismatch => true
  | _ => false

/-- The bytes of an atom with its data errors in place (those a check does not see or correct). -/
def applyUpset (bs : List Byte) (es : List (Nat × Byte)) : List Byte :=
  bs.zipIdx.map fun p => p.1 ^^^ errorAt es (p.2 + 4)

/-- Adds to a saturating counter of a stack. -/
def Dev.bump (d : Dev) (x : Nat) (f : Stack → Stack) : Dev := d.updStack x f

/-- Removes an atom's symbol errors: it has been rewritten. -/
def Mem.clearUpset (m : Mem) (a : Nat) : Mem := { m with upsets := SMap.del m.upsets (m.locate a / 64) }

/-- The symbol errors of an atom become those of a re-read. -/
def Mem.setUpset (m : Mem) (a : Nat) (es : List (Nat × Byte)) : Mem :=
  { m with upsets := SMap.put [] m.upsets (m.locate a / 64) es }

/-- Counts a read of stored poison and records it (R350). -/
def Dev.readPoison (d : Dev) (a : Nat) (w : Who) : Dev :=
  (d.bump (stackOf a) fun k => { k with poisonReads := satInc32 k.poisonReads 1 }).recordFault a 8 w

/-- The action of the row of R350 that a check ends in, and whether the data arrives poisoned. -/
def Dev.settleAtom (d : Dev) (a : Nat) (c : AtomCheck) (w : Who) : Dev × Bool :=
  let x := stackOf a
  let worse := fun (d : Dev) => d.bump x fun k => { k with ue := satInc32 k.ue 1 }
  match c with
  | .clean => (d, false)
  | .poison => (d.readPoison a w, true)
  | .corrected =>
    let d := (d.bump x fun k => { k with ce := satInc32 k.ce 1 }).recordFault a 1 w
    (({ d with mem := d.mem.clearUpset a }).countCorrected a w, false)
  | .address => (((worse d).recordFault a 3 w).setLeaf (.mem x) 1, true)
  | .uncorrectable | .mismatch =>
    let d := ((worse d).recordFault a 2 w).setLeaf (.mem x) 0
    (({ d with mem := (d.mem.clearUpset a).setPoison a true }).repairRow a w, true)

/-- A read of an atom with symbol errors `es` (R350): a check that asks for it is made again on what a re-read finds, and the row of the
re-read is taken; a DETECT mismatch that the re-read does not find counts in MEM_DETECT_RETRY. The device, the errors left in the data,
whether it arrives poisoned, and whether the request waited on a re-read. -/
def Dev.checkAtom (d : Dev) (a : Nat) (es : List (Nat × Byte)) (again : Option (List (Nat × Byte))) (w : Who) :
    Dev × List (Nat × Byte) × Bool × Bool :=
  let detect := d.isDetect a
  let c := atomCheck detect es
  if c.again then
    let es' := again.getD es
    let c' := atomCheck detect es'
    let d := if again.isSome then { d with mem := d.mem.setUpset a es' } else d
    let d := if c = .mismatch ∧ c' = .clean then
        (d.bump (stackOf a) fun k => { k with retry := satInc32 k.retry 1 }).recordFault a 4 w
      else d
    let r := d.settleAtom a c' w
    (r.1, if c' = .clean then es' else [], r.2, true)
  else
    let r := d.settleAtom a c w
    (r.1, if c = .clean then es else [], r.2, false)

/-- A read of one atom (R30, R350): bytes as stored or corrected, whether poisoned, whether it waited on a re-read. `again` is what a
re-read finds, where it differs. -/
def Dev.readAtom (d : Dev) (a : Nat) (again : Option (List (Nat × Byte))) (w : Who) : Dev × List Byte × Bool × Bool :=
  let base := a / 64 * 64
  let bs := d.mem.bytes base 64
  if (d.mem.frame (stackOf a) (frameOf a)).zero then (d, List.replicate 64 0, false, false)
  else if d.mem.isPoison a then (d.readPoison base w, bs, true, false)
  else
    let es := d.mem.upsets.get [] (d.mem.locate a / 64)
    if es.isEmpty then (d, bs, false, false)
    else
      let r := d.checkAtom base es again w
      (r.1, applyUpset bs r.2.1, r.2.2)

/-- A write of bytes within one atom (R339, R350, R351): a whole atom gets fresh check symbols; a part of an atom is merged
after the atom is read and corrected, and a poisoned atom stays poisoned. ZERO_PENDING is cleared by the fill (R386). -/
def Dev.writeAtom (d : Dev) (a : Nat) (bs : List Byte) (w : Who) : Dev :=
  let d := if (d.mem.frame (stackOf a) (frameOf a)).zero then
      { d with mem := d.mem.fillFrame (stackOf a) (frameOf a) }
    else d
  if bs.length = 64 then
    { d with mem := ((d.mem.clearUpset a).setPoison a false).putBytes a bs }
  else
    let r := d.readAtom a none w
    let d := r.1
    let m := if (d.mem.upsets.get [] (d.mem.locate a / 64)).isEmpty then d.mem else (d.mem.clearUpset a).putBytes (a / 64 * 64) r.2.1
    { d with mem := m.putBytes a bs }

/-- Reads `n` bytes from `a` on, atom by atom (R30): bytes, and byte by byte whether they arrived poisoned. -/
def Dev.readRange (d : Dev) (w : Who) (a n : Nat) : Dev × List Byte × List Bool :=
  let r := (List.range (ceilDiv (a % 64 + n) 64)).foldl (fun (q : Dev × List Byte × List Bool) i =>
    let u := q.1.readAtom (64 * (a / 64 + i)) none w
    (u.1, q.2.1 ++ u.2.1, q.2.2 ++ List.replicate 64 u.2.2.1)) (d, [], [])
  (r.1, slice (r.2.1.drop (a % 64)) 0 n, (r.2.2.drop (a % 64)).take n)

/-- A write of any length, atom by atom (R30). -/
def Dev.writeRange (d : Dev) (w : Who) : Nat → Nat → List Byte → Dev
  | 0, _, _ => d
  | fuel + 1, a, bs =>
    if bs.isEmpty then d
    else
      let n := 64 - a % 64
      (d.writeAtom a (bs.take n) w).writeRange w fuel (a + n) (bs.drop n)

/-- A device-internal write (R376). -/
def Dev.writeInternal (d : Dev) (a : Nat) (bs : List Byte) : Dev := d.writeRange { host := true } (bs.length + 1) a bs

/-- Writes stored poison over every atom of [a, a + n). -/
def Dev.poisonRange (d : Dev) (a n : Nat) : Dev :=
  let first := a / 64
  { d with mem := (List.range ((a + n + 63) / 64 - first)).foldl (fun m i => m.setPoison (64 * (first + i)) true) d.mem }

/-! ## Requests at a memory base die -/

/-- A request waits at the die: PROTECT (R356), self-refresh (R530), its row under repair (R360), its frame in COPY (R366)
or being zero-filled (R386), or a table entry that it needs is uncorrectable (R482). -/
def Dev.blocked (d : Dev) (a : Nat) : Bool :=
  let k := d.mem.stack (stackOf a)
  k.thermal == .protect || k.selfRefresh || k.repairing.any (·.1 == offsetOf (d.mem.locate a) / 1024)
    || k.remap.any (fun e => e.2.state == .copy && e.2.frame == frameOf a) || k.filling.contains (frameOf a)
    || k.sramBad.any (fun e => (e.1 == .frameMap && e.2 == frameOf a) || (e.1 == .repair && e.2 == d.mem.bankOf (d.mem.locate a)))

/-- The parts of [a, a + n) by 64 KiB frame. -/
def framePieces : Nat → Nat → Nat → List (Nat × Nat)
  | 0, _, _ => []
  | fuel + 1, a, n =>
    if n = 0 then []
    else
      let k := min n (65536 - a % 65536)
      (a, k) :: framePieces fuel (a + k) (n - k)

/-- A request somewhere in the bytes [a, a + n) of one frame waits at its die: what holds a row is looked for by its number. -/
def Dev.pieceBlocked (d : Dev) (a n : Nat) : Bool :=
  let k := d.mem.stack (stackOf a)
  let first := offsetOf (d.mem.locate a) / 1024
  let rows := ceilDiv (a % 1024 + n) 1024
  k.thermal == .protect || k.selfRefresh || k.repairing.any (fun r => decide (first ≤ r.1) && decide (r.1 < first + rows))
    || k.remap.any (fun e => e.2.state == .copy && e.2.frame == frameOf a) || k.filling.contains (frameOf a)
    || k.sramBad.any (fun e => (e.1 == .frameMap && e.2 == frameOf a)
        || (e.1 == .repair && (List.range rows).any fun i => e.2 == d.mem.bankOf (d.mem.locate a + 1024 * i)))

/-- A request somewhere in [a, a + n) waits at its die. -/
def Dev.rangeBlocked (d : Dev) (a n : Nat) : Bool := (framePieces (n / 65536 + 2) a n).any fun p => d.pieceBlocked p.1 p.2

/-- A request that fails the tag check is counted against the seat of its tag (R385). -/
def Dev.rejectTag (d : Dev) (tag a : Nat) : Dev :=
  let n := tagSeat tag % 64
  (d.updSeat n fun k =>
    { k with tagRejects := satInc32 k.tagRejects 1, faultCtx := tag % 16, faultKind := 3, faultSeg := 0, faultAddr := a }).setLeaf
    (.seat n) 1

/-- Whose request it is. -/
def Source.who : Source → Who
  | .tagged t => { seat := tagSeat t % 64 }
  | .internal => { host := true }

/-- A request passes the die's check (R384). An internal one carries no tag and reaches DEVICE frames (R376): the structures that
the device's own work names are reached by the commands of that work (log 128). -/
def Dev.admits (d : Dev) (src : Source) (a : Nat) : Bool :=
  let e := d.mem.frame (stackOf a) (frameOf a)
  match src with
  | .internal => e.kind == .device
  | .tagged t => e.admits t

/-- Serves a request that nothing holds: the data of a read goes out (R384 to R386). `poison` marks data that arrived poisoned, or a
word that failed its parity check on the way (R352, R480). -/
def Dev.serve (d : Dev) (r : MemReq) (again : Option (List (Nat × Byte))) (poison : Bool) : Dev :=
  if !d.admits r.source r.addr then
    let d := match r.source with
      | .tagged t => d.rejectTag t r.addr
      | .internal => d
    match r.write with
    | some _ => d
    | none => d.emit (.readData (List.replicate 64 0) true)
  else
    match r.write with
    | none =>
      let q := d.readAtom r.addr again r.source.who
      q.1.emit (.readData q.2.1 (q.2.2.1 || poison))
    | some bs =>
      let d := d.writeAtom r.addr bs r.source.who
      if poison then { d with mem := d.mem.setPoison r.addr true } else d

/-- A request that must wait for a zero fill: a write into a ZERO_PENDING frame (R386). -/
def Dev.needsFill (d : Dev) (r : MemReq) : Bool :=
  r.write.isSome && d.admits r.source r.addr && (d.mem.frame (stackOf r.addr) (frameOf r.addr)).zero

/-- Holds a request at its die (R356). -/
def Dev.hold (d : Dev) (h : HeldReq) : Dev := d.updStack (stackOf h.req.addr) fun k => { k with held := k.held ++ [h] }

/-- A request reaches its die: it waits, starts a zero fill, or is served; the completion of a host-class write goes out then (R422). -/
def Dev.take (d : Dev) (h : HeldReq) : Dev :=
  if d.blocked h.req.addr then d.hold h
  else if d.needsFill h.req then
    (d.updStack (stackOf h.req.addr) fun k => { k with filling := insertAsc (frameOf h.req.addr) k.filling }).hold h
  else
    let e := d.serve h.req h.again h.poison
    if h.reply then e.emit .writeDone else e

/-- A request of the device's own reaches its die. -/
def Dev.request (d : Dev) (r : MemReq) (again : Option (List (Nat × Byte))) (poison : Bool) : Dev := d.take { req := r, poison := poison, again := again }

/-- Serves, in order, what is held at stack x and nothing holds any more. -/
def Dev.release (d : Dev) (x : Nat) : Dev :=
  let held := (d.mem.stack x).held
  let d := d.updStack x fun k => { k with held := [] }
  held.foldl Dev.take d

/-- Records a failed translation or segment check (R385, R409, R411): `kind` 1 no segment, 2 permission or end, 4 host ingress. -/
def Dev.segFault (d : Dev) (x a kind seg : Nat) : Dev :=
  let n := x / 16
  ((d.updSeat n fun k => { k with faultCtx := x % 16, faultKind := kind, faultSeg := seg, faultAddr := a }).setLeaf (.seat n) 0).setLeaf
    (.vfSeg n) 0

/-- A request whose address names stack 12 to 15 fails its segment check and reaches no die (R31, R385): it is not issued, and the seat of
its tag records it as an address that no segment covers (log 129). -/
def Dev.noStack (d : Dev) (r : MemReq) : Dev :=
  match r.source with
  | .tagged t => d.segFault (t % 1024) r.addr 1 0
  | .internal => d

/-- Symbol errors develop in an atom. -/
def Mem.upset (m : Mem) (a : Nat) (u : Upset) : Mem :=
  if u.symbols.isEmpty then m
  else { m with upsets := SMap.put [] m.upsets (m.locate a / 64) (m.upsets.get [] (m.locate a / 64) ++ u.symbols) }

/-- MEMORY_REQUEST (R384): a request reaches its memory base die. `upset` is what symbol errors its atom has developed
(R349, R350); `parity` a mismatch on the way to the die, which makes a written atom stored poison and a read deliver
poison (R480, R481). An address that names stack 12 to 15 fails its segment check (R31). -/
def execMemoryRequest (request : MemReq) (upset : Upset) (parity : Bool) (s : State) : Host.Outcome State Fault Refusal :=
  .next (if 12 ≤ stackOf request.addr then { s with dev := s.dev.noStack request }
    else
      let d := if parity then
          (({ s.dev with chk := { s.dev.chk with parity := satInc32 s.dev.chk.parity 1, infoUnit := stackOf request.addr,
                                                 infoSeat := none } }).setLeaf .chk 0)
        else s.dev
      let d := { d with mem := d.mem.upset request.addr upset }
      { s with dev := d.request request upset.again parity })

/-- An atom as a repair copies it: corrected where its class can, stored poison where it cannot (R360). `b` is located. -/
def Dev.scrubAtom (d : Dev) (b : Nat) : Dev :=
  let es := d.mem.upsets.get [] (b / 64)
  let c := atomCheck (d.isDetect (d.mem.unlocate b)) es
  if es.isEmpty then d
  else { d with mem := { d.mem with
      cells := if c = .clean then (((List.range 64).filter fun i => errorAt es (i + 4) != 0).foldl (fun m i =>
          m.putRaw (b + i) (m.rawByte (b + i) ^^^ errorAt es (i + 4))) d.mem).cells else d.mem.cells
      upsets := SMap.del d.mem.upsets (b / 64)
      poison := if c = .clean ∨ c = .corrected then d.mem.poison else insertAsc (b / 64) d.mem.poison } }

/-- A repair of row `c` ends: the row is in spare `spare` (R360, R368). The record names the row that it left (R361). -/
def Dev.endRepair (d : Dev) (x c spare : Nat) (rest : List (Nat × Nat)) : Dev :=
  let a := (x * 2 ^ 36 + c * 1024) % 2 ^ 40
  let d := (List.range 16).foldl (fun d i => d.scrubAtom (a + 64 * i)) d
  ((d.recordAt (d.mem.unlocate a) a 5 { host := true }).updStack x fun k =>
    { k with repairing := rest, repair := SMap.ins k.repair c spare, repairs := min (k.repairs + 1) 0xFFFF }).setLeaf (.mem x) 2

/-- ROW_REPAIR_DONE (R360): the oldest repair of the stack ends; the held requests are served. -/
def execRowRepairDone (stack : Nat) (s : State) : Host.Outcome State Fault Refusal :=
  .next (match (s.dev.mem.stack stack).repairing with
    | [] => s
    | (c, spare) :: rest => { s with dev := (s.dev.endRepair stack c spare rest).release stack })

/-- ZERO_FILL_DONE (R386): the fill of a frame ends; the held write is served. -/
def execZeroFillDone (stack frame : Nat) (s : State) : Host.Outcome State Fault Refusal :=
  .next (if (s.dev.mem.stack stack).filling.contains frame then
      let d := { s.dev with mem := s.dev.mem.fillFrame stack frame }
      { s with dev := (d.updStack stack fun k => { k with filling := k.filling.filter (· ≠ frame) }).release stack }
    else s)

/-- PATROL_SCRUB (R353): the die reads an atom in slack cycles and applies R350; `upset` is what errors it has developed. A
die in self-refresh or PROTECT has no slack cycles. -/
def execPatrolScrub (stack index : Nat) (upset : Upset) (s : State) : Host.Outcome State Fault Refusal :=
  let a := stack * 2 ^ 36 + 64 * index
  .next (if 12 ≤ stack || s.dev.blocked a then s
    else
      let d := { s.dev with mem := s.dev.mem.upset a upset }
      { s with dev := (d.readAtom a upset.again { host := true }).1 })

/-- SELF_REFRESH_EXIT (R530): a memory group that a request woke leaves self-refresh; the request proceeds. -/
def execSelfRefreshExit (group : Nat) (s : State) : Host.Outcome State Fault Refusal :=
  .next { s with dev := [3 * group, 3 * group + 1, 3 * group + 2].foldl (fun d x =>
    if (d.mem.stack x).selfRefresh then (d.updStack x fun k => { k with selfRefresh := false }).release x else d) s.dev }

/-! ## Temperature (R354 to R356) -/

/-- The highest state whose entry condition holds (R355). -/
def Thermal.entered (t : Nat) : Thermal :=
  if 105 < t then .protect else if 100 < t then .capped else if 95 < t then .refresh4x
  else if 85 < t then .refresh2x else .normal

/-- A state is left at or below this (R355). -/
def Thermal.keeps (s : Thermal) (t : Nat) : Bool :=
  match s with
  | .normal => true
  | .refresh2x => decide (83 < t)
  | .refresh4x => decide (93 < t)
  | .capped => decide (98 < t)
  | .protect => decide (100 ≤ t)

/-- The thermal state after a sample: a hotter one is entered at once; one that is left gives way to the highest whose
entry condition holds. -/
def Thermal.next (s : Thermal) (t : Nat) : Thermal :=
  if s.code < (Thermal.entered t).code then .entered t else if s.keeps t then s else .entered t

/-- TEMPERATURE_SAMPLE (R354 to R356, R472): `celsius` is the hottest sensor. Entering CAPPED or PROTECT sets its leaf;
leaving PROTECT serves what waited; a module outside NORMAL notes it for its RESPONSE (R471). -/
def Dev.sampleStack (d : Dev) (x t : Nat) : Dev :=
  let old := (d.mem.stack x).thermal
  let new := old.next t
  let d := d.updStack x fun k =>
    { k with thermal := new, temp := t, tempMax := max k.tempMax t, cooled := if old ≠ .normal ∧ new = .normal then some d.slow else k.cooled }
  let d := if new = .capped ∧ old ≠ .capped then d.setLeaf (.mem x) 4 else d
  let d := if new = .protect ∧ old ≠ .protect then d.setLeaf (.mem x) 5 else d
  let d := if new ≠ .normal then { d with qlk := { d.qlk with stepThermal := true } } else d
  if old = .protect ∧ new ≠ .protect then d.release x else d

/-- MEM_CLEAR_TEMP_MAX (R368). -/
def execMemClearTempMax (stack : Nat) (s : State) : Host.Outcome State Fault Refusal :=
  .next (if s.ready then { s with dev := s.dev.updStack stack fun k => { k with tempMax := k.temp } } else s)

/-! ## Frame retirement (R364 to R367) -/

/-- MEM_SPARE_BASE_WRITE (R364): FRAME in [19:0]. -/
def execMemSpareBaseWrite (stack v : Nat) (s : State) : Host.Outcome State Fault Refusal :=
  let f := v % 2 ^ 20
  .next (if !s.ready then s
    else if !s.dev.held then s.setLeaf .lay 3
    else if (s.dev.mem.stack stack).remap.all (fun e => e.2.state == .free) && decide (f + 8192 ≤ 1048576) then
      { s with dev := s.dev.updStack stack fun k => { k with spareBase := some f } }
    else s.setLeaf (.mem stack) 8)

/-- The checks of a write of a remap entry from FREE (R365). -/
def Mem.remapOk (m : Mem) (x i f : Nat) : Bool :=
  let k := m.stack x
  let base := m.spareBase x
  !(decide (base ≤ f) && decide (f < base + 8192))
    && (match k.pinOf f with
        | some p => p == i % 64
        | none => true)
    && !(k.remap.any fun e => e.1 != i && e.2.state == .copy && e.2.frame == f)

/-- FRAME_REMAP_WRITE (R365): FRAME in [19:0], STATE in [29:28]. From FREE, COPY starts a retirement; a write that changes
nothing of a FREE entry (STATE FREE) has no row and no effect. -/
def execFrameRemapWrite (stack entry v : Nat) (s : State) : Host.Outcome State Fault Refusal :=
  let st := ((s.dev.mem.stack stack).remap.get {} entry).state
  .next (if !s.ready then s
    else if st ≠ .free then s.setLeaf (.mem stack) 8
    else if v / 2 ^ 28 % 4 ≠ 1 then s
    else if s.dev.mem.remapOk stack entry (v % 2 ^ 20) then
      { s with dev := s.dev.updStack stack fun k => { k with remap := SMap.put {} k.remap entry ⟨v % 2 ^ 20, .copy⟩ } }
    else s.setLeaf (.mem stack) 8)

/-- Copies one atom of a frame to a spare frame (R366): read under R350, written with fresh check symbols or as stored poison. `dst` is
located; the second value tells whether any atom arrived poisoned. -/
def Dev.copyAtom (src dst : Nat) (q : Dev × Bool) (i : Nat) : Dev × Bool :=
  let r := q.1.readAtom (src + 64 * i) none { host := true }
  let b := dst + 64 * i
  let m := r.2.1.zipIdx.foldl (fun m p => m.putRaw ((b + p.2) % 2 ^ 40) p.1) r.1.mem
  ({ r.1 with mem := { m with upsets := SMap.del m.upsets (b / 64),
                              poison := if r.2.2.1 then insertAsc (b / 64) m.poison else m.poison.filter (· ≠ b / 64) } }, q.2 || r.2.2.1)

/-- Copies the 1,024 atoms of a frame to a spare frame. -/
def Dev.copyFrame (d : Dev) (src dst : Nat) : Dev × Bool := (List.range 1024).foldl (Dev.copyAtom src dst) (d, false)

/-- The entry of a finished copy becomes ACTIVE, a former ACTIVE entry of the same FRAME DEAD (R365). -/
def Stack.activate (k : Stack) (entry frame : Nat) : Stack :=
  let old := k.remap.map fun p => if p.2.state = .active ∧ p.2.frame = frame then (p.1, { p.2 with state := .dead }) else p
  { k with remap := SMap.put {} old entry ⟨frame, .active⟩ }

/-- The copy of `frame` for a retirement entry ends (R366): it is read where accesses to the frame go. -/
def Dev.endCopy (d : Dev) (x entry frame : Nat) : Dev :=
  let q := d.copyFrame (frameAddr x frame) (frameAddr x (d.mem.spareBase x + entry))
  let d := (q.1.updStack x fun k => k.activate entry frame).setLeaf (.mem x) 6
  if q.2 then (d.recordFault (frameAddr x frame) 7 { host := true }).setLeaf (.mem x) 7 else d

/-- FRAME_COPY_DONE (R365, R366): what the die held is then served from the spare frame. -/
def execFrameCopyDone (stack entry : Nat) (s : State) : Host.Outcome State Fault Refusal :=
  let e := (s.dev.mem.stack stack).remap.get {} entry
  .next (if e.state ≠ .copy then s else { s with dev := (s.dev.endCopy stack entry e.frame).release stack })

end Sys2Proof.Machine
end

