-- ==== Sys2Proof/Machine/Charge.lean ====
section
/-! DEFINITION. What transfers cost a seat (10): the charges of R340 and R341, the meters of R408, and the buckets of R343 with the
requests that wait on them (log 35). -/

namespace Sys2Proof.Machine

/-! ## Buckets (R342, R343) -/

/-- The key of a bucket: class 0 READ, 1 WRITE, 2 REMOTE; seat, stack, pseudo-channel (R343). -/
def bucketKey (class_ seat stack pc : Nat) : Nat := ((seat * 16 + stack) * 64 + pc) * 4 + class_

/-- The 1/4,096 bytes of a full bucket (R343). -/
def bucketCap : Int := 8448 * 4096

/-- What a bucket holds, in 1/4,096 bytes. -/
def Regulator.level (r : Regulator) (k : Nat) : Int := bucketCap + r.buckets.get 0 k

/-- A request may issue: every bucket that it charges holds 0 or more (R343). -/
def Regulator.ready (r : Regulator) (c : Charge) : Bool := c.buckets.all fun b => decide (0 ≤ r.level b.1)

/-- Subtracts the charges of a request (R343). -/
def Regulator.charge (r : Regulator) (c : Charge) : Regulator :=
  { r with buckets := c.buckets.foldl (fun m b => SMap.upd 0 m b.1 fun v => v - 4096 * (b.2 : Int)) r.buckets }

/-- Somebody waits until a request of his has issued. -/
def Regulator.waits (r : Regulator) (w : Charger) : Bool := r.queue.any (·.who == w)

/-- A request issues, or joins those that wait (R343). -/
def Dev.post (d : Dev) (c : Charge) : Dev :=
  { d with reg := if d.reg.ready c then d.reg.charge c else { d.reg with queue := d.reg.queue ++ [c] } }

/-- The place whose request it is. -/
def Charger.place? : Charger → Option Nat
  | .row i _ => some i
  | .work i => some i
  | _ => none

/-- Every request that may issue issues, in order; requests of operations that are gone are dropped. -/
def Dev.issueReady (d : Dev) : Dev :=
  let gone := fun (c : Charge) => match c.who.place? with
    | some i => (d.place i).isNone
    | none => false
  let r := d.reg.queue.foldl (fun (a : Regulator × List Charge) c =>
    if gone c then a
    else if a.1.ready c then (a.1.charge c, a.2)
    else (a.1, a.2 ++ [c])) (d.reg, [])
  { d with reg := { r.1 with queue := r.2 } }

/-! ## Transfers (R340, R341) -/

/-- The charge of one transfer (R340). -/
def transferCharge (n : Nat) : Nat := max (ceilDiv n 64 * 64) 512 + 128

/-- The charge of `n` contiguous bytes in transfers of 4,096 bytes (log 16). -/
def rangeCharge (n : Nat) : Nat :=
  n / 4096 * transferCharge 4096 + (if n % 4096 = 0 then 0 else transferCharge (n % 4096))

/-- Pieces of a transfer, (address, bytes), that lie in one 1 KiB chunk are one. -/
def joinChunks : List (Nat × Nat) → List (Nat × Nat)
  | [] => []
  | p :: t => match joinChunks t with
    | [] => [p]
    | q :: t => if p.1 / 1024 = q.1 / 1024 then (p.1, p.2 + q.2) :: t else p :: q :: t

/-- The pieces of [a, a + n) by 1 KiB chunk. -/
def chunkPieces (a n : Nat) : List (Nat × Nat) :=
  (List.range (ceilDiv (a % 1024 + n) 1024)).map fun i =>
    let b := max a (1024 * (a / 1024 + i))
    (b, min (a + n) (1024 * (a / 1024 + i + 1)) - b)

/-- A charge spread over pieces by their bytes; what does not divide falls on the first (R342, log 130). -/
def spreadCharge (charge : Nat) (ps : List (Nat × Nat)) : List (Nat × Nat) :=
  let size := (ps.map (·.2)).sum
  let parts := ps.map fun p => (p.1, charge * p.2 / size)
  match parts with
  | [] => []
  | p :: t => (p.1, p.2 + (charge - (parts.map (·.2)).sum)) :: t

/-- The READ (0) or WRITE (1) buckets that pieces charge: the pseudo-channel of each, where its access goes. -/
def Dev.dramBuckets (d : Dev) (class_ seat : Nat) (ps : List (Nat × Nat)) : List (Nat × Nat) :=
  ps.map fun p => (bucketKey class_ seat (stackOf p.1) (d.mem.pcOf (d.mem.locate p.1)), p.2)

/-! ## Meters (R408) -/

/-- Adds to the meters of a context, modulo 2^64 (R408). -/
def Dev.meter (d : Dev) (x : Nat) (f : Meter → Meter) : Dev := d.updCtx x fun c => { c with meter := f c.meter }

/-- Adds modulo 2^64. -/
def add64 (a b : Nat) : Nat := (a + b) % 2 ^ 64

/-- Who makes requests: the device-wide context, the compute stack it runs on, and who waits for them to issue. -/
structure Agent where
  ctx : Nat
  stack : Nat
  who : Charger := .loose
  deriving DecidableEq, Repr

/-- The seat of an agent. -/
def Agent.seat (g : Agent) : Nat := g.ctx / 16

/-- Charges REMOTE bytes of stack `x`: meter and bucket (R342). -/
def Dev.chargeRemote (d : Dev) (g : Agent) (x n : Nat) : Dev :=
  (d.meter g.ctx fun t => { t with remote := add64 t.remote n }).post ⟨g.who, [(bucketKey 2 g.seat x 0, n)]⟩

/-- One transfer between stack and agent over pieces of one memory stack: READ or WRITE by the DRAM bytes, and REMOTE where it crosses
(R340, R342, R408). -/
def Dev.transfer (d : Dev) (g : Agent) (write : Bool) (ps : List (Nat × Nat)) : Dev :=
  let x := stackOf ((ps.headD (0, 0)).1)
  let n := transferCharge (ps.map (·.2)).sum
  let cross := memOwner x != g.stack
  let d := d.meter g.ctx fun t =>
    { t with read := if write then t.read else add64 t.read n, write := if write then add64 t.write n else t.write,
             remote := if cross then add64 t.remote n else t.remote }
  d.post ⟨g.who, d.dramBuckets (if write then 1 else 0) g.seat (spreadCharge n ps) ++ if cross then [(bucketKey 2 g.seat x 0, n)] else []⟩

/-- Cuts a list into lists of at most `k`. -/
def cutEvery {α : Type} (k : Nat) : Nat → List α → List (List α)
  | 0, _ => []
  | fuel + 1, l => if l.isEmpty then [] else l.take k :: cutEvery k fuel (l.drop k)

/-- Transfers of whole atoms, at most 64 a transfer (log 16). -/
def Dev.transferAtoms (d : Dev) (g : Agent) (write : Bool) (atoms : List Nat) : Dev :=
  (cutEvery 64 atoms.length atoms).foldl (fun d l => d.transfer g write (joinChunks (l.map fun a => (64 * a, 64)))) d

/-- Transfers of a contiguous range, at most 4,096 bytes a transfer (log 16). -/
def Dev.transferRange (d : Dev) (g : Agent) (write : Bool) (a n : Nat) : Dev :=
  (List.range (ceilDiv n 4096)).foldl (fun d i => d.transfer g write (chunkPieces (a + 4096 * i) (min 4096 (n - 4096 * i)))) d

/-- A gather unit's reads of atoms of one pseudo-channel (R341): 240 bytes an atom. -/
def Dev.chargeAtoms (d : Dev) (g : Agent) (atoms : List Nat) : Dev :=
  (d.meter g.ctx fun t => { t with read := add64 t.read (240 * atoms.length) }).post
    ⟨g.who, d.dramBuckets 0 g.seat ((joinChunks (atoms.map fun a => (64 * a, 64))).map fun p => (p.1, 240 * (p.2 / 64)))⟩

end Sys2Proof.Machine
end

