-- ==== Sys2Proof/Machine/Cache.lean ====
section
/-! DEFINITION. The stream caches (10) and the memory accesses of operations: hints, hits and allocation, write-back, the
translation through segments, and the way an access waits or faults (logs 3, 14). -/

namespace Sys2Proof.Machine

/-! ## Lines -/

/-- The hint of an access (R335). -/
inductive Hint where
  | normal | stream | keep | lastUse (n : Nat)
  deriving DecidableEq, Repr

/-- The set of an atom's line (R334). -/
def setOf (atom : Nat) : Nat := (atom ^^^ (atom >>> 17) ^^^ (atom >>> 34)) % 196608

/-- The line of an atom on compute stack k under a tag (R28). -/
def Cache.line (c : Cache) (k tag atom : Nat) : Option Line :=
  c.lines.find? fun l => l.stack == k && l.tag == tag && l.atom == atom

/-- Changes the lines that a predicate picks. -/
def Cache.mapLines (c : Cache) (p : Line → Bool) (f : Line → Line) : Cache :=
  { c with lines := c.lines.map fun l => if p l then f l else l }

/-- Drops the lines that a predicate picks, without write-back. -/
def Cache.drop (c : Cache) (p : Line → Bool) : Cache := { c with lines := c.lines.filter fun l => !p l }

/-- KEEP lines of a seat on a compute stack (R338, R369). -/
def Cache.keepUsed (c : Cache) (k n : Nat) : Nat :=
  (c.lines.filter fun l => l.stack == k && tagSeat l.tag == n && l.kind == .keep).length

/-- Clusters of a seat on a compute stack. -/
def Dev.clustersOn (d : Dev) (n k : Nat) : Nat := ((d.clustersOf n).filter fun c => clusterStack c == k).length

/-- A further KEEP line stays within both bounds of R338. -/
def Dev.keepAllowed (d : Dev) (k tag atom : Nat) : Bool :=
  decide ((d.cache.lines.filter fun l => l.stack == k && setOf l.atom == setOf atom && l.kind == .keep).length < 8) &&
    decide (d.cache.keepUsed k (tagSeat tag) < 1572864 * d.clustersOn (tagSeat tag) k / 320)

/-- Counts a KEEP request that is left NORMAL (R338). -/
def Dev.denyKeep (d : Dev) (k : Nat) : Dev :=
  { d with cache := { d.cache with keepDenied := SMap.upd 0 d.cache.keepDenied k fun n => satInc32 n 1 } }

/-- The kind after a read hit, or after a write hit when `uses` is 0 (R336). `keep` tells whether KEEP is allowed. -/
def LineKind.hit (l : LineKind) (h : Hint) (keep : Bool) (uses : Nat) : LineKind :=
  let consume := fun (n : Nat) => if n ≤ uses then LineKind.reclaimable else LineKind.lastUse (n - uses)
  match l, h with
  | .keep, _ => .keep
  | k, .stream => k
  | .normal, .normal => .normal
  | .normal, .keep => if keep then .keep else .normal
  | .normal, .lastUse n => .lastUse n
  | .lastUse n, .keep => if keep then .keep else consume n
  | .lastUse n, _ => consume n
  | .reclaimable, .normal => .reclaimable
  | .reclaimable, .keep => if keep then .keep else .reclaimable
  | .reclaimable, .lastUse n => .lastUse n

/-- The kind of a line that an access allocates (R335, R338). -/
def Hint.allocated (h : Hint) (keep : Bool) : LineKind :=
  match h with
  | .normal => .normal
  | .stream => .normal
  | .keep => if keep then .keep else .normal
  | .lastUse n => .lastUse n

/-! ## Atoms under a tag -/

/-- Writes an atom, or part of one, to memory under a tag (R384, R385): a failing write is dropped. -/
def Dev.memWrite (d : Dev) (tag a : Nat) (bs : List Byte) (poison : Bool) : Dev :=
  if 12 ≤ stackOf a then d
  else if (d.mem.frame (stackOf a) (frameOf a)).admits tag then
    let d := d.writeAtom a bs { seat := tagSeat tag }
    if poison then { d with mem := d.mem.setPoison a true } else d
  else d.rejectTag tag a

/-- Writes back a dirty line: charged to the write share of its seat (R337). At a die that accepts nothing it waits there
(R356), with its poison (R352). -/
def Dev.writeBack (d : Dev) (l : Line) : Dev :=
  if !l.dirty then d
  else
    let a := 64 * l.atom
    let d := d.transfer ⟨l.tag % 1024, l.stack, .loose⟩ true [(a, 64)]
    if d.blocked a then d.hold { req := ⟨.tagged l.tag, a, some l.data⟩, poison := l.poison }
    else d.memWrite l.tag a l.data l.poison

/-- Writes back the dirty lines that a predicate picks; they stay valid (R123). -/
def Dev.flushLines (d : Dev) (p : Line → Bool) : Dev :=
  let d := (d.cache.lines.filter p).foldl Dev.writeBack d
  { d with cache := d.cache.mapLines p fun l => { l with dirty := false } }

/-- Writes back the dirty lines that a predicate picks and drops all of them (R122). -/
def Dev.invalidateLines (d : Dev) (p : Line → Bool) : Dev :=
  let d := d.flushLines p
  { d with cache := d.cache.drop p }

/-- Drops lines without write-back (R380, R384, R406). -/
def Dev.dropLines (d : Dev) (p : Line → Bool) : Dev := { d with cache := d.cache.drop p }

/-- The line with the lowest stamp. -/
def oldest : List Line → Option Line
  | [] => none
  | l :: t => match oldest t with
    | none => some l
    | some m => if m.stamp < l.stamp then some m else some l

/-- The way that gives place to a new line (R337): none while the set has an invalid way. -/
def Cache.victim (c : Cache) (k set : Nat) : Option Line :=
  let ways := c.lines.filter fun l => l.stack == k && setOf l.atom == set
  if ways.length < 16 then none
  else match oldest (ways.filter (·.kind == .reclaimable)) with
    | some l => some l
    | none => oldest (ways.filter (·.kind != .keep))

/-- Allocates a line (R337). -/
def Dev.allocate (d : Dev) (l : Line) : Dev :=
  let d := match d.cache.victim l.stack (setOf l.atom) with
    | none => d
    | some v =>
      let d := d.writeBack v
      d.dropLines fun m => m.stack == v.stack && m.tag == v.tag && m.atom == v.atom
  { d with cache := { d.cache with lines := d.cache.lines ++ [{ l with stamp := d.cache.clock }], clock := d.cache.clock + 1 } }

/-- Changes the line of an atom. -/
def Dev.updLine (d : Dev) (k tag atom : Nat) (f : Line → Line) : Dev :=
  { d with cache := d.cache.mapLines (fun l => l.stack == k && l.tag == tag && l.atom == atom) f }

/-- Changes the line of an atom and marks it as used now. -/
def Dev.touchLine (d : Dev) (k tag atom : Nat) (f : Line → Line) : Dev :=
  { d.updLine k tag atom (fun l => { f l with stamp := d.cache.clock }) with cache :=
      { (d.updLine k tag atom fun l => { f l with stamp := d.cache.clock }).cache with clock := d.cache.clock + 1 } }

/-- The lines that R336 leaves unchanged by a hit: any under STREAM, a KEEP line, and a reclaimable line under NORMAL. -/
def LineKind.still (l : LineKind) (h : Hint) : Bool :=
  h == .stream || l == .keep || (l == .reclaimable && h == .normal)

/-- A line after a hit: its kind by R336; a KEEP request left NORMAL is counted and served as a NORMAL hit (R338). -/
def Dev.hitLine (d : Dev) (l : Line) (h : Hint) (uses : Nat) : Dev :=
  let asks := h == .keep && l.kind != .keep
  let ok := asks && d.keepAllowed l.stack l.tag l.atom
  let d := if asks && !ok then d.denyKeep l.stack else d
  if l.kind.still (if asks && !ok then .normal else h) then d
  else d.touchLine l.stack l.tag l.atom fun m => { m with kind := m.kind.hit h ok uses }

/-- The kind for an allocation, counting a KEEP request left NORMAL (R338). -/
def Dev.allocKind (d : Dev) (k tag atom : Nat) (h : Hint) : Dev × LineKind :=
  if h = .keep ∧ d.keepAllowed k tag atom = false then (d.denyKeep k, .normal) else (d, h.allocated true)

/-! ## The memory work of an operation (log 3) -/

/-- An operation's accesses in the making: the device, whether a request failed its check, whether one must wait (then the
whole work is left for later), and the excursions met (R389). -/
structure Mio where
  dev : Dev
  fault : Bool := false
  /-- A payload was read beyond its length (R149). -/
  short : Bool := false
  wait : Stall := .none
  waits : Bool := false
  /-- The memory stacks that it reads or writes (R357). -/
  touched : List Nat := []
  rerun : Bool := false
  deriving DecidableEq, Repr

/-- The stall of a request that waits at its die (R163, R356, R482). -/
def Dev.blockStall (d : Dev) (a : Nat) : Stall :=
  let k := d.mem.stack (stackOf a)
  if k.thermal == .protect then .thermal
  else if k.sramBad.any (fun e => (e.1 == .frameMap && e.2 == frameOf a) || (e.1 == .repair && e.2 == d.mem.bankOf (d.mem.locate a))) then .sramFatal
  else .none

/-- A request to the address waits on the repair of a row or the copy of a frame (R360, R366). -/
def Dev.slowAt (d : Dev) (a : Nat) : Bool :=
  let k := d.mem.stack (stackOf a)
  k.repairing.any (·.1 == offsetOf (d.mem.locate a) / 1024) || k.remap.any fun e => e.2.state == .copy && e.2.frame == frameOf a

/-- The work reads or writes the stack of an address; a request that waits on a repair or a copy there is an excursion (R357, R389). -/
def Mio.touch (m : Mio) (a : Nat) : Mio := { m with touched := insertAsc (stackOf a) m.touched, rerun := m.rerun || m.dev.slowAt a }

/-- A request reaches the memory of address `a`: excursions, and whether it must wait. -/
def Mio.reach (m : Mio) (a : Nat) : Mio :=
  let m := m.touch a
  if m.dev.blocked a then { m with waits := true, wait := m.dev.blockStall a } else m

/-- Writes back dirty lines of its context that a predicate picks (R123); they stay valid. -/
def Mio.flush (m : Mio) (p : Line → Bool) : Mio :=
  let m := ((m.dev.cache.lines.filter fun l => p l && l.dirty).map fun l => 64 * l.atom).foldl Mio.touch m
  { m with dev := m.dev.flushLines p }

/-- Writes back the dirty lines that a predicate picks and drops all of them (R122). -/
def Mio.invalidate (m : Mio) (p : Line → Bool) : Mio :=
  let m := m.flush p
  { m with dev := m.dev.dropLines p }

/-- Allocates a line (R337); a dirty victim of its own tag is a write of the work. -/
def Mio.allocate (m : Mio) (l : Line) : Mio :=
  let m := match m.dev.cache.victim l.stack (setOf l.atom) with
    | some v => if v.dirty && v.tag == l.tag then m.touch (64 * v.atom) else m
    | none => m
  { m with dev := m.dev.allocate l }

/-- Reads one atom of memory under a tag (R384 to R386): bytes and poison. -/
def Mio.readMem (m : Mio) (g : Agent) (a : Nat) : Mio × List Byte × Bool :=
  let m := m.reach a
  if m.waits then (m, List.replicate 64 0, true)
  else
    let e := m.dev.mem.frame (stackOf a) (frameOf a)
    if !e.admits (tagOf g.ctx) then
      ({ m with dev := m.dev.rejectTag (tagOf g.ctx) a, fault := true }, List.replicate 64 0, true)
    else if e.zero then (m, List.replicate 64 0, false)
    else
      let q := m.dev.readAtom a none { seat := g.seat }
      ({ m with dev := q.1, rerun := m.rerun || q.2.2.2 }, q.2.1, q.2.2.1)

/-- Reads one atom through the stream cache (R335, R336); `bypass` neither hits nor allocates (R122). -/
def Mio.readAtom (m : Mio) (g : Agent) (a : Nat) (h : Hint) (bypass : Bool) : Mio × List Byte × Bool :=
  let atom := a / 64
  match if bypass then none else m.dev.cache.line g.stack (tagOf g.ctx) atom with
  | some l => ({ m with dev := m.dev.hitLine l h 1 }, l.data, l.poison)
  | none =>
    let r := m.readMem g (64 * atom)
    let m := r.1
    if m.fault || m.waits || bypass || h == .stream then r
    else
      let q := m.dev.allocKind g.stack (tagOf g.ctx) atom h
      (({ m with dev := q.1 } : Mio).allocate ⟨g.stack, tagOf g.ctx, atom, r.2.1, false, r.2.2, q.2, 0, none⟩, r.2)

/-- An access misses, so that memory serves it. -/
def Dev.misses (d : Dev) (g : Agent) (a : Nat) (bypass : Bool) : Bool :=
  bypass || (d.cache.line g.stack (tagOf g.ctx) (a / 64)).isNone

/-- Writes bytes of one atom straight to memory under the context's tag. -/
def Mio.writeMem (m : Mio) (g : Agent) (a : Nat) (bs : List Byte) (poison : Bool) : Mio :=
  let m := m.reach a
  if m.waits then m
  else
    let ok := (m.dev.mem.frame (stackOf a) (frameOf a)).admits (tagOf g.ctx)
    let d := m.dev.transfer g true [(a, bs.length)]
    { m with dev := d.memWrite (tagOf g.ctx) a bs poison, fault := m.fault || !ok }

/-- Drops lines without write-back. -/
def Mio.dropping (m : Mio) (p : Line → Bool) : Mio := { m with dev := m.dev.dropLines p }

/-- Writes bytes of one atom through the stream cache (R335, R336, R339). `detect` is the class of the segment. -/
def Mio.writeAtom (m : Mio) (g : Agent) (a : Nat) (bs : List Byte) (poison : Bool) (h : Hint) (bypass detect : Bool) : Mio :=
  let atom := a / 64
  let tag := tagOf g.ctx
  let whole := bs.length == 64
  let mine := fun (x : Line) => x.stack == g.stack && x.tag == tag && x.atom == atom
  match if bypass then none else m.dev.cache.line g.stack tag atom with
  | some l =>
    let upd := fun (x : Line) => { x with data := splice x.data (a % 64) bs, dirty := true,
                                          poison := if whole then poison else x.poison || poison }
    if h = .stream then
      let m := m.reach a
      if m.waits then m
      else
        let d := (m.dev.updLine g.stack tag atom upd).writeBack (upd l)
        { m with dev := if detect && !whole then d.dropLines mine else d.updLine g.stack tag atom fun x => { x with dirty := false } }
    else { m with dev := (m.dev.hitLine l h 0).updLine g.stack tag atom upd }
  | none =>
    if whole then
      if bypass || h == .stream then m.writeMem g a bs poison
      else
        let q := m.dev.allocKind g.stack tag atom h
        ({ m with dev := q.1 } : Mio).allocate ⟨g.stack, tag, atom, bs, true, poison, q.2, 0, none⟩
    else if detect then
      -- R339: the line is filled and the merge happens in the cache, so memory receives whole atoms only
      let r := m.readMem g (64 * atom)
      let m := r.1
      if m.fault || m.waits then m
      else
        let m := { m with dev := m.dev.transfer g false [(64 * atom, 64)] }
        let data := splice r.2.1 (a % 64) bs
        let p := r.2.2 || poison
        if bypass then m.writeMem g (64 * atom) data p
        else
          let q := m.dev.allocKind g.stack tag atom h
          let m := ({ m with dev := q.1 } : Mio).allocate ⟨g.stack, tag, atom, data, true, p, q.2, 0, none⟩
          if h = .stream then (m.writeMem g (64 * atom) data p).dropping mine else m
    else m.writeMem g a bs poison

/-! ## Translation (R377, R378) -/

/-- What the translation of an access finds. -/
inductive Xlate where
  | ok (pa seg : Nat)
  | uncovered
  | denied (seg : Nat)
  deriving DecidableEq, Repr

/-- The enabled segment that covers an address. -/
def Ctx.covering (c : Ctx) (a : Nat) : Option (Nat × Seg) :=
  c.segs.find? fun g => g.2.enable && decide (g.2.vbase ≤ a) && decide (a < g.2.vbase + g.2.length * 65536)

/-- Translates an access of `n` bytes at `a` that reads, writes, or both (R378). -/
def Dev.translate (d : Dev) (x a n : Nat) (rd wr : Bool) : Xlate :=
  match (d.ctx x).covering a with
  | none => .uncovered
  | some (i, g) =>
    if (rd && !g.read) || (wr && !g.write) || decide (g.vbase + g.length * 65536 < a + n) then .denied i
    else .ok (g.pbase + (a - g.vbase)) i

/-- A bypass range of the context covers an address (R122). -/
def Ctx.bypasses (c : Ctx) (a : Nat) : Bool := c.bypass.any fun b => decide (b.addr ≤ a) && decide (a < b.addr + b.length)

/-- The hint of an operand reference (R98, R335): HINT 0 takes the segment's default. -/
def Opref.hintOf (o : Opref) (g : Seg) : Hint :=
  match o.hint with
  | 1 => .stream
  | 2 => .keep
  | 3 => .lastUse (o.uses + 1)
  | _ => match g.hint with
    | 1 => .stream
    | 2 => .keep
    | 3 => .lastUse (g.uses + 1)
    | _ => .normal

/-- The pieces of [a, a + n) by atom: address and length. -/
def atomPieces : Nat → Nat → Nat → List (Nat × Nat)
  | 0, _, _ => []
  | fuel + 1, a, n =>
    if n = 0 then []
    else
      let k := min n (64 - a % 64)
      (a, k) :: atomPieces fuel (a + k) (n - k)

/-- A failed translation in an operation's work. -/
def Mio.xfault (m : Mio) (g : Agent) (a : Nat) (t : Xlate) : Mio :=
  match t with
  | .ok _ _ => m
  | .uncovered => { m with dev := m.dev.segFault g.ctx a 1 0, fault := true }
  | .denied s => { m with dev := m.dev.segFault g.ctx a 2 s, fault := true }

/-- One piece of a read. -/
def Mio.readPiece (g : Agent) (va pa : Nat) (h : Hint) (q : Mio × List Byte × List Bool) (p : Nat × Nat) :
    Mio × List Byte × List Bool :=
  if q.1.fault || q.1.waits then q
  else
    let r := q.1.readAtom g p.1 h ((q.1.dev.ctx g.ctx).bypasses (va + (p.1 - pa)))
    (r.1, q.2.1 ++ (r.2.1.drop (p.1 % 64)).take p.2, q.2.2 ++ List.replicate p.2 r.2.2)

/-- Reads `n` bytes at context virtual address `a`: bytes and, byte by byte, whether they arrived poisoned (R352). A piece
that misses is charged as part of its transfer. -/
def Mio.read (m : Mio) (g : Agent) (o : Opref) (a n : Nat) : Mio × List Byte × List Bool :=
  if m.fault || m.waits then (m, List.replicate n 0, List.replicate n false)
  else
    match m.dev.translate g.ctx a n true false with
    | .ok pa s =>
      let pieces := atomPieces (n + 1) pa n
      let missed := (pieces.filter fun p => m.dev.misses g p.1 ((m.dev.ctx g.ctx).bypasses (a + (p.1 - pa)))).map (·.1 / 64)
      let m := { m with dev := m.dev.transferAtoms g false missed }
      let r := pieces.foldl (Mio.readPiece g a pa (o.hintOf (m.dev.seg g.ctx s))) (m, [], [])
      (r.1, slice r.2.1 0 n, r.2.2 ++ List.replicate (n - r.2.2.length) false)
    | t => (m.xfault g a t, List.replicate n 0, List.replicate n false)

/-- One piece of a write: the bytes and their poison are those at the piece's offset. -/
def Mio.writePiece (g : Agent) (va pa : Nat) (h : Hint) (detect : Bool) (bs : List Byte) (po : List Bool) (m : Mio)
    (p : Nat × Nat) : Mio :=
  if m.fault || m.waits then m
  else
    let off := p.1 - pa
    m.writeAtom g p.1 ((bs.drop off).take p.2) (((po.drop off).take p.2).any id) h
      ((m.dev.ctx g.ctx).bypasses (va + off)) detect

/-- Writes bytes at context virtual address `a`, ascending; `po` marks bytes that arrived poisoned. A write that covers
part of an atom reads it too (R378). -/
def Mio.write (m : Mio) (g : Agent) (o : Opref) (a : Nat) (bs : List Byte) (po : List Bool) : Mio :=
  if m.fault || m.waits || bs.isEmpty then m
  else
    let part := a % 64 != 0 || bs.length % 64 != 0
    match m.dev.translate g.ctx a bs.length part true with
    | .ok pa s =>
      let seg := m.dev.seg g.ctx s
      (atomPieces (bs.length + 1) pa bs.length).foldl (Mio.writePiece g a pa (o.hintOf seg) seg.detect bs po) m
    | t => m.xfault g a t

/-! ## Scratchpads (R25, R98) -/

/-- A byte of a core's scratchpad. -/
def Core.padByte (c : Core) (a : Nat) : Byte := SMap.get 0 c.pad a

/-- Bytes of a core's scratchpad. -/
def Dev.padRead (d : Dev) (core a n : Nat) : List Byte := (List.range n).map fun i => (d.core core).padByte (a + i)

/-- Which of them arrived poisoned (R352). -/
def Dev.padBad (d : Dev) (core a n : Nat) : List Bool := (List.range n).map fun i => (d.core core).padPoison.contains (a + i)

/-- Writes bytes to a core's scratchpad; `po` marks those that arrived poisoned (R352). -/
def Core.padWrite (c : Core) (a : Nat) (bs : List Byte) (po : List Bool) : Core :=
  { c with pad := bs.zipIdx.foldl (fun m p => SMap.put 0 m (a + p.2) p.1) c.pad,
           padPoison := (bs.zipIdx.filter fun p => po.getD p.2 false).foldl (fun l p => insertAsc (a + p.2) l)
             (c.padPoison.filter fun x => !(decide (a ≤ x) && decide (x < a + bs.length))) }

def Dev.padWrite (d : Dev) (core a : Nat) (bs : List Byte) (po : List Bool) : Dev := d.updCore core fun c => c.padWrite a bs po

/-- The lowest-indexed core that a seat owns (R100). -/
def Dev.leadCore (d : Dev) (n : Nat) : Nat := 64 * (d.clustersOf n).headD 0

/-- The compute stack of a seat's lead core. -/
def Dev.homeStack (d : Dev) (n : Nat) : Nat := clusterStack ((d.clustersOf n).headD 0)

/-! ## Ranges of ACQUIRE and FLUSH (R122, R123) -/

/-- The whole of [a, a + n) is covered by enabled segments of the context. -/
def Ctx.covers (c : Ctx) (a n : Nat) : Bool :=
  (List.range (ceilDiv (a + n) 65536 - a / 65536)).all fun i => (c.covering ((a / 65536 + i) * 65536)).isSome

/-- A line lies in the range: the atom is the translation of an address in it. -/
def Ctx.inRange (c : Ctx) (a n : Nat) (atom : Nat) : Bool :=
  c.segs.any fun g =>
    let pa := 64 * atom
    let va := g.2.vbase + (pa - g.2.pbase)
    g.2.enable && decide (g.2.pbase ≤ pa) && decide (pa < g.2.pbase + g.2.length * 65536)
      && decide (a < va + 64) && decide (va < a + n)

/-- The lines of a context in a range (R123). -/
def Dev.rangeLines (d : Dev) (x a n : Nat) (l : Line) : Bool := l.tag == tagOf x && (d.ctx x).inRange a n l.atom

/-- Those of them on the compute stacks on which its seat owns clusters (R122). -/
def Dev.acquireLines (d : Dev) (x a n : Nat) (l : Line) : Bool := d.rangeLines x a n l && decide (0 < d.clustersOn (x / 16) l.stack)

/-- ACQUIRE INVALIDATE over a range (R122): dirty lines are written back, then all lines are dropped. -/
def Mio.acquire (m : Mio) (x a n : Nat) : Mio := m.invalidate (m.dev.acquireLines x a n)

end Sys2Proof.Machine
end

