-- ==== Sys2Proof/Machine/Formats.lean ====
section
/-! DEFINITION. Number formats (07): exact values of elements, their encodings, and the single rounding that every result
takes (R253 to R257). -/

namespace Sys2Proof.Machine

/-- An exact value: (−1)^neg × m × 2^e, with the sign of zero kept. -/
inductive Num where
  | nan
  | inf (neg : Bool)
  | fin (neg : Bool) (m : Nat) (e : Int)
  deriving DecidableEq, Repr

namespace Num

/-- +0. -/
def zero : Num := .fin false 0 0

/-- A finite value. -/
def isFinite : Num → Bool
  | .fin _ _ _ => true
  | _ => false

/-- +0 or −0. -/
def isZero : Num → Bool
  | .fin _ m _ => m == 0
  | _ => false

def isNan : Num → Bool
  | .nan => true
  | _ => false

def isInf : Num → Bool
  | .inf _ => true
  | _ => false

/-- The sign; a NaN has none. -/
def sign : Num → Bool
  | .nan => false
  | .inf n => n
  | .fin n _ _ => n

/-- The value times 2^s (R86, R256). -/
def shift : Num → Int → Num
  | .fin n m e, s => .fin n m (e + s)
  | x, _ => x

def neg : Num → Num
  | .nan => .nan
  | .inf n => .inf (!n)
  | .fin n m e => .fin (!n) m e

def abs : Num → Num
  | .nan => .nan
  | .inf _ => .inf false
  | .fin _ m e => .fin false m e

/-- The significand at a smaller exponent: m × 2^(e − e'), signed. -/
def intAt (n : Bool) (m : Nat) (e e' : Int) : Int :=
  let v : Int := (m <<< (e - e').toNat : Nat)
  if n then -v else v

/-- A signed integer times 2^e. -/
def ofInt (v e : Int) : Num := .fin (decide (v < 0)) v.natAbs e

/-- The exact product; zero times infinity and NaN give NaN. -/
def mul : Num → Num → Num
  | .nan, _ => .nan
  | _, .nan => .nan
  | .inf a, .inf b => .inf (a != b)
  | .inf a, .fin b m _ => if m = 0 then .nan else .inf (a != b)
  | .fin a m _, .inf b => if m = 0 then .nan else .inf (a != b)
  | .fin a m e, .fin b k f => .fin (a != b) (m * k) (e + f)

/-- The exact sum; infinities of both signs give NaN. A sum that is exactly zero is +0, but for two operands −0. -/
def add : Num → Num → Num
  | .nan, _ => .nan
  | _, .nan => .nan
  | .inf a, .inf b => if a = b then .inf a else .nan
  | .inf a, .fin _ _ _ => .inf a
  | .fin _ _ _, .inf b => .inf b
  | .fin a m e, .fin b k f =>
    let g := min e f
    let v := intAt a m e g + intAt b k f g
    if v = 0 then .fin (a && b && m == 0 && k == 0) 0 g else ofInt v g

/-- Comparison of two values that are not NaN: −1, 0 or 1; −0 equals +0. -/
def cmp : Num → Num → Int
  | .inf a, .inf b => if a = b then 0 else if a then -1 else 1
  | .inf a, _ => if a then -1 else 1
  | _, .inf b => if b then 1 else -1
  | .fin a m e, .fin b k f =>
    let g := min e f
    let d := intAt a m e g - intAt b k f g
    if d < 0 then -1 else if d = 0 then 0 else 1
  | _, _ => 0

/-- The order of MAX and MIN: −0 lies below +0 (R103, R192, R299). -/
def below (x y : Num) : Bool :=
  if x.isZero && y.isZero then x.sign && !y.sign else decide (cmp x y < 0)

end Num

/-! ## Rounding -/

/-- `d × 2^k ≤ n`. -/
def leShift (d n : Nat) (k : Int) : Bool :=
  if 0 ≤ k then decide (d <<< k.toNat ≤ n) else decide (d ≤ n <<< (-k).toNat)

/-- floor(log2 (n / d)) of positive n and d. -/
def log2Rat (n d : Nat) : Int :=
  let k : Int := (Nat.log2 n : Int) - (Nat.log2 d : Int)
  if leShift d n k then k else k - 1

/-- n / d to the nearest integer, ties to even. -/
def rneQuot (n d : Nat) : Nat :=
  let q := n / d
  let r := n % d
  if d < 2 * r ∨ (2 * r = d ∧ q % 2 = 1) then q + 1 else q

/-- n / d × 2^k to the nearest integer, ties to even. -/
def rneShift (n d : Nat) (k : Int) : Nat :=
  if 0 ≤ k then rneQuot (n <<< k.toNat) d else rneQuot n (d <<< (-k).toNat)

/-- A floating-point format of R253: significand bits with the hidden one, bias, width, the encoding of the largest finite
value, and whether the format has no infinity (E4M3). -/
structure FloatFmt where
  p : Nat
  bias : Nat
  width : Nat
  top : Nat
  noInf : Bool
  deriving DecidableEq, Repr

/-- FP32. -/
def fp32 : FloatFmt := ⟨24, 127, 32, 0x7F7FFFFF, false⟩
/-- BF16. -/
def bf16 : FloatFmt := ⟨8, 127, 16, 0x7F7F, false⟩
/-- FP16. -/
def fp16 : FloatFmt := ⟨11, 15, 16, 0x7BFF, false⟩

/-- The float formats by FORMAT value (R84, R253). -/
def floatFmt : Nat → Option FloatFmt
  | 1 => some ⟨4, 7, 8, 0x7E, true⟩
  | 2 => some ⟨3, 15, 8, 0x7B, false⟩
  | 3 => some fp16
  | 4 => some bf16
  | 5 => some fp32
  | _ => none

namespace FloatFmt

/-- Exponent of the smallest subnormal. -/
def qmin (f : FloatFmt) : Int := 2 - (f.bias : Int) - (f.p : Int)

/-- The canonical NaN (R253). -/
def nanCode (f : FloatFmt) : Nat := if f.noInf then f.top + 1 else f.top + 1 + 2 ^ (f.p - 2)

/-- The value of an encoding (R253, R254). -/
def decode (f : FloatFmt) (c : Nat) : Num :=
  let neg := c.testBit (f.width - 1)
  let a := c % 2 ^ (f.width - 1)
  if f.top < a then (if !f.noInf && a == f.top + 1 then .inf neg else .nan)
  else
    let x := a / 2 ^ (f.p - 1)
    let frac := a % 2 ^ (f.p - 1)
    if x = 0 then .fin neg frac f.qmin else .fin neg (2 ^ (f.p - 1) + frac) (f.qmin + x - 1)

/-- The sign bit. -/
def signBit (f : FloatFmt) (neg : Bool) : Nat := if neg then 2 ^ (f.width - 1) else 0

/-- Rounds n / d × 2^e to the format: the encoding and OVERFLOW (R257). A value overflows when it rounds beyond the largest
finite one (log 71). -/
def ofRat (f : FloatFmt) (neg : Bool) (n d : Nat) (e : Int) : Nat × Bool :=
  if n = 0 then (f.signBit neg, false)
  else
    let q := max (log2Rat n d + e - ((f.p : Int) - 1)) f.qmin
    let sig := rneShift n d (e - q)
    let code := (q - f.qmin).toNat * 2 ^ (f.p - 1) + sig
    if f.top < code then (f.signBit neg + (if f.noInf then f.top else f.top + 1), true) else (f.signBit neg + code, false)

/-- Converts an exact value: encoding, OVERFLOW, INVALID (R257). -/
def convert (f : FloatFmt) (x : Num) : Nat × Bool × Bool :=
  match x with
  | .nan => (f.nanCode, false, false)
  | .inf n => if f.noInf then (f.nanCode, false, true) else (f.signBit n + f.top + 1, false, false)
  | .fin n m e => let r := f.ofRat n m 1 e; (r.1, r.2, false)

/-- Rounds to the format and reads the value back. -/
def round (f : FloatFmt) (x : Num) : Num × Bool := let r := f.convert x; (f.decode r.1, r.2.1)

/-- Truncates a finite value toward zero to the format (R263). -/
def truncate (f : FloatFmt) (x : Num) : Num :=
  match x with
  | .fin n m e =>
    if m = 0 then x
    else
      let q := max (log2Rat m 1 + e - ((f.p : Int) - 1)) f.qmin
      if q ≤ e then x else .fin n (m >>> (q - e).toNat) q
  | x => x

end FloatFmt

/-- rne32 (R267). -/
def rne32 (x : Num) : Num × Bool := fp32.round x

/-! ## Elements by FORMAT (R84, R85) -/

/-- FORMAT is listed in R84. -/
def formatOk (f : Nat) : Bool := decide (1 ≤ f ∧ f ≤ 10)

/-- Bits per element (R84). -/
def formatBits : Nat → Nat
  | 1 => 8 | 2 => 8 | 3 => 16 | 4 => 16 | 5 => 32 | 6 => 8 | 7 => 4 | 8 => 8 | 9 => 32 | _ => 8

/-- A two's-complement value of `w` bits. -/
def signed (w x : Nat) : Int := if x < 2 ^ (w - 1) then (x : Int) else (x : Int) - (2 ^ w : Nat)

/-- The stored value of an element (R253, R255). -/
def elemValue (fmt code : Nat) : Num :=
  match floatFmt fmt with
  | some f => f.decode code
  | none =>
    match fmt with
    | 6 => .ofInt (signed 8 code) 0
    | 7 => .ofInt (signed 4 code) 0
    | 8 => .fin false code 0
    | 9 => .fin false code 0
    | _ => .ofInt (signed 8 code) 0

/-- Widening to FP32 (R259): exact but for UINT32. -/
def widen (fmt code : Nat) : Num := if fmt = 9 then (rne32 (elemValue fmt code)).1 else elemValue fmt code

/-- Bytes of one row (R85). -/
def rowBytes (fmt cols : Nat) : Nat := ceilDiv (cols * formatBits fmt) 32 * 4

/-- The codes of a row (R85). -/
def rowCodes (fmt cols : Nat) (bs : List Byte) : List Nat :=
  (List.range cols).map fun j =>
    match formatBits fmt with
    | 4 => let b := field bs (j / 2) 1; if j % 2 = 0 then b % 16 else b / 16
    | w => field bs (j * (w / 8)) (w / 8)

/-- The bytes of a row's codes, padded to whole 32-bit words (R85). -/
def codesRow (fmt : Nat) (cs : List Nat) : List Byte :=
  match formatBits fmt with
  | 4 => padTo ((List.range (ceilDiv cs.length 2)).flatMap fun i => leBytes 1 (cs.getD (2 * i) 0 % 16 + 16 * (cs.getD (2 * i + 1) 0 % 16))) 4
  | w => padTo (cs.flatMap fun c => leBytes (w / 8) c) 4

end Sys2Proof.Machine
end

