-- ==== Sys2Proof/Machine/Accum.lean ====
section
/-! DEFINITION. Accumulation (07): NORMAL, SPLIT and EXACT sums of products in canonical order, pooling sums (05), and the
reduction sum (08). -/

namespace Sys2Proof.Machine

/-- A value in the making, with the flags that arose and the block in which INVALID first arose. -/
structure Acc where
  value : Num := .zero
  invalid : Option Nat := none
  overflow : Bool := false
  clip : Bool := false
  deriving DecidableEq, Repr

/-- A zero of either sign becomes +0 (R273). -/
def Num.plusZero (x : Num) : Num := if x.isZero then .zero else x

/-- The outcome of R272 for products of which some are not finite: value and INVALID; none when all are finite. -/
def nonFinite (ps : List (Num × Num)) : Option (Num × Bool) :=
  if ps.any fun p => (p.1.isZero && p.2.isInf) || (p.1.isInf && p.2.isZero) then some (.nan, true)
  else if ps.any fun p => p.1.isNan || p.2.isNan then some (.nan, false)
  else
    let qs := ps.map fun p => p.1.mul p.2
    let pos := qs.any (· == .inf false)
    let neg := qs.any (· == .inf true)
    if pos && neg then some (.nan, true) else if pos then some (.inf false, false) else if neg then some (.inf true, false)
    else none

/-- floor(log2 |p|) of a finite nonzero value. -/
def Num.expo : Num → Int
  | .fin _ m e => (Nat.log2 m : Int) + e
  | _ => 0

/-- p / 2^q truncated toward zero. -/
def Num.truncAt (p : Num) (q : Int) : Int :=
  match p with
  | .fin n m e =>
    let v : Nat := if q ≤ e then m <<< (e - q).toNat else m >>> (q - e).toNat
    if n then -(v : Int) else v
  | _ => 0

/-- The largest of a list of integers, none of an empty one. -/
def maxInt : List Int → Option Int
  | [] => none
  | x :: t => match maxInt t with
    | none => some x
    | some y => some (max x y)

/-- The aligned group sum of R266 over finite products, before rounding. -/
def groupSum (w : Nat) (ps : List Num) : Num :=
  match maxInt ((ps.filter fun p => !p.isZero).map Num.expo) with
  | none => .zero
  | some top =>
    let q := top - w
    Num.ofInt (ps.foldl (fun s p => s + p.truncAt q) 0) q

/-- The group value of R266 and R272: value, INVALID, OVERFLOW. -/
def groupValue (w : Nat) (ps : List (Num × Num)) : Num × Bool × Bool :=
  match nonFinite ps with
  | some r => (r.1, r.2, false)
  | none =>
    let g := rne32 (groupSum w (ps.map fun p => p.1.mul p.2))
    (g.1.plusZero, false, g.2)

/-- Addition of two FP32 values, rounded (R267, R272, R273), in block `kb`. -/
def Acc.add (a : Acc) (x : Num) (kb : Nat) : Acc :=
  let s := a.value.add x
  let r := rne32 s
  let bad := s.isNan && !a.value.isNan && !x.isNan
  { a with value := r.1.plusZero, overflow := a.overflow || r.2,
           invalid := if bad && a.invalid.isNone then some kb else a.invalid }

/-- Adds a group's value. -/
def Acc.addGroup (a : Acc) (w : Nat) (ps : List (Num × Num)) (kb : Nat) : Acc :=
  let g := groupValue w ps
  let a := { a with overflow := a.overflow || g.2.2, invalid := if g.2.1 && a.invalid.isNone then some kb else a.invalid }
  a.add g.1 kb

/-- A part joins the accumulator of its element (R267). -/
def Acc.addPart (a p : Acc) (kb : Nat) : Acc :=
  let a := { a with overflow := a.overflow || p.overflow, clip := a.clip || p.clip,
                    invalid := if a.invalid.isNone then p.invalid else a.invalid }
  a.add p.value kb

/-- Cuts a list into pieces of `n`. -/
def piecesOf {α : Type} (n : Nat) (xs : List α) : List (List α) :=
  (List.range (ceilDiv xs.length n)).map fun i => (xs.drop (n * i)).take n

/-! ## Operands and passes (R258, R263 to R265) -/

/-- The width w of a format in R265. -/
def alignWidth : Nat → Nat
  | 2 => 2 | 1 => 3 | 7 => 3 | 4 => 7 | 6 => 7 | 8 => 8 | 3 => 10 | _ => 7

/-- An operand element: its stored value and its shift. -/
structure Elem where
  x : Num
  s : Int := 0
  deriving DecidableEq, Repr

/-- The value (R86). -/
def Elem.value (e : Elem) : Num := e.x.shift e.s

/-- The pieces hi, mid, lo of a stored FP32 value (R263), with the shift applied. -/
def Elem.pieces (e : Elem) : List Num :=
  let hi := bf16.truncate e.x
  let r := e.x.add hi.neg
  let mid := bf16.truncate r
  let lo := bf16.truncate (r.add mid.neg)
  if e.x.isFinite then [hi.shift e.s, mid.shift e.s, lo.shift e.s] else [e.value, .zero, .zero]

/-- Bits are lost below the pieces (R263, R264). -/
def Elem.lossy (e : Elem) : Bool :=
  e.x.isFinite && !(((e.pieces.foldl Num.add .zero).add e.value.neg).isZero)

/-- The passes of a mode (R264), as piece numbers. -/
def splitPasses : Nat → List (Nat × Nat)
  | 2 => [(0, 0), (0, 1), (1, 0)]
  | 3 => [(0, 0), (0, 1), (1, 0), (1, 1), (0, 2), (2, 0)]
  | _ => [(0, 0), (0, 1), (1, 0), (1, 1), (0, 2), (2, 0), (1, 2), (2, 1), (2, 2)]

/-- The product of a pair in a pass, none where the pair contributes none (R263). -/
def passPair (p : Nat × Nat) (ab : Elem × Elem) : Option (Num × Num) :=
  if ab.1.x.isFinite && ab.2.x.isFinite then some (ab.1.pieces.getD p.1 .zero, ab.2.pieces.getD p.2 .zero)
  else if p = (0, 0) then some (ab.1.value, ab.2.value) else none

/-- The passes over one K-block: each a list of groups of pairs. -/
def blockPasses (split : Bool) (mode : Nat) (ab : List (Elem × Elem)) : List (List (List (Num × Num))) :=
  if split then (splitPasses mode).map fun p => (piecesOf 8 ab).map fun g => g.filterMap (passPair p)
  else [(piecesOf 8 ab).map fun g => g.map fun e => (e.1.value, e.2.value)]

/-- The part of a K-block in NORMAL and SPLIT modes (R267). A group in which no product is present is skipped. -/
def normalPart (w mode : Nat) (split : Bool) (ab : List (Elem × Elem)) (kb : Nat) : Acc :=
  ((blockPasses split mode ab).flatten.filter fun g => !g.isEmpty).foldl (fun a g => a.addGroup w g kb) {}

/-- The sum of an element in NORMAL and SPLIT modes (R267). -/
def normalSum (w mode : Nat) (split : Bool) (ab : List (Elem × Elem)) : Acc :=
  (piecesOf 64 ab).zipIdx.foldl (fun a p => a.addPart (normalPart w mode split p.1 p.2) p.2) {}

/-! ## Exact mode (R269 to R271) -/

/-- Clamps to `b` bits of two's complement, telling whether it did. -/
def clampBits (b : Nat) (x : Int) : Int × Bool :=
  let hi : Int := 2 ^ (b - 1) - 1
  let lo : Int := -(2 ^ (b - 1) : Nat)
  if hi < x then (hi, true) else if x < lo then (lo, true) else (x, false)

/-- floor(p × 2^k) of a finite value, and whether bits were lost. -/
def Num.floorAt (p : Num) (k : Int) : Int × Bool :=
  match p with
  | .fin n m e =>
    let q := e + k
    if 0 ≤ q then (Num.intAt n m q 0, false)
    else
      let d : Nat := 1 <<< (-q).toNat
      let v : Int := if n then -(m : Int) else m
      (v / (d : Int), m % d != 0)
  | _ => (0, false)

/-- An exact accumulator: the integer, whether it clipped, and the non-finite value that took its place. -/
structure ExactAcc where
  n : Int := 0
  clip : Bool := false
  special : Option Num := none
  invalid : Option Nat := none
  deriving DecidableEq, Repr

/-- Adds a term with the clamp of R270 (log 75). -/
def ExactAcc.addTerm (a : ExactAcc) (p : Num) : ExactAcc :=
  let t := p.floorAt 200
  let c := clampBits 384 t.1
  let s := clampBits 384 (a.n + c.1)
  { a with n := s.1, clip := a.clip || t.2 || c.2 || s.2 }

/-- The block sum of a K-block (R271, R272). -/
def exactBlock (split : Bool) (ab : List (Elem × Elem)) (kb : Nat) : ExactAcc :=
  let ps := ((blockPasses split 1 ab).map List.flatten).flatten
  let lossy := split && ab.any fun e => e.1.lossy || e.2.lossy
  match nonFinite ps with
  | some r => { special := some r.1, invalid := if r.2 then some kb else none, clip := lossy }
  | none =>
    let a := ps.foldl (fun (a : ExactAcc) p => a.addTerm (p.1.mul p.2)) {}
    { a with clip := lossy || a.clip }

/-- A block sum joins the accumulator (R271, R272). -/
def ExactAcc.addBlock (a b : ExactAcc) (kb : Nat) : ExactAcc :=
  let inv := if a.invalid.isNone then b.invalid else a.invalid
  match a.special, b.special with
  | none, none => let s := clampBits 384 (a.n + b.n); { n := s.1, clip := a.clip || b.clip || s.2, invalid := inv }
  | some x, none => { a with special := some x, clip := a.clip || b.clip, invalid := inv }
  | none, some y => { n := 0, clip := a.clip || b.clip, special := some y, invalid := inv }
  | some x, some y =>
    let z := x.add y
    { a with special := some z, clip := a.clip || b.clip,
             invalid := if z.isNan && !x.isNan && !y.isNan && inv.isNone then some kb else inv }

/-- The sum of an element in EXACT mode; its value is exact, and is rounded once by the conversion. -/
def exactSum (split : Bool) (ab : List (Elem × Elem)) : Acc :=
  let a := (piecesOf 64 ab).zipIdx.foldl (fun a p => a.addBlock (exactBlock split p.1 p.2) p.2) ({} : ExactAcc)
  { value := a.special.getD (Num.ofInt a.n (-200)), invalid := a.invalid, clip := a.clip }

/-! ## Results -/

/-- A converted result element: its encoding and the flags of the element. -/
structure OutElem where
  code : Nat := 0
  invalid : Option Nat := none
  overflow : Bool := false
  clip : Bool := false
  deriving DecidableEq, Repr

/-- Converts a sum to a format; every zero is +0 (R257, R273). -/
def Acc.convert (a : Acc) (fmt : Nat) : OutElem :=
  match floatFmt fmt with
  | none => { code := 0, invalid := a.invalid, overflow := a.overflow, clip := a.clip }
  | some f =>
    let r := f.convert a.value
    { code := if (f.decode r.1).isZero then 0 else r.1, invalid := a.invalid, overflow := a.overflow || r.2.1, clip := a.clip }

/-- One output element of MATMUL or GEMV from its pairs in ascending k (R265, R267, R271). -/
def dotElement (aFmt bFmt cFmt mode : Nat) (ab : List (Elem × Elem)) : OutElem :=
  let split := aFmt == 5
  let acc := if mode = 1 then exactSum split ab else normalSum (alignWidth aFmt + alignWidth bFmt + 4) mode split ab
  acc.convert cFmt

/-- REDUCE SUM over widened elements (R304): alignment width 26, each element in place of a product. -/
def reduceSum (xs : List Num) : Acc := normalSum 26 0 false (xs.map fun x => (⟨x, 0⟩, ⟨.fin false 1 0, 0⟩))

/-! ## Pooling (R192 to R197) -/

/-- The position at which a bag of terms first makes R195 set INVALID (R197): pairs of value and weight. -/
def poolOffender (vs : List (Num × Num)) : Option Nat :=
  (List.range vs.length).find? fun p => match nonFinite (vs.take (p + 1)) with
    | some r => r.2
    | none => false

/-- A pooled element: exact sum in units of 2^−64 with clamps (R193), or the outcome of R195; `mean` divides by the count. -/
def poolSum (mean : Bool) (fmt : FloatFmt) (vs : List (Num × Num)) : OutElem :=
  if vs.isEmpty then {}
  else match nonFinite vs with
    | some r => { code := (fmt.convert r.1).1, invalid := if r.2 then some ((poolOffender vs).getD 0) else none }
    | none =>
      let t := vs.foldl (fun (a : Int × Bool) v =>
        let c := clampBits 128 ((v.1.mul v.2).floorAt 64).1
        (a.1 + c.1, a.2 || c.2)) (0, false)
      let s := clampBits 128 t.1
      let r := fmt.ofRat (decide (s.1 < 0)) s.1.natAbs (if mean then vs.length else 1) (-64)
      { code := if s.1 = 0 then 0 else r.1, overflow := t.2 || s.2 || r.2 }

/-- MAX pooling (R192). -/
def poolMax (fmt : FloatFmt) (vs : List Num) : OutElem :=
  match vs with
  | [] => {}
  | v :: t =>
    if (v :: t).any Num.isNan then { code := fmt.nanCode }
    else
      let r := fmt.convert (t.foldl (fun m x => if m.below x then x else m) v)
      { code := r.1, overflow := r.2.1 }

end Sys2Proof.Machine
end

