-- ==== Sys2Proof/Machine/Functions.lean ====
section
/-! DEFINITION. Element functions (08, 09): the vector functions with the correctly rounded transcendentals, reductions, scalar
summaries, and the quantisation of a segment. -/

namespace Sys2Proof.Machine

/-! ## Correct rounding by enclosure (R299): a value is enclosed between two fractions, at growing precision, until both
round alike. -/

/-- Two fractions n / d that enclose a positive value. -/
structure Enclosure where
  n1 : Nat
  d1 : Nat
  n2 : Nat
  d2 : Nat
  deriving DecidableEq, Repr

/-- Both ends round alike to FP32. -/
def Enclosure.pick (neg : Bool) (c : Enclosure) : Option (Nat × Bool) :=
  let a := fp32.ofRat neg c.n1 c.d1 0
  let b := fp32.ofRat neg c.n2 c.d2 0
  if a = b then some a else none

/-- The rounding of the value that `f P` encloses at precision P: the first precision at which the ends agree. 2,048 bits
separate every operand that is not decided exactly (log 20). -/
def enclose (neg : Bool) (f : Nat → Enclosure) : Num × Bool :=
  let r := match [96, 256, 768, 2048].findSome? fun p => (f p).pick neg with
    | some r => r
    | none => fp32.ofRat neg (f 2048).n1 (f 2048).d1 0
  (fp32.decode r.1, r.2)

/-- Quotient rounded up. -/
def divUp (a b : Nat) : Nat := (a + b - 1) / b

/-- ln 2 at precision P, below and above. -/
def ln2At (p : Nat) : Nat × Nat :=
  let s := (List.range (p + 2)).foldl (fun s i => s + 2 ^ p / ((i + 1) * 2 ^ (i + 1))) 0
  (s, s + p + 4)

/-- e^r for r between `lo` and `hi` at precision P, r below 2. -/
def expAt (p lo hi : Nat) : Nat × Nat :=
  let one := 2 ^ p
  let r := (List.range (p + 2)).foldl (fun (a : (Nat × Nat) × Nat × Nat) i =>
    let t := a.1.1 * lo / one / (i + 1)
    let u := divUp (divUp (a.1.2 * hi) one) (i + 1)
    ((t, u), a.2.1 + t, a.2.2 + u)) ((one, one), one, one)
  (r.2.1, r.2.2 + r.1.2 + 1)

/-- The dyadic m × 2^e as a fraction. -/
def dyadic (m : Nat) (e : Int) : Nat × Nat := if 0 ≤ e then (m <<< e.toNat, 1) else (m, 1 <<< (-e).toNat)

/-- e^−y of a positive dyadic y, as numerators over 2^(P + j), and that denominator. -/
def expNegAt (p m : Nat) (e : Int) : (Nat × Nat) × Nat :=
  let q := dyadic m e
  let l := ln2At p
  let ylo := q.1 * 2 ^ p / q.2
  let yhi := divUp (q.1 * 2 ^ p) q.2
  let j := ylo / l.2 + 2
  (expAt p (j * l.1 - yhi) (j * l.2 - ylo), 2 ^ (p + j))

/-- 2^x of m × 2^e, which is not an integer (R299). -/
def exp2At (neg : Bool) (m : Nat) (e : Int) (p : Nat) : Enclosure :=
  let d := 1 <<< (-e).toNat
  let whole : Int := if neg then -((m / d : Nat) : Int) - 1 else (m / d : Nat)
  let frac := if neg then d - m % d else m % d
  let l := ln2At p
  let r := expAt p (frac * l.1 / d) (divUp (frac * l.2) d)
  if 0 ≤ whole then ⟨r.1 <<< whole.toNat, 2 ^ p, r.2 <<< whole.toNat, 2 ^ p⟩
  else ⟨r.1, 2 ^ (p + (-whole).toNat), r.2, 2 ^ (p + (-whole).toNat)⟩

/-- 2 × artanh of n / d at precision P, below and above, for n / d at most 1/3. -/
def artanhAt (p n d : Nat) : Nat × Nat :=
  let z := n * 2 ^ p / d
  let one := 2 ^ p
  let r := (List.range (p + 2)).foldl (fun (a : (Nat × Nat) × Nat × Nat) i =>
    let t := a.1.1 * z / one * z / one
    let u := divUp (divUp (a.1.2 * (z + 1)) one * (z + 1)) one
    ((t, u), a.2.1 + a.1.1 / (2 * i + 1), a.2.2 + divUp a.1.2 (2 * i + 1))) ((z, z + 1), 0, 0)
  (2 * r.2.1, 2 * (r.2.2 + r.1.2 + 1))

/-- log2 of m × 2^e, which is not a power of two: sign and enclosure of the magnitude (R299). -/
def log2At (m : Nat) (e : Int) (p : Nat) : Enclosure :=
  let k : Int := (Nat.log2 m : Int) + e
  let a := artanhAt p (m - 2 ^ Nat.log2 m) (m + 2 ^ Nat.log2 m)
  let l := ln2At p
  let lo := a.1 * 2 ^ p / l.2
  let hi := divUp (a.2 * 2 ^ p) l.1
  if 0 ≤ k then ⟨k.toNat * 2 ^ p + lo, 2 ^ p, k.toNat * 2 ^ p + hi, 2 ^ p⟩
  else ⟨(-k).toNat * 2 ^ p - hi, 2 ^ p, (-k).toNat * 2 ^ p - lo, 2 ^ p⟩

/-- 1 / √(m × 2^e) with e even (R299). -/
def rsqrtAt (m : Nat) (e : Int) (p : Nat) : Enclosure :=
  let s := Nat.sqrt (2 ^ (2 * p) / m)
  let hi := if s * s * m = 2 ^ (2 * p) then s else s + 1
  let h := e / 2
  if 0 ≤ h then ⟨s, 2 ^ p <<< h.toNat, hi, 2 ^ p <<< h.toNat⟩ else ⟨s <<< (-h).toNat, 2 ^ p, hi <<< (-h).toNat, 2 ^ p⟩

/-- 1 / (1 + e^−x) of a nonzero dyadic x (log 78). -/
def sigmoidAt (neg : Bool) (m : Nat) (e : Int) (p : Nat) : Enclosure :=
  let r := expNegAt p m e
  if neg then ⟨r.1.1, r.2 + r.1.1, r.1.2, r.2 + r.1.2⟩ else ⟨r.2, r.2 + r.1.2, r.2, r.2 + r.1.1⟩

/-- tanh of a positive dyadic x. -/
def tanhAt (m : Nat) (e : Int) (p : Nat) : Enclosure :=
  let r := expNegAt p m (e + 1)
  ⟨r.2 - r.1.2, r.2 + r.1.2, r.2 - r.1.1, r.2 + r.1.1⟩

/-! ## Vector functions (R298 to R301) -/

/-- An FP32 result with its flags. -/
structure VecOut where
  value : Num
  invalid : Bool := false
  overflow : Bool := false
  deriving DecidableEq, Repr

/-- One rounding of an exact result to FP32. -/
def vecRound (x : Num) (invalid : Bool) : VecOut := let r := rne32 x; ⟨r.1, invalid, r.2⟩

/-- x + y with the rule of INVALID. -/
def vecAdd (x y : Num) : VecOut := let s := x.add y; vecRound s (s.isNan && !x.isNan && !y.isNan)

/-- x × y with the rule of INVALID. -/
def vecMul (x y : Num) : VecOut := let s := x.mul y; vecRound s (s.isNan && !x.isNan && !y.isNan)

/-- x × y + z, one rounding (R299). -/
def vecFma (x y z : Num) : VecOut :=
  let m := x.mul y
  let s := m.add z
  vecRound s ((m.isNan && !x.isNan && !y.isNan) || (s.isNan && !m.isNan && !z.isNan))

/-- Larger and smaller (R299). -/
def vecMax (x y : Num) : Num := if x.isNan || y.isNan then .nan else if x.below y then y else x
def vecMin (x y : Num) : Num := if x.isNan || y.isNan then .nan else if x.below y then x else y

/-- An integer power of two. -/
def powTwo (k : Int) : Num := .fin false 1 k

/-- m × 2^e is an integer, and which. -/
def dyadicInt (m : Nat) (e : Int) : Option Nat :=
  if 0 ≤ e then some (m <<< e.toNat) else if m % (1 <<< (-e).toNat) = 0 then some (m >>> (-e).toNat) else none

/-- EXP2 (R299, R300). -/
def vecExp2 (x : Num) : VecOut :=
  match x with
  | .nan => ⟨.nan, false, false⟩
  | .inf n => ⟨if n then .zero else .inf false, false, false⟩
  | .fin n m e =>
    if 0 ≤ Num.cmp x (.fin false 128 0) then ⟨.inf false, false, true⟩
    else if Num.cmp x (.fin true 151 0) < 0 then ⟨.zero, false, false⟩
    else match dyadicInt m e with
      | some k => vecRound (powTwo (if n then -(k : Int) else k)) false
      | none => let r := enclose false (exp2At n m e); ⟨r.1, false, r.2⟩

/-- LOG2 (R299, R300). -/
def vecLog2 (x : Num) : VecOut :=
  match x with
  | .nan => ⟨.nan, false, false⟩
  | .inf n => if n then ⟨.nan, true, false⟩ else ⟨.inf false, false, false⟩
  | .fin n m e =>
    if m = 0 then ⟨.inf true, false, false⟩
    else if n then ⟨.nan, true, false⟩
    else if m = 2 ^ Nat.log2 m then vecRound (Num.ofInt ((Nat.log2 m : Int) + e) 0) false
    else
      let r := enclose (decide ((Nat.log2 m : Int) + e < 0)) (log2At m e)
      ⟨r.1, false, r.2⟩

/-- RSQRT (R299, R300). -/
def vecRsqrt (x : Num) : VecOut :=
  match x with
  | .nan => ⟨.nan, false, false⟩
  | .inf n => if n then ⟨.nan, true, false⟩ else ⟨.zero, false, false⟩
  | .fin n m e =>
    if m = 0 then ⟨.inf n, false, false⟩
    else if n then ⟨.nan, true, false⟩
    else
      let r := enclose false (if e % 2 = 0 then rsqrtAt m e else rsqrtAt (2 * m) (e - 1))
      ⟨r.1, false, r.2⟩

/-- SIGMOID (R299, R300); beyond the cuts the correctly rounded value is 1 or +0. -/
def vecSigmoid (x : Num) : VecOut :=
  match x with
  | .nan => ⟨.nan, false, false⟩
  | .inf n => ⟨if n then .zero else powTwo 0, false, false⟩
  | .fin n m e =>
    if m = 0 then ⟨powTwo (-1), false, false⟩
    else if 0 ≤ Num.cmp x (.fin false 32 0) then ⟨powTwo 0, false, false⟩
    else if Num.cmp x (.fin true 128 0) ≤ 0 then ⟨.zero, false, false⟩
    else let r := enclose false (sigmoidAt n m e); ⟨r.1, false, r.2⟩

/-- TANH (R299, R300). -/
def vecTanh (x : Num) : VecOut :=
  match x with
  | .nan => ⟨.nan, false, false⟩
  | .inf n => ⟨.fin n 1 0, false, false⟩
  | .fin n m e =>
    if m = 0 then ⟨x, false, false⟩
    else if 0 ≤ Num.cmp x.abs (.fin false 16 0) then ⟨.fin n 1 0, false, false⟩
    else let r := enclose n (tanhAt m e); ⟨r.1, false, r.2⟩

/-- GELU (R300, R301). -/
def vecGelu (x : Num) : VecOut :=
  match x with
  | .nan => ⟨.nan, false, false⟩
  | .inf n => ⟨if n then .fin true 0 0 else .inf false, false, false⟩
  | .fin n _ _ =>
    let r := fun (y : Num) => (rne32 y).1
    let u := r (x.mul x)
    let u := r (u.mul x)
    let u := r (u.mul (fp32.decode 0x3D372713))
    let u := r (x.add u)
    let u := r (u.mul (fp32.decode 0x3F4C422A))
    let v := r ((powTwo 0).add (vecTanh u).value)
    if v.isZero then ⟨.fin n 0 0, false, false⟩
    else
      let y := r ((r (x.mul (powTwo (-1)))).mul v)
      ⟨y, false, y.isInf⟩

/-- SRC2 is required (R298). -/
def vecBinary (f : Nat) : Bool := decide (1 ≤ f ∧ f ≤ 6)

/-- SRC2 is not allowed (R298). -/
def vecUnary (f : Nat) : Bool :=
  f == 0 || decide (7 ≤ f ∧ f ≤ 0x0B) || decide (0x10 ≤ f ∧ f ≤ 0x15) || decide (0x20 ≤ f ∧ f ≤ 0x22)

/-- A function that gives UINT32 (R298). -/
def vecCounts (f : Nat) : Bool := decide (0x20 ≤ f)

/-- The FP32 result of a vector function (R298, R299). -/
def vecFunc (f : Nat) (x y imm : Num) : VecOut :=
  match f with
  | 0x01 => vecAdd x y
  | 0x02 => vecAdd x y.neg
  | 0x03 => vecMul x y
  | 0x04 => vecFma x y imm
  | 0x05 => vecRound (vecMax x y) false
  | 0x06 => vecRound (vecMin x y) false
  | 0x07 => vecAdd x imm
  | 0x08 => vecMul x imm
  | 0x09 => vecRound (vecMax x .zero) false
  | 0x0A => vecRound x.abs false
  | 0x0B => vecRound x.neg false
  | 0x10 => vecExp2 x
  | 0x11 => vecLog2 x
  | 0x12 => vecRsqrt x
  | 0x13 => vecSigmoid x
  | 0x14 => vecTanh x
  | 0x15 => vecGelu x
  | _ => vecRound x false

/-- The UINT32 result of a comparing function (R298, R299). -/
def vecCount (f : Nat) (x imm : Num) : Nat :=
  match f with
  | 0x20 => (!x.isNan && !imm.isNan && decide (0 < Num.cmp x imm)).toNat
  | 0x21 => (!x.isNan && !imm.isNan && Num.cmp x imm == 0).toNat
  | _ => x.isFinite.toNat

/-- One element of a VECTOR result. -/
def vecElement (f out : Nat) (x y imm : Num) : OutElem :=
  if vecCounts f then { code := vecCount f x imm }
  else
    let v := vecFunc f x y imm
    match floatFmt out with
    | none => {}
    | some g =>
      let r := g.convert v.value
      { code := r.1, invalid := if v.invalid then some 0 else none, overflow := v.overflow || r.2.1 }

/-! ## Reductions and summaries (R103, R303 to R305) -/

/-- The index of the first NaN if there is one, otherwise of the first largest (R103, R305, log 74). -/
def argmaxOf (xs : List Num) : Nat :=
  match xs.findIdx? Num.isNan with
  | some i => i
  | none => (xs.zipIdx.foldl (fun (b : Option (Num × Nat)) p => match b with
      | none => some p
      | some q => if q.1.below p.1 then some p else some q) none).elim 0 (·.2)

/-- The largest or smallest; NaN when any is NaN. -/
def extremeOf (least : Bool) (xs : List Num) : Num :=
  match xs with
  | [] => .nan
  | x :: t => t.foldl (fun m y => if least then vecMin m y else vecMax m y) x

/-- Elements other than +0 and −0. -/
def nonzeroOf (xs : List Num) : Nat := (xs.filter fun x => !x.isZero).length

/-- One element of a REDUCE result (R303 to R305, log 92). -/
def reduceElement (f out : Nat) (xs : List Num) : OutElem :=
  match f with
  | 0 => let r := (reduceSum xs).convert out; { r with invalid := r.invalid.map fun _ => 0 }
  | 1 => { code := match floatFmt out with | some g => (g.convert (vecRound (extremeOf false xs) false).value).1 | none => 0 }
  | 2 => { code := match floatFmt out with | some g => (g.convert (vecRound (extremeOf true xs) false).value).1 | none => 0 }
  | 3 => { code := argmaxOf xs }
  | _ => { code := nonzeroOf xs }

/-- A scalar summary: SUMn and OVERFLOW (R103, R259). -/
def summaryOf (kind threshold : Nat) (xs : List Num) : Nat × Bool :=
  match kind with
  | 0 => let r := fp32.convert (extremeOf false xs); (r.1, r.2.1)
  | 1 => let r := fp32.convert (extremeOf true xs); (r.1, r.2.1)
  | 2 =>
    let t := fp32.decode threshold
    ((xs.filter fun x => !x.isNan && !t.isNan && decide (0 ≤ Num.cmp x t)).length, false)
  | 3 => (argmaxOf xs, false)
  | _ => (nonzeroOf xs, false)

/-! ## Quantisation (R310 to R318) -/

/-- The bound Q of a format (R312). -/
def quantBound : Nat → Num
  | 6 => .fin false 127 0
  | 8 => .fin false 255 0
  | 7 => .fin false 7 0
  | 1 => .fin false 448 0
  | _ => .fin false 57344 0

/-- The largest magnitude of the finite elements, or the largest value for UINT8 (R313). -/
def quantMax (out : Nat) (xs : List Num) : Num :=
  (xs.filter Num.isFinite).foldl (fun m x =>
    let v := if out = 8 then (if x.sign then .zero else x) else x.abs
    if Num.cmp m v < 0 then v else m) .zero

/-- The least integer s with m ≤ Q × 2^s for positive m (R313). -/
def leastShift (m q : Num) : Int :=
  let s := m.expo - q.expo
  if Num.cmp m (q.shift (s - 1)) ≤ 0 then s - 1 else if Num.cmp m (q.shift s) ≤ 0 then s else s + 1

/-- What a segment gives: shift, codes, whether it exceeded its headroom, crushed elements, and INVALID by column. -/
structure SegOut where
  shift : Int
  codes : List Nat
  exceeds : Bool
  capped : Bool
  crushed : Nat
  invalid : Option Nat
  deriving DecidableEq, Repr

/-- The integer nearest to a finite value, ties to even. -/
def roundInt : Num → Int
  | .fin n m e => let v : Int := rneShift m 1 e; if n then -v else v
  | _ => 0

/-- The code of a finite element under a shift (R314). -/
def quantCode (out : Nat) (s : Int) (x : Num) : Nat :=
  let y := x.shift (-s)
  match floatFmt out with
  | some f =>
    let r := f.convert y
    if r.2.1 then f.signBit y.sign + f.top else r.1
  | none =>
    let q : Int := if out = 8 then 255 else if out = 7 then 7 else 127
    let lo : Int := if out = 8 then 0 else -q
    let v := max lo (min q (roundInt y))
    (v % (2 ^ formatBits out : Nat)).toNat

/-- The code of a non-finite element and INVALID (R315). -/
def quantSpecial (out : Nat) (x : Num) : Nat × Bool :=
  match out, x with
  | 1, .nan => (0x7F, false)
  | 1, _ => (0x7F, true)
  | 2, .nan => (0x7E, false)
  | 2, x => (if x.sign then 0xFC else 0x7C, false)
  | 6, .nan => (0, true)
  | 6, x => (if x.sign then 0x81 else 127, true)
  | 7, .nan => (0, true)
  | 7, x => (if x.sign then 9 else 7, true)
  | _, .nan => (0, true)
  | _, x => (if x.sign then 0 else 255, true)

/-- A finite nonzero element whose code is zero (R317). -/
def quantCrushed (out code : Nat) (x : Num) : Bool :=
  x.isFinite && !x.isZero && (elemValue out code).isZero && !(out == 8 && x.sign)

/-- Converts a segment (R313 to R318): `h` is HEADROOM as a signed byte. A segment of zeros and non-finite elements keeps shift 0 even where
it exceeds a negative headroom (R316, log 73). -/
def quantSegment (out : Nat) (h : Int) (xs : List Num) : SegOut :=
  let m := quantMax out xs
  let s0 := if m.isZero then 0 else leastShift m (quantBound out)
  let s1 := max (min s0 127) (-128)
  let exceeds := decide (h < s1)
  let s := if exceeds && !(xs.all fun x => x.isZero || !x.isFinite) then h else s1
  let cs := xs.map fun x => if x.isFinite then (quantCode out s x, false) else quantSpecial out x
  { shift := s, codes := cs.map (·.1), exceeds := exceeds, capped := decide (127 < s0),
    crushed := ((xs.zip cs).filter fun p => quantCrushed out p.2.1 p.1).length,
    invalid := cs.findIdx? (·.2) }

end Sys2Proof.Machine
end

