-- ==== Sys2Proof/Machine/Check.lean ====
section
/-! DEFINITION. Descriptors (03): fields by opcode, operand references, shapes, stations and clusters, and the checks that the
control core makes before an operation starts (R99 to R101, R149, R181, R258 to R260, R280, R298, R319). -/

namespace Sys2Proof.Machine

/-! ## Fields -/

/-- Descriptor word `i` (R99). -/
def OpWord.word (o : OpWord) (i : Nat) : Nat :=
  match i with
  | 0 => o.d0 | 1 => o.d1 | 2 => o.d2 | 3 => o.d3 | 4 => o.d4 | _ => o.d5

/-- Writes descriptor word `i`. -/
def OpWord.setWord (o : OpWord) (i v : Nat) : OpWord :=
  match i with
  | 0 => { o with d0 := v } | 1 => { o with d1 := v } | 2 => { o with d2 := v } | 3 => { o with d3 := v }
  | 4 => { o with d4 := v } | _ => { o with d5 := v }

/-- The field of `n` bytes at byte `b` of word `w` (R99). -/
def OpWord.fld (o : OpWord) (w b n : Nat) : Nat := bitsAt (o.word w) (8 * b) (8 * n)

/-- The operand reference in word `w` (R98). -/
def OpWord.ref (o : OpWord) (w : Nat) : Opref := Opref.ofNat (o.word w)

/-- An operation from the bytes of its entry (R96, R99). -/
def OpWord.ofBytes (b : List Byte) : OpWord :=
  ⟨field b 0 1, field b 1 1, field b 0x10 8, field b 0x18 8, field b 0x20 8, field b 0x28 8, field b 0x30 8, field b 0x38 8⟩

/-- The ACQUIRE and ORDERED flags (R97). -/
def OpWord.acquires (o : OpWord) : Bool := o.flags.testBit 0
def OpWord.ordered (o : OpWord) : Bool := o.flags.testBit 1

/-- The opcodes of R99. -/
def opcodes : List Nat :=
  [0x01, 0x02, 0x03, 0x04, 0x05, 0x10, 0x11, 0x12, 0x20, 0x21, 0x22, 0x30, 0x31, 0x32, 0x33, 0x34, 0x35, 0x40, 0x41, 0x48, 0x49,
   0x4A, 0x4B, 0x50, 0x51, 0x60, 0x61, 0x62, 0x70, 0x7E, 0x7F, 0x80]

/-- A whole word, its upper half, and all but its lowest byte, two bytes or three. -/
def allBits : Nat := 0xFFFFFFFFFFFFFFFF
def highHalf : Nat := 0xFFFFFFFF00000000

/-- The reserved bits of the six words (R99). -/
def reservedBits (opcode : Nat) : List Nat :=
  let f := allBits
  let h := highHalf
  match opcode with
  | 0x01 => [0, 0, f, f, f, f]
  | 0x02 => [0xFFFF0000, f, f, f, f, f]
  | 0x03 => [0, 0, f - 0xFF, f, f, f]
  | 0x04 => [0, 0, f, f, f, f]
  | 0x05 => [f - 0xFF, f, f, f, f, f]
  | 0x10 => [0, 0, 0, 0, 0xFFFFFF0000000000, f]
  | 0x11 => [0, 0, 0, 0, 0xFFFFFF0000000000, f]
  | 0x12 => [0, 0, 0, f, f, f]
  | 0x20 => [0, 0, 0, h, f, f]
  | 0x21 => [0, 0, 0, 0xFFFFFF0000000000, 0, 0]
  | 0x22 => [0, f, 0xFF00000000000000, f, f, f]
  | 0x30 => [0, f - 0xFF, f, f, f, f]
  | 0x31 => [0, 0, 0, h, f, f]
  | 0x32 => [h, 0, f, f, f, f]
  | 0x33 => [h, f, f, f, f, f]
  | 0x34 => [0, f - 0xFF, f, f, f, f]
  | 0x35 => [0, h, 0, f, f, f]
  | 0x40 => [0, 0, 0, 0, 0, h]
  | 0x41 => [0, 0, 0, 0, 0, h]
  | 0x48 => [0, 0, 0, 0, 0xFF00000000000000, h]
  | 0x49 => [0, f, 0, 0, h, h]
  | 0x4A => [0, f, 0, 0, h, h]
  | 0x4B => [0, f, 0, 0, h + 0xFFFF, h]
  | 0x50 => [0, h, f, 0, f - 0xFFFFFF, h]
  | 0x51 => [0, h, f, f, f, f]
  | 0x60 => [0, 0, 0, f - 0xFFFF, h, f]
  | 0x61 => [0, 0, 0, h, f, f]
  | 0x62 => [0, f - 0xFF, 0, f, f, f]
  | 0x70 => [0, 0, 0, 0, f - 0xFFFF, 0]
  | 0x7E => [0, 0, f, f, f, f]
  | 0x7F => [0xFF000000, 0, h, 0, f, f]
  | 0x80 => [0, 0, 0, f, f, f]
  | _ => [f, f, f, f, f, f]

/-- Reserved bits are 0 (R101). -/
def OpWord.reservedOk (o : OpWord) : Bool :=
  (reservedBits o.opcode).zipIdx.all fun p => o.word p.2 &&& p.1 == 0

/-! ## Operand references (R98, R100) -/

/-- A field that holds an operand reference: its word, the kinds allowed, whether it is optional, whether the operation reads it
as memory, and whether it is a destination. -/
structure RefField where
  word : Nat
  kinds : List Nat
  optional : Bool := false
  reads : Bool := false
  dest : Bool := false
  deriving DecidableEq, Repr

/-- The operand references of an operation (R99, R100, R181, R327, R328, R463, R465). -/
def refFields (opcode : Nat) : List RefField :=
  match opcode with
  | 0x01 => [⟨1, [0], true, false, true⟩]
  | 0x03 => [⟨0, [0], false, false, false⟩]
  | 0x04 => [⟨0, [0], false, false, false⟩]
  | 0x10 => [⟨0, [0], false, true, false⟩, ⟨1, [1, 2], false, false, true⟩]
  | 0x11 => [⟨0, [1, 2], false, true, false⟩, ⟨1, [0], false, false, true⟩]
  | 0x12 => [⟨0, [0, 2], false, true, false⟩, ⟨1, [0, 2], false, false, true⟩]
  | 0x20 => [⟨0, [0], false, true, false⟩, ⟨1, [0, 1], false, false, true⟩]
  | 0x21 => [⟨0, [0], false, true, false⟩, ⟨1, [0, 1], false, false, true⟩, ⟨4, [0], false, true, false⟩, ⟨5, [0], true, true, false⟩]
  | 0x22 => [⟨0, [0], false, true, false⟩]
  | 0x31 => [⟨0, [0], false, true, false⟩, ⟨1, [0], false, true, false⟩]
  | 0x32 => [⟨1, [0], true, false, true⟩]
  | 0x40 => [⟨0, [0, 1, 2], false, true, false⟩, ⟨1, [0, 2], false, true, false⟩, ⟨2, [0, 1, 2], false, false, true⟩]
  | 0x41 => [⟨0, [0, 1, 2], false, true, false⟩, ⟨1, [0, 2], false, true, false⟩, ⟨2, [0, 1, 2], false, false, true⟩]
  | 0x48 => [⟨0, [0, 1, 2], false, true, false⟩, ⟨1, [0, 1, 2], true, true, false⟩, ⟨2, [0, 1, 2], false, false, true⟩]
  | 0x49 => [⟨0, [0, 1, 2], false, true, false⟩, ⟨2, [0, 1, 2], false, false, true⟩]
  | 0x4A => [⟨0, [0, 1, 2], false, true, false⟩, ⟨2, [0, 1], false, false, true⟩]
  | 0x4B => [⟨0, [0, 1], false, true, false⟩, ⟨2, [0, 1, 2], false, false, true⟩]
  | 0x50 => [⟨0, [0, 1, 2], false, true, false⟩]
  | 0x60 => [⟨0, [0, 1, 2], false, true, false⟩, ⟨1, [0, 1], false, false, true⟩]
  | 0x61 => [⟨0, [0], false, true, false⟩, ⟨1, [0], false, false, true⟩]
  | 0x62 => [⟨2, [0], true, false, true⟩]
  | 0x70 => [⟨0, [0], false, true, false⟩, ⟨5, [0], true, false, true⟩]
  | 0x7E => [⟨0, [0], false, true, false⟩]
  | 0x7F => [⟨1, [0], false, true, false⟩, ⟨3, [0], true, false, true⟩]
  | 0x80 => [⟨0, [0, 2], false, true, false⟩]
  | _ => []

/-- The payload replaces word `w` (R149). -/
def paysFor (pay : Option Payload) (w : Nat) : Bool := match pay with
  | some p => p.word == w
  | none => false

/-- The payload rule of R149: its word holds a memory operand that the operation reads, and is written as 0. -/
def OpWord.payloadOk (o : OpWord) (pay : Option Payload) : Bool :=
  match pay with
  | none => true
  | some p => (refFields o.opcode).any (fun f => f.word == p.word && f.reads && f.kinds.contains 0) && o.word p.word == 0

/-- An operand reference is present: an optional word of 0 with no payload is none (R98). -/
def OpWord.has (o : OpWord) (pay : Option Payload) (w : Nat) : Bool := o.word w != 0 || paysFor pay w

/-- The form of one operand reference (R86, R98, R100, R282); `body` allows KIND 3 (R109). -/
def Opref.ok (r : Opref) (kinds : List Nat) (body : Bool) : Bool :=
  let form := match r.kind with
    | 0 => r.uses == 0 || r.hint == 3
    | 1 => decide (r.addr < 2 ^ 31) && r.hint == 0 && r.uses == 0
    | 2 => decide (r.addr < 0xC000) && r.addr % 4 == 0 && r.hint == 0 && r.uses == 0
    | _ => body && decide (r.addr < 32) && r.hint == 0 && r.uses == 0
  form && r.resv == 0 && (kinds.contains r.kind || (body && r.kind == 3))

/-- All operand references are well formed. The DST of a QUANTIZE is no argument even in a body (R327). -/
def OpWord.refsOk (o : OpWord) (pay : Option Payload) (body : Bool) : Bool :=
  (refFields o.opcode).all fun f =>
    paysFor pay f.word || (f.optional && o.word f.word == 0)
      || (o.ref f.word).ok f.kinds (body && !(o.opcode == 0x4A && f.word == 2))

/-! ## Shapes (R88, R100) -/

/-- Rows and columns of the operand in a word, with its format, for the operations that take tiles. -/
def OpWord.shape (o : OpWord) (w : Nat) : Nat × Nat × Nat :=
  match o.opcode with
  | 0x40 | 0x41 =>
    let m := o.fld 3 0 4
    let k := o.fld 3 4 4
    let n := o.fld 4 0 4
    match w with
    | 0 => (m, k, o.fld 4 4 1)
    | 1 => (k, n, o.fld 4 5 1)
    | _ => (m, n, o.fld 4 6 1)
  | 0x10 | 0x11 => (o.fld 2 0 4, o.fld 2 4 4, o.fld 4 4 1)
  | 0x48 =>
    let r := o.fld 3 0 4
    let c := o.fld 3 4 4
    match w with
    | 0 => (r, c, o.fld 4 5 1)
    | 1 => match o.fld 4 4 1 / 64 with
      | 0 => (r, c, o.fld 4 5 1)
      | 1 => (1, c, o.fld 4 5 1)
      | _ => (r, 1, o.fld 4 5 1)
    | _ => (r, c, o.fld 4 6 1)
  | 0x49 =>
    let r := o.fld 3 0 4
    let c := o.fld 3 4 4
    if w = 0 then (r, c, o.fld 4 2 1) else if o.fld 4 1 1 = 0 then (r, 1, o.fld 4 3 1) else (1, c, o.fld 4 3 1)
  | 0x4A | 0x4B => if w = 0 then (o.fld 3 0 4, o.fld 3 4 4, o.fld 4 2 1) else (o.fld 3 0 4, o.fld 3 4 4, o.fld 4 3 1)
  | 0x50 => (o.fld 3 0 4, o.fld 3 4 4, o.fld 4 1 1)
  | _ => (0, 0, 0)

/-- SEQ_BASE (R88). -/
def OpWord.seqBase (o : OpWord) : Nat :=
  match o.opcode with
  | 0x10 | 0x11 | 0x60 => o.fld 4 0 4
  | 0x20 | 0x21 => o.fld 3 0 4
  | _ => o.fld 5 0 4

/-- Tiles of a matrix (R88). -/
def tileCount (rows cols : Nat) : Nat := ceilDiv rows 64 * ceilDiv cols 64

/-- Bytes of a packed matrix. -/
def packedBytes (s : Nat × Nat × Nat) : Nat := s.1 * rowBytes s.2.2 s.2.1

/-- Bytes that a scratchpad operand takes (R282). -/
def OpWord.padBytes (o : OpWord) (w : Nat) : Nat :=
  match o.opcode with
  | 0x12 | 0x60 | 0x80 => o.word 2
  | _ => packedBytes (o.shape w)

/-- No scratchpad operand reaches the working area (R282). -/
def OpWord.padsOk (o : OpWord) (pay : Option Payload) : Bool :=
  (refFields o.opcode).all fun f =>
    !(o.has pay f.word && (o.ref f.word).kind == 2) || decide ((o.ref f.word).addr + o.padBytes f.word ≤ 0xC000)

/-! ## Stations, routes and clusters (R32, R53, R95, R280) -/

/-- The stations at which an operation takes and gives tiles. TILE_LOAD and TILE_STORE run in the DMA engine of the cores: any
core station serves them (DEDUCED, log 21). -/
def stationsOf (opcode : Nat) : List Nat :=
  match opcode with
  | 0x40 | 0x41 => [2]
  | 0x48 | 0x4A | 0x4B => [3]
  | 0x49 | 0x50 => [4]
  | 0x20 | 0x21 | 0x22 => [0]
  | 0x60 => [5]
  | 0x80 => [6]
  | _ => [2, 3, 4]

/-- A core operation (R280). -/
def isCoreOp (opcode : Nat) : Bool := [0x40, 0x41, 0x48, 0x49, 0x4A, 0x4B, 0x50].contains opcode

/-- The routes of a seat that bring a stream to an operation, or carry it away. -/
def Layout.streamRoutes (l : Layout) (seat stream opcode : Nat) (out : Bool) : List RouteRec :=
  l.routes.filter fun r => r.seat == seat && r.stream == stream && (stationsOf opcode).contains (if out then r.src else r.dst)

/-- The stream operand fields of an operation. -/
def OpWord.streams (o : OpWord) (pay : Option Payload) : List RefField :=
  (refFields o.opcode).filter fun f => o.has pay f.word && !paysFor pay f.word && (o.ref f.word).kind == 1

/-- The place of the gather station that a table's output leaves from: its lowest stack (R188). -/
def TableRec.lowestStack (t : TableRec) : Nat := lowestOf t.stackMask
where
  lowestOf (m : Nat) : Nat := ((List.range 16).find? fun i => m.testBit i).getD 0

/-- Every stream has its route; a QUANTIZE result and a DEQUANTIZE source need the scale route too (R95, R188, R324). An
EXCHANGE's destination is a stream on its peer (R463). -/
def OpWord.routesOk (o : OpWord) (pay : Option Payload) (l : Layout) (seat : Nat) : Bool :=
  (o.streams pay).all fun f =>
    let id := (o.ref f.word).addr
    if o.opcode = 0x60 ∧ f.dest then true
    else
      let rs := l.streamRoutes seat id o.opcode f.dest
      let rs := if (o.opcode = 0x20 ∨ o.opcode = 0x21) ∧ f.dest then
          rs.filter fun r => match l.tables.find? (·.table == o.fld 2 4 2) with
            | some t => r.srcPlace == t.lowestStack
            | none => false
        else rs
      let scaled := (o.opcode == 0x4A && f.dest) || (o.opcode == 0x4B && !f.dest)
      !rs.isEmpty && (!scaled || !(l.streamRoutes seat (id + 2 ^ 31) o.opcode f.dest).isEmpty)

/-- Clusters that the places of routes name (R53, R280). -/
def Layout.placesOf (l : Layout) (seat : Nat) (ps : List Nat) : List Nat :=
  (l.clustersOf seat).filter fun c => ps.contains c || ps.contains 0xFFFF

/-- The cluster sets that the streams of a core operation name (R280). -/
def OpWord.clusterSets (o : OpWord) (pay : Option Payload) (l : Layout) (seat : Nat) : List (List Nat) :=
  (o.streams pay).map fun f =>
    l.placesOf seat ((l.streamRoutes seat (o.ref f.word).addr o.opcode f.dest).map fun r => if f.dest then r.srcPlace else r.dstPlace)

/-- The clusters of a core operation (R280). -/
def OpWord.clusters (o : OpWord) (pay : Option Payload) (l : Layout) (seat : Nat) : List Nat :=
  (o.clusterSets pay l seat).headD (l.clustersOf seat)

/-- All streams of a core operation name one cluster set (R280). -/
def OpWord.clustersOk (o : OpWord) (pay : Option Payload) (l : Layout) (seat : Nat) : Bool :=
  !isCoreOp o.opcode || (o.clusterSets pay l seat).all fun s => s == o.clusters pay l seat

/-! ## Formats (R258 to R260, R181, R217, R298) -/

def isFloat8 (f : Nat) : Bool := f == 1 || f == 2
def isFloat16 (f : Nat) : Bool := f == 3 || f == 4
def isInt (f : Nat) : Bool := f == 6 || f == 7 || f == 8
/-- FP32, BF16, FP16. -/
def isWide (f : Nat) : Bool := f == 3 || f == 4 || f == 5
/-- The output formats of QUANTIZE. -/
def isNarrow (f : Nat) : Bool := isFloat8 f || isInt f

/-- The operand combinations of R258. -/
def dotFormats (gemv : Bool) (a b c mode : Nat) : Bool :=
  isWide c &&
  (if a = 5 ∧ b = 5 then decide (1 ≤ mode ∧ mode ≤ 3)
   else decide (mode ≤ 1) &&
    ((isFloat8 a && isFloat8 b) || (isFloat16 a && isFloat16 b) || (isInt a && isInt b)
      || (gemv && a == 4 && (b == 7 || b == 6 || isFloat8 b))))

/-- The formats of R258 and R259. -/
def OpWord.formatsOk (o : OpWord) : Bool :=
  match o.opcode with
  | 0x40 => dotFormats false (o.fld 4 4 1) (o.fld 4 5 1) (o.fld 4 6 1) (o.fld 4 7 1)
  | 0x41 => dotFormats true (o.fld 4 4 1) (o.fld 4 5 1) (o.fld 4 6 1) (o.fld 4 7 1)
  | 0x10 | 0x11 => formatOk (o.fld 4 4 1)
  | 0x20 | 0x21 => o.fld 2 7 1 == 4 || o.fld 2 7 1 == 5
  | 0x31 => o.fld 2 7 1 == 4 || o.fld 2 7 1 == 5
  | 0x48 =>
    let f := o.fld 4 4 1 % 64
    decide (1 ≤ o.fld 4 5 1 ∧ o.fld 4 5 1 ≤ 9) && (if vecCounts f then o.fld 4 6 1 == 9 else isWide (o.fld 4 6 1))
  | 0x49 =>
    decide (1 ≤ o.fld 4 2 1 ∧ o.fld 4 2 1 ≤ 9) && (if o.fld 4 0 1 ≤ 2 then isWide (o.fld 4 3 1) else o.fld 4 3 1 == 9)
  | 0x4A => isWide (o.fld 4 2 1) && isNarrow (o.fld 4 3 1)
  | 0x4B => isNarrow (o.fld 4 2 1) && isWide (o.fld 4 3 1)
  | 0x50 => decide (1 ≤ o.fld 4 1 1 ∧ o.fld 4 1 1 ≤ 9)
  | _ => true

/-! ## Ranges (R100) -/

/-- A matrix dimension. -/
def dimOk (n : Nat) : Bool := decide (1 ≤ n ∧ n ≤ 16777216)

/-- The widths of the check selectors (R489). -/
def crcWidth (s : Nat) : Nat := (crcKind s).width

/-- The cascade seat of a module: its lowest-numbered seat with an EXCHANGE route (R462). -/
def Layout.cascadeSeat (l : Layout) : Option Nat :=
  (List.range 64).find? fun n => l.routes.any fun r => r.seat == n && (r.src == 5 || r.dst == 5)

/-- A module of the cascade that is not this one (R463). -/
def CascadeRec.peerOk (c : CascadeRec) (m : Nat) : Bool := decide (m < c.members) && m != c.moduleIndex

/-- RING and SEQUENCE of a WAIT (R100, R102): `seq` is its own sequence, none when a body is published. -/
def OpWord.waitOk (o : OpWord) (l : Layout) (seat ring : Nat) (seq : Option Nat) : Bool :=
  let r := o.fld 0 0 2
  if r = 0xFFFF ∨ r = ring then
    match seq with
    | some q => let d := (q + 2 ^ 32 - o.fld 0 4 4) % 2 ^ 32; decide (0 < d ∧ d < 2 ^ 31)
    | none => true
  else decide (r < 4096) && (l.rings.getD r {}).seat == seat

/-- SRC, DST and LENGTH of an EXCHANGE agree as streams or as memory (R463); an argument may be either (R109). -/
def OpWord.exchangeOk (o : OpWord) (pay : Option Payload) : Bool :=
  let src := if paysFor pay 0 then 0 else (o.ref 0).kind
  let dst := (o.ref 1).kind
  ((src == 1 || src == 3) && (dst == 1 || dst == 3) && decide (1 ≤ o.word 2 ∧ o.word 2 ≤ 2 ^ 24))
    || (src != 1 && (dst == 0 || dst == 3) && decide (1 ≤ o.word 2 ∧ o.word 2 ≤ 2 ^ 32) && o.fld 4 0 4 == 0)

/-- A range starts at a multiple of 64, or at an argument that is not known yet (R100, R109). -/
def Opref.aligned (r : Opref) : Bool := r.kind == 3 || r.addr % 64 == 0

/-- The values of an operation's fields lie in their ranges (R100 and the chapters it points to). -/
def OpWord.rangesOk (o : OpWord) (pay : Option Payload) (l : Layout) (seat ring : Nat) (seq : Option Nat) : Bool :=
  let c := l.cascade
  let table := (l.tables.any fun t => t.table == o.fld 2 4 2 && t.seat == seat)
  let width := o.fld 2 6 1 == 4 || o.fld 2 6 1 == 8
  let stride := o.word 3 % 4 == 0 && decide (rowBytes (o.fld 4 4 1) (o.fld 2 4 4) ≤ o.word 3)
  match o.opcode with
  | 0x02 => o.waitOk l seat ring seq
  | 0x03 => decide (0 < o.word 1) && o.word 1 % 64 == 0 && (o.ref 0).aligned && decide (o.fld 2 0 1 ≤ 2)
  | 0x04 => o.word 1 % 64 == 0 && (o.ref 0).aligned
  | 0x05 => decide (o.fld 0 0 1 ≤ 1)
  | 0x10 | 0x11 => dimOk (o.fld 2 0 4) && dimOk (o.fld 2 4 4) && stride
  | 0x12 => decide (1 ≤ o.word 2)
  | 0x20 => decide (1 ≤ o.fld 2 0 4 ∧ o.fld 2 0 4 ≤ 16777216) && table && width
  | 0x21 => decide (1 ≤ o.fld 2 0 4 ∧ o.fld 2 0 4 ≤ 16777216) && table && width && decide (1 ≤ o.fld 3 4 1 ∧ o.fld 3 4 1 ≤ 3)
      && (!o.has pay 5 || o.fld 3 4 1 == 2)
  | 0x22 => decide (1 ≤ o.fld 2 0 4) && table && width && (paysFor pay 0 || (o.ref 0).hint != 1)
  | 0x30 => decide (0 < o.fld 0 0 4) && decide (1 ≤ o.fld 0 4 4 ∧ o.fld 0 4 4 ≤ 1048576) && decide (o.fld 1 0 1 ≤ 1)
      && !(o.fld 1 0 1 == 1 && c.role == 0)
  | 0x31 => decide (1 ≤ o.fld 2 0 4) && table && width && decide (0 < o.fld 3 0 4)
  | 0x32 => decide (0 < o.fld 0 0 4)
  | 0x33 => decide (0 < o.fld 0 0 4)
  | 0x34 => decide (o.fld 1 0 1 ≤ 1)
  | 0x35 => (l.tables.any fun t => t.table == o.fld 1 0 2 && t.seat == seat) && decide (o.fld 1 2 1 ≤ 2) && decide (o.fld 1 3 1 ≤ 11)
  | 0x40 | 0x41 => dimOk (o.fld 3 0 4) && dimOk (o.fld 3 4 4) && dimOk (o.fld 4 0 4) && decide (o.fld 4 7 1 ≤ 3)
  | 0x48 =>
    let f := o.fld 4 4 1 % 64
    let sh := o.fld 4 4 1 / 64
    dimOk (o.fld 3 0 4) && dimOk (o.fld 3 4 4) &&
      ((vecUnary f && !o.has pay 1 && sh == 0) || (vecBinary f && o.has pay 1 && decide (sh < 3)))
  | 0x49 => dimOk (o.fld 3 0 4) && dimOk (o.fld 3 4 4) && decide (o.fld 4 0 1 ≤ 4) && decide (o.fld 4 1 1 ≤ 1)
  | 0x4A => dimOk (o.fld 3 0 4) && dimOk (o.fld 3 4 4) && decide (o.fld 4 1 1 ≤ 1)
  | 0x4B => dimOk (o.fld 3 0 4) && dimOk (o.fld 3 4 4)
  | 0x50 => dimOk (o.fld 3 0 4) && dimOk (o.fld 3 4 4) && decide (o.fld 4 0 1 ≤ 4) && decide (o.fld 4 2 1 ≤ 15)
  | 0x51 => decide (o.fld 1 0 1 ≤ 15) && decide (o.fld 1 1 1 ≤ 5) && decide (1 ≤ o.fld 1 2 2 ∧ o.fld 1 2 2 ≤ 4095)
  | 0x60 => c.role != 0 && c.peerOk (o.fld 3 0 2) && o.exchangeOk pay
  | 0x61 =>
    let g := o.fld 3 0 2
    c.role != 0 && o.word 2 % 64 == 0 && decide (64 ≤ o.word 2) && decide (g + o.fld 3 2 2 ≤ c.members)
      && decide (g ≤ c.moduleIndex ∧ c.moduleIndex < g + o.fld 3 2 2)
  | 0x62 => c.role != 0 && l.cascadeSeat == some seat && decide (o.fld 1 0 1 ≤ 2) && (o.fld 1 0 1 != 0 || c.dealer == 1)
  | 0x70 => decide (1 ≤ o.word 1) && decide (o.fld 4 0 1 ≤ 3) && decide (o.fld 4 1 1 ≤ 3)
      && decide (o.word 2 < 2 ^ crcWidth (o.fld 4 0 1)) && decide (o.word 3 < 2 ^ crcWidth (o.fld 4 0 1))
  | 0x7E => decide (1 ≤ o.word 1)
  | 0x7F =>
    decide (o.fld 0 0 2 ≤ 255) &&
      (match o.fld 0 2 1 with
       | 0 => decide (o.fld 2 0 4 ≤ 32)
       | 1 => decide (1 ≤ o.fld 2 0 4 ∧ o.fld 2 0 4 ≤ 65536)
       | 2 => o.fld 0 4 4 == 0 && o.word 1 == 0 && o.fld 2 0 4 == 0 && o.word 3 == 0
       | _ => false)
  | 0x80 => decide (1 ≤ o.word 2 ∧ o.word 2 ≤ 2 ^ 32)
  | _ => true

/-! ## The check of R101 -/

/-- Everything that R101 checks of one operation of a ring of the seat. `body` is the check of a body entry when it is
published: KIND 3 is allowed and its own sequence is not known (R109). -/
def OpWord.ok (o : OpWord) (pay : Option Payload) (l : Layout) (seat ring : Nat) (seq : Option Nat) (body : Bool) : Bool :=
  opcodes.contains o.opcode && decide (o.flags < 4) && o.reservedOk && o.payloadOk pay && o.refsOk pay body && o.formatsOk
    && o.rangesOk pay l seat ring seq && o.padsOk pay && o.routesOk pay l seat && o.clustersOk pay l seat

/-- A QUANTIZE with WIDEN_ON_OVERFLOW, which forms a pair with the operation that follows (R319). -/
def OpWord.widens (o : OpWord) : Bool := o.opcode == 0x4A && (o.fld 4 1 1).testBit 0

/-- The pair is valid (R319). -/
def pairOk (q m : OpWord) (qp mp : Option Payload) (l : Layout) (seat : Nat) : Bool :=
  let p := 64 * (q.clusters qp l seat).length
  let p' := 64 * (m.clusters mp l seat).length
  (q.ref 2).kind == 1 && (m.opcode == 0x40 || m.opcode == 0x41) && m.has mp 0 && !paysFor mp 0 && (m.ref 0).kind == 1
    && (m.ref 0).addr == (q.ref 2).addr && m.fld 4 4 1 == q.fld 4 3 1
    && decide (q.fld 3 0 4 * q.fld 3 4 4 * 2 ≤ 4096 * p)
    && decide (m.fld 3 0 4 * m.fld 4 0 4 * (formatBits (m.fld 4 6 1) / 8) ≤ 4096 * p')

end Sys2Proof.Machine
end

