-- ==== Sys2Proof/Machine/Entries.lean ====
section
/-! DEFINITION. What stands in a submission ring (04): the tests of an entry, and what a fetcher would find there now (R127, R135, R136,
R148, R320). -/

namespace Sys2Proof.Machine

/-- The entry at a count passes the tests of R135. -/
def entryFresh (e : List Byte) (ring gen count : Nat) : Bool :=
  field e 4 4 == count && field e 8 4 == crc32c (foldOf (gen * 65536 + ring) count) (slice e 0 8 ++ List.replicate 4 0 ++ e.drop 12)

/-- The address of the submission slot of a count (R127). -/
def RingRec.slotAddr (r : RingRec) (count : Nat) : Nat := r.submitBase + count % 2 ^ r.log2Size * 64

/-- The device-wide context of a ring. -/
def RingRec.ctxIx (r : RingRec) : Nat := r.seat * 16 + r.context

/-- The fetcher of a ring's slot as the memory sees it (R335, R376): under the tag of the ring's context, for the slot's compute stack. -/
def RingRec.agent (r : RingRec) : Agent := ⟨r.ctxIx, slotStack r.slot, .fetch r.slot⟩

/-- A line serves the fetcher: a dirty one, or one that holds the entry of the count. A clean line that does not is old: memory is read in
its place (log 139). -/
def Dev.lineServes (d : Dev) (ring count : Nat) (l : Line) : Bool :=
  l.dirty || (!l.poison && entryFresh l.data ring (d.ring ring).generation count)

/-- The bytes that a fetcher would find at a count: of its stream cache or of memory, none where they are poisoned. -/
def Dev.peekEntry (d : Dev) (ring count : Nat) : Option (List Byte) :=
  let r := d.ringRec ring
  let a := r.slotAddr count
  match (d.cache.line (slotStack r.slot) (tagOf r.ctxIx) (a / 64)).filter (d.lineServes ring count) with
  | some l => if l.poison then none else some l.data
  | none => if d.mem.isPoison a then none else some (d.mem.bytes a 64)

/-- The entry that would be taken at a count. -/
def Dev.peekFresh (d : Dev) (ring count : Nat) : Option (List Byte) :=
  (d.peekEntry ring count).filter fun e => entryFresh e ring (d.ring ring).generation count

/-- The number of entries of the frame at a count, if all of them are within `avail` and none is stale (R136). -/
def Dev.peekFrame (d : Dev) (ring count avail : Nat) : Option Nat :=
  if avail = 0 then none
  else (d.peekFresh ring count).bind fun e =>
    let more := field e 2 1
    if more < avail ∧ ((List.range more).all fun i => (d.peekFresh ring ((count + 1 + i) % 2 ^ 32)).isSome) = true then some (1 + more)
    else none

/-- An entry of a QUANTIZE with WIDEN_ON_OVERFLOW (R319). -/
def widensEntry (e : List Byte) : Bool := field e 0 1 == 0x4A && (field e 0x31 1).testBit 0

/-- Entries below TAIL that the ring has not taken; none once FETCHED has passed TAIL, and every slot of a device-append ring, which
ignores TAIL (R135, R148). -/
def Ring.available (r : Ring) (log2Size : Nat) : Nat :=
  let n := (r.tail + 2 ^ 32 - r.fetched) % 2 ^ 32
  if r.append then 2 ^ log2Size else if n ≤ 2 ^ log2Size then n else 0

/-- The fetcher takes entries of the ring: RUNNING, or HOST_LOST, which goes on fetching (R128, R437). -/
def Ring.fetches (r : Ring) : Bool := r.state == .running || r.state == .hostLost

/-- The ring has an entry to look at: it fetches, is not being zeroed, and FETCHED lies below TAIL or the ring is device-append. -/
def Dev.pending (d : Dev) (ring : Nat) : Bool :=
  let r := d.ring ring
  r.fetches && !r.zeroing && decide (0 < r.available (d.ringRec ring).log2Size)

/-- An operation of the ring can be taken: its frame is there, and that of its partner if it widens (R135, R136, R148, R320). -/
def Dev.takeable (d : Dev) (ring : Nat) : Bool :=
  let r := d.ring ring
  let avail := r.available (d.ringRec ring).log2Size
  d.pending ring && match d.peekFrame ring r.fetched avail with
    | none => false
    | some n =>
      !((d.peekEntry ring r.fetched).any widensEntry) || (d.peekFrame ring ((r.fetched + n) % 2 ^ 32) (avail - n)).isSome

end Sys2Proof.Machine
end

