-- ==== Sys2Proof/Machine/Crypto.lean ====
section
/-! DEFINITION. SHA-512 and the RSA-4096 signature check that images, packs and firmware pass (R44 to R46, R542). -/

namespace Sys2Proof.Machine

/-- The k-th root of `n`, rounded down, of at most `bits` bits: bit by bit from the top. -/
def rootDown (k n : Nat) : Nat → Nat → Nat
  | 0, r => r
  | bit + 1, r => rootDown k n bit (if (r + 2 ^ bit) ^ k ≤ n then r + 2 ^ bit else r)

/-- The first 64 bits of the fraction of the k-th root of `p`. -/
def rootFraction (k p : Nat) : Nat := rootDown k (p * 2 ^ (64 * k)) 70 0 % 2 ^ 64

/-- The primes below 410: no other number from 2 to 20 divides one. -/
def smallPrimes : List Nat :=
  ((List.range 408).map (· + 2)).filter fun p => (List.range 19).all fun i => p % (i + 2) != 0 || p == i + 2

/-- The 80 round constants of SHA-512 (FIPS 180-4): from the cube roots of the first 80 primes. -/
def shaK : List Nat := smallPrimes.map (rootFraction 3)

/-- The initial hash value of SHA-512 (FIPS 180-4): from the square roots of the first 8 primes. -/
def shaInit : List W64 := (smallPrimes.take 8).map fun p => BitVec.ofNat 64 (rootFraction 2 p)

/-- The message padded to blocks of 128 bytes. -/
def shaPad (bs : List Byte) : List Byte :=
  let z := (239 - bs.length % 128) % 128
  bs ++ [0x80#8] ++ List.replicate z 0#8 ++ (leBytes 16 (8 * bs.length)).reverse

/-- The message schedule, newest word first. -/
def shaSchedule (block : List Byte) : List W64 :=
  let w0 := ((List.range 16).map fun i => BitVec.ofNat 64 (beNat (slice block (8 * i) 8))).reverse
  iter (fun (w : List W64) =>
    let a := w.getD 14 0
    let b := w.getD 1 0
    let s0 := a.rotateRight 1 ^^^ a.rotateRight 8 ^^^ (a >>> 7)
    let s1 := b.rotateRight 19 ^^^ b.rotateRight 61 ^^^ (b >>> 6)
    (w.getD 15 0 + s0 + w.getD 6 0 + s1) :: w) 64 w0

/-- One round on the eight working variables. -/
def shaRound (h : List W64) (kw : W64) : List W64 :=
  match h with
  | [a, b, c, d, e, f, g, hh] =>
    let s1 := e.rotateRight 14 ^^^ e.rotateRight 18 ^^^ e.rotateRight 41
    let t1 := hh + s1 + ((e &&& f) ^^^ (~~~e &&& g)) + kw
    let s0 := a.rotateRight 28 ^^^ a.rotateRight 34 ^^^ a.rotateRight 39
    let t2 := s0 + ((a &&& b) ^^^ (a &&& c) ^^^ (b &&& c))
    [t1 + t2, a, b, c, d + t1, e, f, g]
  | h => h

/-- One block. -/
def shaBlock (h : List W64) (block : List Byte) : List W64 :=
  let ws := (shaSchedule block).reverse
  let r := ((shaK.map (BitVec.ofNat 64)).zip ws).foldl (fun h kw => shaRound h (kw.1 + kw.2)) h
  (h.zip r).map fun p => p.1 + p.2

/-- The blocks of a padded message. -/
def shaBlocks (bs : List Byte) : List (List Byte) :=
  (List.range (bs.length / 128)).map fun i => slice bs (128 * i) 128

/-- SHA-512 (R44, R79). -/
def sha512 (bs : List Byte) : List Byte :=
  ((shaBlocks (shaPad bs)).foldl shaBlock shaInit).flatMap fun w => (leBytes 8 w.toNat).reverse

/-- x^e mod m, with `fuel` bits of e. -/
def powMod : Nat → Nat → Nat → Nat → Nat
  | 0, _, _, m => 1 % m
  | fuel + 1, x, e, m =>
    let h := powMod fuel (x * x % m) (e / 2) m
    if e % 2 = 1 then x % m * h % m else h

/-- The DER prefix of a SHA-512 digest in PKCS #1 v1.5 (RFC 8017). -/
def sha512Prefix : List Byte :=
  [0x30, 0x51, 0x30, 0x0d, 0x06, 0x09, 0x60, 0x86, 0x48, 0x01, 0x65, 0x03, 0x04, 0x02, 0x03, 0x05, 0x00, 0x04, 0x40]

/-- The encoded message of RSASSA-PKCS1-v1_5 for RSA-4096: 512 bytes. -/
def emsa (digest : List Byte) : List Byte :=
  let t := sha512Prefix ++ digest
  [0x00#8, 0x01#8] ++ List.replicate (512 - t.length - 3) 0xFF#8 ++ [0x00#8] ++ t

/-- SIGNATURE verifies over DIGEST (R44, R46). -/
def rsaVerify (modulus signature digest : List Byte) (exponent : Nat) : Bool :=
  let m := beNat modulus
  let s := beNat signature
  decide (0 < m) && decide (s < m) && powMod 32 s exponent m == beNat (emsa digest)

end Sys2Proof.Machine
end

