-- ==== Sys2Proof/Machine/Image.lean ====
section
/-! DEFINITION. The layout image (02): its decoding, table geometry (05), the extents of what it places in memory, and every
check of validation with the record each names. -/

namespace Sys2Proof.Machine

/-! ## Decoding (R44, R47 to R61) -/

/-- Cuts bytes into records of `n` bytes. -/
def chunks (n : Nat) : Nat → List Byte → List (List Byte)
  | 0, _ => []
  | fuel + 1, bs => if bs.isEmpty then [] else bs.take n :: chunks n fuel (bs.drop n)

/-- A directory entry (R47). -/
structure DirEntry where
  id : Nat
  version : Nat
  offset : Nat
  length : Nat
  count : Nat
  deriving DecidableEq, Repr

/-- Reads a directory entry. -/
def DirEntry.ofBytes (b : List Byte) : DirEntry := ⟨field b 0 2, field b 2 2, field b 4 4, field b 8 4, field b 12 4⟩

/-- The sixteen directory entries as bytes. -/
def dirBytes (img : List Byte) : List (List Byte) := chunks 16 16 (slice img 0x800 0x100)

/-- The record size, the least and the greatest COUNT of a section (R48). -/
def sectionShape : Nat → Nat × Nat × Nat
  | 1 => (64, 64, 64) | 2 => (1, 1280, 1280) | 3 => (16, 0, 65536) | 4 => (64, 0, 4096) | 5 => (4, 768, 768)
  | 6 => (32, 4224, 4224) | 7 => (64, 1, 1) | 8 => (8, 1, 1) | 9 => (16, 0, 4096) | _ => (10240, 1, 1)

/-- The bytes of section `id`, none where the directory names none. -/
def sectionBytes (img : List Byte) (id : Nat) : List Byte :=
  match ((dirBytes img).map DirEntry.ofBytes).find? (·.id == id) with
  | some e => (img.drop e.offset).take e.length
  | none => []

/-- The records of a section. -/
def sectionRecs (img : List Byte) (id : Nat) : List (List Byte) :=
  let b := sectionBytes img id
  chunks (sectionShape id).1 b.length b

def SeatRec.ofBytes (b : List Byte) : SeatRec :=
  ⟨field b 0 1, field b 1 1, field b 2 2, field b 4 2, field b 8 8, field b 16 8, field b 24 4, field b 28 4⟩

def RouteRec.ofBytes (b : List Byte) : RouteRec :=
  ⟨field b 0 1, field b 1 1, field b 2 1, field b 4 4, field b 8 2, field b 10 2, field b 12 2⟩

def TableRec.ofBytes (b : List Byte) : TableRec :=
  ⟨field b 0 2, field b 2 1, field b 3 1, field b 4 2, field b 6 1, field b 7 1, field b 8 8, field b 16 2, field b 18 2,
   field b 24 8, field b 32 8, field b 40 8, field b 48 8⟩

def SplitRec.ofBytes (b : List Byte) : SplitRec := ⟨field b 0 1, field b 1 1, field b 2 1⟩

def RingRec.ofBytes (b : List Byte) : RingRec :=
  ⟨field b 0 1, field b 1 1, field b 2 1, field b 3 1, field b 4 1, field b 8 8, field b 16 8⟩

def CascadeRec.ofBytes (b : List Byte) : CascadeRec :=
  ⟨field b 0 1, field b 1 1, field b 2 1, field b 4 2, field b 6 2, field b 8 2, field b 10 2⟩

def WcetRec.ofBytes (b : List Byte) : WcetRec := ⟨field b 0 2, field b 4 4, field b 8 4⟩

/-- The ring records and the slot records of section 6 (R56). -/
def ringBytes (img : List Byte) : List (List Byte) := chunks 32 4096 ((sectionBytes img 6).take 131072)
def slotBytes (img : List Byte) : List (List Byte) := chunks 8 128 ((sectionBytes img 6).drop 131072)

/-- The cores of the fenced-core list (R61). -/
def fencedOf (b : List Byte) : List Nat :=
  b.zipIdx.flatMap fun p => if p.1 = 0 then [] else ((List.range 8).filter fun i => p.1.toNat.testBit i).map fun i => 8 * p.2 + i

/-- The image as its header and sections tell it. -/
def Layout.ofBytes (img : List Byte) : Layout :=
  { serial := field img 0x18 8, keySlot := field img 0x28 1, digest := slice img 0x40 64,
    seats := (sectionRecs img 1).map SeatRec.ofBytes,
    clusters := (sectionBytes img 2).map (·.toNat),
    routes := (sectionRecs img 3).map RouteRec.ofBytes,
    tables := (sectionRecs img 4).map TableRec.ofBytes,
    splits := (sectionRecs img 5).map SplitRec.ofBytes,
    rings := (ringBytes img).map RingRec.ofBytes,
    slots := (slotBytes img).map fun b => field b 0 1,
    cascade := CascadeRec.ofBytes (sectionBytes img 7),
    domains := field (sectionBytes img 8) 0 8,
    wcets := (sectionRecs img 9).map WcetRec.ofBytes,
    fenced := fencedOf (sectionBytes img 10) }

/-! ## Seats of an image -/

/-- Seat record n. -/
def Layout.seat (l : Layout) (n : Nat) : SeatRec := l.seats.getD n {}

/-- The image uses seat n (R49). -/
def Layout.uses (l : Layout) (n : Nat) : Bool := decide (n < 64) && (l.seat n).kind != 0

/-! ## The checks from 0x0B on (R65) -/

/-- What a check reports: section and record. -/
abbrev Hit := Nat × Nat

/-- The lower of two reports: section, then record. -/
def Hit.lower (a b : Hit) : Hit := if a.1 < b.1 ∨ (a.1 = b.1 ∧ a.2 < b.2) then a else b

/-- The lowest report of a list. -/
def lowestHit : List Hit → Option Hit
  | [] => none
  | h :: t => match lowestHit t with
    | none => some h
    | some g => some (h.lower g)

/-- Bytes from `a` to `b` are not all 0. -/
def dirty (bs : List Byte) (a b : Nat) : Bool := (slice bs a (b - a)).any (· != 0)

/-- Directory entry `i` of an image of `n` sections breaks R47, R48 or R496 by itself. -/
def DirEntry.bad (n : Nat) (shape : Nat → Nat × Nat × Nat) (e : DirEntry) (len : Nat) : Bool :=
  let s := shape e.id
  !(decide (1 ≤ e.id) && decide (e.id ≤ n)) || e.version != 1 || e.offset % 64 != 0 || decide (e.offset < 0x900)
    || decide (len < e.offset + e.length) || decide (e.count < s.2.1) || decide (s.2.2 < e.count)
    || e.length != (if e.id = 6 then 132096 else e.count * s.1)

/-- Check 0x0B: the lowest directory entry that breaks R47, R48 or R496; of two that repeat or overlap, the later. -/
def checkDirectory (n : Nat) (shape : Nat → Nat × Nat × Nat) (img : List Byte) : Option Hit :=
  let es := (dirBytes img).map DirEntry.ofBytes
  let bad := fun (p : DirEntry × Nat) =>
    let before := (es.take (min p.2 n))
    if n ≤ p.2 then ((dirBytes img).getD p.2 []).any (· != 0)
    else p.1.bad n shape img.length || before.any fun q => q.id == p.1.id || rangesMeet q.offset q.length p.1.offset p.1.length
  (es.zipIdx.find? bad).map fun p => (if 1 ≤ p.1.id ∧ p.1.id ≤ n then p.1.id else 0, p.2)

/-- Records of a list that a predicate finds bad, as reports of a section. -/
def badRecs {α : Type} (sect : Nat) (l : List α) (bad : α → Nat → Bool) : List Hit :=
  (l.zipIdx.filter fun p => bad p.1 p.2).map fun p => (sect, p.2)

/-- Check 0x0C: reserved fields and reserved encodings (R17, R23). Bits [63:40] of an address that a record gives count as reserved (R16),
and a reserved byte of the header, which is no section, is reported as section 0, entry 0 (log 131). -/
def checkReserved (img : List Byte) (l : Layout) : Option Hit :=
  if dirty img 0x29 0x30 || dirty img 0x38 0x40 || dirty img 0x84 0x100 || dirty img 0x500 0x800 then some (0, 0)
  else lowestHit (
    badRecs 1 (sectionRecs img 1) (fun b _ => dirty b 6 8 || dirty b 0x20 0x40 || decide (2 < field b 0 1)
      || decide (1 < field b 2 2) || dirty b 13 16) ++
    badRecs 3 (sectionRecs img 3) (fun b _ => dirty b 3 4 || dirty b 14 16 || decide (6 < field b 1 1) || decide (6 < field b 2 1)) ++
    badRecs 4 (sectionRecs img 4) (fun b _ => dirty b 0x14 0x18 || dirty b 0x38 0x40 || dirty b 0x35 0x38
      || field b 3 1 == 0 || decide (3 < field b 3 1) || decide (1 < field b 7 1) || decide (4095 < field b 16 2)) ++
    badRecs 5 (sectionRecs img 5) (fun b _ => dirty b 3 4) ++
    badRecs 6 (ringBytes img) (fun b _ => dirty b 5 8 || dirty b 0x18 0x20 || dirty b 13 16 || dirty b 21 24) ++
    (badRecs 6 (slotBytes img) (fun b _ => dirty b 1 8)).map (fun h => (h.1, h.2 + 4096)) ++
    badRecs 7 (sectionRecs img 7) (fun b _ => dirty b 3 4 || dirty b 12 64 || decide (3 < field b 0 1)) ++
    badRecs 8 [l.domains] (fun m _ => decide (2 ^ 20 ≤ m)) ++
    badRecs 9 (sectionRecs img 9) (fun b _ => dirty b 2 4 || dirty b 12 16))

/-- Bytes that the save of one core takes (R50). -/
def saveBytes : Nat := 69632

/-- A seat record keeps R49, R50 and R588. -/
def SeatRec.ok (r : SeatRec) : Bool :=
  if r.kind = 0 then
    decide (r.contexts = 0 ∧ r.flags = 0 ∧ r.clusters = 0 ∧ r.saveBase = 0 ∧ r.saveLength = 0 ∧ r.slice = 0 ∧ r.maxOpWcet = 0)
  else
    decide (1 ≤ r.contexts ∧ r.contexts ≤ 16 ∧ 1 ≤ r.clusters ∧ r.clusters ≤ 1280 ∧ r.saveBase % 65536 = 0
      ∧ r.saveLength % 65536 = 0 ∧ r.contexts * r.clusters * 64 * saveBytes ≤ r.saveLength)
      && (⟨1, 0, r.saveBase, r.saveLength, 0, .device, 0⟩ : Extent).inStack
      && (if r.kind = 2 then decide (100000 ≤ r.slice ∧ r.maxOpWcet ≤ 3200000) else decide (r.slice = 0 ∧ r.maxOpWcet = 0))

/-- Check 0x10. -/
def checkSeats (l : Layout) : Option Hit := lowestHit (badRecs 1 l.seats fun r _ => !r.ok)

/-- Check 0x11 (R51). -/
def checkClusters (l : Layout) : Option Hit :=
  lowestHit (badRecs 1 l.seats (fun r n => (l.clusters.filter (· == n)).length != r.clusters) ++
    badRecs 2 l.clusters (fun c _ => decide (63 < c ∧ c ≠ 255)))

/-- Check 0x12 (R513): `fenced` is the device's set. -/
def checkFenced (l : Layout) (fenced : List Nat) : Option Hit :=
  lowestHit (
    ((l.fenced ++ fenced).filter (fun c => decide (l.clusters.getD (c / 64) 255 < 64))).map (fun c => (2, c / 64)) ++
    ((fenced.filter fun c => !l.fenced.contains c).map fun c => (10, c)))

/-- The place of a station is one that the seat may name (R53). -/
def Layout.placeOk (l : Layout) (seat st place : Nat) : Bool :=
  if st ≤ 1 then decide (place ≤ 11)
  else if st ≤ 4 then decide (place = 0xFFFF) || (decide (place < 1280) && l.clusters.getD place 255 == seat)
  else if st = 5 then decide (place ≤ 7) else decide (place = 0)

/-- Check 0x13 (R52, R53): the later record of two in conflict. -/
def checkRoutes (l : Layout) : Option Hit :=
  lowestHit (badRecs 3 l.routes fun r i =>
    !(l.uses r.seat && decide (1 ≤ r.credits ∧ r.credits ≤ 1024) && l.placeOk r.seat r.src r.srcPlace && l.placeOk r.seat r.dst r.dstPlace)
      || (l.routes.take i).any fun q => q.seat == r.seat && q.stream == r.stream && q.src == r.src && q.srcPlace == r.srcPlace)

/-- A power of two from 1 to 4,096. -/
def isStripe (n : Nat) : Bool := (List.range 13).any fun i => n == 2 ^ i

/-- The dimension and row limits of R171. -/
def TableRec.shapeOk (t : TableRec) : Bool :=
  if t.rowFormat = 1 then decide (16 ≤ t.dimension ∧ t.dimension ≤ 1024 ∧ t.dimension % 4 = 0 ∧ 1 ≤ t.rows ∧ t.rows ≤ 2 ^ 40)
  else if t.rowFormat = 2 then
    decide (32 ≤ t.dimension ∧ t.dimension ≤ 2048 ∧ t.dimension % 8 = 0 ∧ 1 ≤ t.rows ∧ t.rows ≤ 2 ^ 40)
  else decide (2 ≤ t.dimension ∧ t.dimension ≤ 512 ∧ t.dimension % 2 = 0 ∧ 1 ≤ t.rows ∧ t.rows ≤ 16777216)

/-- A table record keeps R54, R171, R173, R177 and R588. -/
def TableRec.ok (t : TableRec) : Bool :=
  decide (t.table ≤ 4095 ∧ t.seat ≤ 63) && t.shapeOk
    && (if t.isSplit then decide (t.slotAtoms = 16) else decide (1 ≤ t.slotAtoms ∧ t.slotAtoms ≤ 16 ∧ ceilDiv t.rowBytes 64 ≤ t.slotAtoms))
    && decide (t.stackMask ≠ 0 ∧ t.stackMask < 4096 ∧ t.pcMask ≠ 0) && isStripe t.interleave
    && decide (t.base % 65536 = 0 ∧ t.lengthPerStack % (t.pcs.length * 65536) = 0 ∧ t.base + t.lengthPerStack ≤ 2 ^ 36)
    && (if t.isSplit then decide (t.rowsPerPart * 1024 + ceilDiv (4 * t.rowsPerPart) 64 * 64 ≤ t.part)
        else decide (t.rowsPerPart * t.slotAtoms * 64 ≤ t.part))
    && (if t.defaultKind = 1 then decide (t.defaultRow % 64 = 0) else decide (t.defaultRow = 0))
    && (t.areas 0 ++ t.defaultExtent 0).all Extent.inStack

/-- Frames that the tables before record i and record i pin to a pseudo-channel of a stack, with 1,024 of the staging area
and 128 of the spare pool (R332). -/
def Layout.pinnedTo (l : Layout) (i x pc : Nat) : Nat :=
  1152 + (((l.tables.take (i + 1)).filter fun t => t.dies.contains x && t.pcs.contains pc).map fun t => t.part / 65536).foldl (· + ·) 0

/-- Check 0x14: the later of two records with one table id; the record at which a pseudo-channel passes 16,384 frames. -/
def checkTables (l : Layout) : Option Hit :=
  lowestHit (badRecs 4 l.tables fun t i =>
    !t.ok || (l.tables.take i).any (·.table == t.table)
      || t.dies.any fun x => t.pcs.any fun pc => decide (16384 < l.pinnedTo i x pc))

/-- A range that an enabled segment holds: first byte, length, seat (R383). -/
abbrev Held := Nat × Nat × Nat

/-- Check 0x15: an extent that meets another, a reserved region, or a frame that a segment of another seat holds (log 61). -/
def checkOverlap (l : Layout) (spares : List Nat) (held : List Held) : Option Hit :=
  let es := l.extents
  let rs := (List.range 12).flatMap fun x => reserved x (spares.getD x 0)
  lowestHit ((es.zipIdx.filter fun p =>
    (es.zipIdx.any fun q => q.2 != p.2 && rangesMeet p.1.start p.1.len q.1.start q.1.len)
      || rs.any (fun r => rangesMeet p.1.start p.1.len r.1 r.2)
      || held.any (fun h => h.2.2 != p.1.seat && rangesMeet p.1.frames.1 p.1.frames.2 h.1 h.2.1)).map fun p => (p.1.sect, p.1.idx))

/-- Check 0x16 (R55). -/
def checkSplits (l : Layout) : Option Hit :=
  let sum := fun (r : SplitRec) => r.read + r.write + r.remote
  let total := fun (x : Nat) => ((List.range 64).map fun n => sum (l.splits.getD (12 * n + x) {})).foldl (· + ·) 0
  lowestHit (badRecs 5 l.splits fun r i => decide (0 < sum r) && (decide (256 < total (i % 12)) || !l.uses (i / 12)))

/-- A ring record keeps R56, R57 and R588. -/
def Layout.ringOk (l : Layout) (r : RingRec) (i : Nat) : Bool :=
  l.uses r.seat && decide (r.localIx ≤ 63 ∧ r.slot ≤ 127) && l.slots.getD r.slot 255 == r.seat
    && decide (r.context < (l.seat r.seat).contexts ∧ 6 ≤ r.log2Size ∧ r.log2Size ≤ 20 ∧ r.submitBase % 64 = 0 ∧ r.completeBase % 32 = 0)
    && (r.extents i).all Extent.inStack
    && !((l.rings.take i).any fun q => q.seat == r.seat && q.localIx == r.localIx)

/-- A slot record keeps R57. -/
def Layout.slotOk (l : Layout) (n s : Nat) : Bool :=
  l.uses n && (l.clustersOf n).any fun c => clusterStack c == slotStack s

/-- Check 0x17: a seat without a slot is reported as section 1, a slot record that breaks R57 as itself. -/
def checkRings (l : Layout) : Option Hit :=
  lowestHit (badRecs 1 l.seats (fun r n => r.kind != 0 && !l.slots.contains n) ++
    badRecs 6 l.rings (fun r i => r.seat != 255 && !l.ringOk r i) ++
    (badRecs 6 l.slots (fun n s => n != 255 && !l.slotOk n s)).map fun h => (h.1, h.2 + 4096))

/-- Check 0x18 (R58): what breaks it is reported as the cascade record, an EXCHANGE route of a standalone module too (log 131). -/
def checkCascade (l : Layout) : Option Hit :=
  let c := l.cascade
  let ok := if c.role = 0 then
      decide (c.dealer = 0 ∧ c.portEnable = 0 ∧ c.moduleIndex = 0 ∧ c.members = 1 ∧ c.dealerIndex = 0)
        && !(l.routes.any fun r => r.src == 5 || r.dst == 5)
    else
      decide (c.moduleIndex ≤ 1023 ∧ 1 ≤ c.members ∧ c.members ≤ 1024 ∧ c.moduleIndex < c.members ∧ c.dealerIndex < c.members
        ∧ c.dealer ≤ 1 ∧ (c.dealer = 1 ↔ c.moduleIndex = c.dealerIndex))
  if ok then none else some (7, 0)

/-- The domains that an image needs (R59, R524, R525). -/
def Layout.needs (l : Layout) : List Nat :=
  [0, 1] ++ (List.range 8).map (12 + ·) ++ (if l.cascade.portEnable % 16 = 0 then [] else [2])
    ++ (if l.cascade.portEnable / 16 = 0 then [] else [3])
    ++ (l.clusters.zipIdx.filter (·.1 < 64)).map fun p => halfDomain p.2

/-- Check 0x19. -/
def checkDomains (l : Layout) : Option Hit := if l.needs.all l.domains.testBit then none else some (8, 0)

/-- Check 0x1A (R60). -/
def checkWcet (l : Layout) : Option Hit :=
  lowestHit (
    badRecs 1 l.seats (fun r n => r.kind != 0 && !(l.wcets.any fun w => (l.rings.getD w.ring {}).seat == n)) ++
    badRecs 9 l.wcets (fun w i => decide (63 < (l.rings.getD w.ring {}).seat) || (l.wcets.take i).any (·.ring == w.ring)
      || decide (w.wcet < w.base)))

/-! ## Validation (R65) -/

/-- What validation needs besides the image: the key slots, the running firmware's version, the active serial, the fenced
set, the spare pools, and the ranges that segments hold. -/
structure Against where
  keys : List (Option (List Byte))
  firmware : Nat
  serial : Nat
  fenced : List Nat
  spares : List Nat
  held : List Held
  deriving DecidableEq, Repr

/-- The bytes that CRC64, DIGEST and SIGNATURE cover (R46). -/
def signedBytes (img : List Byte) : List Byte :=
  splice (splice (splice img 0x30 (List.replicate 8 0)) 0x40 (List.replicate 64 0)) 0x300 (List.replicate 512 0)

/-- The first check from 0x0B on that fails: code, section, record. -/
def Layout.structureCheck (l : Layout) (img : List Byte) (a : Against) : Option (Nat × Hit) :=
  let checks : List (Nat × Option Hit) :=
    [(0x0C, checkReserved img l), (0x10, checkSeats l), (0x11, checkClusters l), (0x12, checkFenced l a.fenced),
     (0x13, checkRoutes l), (0x14, checkTables l), (0x15, checkOverlap l a.spares a.held), (0x16, checkSplits l),
     (0x17, checkRings l), (0x18, checkCascade l), (0x19, checkDomains l), (0x1A, checkWcet l)]
  checks.findSome? fun c => c.2.map fun h => (c.1, h)

/-- The checks 0x02 to 0x08 of an image with a magic number and a number of sections, against the digest of its key. -/
def signedCheck (magic sections : Nat) (key : Option (List Byte)) (img : List Byte) : Option Nat :=
  let n := img.length
  if field img 0 8 ≠ magic then some 2
  else if field img 8 2 ≠ 0x0100 ∨ field img 10 2 ≠ sections ∨ field img 12 4 ≠ 0x800 then some 3
  else if field img 16 8 ≠ n ∨ n < 4096 ∨ 2 ^ 24 < n ∨ n % 64 ≠ 0 then some 4
  else if field img 0x30 8 ≠ crc64 (signedBytes img) then some 5
  else if slice img 0x40 64 ≠ sha512 (signedBytes img) then some 6
  else if key ≠ some (sha512 (slice img 0x100 512 ++ slice img 0x80 4)) then some 7
  else if rsaVerify (slice img 0x100 512) (slice img 0x300 512) (slice img 0x40 64) (field img 0x80 4) = false then some 8
  else none

/-- The checks 0x02 to 0x0A of a layout image. -/
def headerCheck (img : List Byte) (a : Against) : Option Nat :=
  (signedCheck 0x4D4959414C4B5654 10 (a.keys.getD (field img 0x28 1) none) img).or <|
  if field img 0x20 4 ≠ 0x4880 ∨ a.firmware < field img 0x24 4 then some 9
  else if field img 0x18 8 ≤ a.serial then some 10
  else none

/-- Validation: the refusal's code, section and record, or none. -/
def validate (img : List Byte) (a : Against) : Option (Nat × Hit) :=
  match headerCheck img a with
  | some c => some (c, 0, 0)
  | none => match checkDirectory 10 sectionShape img with
    | some h => some (0x0B, h)
    | none => (Layout.ofBytes img).structureCheck img a

/-! ## What a swap compares (R68) -/

/-- The records of an image that make a seat what it is. -/
structure SeatView where
  record : SeatRec
  clusters : List Nat
  routes : List RouteRec
  tables : List TableRec
  splits : List SplitRec
  rings : List (Nat × RingRec)
  slots : List Nat
  wcets : List WcetRec
  deriving DecidableEq, Repr

def Layout.view (l : Layout) (n : Nat) : SeatView :=
  { record := l.seat n, clusters := l.clustersOf n, routes := l.routes.filter (·.seat == n),
    tables := l.tables.filter (·.seat == n), splits := (l.splits.drop (12 * n)).take 12,
    rings := (l.rings.zipIdx.filter (·.1.seat == n)).map (fun p => (p.2, p.1)),
    slots := (l.slots.zipIdx.filter (·.1 == n)).map (·.2),
    wcets := l.wcets.filter fun w => (l.rings.getD w.ring {}).seat == n }

/-- An EXCHANGE route of the seat in an image. -/
def Layout.exchanges (l : Layout) (n : Nat) : Bool := l.routes.any fun r => r.seat == n && (r.src == 5 || r.dst == 5)

/-- Seat n is changed by a swap from `old` to `new` (R68). With no active image, the seats that the new image uses are
(R77). -/
def seatChanged (old : Option Layout) (new : Layout) (n : Nat) : Bool :=
  match old with
  | none => new.uses n
  | some o => o.view n != new.view n || (o.cascade != new.cascade && (o.exchanges n || new.exchanges n))

/-- The seats that a swap changes. -/
def changedSeats (old : Option Layout) (new : Layout) : List Nat := (List.range 64).filter (seatChanged old new)

end Sys2Proof.Machine
end

