-- ==== Sys2Proof/Machine/Seats.lean ====
section
/-! DEFINITION. Seats (11): rings that start empty, segments and what covers frames, save and restore, time slices, seat resets
and the handoff scrub. -/

namespace Sys2Proof.Machine

/-! ## Rings that start empty (R130) -/

/-- A ring that starts empty: GENERATION counts on, the four counts, the mode and its other registers are reset, its log, pin, record and
quantisation counters are cleared, and its completion ring is to be zeroed (R130, R170, R235, R275, R329, R438). RNG_STALE and RNG_DB_ERR are
ring registers too (DEDUCED, log 134). -/
def Ring.startEmpty (r : Ring) (st : RingState) : Ring :=
  { state := st, generation := (r.generation + 1) % 65536, zeroing := true }

/-- The rings of seat n in the active image. -/
def Dev.seatRings (d : Dev) (n : Nat) : List Nat := (d.ringList.filter (·.2.seat == n)).map (·.1)

/-- The rings of a context in the active image (R373). -/
def Dev.ctxRings (d : Dev) (x : Nat) : List Nat :=
  (d.ringList.filter fun p => p.2.seat * 16 + p.2.context == x).map (·.1)

/-- A context exists: its seat is in use in the active image and has it (R373, R410). -/
def Dev.ctxExists (d : Dev) (x : Nat) : Bool :=
  !d.held && (d.seatRec (x / 16)).kind != 0 && decide (x % 16 < (d.seatRec (x / 16)).contexts)

/-- The seat is time-shared (R49). -/
def Dev.shared (d : Dev) (n : Nat) : Bool := (d.seatRec n).kind == 2

/-! ## Covers (R383) -/

/-- The cover that an extent gives. -/
def Extent.cover (e : Extent) : Cover :=
  ⟨frameOf e.start, ceilDiv (offsetOf e.start + e.len) 65536 - frameOf e.start, e.kind, e.tag⟩

/-- The cover that a segment gives. -/
def Seg.cover (g : Seg) (x : Nat) : Cover := ⟨frameOf g.pbase, g.length, .context, tagOf x⟩

/-- A segment write or an image adds a cover on stack x. -/
def Dev.addCover (d : Dev) (x : Nat) (c : Cover) : Dev := d.updStack x fun k => { k with covers := k.covers ++ [c] }

/-- A cover ends. -/
def Dev.dropCover (d : Dev) (x : Nat) (c : Cover) : Dev := d.updStack x fun k => { k with covers := k.covers.erase c }

/-- Frames of a range that nothing covers any more become FREE with ZERO_PENDING (R406, R589). Those that hold something are the ones
that change. -/
def Dev.uncover (d : Dev) (x : Nat) (c : Cover) : Dev :=
  let fs := (d.mem.usedFrames x c.first c.count).filter fun f => (frameOwner (d.mem.stack x).covers f).1 == .free
  { d with mem := fs.foldl (fun m f => m.zeroFrame x f) d.mem }

/-- Disables segment s of context x and takes its cover away. -/
def Dev.closeSeg (d : Dev) (x s : Nat) : Dev :=
  let g := d.seg x s
  if g.enable then
    (d.dropCover (stackOf g.pbase) (g.cover x)).updSeg x s fun g => { g with enable := false, dropping := false }
  else d

/-- Disables every segment of a context; frames left uncovered become ZERO_PENDING (R406, R589). -/
def Dev.closeSegs (d : Dev) (x : Nat) : Dev :=
  (List.range 8).foldl (fun d s =>
    let g := d.seg x s
    if g.enable then (d.closeSeg x s).uncover (stackOf g.pbase) (g.cover x) else d) d

/-- Disables every window that names a context (R418). -/
def Dev.closeWindows (d : Dev) (p : Nat → Bool) : Dev :=
  { d with glb := { d.glb with windows := d.glb.windows.foldl (fun m w =>
      SMap.put {} m w.1 (if p w.2.context then { w.2 with enable := false } else w.2)) [] } }

/-! ## Segment registers (R377 to R380) -/

/-- The first check of R379 that an enabling write fails, 0 for none. `v` is the value of SEG_ATTR. -/
def Dev.segCheck (d : Dev) (x s v : Nat) : Nat :=
  let g := d.seg x s
  let bytes := g.length * 65536
  let k := d.mem.stack (stackOf g.pbase)
  let covers := k.covers.filter fun c => rangesMeet c.first c.count (frameOf g.pbase) g.length
  if g.length = 0 ∨ 1048576 < g.length ∨ 2 ^ 48 < g.vbase + bytes ∨ 2 ^ 10 ≤ v then 1
  else if 12 ≤ stackOf g.pbase ∨ stackOf (g.pbase + bytes - 1) ≠ stackOf g.pbase ∨ 2 ^ 40 < g.pbase + bytes then 2
  else if covers.any (·.kind == .device) then 3
  else if covers.any fun c => tagSeat c.tag != x / 16 then 4
  else if (d.ctx x).segs.any (fun e => e.1 != s && e.2.enable && rangesMeet e.2.vbase (e.2.length * 65536) g.vbase bytes) then 5
  else if v.testBit 3 && ((d.layout.map (·.correctOnly)).getD []).any fun e => rangesMeet e.frames.1 e.frames.2 g.pbase bytes then 7
  else 0

/-- The attribute bits of SEG_ATTR in a segment (R410). -/
def Seg.setAttr (g : Seg) (v : Nat) : Seg :=
  { g with read := v.testBit 1, write := v.testBit 2, detect := v.testBit 3, hint := v / 16 % 4, uses := v / 64 % 16 }

/-- The value of SEG_ATTR (R410). -/
def Seg.attr (g : Seg) : Nat :=
  g.enable.toNat + 2 * g.read.toNat + 4 * g.write.toNat + 8 * g.detect.toNat + 16 * g.hint + 64 * g.uses

/-- A refused write of SEG_ATTR (R379, R380). -/
def Dev.segRefuse (d : Dev) (x s code : Nat) : Dev :=
  (d.updSeg x s fun g => { g with err := code }).setLeaf (.seat (x / 16)) 5

/-- SEG_ENABLE (R379, R380): SEG_ATTR is written with ENABLE set. -/
def execSegEnable (ctx seg v : Nat) (s : State) : Host.Outcome State Fault Refusal :=
  let v := v ||| 1
  let g := s.dev.seg ctx seg
  .next (if !(s.ready && s.dev.ctxExists ctx) then s
    else if g.enable then
      if v = g.attr then s else { s with dev := s.dev.segRefuse ctx seg 6 }
    else
      let code := s.dev.segCheck ctx seg v
      if code ≠ 0 then { s with dev := s.dev.segRefuse ctx seg code }
      else
        let g := { g.setAttr v with enable := true, err := 0 }
        { s with dev := (s.dev.updSeg ctx seg fun _ => g).addCover (stackOf g.pbase) (g.cover ctx) })

/-- SEG_DISABLE (R380): SEG_ATTR is written with ENABLE 0. An enabled segment starts to drop its lines once the context's
rings are STOPPED or INACTIVE and none of its operations is in the scoreboard; a disabled one takes the attributes. -/
def execSegDisable (ctx seg v : Nat) (s : State) : Host.Outcome State Fault Refusal :=
  let g := s.dev.seg ctx seg
  .next (if !(s.ready && s.dev.ctxExists ctx) then s
    else if !g.enable then { s with dev := s.dev.updSeg ctx seg fun g => g.setAttr v }
    else if (s.dev.ctxRings ctx).all (fun r => (s.dev.ring r).state == .stopped || (s.dev.ring r).state == .inactive)
        && (s.dev.ctxPlaces ctx).isEmpty then
      { s with dev := s.dev.updSeg ctx seg fun g => { g with dropping := true, err := 0 } }
    else { s with dev := s.dev.segRefuse ctx seg 6 })

/-- SEG_DROP_DONE (R380, R384): the lines of the context's tag in the segment's physical range are gone, without
write-back, and the segment is disabled. -/
def execSegDropDone (ctx seg : Nat) (s : State) : Host.Outcome State Fault Refusal :=
  let g := s.dev.seg ctx seg
  .next (if g.dropping then
      let d := s.dev.dropLines fun l => l.tag == tagOf ctx && decide (g.pbase ≤ 64 * l.atom) && decide (64 * l.atom < g.pbase + g.length * 65536)
      { s with dev := d.closeSeg ctx seg }
    else s)

/-! ## Tricks that end with their seat (R250) -/

/-- Discards the tricks of a seat that have no recorded decision; a PREPARED cascade half is reported (R249, R250). -/
def Dev.endTricks (d : Dev) (n : Nat) : Dev :=
  let decided := fun (t : Trick) => d.trk.log.any fun r => r.trick == t.entry && r.epoch == 2 ^ 64 - 1 && r.decision != 0
  let gone := d.trk.tricks.filter fun t => t.seat == n && (t.state == .open_ || t.state == .commit
    || (t.state == .prepared && !decided t) || t.state == .aborted)
  let lost := gone.filter (·.state == .prepared)
  let ids := gone.map (·.entry)
  let tricks := (d.trk.tricks.filter fun t => !ids.contains t.entry).map fun t =>
    if t.seat = n then { t with handleInUse := false, commit := none } else t
  let trk := { d.trk with tricks := tricks, staged := d.trk.staged.filter (fun r => !(ids.contains r.trick && r.epoch.isNone)),
                          log := d.trk.log.filter (fun r => !(lost.any fun t => t.entry == r.trick && r.decision == 0)),
                          discarded := d.trk.discarded ++ lost.map (·.handle),
                          infoSeat := if lost.isEmpty then d.trk.infoSeat else n }
  let d := { d with trk := trk }
  if lost.isEmpty then d else d.setLeaf .trk 3

/-! ## Prefetches that end early (R203) -/

/-- The rows of a PREFETCH_ROWS whose reads have been issued and not landed. -/
def Dev.issuedRows (d : Dev) (p : Place) : List (Nat × Nat) := p.prefetch.filter fun e => !d.reg.waits (.row p.id e.1)

/-- A PREFETCH_ROWS that is cancelled: the reads issued still land (R203, log 111). -/
def Dev.cancelled (d : Dev) (p : Place) : Place :=
  { p with prefetch := d.issuedRows p, cancelled := true, phase := .finished, stall := .none }

/-- Requests that have not issued are dropped. -/
def Dev.dropCharges (d : Dev) (p : Charger → Bool) : Dev := { d with reg := { d.reg with queue := d.reg.queue.filter fun c => !p c.who } }

/-- The request reads a row for a place that a predicate picks. -/
def Charger.rowOf (w : Charger) (p : Nat → Bool) : Bool :=
  match w with
  | .row i _ => p i
  | _ => false

/-- PREFETCH_ROWS operations of a context are cancelled (R203). -/
def Dev.cancelPrefetch (d : Dev) (x : Nat) : Dev :=
  let mine := fun (p : Place) => p.ctxIx == x && p.op.opcode == 0x22 && (p.phase == .running || p.phase == .finished)
  let ids := (d.board.filter mine).map (·.id)
  { d with board := d.board.map fun p => if mine p then d.cancelled p else p }.dropCharges (·.rowOf ids.contains)

/-! ## Seat reset (R405) -/

/-- The operations of a seat that a reset leaves on the board: a PREFETCH_ROWS until its issued reads have landed (R203, R405). -/
def Dev.resetPlace (d : Dev) (n : Nat) (p : Place) : Option Place :=
  if p.seat ≠ n then some p
  else if p.op.opcode = 0x22 ∧ d.issuedRows p ≠ [] then some (d.cancelled p)
  else none

/-- A request is one of an operation or of a fetch slot of a seat. -/
def Dev.chargeOf (d : Dev) (n : Nat) (w : Charger) : Bool :=
  match w with
  | .fetch i => d.slotSeat i == some n
  | .loose => false
  | .row i _ => (d.seatPlaces n).any (·.id == i)
  | .work i => (d.seatPlaces n).any (·.id == i)

/-- A seat reset: the slots stop, every operation is cancelled, the rings start empty, tricks and pins end; a save in
progress is abandoned (R403, log 63). -/
def Dev.resetSeat (d : Dev) (n : Nat) : Dev :=
  let k := d.seat n
  if !k.serves then d
  else
    let d := d.updSeat n fun k => { k with state := .resetting, moving := none, checking := false, loaded := none, next := none, expired := none }
    let d := { d.dropCharges (d.chargeOf n) with board := d.board.filterMap (d.resetPlace n) }
    let d := (d.seatRings n).foldl (fun d r => d.updRing r fun g => g.startEmpty .running) d
    d.endTricks n

/-- SEAT_RESET (R404, R405). -/
def execSeatReset (seat : Nat) (s : State) : Host.Outcome State Fault Refusal :=
  .next (if s.ready then { s with dev := s.dev.resetSeat seat } else s)

/-- VF_FLR (R404, R416): the function-level reset of a VF resets its seat; the VF's PCIe state is reset. -/
def execVfFlr (seat : Nat) (s : State) : Host.Outcome State Fault Refusal :=
  .next (if s.ready && s.dev.glb.vfEnable then
      let d := s.dev.updFn (seat + 1) fun f =>
        { f with msixEnable := false, fnMask := false, busMaster := false, addr := 0, data := 0, masked := true, pending := false }
      { s with dev := d.resetSeat seat }
    else s)

/-! ## The handoff scrub (R406) -/

/-- What happens at the start of every handoff scrub (R571, log 64). -/
def Dev.startScrub (d : Dev) (n : Nat) : Dev :=
  let d := [LeafReg.vfRing n, .vfSeg n, .vfArith n, .vfChk n].foldl Dev.zeroLeaf d
  let d := d.updFn (n + 1) fun f => { f with first := none, armed := true, pending := false }
  d.updSeat n fun k => { k with state := .scrubbing, handoffs := k.handoffs + 1 }

/-- SEAT_DRAINED (R372): every operation of a resetting seat has left the scoreboard. -/
def execSeatDrained (seat : Nat) (s : State) : Host.Outcome State Fault Refusal :=
  .next (if (s.dev.seat seat).state = .resetting ∧ s.dev.seatBusy seat = false then { s with dev := s.dev.startScrub seat } else s)

/-- Zeroes the cores of clusters (R406, R407). -/
def Dev.zeroClusters (d : Dev) (cs : List Nat) : Dev := { d with cores := d.cores.filter fun p => !cs.contains (p.1 / 64) }

/-- The frames of a save segment become ZERO_PENDING (R403, R406). -/
def Dev.zeroSave (d : Dev) (r : SeatRec) : Dev :=
  if r.kind = 0 then d
  else { d with mem := d.mem.zeroFrames (stackOf r.saveBase) (frameOf r.saveBase) (r.saveLength / 65536) }

/-- A context starts fresh; its meters count on (R373, R408). -/
def Dev.freshCtx (d : Dev) (x : Nat) : Dev := d.updCtx x fun c => { meter := c.meter }

/-- What a scrub clears of a seat beyond cores, lines and the save segment (R406). -/
def Dev.scrubSeat (d : Dev) (n : Nat) : Dev :=
  let xs := (List.range 16).map (16 * n + ·)
  let d := xs.foldl Dev.closeSegs d
  let d := d.closeWindows fun c => c / 16 == n
  let d := xs.foldl Dev.freshCtx d
  let d := (d.seatRings n).foldl (fun d r => d.updRing r fun g => { g with exc := {}, crushed := 0, widened := 0, clamped := 0 }) d
  d.updSeat n fun k => { k with mailbox := [], notify := 0, graphs := [], graphCount := [], loaded := none, next := none,
                                expired := none, moving := none, checking := false, logLatch := none }

/-- A core of the fenced set lies in one of the seat's clusters (R81, R372). -/
def Dev.seatFenced (d : Dev) (n : Nat) : Bool := (d.clustersOf n).any d.clusterFenced

/-- SCRUB_DONE (R372, R406): every item of the scrub has finished. -/
def execScrubDone (seat : Nat) (s : State) : Host.Outcome State Fault Refusal :=
  .next (if (s.dev.seat seat).state ≠ .scrubbing then s
    else
      let d := s.dev.zeroClusters (s.dev.clustersOf seat)
      let d := d.dropLines fun l => tagSeat l.tag == seat
      let d := d.zeroSave (d.seatRec seat)
      let d := d.scrubSeat seat
      let used := (d.seatRec seat).kind != 0
      let st := if !used then SeatState.unused else if d.seatFenced seat then .fenced else .inService
      let d := d.updSeat seat fun k => { k with state := st, leaving := false }
      let s : State := { s with dev := d.setLeaf (.seat seat) 4 }
      if st = .fenced then { s with lay := { s.lay with fencedSeats := s.lay.fencedSeats ||| 2 ^ seat } }.setLeaf .lay 4 else s)

/-! ## Save records (R398, R399) -/

/-- First byte of slot c of a seat's save segment (R398). -/
def SeatRec.slotBase (r : SeatRec) (c : Nat) : Nat := r.saveBase + c * r.clusters * 64 * saveBytes

/-- SUM0 to SUM15 and the four bypass ranges of a context, 192 bytes (log 59). -/
def Ctx.saved (c : Ctx) : List Byte :=
  ((List.range 16).flatMap fun i => leBytes 8 (c.sums.get 0 i)) ++
    (List.range 4).flatMap fun i =>
      let b := c.bypass.getD i ⟨0, 0⟩
      leBytes 8 b.addr ++ leBytes 8 b.length

/-- A core's record but for its trailer: 69,568 bytes (R398). -/
def Core.record (k : Core) (extra : List Byte) : List Byte :=
  ((List.range 65536).map k.padByte) ++ ((List.range 128).flatMap fun i => leBytes 4 (k.acc.get 0 i))
    ++ ((List.range 8).flatMap fun i => leBytes 48 (k.exact.get 0 i)) ++ ((List.range 736).flatMap fun i => leBytes 4 (k.regs.get 0 i))
    ++ slice extra 0 192

/-- A record with its trailer (R399). -/
def sealRecord (body : List Byte) (seat ctx j clusters count : Nat) : List Byte :=
  let b := body ++ leBytes 4 0x45564153 ++ leBytes 1 seat ++ leBytes 1 ctx ++ leBytes 2 0 ++ leBytes 4 j ++ leBytes 4 clusters
    ++ leBytes 8 count ++ List.replicate 36 0
  b ++ leBytes 4 (crc32c 0 b)

/-- The trailer of a record is what a restore expects, but for SAVE_COUNT (R401). -/
def trailerOk (b : List Byte) (seat ctx j clusters : Nat) : Bool :=
  decide (field b 0x10FC0 4 = 0x45564153 ∧ field b 0x10FC4 1 = seat ∧ field b 0x10FC5 1 = ctx ∧ field b 0x10FC8 4 = j
    ∧ field b 0x10FCC 4 = clusters ∧ field b 0x10FFC 4 = crc32c 0 (slice b 0 0x10FFC))

/-- The words of a list of bytes as a sparse table. -/
def wordTable (w n : Nat) (b : List Byte) : SMap Nat :=
  (List.range n).foldl (fun m i => SMap.put 0 m i (field b (w * i) w)) []

/-- The core that a record holds; `po` marks the bytes that arrived poisoned (log 132). -/
def Core.ofRecord (b : List Byte) (po : List Bool) : Core :=
  { pad := ((slice b 0 65536).zipIdx.filter fun p => p.1 ≠ 0).map fun p => (p.2, p.1),
    padPoison := ((po.take 65536).zipIdx.filter (·.1)).map (·.2),
    acc := wordTable 4 128 (slice b 0x10000 512), exact := wordTable 48 8 (slice b 0x10200 384),
    regs := wordTable 4 736 (slice b 0x10380 2944) }

/-- A context with the SUM registers and bypass ranges of a record. -/
def Ctx.restored (c : Ctx) (b : List Byte) : Ctx :=
  { c with sums := wordTable 8 16 (slice b 0x10F00 128),
           bypass := ((List.range 4).map fun i => (⟨field b (0x10F80 + 16 * i) 8, field b (0x10F88 + 16 * i) 8⟩ : Bypass)).filter (·.length != 0) }

/-- The cores of a seat, ascending: record j is that of the j-th. -/
def Dev.seatCores (d : Dev) (n : Nat) : List Nat := coresOf (d.clustersOf n)

/-- A record of a slot: core, j, bytes, and byte by byte whether they arrived poisoned. -/
structure SlotRecord where
  core : Nat
  index : Nat
  bytes : List Byte
  poison : List Bool
  deriving DecidableEq, Repr

/-- Who moves a slot's records: device-internal work, metered and charged to the context on the save segment's stack (R400). -/
def Dev.slotAgent (d : Dev) (n c : Nat) : Agent := ⟨16 * n + c, memOwner (stackOf (d.seatRec n).saveBase), .loose⟩

/-- First byte of record j of slot `c`. -/
def Dev.recordBase (d : Dev) (n c j : Nat) : Nat := (d.seatRec n).slotBase c + j * saveBytes

/-- A request somewhere in slot `c` waits at its die (R356). -/
def Dev.slotBlocked (d : Dev) (n c : Nat) : Bool := d.rangeBlocked (d.recordBase n c 0) ((d.seatCores n).length * saveBytes)

/-- Writes the record of one core, the `j`-th of its seat: what is poisoned in its scratchpad is stored poison (R352, log 132). -/
def Dev.saveRecord (n c count : Nat) (d : Dev) (p : Nat × Nat) : Dev :=
  let a := d.recordBase n c p.2
  let k := d.core p.1
  let body := k.record (if p.2 = 0 then (d.ctx (16 * n + c)).saved else [])
  let d := d.writeInternal a (sealRecord body n c p.2 (d.seatRec n).clusters count)
  let d := { d with mem := k.padPoison.foldl (fun m b => m.setPoison (a + b) true) d.mem }
  d.transferRange (d.slotAgent n c) true a saveBytes

/-- Writes the core state of seat n to slot `c` (R398 to R400). -/
def Dev.saveSlot (d : Dev) (n c : Nat) : Dev :=
  let count := (d.ctx (16 * n + c)).saveCount + 1
  ((d.seatCores n).zipIdx.foldl (Dev.saveRecord n c count) d).updCtx (16 * n + c) fun k => { k with saveCount := count, save := .saved }

/-- Reads the records of slot `c` (R400, R401). -/
def Dev.readSlot (d : Dev) (n c : Nat) : Dev × List SlotRecord :=
  (d.seatCores n).zipIdx.foldl (fun q p =>
    let a := q.1.recordBase n c p.2
    let r := q.1.readRange { host := true } a saveBytes
    (r.1.transferRange (d.slotAgent n c) false a saveBytes, q.2 ++ [⟨p.1, p.2, r.2.1, r.2.2⟩])) (d, [])

/-- The records of slot `c`. -/
def Dev.slotRecords (d : Dev) (n c : Nat) : List SlotRecord := (d.readSlot n c).2

/-- A record passes the checks of R401, but for SAVE_COUNT; poison outside the scratchpad fails its CHECK (log 132). -/
def SlotRecord.ok (r : SlotRecord) (n c clusters : Nat) : Bool :=
  trailerOk r.bytes n c r.index clusters && !((r.poison.drop 65536).any id)

/-- Slot `c` passes every check of R401. -/
def Dev.slotOk (d : Dev) (n c : Nat) : Bool :=
  let rs := d.slotRecords n c
  rs.all (·.ok n c (d.seatRec n).clusters)
    && rs.all fun p => field p.bytes 0x10FD0 8 == field ((rs.head?.map (·.bytes)).getD []) 0x10FD0 8

/-- A refused restore (R401). -/
def Dev.refuseRestore (d : Dev) (n c : Nat) : Dev :=
  ((d.updCtx (16 * n + c) fun k => { k with save := .incomplete }).setLeaf (.seat n) 2).setLeaf (.vfSeg n) 1

/-- Loads the core state of slot `c` (R401). -/
def Dev.loadSlot (d : Dev) (n c : Nat) : Dev :=
  let q := d.readSlot n c
  let d := q.2.foldl (fun d p => { d with cores := SMap.put {} d.cores p.core (Core.ofRecord p.bytes p.poison) }) q.1
  match q.2 with
  | [] => d
  | p :: _ => d.updCtx (16 * n + c) fun k => k.restored p.bytes

/-- Checks slot `c` and marks the context SAVED, or refuses it (R402). -/
def Dev.checkSlot (d : Dev) (n c : Nat) : Dev :=
  let e := (d.readSlot n c).1
  if d.slotOk n c then e.updCtx (16 * n + c) fun k => { k with save := .saved } else e.refuseRestore n c

/-! ## SEAT_CMD 1 to 3 (R402) -/

/-- CMD 1 to 3 is accepted: the seat is IN_SERVICE, has no operation in the scoreboard and no save or restore in progress, and the
context lies below CONTEXTS (log 65). -/
def Dev.seatCmdOk (d : Dev) (n c : Nat) : Bool :=
  (d.seat n).state == .inService && !d.seatBusy n && (d.seat n).moving.isNone && decide (c < (d.seatRec n).contexts)

/-- A seat command that is ignored (R402). -/
def State.badSeatCmd (s : State) (n : Nat) : State := s.setLeaf (.seat n) 5

/-- SEAT_SAVE (R402, log 70). -/
def execSeatSave (seat ctx : Nat) (s : State) : Host.Outcome State Fault Refusal :=
  .next (if !s.ready then s
    else if !s.dev.seatCmdOk seat ctx || s.dev.shared seat then s.badSeatCmd seat
    else
      let d := s.dev.updSeat seat fun k => { k with moving := some (ctx, false) }
      { s with dev := d.updCtx (16 * seat + ctx) fun k => { k with save := .saving } })

/-- SEAT_RESTORE (R402): a dedicated seat loads the slot when the restore ends; a time-shared seat checks it and marks the
context SAVED, at once or, where its die serves nothing now, when RESTORE_DONE comes. -/
def execSeatRestore (seat ctx : Nat) (s : State) : Host.Outcome State Fault Refusal :=
  .next (if !s.ready then s
    else if !s.dev.seatCmdOk seat ctx then s.badSeatCmd seat
    else if s.dev.shared seat && !s.dev.slotBlocked seat ctx then { s with dev := s.dev.checkSlot seat ctx }
    else { s with dev := s.dev.updSeat seat fun k => { k with moving := some (ctx, true), checking := s.dev.shared seat } })

/-- SEAT_RESET_CONTEXT (R402). -/
def execSeatResetContext (seat ctx : Nat) (s : State) : Host.Outcome State Fault Refusal :=
  .next (if !s.ready then s
    else if !s.dev.seatCmdOk seat ctx then s.badSeatCmd seat
    else { s with dev := s.dev.updCtx (16 * seat + ctx) fun k => { k with save := .none } })

/-! ## Time slices (R391 to R396) -/

/-- A step of the ring has begun and its step-ending operation has not been taken (R69, R81, R387). -/
def Dev.midStep (d : Dev) (ring : Nat) : Bool := (d.ring ring).inStep && (d.wcet ring).isSome

/-- The slots of the seat start no further step: it is FENCED, or a swap is pending (R69, R81). -/
def Dev.stepless (d : Dev) (n : Nat) : Bool := (d.seat n).state == .fenced || d.swapStop.contains n

/-- A seat is quiescent (R69): it has no operation in the scoreboard, and none of a step that has begun is there to be taken (log 54). -/
def Dev.quiescent (d : Dev) (n : Nat) : Bool := !d.seatBusy n && !(d.seatRings n).any fun r => d.midStep r && d.takeable r

/-- A context has work (R391): operations in the scoreboard, or one that its slot takes; of a seat that starts no further steps, one of a
step that has begun (R69, R81). -/
def Dev.hasWork (d : Dev) (x : Nat) : Bool :=
  ((d.ctxRings x).any fun r => d.takeable r && (!d.stepless (x / 16) || d.midStep r)) || !(d.ctxPlaces x).isEmpty

/-- The slice of a context's next turn and the debt that stays (R395). -/
def nextSlice (slice debt : Nat) : Nat × Nat := (slice - min debt slice, debt - min debt slice)

/-- Chooses among candidates: the first with work whose slice is not cut to 0; those that lose their turn pay their debt. -/
def Dev.chooseCtx (d : Dev) (n : Nat) : List Nat → Dev × Option Nat
  | [] => (d, none)
  | c :: t =>
    let x := 16 * n + c
    if !d.hasWork x || (d.ctx x).save == .incomplete then d.chooseCtx n t
    else
      let q := nextSlice (d.seatRec n).slice (d.ctx x).debt
      if q.1 = 0 then (d.updCtx x fun k => { k with debt := q.2 }).chooseCtx n t else (d, some c)

/-- The contexts after `c` in ascending cyclic order, `c` itself left out. -/
def cyclicAfter (c n : Nat) : List Nat := ((List.range n).map fun i => (c + 1 + i) % n).filter (· ≠ c)

/-- A slice begins: its length, the debt left, and the count of slices (R392, R395). -/
def Dev.beginSlice (d : Dev) (n c : Nat) : Dev :=
  let x := 16 * n + c
  let q := nextSlice (d.seatRec n).slice (d.ctx x).debt
  let d := d.updCtx x fun k => { k with debt := q.2, slices := satInc32 k.slices 1 }
  d.updSeat n fun k => { k with loaded := some c, sliceEnd := d.slow + q.1, expired := none, moving := none, next := none }

/-- SLICE_EXPIRY (R392): the loaded context's slice has expired, or none is loaded; the next context with work is chosen
(log 60). In a FENCED seat too, so that steps in flight complete (R81). -/
def execSliceExpiry (seat : Nat) (s : State) : Host.Outcome State Fault Refusal :=
  let k := s.dev.seat seat
  let n := (s.dev.seatRec seat).contexts
  .next (if !s.dev.shared seat || !k.serves || k.moving.isSome || k.expired.isSome then s
    else match k.loaded with
      | none =>
        let q := s.dev.chooseCtx seat (List.range n)
        { s with dev := match q.2 with
            | none => q.1
            | some c => q.1.updSeat seat fun k => { k with moving := some (c, true) } }
      | some c =>
        if s.dev.slow < k.sliceEnd then s
        else
          let q := s.dev.chooseCtx seat (cyclicAfter c n)
          { s with dev := match q.2 with
              | none => q.1.beginSlice seat c
              | some t => q.1.updSeat seat fun k => { k with expired := some s.dev.slow, next := some t } })

/-- An operation that works but has not started as R393 counts it: an unsatisfied WAIT, a TRICK_OPEN that waits for admission, an
operation that waits for directory space (log 110). -/
def Place.unbegun (p : Place) : Bool :=
  p.phase == .running && (p.op.opcode == 0x02 || (p.stall == .trickBackpressure && [0x30, 0x31, 0x35].contains p.op.opcode))

/-- An operation has started and is not retired (R393): a launch or command buffer with operations still to start has
not, and the partner of a QUANTIZE that has started has. -/
def Dev.hasStarted (d : Dev) (p : Place) : Bool :=
  match p.phase with
  | .running => !(p.op.opcode == 0x7E || p.op.opcode == 0x7F) && !p.unbegun
  | .finished => true
  | .retired => false
  | .waiting => match p.partner.bind d.place with
    | some q => q.op.opcode == 0x4A && q.phase != .waiting
    | none => false

/-- Operations of a context that R393 does not count as started start again in its next slice. -/
def Dev.unstart (d : Dev) (x : Nat) : Dev :=
  { d with board := d.board.map fun p =>
      if p.ctxIx = x ∧ p.unbegun = true then { p with phase := .waiting, stall := .none } else p }

/-- CONTEXT_QUIESCENT (R393, R395, R396): no started operation of the expired context remains; its overrun is charged and its
save begins. -/
def execContextQuiescent (seat : Nat) (s : State) : Host.Outcome State Fault Refusal :=
  let k := s.dev.seat seat
  .next (match k.expired, k.loaded with
    | some t, some c =>
      let x := 16 * seat + c
      let d := (s.dev.cancelPrefetch x).unstart x
      if k.moving.isSome || ((s.dev.ctxPlaces x).filter (·.op.opcode != 0x22)).any s.dev.hasStarted then s
      else
        let late := (d.slow + 2 ^ 48 - t) % 2 ^ 48
        let d := d.updCtx x fun z => { z with debt := z.debt + late, overrunMax := max z.overrunMax late, save := .saving }
        let d := if (d.seatRec seat).maxOpWcet / 16 < late then d.setLeaf (.seat seat) 3 else d
        { s with dev := d.updSeat seat fun k => { k with moving := some (c, false) } }
    | _, _ => s)

/-- SAVE_DONE (R400): the save ends, unless its die serves nothing now (R356); in a time-shared seat the chosen context's restore
starts. -/
def execSaveDone (seat : Nat) (s : State) : Host.Outcome State Fault Refusal :=
  let k := s.dev.seat seat
  .next (match k.moving with
    | some (c, false) =>
      if s.dev.slotBlocked seat c then s
      else
      let d := s.dev.saveSlot seat c
      let d := d.updSeat seat fun k =>
        if d.shared seat then { k with loaded := none, expired := none, next := none, moving := k.next.map fun t => (t, true) }
        else { k with moving := none }
      { s with dev := d }
    | _ => s)

/-- A restore of context `c` ends (R401): the context is loaded, or the restore is refused. A context in state NONE is loaded with zeroed
core state; a restore of SEAT_CMD in a time-shared seat only checks (R402). -/
def Dev.endRestore (d : Dev) (n c : Nat) : Dev :=
  let stop := fun (d : Dev) => d.updSeat n fun k => { k with moving := none, next := none, checking := false }
  if (d.seat n).checking then stop (d.checkSlot n c)
  else if d.slotOk n c then
    let e := d.loadSlot n c
    if d.shared n then e.beginSlice n c else stop e
  else stop ((d.readSlot n c).1.refuseRestore n c)

/-- RESTORE_DONE (R401): the restore ends, unless its die serves nothing now (R356). -/
def execRestoreDone (seat : Nat) (s : State) : Host.Outcome State Fault Refusal :=
  .next (match (s.dev.seat seat).moving with
    | some (c, true) =>
      if s.dev.shared seat && !(s.dev.seat seat).checking && (s.dev.ctx (16 * seat + c)).save != .saved then
        { s with dev := (s.dev.zeroClusters (s.dev.clustersOf seat)).beginSlice seat c }
      else if s.dev.slotBlocked seat c then s
      else { s with dev := s.dev.endRestore seat c }
    | _ => s)

end Sys2Proof.Machine
end

