-- ==== Sys2Proof/Machine/Board.lean ====
section
/-! DEFINITION. The scoreboard (03, 04): the order of a ring's operations, when one may start, and how one starts, waits and
finishes (R38, R104, R118, R124, R143, R163, R319 to R321, R391 to R393). -/

namespace Sys2Proof.Machine

/-! ## Kinds of operation -/

/-- A LAUNCH_GRAPH with MODE LAUNCH, or a RUN_CMDBUF: it runs a body. -/
def OpWord.launches (o : OpWord) : Bool := o.opcode == 0x7E || (o.opcode == 0x7F && o.fld 0 2 1 == 0)

/-- An operation that ends a batch step on a step ring (R387). -/
def OpWord.endsStep (o : OpWord) : Bool := o.opcode == 0x01 || (o.opcode == 0x7F && o.fld 0 2 1 == 0)

/-- An operation that holds later operations of its ring until it retires (R102, R104, R124). -/
def OpWord.holdsRing (o : OpWord) : Bool := o.opcode == 0x02 || o.opcode == 0x05 || o.opcode == 0x51

/-- An operation that starts only after every earlier operation of its ring has retired (R97, R104, R124). -/
def OpWord.waitsRing (o : OpWord) : Bool := o.ordered || o.opcode == 0x51

/-- The operation ends a batch step: the ring carries it directly and is a step ring (R387). -/
def Dev.stepEnd (d : Dev) (p : Place) : Bool := p.parent.isNone && (d.wcet p.ring).isSome && p.op.endsStep

/-! ## Order in a ring -/

/-- A ring's operations in their order: each one that the ring carries, followed by its body operations that have places
(R112, R118). -/
def Dev.ringOrder (d : Dev) (r : Nat) : List Place :=
  let ps := d.ringPlaces r
  (ps.filter (·.parent.isNone)).flatMap fun p => p :: ps.filter (·.parent == some p.id)

/-- The operations of its ring ahead of a place; the launch that it belongs to is not among them. -/
def Dev.ahead (d : Dev) (p : Place) : List Place :=
  ((d.ringOrder p.ring).takeWhile (·.id != p.id)).filter fun q => p.parent != some q.id

/-- An operation and, for a launch, its whole body has started: a launch that has not got its body yet has not (R112). -/
def Place.begun (q : Place) : Bool :=
  q.phase != .waiting && !(q.op.launches && q.phase == .running && (q.bodyNext == 0 || !q.body.isEmpty))

/-- The place has retired. -/
def Place.gone (q : Place) : Bool := q.phase == .retired

/-- Ring order allows the operation to start (R104, R118, R124). -/
def Dev.orderAllows (d : Dev) (p : Place) : Bool :=
  let qs := d.ahead p
  qs.all (·.begun) && qs.all (fun q => q.gone || !q.op.holdsRing) && (!p.op.waitsRing || qs.all (·.gone))

/-- The domains that a seat needs: those of its clusters, and of the ports if it exchanges (R26, R37, R72). -/
def Dev.seatDomains (d : Dev) (n : Nat) : List Nat :=
  (d.clustersOf n).map halfDomain ++ (if (d.layout.map (·.exchanges n)).getD false then [2, 3] else [])

/-- Clocks or domains of the seat are starting (R72, R529). -/
def Dev.clocksStarting (d : Dev) (n : Nat) : Bool :=
  (d.clustersOf n).any d.clkStarting.contains || (d.seatDomains n).any d.domainRising.contains

/-- The context of the place is loaded on its seat's cores (R391 to R393). -/
def Dev.sliceAllows (d : Dev) (n c : Nat) : Bool :=
  !d.shared n || ((d.seat n).loaded == some c && (d.seat n).expired.isNone)

/-- A place is the partner of a QUANTIZE that has started (R393). -/
def Dev.partnerStarted (d : Dev) (p : Place) : Bool :=
  match p.partner.bind d.place with
  | some q => q.op.opcode == 0x4A && q.phase != .waiting
  | none => false

/-- The records of its command buffer that the operation depends on have retired (R164, R165). -/
def Dev.needsMet (d : Dev) (p : Place) : Bool :=
  p.needs.isEmpty || d.board.all fun q => !(q.parent == p.parent && p.needs.contains q.shownIx && !q.gone)

/-- A unit that the operation would run on holds a retirement that its collector has not accepted: it starts nothing new (R160, log 141). -/
def Dev.unitHeld (d : Dev) (p : Place) : Bool :=
  d.board.any fun q => q.seat == p.seat && q.phase == .finished && q.stall == .collector
    && (stationsOf q.op.opcode).any (stationsOf p.op.opcode).contains

/-- The operation may start. -/
def Dev.canStart (d : Dev) (p : Place) : Bool :=
  let k := d.seat p.seat
  d.orderAllows p && d.needsMet p && !d.unitHeld p && k.serves && k.moving.isNone && !d.clocksStarting p.seat
    && (d.sliceAllows p.seat p.ctx || d.partnerStarted p)

/-! ## Stalls (R163, R169) -/

/-- The oldest operation of a slot that has not retired. -/
def Dev.oldestOf (d : Dev) (slot : Nat) : Option Place := d.board.find? fun p => p.slot == slot && !p.gone

/-- Why a slot's fetcher is not fetching, with the ring concerned (R163). -/
def Dev.showStall (d : Dev) (slot : Nat) (r : Stall) (ring : Nat) : Dev := d.updSlot slot fun k => { k with stall := r, stallRing := ring }

/-- Why an operation that has not started does not start (R163). -/
def Dev.startStall (d : Dev) (p : Place) : Stall :=
  if d.clocksStarting p.seat then .clockStart
  else if !(d.sliceAllows p.seat p.ctx || d.partnerStarted p) || (d.seat p.seat).moving.isSome then .slice
  else .none

/-- Why an operation has not retired (R163): requests of it wait on the regulator, it has not started, or what its work waits for. -/
def Dev.placeStall (d : Dev) (p : Place) : Stall :=
  if d.reg.queue.any fun c => c.who.place? == some p.id then .bandwidth
  else if p.phase == .waiting then d.startStall p
  else p.stall

/-- SLT_STALL: the reason and the ring (R163). A slot that waits for a place of the scoreboard says so even while it has operations in
flight (R38); otherwise its oldest operation speaks, or with none in flight its fetcher, which may wait on the regulator too. `full`
tells that the slot can get no place. -/
def Dev.stallOf (d : Dev) (slot : Nat) (full : Bool) : Stall × Nat :=
  let k := d.slot slot
  if k.stall == .scoreboardFull && full then (.scoreboardFull, k.stallRing)
  else match d.oldestOf slot with
    | some p => (d.placeStall p, p.ring)
    | none => if d.reg.waits (.fetch slot) then (.bandwidth, k.stallRing) else (k.stall, k.stallRing)

/-- The excursion that a stall reason means (R240, R389). -/
def Stall.excursion (r : Stall) : Excursions :=
  { peerLate := r == .peer, trickStall := r == .trickBackpressure, thermal := r == .thermal }

/-- An operation waits for a reason (R163). A module that waits for a peer notes it for its RESPONSE (R471). -/
def Dev.stallPlace (d : Dev) (p : Place) (r : Stall) : Dev :=
  let d := d.updPlace p.id fun q => { q with stall := r, excursions := q.excursions.or r.excursion }
  if r = .peer then { d with qlk := { d.qlk with stepPeerWait := true } } else d

/-! ## Starting and finishing -/

/-- A step ring notes the start of its step's first operation (R387, R388): no step-ending operation stands ahead. -/
def Dev.noteStep (d : Dev) (p : Place) (t : Nat) : Dev :=
  if (d.wcet p.ring).isSome && (d.ring p.ring).stepStart.isNone && !((d.ahead p).any d.stepEnd) then
    d.updRing p.ring fun r => { r with stepStart := some t }
  else d

/-- An operation starts: START counts slow cycles; the ring's pin is that of its entry (R152, R156). -/
def Dev.startPlace (d : Dev) (p : Place) : Dev :=
  let t := d.now 0
  (d.noteStep p t).updPlace p.id fun q => { q with phase := .running, start := t, epoch := (d.ring p.ring).pin, stall := .none }

/-- Where an operation command works: on the running place that it names, or on the place that waits there and may start, which
it starts. A place that is bad or skipped never runs (R101, R106). -/
def Dev.enters (d : Dev) (place : Nat) (sel : OpWord → Bool) : Option (Dev × Place) :=
  match d.place place with
  | none => none
  | some p =>
    if !sel p.op || p.bad || p.skipped then none
    else match p.phase with
      | .waiting => if d.canStart p then ((d.startPlace p).place place).map fun q => (d.startPlace p, q) else none
      | .running => some (d, p)
      | _ => none

/-- An operation command does `work` where it enters. -/
def Dev.runOp (d : Dev) (place : Nat) (sel : OpWord → Bool) (work : Dev → Place → Dev) : Dev :=
  match d.enters place sel with
  | some e => work e.1 e.2
  | none => d

/-- The operation's own work is done; it still has to retire (R160). -/
def Place.finish (q : Place) : Place := { q with phase := .finished, stall := .none }

/-- It finishes with a status. -/
def Place.fail (q : Place) (st : Status) : Place := { q with phase := .finished, stall := .none, status := st }

/-- What memory work leaves with its place: the stacks it read or wrote (R357) and the excursions it met (R389). -/
def Place.noted (q : Place) (m : Mio) : Place :=
  { q with touched := m.touched.foldl (fun l x => insertAsc x l) q.touched, excursions := q.excursions.or { rerun := m.rerun } }

/-- Memory work ends (log 3): one that waits is left for later with its stall and excursions; one that faulted ends with
SEGMENT_FAULT, one that read past its payload with BAD_DESCRIPTOR; otherwise `f` finishes the place. -/
def Dev.conclude (d : Dev) (p : Place) (m : Mio) (f : Dev → Dev) : Dev :=
  if m.waits then (d.updPlace p.id (·.noted m)).stallPlace p m.wait
  else
    let d := m.dev.updPlace p.id (·.noted m)
    if m.fault then d.updPlace p.id (·.fail .segmentFault)
    else if m.short then d.updPlace p.id (·.fail .badDescriptor)
    else f d

/-! ## The cores of an operation (R280, R281) -/

/-- The cores of an operation: those of its clusters, ascending (R280, R281). -/
def Dev.opCores (d : Dev) (p : Place) : List Nat :=
  coresOf ((d.layout.map fun l => if isCoreOp p.op.opcode then p.op.clusters p.payload l p.seat else l.clustersOf p.seat).getD [])

/-- The lowest core of an operation (R100, R281). -/
def Dev.opLead (d : Dev) (p : Place) : Nat := (d.opCores p).headD 0

/-- The core that does item `u` of the `n` items of an operation: core i does the items from i × n / P on (R281). -/
def Dev.coreFor (d : Dev) (p : Place) (n u : Nat) : Nat :=
  let cs := d.opCores p
  cs.getD (((u + 1) * cs.length - 1) / n) 0

/-- Who an operation's memory accesses are made by: its context, the compute stack of its lowest core (R28, log 14), itself. -/
def Dev.agent (d : Dev) (p : Place) : Agent := ⟨p.ctxIx, clusterStack (d.opLead p / 64), .work p.id⟩

/-! ## The acquire flag (R97, R479) -/

/-- Where the shift array of a quantised matrix lies (R327). -/
def shiftBase (a fmt rows cols : Nat) : Nat := a + ceilDiv (rows * rowBytes fmt cols) 64 * 64

/-- Bytes of an update row of a TRICK_PUT (R217). -/
def Dev.putRowBytes (d : Dev) (p : Place) : Nat :=
  rowBytes (p.op.fld 2 7 1) ((d.table (p.op.fld 2 4 2)).getD {}).dimension

/-- The ranges that an operation reads through a memory operand, as offset and length. INDEX and WEIGHT of a GATHER_POOL are as long as
BAGS says, so they are acquired when BAGS has been read (log 135). -/
def Dev.readRanges (d : Dev) (p : Place) (w : Nat) : List (Nat × Nat) :=
  let o := p.op
  let n := o.fld 2 0 4
  match o.opcode with
  | 0x10 => (List.range n).map fun i => (i * o.word 3, rowBytes (o.fld 4 4 1) (o.fld 2 4 4))
  | 0x12 | 0x60 | 0x80 => [(0, o.word 2)]
  | 0x61 => [(0, o.word 2 * o.fld 3 2 2)]
  | 0x20 | 0x22 => [(0, n * o.fld 2 6 1)]
  | 0x21 => if w = 4 then [(0, 4 * n)] else []
  | 0x31 => [(0, n * if w = 0 then o.fld 2 6 1 else d.putRowBytes p)]
  | 0x70 | 0x7E => [(0, o.word 1)]
  | 0x7F => [(0, n * if o.fld 0 2 1 = 1 then 64 else 8)]
  | 0x4B => let s := o.shape 0; [(0, packedBytes s), (shiftBase 0 s.2.2 s.1 s.2.1, s.1 * ceilDiv s.2.1 64)]
  | _ => [(0, packedBytes (o.shape w))]

/-- The operation acquires a memory operand: its own flag (R97), or the launch's, which leaves out STREAM, KEEP and a segment default of
KEEP (R479). The payload is never acquired. -/
def Dev.acquiresRef (d : Dev) (p : Place) (w : Nat) : Bool :=
  let o := p.op.ref w
  let keeps := ((d.ctx p.ctxIx).covering o.addr).any fun g => g.2.hint == 2
  p.op.has p.payload w && !paysFor p.payload w && o.kind == 0
    && (p.op.acquires || (p.acquire && (o.hint == 3 || (o.hint == 0 && !keeps))))

/-- Acquires `n` bytes at offset `off` of an operand, if the operation acquires it. -/
def Mio.acquireRef (m : Mio) (p : Place) (w off n : Nat) : Mio :=
  if m.dev.acquiresRef p w then m.acquire p.ctxIx ((p.op.ref w).addr + off) n else m

/-- The memory work of an operation begins: everything that it reads through memory operands is acquired before its first read (R97,
R479). -/
def Dev.io (d : Dev) (p : Place) : Mio :=
  ((refFields p.op.opcode).filter (·.reads)).foldl (fun m f =>
    if m.dev.acquiresRef p f.word then (m.dev.readRanges p f.word).foldl (fun m r => m.acquireRef p f.word r.1 r.2) m else m) { dev := d }

/-! ## Operand reads and writes -/

/-- Reads `n` bytes at offset `off` of a memory operand, or of the payload in its place (R149). -/
def Mio.readOperand (m : Mio) (g : Agent) (p : Place) (w off n : Nat) : Mio × List Byte × List Bool :=
  let o := p.op.ref w
  match p.payload.filter (·.word == w) with
  | some q => ({ m with short := m.short || decide (q.bytes.length < off + n) }, slice q.bytes off n, List.replicate n false)
  | none => m.read g o (o.addr + off) n

/-- Writes bytes to a scratchpad operand of an operation: of each of its cores for core operations and TILE_LOAD, of the seat's
lowest core for COPY (R98, R100, log 15). -/
def Dev.padWriteOp (d : Dev) (p : Place) (a : Nat) (bs : List Byte) (po : List Bool) : Dev :=
  if p.op.opcode = 0x12 then d.padWrite (d.leadCore p.seat) a bs po
  else (d.opCores p).foldl (fun d c => d.padWrite c a bs po) d

/-- The operand reference of a result that goes to the memory base die at once (R157). -/
def Opref.streamed (o : Opref) : Opref := { o with hint := 1 }

end Sys2Proof.Machine
end

