-- ==== Sys2Proof/Machine/Tiles.lean ====
section
/-! DEFINITION. Tiles, matrices and routes (03, 09): CHECK values, matrices cut into tiles, sending under credits, and the arrival
of a tile at its consumer (R83 to R95, R260, R324 to R326, R591). -/

namespace Sys2Proof.Machine

/-! ## Tiles -/

/-- Payload bytes of a tile (R85). -/
def payloadLen (fmt rows cols : Nat) : Nat := ceilDiv (rows * rowBytes fmt cols) 64 * 64

/-- Header bytes of a tile with POISON and CHECK as 0 (R83, R87). -/
def Tile.headerBytes (t : Tile) : List Byte :=
  leBytes 1 t.format ++ leBytes 1 t.rows ++ leBytes 1 t.cols ++ leBytes 1 t.shiftMode ++ leBytes 1 t.shift ++ leBytes 3 0
    ++ leBytes 4 t.stream ++ leBytes 4 t.sequence ++ List.replicate 16 0

/-- CHECK under a stream id and a sequence (R87). -/
def Tile.checkAs (t : Tile) (stream sequence : Nat) : Nat := crc32c (foldOf stream sequence) (t.headerBytes ++ t.payload)

/-- A tile with its CHECK. -/
def Tile.sealed (t : Tile) : Tile := { t with check := t.checkAs t.stream t.sequence }

/-- Every row poisoned. -/
def Tile.allPoison (t : Tile) : Tile := { t with poison := 2 ^ t.rows - 1 }

/-- Row `r` of a tile is poisoned. -/
def Tile.rowPoison (t : Tile) (r : Nat) : Bool := t.poison.testBit r

/-- The codes of row `r` (R85). -/
def Tile.rowAt (t : Tile) (r : Nat) : List Nat :=
  let n := rowBytes t.format t.cols
  rowCodes t.format t.cols (slice t.payload (r * n) n)

/-! ## Matrices -/

/-- A matrix operand or result: codes by row; the shift and the poison of each row by column block (R86, R88). -/
structure Mat where
  fmt : Nat
  rows : Nat
  cols : Nat
  codes : List (List Nat) := []
  shifts : List (List Int) := []
  poison : List (List Bool) := []
  deriving DecidableEq, Repr

/-- Column blocks of a matrix. -/
def Mat.blocks (m : Mat) : Nat := ceilDiv m.cols 64

def Mat.code (m : Mat) (r c : Nat) : Nat := (m.codes.getD r []).getD c 0
def Mat.shiftAt (m : Mat) (r c : Nat) : Int := (m.shifts.getD r []).getD (c / 64) 0
def Mat.poisonAt (m : Mat) (r j : Nat) : Bool := (m.poison.getD r []).getD j false
/-- Any block of row `r` is poisoned. -/
def Mat.rowPoison (m : Mat) (r : Nat) : Bool := (m.poison.getD r []).any id
def Mat.anyPoison (m : Mat) : Bool := m.poison.any fun r => r.any id
/-- The stored value with its shift (R86). -/
def Mat.elem (m : Mat) (r c : Nat) : Elem := ⟨elemValue m.fmt (m.code r c), m.shiftAt r c⟩
/-- The widened value with its shift (R259). -/
def Mat.wide (m : Mat) (r c : Nat) : Num := (widen m.fmt (m.code r c)).shift (m.shiftAt r c)

/-- A matrix of zeros in which everything is poisoned. -/
def Mat.lost (fmt rows cols : Nat) : Mat :=
  ⟨fmt, rows, cols, List.replicate rows (List.replicate cols 0), [], List.replicate rows (List.replicate (ceilDiv cols 64) true)⟩

/-- Poison by column block of a row whose bytes are marked. -/
def blockPoison (fmt cols : Nat) (po : List Bool) : List Bool :=
  (List.range (ceilDiv cols 64)).map fun j =>
    let first := j * 64 * formatBits fmt / 8
    let last := ceilDiv (min cols (64 * j + 64) * formatBits fmt) 8
    ((po.drop first).take (last - first)).any id

/-- Zeros in the poisoned blocks of a row (R294). -/
def zeroBlocks (cs : List Nat) (po : List Bool) : List Nat :=
  cs.zipIdx.map fun p => if po.getD (p.2 / 64) false then 0 else p.1

/-- A matrix from the bytes of its rows, with their poison. -/
def Mat.ofRows (fmt cols : Nat) (rows : List (List Byte × List Bool)) : Mat :=
  let ps := rows.map fun r => blockPoison fmt cols r.2
  ⟨fmt, rows.length, cols, rows.map fun r => rowCodes fmt cols r.1, [], ps⟩

/-- Reads a matrix operand row by row from memory, or from the payload: `stride` bytes between row starts. -/
def Mio.readMat (m : Mio) (g : Agent) (p : Place) (w stride rows cols fmt : Nat) : Mio × Mat :=
  let n := rowBytes fmt cols
  let r := (List.range rows).foldl (fun (a : Mio × List (List Byte × List Bool)) i =>
    let q := a.1.readOperand g p w (i * stride) n
    (q.1, a.2 ++ [q.2])) (m, [])
  (r.1, Mat.ofRows fmt cols r.2)

/-- A packed scratchpad matrix; `core` tells which core reads an element, from its own scratchpad (R25, R98, log 15). -/
def Dev.padMat (d : Dev) (core : Nat → Nat → Nat) (a rows cols fmt : Nat) : Mat :=
  let n := rowBytes fmt cols
  let bad := fun (r c : Nat) =>
    let first := c * formatBits fmt / 8
    (d.padBad (core r c) (a + r * n + first) (ceilDiv ((c + 1) * formatBits fmt) 8 - first)).any id
  ⟨fmt, rows, cols,
   (List.range rows).map fun r => (List.range cols).map fun c => (rowCodes fmt cols (d.padRead (core r c) (a + r * n) n)).getD c 0, [],
   (List.range rows).map fun r => (List.range (ceilDiv cols 64)).map fun j =>
     (List.range (min 64 (cols - 64 * j))).any fun c => bad r (64 * j + c)⟩

/-! ## Stream operands -/

/-- The stream operands that an operation consumes, with the tiles of each (R89). -/
def Place.inputs (p : Place) : List (Nat × Nat) :=
  ((p.op.streams p.payload).filter fun f => !f.dest).map fun f =>
    let s := p.op.shape f.word
    (f.word, if p.op.opcode = 0x60 then p.op.word 2 else tileCount s.1 s.2.1)

/-- What a place knows of a stream operand. -/
def Place.stream (p : Place) (w : Nat) : StreamSt := (p.streams.find? (·.operand == w)).getD { operand := w }

def Place.setStream (p : Place) (st : StreamSt) : Place :=
  { p with streams := (p.streams.filter (·.operand != st.operand)) ++ [st] }

/-- Every tile of every stream operand has been received (R89, R91, R591). -/
def Place.inputsReady (p : Place) : Bool := p.inputs.all fun i => decide (i.2 ≤ (p.stream i.1).received)

/-- The accepted tile at a position of a stream operand (R89). -/
def Place.tileAt (p : Place) (w seq : Nat) : Option Arrived := p.arrived.find? fun a => a.operand == w && a.seq == seq

/-- Row `r`'s shift in an accepted tile: a poisoned row of the scale stream reads 0 (R86, R328). -/
def Arrived.shiftOf (a : Arrived) (r : Nat) : Int :=
  match a.tile.shiftMode with
  | 1 => signed 8 (a.tile.shift % 256)
  | 2 => match a.scale with
    | some t => if t.rowPoison r then 0 else signed 8 ((t.rowAt r).headD 0)
    | none => 0
  | _ => 0

/-- A stream operand as a matrix; positions that no accepted tile fills are poisoned (R91, R591). A poisoned row of the scale
stream poisons its data row (R294). -/
def Place.streamMat (p : Place) (w rows cols fmt : Nat) : Mat :=
  let nb := ceilDiv cols 64
  let at_ := fun (r j : Nat) => p.tileAt w ((p.op.seqBase + (r / 64) * nb + j) % 2 ^ 32)
  let blocks := fun (r : Nat) => (List.range nb).map fun j =>
    let n := min 64 (cols - 64 * j)
    match at_ r j with
    | none => (List.replicate n 0, (0 : Int), true)
    | some a =>
      let bad := a.tile.rowPoison (r % 64) || (match a.scale with | some t => t.rowPoison (r % 64) | none => false)
      (((a.tile.rowAt (r % 64)) ++ List.replicate 64 0).take n, a.shiftOf (r % 64), bad)
  let all := (List.range rows).map blocks
  ⟨fmt, rows, cols, all.map fun b => b.flatMap (·.1), all.map fun b => b.map (·.2.1), all.map fun b => b.map (·.2.2)⟩

/-- The operand lies in the scratchpads of the operation's cores. -/
def Place.inPads (p : Place) (w : Nat) : Bool := !paysFor p.payload w && (p.op.ref w).kind == 2

/-- The matrix of a source operand, whatever its kind; `core` tells which core works with an element. -/
def Mio.source (m : Mio) (g : Agent) (p : Place) (w : Nat) (core : Nat → Nat → Nat) : Mio × Mat :=
  let s := p.op.shape w
  if p.inPads w then (m, m.dev.padMat core (p.op.ref w).addr s.1 s.2.1 s.2.2)
  else if !paysFor p.payload w && (p.op.ref w).kind == 1 then (m, p.streamMat w s.1 s.2.1 s.2.2)
  else m.readMat g p w (rowBytes s.2.2 s.2.1) s.1 s.2.1 s.2.2

/-- The matrix of a source operand as each core sees it. -/
def Mio.sourceBy (m : Mio) (g : Agent) (p : Place) (w : Nat) : Mio × (Nat → Mat) :=
  if p.inPads w then (m, fun k => (m.source g p w fun _ _ => k).2)
  else
    let r := m.source g p w fun _ _ => 0
    (r.1, fun _ => r.2)

/-! ## Which core works with an element (R281, R288, R303, log 15) -/

/-- Rows and columns of the output of one unit of a MATMUL or GEMV (R285, R295). -/
def OpWord.unitShape (o : OpWord) : Nat × Nat :=
  let n := o.fld 4 0 4
  if o.opcode = 0x41 then (1, if n ≤ 1 then 1 else if n ≤ 2 then 2 else if n ≤ 4 then 4 else 8)
  else if o.fld 4 7 1 = 1 then (1, 8) else (8, 16)

/-- The K-blocks of a MATMUL or GEMV. -/
def OpWord.kBlocks (o : OpWord) : Nat := ceilDiv (o.fld 3 4 4) 64

/-- Output blocks in a row of them (R288). -/
def OpWord.blockCols (o : OpWord) : Nat := ceilDiv (o.fld 4 0 4) o.unitShape.2

/-- The units of a MATMUL or GEMV (R288). -/
def OpWord.units (o : OpWord) : Nat := ceilDiv (o.fld 3 0 4) o.unitShape.1 * o.blockCols * o.kBlocks

/-- The output block of an output element (R288). -/
def OpWord.blockOf (o : OpWord) (r c : Nat) : Nat := r / o.unitShape.1 * o.blockCols + c / o.unitShape.2

/-- The core that runs the unit of an output block and a K-block; that of K-block 0 is the block's home core (R288, R290). -/
def Dev.unitCore (d : Dev) (p : Place) (block kb : Nat) : Nat := d.coreFor p p.op.units (block * p.op.kBlocks + kb)

/-- The core that works with element (r, c) of source word 0, other than of a MATMUL or GEMV: cores share the elements of a VECTOR or
SUMMARY, the segments of 64 columns of a QUANTIZE, a DEQUANTIZE or a REDUCE with AXIS 0, those of 64 rows with AXIS 1, and otherwise
the rows. -/
def Dev.elementCore (d : Dev) (p : Place) (r c : Nat) : Nat :=
  let s := p.op.shape 0
  let nb := ceilDiv s.2.1 64
  match p.op.opcode with
  | 0x48 | 0x50 => d.coreFor p (s.1 * s.2.1) (r * s.2.1 + c)
  | 0x4A | 0x4B => d.coreFor p (s.1 * nb) (r * nb + c / 64)
  | 0x49 => if p.op.fld 4 1 1 = 0 then d.coreFor p (s.1 * nb) (r * nb + c / 64)
            else d.coreFor p (ceilDiv s.1 64 * s.2.1) (c * ceilDiv s.1 64 + r / 64)
  | _ => d.coreFor p s.1 r

/-- The cores that read an operand: those named where it lies in scratchpads, otherwise any stands for all. -/
def Place.readers (p : Place) (w : Nat) (cs : List Nat) : List Nat := if p.inPads w then cs.eraseDups else [0]

/-- The cluster of the core that sends the result tile of row block i and column block j: of a MATMUL or GEMV its assembler, the home
core of the block of its first element (R293), otherwise the core that works with its first element (log 22). -/
def Dev.tileCluster (d : Dev) (p : Place) (i j : Nat) : Nat :=
  (if p.op.opcode = 0x40 ∨ p.op.opcode = 0x41 then d.unitCore p (p.op.blockOf (64 * i) (64 * j)) 0
   else d.elementCore p (64 * i) (64 * j)) / 64

/-! ## Results -/

/-- The tiles of a matrix on a stream, numbered from SEQ_BASE (R88). -/
def Mat.tiles (m : Mat) (stream base shiftMode : Nat) : List Tile :=
  (List.range (ceilDiv m.rows 64)).flatMap fun i => (List.range m.blocks).map fun j =>
    let rows := min 64 (m.rows - 64 * i)
    let cols := min 64 (m.cols - 64 * j)
    let rs := List.range rows
    let bytes := rs.flatMap fun r =>
      codesRow m.fmt (if m.poisonAt (64 * i + r) j then List.replicate cols 0 else ((m.codes.getD (64 * i + r) []).drop (64 * j)).take cols)
    Tile.sealed { format := m.fmt, rows := rows, cols := cols, shiftMode := shiftMode, stream := stream,
                  sequence := (base + i * m.blocks + j) % 2 ^ 32,
                  poison := (rs.map fun r => if m.poisonAt (64 * i + r) j then 2 ^ r else 0).foldl (· + ·) 0,
                  payload := padTo bytes 64 }

/-- The bytes of a row as memory receives them, with poison: poisoned blocks are zeros, stored as poison (R5, R352). -/
def Mat.rowOut (m : Mat) (r : Nat) : List Byte × List Bool :=
  let ps := m.poison.getD r []
  let bs := codesRow m.fmt (zeroBlocks (m.codes.getD r []) ps)
  (bs, (List.range bs.length).map fun i => ps.getD (i * 8 / formatBits m.fmt / 64) false)

/-- Writes a matrix row by row to memory. -/
def Mio.writeMat (m : Mio) (g : Agent) (o : Opref) (stride : Nat) (x : Mat) : Mio :=
  (List.range x.rows).foldl (fun m r => let b := x.rowOut r; m.write g o (o.addr + r * stride) b.1 b.2) m

/-! ## Sending under credits (R92, R93) -/

/-- The row and column block that a result tile holds (R88). -/
def Place.blockOfTile (p : Place) (t : Tile) : Nat × Nat :=
  let k := (t.sequence + 2 ^ 32 - p.op.seqBase) % 2 ^ 32
  let nb := max 1 (ceilDiv (p.op.shape 2).2.1 64)
  (k / nb, k % nb)

/-- The place that a tile of an operation leaves from: the lowest stack of its table for a gather (R188), otherwise a cluster. -/
def Dev.tilePlace (d : Dev) (p : Place) (t : Tile) : Nat :=
  if p.op.opcode = 0x20 ∨ p.op.opcode = 0x21 then ((d.table (p.op.fld 2 4 2)).map (·.lowestStack)).getD 0
  else
    let b := p.blockOfTile t
    d.tileCluster p b.1 b.2

/-- A route carries a stream of an operation of a seat. -/
def Route.carries (r : Route) (p : Place) (t : Tile) : Bool :=
  r.spec.seat == p.seat && r.spec.stream == t.stream && (stationsOf p.op.opcode).contains r.spec.src

/-- The route that a tile takes, whatever its credits: the first of the image from the tile's place; for the stream of an operation that
no route's place fits, as TILE_LOAD's may be, the first at all (log 22). -/
def Dev.routeOf (d : Dev) (p : Place) (t : Tile) : Option Nat :=
  let k := d.tilePlace p t
  (d.routes.findIdx? fun r => r.carries p t && (r.spec.srcPlace == k || r.spec.srcPlace == 0xFFFF)).orElse fun _ =>
    d.routes.findIdx? fun r => r.carries p t

/-- Sends a tile on route `i`; a widening QUANTIZE's goes to its partner alone (R321). -/
def Dev.sendOn (d : Dev) (i : Nat) (p : Place) (t : Tile) : Dev :=
  { d with routes := d.routes.modify i fun r =>
      { r with credits := r.credits - 1, queue := r.queue ++ [⟨t, if p.op.widens then p.partner else none⟩] } }

/-- Sends the tiles of an operation in order. What finds its route without a credit stays with the place, and so does what follows it
on that route; tiles of other routes are not held back (R92, R325). The device, the tiles that stay, and the routes that they wait for. -/
def Dev.sendAll (d : Dev) (p : Place) (ts : List Tile) : Dev × List Tile × List Nat :=
  ts.foldl (fun a t => match a.1.routeOf p t with
    | none => (a.1, a.2.1 ++ [t], a.2.2)
    | some i =>
      if a.2.2.contains i || ((a.1.routes[i]?).map (·.credits)).getD 0 == 0 then (a.1, a.2.1 ++ [t], i :: a.2.2)
      else (a.1.sendOn i p t, a.2)) (d, [], [])

/-- Sends tiles; a place with tiles that stay shows ROUTE_CREDIT (R92, R293). -/
def Dev.sendTiles (d : Dev) (p : Place) (ts : List Tile) : Dev :=
  let r := d.sendAll p ts
  let d := r.1.updPlace p.id fun q => { q with unsent := r.2.1 }
  if r.2.1.isEmpty then d.updPlace p.id fun q => { q with stall := .none } else d.stallPlace p .routeCredit

/-- TILES_MOVED counts tiles that a slot's operations produce (R162). -/
def Dev.countTiles (d : Dev) (p : Place) (n : Nat) : Dev := d.updSlot p.slot fun k => { k with tiles := add64 k.tiles n }

/-- Result tiles leave an operation. -/
def Dev.produce (d : Dev) (p : Place) (ts : List Tile) : Dev := (d.countTiles p ts.length).sendTiles p ts

/-- Delivers a result matrix to a destination operand, and finishes the place with `f`. Poisoned rows set POISONED (R294). -/
def Dev.deliver (d : Dev) (p : Place) (m : Mio) (w : Nat) (x : Mat) (f : Place → Place) : Dev :=
  let o := p.op.ref w
  let fin := fun (q : Place) => f { q.finish with flags := { q.flags with poisoned := q.flags.poisoned || x.anyPoison } }
  match o.kind with
  | 1 => d.conclude p m fun d => (d.updPlace p.id fin).produce p (x.tiles o.addr p.op.seqBase 0)
  | 2 => d.conclude p m fun d =>
      let rows := (List.range x.rows).map x.rowOut
      (d.padWriteOp p o.addr (rows.flatMap (·.1)) (rows.flatMap (·.2))).updPlace p.id fin
  | _ => d.conclude p (m.writeMat (d.agent p) o (rowBytes x.fmt x.cols) x) fun d => d.updPlace p.id fin

/-! ## Arrival (R90, R91, R260, R326, R591) -/

/-- A tile as it reaches its consumer: what happened on its way (R90, R480). -/
def Tile.fault (t : Tile) (f : TileFault) : Tile :=
  match f with
  | .none => t
  | .headerParity => t.allPoison
  | .rowParity r => { t with poison := t.poison ||| (if r < t.rows then 2 ^ r else 0) }
  | .damaged => t

/-- An INTEGRITY leaf event with its unit or stack and its seat (R515). -/
def Dev.integrity (d : Dev) (leaf unit : Nat) (seat : Option Nat) : Dev :=
  ({ d with chk := { d.chk with infoUnit := unit, infoSeat := seat } }).setLeaf .chk leaf

/-- A parity mismatch on the way is counted (R481, log 57). -/
def Dev.noteParity (d : Dev) (unit : Nat) (seat : Option Nat) : Dev :=
  ({ d with chk := { d.chk with parity := satInc32 d.chk.parity 1 } }).integrity 0 unit seat

/-- What the check of an arriving tile finds (R90). -/
inductive Arrival where
  | accepted
  | skew
  | broken
  deriving DecidableEq, Repr

/-- The check of a tile under the stream that the consumer expects; `damaged` is a tile whose CHECK fails under everything. -/
def Tile.arrival (t : Tile) (stream : Nat) (damaged : Bool) (inWindow : Bool) : Arrival :=
  if damaged then .broken
  else if t.check = t.checkAs stream t.sequence then (if inWindow then .accepted else .skew)
  else if t.check = t.checkAs t.stream t.sequence then .skew
  else .broken

/-- The check of a paired scale tile (R90, R326): none where all is well. -/
def Tile.scaleArrival (s : Tile) (data : Tile) (stream : Nat) (damaged : Bool) : Option Arrival :=
  if damaged then some .broken
  else if s.check = s.checkAs (stream + 2 ^ 31) data.sequence then
    if s.sequence = data.sequence ∧ s.format = 10 ∧ s.cols = 1 ∧ s.rows = data.rows then none else some .skew
  else if s.check = s.checkAs (stream + 2 ^ 31) s.sequence ∨ s.check = s.checkAs s.stream s.sequence then some .skew
  else some .broken

/-- The sequence lies in the window of R89 and has not arrived. -/
def Place.window (p : Place) (w n seq : Nat) : Bool :=
  decide ((seq + 2 ^ 32 - p.op.seqBase) % 2 ^ 32 < n) && (p.tileAt w seq).isNone

/-- A SEQ_SKEW outcome: DATA_ERROR and a drained stream (R90, R91). R91 gives no count of the tiles to drain: the tile that met SEQ_SKEW
counts toward the T of its operand, so T less those received remain (DEDUCED, log 138). -/
def Place.skewed (p : Place) (w : Nat) : Place :=
  let st := p.stream w
  { p.setStream { st with received := st.received + 1, draining := true } with
    status := if p.status = .ok then .dataError else p.status,
    flags := { p.flags with seqSkew := true, poisoned := true } }

/-- A tile takes no position (R591), or is drained (R91). -/
def Place.uncounted (p : Place) (w : Nat) (poisoned : Bool) : Place :=
  let st := p.stream w
  { p.setStream { st with received := st.received + 1 } with flags := { p.flags with poisoned := p.flags.poisoned || poisoned } }

/-- A tile takes its position. One of another FORMAT, or of another size than R88 gives the position, is used there with all 64 rows
poisoned, and the rest of its stream is drained (R260, log 23). -/
def Place.accept (p : Place) (w : Nat) (t : Tile) (scale : Option Tile) : Place :=
  let s := p.op.shape w
  let nb := ceilDiv s.2.1 64
  let k := (t.sequence + 2 ^ 32 - p.op.seqBase) % 2 ^ 32
  let fits := p.op.opcode == 0x60 || (t.format == s.2.2 && t.rows == min 64 (s.1 - 64 * (k / nb)) && t.cols == min 64 (s.2.1 - 64 * (k % nb)))
  let st := p.stream w
  let t := if fits then t else { t with poison := 2 ^ 64 - 1 }
  let p := { p with arrived := p.arrived ++ [(⟨w, t.sequence, t, scale⟩ : Arrived)] }
  let p := p.setStream { st with received := st.received + 1, draining := st.draining || !fits }
  if fits then p
  else { p with status := if p.status = .ok then .dataError else p.status, flags := { p.flags with poisoned := true } }

/-- A place takes a tile of stream operand `i` (word, number of tiles): it still expects tiles, or the tile is a good one for a position
that it has given up, whose SEQUENCE counts as arrived (R591). -/
def Place.wants (p : Place) (i : Nat × Nat) (t : Tile) (damaged : Bool) : Bool :=
  let st := p.stream i.1
  decide (st.received < i.2)
    || (!damaged && !st.draining && p.window i.1 i.2 t.sequence && t.check == t.checkAs (p.op.ref i.1).addr t.sequence)

/-- The operation that consumes the head of a route: the first started one of its seat at the route's station that takes it; the tile of
a widening QUANTIZE waits for its partner (R321). -/
def Dev.consumer (d : Dev) (r : Route) (x : Sent) (damaged : Bool) : Option (Place × Nat × Nat) :=
  d.board.findSome? fun p =>
    if p.seat = r.spec.seat ∧ p.phase = .running ∧ (stationsOf p.op.opcode).contains r.spec.dst ∧ x.only.all (· == p.id) then
      (p.inputs.find? fun i => (p.op.ref i.1).addr == r.spec.stream && p.wants i x.tile damaged).map fun i => (p, i)
    else none

/-- A consumer has read the head tile of a route; its credit is to be returned (R92). -/
def Route.read (r : Route) : Route := { r with queue := r.queue.tail, unread := r.unread + 1 }

/-- The index of the scale route beside a data route (R324, R325). -/
def Dev.scaleRoute (d : Dev) (r : Route) : Option Nat :=
  d.routes.findIdx? fun q => q.spec.seat == r.spec.seat && q.spec.stream == r.spec.stream + 2 ^ 31 && q.spec.dst == r.spec.dst
    && q.spec.dstPlace == r.spec.dstPlace && q.spec.srcPlace == r.spec.srcPlace

/-- Takes a tile, with its scale tile, into a place (R90). -/
def Place.receive (p : Place) (w n : Nat) (t : Tile) (damaged : Bool) (scale : Option (Tile × Bool)) : Place × Bool :=
  let stream := (p.op.ref w).addr
  if (p.stream w).draining then (p.uncounted w false, false)
  else match t.arrival stream damaged (decide ((p.stream w).received < n) && p.window w n t.sequence) with
    | .skew => (p.skewed w, false)
    | .broken => (p.uncounted w true, true)
    | .accepted => match scale with
      | none => (p.accept w t none, false)
      | some (s, bad) => match s.scaleArrival t stream bad with
        | none => (p.accept w t (some s), false)
        | some .skew => (p.skewed w, false)
        | some _ =>
          let q := p.accept w t.allPoison none
          ({ q with flags := { q.flags with poisoned := true } }, true)

/-- Reads the heads of the routes of a data tile and its scale tile. -/
def Dev.readRoutes (d : Dev) (i : Nat) (k : Option Nat) : Dev :=
  let rs := d.routes.modify i Route.read
  { d with routes := match k with
      | some j => rs.modify j Route.read
      | none => rs }

/-- A parity mismatch of a tile on its way. -/
def TileFault.mismatch (f : TileFault) : Bool := f != .none && f != .damaged

/-- The GATHER or GATHER_POOL that waits for a tile's acceptance carries POISONED for a mismatch on the way (R189, R198). -/
def Dev.poisonGather (d : Dev) (r : Route) (seq : Nat) : Dev :=
  if r.spec.src ≠ 0 then d
  else { d with board := d.board.map fun p =>
    if (p.op.opcode = 0x20 ∨ p.op.opcode = 0x21) ∧ p.seat = r.spec.seat ∧ (p.op.ref 1).kind = 1 ∧ (p.op.ref 1).addr = r.spec.stream
        ∧ p.gone = false ∧ p.phase ≠ .waiting
        ∧ (seq + 2 ^ 32 - p.op.seqBase) % 2 ^ 32 < tileCount (p.op.fld 2 0 4) (((d.table (p.op.fld 2 4 2)).map (·.dimension)).getD 1) then
      { p with flags := { p.flags with poisoned := true } }
    else p }

/-- A tile arrives at the consumer of route `i` (R90 to R94). A tile with SHIFT_MODE 2 waits for its scale tile (R325); a scale
route's head waits for its data tile. -/
def Dev.arrive (d : Dev) (i : Nat) (fault scaleFault : TileFault) : Dev :=
  match d.routes[i]? with
  | none => d
  | some r => match r.queue.head? with
    | none => d
    | some x => match d.consumer r x (decide (fault = .damaged)) with
      | none => d
      | some (p, w, n) =>
        let t := x.tile.fault fault
        let pair := if t.shiftMode = 2 then d.scaleRoute r else none
        let stile := (pair.bind fun j => d.routes[j]?).bind fun q => q.queue.head?
        if t.shiftMode = 2 ∧ stile.isNone then d
        else
          let scale := stile.map fun s => (s.tile.fault scaleFault, decide (scaleFault = .damaged))
          let q := p.receive w n t (decide (fault = .damaged)) scale
          let d := (d.readRoutes i pair).updPlace p.id fun _ => q.1
          let d := if fault.mismatch then d.poisonGather r x.tile.sequence else d
          let d := if fault.mismatch || (scaleFault.mismatch && stile.isSome) then d.noteParity (slotStack p.slot) (some p.seat) else d
          if q.2 then d.integrity 3 (slotStack p.slot) (some p.seat) else d

/-- TILE_ARRIVAL (R90). -/
def execTileArrival (route : Nat) (fault scaleFault : TileFault) (s : State) : Host.Outcome State Fault Refusal :=
  .next { s with dev := s.dev.arrive route fault scaleFault }

/-- A credit returns, and the first operation with a tile for this route sends (R92). -/
def Dev.returnCredit (d : Dev) (i : Nat) : Dev :=
  match d.routes[i]? with
  | none => d
  | some r =>
    if r.unread = 0 then d
    else
      let d := { d with routes := d.routes.modify i fun r => { r with credits := r.credits + 1, unread := r.unread - 1 } }
      match d.board.find? fun p => p.unsent.any fun t => d.routeOf p t == some i with
      | some p => d.sendTiles p p.unsent
      | none => d

/-- ROUTE_CREDIT_RETURN (R92). -/
def execRouteCreditReturn (route : Nat) (s : State) : Host.Outcome State Fault Refusal :=
  .next { s with dev := s.dev.returnCredit route }

end Sys2Proof.Machine
end

