-- ==== Sys2Proof/Machine/Fetch.lean ====
section
/-! DEFINITION. Rings and fetch slots (04): ring commands, doorbells, the mailbox, and how a slot reads and takes entries
(R125 to R151, R162 to R170). -/

namespace Sys2Proof.Machine

/-! ## Leaves and commands of rings -/

/-- An event of ring `r`: bit `b` of RNG_ATN, bit b + 1 of its seat's SEAT_RING_ATN, and RNG_ATN_RING (R168, R170). -/
def Dev.ringLeaf (d : Dev) (r b : Nat) : Dev :=
  let d := ({ d with ringInfo := r }).setLeaf .rng b
  if (d.ringRec r).assigned then d.setLeaf (.vfRing (d.ringRec r).seat) (b + 1) else d

/-- A ring command or mode write that is ignored (R129, R131). -/
def Dev.badRing (d : Dev) (r : Nat) : Dev := d.ringLeaf r 2

/-- RING_STOP (R129). -/
def execRingStop (ring : Nat) (s : State) : Host.Outcome State Fault Refusal :=
  .next (if !s.ready then s
    else { s with dev := if (s.dev.ring ring).state = .running then s.dev.updRing ring fun r => { r with state := .stopped }
                         else s.dev.badRing ring })

/-- RING_START (R129, R437). -/
def execRingStart (ring : Nat) (s : State) : Host.Outcome State Fault Refusal :=
  .next (if !s.ready then s
    else { s with dev := if (s.dev.ring ring).state = .stopped ∨ (s.dev.ring ring).state = .hostLost then
                           s.dev.updRing ring fun r => { r with state := .running }
                         else s.dev.badRing ring })

/-- RING_RESET (R129, R130). -/
def execRingReset (ring : Nat) (s : State) : Host.Outcome State Fault Refusal :=
  .next (if !s.ready then s
    else { s with dev := if (s.dev.ring ring).state = .stopped ∧ s.dev.ringBusy ring = false then
                           s.dev.updRing ring fun r => r.startEmpty .stopped
                         else s.dev.badRing ring })

/-- Bytes of the completion ring of a ring record. -/
def RingRec.completeBytes (r : RingRec) : Nat := 2 ^ r.log2Size * 32

/-- A completion ring is written with zeros (R130); lines that hold its old entries under the tag of its context are dropped, so that none
is written back over them (log 139). -/
def Dev.zeroRing (d : Dev) (r : RingRec) : Dev :=
  if r.assigned then
    (d.dropLines fun l => l.tag == tagOf r.ctxIx && decide (r.completeBase ≤ 64 * l.atom) && decide (64 * l.atom < r.completeBase + r.completeBytes)).writeInternal
      r.completeBase (List.replicate r.completeBytes 0)
  else d

/-- RING_ZEROING_DONE (R130): the completion ring holds zeros. It goes on while a die holds the writes (R356). -/
def execRingZeroingDone (ring : Nat) (s : State) : Host.Outcome State Fault Refusal :=
  let r := s.dev.ringRec ring
  .next (if !(s.dev.ring ring).zeroing || (r.assigned && s.dev.rangeBlocked r.completeBase r.completeBytes) then s
    else { s with dev := (s.dev.updRing ring fun r => { r with zeroing := false }).zeroRing r })

/-- RING_MODE_WRITE (R131, R170). -/
def execRingModeWrite (ring v : Nat) (s : State) : Host.Outcome State Fault Refusal :=
  .next (if !s.ready || !s.dev.vfOpen (s.dev.ringRec ring).seat || !(s.dev.ringRec ring).assigned then s
    else { s with dev := if (s.dev.ring ring).state = .stopped ∧ s.dev.ringBusy ring = false then
                           s.dev.updRing ring fun r => { r with smallPath := v.testBit 0, notify := v / 2 % 4, append := v.testBit 3 }
                         else s.dev.badRing ring })

/-- SLT_RECHECK_WRITE (R169). -/
def execSltRecheckWrite (slot v : Nat) (s : State) : Host.Outcome State Fault Refusal :=
  .next (if s.ready ∧ 256 ≤ v % 2 ^ 17 ∧ v % 2 ^ 17 ≤ 65536 then
      { s with dev := s.dev.updSlot slot fun k => { k with recheck := v % 2 ^ 17 } }
    else s)

/-- EXC_RECORD_CLEAR (R275). -/
def execExcRecordClear (ring : Nat) (s : State) : Host.Outcome State Fault Refusal :=
  .next (if s.ready && (s.dev.ringRec ring).assigned && s.dev.vfOpen (s.dev.ringRec ring).seat then
      { s with dev := s.dev.updRing ring fun r => { r with exc := {} } }
    else s)

/-- MAILBOX_WRITE (R151): an aligned write of 4 or 8 bytes (log 122). -/
def execMailboxWrite (seat off : Nat) (bytes : List Byte) (s : State) : Host.Outcome State Fault Refusal :=
  .next (if s.ready && s.dev.vfOpen seat && (bytes.length == 4 || bytes.length == 8) && off % bytes.length == 0 && decide (off + bytes.length ≤ 4096) then
      { s with dev := s.dev.updSeat seat fun k =>
          { k with mailbox := bytes.zipIdx.foldl (fun m p => SMap.put 0 m (off + p.2) p.1) k.mailbox } }
    else s)

/-! ## Scoreboard places (R143) -/

/-- Places a slot holds. -/
def Dev.placesHeld (d : Dev) (slot : Nat) : Nat := (d.board.filter (·.slot == slot)).length

/-- Slots in use. -/
def Dev.slotsInUse (d : Dev) : Nat := ((List.range 128).filter fun i => (d.slotSeat i).isSome).length

/-- Places taken from the shared pool. -/
def Dev.poolUsed (d : Dev) : Nat := ((List.range 128).map fun i => d.placesHeld i - 16).foldl (· + ·) 0

/-- A slot may take `k` more places (R38, R143). -/
def Dev.room (d : Dev) (slot k : Nat) : Bool :=
  decide (d.placesHeld slot + k ≤ 16 ∨ d.poolUsed + (d.placesHeld slot + k - max 16 (d.placesHeld slot)) ≤ 4096 - 16 * d.slotsInUse)
    && decide (d.board.length + k ≤ 4096)

/-! ## Entries (R127, R132 to R136, R149 to R151) -/

/-- What reading a frame finds: it waits, the entry at a count is stale, or its entries. -/
inductive Fetched where
  | notYet
  | stale (count : Nat)
  | frame (es : List (List Byte))
  deriving DecidableEq, Repr

/-- The atoms of a burst from a count on: up to 64 entries, not past `avail` of them nor across the end of the ring (R144). -/
def RingRec.burst (r : RingRec) (count avail : Nat) : List Nat :=
  (List.range (min (min 64 avail) (2 ^ r.log2Size - count % 2 ^ r.log2Size))).map fun i => r.slotAddr count / 64 + i

/-- Reads a burst into the stream cache of the slot, charged as one transfer to READ (R144, R335); it ends before a die that serves
nothing. -/
def Dev.readBurst (d : Dev) (ring count avail : Nat) : Dev :=
  let r := d.ringRec ring
  let g := r.agent
  let atoms := ((r.burst count avail).takeWhile fun a => !d.blocked (64 * a)).filter fun a => d.misses g (64 * a) false
  let d := d.updRing ring fun k => { k with touched := insertAsc (stackOf r.submitBase) k.touched }
  atoms.foldl (fun d a => (({ dev := d } : Mio).readAtom g (64 * a) .normal false).1.dev) (d.transferAtoms g false atoms)

/-- The line of the entry at a count. -/
def Dev.entryLine (d : Dev) (ring count : Nat) : Option Line :=
  let r := d.ringRec ring
  d.cache.line (slotStack r.slot) (tagOf r.ctxIx) (r.slotAddr count / 64)

/-- Drops the line of the entry at a count where it is clean and no entry to take: memory is read in its place (log 139). -/
def Dev.dropOld (d : Dev) (ring count : Nat) : Dev :=
  match d.entryLine ring count with
  | some l => if d.lineServes ring count l then d else d.dropLines fun m => m.stack == l.stack && m.tag == l.tag && m.atom == l.atom
  | none => d

/-- Reads one entry under the tag of the ring's context (R335, R376): nothing yet where the die serves nothing, stale where it fails the
tests of R135 or arrives poisoned or not at all. -/
def Dev.readEntry (d : Dev) (ring count avail : Nat) : Dev × Fetched :=
  let d := d.dropOld ring count
  let hit := (d.entryLine ring count).isSome
  if !hit && d.blocked ((d.ringRec ring).slotAddr count) then (d, .notYet)
  else
    let d := if hit then d else d.readBurst ring count avail
    match d.entryLine ring count with
    | none => (d, .stale count)
    | some l =>
      let d := if hit then d.hitLine l .normal 1 else d
      (d, if l.poison || !entryFresh l.data ring (d.ring ring).generation count then .stale count else .frame [l.data])

/-- Reads `n` more entries from a count on. -/
def Dev.readEntries (d : Dev) (ring : Nat) : Nat → Nat → Dev × Fetched
  | 0, _ => (d, .frame [])
  | n + 1, count =>
    match d.readEntry ring count (n + 1) with
    | (d, .frame e) => match d.readEntries ring n ((count + 1) % 2 ^ 32) with
        | (d, .frame es) => (d, .frame (e ++ es))
        | r => r
    | r => r

/-- Reads the frame at a count: the operation entry and its CONT continuation entries, all within `avail` (R136, log 76). -/
def Dev.readFrame (d : Dev) (ring count avail : Nat) (parity : Bool) : Dev × Fetched :=
  if avail = 0 then (d, .notYet)
  else match d.readEntry ring count avail with
    | (d, .frame e) =>
      let more := field (e.headD []) 2 1
      if parity then (d, .stale count)
      else if avail < 1 + more then (d, .notYet)
      else match d.readEntries ring more ((count + 1) % 2 ^ 32) with
        | (d, .frame es) => (d, .frame (e ++ es))
        | r => r
    | r => r

/-- A continuation entry is well formed (R133). -/
def contOk (e : List Byte) : Bool := field e 0 1 == 0 && field e 2 2 == 0 && field e 12 4 == 0

/-- A frame as an operation: its entry, its payload, and whether the frame breaks R132, R133 or R136. -/
structure RingOp where
  op : OpWord
  payload : Option Payload
  bad : Bool
  deriving DecidableEq, Repr

/-- The payload of continuation entries (R150), none of no entry. -/
def contPayload (cs : List (List Byte)) : Option Payload :=
  match cs with
  | [] => none
  | c :: _ => some ⟨field c 1 1, cs.flatMap fun e => slice e 0x10 48⟩

/-- Bytes of a seat's mailbox page. -/
def Seat.mailBytes (k : Seat) (off n : Nat) : List Byte := (List.range n).map fun i => SMap.get 0 k.mailbox (off + i)

/-- Reads a frame on a ring of a mode (R132, R136, R149 to R151). -/
def ringOp (es : List (List Byte)) (mailbox : Bool) (seat : Seat) : RingOp :=
  match es with
  | [] => ⟨{}, none, true⟩
  | e :: cs =>
    let op := OpWord.ofBytes e
    let conts := cs.all contOk && (cs.all fun c => field c 1 1 == field (cs.headD []) 1 1)
    if mailbox then
      let use := (field e 3 1).testBit 7
      let off := field e 12 2
      let len := field e 14 2
      let good := cs.isEmpty && field e 3 1 / 8 % 16 == 0 &&
        (if use then off % 64 == 0 && decide (1 ≤ len ∧ len ≤ 256 ∧ off + len ≤ 4096) else off == 0 && len == 0)
      ⟨op, if use then some ⟨field e 3 1 % 8, seat.mailBytes off len⟩ else none, op.opcode == 0 || !good⟩
    else
      ⟨op, contPayload cs, op.opcode == 0 || decide (4 < cs.length) || !conts || field e 3 1 != 0 || field e 12 4 != 0⟩

/-! ## Taking (R135, R141, R142, R320) -/

/-- A place for an operation that a ring carries (log 55). -/
def Dev.newPlace (d : Dev) (ring count : Nat) (f : RingOp) (bad skipped : Bool) : Place :=
  let r := d.ringRec ring
  { id := d.nextPlace, ring := ring, slot := r.slot, seat := r.seat, ctx := r.context, seq := count, op := f.op, payload := f.payload,
    bad := bad && !skipped, skipped := skipped }

/-- The descriptor check of an operation that a ring carries (R101). -/
def Dev.frameOk (d : Dev) (ring count : Nat) (f : RingOp) : Bool :=
  match d.layout with
  | none => false
  | some l => !f.bad && f.op.ok f.payload l (d.ringRec ring).seat ring (some count) false

/-- An operation enters the scoreboard: FETCHED, OPS_FETCHED, the step and the skip count move on (R106, R126, R162,
R387, log 125). -/
def Dev.enter (d : Dev) (p : Place) (entries : Nat) (skipLeft : Nat) : Dev :=
  let d := { d with board := d.board ++ [p], nextPlace := d.nextPlace + 1 }
  let d := d.updRing p.ring fun r =>
    { r with fetched := (r.fetched + entries) % 2 ^ 32, taken := (r.taken + 1) % 2 ^ 32, staleReads := 0, staleAt := 0, skip := skipLeft,
             inStep := !d.stepEnd p }
  d.updSlot p.slot fun k => { k with opsFetched := add64 k.opsFetched 1, idle := false, stall := .none, stallRing := p.ring }

/-- How often the entry at a count has been found stale, when it is found stale once more. The three timed reads count on; any other
re-read leaves the two that are to come (R145, R146). -/
def Ring.staleCount (r : Ring) (count : Nat) (timed : Bool) : Nat :=
  if r.staleReads = 0 ∨ r.staleAt ≠ count then 1 else if timed then min 3 (r.staleReads + 1) else r.staleReads

/-- A stale entry (R145, log 72): counted each time; the third timed read sets STALE_ENTRY. -/
def Dev.foundStale (d : Dev) (ring count : Nat) (timed : Bool) : Dev :=
  let r := d.ring ring
  let n := r.staleCount count timed
  let again := r.staleReads == 3 && r.staleAt == count
  let d := d.updRing ring fun r => { r with stale := satInc32 r.stale 1, staleReads := n, staleAt := count }
  let d := if n = 3 ∧ again = false then d.ringLeaf ring 1 else d
  d.showStall (d.ringRec ring).slot .staleEntry ring

/-- Why a ring's slot cannot hold `k` more of its operations (R38, R142, R143). -/
def Dev.full (d : Dev) (ring k : Nat) : Option Stall :=
  let r := d.ring ring
  let rec_ := d.ringRec ring
  if 2 ^ rec_.log2Size < (r.taken + 2 ^ 32 - r.consumed) % 2 ^ 32 + k then some .completionFull
  else if !d.room rec_.slot k then some .scoreboardFull
  else none

/-- An operation that a ring carries enters alone. -/
def Dev.takeSingle (d : Dev) (ring : Nat) (f : RingOp) (n : Nat) : Dev :=
  let r := d.ring ring
  d.enter (d.newPlace ring r.fetched f (!d.frameOk ring r.fetched f) (decide (0 < r.skip))) n (r.skip - 1)

/-- A widening QUANTIZE and its partner enter together; both are bad if one fails its check or the pair breaks R319 (R320). -/
def Dev.takePair (d : Dev) (ring : Nat) (f g : RingOp) (n m : Nat) : Dev :=
  let r := d.ring ring
  let rec_ := d.ringRec ring
  let count := (r.fetched + n) % 2 ^ 32
  let skip := decide (0 < r.skip)
  let ok := d.frameOk ring r.fetched f && d.frameOk ring count g
    && ((d.layout.map fun l => pairOk f.op g.op f.payload g.payload l rec_.seat).getD false)
  let p := { d.newPlace ring r.fetched f (!ok) skip with partner := some (d.nextPlace + 1) }
  let d := d.enter p n (r.skip - 1)
  d.enter { d.newPlace ring count g (!ok) skip with partner := some p.id } m (r.skip - 2)

/-- Takes the operation at FETCHED, with its partner if it is a widening QUANTIZE, whatever its own checks find (R136, R320). A stale
entry is counted, but on a device-append ring it is the end of the ring (R148). `timed` tells a re-read of R145. -/
def Dev.takeOne (d : Dev) (ring : Nat) (parity timed : Bool) : Dev :=
  let r := d.ring ring
  let rec_ := d.ringRec ring
  let avail := r.available rec_.log2Size
  let stale := fun (d : Dev) (count : Nat) => if r.append then d else d.foundStale ring count timed
  let one := d.readFrame ring r.fetched avail parity
  match one.2 with
  | .notYet => one.1
  | .stale c => stale one.1 c
  | .frame es =>
    let f := ringOp es r.smallPath (d.seat rec_.seat)
    if f.op.widens then
      let two := one.1.readFrame ring ((r.fetched + es.length) % 2 ^ 32) (avail - es.length) false
      match two.2 with
      | .notYet => two.1
      | .stale c => stale two.1 c
      | .frame es2 => match two.1.full ring 2 with
        | some w => two.1.showStall rec_.slot w ring
        | none => two.1.takePair ring f (ringOp es2 r.smallPath (d.seat rec_.seat)) es.length es2.length
    else match one.1.full ring 1 with
      | some w => one.1.showStall rec_.slot w ring
      | none => one.1.takeSingle ring f es.length

/-- Why the slot takes nothing of a ring with an entry to look at, none where it may take (R69, R81, R142, R143, R371, R391, R529). On a
step ring whose step has begun, a stopped seat takes on to the step's end (R69, log 24, log 54). -/
def Dev.fetchStall (d : Dev) (ring : Nat) : Option Stall :=
  let rec_ := d.ringRec ring
  let n := rec_.seat
  let k := d.seat n
  if !k.serves then some .fenced
  else if k.state == .fenced && !d.midStep ring then some .fenced
  else if d.swapStop.contains n && !d.midStep ring then some .swapPending
  else if d.clocksStarting n then some .clockStart
  else if !d.sliceAllows n rec_.context || k.moving.isSome then some .slice
  else d.full ring 1

/-- The rings of a slot in ascending local index (R140, R141). -/
def insertBy (k : Nat × Nat) : List (Nat × Nat) → List (Nat × Nat)
  | [] => [k]
  | x :: t => if k.1 ≤ x.1 then k :: x :: t else x :: insertBy k t

def Dev.slotRings (d : Dev) (slot : Nat) : List Nat :=
  (((d.ringList.filter fun p => p.2.slot == slot).map fun p => (p.2.localIx, p.1)).foldl (fun l k => insertBy k l) []).map (·.2)

/-- A waiting stale entry holds the ring; a device-append ring has none (R145, R148). -/
def Ring.waitsStale (r : Ring) : Bool := !r.append && r.staleReads != 0

/-- The fetcher has reason to visit the ring: FETCHED lies below TAIL, or on a device-append ring the entry there passes (R141, R148). -/
def Dev.toVisit (d : Dev) (ring : Nat) : Bool := if (d.ring ring).append then d.takeable ring else d.pending ring

/-- One ring of a round (R141). -/
def Dev.fetchRing (slot : Nat) (parity : List Nat) (d : Dev) (ring : Nat) : Dev :=
  if !d.toVisit ring then d
  else match d.fetchStall ring with
    | some r => d.showStall slot r ring
    | none =>
      if (d.ring ring).waitsStale then d.showStall slot .staleEntry ring
      else
        let d := if parity.contains ring then d.noteParity (slotStack slot) (some (d.ringRec ring).seat) else d
        d.takeOne ring (parity.contains ring) false

/-- FETCH_ROUND (R141): `parity` lists the rings whose entry arrives with a parity mismatch (R480, log 127). -/
def execFetchRound (slot _fc : Nat) (parity : List Nat) (s : State) : Host.Outcome State Fault Refusal :=
  .next (if (s.dev.slotSeat slot).isSome then { s with dev := (s.dev.slotRings slot).foldl (Dev.fetchRing slot parity) s.dev }
    else s)

/-- The tails show that a ring has something to take (R147): not a ring that waits for a stale entry, and a device-append ring only where
its next entry passes (R148). -/
def Dev.tailAhead (d : Dev) (ring : Nat) : Bool := d.toVisit ring && !(d.ring ring).waitsStale

/-- SLOT_IDLE (R147): the slot is idle only if, when every tail is read once more, no ring has a takeable operation. -/
def execSlotIdle (slot : Nat) (s : State) : Host.Outcome State Fault Refusal :=
  let busy := (s.dev.slotRings slot).any s.dev.tailAhead
  .next (if (s.dev.slotSeat slot).isNone then s
    else
      let d := s.dev.updSlot slot fun k => { k with idle := !busy }
      { s with dev := if busy then d else d.showStall slot .idle 0 })

/-- A re-read of a stale entry (R145): it is taken if it has become visible. -/
def Dev.reread (d : Dev) (ring : Nat) (timed : Bool) : Dev :=
  if (d.ring ring).waitsStale && d.pending ring && (d.fetchStall ring).isNone then d.takeOne ring false timed else d

/-- STALE_REREAD (R145): the timed re-reads, 256 and then 1,024 fast cycles later. -/
def execStaleReread (ring _fc : Nat) (s : State) : Host.Outcome State Fault Refusal :=
  .next (if (s.dev.ring ring).staleReads = 1 ∨ (s.dev.ring ring).staleReads = 2 then { s with dev := s.dev.reread ring true } else s)

/-- A probe of a device-append ring (R148). -/
def Dev.probe (d : Dev) (ring : Nat) : Dev :=
  if (d.ring ring).append && d.pending ring && (d.fetchStall ring).isNone then d.takeOne ring false false else d

/-- SLOT_RECHECK (R146, R148): every waiting stale entry is retried, every device-append ring probed, and a ring with a takeable
operation wakes the slot. -/
def execSlotRecheck (slot _fc : Nat) (s : State) : Host.Outcome State Fault Refusal :=
  .next (if (s.dev.slotSeat slot).isNone then s
    else
      let rs := s.dev.slotRings slot
      let d := rs.foldl (fun d r => (d.reread r false).probe r) s.dev
      { s with dev := if rs.any d.tailAhead then d.updSlot slot fun k => { k with idle := false } else d })

/-! ## Doorbells (R137 to R139, R145, R147, R148) -/

/-- A doorbell that is ignored with an error. -/
def Dev.badDoorbell (d : Dev) (ring : Nat) : Dev :=
  (d.updRing ring fun r => { r with dbErr := satInc32 r.dbErr 1 }).ringLeaf ring 0

/-- A doorbell to a local index that no ring of the seat holds (R139). -/
def Dev.lostDoorbell (d : Dev) (seat v : Nat) : Dev :=
  (({ d with ringInfo := v / 2 ^ 32 % 4096 }).setLeaf .rng 0).setLeaf (.vfRing seat) 1

/-- The value of a doorbell names its ring and nothing else (R138). -/
def doorbellOk (ring v : Nat) : Bool := v / 2 ^ 32 % 4096 == ring && v / 2 ^ 44 == 0

/-- An accepted submission doorbell: TAIL, the idle slot wakes, a stale entry is read again (R138, R145, R147). -/
def Dev.acceptTail (d : Dev) (ring v : Nat) : Dev :=
  let d := d.updRing ring fun r => { r with tail := v % 2 ^ 32, dbSubmit := v }
  let d := d.updSlot (d.ringRec ring).slot fun k => { k with idle := false }
  if (d.ring ring).staleReads = 3 then d.reread ring false else d

/-- A submission doorbell of a ring, the first row of R138 that matches; on a device-append ring it only probes (R148). -/
def Dev.submit (d : Dev) (ring v : Nat) : Dev :=
  let r := d.ring ring
  let t := v % 2 ^ 32
  if r.append then d.probe ring
  else if !doorbellOk ring v then d.badDoorbell ring
  else if t = r.tail ∨ 2 ^ 31 ≤ (t + 2 ^ 32 - r.tail) % 2 ^ 32 then d
  else if 2 ^ (d.ringRec ring).log2Size < (t + 2 ^ 32 - r.fetched) % 2 ^ 32 then d.badDoorbell ring
  else d.acceptTail ring v

/-- A completion doorbell of a ring (R138). It is no doorbell of R145 and R148: only submission doorbells read entries again or probe
(DEDUCED, log 140). -/
def Dev.consume (d : Dev) (ring v : Nat) : Dev :=
  let r := d.ring ring
  let t := v % 2 ^ 32
  if !doorbellOk ring v then d.badDoorbell ring
  else if t = r.consumed ∨ 2 ^ 31 ≤ (t + 2 ^ 32 - r.consumed) % 2 ^ 32 then d
  else if (r.completed + 2 ^ 32 - r.consumed) % 2 ^ 32 < (t + 2 ^ 32 - r.consumed) % 2 ^ 32 then d.badDoorbell ring
  else d.updRing ring fun r => { r with consumed := t, dbComplete := v }

/-- SUBMISSION_DOORBELL (R138, R139). -/
def execSubmissionDoorbell (seat localIx v : Nat) (s : State) : Host.Outcome State Fault Refusal :=
  .next (if !s.ready || !s.dev.vfOpen seat then s
    else { s with dev := match s.dev.ringOf seat localIx with
        | some r => s.dev.submit r v
        | none => s.dev.lostDoorbell seat v })

/-- COMPLETION_DOORBELL (R138, R139). -/
def execCompletionDoorbell (seat localIx v : Nat) (s : State) : Host.Outcome State Fault Refusal :=
  .next (if !s.ready || !s.dev.vfOpen seat then s
    else { s with dev := match s.dev.ringOf seat localIx with
        | some r => s.dev.consume r v
        | none => s.dev.lostDoorbell seat v })

end Sys2Proof.Machine
end

