-- ==== Sys2Proof/Machine/Codec.lean ====
section
/-! DEFINITION. The row codec (06): encoding and decoding of table rows and the codec's own check (R172, R185, R207 to R212). -/

namespace Sys2Proof.Machine

/-! ## Directed rounding to FP16 (R207) -/

/-- The FP16 code of the magnitude n / d × 2^e, rounded away from zero or toward it: beyond 65,504 it is infinity away from zero and 65,504
toward it. -/
def fp16Directed (away : Bool) (n d : Nat) (e : Int) : Nat :=
  if n = 0 then 0
  else
    let q := max (log2Rat n d + e - 10) fp16.qmin
    let a := if 0 ≤ e - q then n <<< (e - q).toNat else n
    let b := if 0 ≤ e - q then d else d <<< (q - e).toNat
    min ((q - fp16.qmin).toNat * 1024 + (if away then divUp a b else a / b)) (if away then 0x7C00 else 0x7BFF)

/-- fp16_upward of a positive value m × 2^e / d (R207). -/
def fp16Upward (m d : Nat) (e : Int) : Nat := fp16Directed true m d e

/-- fp16_downward of a value (R207): code with its sign. -/
def fp16Downward (x : Num) : Nat :=
  match x with
  | .fin neg m e => let c := fp16Directed neg m 1 e; if neg && c != 0 then 0x8000 + c else c
  | _ => 0x7C00

/-- An FP16 code is not finite. -/
def fp16Infinite (c : Nat) : Bool := decide (0x7BFF < c % 0x8000)

/-! ## Decoding (R172, R185, R208) -/

/-- One element: code × scale exactly, then plus offset in FP32 (R208). -/
def decodeCode (scale offset : Num) (code : Nat) : Num :=
  let x := (Num.ofInt code 0).mul scale
  let y := x.add offset
  (rne32 y).1

/-- The codes of a coded row (R172). -/
def TableRec.codes (t : TableRec) (bs : List Byte) : List Nat :=
  if t.rowFormat = 1 then (slice bs 0 t.dimension).map BitVec.toNat
  else (slice bs 0 (t.dimension / 2)).flatMap fun b => [b.toNat % 16, b.toNat / 16]

/-- A row's elements: `header` is the header of a coded row, `bs` what follows it; for BF16 rows `bs` is the row (R172, R185). -/
def TableRec.decode (t : TableRec) (header bs : List Byte) : List Num :=
  if t.rowFormat = 3 then (List.range t.dimension).map fun i => bf16.decode (field bs (2 * i) 2)
  else
    let scale := fp16.decode (field header 0 2)
    let offset := fp16.decode (field header 2 2)
    (t.codes bs).map (decodeCode scale offset)

/-! ## Encoding (R207, R209, R210) -/

/-- A row as the codec makes it: header and the bytes after it. -/
structure Coded where
  header : List Byte
  bytes : List Byte
  deriving DecidableEq, Repr

/-- What an encode gives: a row, or the refusal of R210 with its flag and, for a non-finite element, its column. -/
inductive Encode where
  | ok (c : Coded)
  | invalid (col : Nat)
  | overflow
  deriving DecidableEq, Repr

/-- Smallest and largest element, a zero of either sign as +0 (R207). -/
def rowMin (xs : List Num) : Num := (xs.foldl (fun m x => if Num.cmp x m < 0 then x else m) (xs.headD .zero)).plusZero
def rowMax (xs : List Num) : Num := (xs.foldl (fun m x => if Num.cmp m x < 0 then x else m) (xs.headD .zero)).plusZero

/-- The code of an element: the nearest integer to (x − offset) / scale, clamped (R207). -/
def encodeCode (bits : Nat) (scale offset x : Num) : Nat :=
  match x.add offset.neg, scale with
  | .fin false m e, .fin _ s k => if s = 0 then 0 else min (rneShift m s (e - k)) (2 ^ bits - 1)
  | _, _ => 0

/-- Bytes of codes (R172). -/
def codeBytes (bits : Nat) (cs : List Nat) : List Byte :=
  if bits = 8 then cs.map (BitVec.ofNat 8)
  else (List.range (ceilDiv cs.length 2)).map fun i => BitVec.ofNat 8 (cs.getD (2 * i) 0 + 16 * cs.getD (2 * i + 1) 0)

/-- Scale and offset of a coded row (R207). -/
def codedHeader (bits : Nat) (xs : List Num) : Nat × Nat :=
  let mn := rowMin xs
  let mx := rowMax xs
  if Num.cmp mx mn = 0 then (0, (fp16.convert mn).1)
  else match mx.add mn.neg with
    | .fin _ m e => (fp16Upward m (2 ^ bits - 1) e, fp16Downward mn)
    | _ => (0x7C00, 0x7C00)

/-- Encodes a coded row (R207, R210). -/
def encodeCoded (bits : Nat) (xs : List Num) : Encode :=
  let h := codedHeader bits xs
  if fp16Infinite h.1 || fp16Infinite h.2 then .overflow
  else
    let scale := fp16.decode h.1
    let offset := fp16.decode h.2
    .ok ⟨leBytes 2 h.1 ++ leBytes 2 h.2, codeBytes bits (xs.map (encodeCode bits scale offset))⟩

/-- Encodes a BF16 row: `codes` in FORMAT `fmt` (R209, R210). -/
def encodeRaw (fmt : Nat) (codes : List Nat) : Encode :=
  let cs := codes.map fun c => if fmt = 4 then c else (bf16.convert (elemValue fmt c)).1
  if cs.any fun c => (bf16.decode c).isInf then .overflow else .ok ⟨[], cs.flatMap (leBytes 2)⟩

/-- Encodes one input row in IN_FORMAT `fmt` (R207 to R210). -/
def TableRec.encode (t : TableRec) (fmt : Nat) (codes : List Nat) : Encode :=
  let xs := codes.map (elemValue fmt)
  match xs.findIdx? fun x => !x.isFinite with
  | some c => .invalid c
  | none => if t.rowFormat = 3 then encodeRaw fmt codes else encodeCoded (if t.rowFormat = 1 then 8 else 4) xs

/-! ## The codec's own check (R211) -/

/-- The spacing of FP32 at a magnitude: 2^(floor(log2 |x|) − 23), at least that of the subnormals. -/
def spacing32 (x : Num) : Num := .fin false 1 (if x.isZero then -149 else max (x.expo - 23) (-149))

/-- |a − b| is at most the bound. -/
def withinOf (a b bound : Num) : Bool := decide (Num.cmp (a.add b.neg).abs bound ≤ 0)

/-- The bound e of a coded row: scale / 2 + |mn − offset| + u. -/
def codedBound (bits : Nat) (scale offset mn : Num) : Num :=
  let top := (offset.add ((Num.ofInt (2 ^ bits - 1) 0).mul scale)).abs
  let u := spacing32 (if Num.cmp offset.abs top < 0 then top else offset.abs)
  ((scale.shift (-1)).add (mn.add offset.neg).abs).add u

/-- The row that an encode produced passes the codec's check (R211): decoded through its own path it lies within the bound of its input;
a raw row equals an independent rounding of it. -/
def TableRec.rowChecks (t : TableRec) (fmt : Nat) (codes : List Nat) (c : Coded) : Bool :=
  let xs := codes.map (elemValue fmt)
  if t.rowFormat = 3 then c.bytes == codes.flatMap fun x => leBytes 2 (if fmt = 4 then x else (bf16.convert (elemValue fmt x)).1)
  else
    let scale := fp16.decode (field c.header 0 2)
    let offset := fp16.decode (field c.header 2 2)
    let e := codedBound (if t.rowFormat = 1 then 8 else 4) scale offset (rowMin xs)
    ((t.decode c.header c.bytes).zip xs).all fun p => withinOf p.1 p.2 e

/-! ## The slot (R173, R174, R226) -/

/-- The bytes of a coded row as its slot holds them, in whole atoms, and HEADER of a split row. -/
def TableRec.slotBytes (t : TableRec) (c : Coded) : List Byte × List Byte :=
  if t.isSplit then (padTo c.bytes 64, c.header) else (padTo (c.header ++ c.bytes) 64, [])

/-- Row atoms of a staging record (R226): 16 of a split row. -/
def TableRec.atoms (t : TableRec) : Nat := if t.isSplit then 16 else ceilDiv t.rowBytes 64

/-- Elements of the row that slot bytes hold, with HEADER for a split row. -/
def TableRec.ofSlot (t : TableRec) (bs header : List Byte) : List Num :=
  if t.rowFormat = 3 then t.decode [] bs
  else if t.isSplit then t.decode header bs
  else t.decode (slice bs 0 4) (bs.drop 4)

end Sys2Proof.Machine
end

