-- ==== Sys2Proof/Machine/Overlay.lean ====
section
/-! DEFINITION. The overlay (06): staging records and the directory, the version of a row for an epoch, the trick table, commits and
their acknowledgement, the pin floor and location lists (R214 to R237, R241 to R249). -/

namespace Sys2Proof.Machine

/-! ## Staging areas (R224, R226, R227) -/

/-- Stack offset of a staging area (R224). -/
def stagingBase (x : Nat) : Nat := if x = 0 then 0xEFC000000 else 0xF00000000

/-- Atoms of a staging record: the header and the row atoms (R226). -/
def Staged.atoms (r : Staged) : Nat := 1 + r.bytes.length / 64

/-- Device physical address of a granule of a staging area (R228). -/
def stagingAddr (x granule : Nat) : Nat := x * 2 ^ 36 + stagingBase x + granule * 64

/-- The granules of section p that records may take (R224): M0's commit log is left out. -/
def sectionRange (x p : Nat) : Nat × Nat := (p * 2 ^ 20 + (if x = 0 ∧ p = 0 then 4096 else 0), (p + 1) * 2 ^ 20)

/-- Granule ranges that records of a stack take. -/
def Trk.takenOn (k : Trk) (x : Nat) : List (Nat × Nat) := (k.staged.filter (·.stack == x)).map fun r => (r.granule, r.atoms)

/-- The lowest place for `n` granules in a range that meets no taken range (log 31). -/
def findGap (taken : List (Nat × Nat)) (range : Nat × Nat) (n : Nat) : Option Nat :=
  let starts := range.1 :: (taken.map fun u => u.1 + u.2)
  let fits := starts.filter fun s => decide (range.1 ≤ s) && decide (s + n ≤ range.2) && taken.all fun u => !rangesMeet s n u.1 u.2
  match fits with
  | [] => none
  | s :: t => some (t.foldl min s)

/-- Free granules of a section. -/
def freeIn (taken : List (Nat × Nat)) (range : Nat × Nat) : Nat :=
  range.2 - range.1 - ((taken.filter fun u => decide (range.1 ≤ u.1) && decide (u.1 < range.2)).map (·.2)).foldl (· + ·) 0

/-- The sections of a stack by free space, the most first, the lowest pseudo-channel among equals (R227). -/
def sectionsByFree (x : Nat) (taken : List (Nat × Nat)) : List Nat :=
  ((List.range 64).map fun p => (p, freeIn taken (sectionRange x p))).mergeSort (fun a b => decide (b.2 ≤ a.2)) |>.map (·.1)

/-- Where a record of `n` atoms goes: the section of its pseudo-channel, or a section with space (R226, R227). -/
def Trk.findGranule (k : Trk) (x pc n : Nat) : Option Nat :=
  let taken := k.takenOn x
  (pc :: sectionsByFree x taken).findSome? fun p => findGap taken (sectionRange x p) n

/-- The directory of a stack has an entry free (R228). -/
def Trk.dirRoom (k : Trk) (x : Nat) : Bool := decide ((k.takenOn x).length < 4194304)

/-- Stages a record where it finds space (R226 to R228). -/
def Trk.stage (k : Trk) (r : Staged) (pc : Nat) : Option Trk :=
  if k.dirRoom r.stack then
    (k.findGranule r.stack pc r.atoms).map fun g => { k with staged := k.staged ++ [{ r with granule := g }] }
  else none

/-- Stages records in order; the stack of the first that finds no space otherwise (R239). -/
def Trk.stageAll : Trk → List (Staged × Nat) → Except Nat Trk
  | k, [] => .ok k
  | k, (r, pc) :: t => match k.stage r pc with
    | some k => k.stageAll t
    | none => .error r.stack

/-! ## Staging areas and the commit log in memory (R226, R233) -/

/-- PREV of a record: the record of the same row on its stack that was staged before it (R226, log 136). -/
def Trk.prevOf (k : Trk) (r : Staged) : Nat :=
  match ((k.staged.takeWhile (· != r)).filter fun q => q.stack == r.stack && q.table == r.table && q.row == r.row).getLast? with
  | some q => q.granule
  | none => 0xFFFFFFFF

/-- Bytes with their CHECK (R226). -/
def withCheck (b : List Byte) : List Byte := b ++ leBytes 4 (crc32c 0 b)

/-- The header atom of a staging record (R226). -/
def Staged.headerAtom (r : Staged) (prev : Nat) : List Byte :=
  withCheck (leBytes 2 r.table ++ leBytes 1 r.kind ++ leBytes 1 (r.bytes.length / 64) ++ leBytes 2 r.trick ++ leBytes 2 0 ++ leBytes 8 r.row
    ++ leBytes 4 r.handle ++ leBytes 1 r.seat ++ leBytes 3 0 ++ slice r.header 0 4 ++ leBytes 4 prev
    ++ leBytes 8 (r.epoch.getD (2 ^ 64 - 1)) ++ List.replicate 20 0)

/-- A record of the commit log (R233). -/
def CommitRec.bytes (r : CommitRec) : List Byte :=
  withCheck (leBytes 4 0x4B435254 ++ leBytes 1 r.decision ++ leBytes 1 r.cascade.toNat ++ leBytes 2 r.trick ++ leBytes 8 r.epoch
    ++ leBytes 4 r.handle ++ leBytes 1 r.seat ++ leBytes 1 0 ++ leBytes 2 ((r.dies.map (2 ^ ·)).sum) ++ leBytes 4 r.rows ++ leBytes 4 0
    ++ leBytes 8 r.step ++ leBytes 8 r.cascadeEpoch ++ List.replicate 12 0)

/-- Where a record of the commit log lies: in the first 256 KiB of M0's staging area (R224, R233). -/
def CommitRec.addr (r : CommitRec) : Nat := stagingBase 0 + 64 * r.slot

/-- Where a staging record lies (R226). -/
def Staged.addr (r : Staged) : Nat := stagingAddr r.stack r.granule

/-- A device-internal write of an atom; it waits at a die that serves nothing now (R356, R376). -/
def Dev.putAtom (d : Dev) (a : Nat) (bs : List Byte) (poison : Bool) : Dev :=
  if d.blocked a then d.hold { req := ⟨.internal, a, some bs⟩, poison := poison }
  else
    let d := d.writeAtom a bs { host := true }
    if poison then { d with mem := d.mem.setPoison a true } else d

/-- Writes a staging record that is new or changed: its header atom, and its row atoms unless they stand there already. -/
def Dev.writeStaged (old : List Staged) (d : Dev) (r : Staged) : Dev :=
  let d := d.putAtom r.addr (r.headerAtom (d.trk.prevOf r)) false
  if old.any fun q => q.addr == r.addr && q.bytes == r.bytes && q.poison == r.poison then d
  else (List.range (r.bytes.length / 64)).foldl (fun d i => d.putAtom (r.addr + 64 * (i + 1)) (slice r.bytes (64 * i) 64) r.poison) d

/-- The trick coordinator and the dies take up their new state: every staging record and every record of the commit log that is new or
changed is written to memory (R226, R232, R233). -/
def Dev.setTrk (d : Dev) (k : Trk) : Dev :=
  let e := (k.staged.filter fun r => !d.trk.staged.contains r).foldl (Dev.writeStaged d.trk.staged) { d with trk := k }
  (k.log.filter fun r => !d.trk.log.contains r).foldl (fun d r => d.putAtom r.addr r.bytes false) e

/-- The place of the commit log that the next record takes: the first from logNext on that no valid record holds (R233). -/
def Trk.freeSlot (k : Trk) : Nat :=
  (((List.range (k.log.length + 1)).map fun i => (k.logNext + i) % 4096).find? fun i => !k.log.any (·.slot == i)).getD k.logNext

/-- Appends a record to the commit log. -/
def Trk.logged (k : Trk) (r : CommitRec) : Trk :=
  { k with log := k.log ++ [{ r with slot := k.freeSlot }], logNext := (k.freeSlot + 1) % 4096 }

/-! ## Versions of a row (R230, R242, R244) -/

/-- Record b is newer than record a: by epoch, then by staging order (R219). -/
def Staged.newer (a b : Staged) : Bool :=
  decide (a.epoch.getD 0 < b.epoch.getD 0 ∨ (a.epoch.getD 0 = b.epoch.getD 0 ∧ a.order < b.order))

/-- The newest of some records. -/
def newestOf (rs : List Staged) : Option Staged :=
  rs.foldl (fun (b : Option Staged) r => match b with
    | none => some r
    | some x => if x.newer r then some r else b) none

/-- The newest committed update of a row with an epoch up to `p` (R230). -/
def Trk.version (k : Trk) (table row p : Nat) : Option Staged :=
  newestOf (k.staged.filter fun r => r.kind == 1 && r.table == table && r.row == row &&
    match r.epoch with
    | some e => decide (e ≤ p)
    | none => false)

/-- The location list of a row valid at epoch `p` (R242). -/
def Trk.locations (k : Trk) (table row p : Nat) : Option Replica :=
  (k.replicas.filter fun r => r.table == table && r.row == row && decide (r.since ≤ p)).foldl (fun (b : Option Replica) r =>
    match b with
    | none => some r
    | some x => if x.since ≤ r.since then some r else b) none

/-- The KIND 2 record of a row at a place. -/
def Trk.copyAt (k : Trk) (table row : Nat) (at_ : Nat × Nat) : Option Staged :=
  newestOf (k.staged.filter fun r => r.kind == 2 && r.table == table && r.row == row && r.stack == at_.1 && r.pc == at_.2)

/-- The places that a lookup at epoch `p` may read a row from: at its home stack an update's record or the home slot (none), and every
replica that holds the version valid for `p`; the home slot of a moved row is read no longer (R205, R230, R241, R244). -/
def Trk.sources (k : Trk) (table row p : Nat) : List (Option Staged) :=
  let home := k.version table row p
  match k.locations table row p with
  | none => [home]
  | some l =>
    let copies := (l.places.filterMap (k.copyAt table row)).filter fun c => match home with
      | some v => decide (v.epoch.getD 0 ≤ c.epoch.getD 0)
      | none => true
    (if l.moved && !copies.isEmpty then [] else [home]) ++ copies.map some

/-- The one of them that the front-end takes for a window. -/
def Trk.source (k : Trk) (pick table row p : Nat) : Option Staged :=
  match k.sources table row p with
  | [r] => r
  | rs => rs.getD (pick % rs.length) none

/-- Where the lookups of a row in window `w` of an operation read it, by the operation's place (R205, R244, log 32). -/
def Dev.source (d : Dev) (place w table row p : Nat) : Option Staged := d.trk.source (Config.replicaChoice place w row) table row p

/-- A lookup of a row at its home stack needs an SRAM entry with a double-bit error (R229, R230, R242, R482): a directory entry is
numbered by its record's start granule, a replica map entry by its place in the map (log 47). -/
def Dev.rowSram (d : Dev) (home table row : Nat) : Bool :=
  d.mem.dies.any fun k => k.2.sramBad.any fun e => match e.1 with
    | .directory => d.trk.staged.any fun r => r.stack == k.1 && r.granule == e.2 && r.table == table && r.row == row
    | .filter => k.1 == home && (List.range 3).any fun i => Config.filterHash i table row % 2 ^ 24 == e.2
    | .replicaMap => (d.trk.replicas[e.2]?).any fun r => r.table == table && r.row == row
    | _ => false

/-- A table entry of the device has a double-bit error (R482): of the trick table by entry, of the completion log by ring × 256 + slot. -/
def Dev.sramLost (d : Dev) (t : SramTable) (i : Nat) : Bool := d.mem.dies.any fun k => k.2.sramBad.contains (t, i)

/-! ## Pins and the floor (R234 to R236) -/

/-- The pin floor F (R236). -/
def Dev.pinFloor (d : Dev) : Nat :=
  match d.rings.filterMap fun r => r.2.pin with
  | [] => d.trk.lce
  | e :: t => t.foldl min e

/-- Location lists that no pin can use any more go, with the copies that only they named (R242). -/
def Trk.pruneLists (k : Trk) (floor : Nat) : Trk :=
  let keep := k.replicas.filter fun r =>
    !k.replicas.any fun q => q.table == r.table && q.row == r.row && decide (r.since < q.since) && decide (q.since ≤ floor)
  let named := fun (s : Staged) => keep.any fun r => r.table == s.table && r.row == s.row && r.places.contains (s.stack, s.pc)
  let live := fun (r : Replica) => r.moved || !r.places.isEmpty ||
    keep.any fun q => q.table == r.table && q.row == r.row && decide (q.since ≠ r.since)
  { k with replicas := keep.filter live, staged := k.staged.filter fun s => s.kind != 2 || named s }

/-- Drops what no pin needs. -/
def Dev.pruneLists (d : Dev) : Dev := { d with trk := d.trk.pruneLists d.pinFloor }

/-! ## The trick table (R214 to R216) -/

/-- The trick whose handle the seat uses (R214). -/
def Trk.byHandle (k : Trk) (seat handle : Nat) : Option Trick :=
  k.tricks.find? fun t => t.seat == seat && t.handle == handle && t.handleInUse

/-- An entry of the trick table. -/
def Trk.trick (k : Trk) (entry : Nat) : Option Trick := k.tricks.find? (·.entry == entry)

/-- Changes a trick. -/
def Dev.updTrick (d : Dev) (entry : Nat) (f : Trick → Trick) : Dev :=
  { d with trk := { d.trk with tricks := d.trk.tricks.map fun t => if t.entry = entry then f t else t } }

/-- The lowest free entry (R215). -/
def Trk.freeEntry (k : Trk) : Option Nat := (List.range 1024).find? fun i => !k.tricks.any (·.entry == i)

/-- Entries that a seat holds. -/
def Trk.heldBy (k : Trk) (n : Nat) : Nat := (k.tricks.filter (·.seat == n)).length

/-- Sum of ROWS_MAX over the tricks in OPEN or COMMIT (R216). -/
def Trk.reserved (k : Trk) : Nat :=
  ((k.tricks.filter fun t => t.state == .open_ || t.state == .commit).map (·.rowsMax)).foldl (· + ·) 0

/-- A trick of `rows` rows may be admitted (R216); none where it must wait. -/
def Trk.admission (k : Trk) (n rows : Nat) : Option Nat :=
  if k.heldBy n < 64 ∧ k.reserved + rows ≤ 2097152 ∧ (k.reserved + rows) * 1088 ≤ 2 ^ 31 then k.freeEntry else none

/-- An event of the TABLE group with its stack and seat (R252). -/
def Dev.trkLeaf (d : Dev) (bit : Nat) (stack : Option Nat) (seat : Nat) : Dev :=
  ({ d with trk := { d.trk with infoStack := stack.getD d.trk.infoStack, infoSeat := seat } }).setLeaf .trk bit

/-- Records of a trick that have not retired. -/
def Trk.recordsOf (k : Trk) (t : Trick) : List Staged := k.staged.filter fun r => r.trick == t.entry && (r.kind != 2 || r.epoch.isNone)

/-- Rows of a trick are discarded (R221). -/
def Trk.discardRows (k : Trk) (entry : Nat) : Trk :=
  { k with staged := k.staged.filter fun r => !(r.trick == entry && r.epoch.isNone) }

/-- A trick is aborted: its rows go and the TRICK_COMMIT in progress ends with ABORTED (R221, R223). -/
def Dev.abortTrick (d : Dev) (t : Trick) (f : Flags) : Dev :=
  let d := { d with trk := d.trk.discardRows t.entry }
  let d := d.updTrick t.entry fun t => { t with state := .aborted, flags := t.flags.or f }
  match t.commit with
  | some p => d.updPlace p fun q => { q.fail .aborted with flags := q.flags.or f }
  | none => d

/-- A record's trick is committed: COMMIT with an epoch of its own. A dealer's decision stands in a prepared record until its own
half commits (R247, R250). -/
def CommitRec.committed (r : CommitRec) : Bool := r.decision == 1 && r.epoch != 2 ^ 64 - 1

/-- The highest epoch of a COMMIT record (R233). -/
def Trk.topEpoch (k : Trk) : Nat := ((k.log.filter (·.committed)).map (·.epoch)).foldl max 0

/-- Frees an entry and its log record, but for the COMMIT record of the highest epoch (R221, R233). -/
def Trk.free (k : Trk) (entry : Nat) : Trk :=
  let top := k.topEpoch
  { k with tricks := k.tricks.filter (·.entry != entry), settling := k.settling.filter (· ≠ entry),
           log := k.log.filter fun r => r.trick != entry || (r.committed && r.epoch == top) }

/-- Committed tricks with no record left and no handle in use are SETTLED (R214, R215, R221, log 87). -/
def Trk.dropSettled (k : Trk) : Trk :=
  (k.tricks.filter fun t => t.state == .committed && !t.handleInUse && decide (t.epoch.getD 0 ≤ k.lce)
      && !k.staged.any fun r => r.trick == t.entry && r.kind == 1).foldl (fun k t => k.free t.entry) k

/-- A TRICK_COMMIT or TRICK_ABORT retires: the handle is free, and so is the entry of an aborted trick (R221, R223). -/
def Dev.freeHandle (d : Dev) (p : Place) : Dev :=
  let mine := fun (t : Trick) => t.seat == p.seat && t.handle == p.op.fld 0 0 4 && t.handleInUse
  let t := d.trk.tricks.find? fun t => mine t && ((t.state == .aborted && p.status == .aborted) ||
    (t.commit == some p.id && p.status != .badDescriptor) || (p.op.opcode == 0x33 && p.status == .ok && t.state == .aborted))
  match t with
  | none => d
  | some t =>
    if t.state = .aborted then { d with trk := d.trk.free t.entry }
    else
      let d := d.updTrick t.entry fun t => { t with handleInUse := false, commit := none }
      { d with trk := d.trk.dropSettled }

/-! ## Commits (R231 to R233, R243) -/

/-- The tables that a trick updates. -/
def Trk.tablesOf (k : Trk) (t : Trick) : List Nat := (((k.recordsOf t).filter (·.kind == 1)).map (·.table)).eraseDups

/-- The stacks that hold records of a trick. -/
def Trk.stacksOf (k : Trk) (t : Trick) : List Nat := (List.range 12).filter fun x => (k.recordsOf t).any (·.stack == x)

/-- A table's four most recent commit epochs (R201). -/
def Cache.noteCommit (c : Cache) (table epoch : Nat) : Cache :=
  let es := SMap.get [] c.commits table ++ [epoch]
  { c with commits := SMap.put [] c.commits table (es.drop (es.length - 4)) }

/-- Migrations of a row that a committing trick writes meet a conflict (R243). -/
def Trk.noteConflicts (k : Trk) (t : Trick) : Trk :=
  let hit := fun (m : Migration) => (k.recordsOf t).any fun r => r.kind == 1 && r.table == m.table && r.row == m.row
  { k with tricks := k.tricks.map fun q => match q.migrate with
      | some m => if hit m then { q with migrate := some { m with conflict := true } } else q
      | none => q }

/-- LCE moves on over the epochs that every die has acknowledged (R232). -/
def Trk.advance : Nat → Trk → Trk
  | 0, k => k
  | fuel + 1, k =>
    if k.tricks.any fun t => t.state == .committed && t.epoch == some (k.lce + 1) then
      Trk.advance fuel { k with lce := k.lce + 1 }
    else k

/-- The operations whose epoch LCE has reached end: TRICK_COMMIT with its epoch in DEST, ROW_MIGRATE (R223, R243). -/
def Dev.endCommits (d : Dev) : Dev :=
  (d.trk.tricks.filter fun t => t.state == .committed && decide (t.epoch.getD 0 ≤ d.trk.lce)).foldl (fun d t =>
    match t.commit.bind d.place with
    | some p =>
      if p.phase != .running then d
      else d.updPlace p.id fun q =>
        if q.op.opcode = 0x32 then
          { q.finish with dest := if q.op.word 1 = 0 then none else some ⟨(q.op.ref 1).addr, leBytes 8 (t.epoch.getD 0)⟩ }
        else q.finish
    | none => d) d

/-- LCE moves on, and what waited for it ends. -/
def Dev.settleEpochs (d : Dev) : Dev :=
  let d := ({ d with trk := d.trk.advance (d.trk.tricks.length + 1) }).endCommits
  ({ d with trk := d.trk.dropSettled }).pruneLists

/-- The commit record is written, in the place of a prepared record if the trick has one: the trick takes the next epoch, and the dies that
hold its records are told (R231 to R233, R247). `step` and `cascadeEpoch` are those of a token. -/
def Dev.commitTrick (d : Dev) (t : Trick) (step cascadeEpoch : Nat) : Dev :=
  let e := d.trk.lastEpoch + 1
  let dies := d.trk.stacksOf t
  let record : CommitRec := { decision := 1, cascade := t.cascade, trick := t.entry, epoch := e, handle := t.handle, seat := t.seat,
                              dies := dies, rows := (d.trk.recordsOf t).length, step := step, cascadeEpoch := cascadeEpoch }
  let own := d.trk.log.find? fun r => r.trick == t.entry && r.epoch == 2 ^ 64 - 1
  let tables := d.trk.tablesOf t
  let d := { d with trk := d.trk.noteConflicts t, cache := tables.foldl (fun c x => c.noteCommit x e) d.cache }
  let top := d.trk.topEpoch
  let old := d.trk.log.filter fun r => !(r.trick == t.entry && r.epoch == 2 ^ 64 - 1)
    && !(r.committed && r.epoch == top && !d.trk.tricks.any fun q => q.entry == r.trick && q.epoch == some r.epoch)
  let k := { d.trk with lastEpoch := e, log := old }
  let d := d.setTrk (match own with
    | some r => { k with log := old ++ [{ record with slot := r.slot }] }
    | none => k.logged record)
  let st := if dies.isEmpty then TrickState.committed else .committing
  (d.updTrick t.entry fun t => { t with state := st, epoch := some e, unacked := dies }).settleEpochs

/-- A die has marked the records of a trick (R232). -/
def Dev.ackEpoch (d : Dev) (t : Trick) (x : Nat) : Dev :=
  let mark := fun (r : Staged) => if r.trick = t.entry ∧ r.stack = x ∧ r.epoch = none then { r with epoch := t.epoch } else r
  let rest := t.unacked.filter (· ≠ x)
  let d := d.setTrk { d.trk with staged := d.trk.staged.map mark }
  (d.updTrick t.entry fun t =>
    { t with unacked := rest, state := if rest.isEmpty then .committed else t.state }).settleEpochs

/-- A member writes the prepared record of a cascade trick (R246). -/
def Dev.prepareTrick (d : Dev) (t : Trick) : Dev :=
  let record : CommitRec := { decision := 0, cascade := true, trick := t.entry, epoch := 2 ^ 64 - 1, handle := t.handle, seat := t.seat,
                              dies := d.trk.stacksOf t, rows := (d.trk.recordsOf t).length }
  (d.setTrk (d.trk.logged record)).updTrick t.entry fun t => { t with state := .prepared }

/-- TRICK of a decision that stands in the log without a trick of this module. -/
def noEntry : Nat := 0xFFFF

/-- A decision is written into the prepared record of its handle (R247). A dealer whose own half has none writes a record of its own
(`dealer`, log 137); a member without one writes nothing. -/
def Trk.recordDecision (k : Trk) (dealer : Bool) (handle decision step cascadeEpoch : Nat) : Trk :=
  let open_ := fun (r : CommitRec) => r.cascade && r.handle == handle && r.epoch == 2 ^ 64 - 1 && r.decision == 0
  if k.log.any open_ then
    { k with log := k.log.map fun r => if open_ r then { r with decision := decision, step := step, cascadeEpoch := cascadeEpoch } else r }
  else if dealer && !k.log.any (fun r => r.cascade && r.handle == handle && r.decision == decision) then
    k.logged { decision := decision, cascade := true, trick := noEntry, epoch := 2 ^ 64 - 1, handle := handle, seat := 0, dies := [], rows := 0,
               step := step, cascadeEpoch := cascadeEpoch }
  else k

/-- Decisions of a token are recorded (R247). -/
def Dev.recordDecisions (d : Dev) (dealer : Bool) (ds : List (Nat × Nat)) (step cascadeEpoch : Nat) : Dev :=
  d.setTrk (ds.foldl (fun (k : Trk) (r : Nat × Nat) => k.recordDecision dealer r.1 r.2 step cascadeEpoch) d.trk)

/-- The decision that a prepared trick's record holds, if it holds one. -/
def Trk.decisionOf (k : Trk) (t : Trick) : Option CommitRec :=
  k.log.find? fun r => r.trick == t.entry && r.epoch == 2 ^ 64 - 1 && r.decision != 0

/-- A token's decision reaches a prepared trick, whose record holds it (R221, R247): 1 COMMIT, otherwise ABORT. An aborted trick whose handle
a reset has freed goes at once. -/
def Dev.decideTrick (d : Dev) (handle decision step cascadeEpoch : Nat) : Dev :=
  let d := d.recordDecisions false [(handle, decision)] step cascadeEpoch
  let mine := fun (t : Trick) => t.cascade && t.handle == handle && t.state == .prepared
  match d.trk.tricks.find? fun t => mine t && (d.trk.decisionOf t).isSome with
  | none => d
  | some t =>
    if decision = 1 then d.commitTrick t step cascadeEpoch
    else
      let d := d.abortTrick t {}
      if t.handleInUse then d else { d with trk := d.trk.free t.entry }

/-- Prepared tricks whose decision is recorded complete it on restart (R250). -/
def Dev.finishDecided (d : Dev) : Dev :=
  d.trk.tricks.foldl (fun d t => if t.state = .prepared then
      match d.trk.decisionOf t with
      | some r => d.decideTrick t.handle r.decision r.step r.cascadeEpoch
      | none => d
    else d) d

end Sys2Proof.Machine
end

