-- ==== Sys2Proof/Machine/Retire.lean ====
section
/-! DEFINITION. Retirement and completion (03, 04): the body of a launch takes places, operations retire through the collector,
SKIP_IF skips, and completion entries are written (R104 to R106, R112, R113, R152 to R160, R275, R276, R387 to R389). -/

namespace Sys2Proof.Machine

/-! ## Bodies of launches (R112) -/

/-- The place of the next body operation of a launch, which hands its acquire flag on (R479). -/
def Dev.bodyPlace (d : Dev) (p : Place) (o : BodyOp) (ix : Nat) (good skipped : Bool) : Place :=
  { id := d.nextPlace, ring := p.ring, slot := p.slot, seat := p.seat, ctx := p.ctx, seq := p.seq, op := o.op, payload := o.payload,
    bad := !good && !skipped, skipped := skipped, parent := some p.id, bodyIx := ix, shownIx := o.index, needs := o.needs,
    acquire := p.op.opcode == 0x7F && p.op.acquires }

/-- The check of a body operation as it takes its place (R101, R111). -/
def Dev.bodyOk (d : Dev) (p : Place) (o : BodyOp) : Bool :=
  match d.layout with
  | none => false
  | some l => o.op.ok o.payload l p.seat p.ring (some p.seq) false

/-- The next operations of a launch's body take places while there is room; a widening pair takes two at once (R143, R319). -/
def Dev.fillBody (id : Nat) : Nat → Dev → Dev
  | 0, d => d
  | fuel + 1, d =>
    match d.place id with
    | none => d
    | some p => match p.body with
      | [] => d
      | o :: rest =>
        let skip := decide (0 < p.bodySkip)
        match if o.op.widens then rest.head? else none with
        | some o2 =>
          if !d.room p.slot 2 then d
          else
            let ok := d.bodyOk p o && d.bodyOk p o2 && ((d.layout.map fun l => pairOk o.op o2.op o.payload o2.payload l p.seat).getD false)
            let a := { d.bodyPlace p o p.bodyNext ok skip with partner := some (d.nextPlace + 1) }
            let b := { d.bodyPlace p o2 (p.bodyNext + 1) ok skip with id := d.nextPlace + 1, partner := some d.nextPlace }
            let d := { d with board := d.board ++ [a, b], nextPlace := d.nextPlace + 2 }
            (d.updPlace id fun q => { q with body := rest.tail, bodyNext := q.bodyNext + 2, bodySkip := q.bodySkip - 2 }).fillBody id fuel
        | none =>
          if !d.room p.slot 1 then d
          else
            let good := d.bodyOk p o && !o.op.widens
            let a := d.bodyPlace p o p.bodyNext good skip
            let d := { d with board := d.board ++ [a], nextPlace := d.nextPlace + 1 }
            (d.updPlace id fun q => { q with body := rest, bodyNext := q.bodyNext + 1, bodySkip := q.bodySkip - 1 }).fillBody id fuel

/-- Every launch with operations still to place takes what places are free, oldest first. -/
def Dev.fillBodies (d : Dev) : Dev :=
  (d.board.filter fun p => p.op.launches && p.phase == .running && !p.body.isEmpty).foldl (fun d p => Dev.fillBody p.id p.body.length d) d

/-- A launch's body is done: it has begun, and no operation is still to be placed or in a place (R112). -/
def Dev.bodyDone (d : Dev) (p : Place) : Bool :=
  p.op.launches && p.phase == .running && decide (0 < p.bodyNext) && p.body.isEmpty && !d.board.any fun q => q.parent == some p.id

/-- A body operation that retired joins its launch: flags, the first status in body order that is not OK, the first offender
(R112, R275, R389). -/
def Place.absorb (q c : Place) : Place :=
  let first := fun (i : Option Nat) => match i with
    | none => true
    | some k => decide (c.bodyIx < k)
  let q := { q with flags := q.flags.or c.flags, excursions := q.excursions.or c.excursions,
                    touched := c.touched.foldl (fun l x => insertAsc x l) q.touched }
  let q := if c.status ≠ .ok ∧ first q.statusIx = true then { q with status := c.status, statusIx := some c.bodyIx } else q
  if c.flags.invalid ∧ first q.offenderOp = true then
    { q with offender := c.offender, offenderOp := some c.bodyIx, offenderIx := c.shownIx } else q

/-! ## Graph versions (R109, R111, R113) -/

/-- A version that a newer one or a RETIRE has replaced and no launch holds is freed (R113, R114); a version that is newest at the
start of this slow cycle stays for the launches of the cycle (R111). -/
def Dev.pruneGraphs (d : Dev) (n : Nat) : Dev :=
  d.updSeat n fun k =>
    { k with graphs := k.graphs.filter fun g =>
        (g.live && !k.graphs.any fun h => h.graph == g.graph && decide (g.version < h.version) && h.since != d.slow)
          || d.board.any fun p => p.seat == n && p.pinned == some (g.graph, g.version) }

/-- A PUBLISH retires: its version becomes the newest (R109). The graph store keeps its bodies as records of the state; the bytes of the
save segment that hold them on the device (R108) are not modelled (DESIGN CHOICE, log 58). -/
def Dev.publish (d : Dev) (p : Place) : Dev :=
  let g := p.op.fld 0 0 2
  let v := (d.seat p.seat).graphCount.get 0 g + 1
  (d.updSeat p.seat fun k =>
    { k with graphCount := k.graphCount.put 0 g v, graphs := k.graphs ++ [⟨g, v, p.body.map fun o => (o.op, o.payload), p.op.fld 2 0 4, true, d.slow⟩] }).pruneGraphs p.seat

/-- A RETIRE retires: no version of the graph can be launched any more (R113, R114). -/
def Dev.retireGraph (d : Dev) (p : Place) : Dev :=
  (d.updSeat p.seat fun k =>
    { k with graphs := k.graphs.map fun g => if g.graph = p.op.fld 0 0 2 then { g with live := false } else g }).pruneGraphs p.seat

/-! ## Retirement (R157, R160) -/

/-- The word that holds DEST, for the operations that have one (R99, R100). -/
def destWord (opcode : Nat) : Nat :=
  match opcode with
  | 0x62 => 2 | 0x70 => 5 | 0x7F => 3 | _ => 1

/-- Tiles of a GATHER that its consumer has still to accept (R189). -/
def Dev.tilesInFlight (d : Dev) (p : Place) : Bool :=
  (p.op.opcode == 0x20 || p.op.opcode == 0x21) && (p.op.ref 1).kind == 1 && d.routes.any fun r =>
    r.spec.seat == p.seat && r.spec.stream == (p.op.ref 1).addr && r.queue.any fun t =>
      decide ((t.tile.sequence + 2 ^ 32 - p.op.seqBase) % 2 ^ 32 < tileCount (p.op.fld 2 0 4) (((d.table (p.op.fld 2 4 2)).map (·.dimension)).getD 1))

/-- An ALL_TO_ALL still expects blocks of other members (R467). -/
def Dev.awaitsBlocks (d : Dev) (p : Place) : Bool :=
  p.op.opcode == 0x61 && p.status == .ok &&
    decide ((d.ctx (p.seat * 16 + p.ctx)).blocks.get 0 (p.coll.getD 0) + 1 < p.op.fld 3 2 2)

/-- The operation has nothing left to do but to retire (R92, R112, R189, R464, R467): none of its requests waits on the regulator. -/
def Dev.canRetire (d : Dev) (p : Place) : Bool :=
  !d.reg.waits (.work p.id) && ((p.phase == .finished && p.unsent.isEmpty && p.unacked.isEmpty && p.unsentMsgs.isEmpty && p.prefetch.isEmpty && !d.tilesInFlight p
      && !d.awaitsBlocks p && !(p.status == .ok && d.qlk.resend.any (·.1 == p.id)))
    || d.bodyDone p)

/-- The collector of the slot's stack accepts a retirement, at most 8 in a fast cycle (R159, R160, log 53). -/
def Dev.collect (d : Dev) (p : Place) (fc : Nat) : Option Dev :=
  let k := slotStack p.slot
  let c := d.collector.get (0, 0) k
  let n := if c.1 = d.now fc then c.2 else 0
  if n < 8 then some { d with collector := d.collector.put (0, 0) k (d.now fc, n + 1) } else none

/-- CYCLES counts the core cycles of a core operation (R408): a free value, since the model has no time (log 25). -/
def Dev.countCycles (d : Dev) (p : Place) : Dev :=
  if isCoreOp p.op.opcode then
    (d.meter (p.seat * 16 + p.ctx) fun t => { t with cycles := add64 t.cycles (Config.freeNat d.free) }).tickFree
  else d

/-- What an operation does when it retires, besides DEST (R103, R109, R113, R308, R467, R472). -/
def Dev.retireEffect (d : Dev) (p : Place) : Dev :=
  let d := match p.summary with
    | some (r, v) => d.updCtx (p.seat * 16 + p.ctx) fun c => { c with sums := c.sums.put 0 r v }
    | none => d
  if p.op.opcode = 0x32 ∨ p.op.opcode = 0x33 then d.freeHandle p
  else if p.op.opcode = 0x61 then
    match p.coll with
    | some k => d.updCtx (p.seat * 16 + p.ctx) fun c => { c with blocks := SMap.del c.blocks k }
    | none => d
  else if p.op.opcode = 0x62 ∧ p.status = .ok ∧ p.op.fld 1 0 1 ≠ 0 then
    { d with qlk := { d.qlk with reporting := p.op.fld 1 0 1 == 1 } }
  else if p.op.opcode = 0x7F ∧ p.status = .ok then
    match p.op.fld 0 2 1 with
    | 1 => d.publish p
    | 2 => d.retireGraph p
    | _ => d
  else d

/-- The bytes DEST receives: a PUBLISH's version is the one that its retirement makes (R100, R109). -/
def Dev.destBytes (d : Dev) (p : Place) : Option PendingWrite :=
  if p.op.opcode = 0x7F ∧ p.op.fld 0 2 1 = 1 then
    if p.status = .ok ∧ p.op.word 3 ≠ 0 then
      some ⟨(p.op.ref 3).addr, leBytes 8 ((d.seat p.seat).graphCount.get 0 (p.op.fld 0 0 2) + 1)⟩
    else none
  else p.dest

/-- A place retires: it leaves for its launch, whose entry shows the epoch that the ring has pinned at the last of them (R478), or it
waits for its completion entry (R112, R159). Body operations count in OPS_RETIRED and, as no fetcher takes them, not in OPS_FETCHED
(DEDUCED, log 142). -/
def Dev.leave (d : Dev) (p : Place) (t : Nat) : Dev :=
  let d := (d.retireEffect p).countCycles p
  let d := d.updSlot p.slot fun k => { k with opsRetired := add64 k.opsRetired 1 }
  let d := if d.stepEnd p then (d.updRing p.ring fun r => { r with pin := none }).pruneLists else d
  let p := { p with phase := .retired, stop := t, stall := .none, arrived := [], kept := [], pinned := none }
  let d := match p.parent with
    | some q =>
      let pin := (d.ring p.ring).pin
      { d with board := (d.board.filter fun (x : Place) => x.id != p.id).map fun (x : Place) =>
          if x.id = q then { x.absorb p with epoch := pin } else x }
    | none => d.updPlace p.id fun _ => p
  let d := if p.op.launches then d.pruneGraphs p.seat else d
  d.fillBodies

/-- Retires a place whose work is done: the collector accepts it, DEST is written (R100, R157, R160, log 79). Where DEST faults the status
becomes SEGMENT_FAULT; a PUBLISH then creates no version (DEDUCED, log 143). -/
def Dev.retire (d : Dev) (p : Place) (fc : Nat) : Dev :=
  match d.collect p fc with
  | none => d.stallPlace p .collector
  | some d1 => match d.destBytes p with
    | none => d1.leave p (d.now fc)
    | some w =>
      let m := ({ dev := d1 } : Mio).write { d.agent p with who := .loose } (p.op.ref (destWord p.op.opcode)).streamed w.addr w.bytes
        (List.replicate w.bytes.length false)
      if m.waits then (d.updPlace p.id (·.noted m)).stallPlace p m.wait
      else
        let p := { p.noted m with status := if m.fault then .segmentFault else p.status }
        m.dev.leave p (d.now fc)

/-- A place that retires without having run starts and stops at once. -/
def Dev.retireUnrun (d : Dev) (p : Place) (st : Status) (fc : Nat) : Dev :=
  let t := d.now fc
  (d.noteStep p t).retire { p with status := st, start := t, epoch := (d.ring p.ring).pin } fc

/-- OPERATION_RETIRE (R160): an operation whose work is done, a launch whose body is done, or one that failed a check (R101)
retires. -/
def execOperationRetire (place fc : Nat) (s : State) : Host.Outcome State Fault Refusal :=
  .next (match s.dev.place place with
    | none => s
    | some p =>
      if s.dev.canRetire p then { s with dev := s.dev.retire p fc }
      else if p.phase = .waiting ∧ p.bad = true ∧ s.dev.canStart p = true then { s with dev := s.dev.retireUnrun p .badDescriptor fc }
      else s)

/-- SKIPPED_OPERATION (R106): an operation that a SKIP_IF covers retires with SKIPPED and no flags. -/
def execSkippedOperation (place : Nat) (s : State) : Host.Outcome State Fault Refusal :=
  .next (match s.dev.place place with
    | none => s
    | some p => if p.phase = .waiting ∧ p.skipped = true ∧ (s.dev.ahead p).all (·.begun) = true then
        { s with dev := s.dev.retireUnrun p .skipped 0 } else s)

/-! ## SKIP_IF (R104 to R106) -/

/-- The comparison of R105. -/
def skipTest (cmp sum value : Nat) : Bool :=
  let x := fp32.decode (sum % 2 ^ 32)
  let y := fp32.decode (value % 2 ^ 32)
  match cmp with
  | 0 => sum == value
  | 1 => sum != value
  | 2 => decide (sum < value)
  | 3 => decide (value ≤ sum)
  | 4 => !x.isNan && !y.isNan && decide (Num.cmp x y < 0)
  | _ => !x.isNan && !y.isNan && decide (0 ≤ Num.cmp x y)

/-- Marks the first `n` of a list of places as skipped, and the partner of a widening QUANTIZE on which the count ends (R320);
with the ids marked and the count left. -/
def skipIds : Nat → List Place → List Nat × Nat
  | 0, _ => ([], 0)
  | n + 1, [] => ([], n + 1)
  | n + 1, p :: t =>
    match p.partner with
    | some q => if n = 0 ∧ p.op.opcode = 0x4A then ([p.id, q], 0) else let r := skipIds n t; (p.id :: r.1, r.2)
    | none => let r := skipIds n t; (p.id :: r.1, r.2)

/-- Skips the next `n` operations after a place: of the ring, or of the body that it belongs to (R106, R109). -/
def Dev.skipNext (d : Dev) (p : Place) (n : Nat) : Dev :=
  let later := (d.ringPlaces p.ring).filter fun q => decide (p.id < q.id) && q.parent == p.parent
  let r := skipIds n later
  let d := { d with board := d.board.map fun (q : Place) => if r.1.contains q.id then { q with skipped := true, bad := false } else q }
  match p.parent with
  | none => d.updRing p.ring fun g => { g with skip := r.2 }
  | some q => d.updPlace q fun x => { x with bodySkip := r.2 }

/-- The work of SKIP_IF (R104). -/
def Dev.workSkip (d : Dev) (p : Place) : Dev :=
  let sum := (d.ctx (p.seat * 16 + p.ctx)).sums.get 0 (p.op.fld 1 0 1)
  let d := d.updPlace p.id Place.finish
  if skipTest (p.op.fld 1 1 1) sum (p.op.word 0) then d.skipNext p (p.op.fld 1 2 2) else d

/-- SKIP_IF (R104): it starts only after every earlier operation of its ring has retired. -/
def execSkipIf (place : Nat) (s : State) : Host.Outcome State Fault Refusal :=
  .next { s with dev := s.dev.runOp place (·.opcode == 0x51) Dev.workSkip }

/-! ## Completion entries (R152 to R159, R275, R276, R387 to R389, R438) -/

/-- MARGIN of a step-ending operation (R152, R388, R389). -/
def marginOf (wcet duration : Nat) (e : Excursions) : Nat :=
  let m : Int := max (-(2 ^ 27)) (min (2 ^ 27 - 1) ((wcet : Int) - duration))
  (m % 2 ^ 28).toNat + (if e.thermal then 2 ^ 28 else 0) + (if e.rerun then 2 ^ 29 else 0) + (if e.peerLate then 2 ^ 30 else 0)
    + (if e.trickStall then 2 ^ 31 else 0)

/-- PHASE of the entry with completion count c (R155). -/
def phaseBit (c log2Size : Nat) : Nat := 1 - (c >>> log2Size) % 2

/-- Fast cycles between two times. -/
def spanOf (a b : Nat) : Nat := (b + 2 ^ 52 - a) % 2 ^ 52

/-- The 32 bytes of a completion entry (R152). -/
def Place.entry (p : Place) (ring c log2Size : Nat) (step : Bool) (margin : Nat) : List Byte :=
  leBytes 2 ring ++ leBytes 1 p.status.code ++ leBytes 1 (phaseBit c log2Size + (if step then 2 else 0)) ++ leBytes 4 p.seq
    ++ leBytes 2 p.flags.code ++ leBytes 6 (p.start / 16) ++ leBytes 8 (p.epoch.getD (2 ^ 64 - 1))
    ++ leBytes 4 (min (spanOf p.start p.stop) 0xFFFFFFFF) ++ leBytes 4 margin

/-- A notification (R158). The unlisted value 3 of NOTIFY is stored and sends none (DESIGN CHOICE, log 144). -/
def Dev.notify (d : Dev) (ring : Nat) (st : Status) : Dev :=
  let r := d.ring ring
  let rec_ := d.ringRec ring
  if r.notify = 1 ∨ (r.notify = 2 ∧ st ≠ .ok ∧ st ≠ .skipped) then
    (d.updSeat rec_.seat fun k => { k with notify := k.notify ||| 2 ^ rec_.localIx }).setLeaf (.vfRing rec_.seat) 0
  else d

/-- The exception record and the INVALID leaves (R275, R276, R278, R279). -/
def Dev.recordInvalid (d : Dev) (p : Place) : Dev :=
  let rec_ := d.ringRec p.ring
  if !p.flags.invalid then d
  else
    let o := p.offender.getD ⟨0, 0, 0⟩
    let d := d.updRing p.ring fun r => if r.exc.valid then r else
      { r with exc := ⟨true, p.op.opcode, p.ctx, p.seq, o.row, o.col, o.kblock, p.offenderIx, p.op.launches⟩ }
    if (d.seatRec p.seat).flags.testBit 0 then
      let d := { d with glb := { d.glb with arithSeat := p.seat, arithRing := rec_.localIx } }
      ((d.updSeat p.seat fun k => { k with arithRing := rec_.localIx }).setLeaf (.vfArith p.seat) 0).setLeaf .arith 0
    else d

/-- The entry of a ring's next operation has been written: COMPLETED and the log move on, its place is free, and the step it ends
is accounted (R126, R388, R438). -/
def Dev.completed (d : Dev) (p : Place) (e : List Byte) (ex : Excursions) : Dev :=
  let step := d.stepEnd p
  let d := { d with board := d.board.filter (·.id != p.id) }
  let head := (d.ringPlaces p.ring).find? (·.parent.isNone)
  let next := match head with
    | some q => if q.phase = .waiting then none else some q.start
    | none => none
  let d := d.updRing p.ring fun r =>
    { r with completed := (r.completed + 1) % 2 ^ 32, log := r.log.put [] (r.completed % 256) e,
             excursions := if step then {} else ex, touched := if step then [] else p.touched.foldl (fun l x => insertAsc x l) r.touched,
             stepStart := if step then next else r.stepStart }
  (d.notify p.ring p.status).recordInvalid p

/-- A stack is outside NORMAL, or was in the fast cycles since `t` (R357). -/
def Stack.warmSince (k : Stack) (t : Nat) : Bool := k.thermal != .normal || k.cooled.any fun c => decide (t / 16 ≤ c)

/-- A stack that the step read or wrote, those of its ring among them, was outside NORMAL during the step (R357). -/
def Dev.stepThermal (d : Dev) (p : Place) : Bool :=
  let r := d.ring p.ring
  let rec_ := d.ringRec p.ring
  (stackOf rec_.submitBase :: stackOf rec_.completeBase :: (r.touched ++ p.touched)).any fun x =>
    (d.mem.stack x).warmSince (r.stepStart.getD p.start)

/-- The collector as memory sees it: it carries the tag of the ring's context, and nobody waits for its requests (R160, R376). -/
def RingRec.collector (r : RingRec) : Agent := ⟨r.ctxIx, slotStack r.slot, .loose⟩

/-- The excursions of the step so far, with those of an operation that completes (R357, R389). -/
def Dev.stepExcursions (d : Dev) (p : Place) : Excursions :=
  ((d.ring p.ring).excursions.or p.excursions).or { thermal := d.stepEnd p && d.stepThermal p }

/-- The completion entry of an operation (R152, R388, R389). -/
def Dev.entryOf (d : Dev) (p : Place) : List Byte :=
  let r := d.ring p.ring
  let step := d.stepEnd p
  let margin := if step then
      marginOf (((d.wcet p.ring).map (·.wcet)).getD 0) (spanOf (r.stepStart.getD p.start) p.stop) (d.stepExcursions p)
    else 0
  p.entry p.ring r.completed (d.ringRec p.ring).log2Size step margin

/-- Writes the completion entry of the first operation of a ring, if it has retired (R157, R159), as a NORMAL access (R335, R339). -/
def Dev.complete (d : Dev) (ring : Nat) : Dev :=
  match (d.ringPlaces ring).find? (·.parent.isNone) with
  | none => d
  | some p =>
    let r := d.ring ring
    let rec_ := d.ringRec ring
    let a := rec_.completeBase + r.completed % 2 ^ rec_.log2Size * 32
    if !p.gone || d.sramLost .completionLog (ring * 256 + r.completed % 256) then d
    else
      let e := d.entryOf p
      let m := ({ dev := d } : Mio).writeAtom rec_.collector a e false .normal false false
      if m.waits then d else (m.dev.completed p e (d.stepExcursions p)).fillBodies

/-- COMPLETION_ENTRY_WRITE (R159). -/
def execCompletionEntryWrite (ring : Nat) (s : State) : Host.Outcome State Fault Refusal :=
  .next { s with dev := s.dev.complete ring }

end Sys2Proof.Machine
end

