-- ==== Sys2Proof/Machine/Order.lean ====
section
/-! DEFINITION. Ordering and moving operations (03): MARK, WAIT, ACQUIRE, FLUSH, FENCE, TILE_LOAD, TILE_STORE and COPY (R100, R102,
R122 to R124). -/

namespace Sys2Proof.Machine

/-! ## The host as operations meet it (R435 to R437) -/

/-- Host accesses of a seat's operations complete as at a host loss event (R431, R436). -/
def Dev.hostGone (d : Dev) (seat : Nat) : Bool := d.glb.hostLost || !(d.fn (seat + 1)).busMaster

/-- A ring enters HOST_LOST (R437). -/
def Dev.loseRing (d : Dev) (r : Nat) : Dev := (d.updRing r fun g => { g with state := .hostLost }).ringLeaf r 3

/-- An operation retires with HOST_LOST, and its ring enters HOST_LOST (R435). -/
def Dev.loseHost (d : Dev) (p : Place) : Dev :=
  (d.updPlace p.id fun q => { q.fail .hostLost with unsent := [], unsentMsgs := [] }).loseRing p.ring

/-! ## MARK and WAIT -/

/-- The bytes of a DEST at descriptor word `w`, none where it is absent (R98, R100). -/
def OpWord.destOf (o : OpWord) (w v : Nat) : Option PendingWrite :=
  if o.word w = 0 then none else some ⟨(o.ref w).addr, leBytes 8 v⟩

/-- The work of MARK (R100). -/
def Dev.workMark (d : Dev) (p : Place) : Dev :=
  d.updPlace p.id fun q => { q.finish with dest := p.op.destOf 1 (p.op.word 0) }

/-- MARK (R100). -/
def execMark (place : Nat) (s : State) : Host.Outcome State Fault Refusal :=
  .next { s with dev := s.dev.runOp place (·.opcode == 0x01) Dev.workMark }

/-- SEQUENCE of the last completion entry that a ring has written since it started empty. -/
def Dev.lastWritten (d : Dev) (r : Nat) : Option Nat :=
  (SMap.find (d.ring r).log (((d.ring r).completed + 2 ^ 32 - 1) % 256)).map fun e => field e 4 4

/-- The ring that a WAIT names (R100). -/
def OpWord.waitRing (o : OpWord) (own : Nat) : Nat := if o.fld 0 0 2 = 0xFFFF then own else o.fld 0 0 2

/-- A WAIT is satisfied: the named ring has written the entry of SEQUENCE or of a later one, modulo 2^32 (R102). -/
def Dev.waitDone (d : Dev) (p : Place) : Bool :=
  match d.lastWritten (p.op.waitRing p.ring) with
  | none => false
  | some q => decide ((q + 2 ^ 32 - p.op.fld 0 4 4) % 2 ^ 32 < 2 ^ 31)

/-- The work of WAIT: it ends at once when satisfied and waits otherwise (R102). -/
def Dev.workWait (d : Dev) (p : Place) : Dev :=
  if d.waitDone p then d.updPlace p.id Place.finish else d.stallPlace p .wait

/-- WAIT (R102). -/
def execWait (place : Nat) (s : State) : Host.Outcome State Fault Refusal :=
  .next { s with dev := s.dev.runOp place (·.opcode == 0x02) Dev.workWait }

/-- WAIT_SATISFIED (R102): the awaited entry has been written. -/
def execWaitSatisfied (place : Nat) (s : State) : Host.Outcome State Fault Refusal :=
  .next (match s.dev.place place with
    | none => s
    | some p =>
      if p.op.opcode = 0x02 ∧ p.phase = .running ∧ s.dev.waitDone p = true then
        { s with dev := s.dev.updPlace place Place.finish }
      else s)

/-! ## ACQUIRE, FLUSH, FENCE (R122 to R124) -/

/-- The first 64 KiB piece of a range that no enabled segment covers: where its address check fails (R378). -/
def Ctx.firstGap (c : Ctx) (a n : Nat) : Nat :=
  match (List.range (ceilDiv (a + n) 65536 - a / 65536)).find? fun i => (c.covering ((a / 65536 + i) * 65536)).isNone with
  | some i => max a ((a / 65536 + i) * 65536)
  | none => a

/-- An ACQUIRE or FLUSH whose range is not covered by enabled segments ends with SEGMENT_FAULT (R122, R123, R385). -/
def Dev.gapFault (d : Dev) (p : Place) (a n : Nat) : Dev :=
  (d.segFault p.ctxIx ((d.ctx p.ctxIx).firstGap a n) 1 0).updPlace p.id (·.fail .segmentFault)

/-- The first dirty line of those picked whose die accepts no write (R356). -/
def Dev.stuckLine (d : Dev) (q : Line → Bool) : Option Line := d.cache.lines.find? fun l => l.dirty && q l && d.blocked (64 * l.atom)

/-- Work over the lines that a predicate picks: it waits while a write-back cannot reach its die (R356, R389). -/
def Dev.overLines (d : Dev) (p : Place) (q : Line → Bool) (f : Mio → Mio) (g : Dev → Dev) : Dev :=
  d.conclude p (match d.stuckLine q with
    | some l => ({ dev := d } : Mio).reach (64 * l.atom)
    | none => f { dev := d }) g

/-- A place has finished. -/
def Dev.finishPlace (d : Dev) (p : Place) : Dev := d.updPlace p.id Place.finish

/-- The work of ACQUIRE INVALIDATE (R122). -/
def Dev.workInvalidate (d : Dev) (p : Place) : Dev :=
  let a := (p.op.ref 0).addr
  let n := p.op.word 1
  if !(d.ctx p.ctxIx).covers a n then d.gapFault p a n
  else d.overLines p (d.acquireLines p.ctxIx a n) (·.acquire p.ctxIx a n) (·.finishPlace p)

/-- The work of ACQUIRE BYPASS (R122). For a fifth range that is not wholly covered either, the rule states SEGMENT_FAULT and NO_SPACE and no
order: coverage comes first, as for every address check (DESIGN CHOICE, log 145). -/
def Dev.workBypass (d : Dev) (p : Place) : Dev :=
  let a := (p.op.ref 0).addr
  let n := p.op.word 1
  if !(d.ctx p.ctxIx).covers a n then d.gapFault p a n
  else if 4 ≤ (d.ctx p.ctxIx).bypass.length then d.updPlace p.id (·.fail .noSpace)
  else d.overLines p (d.acquireLines p.ctxIx a n) (·.acquire p.ctxIx a n) fun d =>
    (d.updCtx p.ctxIx fun c => { c with bypass := c.bypass ++ [⟨a, n⟩] }).finishPlace p

/-- The work of ACQUIRE RESTORE (R122). -/
def Dev.workRestore (d : Dev) (p : Place) : Dev :=
  let a := (p.op.ref 0).addr
  let n := p.op.word 1
  if !(d.ctx p.ctxIx).covers a n then d.gapFault p a n
  else (d.updCtx p.ctxIx fun c =>
      { c with bypass := c.bypass.filter fun b => !(decide (a ≤ b.addr) && decide (b.addr + b.length ≤ a + n)) }).updPlace p.id Place.finish

/-- ACQUIRE_INVALIDATE (R122). -/
def execAcquireInvalidate (place : Nat) (s : State) : Host.Outcome State Fault Refusal :=
  .next { s with dev := s.dev.runOp place (fun o => o.opcode == 0x03 && o.fld 2 0 1 == 0) Dev.workInvalidate }

/-- ACQUIRE_BYPASS (R122). -/
def execAcquireBypass (place : Nat) (s : State) : Host.Outcome State Fault Refusal :=
  .next { s with dev := s.dev.runOp place (fun o => o.opcode == 0x03 && o.fld 2 0 1 == 1) Dev.workBypass }

/-- ACQUIRE_RESTORE (R122). -/
def execAcquireRestore (place : Nat) (s : State) : Host.Outcome State Fault Refusal :=
  .next { s with dev := s.dev.runOp place (fun o => o.opcode == 0x03 && o.fld 2 0 1 == 2) Dev.workRestore }

/-- The lines that a FLUSH writes back: of its range, or all of the context for LENGTH 0, on every stack (R123). -/
def Dev.flushPick (d : Dev) (p : Place) (l : Line) : Bool :=
  if p.op.word 1 = 0 then l.tag == tagOf p.ctxIx
  else d.rangeLines p.ctxIx (p.op.ref 0).addr (p.op.word 1) l

/-- The work of FLUSH (R123). -/
def Dev.workFlush (d : Dev) (p : Place) : Dev :=
  let a := (p.op.ref 0).addr
  let n := p.op.word 1
  if n ≠ 0 ∧ (d.ctx p.ctxIx).covers a n = false then d.gapFault p a n
  else d.overLines p (d.flushPick p) (·.flush (d.flushPick p)) (·.finishPlace p)

/-- FLUSH (R123). -/
def execFlush (place : Nat) (s : State) : Host.Outcome State Fault Refusal :=
  .next { s with dev := s.dev.runOp place (·.opcode == 0x04) Dev.workFlush }

/-- A write of the context waits at a die (R356). -/
def Dev.writesHeld (d : Dev) (x : Nat) : Bool :=
  d.mem.dies.any fun k => k.2.held.any fun r => r.req.write.isSome && r.req.source == .tagged (tagOf x)

/-- A VISIBLE fence sends its read to the host once every write of its context is at its die: what the caches hold is written back first
(R124, R148, log 27). -/
def Dev.sendFenceRead (d : Dev) (p : Place) : Dev :=
  d.overLines p (fun l => l.tag == tagOf p.ctxIx) (·.flush fun l => l.tag == tagOf p.ctxIx) fun d =>
    if d.writesHeld p.ctxIx then d.stallPlace p .thermal
    else (d.emit (.hostRead p.seat)).updPlace p.id fun q => { q with hostRead := true, stall := .none }

/-- The work of FENCE (R124): it ends once every earlier operation of its ring has retired; VISIBLE then writes back, reads from the host,
and ends when the read has returned, which is the next FENCE command of the place (log 27). -/
def Dev.workFence (d : Dev) (p : Place) : Dev :=
  if !((d.ahead p).all (·.gone)) then d
  else if p.op.fld 0 0 1 = 0 then d.finishPlace p
  else if d.hostGone p.seat then d.loseHost p
  else if p.hostRead then d.finishPlace p
  else d.sendFenceRead p

/-- FENCE (R124). -/
def execFence (place : Nat) (s : State) : Host.Outcome State Fault Refusal :=
  .next { s with dev := s.dev.runOp place (·.opcode == 0x05) Dev.workFence }

/-! ## TILE_LOAD, TILE_STORE, COPY -/

/-- An operation works once all its stream tiles have come (R89). -/
def Dev.whenFed (f : Dev → Place → Dev) (d : Dev) (p : Place) : Dev := if p.inputsReady then f d p else d

/-- The work of TILE_LOAD (R88, R100). -/
def Dev.workTileLoad (d : Dev) (p : Place) : Dev :=
  let s := p.op.shape 0
  let r := (d.io p).readMat (d.agent p) p 0 (p.op.word 3) s.1 s.2.1 s.2.2
  d.deliver p r.1 1 r.2 id

/-- TILE_LOAD (R99). -/
def execTileLoad (place : Nat) (s : State) : Host.Outcome State Fault Refusal :=
  .next { s with dev := s.dev.runOp place (·.opcode == 0x10) Dev.workTileLoad }

/-- An element as TILE_STORE writes it: its value in FORMAT (R86, R256, R257). Memory holds no shift; what a shifted element of an
integer format becomes is a free value of the format, the code and the shift (R1, log 26). -/
def storeElement (fmt code : Nat) (s : Int) : OutElem :=
  if s = 0 then { code := code }
  else match floatFmt fmt with
    | some f =>
      let q := f.convert ((elemValue fmt code).shift s)
      { code := q.1, invalid := if q.2.2 then some 0 else none, overflow := q.2.1 }
    | none => { code := Config.unstatedCode fmt code s % 2 ^ formatBits fmt }

/-- The flags and the first offender of result elements by row and column (R274); poisoned rows' blocks are left out. -/
def offenderOf (rows : List (List OutElem)) : Option Offender :=
  rows.zipIdx.findSome? fun r => r.1.zipIdx.findSome? fun e => e.1.invalid.map fun k => (⟨r.2, e.2, k⟩ : Offender)

/-- The flags of result elements. -/
def flagsOf (rows : List (List OutElem)) : Flags :=
  { invalid := rows.any fun r => r.any fun e => e.invalid.isSome, overflow := rows.any fun r => r.any (·.overflow),
    exactClip := rows.any fun r => r.any (·.clip) }

/-- A place takes the flags and the first offender of its result. -/
def Place.noteElems (q : Place) (rows : List (List OutElem)) : Place :=
  { q with flags := q.flags.or (flagsOf rows), offender := q.offender <|> offenderOf rows }

/-- The elements of a matrix as TILE_STORE writes them. -/
def Mat.stored (x : Mat) : List (List OutElem) :=
  (List.range x.rows).map fun r => (List.range x.cols).map fun c =>
    if x.poisonAt r (c / 64) then {} else storeElement x.fmt (x.code r c) (x.shiftAt r c)

/-- The work of TILE_STORE (R99): row r goes to DST + r × STRIDE; poisoned rows are zeros stored as poison (R5). -/
def Dev.workTileStore (d : Dev) (p : Place) : Dev :=
  let r := (d.io p).source (d.agent p) p 0 (d.elementCore p)
  let es := r.2.stored
  let y : Mat := { r.2 with codes := es.map fun e => e.map (·.code) }
  d.conclude p (r.1.writeMat (d.agent p) (p.op.ref 1) (p.op.word 3) y) fun d =>
    d.updPlace p.id fun q => { (q.finish).noteElems es with flags := (q.flags.or (flagsOf es)).or { poisoned := y.anyPoison } }

/-- TILE_STORE (R99). -/
def execTileStore (place : Nat) (s : State) : Host.Outcome State Fault Refusal :=
  .next { s with dev := s.dev.runOp place (·.opcode == 0x11) (Dev.whenFed Dev.workTileStore) }

/-- Reads `n` bytes of an operand that is memory, a payload or the scratchpad of the seat's lowest core (R100). -/
def Mio.flat (m : Mio) (g : Agent) (p : Place) (w n : Nat) : Mio × List Byte × List Bool :=
  if p.inPads w then
    let c := m.dev.leadCore p.seat
    (m, m.dev.padRead c (p.op.ref w).addr n, m.dev.padBad c (p.op.ref w).addr n)
  else m.readOperand g p w 0 n

/-- The work of COPY (R100); poisoned source bytes poison the destination (R352). -/
def Dev.workCopy (d : Dev) (p : Place) : Dev :=
  let r := (d.io p).flat (d.agent p) p 0 (p.op.word 2)
  let o := p.op.ref 1
  let m := if o.kind = 2 then { r.1 with dev := if r.1.waits || r.1.fault || r.1.short then r.1.dev else r.1.dev.padWriteOp p o.addr r.2.1 r.2.2 }
    else if r.1.short then r.1 else r.1.write (d.agent p) o o.addr r.2.1 r.2.2
  d.conclude p m fun d => d.updPlace p.id fun q => { q.finish with flags := q.flags.or { poisoned := r.2.2.any id } }

/-- COPY (R100). -/
def execCopy (place : Nat) (s : State) : Host.Outcome State Fault Refusal :=
  .next { s with dev := s.dev.runOp place (·.opcode == 0x12) Dev.workCopy }

end Sys2Proof.Machine
end

