-- ==== Sys2Proof/Machine/Graphs.lean ====
section
/-! DEFINITION. Stored graphs and command buffers (03, 04): LAUNCH_GRAPH in its three modes and RUN_CMDBUF (R108 to R114, R164 to
R166). -/

namespace Sys2Proof.Machine

/-! ## Publishing (R108 to R110) -/

/-- The entries of a body as operations: an operation entry with the entries of opcode 0 that follow it (R110, R150). The flag tells
that every frame has the form of R133, R136 and R150. -/
def bodyOps : Nat → List (List Byte) → List (OpWord × Option Payload) × Bool
  | 0, es => ([], es.isEmpty)
  | fuel + 1, es => match es with
    | [] => ([], true)
    | e :: t =>
      let cs := t.takeWhile fun c => field c 0 1 == 0
      let r := bodyOps fuel (t.drop cs.length)
      let good := field e 0 1 != 0 && decide (cs.length ≤ 4) && cs.all fun c => field c 1 1 == field (cs.headD []) 1 1
      ((OpWord.ofBytes e, contPayload cs) :: r.1, good && r.2)

/-- Entries of 64 bytes. -/
def entriesOf (b : List Byte) : List (List Byte) := (List.range (b.length / 64)).map fun i => slice b (64 * i) 64

/-- Every operation of a body passes the checks of a PUBLISH (R109). -/
def bodyGood (l : Layout) (seat ring : Nat) (ops : List (OpWord × Option Payload)) : Bool :=
  ops.zipIdx.all fun o => o.1.1.ok o.1.2 l seat ring none true && o.1.1.opcode != 0x7E && o.1.1.opcode != 0x7F
    && (o.1.1.opcode != 0x51 || decide (o.2 + o.1.1.fld 1 2 2 < ops.length))

/-- Bytes that a version takes in the store (R108). -/
def versionBytes (entries : Nat) : Nat := (entries + 1) * 64

/-- Bytes of a seat's graph store that are in use, those of a PUBLISH that has copied its body and not retired among them. -/
def Dev.storeUsed (d : Dev) (n : Nat) : Nat :=
  ((d.seat n).graphs.map fun g => versionBytes g.entries).foldl (· + ·) 0
    + ((d.board.filter fun p => p.seat == n && p.op.opcode == 0x7F && p.op.fld 0 2 1 == 1 && !p.body.isEmpty).map fun p =>
        versionBytes (p.op.fld 2 0 4)).foldl (· + ·) 0

/-- Bytes of a seat's graph store (R50, R108). -/
def SeatRec.store (r : SeatRec) : Nat := r.saveLength - r.contexts * r.clusters * 64 * saveBytes

/-- The operations of a graph body as they take places: an exception record shows the index in the body (R275). -/
def bodyOf (ops : List (OpWord × Option Payload)) : List BodyOp := ops.zipIdx.map fun o => { op := o.1.1, payload := o.1.2, index := o.2 }

/-- The work of a PUBLISH (R109); its version is made when it retires. -/
def Dev.workPublish (d : Dev) (p : Place) : Dev :=
  let n := p.op.fld 2 0 4
  let r := ((d.pruneGraphs p.seat).io p).readOperand (d.agent p) p 1 0 (64 * n)
  d.conclude p r.1 fun d =>
    let b := bodyOps n (entriesOf r.2.1)
    let good := b.2 && (d.layout.map fun l => bodyGood l p.seat p.ring b.1).getD false
    if !good then d.updPlace p.id (·.fail .badDescriptor)
    else if (d.seatRec p.seat).store < d.storeUsed p.seat + versionBytes n then d.updPlace p.id (·.fail .noSpace)
    else d.updPlace p.id fun q => { q.finish with body := bodyOf b.1 }

/-- LAUNCH_GRAPH_PUBLISH (R109). -/
def execLaunchGraphPublish (place : Nat) (s : State) : Host.Outcome State Fault Refusal :=
  .next { s with dev := s.dev.runOp place (fun o => o.opcode == 0x7F && o.fld 0 2 1 == 1) Dev.workPublish }

/-! ## Launching (R111, R112) -/

/-- The version that a launch pins: exactly VERSION, or the newest at the start of this slow cycle (R111, R114). -/
def Dev.findVersion (d : Dev) (n g v : Nat) : Option Graph :=
  let gs := (d.seat n).graphs.filter fun x => x.graph == g && x.live
  if v ≠ 0 then gs.find? (·.version == v)
  else (gs.filter (·.since != d.slow)).foldl (fun (b : Option Graph) x => match b with
    | none => some x
    | some y => if y.version < x.version then some x else b) none

/-- An operation's KIND 3 references (R98). -/
def OpWord.argRefs (o : OpWord) (pay : Option Payload) : List Nat :=
  ((refFields o.opcode).filter fun f => o.has pay f.word && !paysFor pay f.word && (o.ref f.word).kind == 3).map (·.word)

/-- An operation with each KIND 3 reference replaced by its argument (R111). -/
def OpWord.substArgs (o : OpWord) (pay : Option Payload) (args : List Nat) : OpWord :=
  (o.argRefs pay).foldl (fun o w => o.setWord w (args.getD (o.ref w).addr 0)) o

/-- The launch has its body. -/
def Place.loaded (p : Place) : Bool := decide (0 < p.bodyNext) || !p.body.isEmpty

/-- Gives a launch its body; its operations take places (R112). -/
def Dev.startBody (d : Dev) (p : Place) (ops : List BodyOp) : Dev :=
  (d.updPlace p.id fun q => { q with body := ops, stall := .none }).fillBodies

/-- A launch reads its arguments and starts the body of the version it has pinned (R111). -/
def Dev.launchBody (d : Dev) (p : Place) (g : Graph) : Dev :=
  let n := p.op.fld 2 0 4
  let r := if n = 0 then (({ dev := d } : Mio), ([], [])) else (d.io p).readOperand (d.agent p) p 1 0 (8 * n)
  d.conclude p r.1 fun d =>
    let args := (List.range n).map fun i => field r.2.1 (8 * i) 8
    if g.body.any fun o => (o.1.argRefs o.2).any fun w => decide (n ≤ (o.1.ref w).addr) then
      d.updPlace p.id fun q => { q.fail .badDescriptor with pinned := none }
    else d.startBody p (bodyOf (g.body.map fun o => (o.1.substArgs o.2 args, o.2)))

/-- The work of a LAUNCH (R111): it pins its version when it starts. -/
def Dev.workLaunch (d : Dev) (p : Place) : Dev :=
  if p.loaded then d
  else
    let d := d.pruneGraphs p.seat
    let v : Option Graph := match p.pinned with
      | some k => (d.seat p.seat).graphs.find? fun (g : Graph) => g.graph == k.1 && g.version == k.2
      | none => d.findVersion p.seat (p.op.fld 0 0 2) (p.op.fld 0 4 4)
    match v with
    | none => d.updPlace p.id (·.fail .badDescriptor)
    | some g => (d.updPlace p.id fun q => { q with pinned := some (g.graph, g.version) }).launchBody p g

/-- LAUNCH_GRAPH_LAUNCH (R111). -/
def execLaunchGraphLaunch (place : Nat) (s : State) : Host.Outcome State Fault Refusal :=
  .next { s with dev := s.dev.runOp place (fun o => o.opcode == 0x7F && o.fld 0 2 1 == 0) Dev.workLaunch }

/-- The work of a RETIRE: it takes effect when it retires (R113). -/
def Dev.workRetireGraph (d : Dev) (p : Place) : Dev := d.updPlace p.id Place.finish

/-- LAUNCH_GRAPH_RETIRE (R113). -/
def execLaunchGraphRetire (place : Nat) (s : State) : Host.Outcome State Fault Refusal :=
  .next { s with dev := s.dev.runOp place (fun o => o.opcode == 0x7F && o.fld 0 2 1 == 2) Dev.workRetireGraph }

/-! ## Command buffers (R164 to R166) -/

/-- RUN_CMDBUF starts: the slot's control core translates (R163, R165). -/
def Dev.workCmdbuf (d : Dev) (p : Place) : Dev := if p.loaded then d else d.stallPlace p .cmdbuf

/-- RUN_CMDBUF (R164). -/
def execRunCmdbuf (place : Nat) (s : State) : Host.Outcome State Fault Refusal :=
  .next { s with dev := s.dev.runOp place (·.opcode == 0x7E) Dev.workCmdbuf }

/-- The header keeps R164, and the CRC of the records matches; its reserved bytes are ignored (R17). -/
def cmdbufHeader (b : List Byte) : Bool :=
  decide (64 ≤ b.length ∧ b.length = 64 + 32 * field b 8 4 ∧ 1 ≤ field b 8 4 ∧ field b 8 4 ≤ 65536)
    && field b 0 4 == 0x2200 && field b 4 2 == 3
    && field b 0x10 4 == crc32c 0 (b.drop 64)

/-- DEPENDS of a record at an index names no record before the first (R164, R166). -/
def dependsOk (ix depends : Nat) : Bool := (List.range 16).all fun i => !depends.testBit i || decide (i + 1 ≤ ix)

/-- A native operation from its opcode, flags and words. -/
def nativeOp (ws : List Nat) : OpWord :=
  ⟨ws.getD 0 0, ws.getD 1 0, ws.getD 2 0, ws.getD 3 0, ws.getD 4 0, ws.getD 5 0, ws.getD 6 0, ws.getD 7 0⟩

/-- The records that DEPENDS of the record at an index names (R164). -/
def dependsOn (ix depends : Nat) : List Nat := ((List.range 16).filter depends.testBit).map fun i => ix - 1 - i

/-- The native operations of one record, each waiting for the records that it depends on (R165): none where it has no translation
(log 12). `gone` tells what a record waits for in place of one that has become no operation (log 28). -/
def translateRecord (ix : Nat) (b : List Byte) (gone : Nat → List Nat) : Option (List BodyOp) :=
  let dep := field b 2 2
  if !dependsOk ix dep then none
  else (Config.translate b).map fun ops => ops.map fun ws =>
    { op := nativeOp ws, index := ix, needs := (dependsOn ix dep).flatMap gone }

/-- The operations of the records from an index on, or the index of the first that is refused. -/
def translateAll : Nat → List (List Byte) → (Nat → List Nat) → Except Nat (List BodyOp)
  | _, [], _ => .ok []
  | ix, b :: t, gone => match translateRecord ix b gone with
    | none => .error ix
    | some ops =>
      let through := (dependsOn ix (field b 2 2)).flatMap gone
      match translateAll (ix + 1) t (if ops.isEmpty then fun k => if k = ix then through else gone k else gone) with
      | .ok rest => .ok (ops ++ rest)
      | .error k => .error k

/-- The operations of a buffer, or the RESULT that refuses it (R164, R166). -/
def cmdbufOps (b : List Byte) : Except Nat (List BodyOp) :=
  if !cmdbufHeader b then .error 0xFFFFFFFE
  else translateAll 0 ((List.range (field b 8 4)).map fun i => slice b (64 + 32 * i) 32) fun k => [k]

/-- The work of the translation: RESULT is written into the header, and the operations start, or the buffer is refused whole (R164 to
R166, log 84, log 85). -/
def Dev.workTranslated (d : Dev) (p : Place) : Dev :=
  let r := (d.io p).readOperand (d.agent p) p 0 0 (p.op.word 1)
  let ops := cmdbufOps r.2.1
  let result := match ops with
    | .ok _ => 0xFFFFFFFF
    | .error k => k
  let o := p.op.ref 0
  let m := if paysFor p.payload 0 || r.1.short then r.1
    else r.1.write (d.agent p) o (o.addr + 12) (leBytes 4 result) [false, false, false, false]
  d.conclude p m fun d => match ops with
    | .error _ => d.updPlace p.id (·.fail .cmdbufError)
    | .ok [] => d.updPlace p.id Place.finish
    | .ok (op :: rest) => d.startBody p (op :: rest)

/-- CMDBUF_TRANSLATED (R165, R166). -/
def execCmdbufTranslated (place : Nat) (s : State) : Host.Outcome State Fault Refusal :=
  .next (match s.dev.place place with
    | none => s
    | some p =>
      if p.op.opcode = 0x7E ∧ p.phase = .running ∧ p.loaded = false then { s with dev := s.dev.workTranslated p } else s)

end Sys2Proof.Machine
end

