-- ==== Sys2Proof/Machine/Regulate.lean ====
section
/-! DEFINITION. The bandwidth regulator in time (10): the gains of the buckets, and the requests that issue (R343 to R347, R355, R520). -/

namespace Sys2Proof.Machine

/-- The thermal factor of a stack in 1/32 (R355). -/
def Thermal.factor : Thermal → Nat
  | .normal => 32 | .refresh2x => 31 | .refresh4x => 30 | .capped => 16 | .protect => 0

/-- What a bucket gains in a memory-base-die cycle, in 1/4,096 bytes, at governor level L (R343, R355, R520). -/
def Dev.gain (d : Dev) (level key : Nat) : Nat :=
  let stack := key / 256 % 16
  let s := d.split (key / 4096) stack
  let share := match key % 4 with
    | 0 => s.read
    | 1 => s.write
    | _ => 64 * s.remote
  share * (d.mem.stack stack).thermal.factor * (16 - level)

/-- Buckets gain for a number of cycles; none rises above its cap (R343). -/
def Dev.gainAll (d : Dev) (level cycles : Nat) : Dev :=
  { d with reg := { d.reg with buckets := d.reg.buckets.foldr (fun b m =>
      SMap.put 0 m b.1 (min 0 (b.2 + (cycles * d.gain level b.1 : Nat)))) [] } }

/-- REQUEST_ISSUE (R343): `cycles` memory-base-die cycles pass, and the requests whose buckets have all reached 0 issue; SLT_STALL then no
longer shows BANDWIDTH for what has issued (Dev.placeStall). -/
def execRequestIssue (cycles : Nat) (s : State) : Host.Outcome State Fault Refusal :=
  .next { s with dev := (s.dev.gainAll s.pwr.level cycles).issueReady }

end Sys2Proof.Machine
end

