-- ==== Sys2Proof/Machine/Gather.lean ====
section
/-! DEFINITION. Gathering (05): GATHER, GATHER_POOL and PREFETCH_ROWS (R178 to R206). -/

namespace Sys2Proof.Machine

/-! ## Prefetched lines (R201, R202) -/

/-- A prefetched line serves a gather of a table at epoch `eg` (R201, log 86). -/
def Dev.lineValid (d : Dev) (l : Line) (table eg : Nat) : Bool :=
  match l.row with
  | none => false
  | some (t, ep) =>
    let es := SMap.get [] d.cache.commits table
    t == table && decide (ep ≤ eg) && !(es.any fun e => decide (ep < e) && decide (e ≤ eg))
      && (decide (es.length < 4) || decide (es.headD 0 ≤ ep) || ep == eg)

/-- The lines of `n` atoms from an atom on, if every one is there and serves the gather. -/
def Dev.rowLines (d : Dev) (g : Agent) (atom n table eg : Nat) : Option (List Line) :=
  (List.range n).mapM fun i => match d.cache.line g.stack (tagOf g.ctx) (atom + i) with
    | some l => if d.lineValid l table eg then some l else none
    | none => none

/-- Prefetched lines of those atoms that fail the rule are dropped (R201). -/
def Dev.dropStaleLines (d : Dev) (g : Agent) (atom n table eg : Nat) : Dev :=
  d.dropLines fun l => l.stack == g.stack && l.tag == tagOf g.ctx && decide (atom ≤ l.atom) && decide (l.atom < atom + n)
    && l.row.isSome && !d.lineValid l table eg

/-- A PREFETCH_ROWS of the context still has a row in flight (R202). -/
def Dev.prefetching (d : Dev) (g : Agent) (table row : Nat) : Bool :=
  d.board.any fun p => p.op.opcode == 0x22 && !p.cancelled && p.ctxIx == g.ctx && slotStack p.slot == g.stack && p.op.fld 2 4 2 == table
    && p.prefetch.any (·.1 == row)

/-! ## Reading rows (R184, R190, R230) -/

/-- The agent of the front-end of a place: the compute stack whose slot took the operation (R184). -/
def Place.frontEnd (p : Place) : Agent := ⟨p.ctxIx, slotStack p.slot, .work p.id⟩

/-- A row as a gather unit passes it on: its values, whether it is poisoned, and the stack it came from. -/
structure RowVal where
  vals : List Num
  poison : Bool
  stack : Option Nat
  deriving DecidableEq, Repr

/-- A row that could not be read yet. -/
def RowVal.empty : RowVal := ⟨[], true, none⟩

/-- Bytes read from table rows count in BYTES_GATHERED of the slot (R162). -/
def Dev.countGathered (d : Dev) (p : Place) (n : Nat) : Dev := d.updSlot p.slot fun k => { k with bytes := add64 k.bytes (64 * n) }

/-- Atoms that a gather unit reads: charged (R341) and counted (R162). -/
def Mio.gatherCharge (m : Mio) (p : Place) (atoms : List Nat) : Mio :=
  { m with dev := (m.dev.chargeAtoms p.frontEnd atoms).countGathered p atoms.length }

/-- Reads atoms of a table under the operation's tag (R184): bytes and poison by atom. -/
def Mio.tableAtoms (m : Mio) (p : Place) (atoms : List Nat) : Mio × List (List Byte × Bool) :=
  atoms.foldl (fun r a =>
    if r.1.fault || r.1.waits then r
    else let q := r.1.readMem p.frontEnd (64 * a); (q.1, r.2 ++ [q.2])) (m, [])

/-- Reads atoms of a staging record: device-internal reads, which no tag check meets (R376). -/
def Mio.stagedAtoms (m : Mio) (p : Place) (atoms : List Nat) : Mio × List (List Byte × Bool) :=
  atoms.foldl (fun r a =>
    let m := r.1.reach (64 * a)
    if m.waits then (m, r.2)
    else
      let q := m.dev.readAtom (64 * a) none { seat := p.seat }
      ({ m with dev := q.1, rerun := m.rerun || q.2.2.2 }, r.2 ++ [(q.2.1, q.2.2.1)])) (m, [])

/-- The atoms of a table row in its slot: those of its codes, and that of its header (R174, R176). -/
def TableRec.slotOf (t : TableRec) (row : Nat) : List Nat :=
  let h := t.place row
  (List.range t.atoms).map (h.addr / 64 + ·) ++ if t.isSplit then [h.header / 64] else []

/-- The atoms of a staging record: its row atoms, and its header atom for a split row (R226). -/
def Staged.atomsFor (r : Staged) (t : TableRec) : List Nat :=
  (List.range t.atoms).map (r.addr / 64 + 1 + ·) ++ if t.isSplit then [r.addr / 64] else []

/-- The atoms that hold a row in its version for an epoch, as window `w` of an operation reads it (R205, R230). -/
def Dev.rowAtomsOf (d : Dev) (p : Place) (t : TableRec) (w row eg : Nat) : List Nat :=
  match d.source p.id w t.table row eg with
  | some r => r.atomsFor t
  | none => t.slotOf row

/-- The header of a row among bytes of the atom that holds it: a record's HEADER field, or the place in the header block. -/
def headerIn (r : Option Staged) (t : TableRec) (row : Nat) (bs : List Byte) : List Byte :=
  match r with
  | some _ => slice bs 24 4
  | none => slice bs ((t.place row).header % 64) 4

/-- A row's lookup waits for an SRAM entry that it needs (R163, R482). -/
def Mio.lookup (m : Mio) (t : TableRec) (row : Nat) : Mio :=
  if m.dev.rowSram (t.place row).stack t.table row then { m with waits := true, wait := .sramFatal } else m

/-- A gather unit reads a row in its version for an epoch (R184, R230): bytes and poison by atom, not charged. -/
def Mio.rowAtoms (m : Mio) (p : Place) (t : TableRec) (w row eg : Nat) : Mio × List (List Byte × Bool) :=
  let m := m.lookup t row
  if m.waits then (m, [])
  else match m.dev.source p.id w t.table row eg with
  | some r => m.stagedAtoms p (r.atomsFor t)
  | none => m.tableAtoms p (t.slotOf row)

/-- A row from the atoms that hold it. -/
def rowOf (r : Option Staged) (t : TableRec) (row : Nat) (xs : List (List Byte × Bool)) : List Num :=
  t.ofSlot ((xs.take t.atoms).flatMap (·.1)) (if t.isSplit then headerIn r t row ((xs.getD t.atoms ([], false)).1) else [])

/-- A row whose version is in its slot has its header atom in the lines too; a record's header is carried with the lines of its row
(log 30). -/
def Dev.headerLines (d : Dev) (p : Place) (t : TableRec) (row eg : Nat) : Option (List Line) :=
  if !t.isSplit || (d.source p.id 0 t.table row eg).isSome then some []
  else d.rowLines p.frontEnd ((t.place row).header / 64) 1 t.table eg

/-- The lines of a prefetched row, those of its codes first, if all are there and serve the gather. -/
def Dev.prefetched (d : Dev) (p : Place) (t : TableRec) (row eg : Nat) : Option (List Line) :=
  (d.rowLines p.frontEnd ((t.place row).addr / 64) t.atoms t.table eg).bind fun ls => (d.headerLines p t row eg).map (ls ++ ·)

/-- Prefetched lines of a row that fail the rule are dropped (R201). -/
def Dev.dropStaleRow (d : Dev) (p : Place) (t : TableRec) (row eg : Nat) : Dev :=
  let h := t.place row
  let d := d.dropStaleLines p.frontEnd (h.addr / 64) t.atoms t.table eg
  if t.isSplit then d.dropStaleLines p.frontEnd (h.header / 64) 1 t.table eg else d

/-- Reads one row in window `w` for the epoch `eg`, for `c` positions: a stream-cache hit uses c uses of its lines (R202); otherwise the
gather unit reads the record or the slot (R230). -/
def Mio.readRow (m : Mio) (p : Place) (t : TableRec) (w row eg c : Nat) : Mio × RowVal :=
  let h := t.place row
  if m.fault || m.waits then (m, .empty)
  else if m.dev.prefetching p.frontEnd t.table row then ({ m with waits := true }, .empty)
  else match m.dev.prefetched p t row eg with
    | some ls =>
      let r := m.dev.source p.id 0 t.table row eg
      let header := match r with
        | some x => [(x.headerAtom 0, x.poison)]
        | none => []
      ({ m with dev := ls.foldl (fun d l => d.hitLine l .normal c) m.dev },
       ⟨rowOf r t row (ls.map (fun l => (l.data, l.poison)) ++ header), ls.any (·.poison), some h.stack⟩)
    | none =>
      let r := m.dev.source p.id w t.table row eg
      let q := ({ m with dev := m.dev.dropStaleRow p t row eg } : Mio).rowAtoms p t w row eg
      (q.1.gatherCharge p (if q.1.waits then [] else m.dev.rowAtomsOf p t w row eg),
       ⟨rowOf r t row q.2, q.2.any (·.2), some ((r.map (·.stack)).getD h.stack)⟩)

/-- The default row (R180): +0, or the row stored at DEFAULT_ROW as it stands. -/
def Mio.readDefault (m : Mio) (p : Place) (t : TableRec) : Mio × RowVal :=
  if t.defaultKind = 0 then (m, ⟨List.replicate t.dimension .zero, false, none⟩)
  else
    let atoms := (List.range (ceilDiv t.rowBytes 64)).map (t.defaultRow / 64 + ·)
    let q := m.tableAtoms p atoms
    let bs := q.2.flatMap (·.1)
    let vals := if t.rowFormat = 3 then t.decode [] bs else t.decode (slice bs 0 4) (bs.drop 4)
    (q.1.gatherCharge p atoms, ⟨vals, q.2.any (·.2), some (stackOf t.defaultRow)⟩)

/-- Reads each distinct row of window `i` once, in the order of the list; `none` is the default row (R190). -/
def Mio.readWindow (m : Mio) (p : Place) (t : TableRec) (eg i : Nat) (w : List (Option Nat)) : Mio × List RowVal :=
  let r := w.eraseDups.foldl (fun (a : Mio × List (Option Nat × RowVal)) k =>
    if a.1.fault || a.1.waits then a
    else
      let q := match k with
        | some row => a.1.readRow p t i row eg (w.count k)
        | none => a.1.readDefault p t
      (q.1, a.2 ++ [(k, q.2)])) (m, [])
  (r.1, w.map fun k => match r.2.find? fun e => e.1 == k with
    | some e => e.2
    | none => .empty)

/-- Reads the rows of a list, window by window (R190). -/
def Mio.readRows (m : Mio) (p : Place) (t : TableRec) (eg : Nat) (rows : List (Option Nat)) : Mio × List RowVal :=
  (piecesOf 65536 rows).zipIdx.foldl (fun (a : Mio × List RowVal) w => let q := a.1.readWindow p t eg w.2 w.1; (q.1, a.2 ++ q.2)) (m, [])

/-! ## Lists (R178, R179) -/

/-- The rows that an index list names: none where the index is invalid (R179). -/
def listRows (t : TableRec) (width n : Nat) (bs : List Byte) : List (Option Nat) :=
  (List.range n).map fun i =>
    let x := field bs (width * i) width
    if x = 2 ^ (8 * width) - 1 ∨ t.rows ≤ x then none else some x

/-- Positions whose bytes arrived poisoned. -/
def listPoison (width n : Nat) (po : List Bool) : List Bool := (List.range n).map fun i => ((po.drop (width * i)).take width).any id

/-- The ring pins the latest committed epoch if it holds no pin (R183); the operation's entry shows the pin. -/
def Dev.gatherPin (d : Dev) (p : Place) : Dev :=
  let e := ((d.ring p.ring).pin).getD d.trk.lce
  (d.updRing p.ring fun r => { r with pin := some e }).updPlace p.id fun q => { q with epoch := some e }

/-! ## Charges of results (R36, R186, R188, R342, log 147) -/

/-- The stacks that rows come from. -/
def stacksOfRows (vs : List RowVal) : List Nat := (vs.filterMap (·.stack)).eraseDups

/-- The groups of rows whose partial results go to the combiner: each a list of stacks, with their row counts (R186). -/
def partialsOf (groups : List (List RowVal)) : List (Nat × Nat) :=
  groups.flatMap fun g =>
    let ss := stacksOfRows g
    if ss.length ≤ 1 then [] else ss.map fun s => (s, (g.filter fun v => v.stack == some s).length)

/-- The REMOTE charges of partial results, `bytes` for the rows of a group from one stack, to the stack that sends them (R186). -/
def Dev.chargePartials (d : Dev) (p : Place) (groups : List (List RowVal)) (bytes : Nat → Nat) : Dev :=
  let parts := partialsOf groups
  (List.range 12).foldl (fun d s =>
    let n := ((parts.filter fun q => q.1 == s).map fun q => bytes q.2).sum
    if n = 0 then d else d.chargeRemote p.frontEnd s (rangeCharge n)) d

/-- One transfer of results out of stack `x`: READ on the pseudo-channels of the table by equal parts, and REMOTE where it crosses (R340,
R342, log 147). -/
def Dev.shipResult (d : Dev) (p : Place) (t : TableRec) (x n : Nat) : Dev :=
  let g := p.frontEnd
  let c := transferCharge n
  let cross := memOwner x != g.stack
  let d := d.meter g.ctx fun k => { k with read := add64 k.read c, remote := if cross then add64 k.remote c else k.remote }
  d.post ⟨g.who, ((spreadCharge c (t.pcs.map fun q => (q, 1))).map fun q => (bucketKey 0 g.seat x q.1, q.2))
    ++ if cross then [(bucketKey 2 g.seat x 0, c)] else []⟩

/-- Tiles join into bursts of at least 4 KiB; the last may be shorter (R36). -/
def burstsOf (acc : Nat) : List Nat → List Nat
  | [] => if acc = 0 then [] else [acc]
  | n :: t => if 4096 ≤ acc + n then (acc + n) :: burstsOf 0 t else burstsOf (acc + n) t

/-- What each stack sends of a block of output rows, by the stacks that each row comes from: a whole tile of `tile` bytes where one stack
made it, its own finished rows of `row` bytes where more than one did; what the combiner finishes leaves no memory stack. -/
def sentOf (whole : Bool) (lowest tile row : Nat) (srcs : List (List Nat)) : List (Nat × Nat) :=
  let ss := srcs.flatten.eraseDups
  if ss.length ≤ 1 then [(ss.headD lowest, tile)]
  else if whole then []
  else (ss.map fun s => (s, (srcs.filter (· == [s])).length * row)).filter fun q => q.2 != 0

/-- The charges of the results: `srcs` gives the stacks that each output row comes from; a GATHER's tile is assembled whole (`whole`). -/
def Dev.chargeResults (d : Dev) (p : Place) (t : TableRec) (x : Mat) (whole : Bool) (srcs : List (List Nat)) : Dev :=
  let sends : List (Nat × Nat) := if (p.op.ref 1).kind = 1 then
      (List.range (ceilDiv x.rows 64)).flatMap fun i => (List.range x.blocks).flatMap fun j =>
        let cols := min 64 (x.cols - 64 * j)
        sentOf whole t.lowestStack (32 + payloadLen x.fmt (min 64 (x.rows - 64 * i)) cols) (rowBytes x.fmt cols) ((srcs.drop (64 * i)).take 64)
    else srcs.flatMap fun ss => sentOf false t.lowestStack (rowBytes x.fmt x.cols) 0 [ss]
  (List.range 12).foldl (fun d s => (burstsOf 0 ((sends.filter (·.1 == s)).map (·.2))).foldl (fun d n => d.shipResult p t s n) d) d

/-- ROWS counts index positions (R408). -/
def Dev.countRows (d : Dev) (p : Place) (n : Nat) : Dev := d.meter p.ctxIx fun t => { t with rows := add64 t.rows n }

/-- What a gather delivers: its memory work with the charges of its results, the result matrix, its elements, and whether a default row
is among its rows. -/
structure Gathered where
  work : Mio
  mat : Mat
  elems : List (List OutElem)
  dflt : Bool
  deriving DecidableEq, Repr

/-- The rows of a gather: elements by row, with the rows that are poisoned (R188, R189, R198) and the stacks that each comes from. -/
def Place.gathered (p : Place) (t : TableRec) (m : Mio) (es : List (List OutElem)) (bad : List Bool) (dflt : Bool) (srcs : List (List Nat)) : Gathered :=
  let x : Mat := ⟨p.op.fld 2 7 1, es.length, t.dimension, es.map fun r => r.map (·.code), [],
                  bad.map fun b => List.replicate (ceilDiv t.dimension 64) b⟩
  ⟨{ m with dev := m.dev.chargeResults p t x (p.op.opcode == 0x20) srcs }, x, es, dflt⟩

/-- What is dirty of a range is written back, or the work waits for a die (R189). -/
def Mio.writeOut (m : Mio) (x a n : Nat) : Mio :=
  if m.fault || m.waits then m
  else match m.dev.stuckLine (m.dev.rangeLines x a n) with
    | some l => m.reach (64 * l.atom)
    | none => m.flush (m.dev.rangeLines x a n)

/-- The place of a gather takes the flags of its rows and is finished. -/
def Place.gatherEnd (q : Place) (r : Gathered) : Place :=
  { q.finish.noteElems r.elems with
    flags := (q.flags.or (flagsOf r.elems)).or { defaultRows := r.dflt, poisoned := r.mat.anyPoison } }

/-- Delivers a gather's rows (R188): in memory, they reach their dies before it retires (R189, log 79). -/
def Dev.deliverRows (d : Dev) (p : Place) (r : Gathered) : Dev :=
  let o := p.op.ref 1
  let n := rowBytes r.mat.fmt r.mat.cols
  if o.kind = 1 then d.deliver p r.work 1 r.mat (·.gatherEnd r)
  else d.conclude p ((r.work.writeMat p.frontEnd o n r.mat).writeOut p.ctxIx o.addr (r.mat.rows * n)) fun d => d.updPlace p.id (·.gatherEnd r)

/-- The output rows, of those listed, that came by partial results: a parity mismatch on the way poisons them (R198, R480). -/
def hitRows (groups : List (Nat × List RowVal)) (mismatch : List Nat) : List Nat :=
  mismatch.filter fun i => groups.any fun g => g.1 == i && decide (1 < (stacksOfRows g.2).length)

/-- Mismatches on partial results are counted (R481). -/
def Mio.noteMismatch (m : Mio) (p : Place) (rows : List Nat) : Mio :=
  { m with dev := rows.foldl (fun d _ => d.noteParity (slotStack p.slot) (some p.seat)) m.dev }

/-- A poisoned row gives no element. -/
def zeroRow (n : Nat) : List OutElem := List.replicate n {}

/-! ## GATHER (R188) -/

/-- The table of a gather. -/
def Dev.opTable (d : Dev) (p : Place) : TableRec := (d.table (p.op.fld 2 4 2)).getD {}

/-- One element of a GATHER: rounded once to OUT_FORMAT (R185, R187). -/
def gatherElement (fmt : Nat) (x : Num) : OutElem :=
  match floatFmt fmt with
  | none => {}
  | some f => let r := f.convert x; { code := r.1, overflow := r.2.1 }

/-- What a GATHER reads and computes (R178, R179, R185 to R190). -/
def Dev.gatherResult (d : Dev) (p : Place) (mismatch : List Nat) : Gathered :=
  let t := d.opTable p
  let n := p.op.fld 2 0 4
  let w := p.op.fld 2 6 1
  let eg := ((d.ring p.ring).pin).getD 0
  let ix := (d.io p).readOperand p.frontEnd p 0 0 (n * w)
  let rows := listRows t w n ix.2.1
  let r := ix.1.readRows p t eg rows
  let groups := if (p.op.ref 1).kind = 1 then piecesOf 64 r.2 else []
  let hit := hitRows ((List.range n).map fun i => (i, groups.getD (i / 64) [])) mismatch
  let bad := ((listPoison w n ix.2.2).zipWith (fun a (v : RowVal) => a || v.poison) r.2).zipIdx.map fun b => b.1 || hit.contains b.2
  let es := (r.2.zip bad).map fun v =>
    if v.2 then zeroRow t.dimension else v.1.vals.map fun x => gatherElement (p.op.fld 2 7 1) x
  let psize := if p.op.fld 2 7 1 = 4 then 2 else 4
  let m := { r.1 with dev := (r.1.dev.countRows p n).chargePartials p groups fun k => k * t.dimension * psize }
  p.gathered t (m.noteMismatch p hit) es bad (rows.any Option.isNone) (r.2.map fun v => stacksOfRows [v])

/-- The work of GATHER. -/
def Dev.workGather (mismatch : List Nat) (d : Dev) (p : Place) : Dev :=
  let d := d.gatherPin p
  d.deliverRows p (d.gatherResult p mismatch)

/-- GATHER (R188). -/
def execGather (run : GatherRun) (s : State) : Host.Outcome State Fault Refusal :=
  .next { s with dev := s.dev.runOp run.place (·.opcode == 0x20) (Dev.workGather run.mismatch) }

/-! ## GATHER_POOL (R182, R188, R192 to R198) -/

/-- One pooled element of a bag: values and weights by position. -/
def poolElement (pool fmt : Nat) (vs : List (Num × Num)) : OutElem :=
  match floatFmt fmt with
  | none => {}
  | some f => if pool = 1 then poolMax f (vs.map (·.1)) else poolSum (pool == 3) f vs

/-- The pooled row of a bag. -/
def poolRow (pool fmt dim : Nat) (vs : List (RowVal × Num)) : List OutElem :=
  (List.range dim).map fun j => poolElement pool fmt (vs.map fun v => (v.1.vals.getD j .zero, v.2))

/-- Cuts a list into bags. -/
def bagsOf {α : Type} : List Nat → List α → List (List α)
  | [], _ => []
  | n :: t, xs => xs.take n :: bagsOf t (xs.drop n)

/-- What a GATHER_POOL reads and computes after BAGS is known: INDEX and WEIGHT are acquired now (R97, log 135). -/
def Dev.poolBags (d : Dev) (p : Place) (t : TableRec) (m : Mio) (sizes mismatch : List Nat) : Gathered :=
  let total := sizes.foldl (· + ·) 0
  let w := p.op.fld 2 6 1
  let eg := ((d.ring p.ring).pin).getD 0
  let fmt := p.op.fld 2 7 1
  let pool := p.op.fld 3 4 1
  let m := (m.acquireRef p 0 0 (total * w)).acquireRef p 5 0 (2 * total)
  let ix := if total = 0 then (m, ([], [])) else m.readOperand p.frontEnd p 0 0 (total * w)
  let wt := if total = 0 ∨ p.op.has p.payload 5 = false then (ix.1, ([], [])) else ix.1.readOperand p.frontEnd p 5 0 (2 * total)
  let weighted := p.op.has p.payload 5
  let rows := listRows t w total ix.2.1
  let r := wt.1.readRows p t eg rows
  let weights := (List.range total).map fun i => if weighted then fp16.decode (field wt.2.1 (2 * i) 2) else .fin false 1 0
  let bad := (List.range total).map fun i =>
    (listPoison w total ix.2.2).getD i false || (listPoison 2 total wt.2.2).getD i false || (r.2.getD i .empty).poison
  let bags := bagsOf sizes (r.2.zip weights)
  let parts := bags.map fun b => b.map (·.1)
  let hit := hitRows (parts.zipIdx.map fun g => (g.2, g.1)) mismatch
  let badBags := (bagsOf sizes bad).zipIdx.map fun b => b.1.any id || hit.contains b.2
  let es := (bags.zip badBags).map fun b => if b.2 then zeroRow t.dimension else poolRow pool fmt t.dimension b.1
  let psize := if pool = 1 then 4 else 32
  let m := { r.1 with dev := (r.1.dev.countRows p total).chargePartials p parts (fun _ => t.dimension * psize) }
  p.gathered t (m.noteMismatch p hit) es badBags (rows.any Option.isNone) (parts.map stacksOfRows)

/-- The work of GATHER_POOL: it reads BAGS before any index; poisoned BAGS poison every bag (R182, R198). -/
def Dev.workGatherPool (mismatch : List Nat) (d : Dev) (p : Place) : Dev :=
  let d := d.gatherPin p
  let t := d.opTable p
  let n := p.op.fld 2 0 4
  let bg := (d.io p).readOperand p.frontEnd p 4 0 (4 * n)
  let sizes := (List.range n).map fun i => field bg.2.1 (4 * i) 4
  if bg.1.waits || bg.1.fault || bg.1.short then d.conclude p bg.1 id
  else if bg.2.2.any id then
    d.deliverRows p (p.gathered t bg.1 (List.replicate n (zeroRow t.dimension)) (List.replicate n true) false (List.replicate n []))
  else if 16777216 < sizes.foldl (· + ·) 0 then d.conclude p bg.1 fun d => d.updPlace p.id (·.fail .badDescriptor)
  else d.deliverRows p (d.poolBags p t bg.1 sizes mismatch)

/-- GATHER_POOL (R188). -/
def execGatherPool (run : GatherRun) (s : State) : Host.Outcome State Fault Refusal :=
  .next { s with dev := s.dev.runOp run.place (·.opcode == 0x21) (Dev.workGatherPool run.mismatch) }

/-! ## PREFETCH_ROWS (R199 to R204) -/

/-- The INDEX reference of a PREFETCH_ROWS, read as STREAM (R200). -/
def OpWord.asStream (o : OpWord) : OpWord := o.setWord 0 (bitsAt (o.word 0) 0 50 + 2 ^ 50)

/-- The transfer that ships the atoms of a prefetched row, and whether it crosses (R340). -/
def Place.shipment (p : Place) (atoms : List Nat) : Nat × Bool :=
  (transferCharge (64 * atoms.length), memOwner (stackOf (64 * atoms.headD 0)) != slotStack p.slot)

/-- What the read of a prefetched row charges: its atoms and their shipment (R340 to R342). -/
def Dev.prefetchCharge (d : Dev) (p : Place) (row : Nat) (atoms : List Nat) : Charge :=
  let ps := joinChunks (atoms.map fun a => (64 * a, 64))
  let n := p.shipment atoms
  ⟨.row p.id row, d.dramBuckets 0 p.seat ((ps.map fun q => (q.1, 240 * (q.2 / 64))) ++ spreadCharge n.1 ps)
    ++ if n.2 then [(bucketKey 2 p.seat (stackOf (64 * atoms.headD 0)) 0, n.1)] else []⟩

/-- What that read counts in the meters (R408) and in BYTES_GATHERED, when it completes. -/
def Dev.meterPrefetch (d : Dev) (p : Place) (atoms : List Nat) : Dev :=
  let n := p.shipment atoms
  (d.meter p.ctxIx fun t =>
    { t with read := add64 t.read (240 * atoms.length + n.1), remote := if n.2 then add64 t.remote n.1 else t.remote }).countGathered p atoms.length

/-- The work of PREFETCH_ROWS: the distinct valid rows, each with its number of positions, go to their gather units (R199); those that are not
in the cache charge their reads. A position whose index arrived poisoned names no row (log 69). -/
def Dev.workPrefetch (d : Dev) (p : Place) : Dev :=
  let d := d.gatherPin p
  let t := d.opTable p
  let n := p.op.fld 2 0 4
  let w := p.op.fld 2 6 1
  let eg := ((d.ring p.ring).pin).getD 0
  let q := if paysFor p.payload 0 then p else { p with op := p.op.asStream }
  let ix := (d.io p).readOperand p.frontEnd q 0 0 (n * w)
  let po := listPoison w n ix.2.2
  let named := ((listRows t w n ix.2.1).zip po).filterMap fun r => if r.2 then none else some r.1
  let rows := named.filterMap id
  d.conclude p ix.1 fun d =>
    let d := d.updPlace p.id fun q =>
      { q.finish with prefetch := rows.eraseDups.map fun r => (r, rows.count r),
                      flags := q.flags.or { defaultRows := named.any Option.isNone, poisoned := po.any id } }
    (rows.eraseDups.filter fun r => (d.prefetched p t r eg).isNone).foldl (fun d r => d.post (d.prefetchCharge p r (d.rowAtomsOf p t 0 r eg))) d

/-- PREFETCH_ROWS (R199). -/
def execPrefetchRows (place : Nat) (s : State) : Host.Outcome State Fault Refusal :=
  .next { s with dev := s.dev.runOp place (·.opcode == 0x22) Dev.workPrefetch }

/-- The kind that the lines of a prefetched row ask for (R200); `c` is the number of its positions. -/
def OpWord.prefetchHint (o : OpWord) (pay : Option Payload) (c : Nat) : Hint :=
  let r := if paysFor pay 0 then Opref.ofNat 0 else o.ref 0
  match r.hint with
  | 2 => .keep
  | 3 => .lastUse (r.uses + 1)
  | _ => .lastUse (min c 16)

/-- The table and epoch that a landing line records (R201): those of a cancelled prefetch serve no gather (R203, log 111). -/
def Place.rowMark (p : Place) (table : Nat) : Nat × Nat := (table, if p.cancelled then 2 ^ 64 else p.epoch.getD 0)

/-- A line of a prefetched row lands (R199 to R201, R338), or of a cancelled one as reclaimable (R203). -/
def Dev.landLine (d : Dev) (p : Place) (table atom : Nat) (x : List Byte × Bool) (h : Hint) : Dev :=
  let g := p.frontEnd
  let d := d.dropLines fun l => l.stack == g.stack && l.tag == tagOf g.ctx && l.atom == atom
  let q := if p.cancelled then (d, LineKind.reclaimable) else d.allocKind g.stack (tagOf g.ctx) atom h
  q.1.allocate ⟨g.stack, tagOf g.ctx, atom, x.1, false, x.2, q.2, 0, some (p.rowMark table)⟩

/-- The atoms as which the lines of a row stand in the cache: those of its slot; the header atom only where the version is in the slot. -/
def Dev.lineAtoms (d : Dev) (p : Place) (t : TableRec) (row ep : Nat) : List Nat :=
  if (d.source p.id 0 t.table row ep).isSome then (t.slotOf row).take t.atoms else t.slotOf row

/-- A row of a PREFETCH_ROWS has landed; a cancelled one of a seat that is resetting leaves the scoreboard with its last (R203, R405). -/
def Dev.rowLanded (d : Dev) (p : Place) (row : Nat) : Dev :=
  let d := d.updPlace p.id fun q => { q with prefetch := q.prefetch.filter (·.1 != row), stall := .none }
  if p.cancelled && (d.seat p.seat).state == .resetting then { d with board := d.board.filter fun q => !(q.id == p.id && q.prefetch.isEmpty) }
  else d

/-- The oldest row in flight of a PREFETCH_ROWS whose request has issued lands, or is found present (R199, R343). -/
def Dev.landRow (d : Dev) (p : Place) : Dev :=
  match p.prefetch.find? fun e => !d.reg.waits (.row p.id e.1) with
  | none => d
  | some (row, c) =>
    let t := d.opTable p
    let ep := p.epoch.getD 0
    if !p.cancelled && (d.prefetched p t row ep).isSome then d.rowLanded p row
    else
      let r := ({ dev := d } : Mio).rowAtoms p t 0 row ep
      if r.1.waits then (d.updPlace p.id (·.noted r.1)).stallPlace p r.1.wait
      else if r.1.fault then (r.1.dev).updPlace p.id fun q => { (q.noted r.1).fail .segmentFault with prefetch := [] }
      else
        let e := (r.1.dev.meterPrefetch p (d.rowAtomsOf p t 0 row ep)).updPlace p.id (·.noted r.1)
        ((d.lineAtoms p t row ep).zip r.2).foldl (fun e x => e.landLine p t.table x.1 x.2 (p.op.prefetchHint p.payload c)) e |>.rowLanded p row

/-- PREFETCH_LINE_LAND (R199). -/
def execPrefetchLineLand (place : Nat) (s : State) : Host.Outcome State Fault Refusal :=
  .next (match s.dev.place place with
    | none => s
    | some p => if p.op.opcode = 0x22 ∧ p.phase = .finished then { s with dev := s.dev.landRow p } else s)

end Sys2Proof.Machine
end

