-- ==== Sys2Proof/Machine/Tricks.lean ====
section
/-! DEFINITION. Live table updates (06): tricks, settling, epoch pins, row migration and the rebuild after a warm reset (R214 to R251). -/

namespace Sys2Proof.Machine

/-- The place ends with BAD_DESCRIPTOR. -/
def Dev.failBad (d : Dev) (p : Place) : Dev := d.updPlace p.id (·.fail .badDescriptor)

/-! ## TRICK_OPEN (R214 to R216, R245) -/

/-- The work of TRICK_OPEN: a handle in use is refused at once; otherwise the trick is admitted or waits. -/
def Dev.workOpen (d : Dev) (p : Place) : Dev :=
  let h := p.op.fld 0 0 4
  let rows := p.op.fld 0 4 4
  if (d.trk.byHandle p.seat h).isSome then d.failBad p
  else match d.trk.admission p.seat rows with
    | none => d.stallPlace p .trickBackpressure
    | some e =>
      if d.sramLost .trickTable e then d.stallPlace p .sramFatal
      else
      let t : Trick := { entry := e, handle := h, seat := p.seat, ring := p.ring, rowsMax := rows, cascade := p.op.fld 1 0 1 == 1,
                         state := .open_, handleInUse := true }
      ({ d with trk := { d.trk with tricks := d.trk.tricks ++ [t] } }).updPlace p.id Place.finish

/-- TRICK_OPEN (R214). -/
def execTrickOpen (place : Nat) (s : State) : Host.Outcome State Fault Refusal :=
  .next { s with dev := s.dev.runOp place (·.opcode == 0x30) Dev.workOpen }

/-- TRICK_ADMIT (R216): a waiting TRICK_OPEN is admitted. -/
def execTrickAdmit (place : Nat) (s : State) : Host.Outcome State Fault Refusal :=
  .next (match s.dev.place place with
    | none => s
    | some p =>
      if p.op.opcode = 0x30 ∧ p.phase = .running ∧ (s.dev.trk.admission p.seat (p.op.fld 0 4 4)).isSome = true then
        { s with dev := s.dev.workOpen p }
      else s)

/-! ## TRICK_PUT (R217 to R221) -/

/-- A PUT aborts its trick and ends with ABORTED (R221). -/
def Dev.abortPut (d : Dev) (p : Place) (t : Trick) (f : Flags) (o : Option Offender) : Dev :=
  (d.abortTrick t f).updPlace p.id fun q => { q.fail .aborted with flags := q.flags.or f, offender := o }

/-- The first row of a PUT that its codec refuses, in list order: the abort's flags and offender, or the row whose check failed twice
(R210 to R212, R274). -/
inductive PutCheck where
  | good (rows : List (Nat × Coded))
  | refused (f : Flags) (o : Option Offender)
  | codec (row : Nat)
  deriving DecidableEq, Repr

/-- Encodes the rows of a PUT: list position, row, codes. A row that fails the codec's check (R211), or whose position `twice` lists as failing
it twice for a fault of the codec, is refused; one that fails once passes the second time (R212, log 83). -/
def encodeRows (t : TableRec) (fmt : Nat) (twice : List Nat) : List (Nat × Nat × List Nat) → PutCheck
  | [] => .good []
  | (i, row, codes) :: rest => match t.encode fmt codes with
    | .invalid c => .refused { invalid := true } (some ⟨i, c, 0⟩)
    | .overflow => .refused { overflow := true } none
    | .ok c =>
      if twice.contains i || !t.rowChecks fmt codes c then .codec row
      else match encodeRows t fmt twice rest with
        | .good rs => .good ((row, c) :: rs)
        | r => r

/-- The staging record of an encoded row, with the pseudo-channel of its home (R226). -/
def stagedRow (t : TableRec) (k : Trick) (order row : Nat) (c : Coded) : Staged × Nat :=
  let h := t.place row
  let b := t.slotBytes c
  ({ stack := h.stack, granule := 0, table := t.table, row := row, kind := 1, trick := k.entry, handle := k.handle, seat := k.seat,
     pc := h.pc, bytes := b.1, header := b.2, poison := false, epoch := none, order := order }, h.pc)

/-- The atoms of a staging record: its header atom and its row atoms (R226). -/
def Staged.allAtoms (r : Staged) : List Nat := (List.range r.atoms).map (r.addr / 64 + ·)

/-- An agent for what stays with memory stack `x`: its transfers cross no compute-to-compute link. -/
def Agent.beside (g : Agent) (x : Nat) : Agent := { g with stack := memOwner x }

/-- Charges the rows of a PUT: REMOTE of each stack for their transfer to its codec, WRITE for their records (R217, R342). -/
def Dev.chargePut (d : Dev) (p : Place) (rs : List Staged) (rowLen : Nat) : Dev :=
  (List.range 12).foldl (fun d x =>
    let mine := rs.filter (·.stack == x)
    if mine.isEmpty then d
    else (d.chargeRemote p.frontEnd x (rangeCharge (mine.length * rowLen))).transferAtoms (p.frontEnd.beside x) true (mine.flatMap Staged.allAtoms)) d

/-- Records reach the dies that they are written to. -/
def Mio.reachRecords (m : Mio) (rs : List Staged) : Mio := rs.foldl (fun m r => r.allAtoms.foldl (fun m a => m.reach (64 * a)) m) m

/-- Where a place stands in the order of its ring: that of the operation that the ring carries, then its place in the body (R118, R219). -/
def Place.ringKey (p : Place) : Nat := p.parent.getD p.id * 2 ^ 32 + if p.parent.isSome then p.bodyIx + 1 else 0

/-- The rows of a PUT are staged, or it waits for space (R219, R226, R239). -/
def Dev.stagePut (d : Dev) (p : Place) (m : Mio) (k : Trick) (t : TableRec) (rows : List (Nat × Coded)) (dflt : Bool) (rowLen : Nat) : Dev :=
  let rs := rows.zipIdx.map fun r => stagedRow t k (p.ringKey * 2 ^ 32 + r.2) r.1.1 r.1.2
  match m.dev.trk.stageAll rs with
  | .error x => (d.trkLeaf 0 (some x) p.seat).stallPlace p .trickBackpressure
  | .ok trk =>
    let new := trk.staged.drop m.dev.trk.staged.length
    let m := rows.foldl (fun m r => m.lookup t r.1) (m.reachRecords new)
    d.conclude p { m with dev := (m.dev.setTrk trk).chargePut p new rowLen } fun d =>
      (d.updTrick k.entry fun t => { t with staged := t.staged + rows.length }).updPlace p.id fun q =>
        { q.finish with flags := q.flags.or { defaultRows := dflt } }

/-- The work of TRICK_PUT on an open trick. `twice` lists the positions whose encode fails the codec's check twice (R212). -/
def Dev.putRows (d : Dev) (p : Place) (k : Trick) (twice : List Nat) : Dev :=
  let t := d.opTable p
  let n := p.op.fld 2 0 4
  let w := p.op.fld 2 6 1
  let fmt := p.op.fld 2 7 1
  let rb := rowBytes fmt t.dimension
  let ix := (d.io p).readOperand p.frontEnd p 0 0 (n * w)
  let src := ix.1.readOperand p.frontEnd p 1 0 (n * rb)
  let rows := listRows t w n ix.2.1
  let dflt := rows.any Option.isNone
  let base : Flags := { defaultRows := dflt }
  let items := rows.zipIdx.filterMap fun r => r.1.map fun row => (r.2, row, rowCodes fmt t.dimension (slice src.2.1 (r.2 * rb) rb))
  if src.1.waits || src.1.fault || src.1.short then d.conclude p src.1 id
  else if ix.2.2.any id || src.2.2.any id then d.conclude p src.1 fun d => d.abortPut p k { poisoned := true } none
  else if k.rowsMax < k.staged + items.length then d.conclude p src.1 fun d => d.abortPut p k (base.or { overflow := true }) none
  else match encodeRows t fmt twice items with
    | .refused f o => d.conclude p src.1 fun d => d.abortPut p k (base.or f) o
    | .codec row => d.conclude p src.1 fun d =>
      let x := (t.place row).stack
      ((d.trkLeaf 1 (some x) p.seat).integrity 5 x (some p.seat)).abortPut p k (base.or { poisoned := true }) none
    | .good rs => d.stagePut p src.1 k t rs dflt rb

/-- The work of TRICK_PUT (R214, R221, R222). -/
def Dev.workPut (twice : List Nat) (d : Dev) (p : Place) : Dev :=
  match d.trk.byHandle p.seat (p.op.fld 3 0 4) with
  | none => d.failBad p
  | some k =>
    if k.ring ≠ p.ring then d.failBad p
    else if d.sramLost .trickTable k.entry then d.stallPlace p .sramFatal
    else match k.state with
      | .open_ => d.putRows p k twice
      | .aborted => d.updPlace p.id (·.fail .aborted)
      | _ => d.failBad p

/-- TRICK_PUT (R217): `once` and `twice` list the positions whose encode fails the codec's check once, and twice (R212). -/
def execTrickPut (place : Nat) (once twice : List Nat) (s : State) : Host.Outcome State Fault Refusal :=
  .next { s with dev := s.dev.runOp place (·.opcode == 0x31) (Dev.workPut (twice.filter fun i => !once.contains i)) }

/-! ## TRICK_COMMIT and TRICK_ABORT (R221 to R223) -/

/-- Staging of the PUTs of a trick that stand ahead of a place in their ring is complete (R221). -/
def Dev.putsDone (d : Dev) (t : Trick) (p : Place) : Bool :=
  !d.board.any fun q => q.op.opcode == 0x31 && q.seat == t.seat && q.ring == t.ring && q.op.fld 3 0 4 == t.handle && !q.bad && !q.skipped
    && decide (q.ringKey < p.ringKey) && (q.phase == .waiting || q.phase == .running)

/-- The work of TRICK_COMMIT: the trick moves to COMMIT once every earlier PUT of it has been staged; until then the COMMIT waits (R221). -/
def Dev.workCommit (d : Dev) (p : Place) : Dev :=
  match d.trk.byHandle p.seat (p.op.fld 0 0 4) with
  | none => d.failBad p
  | some k =>
    if k.ring ≠ p.ring then d.failBad p
    else if k.commit = some p.id then d
    else if d.sramLost .trickTable k.entry then d.stallPlace p .sramFatal
    else match k.state with
      | .open_ => if d.putsDone k p then d.updTrick k.entry fun t => { t with state := .commit, commit := some p.id } else d
      | .aborted => d.updPlace p.id (·.fail .aborted)
      | _ => d.failBad p

/-- TRICK_COMMIT (R223). -/
def execTrickCommit (place : Nat) (s : State) : Host.Outcome State Fault Refusal :=
  .next { s with dev := s.dev.runOp place (·.opcode == 0x32) Dev.workCommit }

/-- The work of TRICK_ABORT. -/
def Dev.workAbort (d : Dev) (p : Place) : Dev :=
  match d.trk.byHandle p.seat (p.op.fld 0 0 4) with
  | none => d.failBad p
  | some k =>
    if k.ring ≠ p.ring then d.failBad p
    else if d.sramLost .trickTable k.entry then d.stallPlace p .sramFatal
    else match k.state with
      | .open_ => (d.abortTrick k {}).updPlace p.id Place.finish
      | .aborted => d.updPlace p.id (·.fail .aborted)
      | _ => d.failBad p

/-- TRICK_ABORT (R221). -/
def execTrickAbort (place : Nat) (s : State) : Host.Outcome State Fault Refusal :=
  .next { s with dev := s.dev.runOp place (·.opcode == 0x33) Dev.workAbort }

/-- The next record of the commit log cannot reach M0's die now (R232, R356). -/
def Dev.logBlocked (d : Dev) : Bool := d.blocked (stagingBase 0 + 64 * d.trk.freeSlot)

/-- TRICK_PREPARED (R221): every die reports prepared, or one could not write a record (`failed`). The record of the commit log is written
once M0's die takes it (R232). -/
def Dev.prepared (d : Dev) (t : Trick) (failed : Bool) : Dev :=
  if t.state != .commit || t.migrate.isSome || d.logBlocked || d.sramLost .trickTable t.entry then d
  else if failed then d.abortTrick t { poisoned := true }
  else if t.cascade then d.prepareTrick t
  else d.commitTrick t 0 0

/-- TRICK_PREPARED (R221). -/
def execTrickPrepared (trick : Nat) (failed : Bool) (s : State) : Host.Outcome State Fault Refusal :=
  .next (match s.dev.trk.trick trick with
    | none => s
    | some t => { s with dev := s.dev.prepared t failed })

/-- A die can mark the records of a trick: it takes the write of each header atom (R232, R356). -/
def Dev.mayAck (d : Dev) (t : Trick) (x : Nat) : Bool :=
  t.state == .committing && t.unacked.contains x && !d.sramLost .trickTable t.entry
    && (d.trk.recordsOf t).all fun r => r.stack != x || !d.blocked r.addr

/-- DIE_EPOCH_ACK (R232). -/
def execDieEpochAck (trick stack : Nat) (s : State) : Host.Outcome State Fault Refusal :=
  .next (match s.dev.trk.trick trick with
    | none => s
    | some t => if s.dev.mayAck t stack then { s with dev := s.dev.ackEpoch t stack } else s)

/-! ## Settling (R236, R237) -/

/-- Settling of a trick may start: the floor has reached its epoch, and the active image places its tables (R236, R250, R251). -/
def Dev.maySettle (d : Dev) (t : Trick) : Bool :=
  t.state == .committed && !d.trk.rebuilding && decide (t.epoch.getD 0 ≤ d.pinFloor) && !d.held
    && (d.trk.tablesOf t).all fun x => (d.table x).isSome

/-- SETTLING_START (R236). -/
def execSettlingStart (trick : Nat) (s : State) : Host.Outcome State Fault Refusal :=
  .next (match s.dev.trk.trick trick with
    | none => s
    | some t =>
      if s.dev.maySettle t then
        let k := s.dev.trk
        { s with dev := { s.dev with trk := { k with settling := insertAsc t.entry k.settling, floor := max k.floor (t.epoch.getD 0) } } }
      else s)

/-- An older committed record of the same row is still to be settled (R237). -/
def Trk.olderPending (k : Trk) (r : Staged) : Bool :=
  k.staged.any fun q => q.kind == 1 && q.epoch.isSome && q.table == r.table && q.row == r.row && q.newer r

/-- The context that a trick's settling is charged to: that of its ring, while the ring is its seat's. -/
def Dev.trickCtx (d : Dev) (t : Trick) : Nat :=
  if (d.ringRec t.ring).seat = t.seat then t.seat * 16 + (d.ringRec t.ring).context else t.seat * 16

/-- The copies of a record's row: replicas and moved rows (R237, R241). -/
def Trk.copiesOf (k : Trk) (r : Staged) : List Staged := k.staged.filter fun q => q.kind == 2 && q.table == r.table && q.row == r.row

/-- What settling a record reads and writes, as address and length: the record; the home slot with a split row's header; the records of the
copies (R237). -/
def Dev.settleRanges (d : Dev) (t : TableRec) (r : Staged) : List (Nat × Nat) :=
  let h := t.place r.row
  (r.addr, 64 * r.atoms) :: (h.addr, 64 * t.slotAtoms) :: ((if t.isSplit then [(h.header, 4)] else [])
    ++ (d.trk.copiesOf r).map fun q => (q.addr, 64 * q.atoms))

/-- A write of settling: device-internal, charged to WRITE of its stack alone (R237); poison that the record's atoms held goes with it (R352). -/
def Dev.settleWrite (d : Dev) (g : Agent) (a : Nat) (bs : List Byte) (po : List Bool) : Dev :=
  let d := d.writeInternal a bs
  let d := { d with mem := (List.range bs.length).foldl (fun m i => if po.getD i false then m.setPoison (a + i) true else m) d.mem }
  d.transferRange (g.beside (stackOf a)) true a bs.length

/-- Copies a record, as its atoms read, into its home slot and every replica (R237, log 89). -/
def Dev.settleRecord (d : Dev) (t : TableRec) (x : Nat) (r : Staged) : Dev :=
  let h := t.place r.row
  let g : Agent := ⟨x, memOwner r.stack, .loose⟩
  let head := d.readRange { host := true } r.addr 64
  let row := head.1.readRange { host := true } (r.addr + 64) r.bytes.length
  let n := 64 * t.slotAtoms
  let d := row.1.settleWrite g h.addr (slice row.2.1 0 n) row.2.2
  let d := if t.isSplit then d.settleWrite g h.header (slice head.2.1 24 4) (head.2.2.take 4) else d
  let poison := row.2.2.any id || (t.isSplit && head.2.2.any id)
  let copy := fun (q : Staged) =>
    if q.kind = 2 ∧ q.table = r.table ∧ q.row = r.row then { q with bytes := row.2.1, header := r.header, poison := poison } else q
  let copies := d.trk.copiesOf r
  let d := d.setTrk { d.trk with staged := d.trk.staged.map copy }
  copies.foldl (fun d q => d.transferAtoms (g.beside q.stack) true q.allAtoms) d

/-- The copies of a committed record have landed: its directory entry retires (R237). It waits for every die that it reads or writes (R356). -/
def Dev.settleDone (d : Dev) (x granule : Nat) : Dev :=
  match d.trk.staged.find? fun r => r.stack == x && r.granule == granule && r.kind == 1 && r.epoch.isSome with
  | none => d
  | some r => match d.trk.trick r.trick, d.table r.table with
    | some t, some tab =>
      if !d.trk.settling.contains t.entry || d.trk.olderPending r || (d.settleRanges tab r).any (fun a => d.rangeBlocked a.1 a.2)
          || d.rowSram (tab.place r.row).stack r.table r.row then d
      else
        let d := d.settleRecord tab (d.trickCtx t) r
        let k := { d.trk with staged := d.trk.staged.filter fun q => !(q.stack == x && q.granule == granule) }
        { d with trk := k.dropSettled }
    | _, _ => d

/-- SETTLE_DONE (R237). -/
def execSettleDone (stack granule : Nat) (s : State) : Host.Outcome State Fault Refusal :=
  .next { s with dev := s.dev.settleDone stack granule }

/-! ## EPOCH_PIN (R234) -/

/-- The work of EPOCH_PIN. -/
def Dev.workPin (d : Dev) (p : Place) : Dev :=
  let pin := fun (e : Nat) => ((d.updRing p.ring fun r => { r with pin := some e }).updPlace p.id Place.finish).pruneLists
  if p.op.fld 1 0 1 = 0 then pin d.trk.lce
  else if d.trk.floor ≤ p.op.word 0 ∧ p.op.word 0 ≤ d.trk.lce then pin (p.op.word 0)
  else d.failBad p

/-- EPOCH_PIN (R234). -/
def execEpochPin (place : Nat) (s : State) : Host.Outcome State Fault Refusal :=
  .next { s with dev := s.dev.runOp place (·.opcode == 0x34) Dev.workPin }

/-! ## Row migration (R241 to R244) -/

/-- The location list that a migration makes of the present one (R241): places of the copies, and whether the row is moved. -/
def newLocations (cur : List (Nat × Nat) × Bool) (mode stack : Nat) (pcs : List Nat) : List (Nat × Nat) × Bool :=
  let new := pcs.map fun p => (stack, p)
  if mode = 2 then (cur.1.filter fun x => !new.contains x, cur.2)
  else (cur.1 ++ new.filter (fun x => !cur.1.contains x), cur.2 || mode == 0)

/-- The present location list of a row. -/
def Trk.present (k : Trk) (table row : Nat) : List (Nat × Nat) × Bool :=
  match k.locations table row (2 ^ 64) with
  | some r => (r.places, r.moved)
  | none => ([], false)

/-- Rows with an entry in the replica map. -/
def Trk.mapUsed (k : Trk) : Nat := ((k.replicas.map fun r => (r.table, r.row)).eraseDups).length

/-- The checks of R242 (log 81). -/
def Dev.migrateOk (d : Dev) (t : TableRec) (row mode stack : Nat) (pcs : List Nat) : Bool :=
  let cur := d.trk.present t.table row
  let new := newLocations cur mode stack pcs
  decide (row < t.rows) && !pcs.isEmpty && (mode != 0 || pcs.length == 1) && decide (stack < 12)
    && decide (new.1.length + (if new.2 then 0 else 1) ≤ 4) && !(new.2 && new.1.isEmpty)
    && (cur != ([], false) || new == ([], false) || decide (d.trk.mapUsed < 65536))

/-- The KIND 3 records of a migration (R243). -/
def migrationCopies (k : Trick) (m : Migration) (cur : List (Nat × Nat)) (bytes header : List Byte) (poison : Bool) : List (Staged × Nat) :=
  if m.mode = 2 then []
  else (m.pcs.filter fun p => !cur.contains (m.stack, p)).map fun p =>
    ({ stack := m.stack, granule := 0, table := m.table, row := m.row, kind := 3, trick := k.entry, handle := 0, seat := k.seat,
       pc := p, bytes := bytes, header := header, poison := poison, epoch := none, order := 0 }, p)

/-- A trick that writes a row has its commit record at an epoch above `er`. -/
def Trk.writtenAfter (k : Trk) (table row er : Nat) : Bool :=
  k.tricks.any fun t => decide (er < t.epoch.getD 0) && (k.recordsOf t).any fun r => r.kind == 1 && r.table == table && r.row == row

/-- A migration reads its row at Er, the present LCE, as a gather unit does, and writes the copies (R243); it waits where memory or space is
not to be had (R239, log 88). -/
def Dev.migrateRead (d : Dev) (p : Place) (k : Trick) (m : Migration) : Dev :=
  let t := (d.table m.table).getD {}
  let er := d.trk.lce
  let a := (d.io p).rowAtoms p t 0 m.row er
  let header := if t.isSplit then headerIn (d.source p.id 0 t.table m.row er) t m.row (a.2.getD t.atoms ([], false)).1 else []
  let rs := migrationCopies k m (d.trk.present m.table m.row).1 ((a.2.take t.atoms).flatMap (·.1)) header (a.2.any (·.2))
  if a.1.waits then d.conclude p a.1 id
  else if a.1.fault then d.conclude p { a.1 with dev := { a.1.dev with trk := a.1.dev.trk.free k.entry } } id
  else match a.1.dev.trk.stageAll rs with
    | .error x => (d.trkLeaf 0 (some x) p.seat).stallPlace p .trickBackpressure
    | .ok trk =>
      let new := trk.staged.drop a.1.dev.trk.staged.length
      let dev := (a.1.dev.chargeAtoms p.frontEnd (d.rowAtomsOf p t 0 m.row er)).setTrk trk
      d.conclude p { (a.1.reachRecords new) with dev := new.foldl (fun d r => d.transferAtoms p.frontEnd true r.allAtoms) dev } fun d =>
        (d.updTrick k.entry fun t => { t with state := .commit, migrate := some { m with er := er, conflict := d.trk.writtenAfter m.table m.row er } }).updPlace
          p.id fun q => { q with stall := .none }

/-- The work of ROW_MIGRATE (R241): a trick of one row (log 82). -/
def Dev.workMigrate (d : Dev) (p : Place) : Dev :=
  match d.trk.tricks.find? fun t => t.commit == some p.id && t.migrate.isSome with
  | some k => match k.state, k.migrate with
    | .open_, some m => d.migrateRead p k m
    | _, _ => d
  | none =>
    let t := (d.table (p.op.fld 1 0 2)).getD {}
    let pcs := setBits 64 (p.op.word 2)
    let mode := p.op.fld 1 2 1
    if !d.migrateOk t (p.op.word 0) mode (p.op.fld 1 3 1) pcs then d.failBad p
    else match d.trk.admission p.seat 1 with
      | none => d.stallPlace p .trickBackpressure
      | some e =>
        let m : Migration := { table := t.table, row := p.op.word 0, mode := mode, stack := p.op.fld 1 3 1, pcs := pcs, er := d.trk.lce }
        let k : Trick := { entry := e, handle := 0, seat := p.seat, ring := p.ring, rowsMax := 1, cascade := false, state := .open_,
                           handleInUse := false, commit := some p.id, migrate := some m }
        ({ d with trk := { d.trk with tricks := d.trk.tricks ++ [k] } }).migrateRead p k m

/-- ROW_MIGRATE_MOVE (R241). -/
def execRowMigrateMove (place : Nat) (s : State) : Host.Outcome State Fault Refusal :=
  .next { s with dev := s.dev.runOp place (fun o => o.opcode == 0x35 && o.fld 1 2 1 == 0) Dev.workMigrate }

/-- ROW_MIGRATE_REPLICATE (R241). -/
def execRowMigrateReplicate (place : Nat) (s : State) : Host.Outcome State Fault Refusal :=
  .next { s with dev := s.dev.runOp place (fun o => o.opcode == 0x35 && o.fld 1 2 1 == 1) Dev.workMigrate }

/-- ROW_MIGRATE_DROP_REPLICA (R241). -/
def execRowMigrateDropReplica (place : Nat) (s : State) : Host.Outcome State Fault Refusal :=
  .next { s with dev := s.dev.runOp place (fun o => o.opcode == 0x35 && o.fld 1 2 1 == 2) Dev.workMigrate }

/-- A migration commits: its copies become KIND 2 and the new list takes effect at Em (R243). -/
def Dev.migrateCommit (d : Dev) (k : Trick) (m : Migration) : Dev :=
  let new := newLocations (d.trk.present m.table m.row) m.mode m.stack m.pcs
  let turn := fun (r : Staged) => if r.trick = k.entry ∧ r.kind = 3 then { r with kind := 2 } else r
  let entry : Replica := ⟨m.table, m.row, d.trk.lastEpoch + 1, new.1, new.2⟩
  (d.setTrk { d.trk with staged := d.trk.staged.map turn, replicas := d.trk.replicas ++ [entry] }).commitTrick k 0 0

/-- The checks of R242 hold for a migration as the row stands now. -/
def Dev.migrationOk (d : Dev) (m : Migration) : Bool := d.migrateOk ((d.table m.table).getD {}) m.row m.mode m.stack m.pcs

/-- A migration ends without its copies: they are discarded and its entry is free. -/
def Dev.dropMigration (d : Dev) (k : Trick) : Dev := { d with trk := (d.trk.discardRows k.entry).free k.entry }

/-- A migration meets a conflict: it discards its copies and reads again, or after 16 of them ends with ABORTED (R243). -/
def Dev.migrateConflict (d : Dev) (p : Place) (k : Trick) (m : Migration) : Dev :=
  let d := { d with trk := { d.trk.discardRows k.entry with retries := satInc32 d.trk.retries 1 } }
  if 16 ≤ m.retries + 1 then ((d.dropMigration k).trkLeaf 2 none p.seat).updPlace p.id (·.fail .aborted)
  else
    let m := { m with retries := m.retries + 1 }
    (d.updTrick k.entry fun t => { t with state := .open_, migrate := some m }).migrateRead p k m

/-- MIGRATE_COMMIT_CHECK (R243): the commit waits for the dies that it writes (R232, R356). Another migration of the row may have taken effect
meanwhile, so the limits of R242 are checked again. -/
def Dev.migrateCheck (d : Dev) (p : Place) : Dev :=
  match d.trk.tricks.find? fun t => t.commit == some p.id && t.state == .commit with
  | none => d
  | some k => match k.migrate with
    | none => d
    | some m =>
      if d.logBlocked || (d.trk.recordsOf k).any fun r => d.blocked r.addr then d
      else if m.conflict then d.migrateConflict p k m
      else if d.migrationOk m then d.migrateCommit k m
      else (d.dropMigration k).updPlace p.id (·.fail .badDescriptor)

/-- MIGRATE_COMMIT_CHECK (R243). -/
def execMigrateCommitCheck (place : Nat) (s : State) : Host.Outcome State Fault Refusal :=
  .next (match s.dev.place place with
    | none => s
    | some p => if p.op.opcode = 0x35 ∧ p.phase = .running then { s with dev := s.dev.migrateCheck p } else s)

/-- OVERLAY_SPACE_FREED (R239): a waiting PUT or ROW_MIGRATE proceeds. -/
def execOverlaySpaceFreed (place : Nat) (s : State) : Host.Outcome State Fault Refusal :=
  .next (match s.dev.place place with
    | none => s
    | some p =>
      if p.phase = .running ∧ p.stall = .trickBackpressure then
        { s with dev := if p.op.opcode = 0x31 then s.dev.workPut [] p else if p.op.opcode = 0x35 then s.dev.workMigrate p else s.dev }
      else s)

/-! ## After a warm reset (R250, R251) -/

/-- The overlay as it is rebuilt: a recorded decision completes its commit, and LCE is the highest epoch of a COMMIT record. -/
def Trk.rebuild (k : Trk) : Trk :=
  let lce := k.topEpoch
  let mark := fun (r : Staged) => match r.epoch, k.tricks.find? fun t => t.entry == r.trick && t.state == .committing with
    | none, some t => { r with epoch := t.epoch }
    | _, _ => r
  let tricks := k.tricks.map fun t => if t.state = .committing then { t with state := .committed, unacked := [] } else t
  ({ k with staged := k.staged.map mark, tricks := tricks, lce := lce, lastEpoch := lce, rebuilding := false }).dropSettled

/-- OVERLAY_REBUILD_DONE (R251). -/
def execOverlayRebuildDone (s : State) : Host.Outcome State Fault Refusal :=
  .next (if s.dev.trk.rebuilding then { s with dev := ((s.dev.setTrk s.dev.trk.rebuild).finishDecided).pruneLists.setLeaf .trk 4 } else s)

end Sys2Proof.Machine
end

