-- ==== Sys2Proof/Machine/Link.lean ====
section
/-! DEFINITION. Quinay ports (13): cables and port states, the flit layer with retry and credits, and how messages leave and are
accepted (R442 to R460, R473, R474, R582, R583). -/

namespace Sys2Proof.Machine

/-! ## Leaves and port states (R447) -/

/-- A CASCADE leaf event with its port and module (R476, R477). -/
def Dev.qlkLeaf (d : Dev) (bit port module : Nat) : Dev :=
  ({ d with qlk := { d.qlk with infoPort := port, infoModule := module } }).setLeaf .qlk bit

/-- A port enters REFUSED with a reason: the cable is held in low-power mode again (R447, R448, R583). -/
def Dev.refusePort (d : Dev) (p reason : Nat) : Dev :=
  let d := d.updPort p fun k => { k with state := .refused, refuse := reason, lowPower := true, locked := false, replay := [], outbox := [] }
  d.qlkLeaf 0 p (d.port p).farModule

/-- The modules whose messages a port carries (R456). -/
def Dev.routed (d : Dev) (p : Nat) : List Nat := (d.qlk.route.filter fun r => r.2.testBit 7 && r.2 % 8 == p).map (·.1)

/-- A port enters UP from another state than RETRAINING: the counts of its pairs start at 0, its credits are whole (R452, R455). -/
def Dev.linkUp (d : Dev) (p : Nat) : Dev :=
  let ms := d.routed p
  let clear := fun (m : SMap Nat) => m.filter fun e => !ms.contains e.1
  let d := { d with qlk := { d.qlk with xsend := clear d.qlk.xsend, xrecv := clear d.qlk.xrecv } }
  d.updPort p fun k => { k with state := .up, refuse := 0, retrainFails := 0, nakRun := none, nakSent := false, replay := [], outbox := [],
                                creditData := 1024, creditControl := 64, freedData := 0, freedControl := 0 }

/-- An operation ends with PEER_ERROR (R456, R459, R474). -/
def Place.peerError (q : Place) : Place :=
  { q with phase := if q.phase = .retired then .retired else .finished, stall := .none,
           status := if q.status = .ok then .peerError else q.status, unacked := [], unsentMsgs := [] }

/-- The operation waits for something that the modules of a lost port were to bring: an XACK, a block or a token (R474). A dealer's
ISSUE waits without limit (R475, log 46). -/
def Dev.lostBy (d : Dev) (ms : List Nat) (p : Place) : Bool :=
  p.phase != .waiting && p.phase != .retired &&
    (p.unacked.any (fun u => ms.contains u.1) || p.unsentMsgs.any (fun u => ms.contains u.1 && p.op.opcode != 0x62)
      || (p.op.opcode == 0x61 && d.awaitsBlocks p && ms.any fun m => decide (p.op.fld 3 0 2 ≤ m) && decide (m < p.op.fld 3 0 2 + p.op.fld 3 2 2))
      || (p.op.opcode == 0x62 && p.op.fld 1 0 1 == 1 && p.phase == .running && ms.contains d.cascade.dealerIndex))

/-- A port enters DOWN (R447, R474); `leaf` tells whether it was UP or RETRAINING. -/
def Dev.linkDown (d : Dev) (p : Nat) (leaf : Bool) : Dev :=
  let ms := d.routed p
  let d := d.updPort p fun k => { k with state := .down, locked := false, replay := [], outbox := [], nakRun := none, retrainFails := 0 }
  let d := { d with board := d.board.map fun q => if d.lostBy ms q then q.peerError else q,
                    qlk := { d.qlk with resend := d.qlk.resend.filter fun r => !ms.contains r.2.1 } }
  if leaf then d.qlkLeaf 1 p (d.port p).farModule else d

/-- A port enters RETRAINING (R447). -/
def Dev.retrain (d : Dev) (p : Nat) : Dev :=
  let d := d.updPort p fun k => { k with state := .retraining, retrains := satInc32 k.retrains 1, retrainFails := 0, nakRun := none }
  d.qlkLeaf 2 p (d.port p).farModule

/-! ## Flits (R449 to R452) -/

/-- Flits of a message body (R449, R453). -/
def flitsOf (n : Nat) : Nat := ceilDiv (32 + n) 240

/-- The flits of a message that carry poisoned body bytes; 32 bytes of header stand before the body (R449, R453, log 98). -/
def poisonFlits (po : List Bool) : List Nat :=
  (List.range (flitsOf po.length)).filter fun i => ((po.drop (240 * i - 32)).take (if i = 0 then 208 else 240)).any id

/-- The last sequence accepted, as ACK gives it (R449). -/
def Port.ack (k : Port) : Nat := (k.rxSeq + 4095) % 4096

/-- `n` sequenced flits are sent: they take sequences and wait in the replay buffer (R450, R451). -/
def Port.sendFlits (k : Port) (n : Nat) : Port :=
  { k with txSeq := (k.txSeq + n) % 4096, replay := k.replay ++ (List.range n).map (fun i => (k.txSeq + i) % 4096),
           txFlits := (k.txFlits + n) % 2 ^ 64 }

/-- `n` sequenced flits are accepted (R451). -/
def Port.takeFlits (k : Port) (n : Nat) : Port :=
  { k with rxSeq := (k.rxSeq + n) % 4096, rxFlits := (k.rxFlits + n) % 2 ^ 64, nakSent := false }

/-- Frees what ACK covers (R451). -/
def Port.acked (k : Port) (ack : Nat) : Port :=
  if k.replay.contains ack then { k with replay := (k.replay.dropWhile (· != ack)).tail } else k

/-- Room for `n` more flits that are not acknowledged (R451). -/
def Port.room (k : Port) (n : Nat) : Bool := decide (k.replay.length + n ≤ 2048)

/-- A CREDIT flit returns the freed buffers (R452). -/
def Dev.sendCredit (d : Dev) (p : Nat) : Dev :=
  let k := d.port p
  if k.state != .up || !k.room 1 || k.freedData + k.freedControl == 0 then d
  else (d.updPort p fun k => { k.sendFlits 1 with freedData := 0, freedControl := 0 }).emit
    (.flit p 5 k.ack (leBytes 2 k.freedData ++ leBytes 2 k.freedControl))

/-- Receive buffers free; 64 of a class return at once (R452). -/
def Dev.freeBuffers (d : Dev) (p n : Nat) (control : Bool) : Dev :=
  let d := d.updPort p fun k =>
    if control then { k with freedControl := k.freedControl + n } else { k with freedData := k.freedData + n }
  if 64 ≤ (d.port p).freedData ∨ 64 ≤ (d.port p).freedControl then d.sendCredit p else d

/-- A flit is discarded; each run of discards is answered by one NAK (R451). -/
def Dev.discardFlit (d : Dev) (p : Nat) (crcBad : Bool) : Dev :=
  let k := d.port p
  let d := d.updPort p fun k => { k with crcErrors := if crcBad then satInc32 k.crcErrors 1 else k.crcErrors, nakSent := true }
  if k.nakSent then d else d.emit (.flit p 3 k.ack [])

/-! ## Messages that leave (R453 to R457, R460) -/

/-- The port that carries messages to a module, if its entry routes and the port is UP (R456). -/
def Dev.reaches (d : Dev) (m : Nat) : Option Nat :=
  let r := d.qlk.route.get 0 m
  if r.testBit 7 && (d.port (r % 8)).state == .up then some (r % 8) else none

/-- EXCHANGE and A2A_BLOCK travel in the data class, everything else in the control class (R452, R453). -/
def dataClass (kind : Nat) : Bool := kind == 1 || kind == 2

/-- Data-class messages on a pair that await their XACK (R460). -/
def Dev.pairBusy (d : Dev) (m : Nat) : Nat := (d.board.flatMap fun p => p.unacked.filter (·.1 == m)).length

/-- CHECK of a message (R454). -/
def QMessage.checkOf (m : QMessage) : Nat := crc32c ((m.src * 65536 ||| m.dst) ^^^ rot16 m.xseq) m.body

/-- A message of this module to another (R453); XSEQ and CHECK are filled as it is sent. -/
def Dev.message (d : Dev) (dst kind seat context reason coll dest : Nat) (body : List Byte) (poison : List Nat) : QMessage :=
  { src := d.cascade.moduleIndex, dst := dst, cascade := d.cascade.cascadeId, kind := kind, seat := seat, context := context,
    reason := reason, xseq := 0, coll := coll, dest := dest, check := 0, poison := poison, body := body }

/-- A port has the credits and the room for a message (R451, R452). -/
def Port.takes (k : Port) (m : QMessage) : Bool :=
  let n := flitsOf m.body.length
  k.room n && decide (n ≤ if dataClass m.kind then k.creditData else k.creditControl)

/-- Sends a message on a port that takes it: it gets the next XSEQ of its pair (R455). -/
def Dev.sendMessage (d : Dev) (p : Nat) (m : QMessage) : Dev :=
  let n := flitsOf m.body.length
  let m := { m with xseq := d.qlk.xsend.get 0 m.dst }
  let m := { m with check := m.checkOf }
  let d := { d with qlk := { d.qlk with xsend := d.qlk.xsend.put 0 m.dst ((m.xseq + 1) % 2 ^ 32) } }
  (d.updPort p fun k =>
    let k := k.sendFlits n
    if dataClass m.kind then { k with creditData := k.creditData - n } else { k with creditControl := k.creditControl - n }).emit
    (.message p m)

/-- Sends a control message of the device itself, or queues it behind those that wait; one to a module that cannot be reached is
dropped (R456, R459, R472). -/
def Dev.sendControl (d : Dev) (m : QMessage) : Dev :=
  match d.reaches m.dst with
  | none => d
  | some p =>
    if (d.port p).outbox.isEmpty && (d.port p).takes m then d.sendMessage p m
    else d.updPort p fun k => { k with outbox := k.outbox ++ [m] }

/-- Sends what waits in a port's outbox, in order, while it can. -/
def Dev.flushOutbox (p : Nat) : Nat → Dev → Dev
  | 0, d => d
  | fuel + 1, d => match (d.port p).outbox with
    | [] => d
    | m :: rest =>
      if (d.port p).takes m then
        ((d.updPort p fun k => { k with outbox := rest }).sendMessage p m).flushOutbox p fuel
      else d

/-! ## What operations send (R464, R466, R469 to R471) -/

/-- A tile with its header, as a stream EXCHANGE carries it (R83, R464). -/
def Tile.bytes (t : Tile) : List Byte :=
  t.headerBytes.take 16 ++ leBytes 8 t.poison ++ leBytes 4 t.check ++ leBytes 4 0 ++ t.payload

/-- The tile that bytes hold (R83). -/
def Tile.ofBytes (b : List Byte) : Tile :=
  { format := field b 0 1, rows := field b 1 1, cols := field b 2 1, shiftMode := field b 3 1, shift := field b 4 1,
    stream := field b 8 4, sequence := field b 12 4, poison := field b 16 8, check := field b 24 4, payload := b.drop 32 }

/-- The tiles that a stream EXCHANGE sends: what it accepted, in order, under the stream id on PEER, each followed by its scale tile
(R464, log 42). -/
def Place.exchangeTiles (p : Place) : List Tile :=
  let dst := (p.op.ref 1).addr
  (List.range (p.op.word 2)).flatMap fun i => match p.tileAt 0 ((p.op.seqBase + i) % 2 ^ 32) with
    | none => []
    | some a =>
      ({ a.tile with stream := dst } : Tile).sealed :: (match a.scale with
        | some s => [({ s with stream := dst + 2 ^ 31 } : Tile).sealed]
        | none => [])

/-- An EXCHANGE whose source is a stream. -/
def Place.exchangesStream (p : Place) : Bool := !paysFor p.payload 0 && (p.op.ref 0).kind == 1

/-- Reads `n` bytes at an offset of an operand that is memory, a payload or the scratchpad of the seat's lowest core (R100). -/
def Mio.flatAt (m : Mio) (g : Agent) (p : Place) (w off n : Nat) : Mio × List Byte × List Bool :=
  if p.inPads w then
    let c := m.dev.leadCore p.seat
    (m, m.dev.padRead c ((p.op.ref w).addr + off) n, m.dev.padBad c ((p.op.ref w).addr + off) n)
  else m.readOperand g p w off n

/-- An operand reference moved by an offset, as an OPREF (R98, R453). -/
def Opref.plus (o : Opref) (off : Nat) : Nat :=
  (o.addr + off) % 2 ^ 48 + o.kind * 2 ^ 48 + o.hint * 2 ^ 50 + o.uses * 2 ^ 52

/-- The trick reports of a RESPONSE: (HANDLE, STATE) of the tricks that no decision has reached (R246, R471). -/
def Dev.trickReports (d : Dev) : List (Nat × Nat) :=
  ((d.trk.tricks.filter fun t => t.cascade && (t.state == .prepared && (d.trk.decisionOf t).isNone || t.state == .aborted)).map fun t =>
      (t.handle, if t.state = .prepared then 1 else 2)) ++ d.trk.discarded.map fun h => (h, 2)

/-- The body of a RESPONSE (R471). -/
def Dev.responseBody (d : Dev) (step : Nat) : List Byte :=
  let rs := d.trickReports.take 255
  leBytes 8 step ++ leBytes 1 (d.qlk.stepThermal.toNat + 2 * d.qlk.stepPeerWait.toNat) ++ leBytes 1 rs.length ++ leBytes 6 0
    ++ leBytes 8 d.qlk.heldEpoch ++ rs.flatMap fun r => leBytes 4 r.1 ++ leBytes 1 r.2 ++ leBytes 3 0

/-- The body of a TOKEN (R470). -/
def TokenRec.body (t : TokenRec) : List Byte :=
  leBytes 8 t.step ++ leBytes 8 t.epoch ++ leBytes 1 t.decisions.length ++ leBytes 7 0
    ++ t.decisions.flatMap fun r => leBytes 4 r.1 ++ leBytes 1 r.2 ++ leBytes 3 0

/-- The token of a step, if it is among the last 16. -/
def Dev.tokenOf (d : Dev) (step : Nat) : Option TokenRec := d.qlk.tokens.find? (·.step == step)

/-- The message of an entry (peer, index) of what an operation has to send (log 94). -/
def Mio.entryMessage (m : Mio) (g : Agent) (p : Place) (e : Nat × Nat) : Mio × QMessage :=
  let d := m.dev
  let mk := fun (kind coll dest : Nat) (body : List Byte) (poison : List Nat) => d.message e.1 kind p.seat p.ctx 0 coll dest body poison
  if p.op.opcode = 0x60 then
    if p.exchangesStream then
      let t := p.exchangeTiles.getD e.2 {}
      (m, mk 1 t.sequence ((p.op.ref 1).plus (t.stream - (p.op.ref 1).addr)) t.bytes [])
    else
      let r := m.flatAt g p 0 (e.2 * 65536) (min 65536 (p.op.word 2 - e.2 * 65536))
      (r.1, mk 1 0 ((p.op.ref 1).plus (e.2 * 65536)) r.2.1 (poisonFlits r.2.2))
  else if p.op.opcode = 0x61 then
    let b := p.op.word 2
    let r := m.readOperand g p 0 (e.2 * b) b
    (r.1, mk 2 (p.coll.getD 0) ((p.op.ref 1).plus ((d.cascade.moduleIndex - p.op.fld 3 0 2) * b)) r.2.1 (poisonFlits r.2.2))
  else if p.op.fld 1 0 1 = 2 then (m, mk 4 0 0 (d.responseBody (p.op.word 0)) [])
  else (m, mk 3 0 0 (((d.tokenOf (p.op.word 0)).map (·.body)).getD []) [])

/-- The KIND of what an operation sends (R453). -/
def OpWord.sendsKind (o : OpWord) : Nat :=
  if o.opcode = 0x60 then 1 else if o.opcode = 0x61 then 2 else if o.fld 1 0 1 = 2 then 4 else 3

/-- The message of a RESPOND is sent: what it reported of its step starts anew (R471). -/
def Dev.responseSent (d : Dev) (p : Place) : Dev :=
  if p.op.opcode = 0x62 ∧ p.op.fld 1 0 1 = 2 then { d with qlk := { d.qlk with stepThermal := false, stepPeerWait := false } } else d

/-- Sends one entry of what an operation has to send, if the pair, the port and memory let it (R456, R460). A module that cannot be
reached ends the operation with PEER_ERROR; an ISSUE goes on to its other members. -/
def Dev.sendEntry (id : Nat) (d : Dev) (e : Nat × Nat) : Dev :=
  match d.place id with
  | none => d
  | some p =>
    if !p.unsentMsgs.contains e then d
    else match d.reaches e.1 with
      | none =>
        if p.op.opcode = 0x62 then
          d.updPlace id fun q => { q with unsentMsgs := q.unsentMsgs.erase e, status := if q.status = .ok then .peerError else q.status }
        else d.updPlace id Place.peerError
      | some port =>
        if dataClass p.op.sendsKind && decide (4 ≤ d.pairBusy e.1) then d
        else
          let r := ({ dev := d } : Mio).entryMessage (d.agent p) p e
          if !(d.port port).takes r.2 || !(d.port port).outbox.isEmpty && !dataClass r.2.kind then d
          else if r.1.waits then (d.updPlace id (·.noted r.1)).stallPlace p r.1.wait
          else if r.1.fault then (r.1.dev).updPlace id fun q => { q.fail .segmentFault with unsentMsgs := [], unacked := [] }
          else
            let x := r.1.dev.qlk.xsend.get 0 e.1
            let d := (r.1.dev.sendMessage port r.2).responseSent p
            d.updPlace id fun q =>
              { q.noted r.1 with
                       unsentMsgs := q.unsentMsgs.erase e
                       unacked := if r.2.kind = 3 then q.unacked else q.unacked ++ [(e.1, x)]
                       flags := q.flags.or { poisoned := !r.2.poison.isEmpty } }

/-- An operation sends what it can. -/
def Dev.pump (d : Dev) (id : Nat) : Dev :=
  match d.place id with
  | none => d
  | some p => p.unsentMsgs.foldl (Dev.sendEntry id) d

/-- After credits, acknowledgements or XACKs, everything that waits to be sent is tried again. -/
def Dev.pumpAll (d : Dev) : Dev :=
  let d := (List.range 8).foldl (fun d p => if (d.port p).state = .up then Dev.flushOutbox p (d.port p).outbox.length d else d) d
  (d.board.filter fun p => !p.unsentMsgs.isEmpty).foldl (fun d p => d.pump p.id) d

/-! ## Messages that arrive (R455, R457, R459) -/

/-- Returns XACK, or XNAK with a reason, to the sender of a message (R453, R459, log 40). -/
def Dev.answerMessage (d : Dev) (m : QMessage) (reason : Nat) : Dev :=
  d.sendControl (d.message m.src (if reason = 0 then 6 else 7) m.seat m.context reason 0 m.xseq [] [])

/-- What the link and the pair make of an arriving message: whether it goes on to its meaning (R451, R455, R457). -/
def Dev.acceptMessage (d : Dev) (port : Nat) (m : QMessage) : Dev × Bool :=
  let n := flitsOf m.body.length
  let d := (d.updPort port fun k => k.takeFlits n).freeBuffers port n (!dataClass m.kind)
  if m.cascade ≠ d.cascade.cascadeId ∨ m.dst ≠ d.cascade.moduleIndex then
    ((d.updPort port fun k => { k with misrouted := satInc32 k.misrouted 1 }).qlkLeaf 3 port (m.src % 1024), false)
  else if m.xseq ≠ d.qlk.xrecv.get 0 m.src then ((d.qlkLeaf 5 port m.src).answerMessage m 4, false)
  else ({ d with qlk := { d.qlk with xrecv := d.qlk.xrecv.put 0 m.src ((m.xseq + 1) % 2 ^ 32) } }, true)

/-- A message fails its CHECK: MESSAGE_CHECK, with the port's unit and the seat (R459, R515). Units 16 to 23 are the ports' (R514). -/
def Dev.checkFails (d : Dev) (port : Nat) (m : QMessage) : Dev :=
  (d.integrity 4 (16 + port) (some m.seat)).answerMessage m 2

/-- A message of kind `kind` arrives on an UP port; `f` is its meaning once the link, the pair and, for a control message, CHECK have
passed. -/
def Dev.onMessage (d : Dev) (port : Nat) (m : QMessage) (kind : Nat) (f : Dev → Dev) : Dev :=
  if (d.port port).state != .up || m.kind != kind then d
  else
    let r := d.acceptMessage port m
    if !r.2 then r.1
    else if !dataClass kind && m.check != m.checkOf then r.1.checkFails port m
    else f r.1

/-! ## Ports: the commands (R444 to R448, R451, R452, R582) -/

/-- CABLE_INSERT (R447, R583): the cable is in low-power mode. -/
def execCableInsert (port : Nat) (s : State) : Host.Outcome State Fault Refusal :=
  .next (if (s.dev.port port).cable then s
    else { s with dev := s.dev.updPort port fun k =>
      { k with cable := true, lowPower := true, overcurrent := false, state := if k.state = .empty then .identifying else k.state } })

/-- CABLE_REMOVE (R447). -/
def execCableRemove (port : Nat) (s : State) : Host.Outcome State Fault Refusal :=
  .next { s with dev := s.dev.updPort port fun k =>
    if k.state = .disabled then { k with cable := false, lowPower := true }
    else { k with cable := false, lowPower := true, state := .empty, refuse := 0, locked := false, replay := [], outbox := [] } }

/-- The reason for which R445 refuses a cable, 0 for none. -/
def CableId.refusal (c : CableId) : Nat :=
  if !c.readOk || !c.checksumOk then 1 else if 48 < c.maxPower then 2 else if c.lanes < 8 then 3 else 0

/-- CABLE_IDENTITY_READ (R444, R445). -/
def execCableIdentityRead (port : Nat) (id : CableId) (s : State) : Host.Outcome State Fault Refusal :=
  .next (if (s.dev.port port).state ≠ .identifying then s
    else
      let d := if id.readOk then s.dev.updPort port fun k =>
          { k with maxPower := id.maxPower, length := id.length, lanes := id.lanes, vendor := slice id.vendorName 0 16,
                   pn := slice id.vendorPn 0 16 }
        else s.dev
      { s with dev := if id.refusal ≠ 0 then d.refusePort port id.refusal
                      else d.updPort port fun k => { k with state := .training, refuse := 0, lowPower := false, locked := false } })

/-- The IDENT payload of this module (R448). -/
def CascadeRec.ident (c : CascadeRec) : List Byte :=
  leBytes 2 c.cascadeId ++ leBytes 2 c.moduleIndex ++ leBytes 1 c.role ++ leBytes 1 c.dealer

/-- LANE_LOCK (R447, R448): in TRAINING this end sends its IDENT; in RETRAINING the port is UP again and replays. -/
def execLaneLock (port : Nat) (s : State) : Host.Outcome State Fault Refusal :=
  let k := s.dev.port port
  .next (if k.state = .training ∧ k.locked = false then
      { s with dev := (s.dev.updPort port fun k => { k.sendFlits 1 with locked := true }).emit (.flit port 4 k.ack s.dev.cascade.ident) }
    else if k.state = .retraining then
      { s with dev := (s.dev.updPort port fun k =>
          { k with state := .up, retrainFails := 0, replays := if k.replay.isEmpty then k.replays else satInc32 k.replays 1 }).pumpAll }
    else s)

/-- TRAINING_TIMEOUT (R447): no lock within 10 ms. -/
def execTrainingTimeout (port : Nat) (s : State) : Host.Outcome State Fault Refusal :=
  .next (if (s.dev.port port).state = .training ∧ (s.dev.port port).locked = false then
      { s with dev := s.dev.linkDown port false } else s)

/-- LOCK_LOST (R447). -/
def execLockLost (port : Nat) (s : State) : Host.Outcome State Fault Refusal :=
  .next (if (s.dev.port port).state = .up then { s with dev := s.dev.retrain port } else s)

/-- RETRAIN_TIMEOUT (R447): no lock within 1 ms; the third time in a row the port goes DOWN. -/
def execRetrainTimeout (port : Nat) (s : State) : Host.Outcome State Fault Refusal :=
  .next (if (s.dev.port port).state ≠ .retraining then s
    else { s with dev := if 2 ≤ (s.dev.port port).retrainFails then s.dev.linkDown port true
                         else s.dev.updPort port fun k => { k with retrainFails := k.retrainFails + 1 } })

/-- QLK_RETRAIN (R447). -/
def execQlkRetrain (port : Nat) (s : State) : Host.Outcome State Fault Refusal :=
  .next (if s.ready && ((s.dev.port port).state == .refused || (s.dev.port port).state == .down) then
      { s with dev := s.dev.updPort port fun k => { k with state := .identifying, refuse := 0, locked := false, overcurrent := false } }
    else s)

/-- CAGE_OVERCURRENT (R582): the supply of a cage that is on switches off. -/
def execCageOvercurrent (port : Nat) (s : State) : Host.Outcome State Fault Refusal :=
  let k := s.dev.port port
  .next (if k.cable && s.dev.domainOn.testBit (if port < 4 then 2 else 3) then
      let d := s.dev.updPort port fun k => { k with overcurrent := true }
      { s with dev := if k.state = .disabled then d else d.refusePort port 2 }
    else s)

/-- IDENT (R447, R448): an IDENT flit arrives on a port whose lanes are locked. -/
def execIdent (port seq cascade module : Nat) (s : State) : Host.Outcome State Fault Refusal :=
  let k := s.dev.port port
  .next (if k.state ≠ .training ∨ k.locked = false then s
    else if seq ≠ k.rxSeq then { s with dev := s.dev.discardFlit port false }
    else
      let sw := module == 0xFFFF
      let d := s.dev.updPort port fun k =>
        { k.takeFlits 1 with switch := sw, farModule := if sw then k.farModule else module % 1024 }
      { s with dev := if sw then d.linkUp port
                      else if cascade ≠ d.cascade.cascadeId then d.refusePort port 4
                      else if module = d.cascade.moduleIndex then d.refusePort port 5
                      else d.linkUp port })

/-- NAK (R447, R451): the sender resends every flit after ACK; eight in a row that name the same sequence retrain the port. -/
def execNak (port ack : Nat) (s : State) : Host.Outcome State Fault Refusal :=
  let k := s.dev.port port
  .next (if k.state ≠ .up then s
    else
      let n := match k.nakRun with
        | some (a, n) => if a = ack then n + 1 else 1
        | none => 1
      let d := s.dev.updPort port fun k => { k.acked ack with
        nakRun := some (ack, n), replays := if (k.acked ack).replay.isEmpty then k.replays else satInc32 k.replays 1 }
      { s with dev := if 8 ≤ n then d.retrain port else d.pumpAll })

/-- CREDIT (R452): sequenced, so accepted only in order. -/
def execCredit (port seq dataCredits controlCredits : Nat) (s : State) : Host.Outcome State Fault Refusal :=
  let k := s.dev.port port
  .next (if k.state ≠ .up then s
    else if seq ≠ k.rxSeq then { s with dev := s.dev.discardFlit port false }
    else
      { s with dev := (s.dev.updPort port fun k =>
          { k.takeFlits 1 with creditData := min 1024 (k.creditData + dataCredits),
                               creditControl := min 64 (k.creditControl + controlCredits) }).pumpAll })

/-- CREDIT_RETURN_TIMER (R452): 256 fast cycles after the first buffer freed. -/
def execCreditReturnTimer (port : Nat) (s : State) : Host.Outcome State Fault Refusal :=
  .next { s with dev := s.dev.sendCredit port }

/-- FLIT_DISCARD (R451). -/
def execFlitDiscard (port : Nat) (crcBad : Bool) (s : State) : Host.Outcome State Fault Refusal :=
  .next (if (s.dev.port port).state = .up then { s with dev := s.dev.discardFlit port crcBad } else s)

/-- IDLE (R450, R451): ACK frees the replay buffer. -/
def execIdle (port ack : Nat) (s : State) : Host.Outcome State Fault Refusal :=
  .next (if (s.dev.port port).state = .up then { s with dev := (s.dev.updPort port fun k => k.acked ack).pumpAll } else s)

end Sys2Proof.Machine
end

