-- ==== Sys2Proof/Machine/Cascade.lean ====
section
/-! DEFINITION. The cascade (13): EXCHANGE, ALL_TO_ALL and STEP_TOKEN, the messages that arrive for them, the member table, and the
routes and exclusions (R453 to R475, R245 to R249). -/

namespace Sys2Proof.Machine

/-! ## Sending operations (R463 to R467) -/

/-- The work of an operation is done but for its messages: it sends what it can, and waits for the rest with PEER (R457, R464). -/
def Dev.finishSending (d : Dev) (p : Place) (msgs : List (Nat × Nat)) (f : Place → Place) : Dev :=
  let d := d.updPlace p.id fun q => { (f q).finish with unsentMsgs := msgs }
  (if msgs.isEmpty then d else d.stallPlace p .peer).pump p.id

/-- The work of EXCHANGE (R463, R464): one message for each 65,536 bytes, or for each tile. What it reads is acquired as it starts (R97). -/
def Dev.workExchange (d : Dev) (p : Place) : Dev :=
  let n := if p.exchangesStream then p.exchangeTiles.length else ceilDiv (p.op.word 2) 65536
  (d.io p).dev.finishSending p ((List.range n).map fun i => (p.op.fld 3 0 2, i)) id

/-- EXCHANGE (R464). -/
def execExchange (place : Nat) (s : State) : Host.Outcome State Fault Refusal :=
  .next { s with dev := s.dev.runOp place (·.opcode == 0x60) (Dev.whenFed Dev.workExchange) }

/-- An ALL_TO_ALL takes its collective number as it starts (R467). -/
def Dev.numberCollective (d : Dev) (p : Place) : Dev :=
  match p.coll with
  | some _ => d
  | none =>
    let x := p.seat * 16 + p.ctx
    (d.updPlace p.id fun q => { q with coll := some (d.ctx x).collectives }).updCtx x fun c =>
      { c with collectives := (c.collectives + 1) % 2 ^ 32 }

/-- The work of ALL_TO_ALL (R465, R466): the own block is copied, and every other module of the group gets its block. -/
def Dev.workAllToAll (d : Dev) (p : Place) : Dev :=
  let d := d.numberCollective p
  let b := p.op.word 2
  let first := p.op.fld 3 0 2
  let own := d.cascade.moduleIndex - first
  let g := d.agent p
  let r := (d.io p).readOperand g p 0 (own * b) b
  let o := p.op.ref 1
  let others := ((List.range (p.op.fld 3 2 2)).filter (· ≠ own)).map fun j => (first + j, j)
  d.conclude p (r.1.write g o (o.addr + own * b) r.2.1 r.2.2) fun d =>
    d.finishSending p others fun q => { q with flags := q.flags.or { poisoned := r.2.2.any id } }

/-- ALL_TO_ALL (R466). -/
def execAllToAll (place : Nat) (s : State) : Host.Outcome State Fault Refusal :=
  .next { s with dev := s.dev.runOp place (·.opcode == 0x61) Dev.workAllToAll }

/-! ## Members and decisions (R246 to R249, R468 to R471) -/

/-- A module is excluded (R475). -/
def Dev.excluded (d : Dev) (m : Nat) : Bool := (d.qlk.exclude.get 0 (m / 32)).testBit (m % 32)

/-- The members that take part: those not excluded (R468, log 43). -/
def Dev.included (d : Dev) : List Nat := (List.range d.cascade.members).filter fun m => !d.excluded m

/-- A member's row of the dealer's table (R472, R477). -/
def Dev.member (d : Dev) (m : Nat) : Member := d.qlk.members.get {} m

/-- Changes a member's row, stamped with the dealer's slow count (R472). -/
def Dev.updMember (d : Dev) (m : Nat) (f : Member → Member) : Dev :=
  { d with qlk := { d.qlk with members := d.qlk.members.put {} m { f (d.member m) with seen := d.slow % 2 ^ 32 } } }

/-- The state that a member has reported for a handle. -/
def Member.report (m : Member) (h : Nat) : Option Nat := (m.reports.find? (·.1 == h)).map (·.2)

/-- A trick of the dealer's own with the handle is still to be decided. -/
def Trk.undecided (k : Trk) (h : Nat) : Bool :=
  k.tricks.any fun t => t.cascade && t.handle == h
    && (t.state == .open_ || t.state == .commit || (t.state == .prepared && (k.decisionOf t).isNone))

/-- The decisions that a dealer's commit log holds, the last of each handle (R248). -/
def Trk.loggedDecisions (k : Trk) : List (Nat × Nat) :=
  let rs := k.log.filter fun r => r.cascade && r.decision != 0
  ((rs.map (·.handle)).eraseDups.filter fun h => !k.undecided h).filterMap fun h =>
    ((rs.filter (·.handle == h)).getLast?).map fun r => (h, r.decision)

/-- The handles that members have reported. -/
def Dev.reported (d : Dev) : List Nat := (d.included.flatMap fun m => (d.member m).reports.map (·.1)).eraseDups

/-- What a restarted dealer owes (R248): every decision of its commit log, and ABORT for every other trick that a member reports
prepared. -/
def Dev.restartDecisions (d : Dev) : List (Nat × Nat) :=
  let logged := d.trk.loggedDecisions
  logged ++ (d.reported.filter fun h =>
    !logged.any (·.1 == h) && d.included.any fun m => (d.member m).report h == some 1).map fun h => (h, 2)

/-- The decision of a handle, none while participants have still to report (R246, R247). -/
def Dev.decisionFor (d : Dev) (h : Nat) : Option (Nat × Nat) :=
  let rs := d.included.map fun m => (d.member m).report h
  if rs.all (· == some 1) then some (h, 1) else if rs.all (·.isSome) then some (h, 2) else none

/-- Every decision that waits for a token: what is owed since a restart, then what the members' reports decide (R247, R248). -/
def Dev.waitingDecisions (d : Dev) : List (Nat × Nat) :=
  let owed := if d.qlk.restarted then d.restartDecisions else d.qlk.owed
  owed ++ (d.reported.filter fun h => !owed.any (·.1 == h)).filterMap d.decisionFor

/-- The decisions that the next token carries: the first 16 (R470). -/
def Dev.decisions (d : Dev) : List (Nat × Nat) := d.waitingDecisions.take 16

/-- Keeps a token among the last 16 (R469). -/
def Dev.keepToken (d : Dev) (t : TokenRec) : Dev :=
  { d with qlk := { d.qlk with tokens := (d.qlk.tokens ++ [t]).drop (d.qlk.tokens.length - 15), step := t.step, epoch := t.epoch } }

/-- This module holds its half of every trick that a token commits. -/
def Dev.holdsAll (d : Dev) (t : TokenRec) : Bool :=
  (t.decisions.filter (·.2 == 1)).all fun r =>
    d.trk.tricks.any fun k => k.cascade && k.handle == r.1 && (k.state == .prepared || k.epoch.isSome)

/-- The highest cascade epoch held in full after a token (R249, log 95): it rises to the token's where the one before was held and every
trick that commits is here. The first token after a restart says nothing of what was lost unless it commits; it never falls. -/
def Dev.heldAfter (d : Dev) (t : TokenRec) : Nat :=
  if d.holdsAll t && d.qlk.heldEpoch == t.prev && (t.decisions.any (·.2 == 1) || !d.qlk.tokens.isEmpty) then max d.qlk.heldEpoch t.epoch
  else d.qlk.heldEpoch

/-- A token with its predecessor's epoch: the one in force, or where this module has no token the one that it holds. -/
def Dev.tokenRec (d : Dev) (step epoch : Nat) (ds : List (Nat × Nat)) : TokenRec :=
  ⟨step, epoch, if d.qlk.tokens.isEmpty then d.qlk.heldEpoch else d.qlk.epoch, ds, false⟩

/-- A module takes a token, issued or received: its decisions enter the commit log (R247, R249); the dealer's all, a member's those of its
prepared tricks. -/
def Dev.takeToken (d : Dev) (dealer : Bool) (t : TokenRec) : Dev :=
  let d := { d with qlk := { d.qlk with heldEpoch := d.heldAfter t } }
  (d.recordDecisions dealer t.decisions t.step t.epoch).keepToken t

/-- The dealer's records of decisions of which it has no half of its own, which every member has received, go (log 137). -/
def Dev.dropOrphans (d : Dev) (step : Nat) : Dev :=
  { d with trk := { d.trk with log := d.trk.log.filter fun r =>
      !(r.trick == noEntry && decide (r.step < step) && !d.qlk.owed.any (·.1 == r.handle)) } }

/-- The dealer issues the token of a step (R246 to R248, R469); the rise of the cascade epoch is a free value (log 44). -/
def Dev.issueToken (d : Dev) (p : Place) : Dev :=
  let step := p.op.word 0
  let ds := d.decisions
  let owed := if d.qlk.restarted then d.restartDecisions else d.qlk.owed
  let e := if ds.any (·.2 == 1) then (d.qlk.epoch + 1 + Config.freeNat d.free) % 2 ^ 64 else d.qlk.epoch
  let d := d.tickFree
  let d := { d with qlk := { d.qlk with
      restarted := false, owed := owed.drop 16,
      members := d.qlk.members.mapAll fun _ k => { k with reports := k.reports.filter fun r => !ds.any (·.1 == r.1) } } }
  let d := (d.dropOrphans step).takeToken true (d.tokenRec step e ds)
  d.finishSending p ((d.included.filter (· ≠ d.cascade.moduleIndex)).map fun m => (m, 0)) fun q => { q with dest := p.op.destOf 2 e }

/-- The work of STEP_TOKEN ISSUE (R469, R475): it waits without limit for the members' responses (log 96), and for M0's die where decisions
are to be written (R247, R356). -/
def Dev.workIssue (d : Dev) (p : Place) : Dev :=
  if p.op.word 0 ≠ d.qlk.step + 1 then d.failBad p
  else if !d.included.all fun m => (d.member m).step == some (p.op.word 0 - 1) then d.stallPlace p .peer
  else if !d.decisions.isEmpty && d.logBlocked then d.stallPlace p .thermal
  else d.issueToken p

/-- A token's decisions reach the tricks of this module, once (R247). -/
def Dev.applyToken (d : Dev) (t : TokenRec) : Dev :=
  if t.applied then d
  else
    let d := t.decisions.foldl (fun d r => d.decideTrick r.1 r.2 t.step t.epoch) d
    { d with trk := { d.trk with discarded := d.trk.discarded.filter fun h => !t.decisions.any (·.1 == h) },
             qlk := { d.qlk with tokens := d.qlk.tokens.map fun u => if u.step = t.step then { u with applied := true } else u } }

/-- Tricks that a token commits have still to reach LCE (R232, R247). -/
def Dev.committing (d : Dev) (t : TokenRec) : Bool :=
  t.decisions.any fun r => r.2 == 1 && d.trk.tricks.any fun k => k.cascade && k.handle == r.1 && k.state == .committing

/-- The work of STEP_TOKEN AWAIT (R247, R469). -/
def Dev.workAwait (d : Dev) (p : Place) : Dev :=
  match d.tokenOf (p.op.word 0) with
  | some t =>
    let d := d.applyToken t
    if d.committing t || (d.trk.tricks.any fun k => t.decisions.any (·.1 == k.handle) && k.cascade && decide (d.trk.lce < k.epoch.getD 0))
    then d.stallPlace p .wait
    else d.updPlace p.id fun q => { q.finish with dest := p.op.destOf 2 t.epoch }
  | none => if p.op.word 0 = d.qlk.step + 1 then d.stallPlace p .peer else d.failBad p

/-- A member's response enters the dealer's table (R471, R472). -/
def Dev.recordResponse (d : Dev) (m step : Nat) (reports : List (Nat × Nat)) (held : Nat) : Dev :=
  d.updMember m fun k =>
    { k with step := some step, heldEpoch := held, reports := (k.reports.filter fun r => !reports.any (·.1 == r.1)) ++ reports }

/-- The work of STEP_TOKEN RESPOND (R469, R471). The dealer's own response enters its table directly. -/
def Dev.workRespond (d : Dev) (p : Place) : Dev :=
  let step := p.op.word 0
  let fin := fun (q : Place) => { q with dest := p.op.destOf 2 step }
  if d.qlk.step < step then d.failBad p
  else if d.cascade.dealer = 1 then
    ((d.recordResponse d.cascade.moduleIndex step d.trickReports d.qlk.heldEpoch).responseSent p).finishSending p [] fin
  else d.finishSending p [(d.cascade.dealerIndex, 0)] fin

/-- The work of a STEP_TOKEN that waits, tried again. -/
def Dev.workToken (d : Dev) (p : Place) : Dev :=
  match p.op.fld 1 0 1 with
  | 0 => d.workIssue p
  | 1 => d.workAwait p
  | _ => d

/-- STEP_TOKEN operations that wait go on when a token, a response or an exclusion lets them. -/
def Dev.retryTokens (d : Dev) : Dev :=
  (d.board.filter fun p => p.op.opcode == 0x62 && p.phase == .running).foldl (fun d p => match d.place p.id with
    | some q => if q.phase = .running then d.workToken q else d
    | none => d) d

/-- Twice, since an ISSUE may end what an AWAIT of the dealer waits for. -/
def Dev.wakeTokens (d : Dev) : Dev := d.retryTokens.retryTokens

/-- STEP_TOKEN_ISSUE (R469). -/
def execStepTokenIssue (place : Nat) (s : State) : Host.Outcome State Fault Refusal :=
  .next { s with dev := (s.dev.runOp place (fun o => o.opcode == 0x62 && o.fld 1 0 1 == 0) Dev.workIssue).wakeTokens }

/-- STEP_TOKEN_AWAIT (R469). -/
def execStepTokenAwait (place : Nat) (s : State) : Host.Outcome State Fault Refusal :=
  .next { s with dev := s.dev.runOp place (fun o => o.opcode == 0x62 && o.fld 1 0 1 == 1) Dev.workAwait }

/-- STEP_TOKEN_RESPOND (R469). -/
def execStepTokenRespond (place : Nat) (s : State) : Host.Outcome State Fault Refusal :=
  .next { s with dev := (s.dev.runOp place (fun o => o.opcode == 0x62 && o.fld 1 0 1 == 2) Dev.workRespond).wakeTokens }

/-! ## Data that arrives (R458, R459, R467) -/

/-- The device-wide context of a message on this module (R462). -/
def QMessage.ctxIx (m : QMessage) : Nat := m.seat % 64 * 16 + m.context % 16

/-- The pieces of a message body by atom: context virtual address and length. -/
def QMessage.pieces (m : QMessage) : List (Nat × Nat) :=
  atomPieces (m.body.length + 1) (Opref.ofNat m.dest).addr m.body.length

/-- A piece of the body came in a flit with POISON (R458). -/
def QMessage.poisonAt (m : QMessage) (off n : Nat) : Bool :=
  m.poison.any fun i => decide ((32 + off) / 240 ≤ i) && decide (i ≤ (32 + off + n - 1) / 240)

/-- A die that the body needs accepts nothing now: the message waits (R473, log 41). -/
def Dev.bodyHeld (d : Dev) (m : QMessage) : Bool :=
  m.pieces.any fun p => match d.translate m.ctxIx p.1 p.2 (p.2 != 64) true with
    | .ok pa _ => d.blocked pa
    | _ => false

/-- Writes a message body (R458, R459): the physical pieces written, and whether a check failed; then the rest is dropped. -/
def Dev.writeBody (d : Dev) (m : QMessage) : Dev × List (Nat × Nat) × Bool :=
  m.pieces.foldl (fun (r : Dev × List (Nat × Nat) × Bool) p =>
    if r.2.2 then r
    else
      let off := p.1 - (Opref.ofNat m.dest).addr
      match r.1.translate m.ctxIx p.1 p.2 (p.2 != 64) true with
      | .ok pa _ =>
        let ok := (r.1.mem.frame (stackOf pa) (frameOf pa)).admits (tagOf m.ctxIx)
        (r.1.memWrite (tagOf m.ctxIx) pa (slice m.body off p.2) (m.poisonAt off p.2), if ok then r.2.1 ++ [(pa, p.2)] else r.2.1, !ok)
      | .uncovered => (r.1.segFault m.ctxIx p.1 1 0, r.2.1, true)
      | .denied g => (r.1.segFault m.ctxIx p.1 2 g, r.2.1, true)) (d, [], false)

/-- The writes of a body are charged to its seat: WRITE, and REMOTE where they cross from the port's compute stack (R458). -/
def Dev.chargeBody (d : Dev) (port : Nat) (m : QMessage) (written : List (Nat × Nat)) : Dev :=
  (List.range 12).foldl (fun d x =>
    d.transferAtoms ⟨m.ctxIx, port / 2, .loose⟩ true ((written.filter fun p => stackOf p.1 == x).map (·.1 / 64))) d

/-- A message body that is memory is received: written, checked and answered (R458, R459). The flag tells that it arrived whole. -/
def Dev.receiveBody (d : Dev) (port : Nat) (m : QMessage) : Dev × Bool :=
  let r := d.writeBody m
  let d := r.1.chargeBody port m r.2.1
  if r.2.2 then (d.answerMessage m 1, false)
  else if m.check ≠ m.checkOf then
    (({ d with mem := r.2.1.foldl (fun (k : Mem) (p : Nat × Nat) => k.setPoison p.1 true) d.mem }).checkFails port m, false)
  else (d.answerMessage m 0, true)

/-- A data message goes through the link and its pair; `f` is its meaning, none while it has to wait (log 41). -/
def Dev.onData (d : Dev) (port : Nat) (m : QMessage) (kind : Nat) (f : Dev → Option Dev) : Dev :=
  if (d.port port).state != .up || m.kind != kind then d
  else
    let r := d.acceptMessage port m
    if !r.2 then r.1
    else if !(d.seat m.seat).serves then r.1.answerMessage m 5
    else (f r.1).getD d

/-- The route from EXCHANGE at a port that carries a stream of a seat (R53, R464). -/
def Dev.exchangeRoute (d : Dev) (port seat stream : Nat) : Option Nat :=
  d.routes.findIdx? fun r => r.spec.seat == seat && r.spec.src == 5 && r.spec.srcPlace == port && r.spec.stream == stream

/-- A tile arrives for a stream (R459, R464): it enters its route once it has a credit (R92, log 42). -/
def Dev.receiveTile (d : Dev) (port : Nat) (m : QMessage) : Option Dev :=
  match d.exchangeRoute port m.seat (Opref.ofNat m.dest).addr with
  | none => none
  | some i =>
    if ((d.routes[i]?).map (·.credits)).getD 0 = 0 then none
    else
      let bad := decide (m.check ≠ m.checkOf)
      let t := if bad || !m.poison.isEmpty then (Tile.ofBytes m.body).allPoison else Tile.ofBytes m.body
      let d := { d with routes := d.routes.modify i fun r => { r with credits := r.credits - 1, queue := r.queue ++ [({ tile := t } : Sent)] } }
      some (if bad then d.checkFails port m else d.answerMessage m 0)

/-- EXCHANGE_MESSAGE (R458, R459, R464). -/
def execExchangeMessage (port : Nat) (m : QMessage) (s : State) : Host.Outcome State Fault Refusal :=
  .next { s with dev := s.dev.onData port m 1 (fun d =>
    if (Opref.ofNat m.dest).kind = 1 then d.receiveTile port m
    else if d.bodyHeld m then none
    else some (d.receiveBody port m).1) }

/-- The oldest eight collective numbers of a context that have not retired (R467). -/
def Dev.openCollectives (d : Dev) (x : Nat) : List Nat :=
  let started := (d.ctxPlaces x).filterMap fun p => if p.op.opcode = 0x61 ∧ p.phase ≠ .retired then p.coll else none
  (started ++ (List.range 8).map fun i => ((d.ctx x).collectives + i) % 2 ^ 32).take 8

/-- A collective number lies after the oldest eight (R467). -/
def Dev.laterCollective (d : Dev) (x n : Nat) : Bool :=
  !(d.openCollectives x).contains n && decide ((n + 2 ^ 32 - (d.ctx x).collectives) % 2 ^ 32 < 2 ^ 31)

/-- A2A_BLOCK (R458, R459, R467, log 99). -/
def execA2aBlock (port : Nat) (m : QMessage) (s : State) : Host.Outcome State Fault Refusal :=
  .next { s with dev := s.dev.onData port m 2 (fun d =>
    let x := m.ctxIx
    if d.laterCollective x m.coll then some (d.answerMessage m 3)
    else if d.bodyHeld m then none
    else
      let r := d.receiveBody port m
      some (if r.2 && (d.openCollectives x).contains m.coll then
          r.1.updCtx x fun c => { c with blocks := c.blocks.put 0 m.coll (c.blocks.get 0 m.coll + 1) }
        else r.1)) }

/-! ## Control messages that arrive (R469 to R475) -/

/-- Decision or report records of 8 bytes (R470, R471). -/
def handleRecords (b : List Byte) : Nat → List (Nat × Nat)
  | 0 => []
  | n + 1 => (field b 0 4, field b 4 1) :: handleRecords (b.drop 8) n

/-- TOKEN (R469, R470, R475): the token of the next step is taken; any other is discarded with PEER_ORDER. -/
def execToken (port : Nat) (m : QMessage) (s : State) : Host.Outcome State Fault Refusal :=
  .next { s with dev := s.dev.onMessage port m 3 (fun d =>
    let step := field m.body 0 8
    if step ≠ d.qlk.step + 1 then d.qlkLeaf 5 port m.src
    else (d.takeToken false (d.tokenRec step (field m.body 8 8) (handleRecords (m.body.drop 24) (field m.body 16 1)))).wakeTokens) }

/-- RESPONSE (R471, R472): the dealer records it; it is acknowledged. -/
def execResponse (port : Nat) (m : QMessage) (s : State) : Host.Outcome State Fault Refusal :=
  .next { s with dev := s.dev.onMessage port m 4 (fun d =>
    let d := if d.cascade.dealer = 1 then
        d.recordResponse m.src (field m.body 0 8) (handleRecords (m.body.drop 24) (field m.body 9 1)) (field m.body 16 8)
      else d
    (d.answerMessage m 0).wakeTokens) }

/-- The dealer records a STATUS (R472). -/
def Dev.recordStatus (d : Dev) (port m thermal progress : Nat) : Dev :=
  if d.cascade.dealer ≠ 1 then d
  else
    let d := d.updMember m fun k => { k with thermal := thermal % 8, progress := progress }
    if thermal = 4 then d.qlkLeaf 4 port m else d

/-- STATUS (R472). -/
def execStatus (port : Nat) (m : QMessage) (s : State) : Host.Outcome State Fault Refusal :=
  .next { s with dev := s.dev.onMessage port m 5 fun d => d.recordStatus port m.src (field m.body 8 1) (field m.body 16 8) }

/-- The operation whose message of a pair an XACK or XNAK names (R453). -/
def Dev.awaiting (d : Dev) (m : QMessage) : Option Place :=
  d.board.find? fun p => p.unacked.contains (m.src, m.dest % 2 ^ 32)

/-- XACK (R459, R464). -/
def execXack (port : Nat) (m : QMessage) (s : State) : Host.Outcome State Fault Refusal :=
  .next { s with dev := s.dev.onMessage port m 6 (fun d =>
    match d.awaiting m with
    | none => d
    | some p => (d.updPlace p.id fun q => { q with unacked := q.unacked.erase (m.src, m.dest % 2 ^ 32) }).pumpAll) }

/-- XNAK (R459, R467): the operation ends with PEER_ERROR; a block that found its receiver BUSY is sent again. -/
def execXnak (port : Nat) (m : QMessage) (s : State) : Host.Outcome State Fault Refusal :=
  .next { s with dev := s.dev.onMessage port m 7 (fun d =>
    match d.awaiting m with
    | none => d
    | some p =>
      let d := if m.reason = 3 ∧ p.op.opcode = 0x61 then
          let d := d.updPlace p.id fun q => { q with unacked := q.unacked.erase (m.src, m.dest % 2 ^ 32) }
          { d with qlk := { d.qlk with resend := d.qlk.resend ++ [(p.id, m.src, m.src - p.op.fld 3 0 2)] } }
        else d.updPlace p.id Place.peerError
      d.pumpAll) }

/-- A2A_RESEND_TIMER (R467): the blocks that found their receivers BUSY are sent again. -/
def execA2aResendTimer (s : State) : Host.Outcome State Fault Refusal :=
  let d := { s.dev with qlk := { s.dev.qlk with resend := [] } }
  .next { s with dev := (s.dev.qlk.resend.foldl (fun (d : Dev) (r : Nat × Nat × Nat) =>
    d.updPlace r.1 fun q => if q.status = .ok then { q with unsentMsgs := q.unsentMsgs ++ [r.2] } else q) d).pumpAll }

/-! ## STATUS (R472) -/

/-- A STATUS period: between AWAIT and RESPOND, or while a STEP_TOKEN has not retired (R472). -/
def Dev.reports (d : Dev) : Bool :=
  d.cascade.role != 0 && (d.qlk.reporting || d.board.any fun p => p.op.opcode == 0x62 && p.phase != .retired)

/-- MAX_THERMAL and PROGRESS of this module (R472). -/
def Dev.maxThermal (d : Dev) : Nat := ((List.range 12).map fun x => (d.mem.stack x).thermal.code).foldl max 0
def Dev.progress (d : Dev) : Nat :=
  let seat := d.layout.bind Layout.cascadeSeat
  (((List.range 128).filter fun k => (d.slotSeat k).isSome && d.slotSeat k == seat).map fun k => (d.slot k).opsRetired).foldl add64 0

/-- A module sends STATUS to the dealer; the dealer records its own (R472, log 97). -/
def Dev.sendStatus (d : Dev) : Dev :=
  if d.cascade.dealer = 1 then d.recordStatus 0 d.cascade.moduleIndex d.maxThermal d.progress
  else d.sendControl (d.message d.cascade.dealerIndex 5 ((d.layout.bind Layout.cascadeSeat).getD 0) 0 0 0 0
    (leBytes 8 d.qlk.step ++ leBytes 1 d.maxThermal ++ leBytes 7 0 ++ leBytes 8 d.progress) [])

/-- STATUS_TIMER (R472): 100,000 slow cycles have passed. -/
def execStatusTimer (s : State) : Host.Outcome State Fault Refusal :=
  .next { s with dev := if s.dev.reports then s.dev.sendStatus else s.dev }

/-- CAPPED and PROTECT, whose entry and exit are reported at once (R472). -/
def Thermal.hot (t : Thermal) : Bool := t == .capped || t == .protect

/-- TEMPERATURE_SAMPLE (R354 to R356, R472). -/
def execTemperatureSample (stack celsius : Nat) (s : State) : Host.Outcome State Fault Refusal :=
  .next (if 12 ≤ stack then s
    else
      let old := (s.dev.mem.stack stack).thermal
      let d := s.dev.sampleStack stack celsius
      let new := (d.mem.stack stack).thermal
      { s with dev := if old ≠ new ∧ (old.hot || new.hot) = true ∧ d.reports = true then d.sendStatus else d })

/-! ## Routes and exclusions (R456, R475, R477) -/

/-- QLK_ROUTE_WRITE (R456): ignored, with BAD_COMMAND, while a message on the pair awaits its XACK. -/
def execQlkRouteWrite (module v : Nat) (s : State) : Host.Outcome State Fault Refusal :=
  .next (if !s.ready then s
    else if (s.dev.board.any fun p => p.unacked.any (·.1 == module)) then { s with dev := s.dev.qlkLeaf 6 (s.dev.qlk.route.get 0 module % 8) module }
    else { s with dev := { s.dev with qlk := { s.dev.qlk with route := s.dev.qlk.route.put 0 module (v % 8 + 128 * (v.testBit 7).toNat) } } })

/-- QLK_EXCLUDE_WRITE (R475): an ISSUE no longer waits for an excluded member. -/
def execQlkExcludeWrite (word v : Nat) (s : State) : Host.Outcome State Fault Refusal :=
  .next (if !s.ready then s
    else { s with dev := ({ s.dev with qlk := { s.dev.qlk with exclude := s.dev.qlk.exclude.put 0 word (v % 2 ^ 32) } }).wakeTokens })

end Sys2Proof.Machine
end

