-- ==== Sys2Proof/Machine/CoreOps.lean ====
section
/-! DEFINITION. Core operations (08, 09): MATMUL, GEMV, VECTOR, REDUCE, SUMMARY, QUANTIZE, DEQUANTIZE and the re-run of a widening
pair (R267, R280 to R329). -/

namespace Sys2Proof.Machine

/-! ## Results -/

/-- A result matrix from its elements by row. -/
def Mat.ofElems (fmt cols : Nat) (es : List (List OutElem)) (po : List (List Bool)) : Mat :=
  ⟨fmt, es.length, cols, es.map fun r => r.map (·.code), [], po⟩

/-- The elements of a result: none is computed where the result is poisoned (R294). -/
def elemsOf (rows cols : Nat) (po : Nat → Nat → Bool) (f : Nat → Nat → OutElem) : List (List OutElem) :=
  (List.range rows).map fun r => (List.range cols).map fun c => if po r (c / 64) then {} else f r c

/-- The poison of a result by row and column block. -/
def poisonRows (rows cols : Nat) (po : Nat → Nat → Bool) : List (List Bool) :=
  (List.range rows).map fun r => (List.range (ceilDiv cols 64)).map fun j => po r j

/-- The units of the range [lo, hi) in the order in which a core runs them; an output block has `kb` units (R289). -/
def unitOrder (lo hi kb : Nat) : List Nat :=
  let us := (List.range (hi - lo)).map (lo + ·)
  let a := lo / kb
  let b := (hi - 1) / kb
  let tail := fun (u : Nat) => hi % kb != 0 && u / kb == b
  let head := fun (u : Nat) => lo % kb != 0 && u / kb == a
  if a = b then us else us.filter tail ++ us.filter (fun u => !tail u && !head u) ++ us.filter head

/-- The units of core number `i` of an operation, from and to (R288). -/
def Dev.unitRange (d : Dev) (p : Place) (i : Nat) : Nat × Nat :=
  let n := (d.opCores p).length
  (i * p.op.units / n, (i + 1) * p.op.units / n)

/-- They in the order in which the core runs them (R289). -/
def Dev.unitsOf (d : Dev) (p : Place) (i : Nat) : List Nat := unitOrder (d.unitRange p i).1 (d.unitRange p i).2 p.op.kBlocks

/-- The output positions, by row and column block, that a core's second fault poisons (R486). How far the core had come is a free value
(log 45): the units it had not completed of a MATMUL or GEMV, or the result tile in progress of another operation. -/
def Dev.failedAt (d : Dev) (p : Place) (rows cols : Nat) (f : Nat × Nat) : List (Nat × Nat × Nat) :=
  let free := Config.freeNat f.2
  if p.op.opcode = 0x40 ∨ p.op.opcode = 0x41 then
    let s := p.op.unitShape
    let nb := p.op.blockCols
    let us := d.unitsOf p ((d.opCores p).idxOf f.1)
    ((us.drop (free % max us.length 1)).map (· / p.op.kBlocks)).eraseDups.map fun b => (b / nb * s.1, s.1, b % nb * s.2 / 64)
  else
    let nb := ceilDiv cols 64
    let t := free % max (ceilDiv rows 64 * nb) 1
    [(t / nb * 64, 64, t % nb)]

/-- A position lies in one of them. -/
def hitsFailed (fs : List (Nat × Nat × Nat)) (r j : Nat) : Bool := fs.any fun f => decide (f.1 ≤ r) && decide (r < f.1 + f.2.1) && j == f.2.2

/-- All the positions that faults of an operation poison. -/
def Dev.failedOf (d : Dev) (p : Place) (rows cols : Nat) : List (Nat × Nat × Nat) := p.failed.flatMap (d.failedAt p rows cols)

/-- The result elements of an operation and their matrix, with the positions that faults of its cores poison (R294, R486). -/
def Dev.elemsOut (d : Dev) (p : Place) (rows cols fmt : Nat) (po : Nat → Nat → Bool) (f : Nat → Nat → OutElem) : List (List OutElem) × Mat :=
  let fs := d.failedOf p rows cols
  let po := fun r j => po r j || hitsFailed fs r j
  let es := elemsOf rows cols po f
  (es, Mat.ofElems fmt cols es (poisonRows rows cols po))

/-- Delivers the elements of an operation to its destination in word 2 (R92, R257, R274, R294). -/
def Dev.deliverElems (d : Dev) (p : Place) (m : Mio) (rows cols fmt : Nat) (po : Nat → Nat → Bool) (f : Nat → Nat → OutElem)
    (g : Place → Place) : Dev :=
  let r := d.elemsOut p rows cols fmt po f
  d.deliver p m 2 r.2 fun q => g (q.noteElems r.1)

/-! ## MATMUL and GEMV -/

/-- Column block j of a matrix holds a poisoned row (R294). -/
def Mat.colPoison (x : Mat) (j : Nat) : Bool := x.poison.any fun r => r.getD j false

/-- A and B as each core sees them; `bf` computes with B as BF16 (R322). -/
structure Factors where
  a : Nat → Mat
  b : Nat → Mat
  bf : Bool := false

/-- The pairs of an output element in ascending k, each read by the core that runs its K-block (R288). -/
def Dev.pairsOf (d : Dev) (p : Place) (f : Factors) (r c : Nat) : List (Elem × Elem) :=
  (List.range (p.op.fld 3 4 4)).map fun x =>
    let k := d.unitCore p (p.op.blockOf r c) (x / 64)
    let y := (f.b k).elem x c
    ((f.a k).elem r x, if f.bf then ⟨y.value, 0⟩ else y)

/-- The formats of A and B. -/
def Factors.fmts (f : Factors) (o : OpWord) : Nat × Nat := if f.bf then (4, 4) else (o.fld 4 4 1, o.fld 4 5 1)

/-- An output element of a MATMUL or GEMV. -/
def Dev.dotAt (d : Dev) (p : Place) (f : Factors) (r c : Nat) : OutElem :=
  dotElement (f.fmts p.op).1 (f.fmts p.op).2 (p.op.fld 4 6 1) (p.op.fld 4 7 1) (d.pairsOf p f r c)

/-- The cores that run units of output blocks. -/
def Dev.blockCores (d : Dev) (p : Place) (blocks : List Nat) : List Nat :=
  blocks.flatMap fun b => (List.range p.op.kBlocks).map (d.unitCore p b)

/-- The output rows that a poisoned row of A poisons, and the column blocks of 64 that a poisoned row of B does (R294). -/
def Dev.poisonOf (d : Dev) (p : Place) (f : Factors) : List Bool × List Bool :=
  let m := p.op.fld 3 0 4
  let n := p.op.fld 4 0 4
  ((List.range m).map fun r =>
      (p.readers 0 (d.blockCores p ((List.range p.op.blockCols).map fun i => p.op.blockOf r (i * p.op.unitShape.2)))).any fun k => (f.a k).rowPoison r,
   (List.range (ceilDiv n 64)).map fun j =>
      (p.readers 1 (d.blockCores p ((List.range m).flatMap fun r => (List.range (min 64 (n - 64 * j))).map fun c => p.op.blockOf r (64 * j + c)))).any fun k =>
        (f.b k).colPoison j)

/-! ## Accumulators (R269, R284, R286) -/

/-- The accumulators that a unit leaves, by number: the FP32 parts of its K-block in arrays A (0 to 63) and B (64 to 127), or in EXACT mode
the block sums. Masked positions are not accumulated (R286, log 146). -/
def Dev.unitParts (d : Dev) (p : Place) (f : Factors) (u : Nat) : List (Nat × Nat) :=
  let o := p.op
  let s := o.unitShape
  let r0 := u / o.kBlocks / o.blockCols * s.1
  let c0 := u / o.kBlocks % o.blockCols * s.2
  let k := u % o.kBlocks
  let fm := f.fmts o
  let split := fm.1 == 5
  (List.range (min s.1 (o.fld 3 0 4 - r0))).flatMap fun i => (List.range (min s.2 (o.fld 4 0 4 - c0))).map fun j =>
    let ab := ((d.pairsOf p f (r0 + i) (c0 + j)).drop (64 * k)).take 64
    if o.fld 4 7 1 = 1 then (j, ((exactBlock split ab k).n % 2 ^ 384).toNat)
    else (64 * (j / 8) + 8 * i + j % 8, (fp32.convert (normalPart (alignWidth fm.1 + alignWidth fm.2 + 4) (o.fld 4 7 1) split ab k).value).1)

/-- Writes accumulators of a core: the eight exact-mode ones, or those of the arrays. -/
def Core.setParts (k : Core) (exact : Bool) (ps : List (Nat × Nat)) : Core :=
  if exact then { k with exact := ps.foldl (fun m e => m.put 0 e.1 e.2) k.exact }
  else { k with acc := ps.foldl (fun m e => m.put 0 e.1 e.2) k.acc }

/-- The accumulators of an operation's cores hold the parts of the last unit that each has run; the GEMV unit's NORMAL parts are none of the
arrays' (R284, R295). -/
def Dev.setParts (d : Dev) (p : Place) (f : Factors) : Dev :=
  let exact := p.op.fld 4 7 1 == 1
  if p.op.opcode = 0x41 ∧ exact = false then d
  else (d.opCores p).zipIdx.foldl (fun e c => match (d.unitsOf p c.2).getLast? with
    | some u => e.updCore c.1 fun k => k.setParts exact (d.unitParts p f u)
    | none => e) d

/-! ## Combine buffers (R291, log 34) -/

/-- Cores whose whole range lies in an output block that an earlier core begins: number and block. -/
def Dev.helpers (d : Dev) (p : Place) : List (Nat × Nat) :=
  (List.range (d.opCores p).length).filterMap fun i =>
    let r := d.unitRange p i
    let b := r.1 / p.op.kBlocks
    if r.1 < r.2 ∧ r.1 % p.op.kBlocks ≠ 0 ∧ (r.2 - 1) / p.op.kBlocks = b then some (i, b) else none

/-- K-blocks of an output block as its cores run them from the start: first K-block and number, of its home core and of its helpers. -/
def Dev.blockLoads (d : Dev) (p : Place) (b : Nat) : List (Nat × Nat) :=
  let kb := p.op.kBlocks
  let hs := ((d.helpers p).filter (·.2 == b)).map fun h => d.unitRange p h.1
  (0, (hs.map (·.1)).headD (b * kb) - b * kb) :: hs.map fun r => (r.1 - b * kb, r.2 - r.1)

/-- The K-blocks that have been run when each core has run `t` units, and wait for an earlier one that has not. -/
def waitingAt (t : Nat) : List (Nat × Nat) → List Nat
  | [] => []
  | c :: rest => if t < c.2 then rest.flatMap fun x => (List.range (min t x.2)).map (x.1 + ·) else waitingAt t rest

/-- The first 17 or more K-blocks of an output block that wait at once: more than a combine buffer holds. -/
def Dev.overflowing (d : Dev) (p : Place) (b : Nat) : Option (List Nat) :=
  let cs := d.blockLoads p b
  ((List.range ((cs.map (·.2)).foldl max 0 + 1)).map fun t => waitingAt t cs).find? fun l => decide (16 < l.length)

/-- The home cores whose combine buffers fill: core, block, and the K-blocks that the buffer holds. -/
def Dev.fullBuffers (d : Dev) (p : Place) : List (Nat × Nat × List Nat) :=
  ((d.helpers p).map (·.2)).eraseDups.filterMap fun b => (d.overflowing p b).map fun l => (d.unitCore p b 0, b, l.take 16)

/-- Cores hold their parts for full combine buffers, and the operation shows ROUTE_CREDIT (R291). -/
def Dev.holdParts (d : Dev) (p : Place) (fs : List (Nat × Nat × List Nat)) : Dev :=
  let d := fs.foldl (fun (d : Dev) f => d.updCore f.1 fun k => { k with combine := f.2.2.map fun x => (p.id, f.2.1, x) }) d
  (d.updPlace p.id fun q => { q with combineHeld := true }).stallPlace p .routeCredit

/-- A MATMUL or GEMV whose parts fill a combine buffer goes on once space has been freed. -/
def Dev.whenCombined (f : Dev → Place → Dev) (d : Dev) (p : Place) : Dev :=
  if p.combineFreed then f d p
  else if p.combineHeld then d
  else
    let fs := d.fullBuffers p
    if fs.isEmpty then f d p else d.holdParts p fs

/-- Space frees in the combine buffers that an operation waits for: what they held is added, and its cores go on (R291). -/
def Dev.freeCombine (d : Dev) (p : Place) : Dev :=
  if !p.combineHeld then d
  else
    let d := (d.opCores p).foldl (fun (d : Dev) k => d.updCore k fun c => { c with combine := c.combine.filter fun e => e.1 != p.id }) d
    d.updPlace p.id fun q => { q with combineHeld := false, combineFreed := true, stall := .none }

/-- COMBINE_BUFFER_SPACE_FREED (R291). -/
def execCombineBufferSpaceFreed (place : Nat) (s : State) : Host.Outcome State Fault Refusal :=
  .next (match s.dev.place place with
    | none => s
    | some p => { s with dev := s.dev.freeCombine p })

/-! ## The work of MATMUL and GEMV -/

/-- B is read: a GEMV reads it from memory once for every output row (R297). -/
def Mio.readB (m : Mio) (g : Agent) (p : Place) : Mio × (Nat → Mat) :=
  let r := m.sourceBy g p 1
  if p.op.opcode = 0x41 ∧ paysFor p.payload 1 = false ∧ (p.op.ref 1).kind = 0 then
    (iter (fun m => if m.waits || m.fault then m else (m.sourceBy g p 1).1) (p.op.fld 3 0 4 - 1) r.1, r.2)
  else r

/-- The result elements of a product and their matrix (R267, R294, R486). -/
def Dev.product (d : Dev) (p : Place) (f : Factors) : List (List OutElem) × Mat :=
  let po := d.poisonOf p f
  d.elemsOut p (p.op.fld 3 0 4) (p.op.fld 4 0 4) (p.op.fld 4 6 1) (fun r j => po.1.getD r false || po.2.getD j false) (d.dotAt p f)

/-- A product goes to C. -/
def Dev.sendProduct (d : Dev) (p : Place) (m : Mio) (f : Factors) (g : Place → Place) : Dev :=
  let r := d.product p f
  d.deliver p { m with dev := m.dev.setParts p f } 2 r.2 fun q => g (q.noteElems r.1)

/-- Reads A and B for an operation's first pass. -/
def Dev.readFactors (d : Dev) (p : Place) : Mio × Factors :=
  let a := (d.io p).sourceBy (d.agent p) p 0
  let b := a.1.readB (d.agent p) p
  (b.1, { a := a.2, b := b.2 })

/-- The QUANTIZE of a widening pair has not retired: its partner sends nothing yet (R321). -/
def Dev.pairOpen (d : Dev) (p : Place) : Bool :=
  match p.partner.bind d.place with
  | some q => q.op.opcode == 0x4A && !q.gone
  | none => false

/-- The first pass of a widening pair's partner: it computes as usual, and its home cores keep the result (R321). -/
def Dev.firstPass (d : Dev) (p : Place) : Dev :=
  let r := d.readFactors p
  let x := d.product p r.2
  d.conclude p { r.1 with dev := r.1.dev.setParts p r.2 } fun d => d.updPlace p.id fun q =>
    { q.noteElems x.1 with result := some ⟨x.2.codes, x.2.poison⟩ }

/-- The partner sends the result that it kept (R321). -/
def Dev.sendKept (d : Dev) (p : Place) (k : KeptResult) : Dev :=
  d.deliver p { dev := d } 2 ⟨p.op.fld 4 6 1, p.op.fld 3 0 4, p.op.fld 4 0 4, k.codes, [], k.poison⟩ fun q => { q with result := none }

/-- The work of MATMUL and GEMV (R267, R295). The partner of a widening pair keeps its result until the QUANTIZE retires, and sends it if no
segment exceeded its headroom; otherwise only the re-run sends (R321). -/
def Dev.workMatmul (d : Dev) (p : Place) : Dev :=
  if p.partner.isSome then
    match p.result with
    | none => d.firstPass p
    | some k => if d.pairOpen p || decide (0 < p.exceeded) then d else d.sendKept p k
  else
    let r := d.readFactors p
    d.sendProduct p r.1 r.2 id

/-- MATMUL (R267). -/
def execMatmul (place : Nat) (s : State) : Host.Outcome State Fault Refusal :=
  .next { s with dev := s.dev.runOp place (·.opcode == 0x40) (Dev.whenFed (Dev.whenCombined Dev.workMatmul)) }

/-- GEMV (R295). -/
def execGemv (place : Nat) (s : State) : Host.Outcome State Fault Refusal :=
  .next { s with dev := s.dev.runOp place (·.opcode == 0x41) (Dev.whenFed (Dev.whenCombined Dev.workMatmul)) }

/-- The segments that a widening QUANTIZE kept, as BF16 without a shift (R321, R322). -/
def Place.keptMat (p : Place) : Mat :=
  ({ p with arrived := p.kept.map fun t => (⟨0, t.sequence, t, none⟩ : Arrived) } : Place).streamMat 0 (p.op.fld 3 0 4) (p.op.fld 3 4 4) 4

/-- The work of a re-run, after the first pass: it reads B again, and both operations of the pair carry WIDENED (R322). -/
def Dev.workRerun (d : Dev) (p : Place) : Dev :=
  if d.pairOpen p || p.exceeded == 0 || p.result.isNone then d
  else
    let b := ({ dev := d } : Mio).readB (d.agent p) p
    d.sendProduct p b.1 { a := fun _ => p.keptMat, b := b.2, bf := true } fun q =>
      { q with flags := { q.flags with widened := true }, kept := [], result := none }

/-- WIDENING_RERUN (R321, R322). -/
def execWideningRerun (place : Nat) (s : State) : Host.Outcome State Fault Refusal :=
  .next { s with dev := s.dev.runOp place (fun o => o.opcode == 0x40 || o.opcode == 0x41) (Dev.whenFed Dev.workRerun) }

/-! ## VECTOR (R298 to R301) -/

/-- The SRC2 element of a position, by the shape of SRC2. -/
def src2At (shape : Nat) (y : Mat) (r c : Nat) : Num :=
  match shape with
  | 0 => y.wide r c
  | 1 => y.wide 0 c
  | _ => y.wide r 0

/-- A poisoned row of SRC2 that poisons output row r: its row r, or the row of a row vector (R294). -/
def src2Poison (shape : Nat) (y : Mat) (r : Nat) : Bool := y.rowPoison (if shape = 1 then 0 else r)

/-- The rows of the output that SRC2 poisons, as the cores of each row see it. -/
def Dev.src2Rows (d : Dev) (p : Place) (shape rows cols : Nat) (y : Nat → Mat) : List Bool :=
  let cores := fun (r : Nat) => (List.range cols).map (d.elementCore p r)
  let all := p.readers 1 ((List.range rows).flatMap cores)
  (List.range rows).map fun r => (if shape = 1 then all else p.readers 1 (cores r)).any fun k => src2Poison shape (y k) r

/-- The work of VECTOR (R299). -/
def Dev.workVector (d : Dev) (p : Place) : Dev :=
  let g := d.agent p
  let r := (d.io p).source g p 0 (d.elementCore p)
  let x := r.2
  let f := p.op.fld 4 4 1
  let out := p.op.fld 4 6 1
  let imm := fp32.decode (p.op.fld 4 0 4)
  if vecBinary (f % 64) then
    let q := r.1.sourceBy g p 1
    let bad := d.src2Rows p (f / 64) x.rows x.cols q.2
    d.deliverElems p q.1 x.rows x.cols out (fun i _ => x.rowPoison i || bad.getD i false)
      (fun i j => vecElement (f % 64) out (x.wide i j) (src2At (f / 64) (q.2 (d.elementCore p i j)) i j) imm) id
  else
    d.deliverElems p r.1 x.rows x.cols out (fun i _ => x.rowPoison i)
      (fun i j => vecElement (f % 64) out (x.wide i j) .zero imm) id

/-- VECTOR (R299). -/
def execVector (place : Nat) (s : State) : Host.Outcome State Fault Refusal :=
  .next { s with dev := s.dev.runOp place (·.opcode == 0x48) (Dev.whenFed Dev.workVector) }

/-! ## REDUCE and SUMMARY (R303 to R309) -/

/-- The widened elements of row r, and of column c. -/
def Mat.rowWide (x : Mat) (r : Nat) : List Num := (List.range x.cols).map fun c => x.wide r c
def Mat.colWide (x : Mat) (c : Nat) : List Num := (List.range x.rows).map fun r => x.wide r c

/-- The work of REDUCE (R303 to R305). -/
def Dev.workReduce (d : Dev) (p : Place) : Dev :=
  let r := (d.io p).source (d.agent p) p 0 (d.elementCore p)
  let x := r.2
  let f := p.op.fld 4 0 1
  let out := p.op.fld 4 3 1
  if p.op.fld 4 1 1 = 0 then
    d.deliverElems p r.1 x.rows 1 out (fun i _ => x.rowPoison i) (fun i _ => reduceElement f out (x.rowWide i)) id
  else
    d.deliverElems p r.1 1 x.cols out (fun _ _ => x.anyPoison) (fun _ j => reduceElement f out (x.colWide j)) id

/-- REDUCE (R304). -/
def execReduce (place : Nat) (s : State) : Host.Outcome State Fault Refusal :=
  .next { s with dev := s.dev.runOp place (·.opcode == 0x49) (Dev.whenFed Dev.workReduce) }

/-- SUMn of a poisoned source (R309). -/
def poisonedSummary (kind : Nat) : Nat := if kind = 0 ∨ kind = 1 then 0x7FC00000 else 0xFFFFFFFFFFFFFFFF

/-- The value and OVERFLOW of a summary of a matrix in row-major order (R103, R308, R309). -/
def summaryValue (kind threshold : Nat) (x : Mat) : Nat × Bool :=
  if x.anyPoison then (poisonedSummary kind, false)
  else summaryOf kind threshold ((List.range x.rows).flatMap fun r => x.rowWide r)

/-- The work of SUMMARY (R308): SUMn is written when it retires. -/
def Dev.workSummary (d : Dev) (p : Place) : Dev :=
  let r := (d.io p).source (d.agent p) p 0 (d.elementCore p)
  let x := if p.failed.isEmpty then r.2 else { r.2 with poison := [[true]] }
  let v := summaryValue (p.op.fld 4 0 1) (p.op.fld 1 0 4) x
  d.conclude p r.1 fun d => d.updPlace p.id fun q =>
    { q.finish with summary := some (p.op.fld 4 2 1, v.1),
                    flags := q.flags.or { overflow := v.2, poisoned := x.anyPoison } }

/-- SUMMARY (R308). -/
def execSummary (place : Nat) (s : State) : Host.Outcome State Fault Refusal :=
  .next { s with dev := s.dev.runOp place (·.opcode == 0x50) (Dev.whenFed Dev.workSummary) }

/-! ## QUANTIZE (R310 to R321, R324, R327) -/

/-- What a QUANTIZE makes of its source: a segment for each row and column block, none where it is poisoned. -/
def quantRows (out : Nat) (h : Int) (x : Mat) : List (List (Option SegOut)) :=
  (List.range x.rows).map fun r => (List.range x.blocks).map fun j =>
    if x.poisonAt r j then none
    else some (quantSegment out h (((x.rowWide r).drop (64 * j)).take 64))

/-- The codes and the shifts of a quantised matrix; a poisoned segment is zeros with shift 0 (R294). -/
def quantMat (out : Nat) (x : Mat) (segs : List (List (Option SegOut))) : Mat :=
  { fmt := out, rows := x.rows, cols := x.cols, poison := x.poison,
    codes := segs.map fun r => r.zipIdx.flatMap fun q => match q.1 with
      | some g => g.codes
      | none => List.replicate (min 64 (x.cols - 64 * q.2)) 0,
    shifts := segs.map fun r => r.map fun q => (q.map (·.shift)).getD 0 }

/-- The segments that were converted. -/
def segsOf (segs : List (List (Option SegOut))) : List SegOut := segs.flatMap fun r => r.filterMap id

/-- The first offender of a QUANTIZE (R274, R315). -/
def quantOffender (segs : List (List (Option SegOut))) : Option Offender :=
  segs.zipIdx.findSome? fun r => r.1.zipIdx.findSome? fun g =>
    g.1.bind fun s => s.invalid.map fun c => (⟨r.2, 64 * g.2 + c, 0⟩ : Offender)

/-- The flags of a QUANTIZE (R313, R315, R317, R318, R321): a segment beyond its headroom sets OVERFLOW unless the pair widens. -/
def quantFlags (widen : Bool) (gs : List SegOut) : Flags :=
  { invalid := gs.any fun g => g.invalid.isSome, crushed := gs.any fun g => decide (0 < g.crushed),
    overflow := gs.any fun g => g.capped || (g.exceeds && !widen), widened := widen && gs.any (·.exceeds) }

/-- The number of segments beyond their headroom. -/
def exceededOf (gs : List SegOut) : Nat := (gs.filter (·.exceeds)).length

/-- The counters of a ring (R329). -/
def Ring.countQuant (r : Ring) (widen : Bool) (gs : List SegOut) : Ring :=
  { r with crushed := satInc32 r.crushed ((gs.map (·.crushed)).foldl (· + ·) 0),
           widened := if widen then satInc32 r.widened (exceededOf gs) else r.widened,
           clamped := if widen then r.clamped else satInc32 r.clamped (exceededOf gs) }

/-- The scale matrix of a quantised matrix, one column for each column block. -/
def Mat.scales (x : Mat) : Mat :=
  { fmt := 10, rows := x.rows, cols := x.blocks, codes := x.shifts.map fun r => r.map fun s => (s % 256).toNat }

/-- The scale tiles beside the data tiles (R324): FORMAT SHIFT8, one column, the ROWS and SEQUENCE of the data tile. -/
def Mat.scaleTiles (x : Mat) (stream base : Nat) : List Tile :=
  (List.range (ceilDiv x.rows 64)).flatMap fun i => (List.range x.blocks).map fun j =>
    let rows := min 64 (x.rows - 64 * i)
    let rs := List.range rows
    Tile.sealed { format := 10, rows := rows, cols := 1, stream := stream + 2 ^ 31, sequence := (base + i * x.blocks + j) % 2 ^ 32,
                  poison := (rs.map fun r => if x.poisonAt (64 * i + r) j then 2 ^ r else 0).foldl (· + ·) 0,
                  payload := padTo (rs.flatMap fun r => codesRow 10 [(x.shiftAt (64 * i + r) (64 * j) % 256).toNat]) 64 }

/-- The bytes of the shift array in memory, with their poison (R327). -/
def Mat.shiftArray (x : Mat) : List Byte × List Bool :=
  ((List.range x.rows).flatMap fun r => (List.range x.blocks).map fun j => BitVec.ofNat 8 (x.shiftAt r (64 * j) % 256).toNat,
   (List.range x.rows).flatMap fun r => (List.range x.blocks).map fun j => x.poisonAt r j)

/-- The source of a widening pair as its cores keep it: BF16, to nearest even, as tiles of the partner's A (R321). -/
def Mat.keep (x : Mat) (base : Nat) : List Tile :=
  ({ fmt := 4, rows := x.rows, cols := x.cols, poison := x.poison,
     codes := (List.range x.rows).map fun r => (x.rowWide r).map fun v => (bf16.convert v).1 } : Mat).tiles 0 base 0

/-- A source element that a widening pair keeps overflows BF16 (R257, log 92). -/
def Mat.keepOverflows (x : Mat) : Bool :=
  (List.range x.rows).any fun r => (x.rowWide r).zipIdx.any fun v => !x.poisonAt r (v.2 / 64) && (bf16.convert v.1).2.1

/-- The partner of a widening pair learns what the QUANTIZE kept (R321). -/
def Dev.tellPartner (d : Dev) (p : Place) (x : Mat) (n : Nat) : Dev :=
  match p.partner with
  | none => d
  | some k => d.updPlace k fun q => { q with exceeded := n, kept := if n = 0 then [] else x.keep q.op.seqBase }

/-- The work of QUANTIZE (R313 to R321, R324, R327). -/
def Dev.workQuantize (d : Dev) (p : Place) : Dev :=
  let g := d.agent p
  let r := (d.io p).source g p 0 (d.elementCore p)
  let fs := d.failedOf p r.2.rows r.2.cols
  let x := { r.2 with poison := (List.range r.2.rows).map fun i => (List.range r.2.blocks).map fun j => r.2.rowPoison i || hitsFailed fs i j }
  let widen := p.op.widens
  let segs := quantRows (p.op.fld 4 3 1) (sbyte (p.op.fld 4 0 1)) x
  let gs := segsOf segs
  let y := quantMat (p.op.fld 4 3 1) x segs
  let o := p.op.ref 2
  let fin := fun (d : Dev) =>
    let d := d.updPlace p.id fun q =>
      { q.finish with flags := (q.flags.or (quantFlags widen gs)).or { poisoned := x.anyPoison, overflow := widen && x.keepOverflows }, offender := quantOffender segs }
    (d.updRing p.ring fun k => k.countQuant widen gs).tellPartner p x (if widen then exceededOf gs else 0)
  if o.kind = 1 then
    d.conclude p r.1 fun d =>
      (fin d).produce p ((y.tiles o.addr p.op.seqBase 2).zip (y.scaleTiles o.addr p.op.seqBase) |>.flatMap fun t => [t.1, t.2])
  else
    let a := y.shiftArray
    d.conclude p ((r.1.writeMat g o (rowBytes y.fmt y.cols) y).write g o (shiftBase o.addr y.fmt y.rows y.cols) a.1 a.2) fin

/-- QUANTIZE (R313). -/
def execQuantize (place : Nat) (s : State) : Host.Outcome State Fault Refusal :=
  .next { s with dev := s.dev.runOp place (·.opcode == 0x4A) (Dev.whenFed Dev.workQuantize) }

/-! ## DEQUANTIZE (R328) -/

/-- A quantised matrix in memory (R327): its shift array joins it; a poisoned shift byte reads 0 and poisons its row (R294, R328). -/
def Mio.readQuantised (m : Mio) (g : Agent) (p : Place) : Mio × Mat :=
  let s := p.op.shape 0
  let r := m.readMat g p 0 (rowBytes s.2.2 s.2.1) s.1 s.2.1 s.2.2
  let nb := ceilDiv s.2.1 64
  let q := r.1.readOperand g p 0 (shiftBase 0 s.2.2 s.1 s.2.1) (s.1 * nb)
  let bad := fun (i j : Nat) => q.2.2.getD (i * nb + j) false
  (q.1, { r.2 with
    shifts := (List.range s.1).map fun i => (List.range nb).map fun j =>
      if bad i j then 0 else sbyte (q.2.1.getD (i * nb + j) 0).toNat,
    poison := (List.range s.1).map fun i => (List.range nb).map fun j => r.2.poisonAt i j || bad i j })

/-- One element of a DEQUANTIZE (R257, R328). -/
def dequantElement (out : Nat) (v : Num) : OutElem :=
  match floatFmt out with
  | none => {}
  | some f => let r := f.convert v; { code := r.1, overflow := r.2.1 }

/-- The work of DEQUANTIZE (R328). -/
def Dev.workDequantize (d : Dev) (p : Place) : Dev :=
  let g := d.agent p
  let m := d.io p
  let r := if paysFor p.payload 0 || (p.op.ref 0).kind == 0 then m.readQuantised g p else m.source g p 0 (d.elementCore p)
  let x := r.2
  let out := p.op.fld 4 3 1
  d.deliverElems p r.1 x.rows x.cols out (fun i _ => x.rowPoison i) (fun i j => dequantElement out ((x.elem i j).value)) id

/-- DEQUANTIZE (R328). -/
def execDequantize (place : Nat) (s : State) : Host.Outcome State Fault Refusal :=
  .next { s with dev := s.dev.runOp place (·.opcode == 0x4B) (Dev.whenFed Dev.workDequantize) }

end Sys2Proof.Machine
end

