-- ==== Sys2Proof/Machine/Layout.lean ====
section
/-! DEFINITION. The layout block (02): loading, validation, the swap and all that a swap point does, and provider keys. -/

namespace Sys2Proof.Machine

/-! ## Loading and validation (R62 to R67) -/

/-- A command of LAY_CMD or LAY_KEY_CTRL that is ignored (R64, R80). -/
def State.badLayout (s : State) : State := s.setLeaf .lay 5

/-- The shadow is REFUSED with a code, a section and a record; `leaf` sets REFUSED (R67, log 18). -/
def State.refuseLayout (s : State) (code sect entry : Nat) (leaf : Bool) : State :=
  let s : State := { s with lay := { s.lay with shadow := .refused, code := code, section_ := sect, entry := entry, staged := none },
                            dev := { s.dev with swapStop := [] } }
  if leaf then s.setLeaf .lay 0 else s

/-- LAY_LOAD (R63, R64); a firmware update holds the shadow buffer until it leaves WRITING (R545). -/
def execLayLoad (s : State) : Host.Outcome State Fault Refusal :=
  .next (if !s.ready then s
    else if s.mgt.state == .staging || s.mgt.state == .verifying || s.mgt.state == .writing then s.badLayout
    else match s.lay.shadow with
      | .empty | .loaded | .valid | .refused | .retired =>
        { s with lay := { s.lay with shadow := .loading, loaded := 0, image := [], staged := none } }
      | _ => s.badLayout)

/-- Bytes stand in the shadow buffer of 32 MiB (R42, R62). -/
def State.fillShadow (s : State) (bytes : List Byte) : State :=
  { s with dev := s.dev.writeInternal (layoutBuffer (1 - s.lay.activeBuffer)) bytes }

/-- M0's die takes a write of `n` bytes to the shadow buffer (R356). -/
def State.shadowOpen (s : State) (n : Nat) : Bool := !s.dev.rangeBlocked (layoutBuffer (1 - s.lay.activeBuffer)) n

/-- LAYOUT_COPY_DONE (R42, R64): the bytes that the copy brought; it does not end while M0's die takes no write (R356). -/
def execLayoutCopyDone (bytes : List Byte) (s : State) : Host.Outcome State Fault Refusal :=
  .next (if s.lay.shadow ≠ .loading ∨ s.shadowOpen bytes.length = false then s
    else
      let s : State := { s.fillShadow (bytes.take 0x2000000) with lay := { s.lay with loaded := bytes.length % 2 ^ 25, image := bytes } }
      if bytes.length = s.lay.srcLen ∧ field bytes 0x10 8 = bytes.length then { s with lay := { s.lay with shadow := .loaded } }
      else s.refuseLayout 1 0 0 true)

/-- LAY_VALIDATE (R65). -/
def execLayValidate (s : State) : Host.Outcome State Fault Refusal :=
  .next (if !s.ready then s
    else if s.lay.shadow = .loaded then { s with lay := { s.lay with shadow := .validating } } else s.badLayout)

/-- The physical ranges that enabled segments hold, with their seats (R383). -/
def Dev.heldRanges (d : Dev) : List Held :=
  d.ctxs.flatMap fun c => (c.2.segs.filter (·.2.enable)).map fun g => (g.2.pbase, g.2.length * 65536, c.1 / 16)

/-- What an image is validated against now. -/
def State.against (s : State) : Against :=
  { keys := s.lay.keys, firmware := s.mgt.running.version, serial := (s.dev.layout.map (·.serial)).getD 0, fenced := s.dev.chk.fenced,
    spares := (List.range 12).map s.dev.mem.spareBase, held := s.dev.heldRanges }

/-- LAYOUT_VALIDATION_DONE (R65 to R67). -/
def execLayoutValidationDone (s : State) : Host.Outcome State Fault Refusal :=
  .next (if s.lay.shadow ≠ .validating then s
    else match validate s.lay.image s.against with
      | none => { s with lay := { s.lay with shadow := .valid, staged := some (Layout.ofBytes s.lay.image), code := 0, section_ := 0, entry := 0 } }
      | some (c, h) => s.refuseLayout c h.1 h.2 true)

/-! ## What a swap point does (R70 to R72, R140, R332, R372, R383, R589) -/

/-- The tables whose records differ between two images (R70). -/
def changedTables (old new : List TableRec) : List Nat :=
  ((old.filter fun t => !new.contains t) ++ (new.filter fun t => !old.contains t)).map (·.table)

/-- A table has a committed but unsettled trick (R70). -/
def Trk.unsettled (k : Trk) (t : Nat) : Bool :=
  k.staged.any fun r => r.table == t && r.kind == 1 && k.tricks.any fun q =>
    q.entry == r.trick && (q.state == .committing || q.state == .committed)

/-- Open tricks of a changed seat are aborted (R71, R221, log 66). -/
def Trk.abortSeat (k : Trk) (n : Nat) : Trk :=
  let gone := (k.tricks.filter fun t => t.seat == n && (t.state == .open_ || t.state == .commit)).map (·.entry)
  { k with tricks := k.tricks.map fun t => if gone.contains t.entry then { t with state := .aborted, commit := none } else t,
           staged := k.staged.filter fun r => !(gone.contains r.trick && r.epoch.isNone) }

/-- A line holds a row of a table, or bytes of one of the areas given. -/
def Line.ofTables (l : Line) (ids : List Nat) (areas : List Extent) : Bool :=
  l.row.any (fun r => ids.contains r.1) || areas.any fun e => decide (e.start ≤ 64 * l.atom) && decide (64 * l.atom < e.start + e.len)

/-- Tables whose records change hold no rows: their records, replicas and lines go, and their frames read zeros (R71, log 19). -/
def Dev.emptyTables (d : Dev) (ids : List Nat) (new : List TableRec) : Dev :=
  let d := d.dropLines fun l => l.ofTables ids (((d.trk.placed ++ new).filter fun t => ids.contains t.table).flatMap fun t => t.areas 0)
  let d := { d with trk := { d.trk with staged := d.trk.staged.filter fun r => !ids.contains r.table,
                                        replicas := d.trk.replicas.filter fun r => !ids.contains r.table, placed := new } }
  let areas := (new.filter fun t => ids.contains t.table).flatMap fun t => t.areas 0
  { d with mem := areas.foldl (fun m e => m.zeroFrames (stackOf e.start) (frameOf e.start) (e.len / 65536)) d.mem }

/-- A seat leaves use: the handoff at a swap point (R372, R404, R406). Its cores and lines go at once, the rest of the scrub
ends with SCRUB_DONE. -/
def Dev.seatLeaves (d : Dev) (n : Nat) : Dev :=
  let d := d.zeroClusters (d.clustersOf n)
  let d := d.dropLines fun l => tagSeat l.tag == n
  let d := d.zeroSave (d.seatRec n)
  let d := (d.scrubSeat n).endTricks n
  (d.startScrub n).updSeat n fun k => { k with leaving := true }

/-- A seat comes into use: its contexts start fresh and its clusters' clocks start (R372, R373, R529). -/
def Dev.seatArrives (d : Dev) (n : Nat) (new : Layout) : Dev :=
  let d := (List.range 16).foldl (fun d c => d.freshCtx (16 * n + c)) d
  let d := { d with clkStarting := (new.clustersOf n).foldl (fun l c => insertAsc c l) d.clkStarting }
  d.updSeat n fun k => if k.state = .unused then { k with state := .inService } else k

/-- A seat forgets a context that ceases to exist: it is not loaded, and no slice, save or restore of it is on its way. -/
def Seat.forget (k : Seat) (c : Nat) : Seat :=
  let k := if k.next = some c then { k with next := none } else k
  let k := if (k.moving.map (·.1)) = some c then { k with moving := none, checking := false } else k
  if k.loaded = some c then { k with loaded := none, expired := none, next := none } else k

/-- The contexts of seats that stay in use which a lower CONTEXTS removes (R589). -/
def Dev.removedOf (d : Dev) (new : Layout) (n : Nat) : List Nat :=
  if (d.seatRec n).kind != 0 && new.uses n then
    ((List.range 16).filter fun c => decide ((new.seat n).contexts ≤ c ∧ c < (d.seatRec n).contexts)).map (16 * n + ·)
  else []

/-- The covers of their segments, with the stack of each. -/
def Dev.removedCovers (d : Dev) (new : Layout) : List (Nat × Cover) :=
  ((List.range 64).flatMap (d.removedOf new)).flatMap fun x =>
    ((d.ctx x).segs.filter fun g => g.2.enable).map fun g => (stackOf g.2.pbase, g.2.cover x)

/-- A context ceases to exist (R589); its frames follow when the new image has given its covers (Dev.freeRemoved). -/
def Dev.removeCtx (d : Dev) (x : Nat) : Dev :=
  let d := (List.range 8).foldl (fun d g => d.closeSeg x g) d
  let d := d.dropLines fun l => l.tag == tagOf x
  let d := d.closeWindows (· == x)
  (d.freshCtx x).updSeat (x / 16) (·.forget (x % 16))

/-- Frames of removed segments that nothing else covers under the new image become FREE with ZERO_PENDING (R589). -/
def Dev.freeRemoved (d : Dev) (cs : List (Nat × Cover)) : Dev := cs.foldl (fun d c => d.uncover c.1 c.2) d

/-- A changed seat that stays in use (R403, R407, R589, log 67). -/
def Dev.seatStays (d : Dev) (n : Nat) (new : Layout) : Dev :=
  let a := d.seatRec n
  let b := new.seat n
  let was := d.clustersOf n
  let is := new.clustersOf n
  let moved := was.filter (fun c => !is.contains c) ++ is.filter (fun c => !was.contains c)
  let d := d.zeroClusters moved
  let d := { d with clkStarting := (is.filter fun c => !was.contains c).foldl (fun l c => insertAsc c l) d.clkStarting }
  let d := (d.removedOf new n).foldl Dev.removeCtx d
  let d := ((List.range 16).filter fun c => decide (a.contexts ≤ c ∧ c < b.contexts)).foldl (fun d c => d.freshCtx (16 * n + c)) d
  let d := if a.clusters ≠ b.clusters ∨ a.contexts ≠ b.contexts ∨ a.saveBase ≠ b.saveBase ∨ a.saveLength ≠ b.saveLength then
      let d := (List.range 16).foldl (fun d c =>
        if (d.seat n).loaded = some c then d else d.updCtx (16 * n + c) fun k => { k with save := .none }) d
      ((d.zeroSave a).zeroSave b).updSeat n fun k => { k with graphs := [] }
    else d
  d.updSeat n fun k => if a.kind = b.kind then k else { k with loaded := none, next := none, expired := none, moving := none }

/-- A seat at the swap point. -/
def Dev.swapSeat (new : Layout) (d : Dev) (n : Nat) : Dev :=
  let was := (d.seatRec n).kind != 0
  if was && !new.uses n then d.seatLeaves n
  else if !was && new.uses n then d.seatArrives n new
  else if new.uses n && seatChanged d.layout new n then d.seatStays n new
  else d

/-- A ring at the swap point (R129). -/
def Dev.swapRing (new : Layout) (d : Dev) (i : Nat) : Dev :=
  let r := new.rings.getD i {}
  if !d.held && d.ringRec i == r then d
  else if r.assigned then d.updRing i fun g => g.startEmpty .running
  else d.setRing i { generation := (d.ring i).generation }

/-- A slot at the swap point: its counters start at 0 when its seat changes (R162); PERIOD stays (R169). -/
def Dev.swapSlot (new : Layout) (d : Dev) (i : Nat) : Dev :=
  let n := new.slots.getD i 255
  if !d.held && d.slotSeat i == (if n < 64 then some n else none) then d else d.updSlot i fun k => { recheck := k.recheck }

/-- Routes of the new image; one that stands in both images keeps its state (R92). -/
def swapRoutes (old : List Route) (new : List RouteRec) : List Route :=
  new.map fun r => match old.find? (·.spec == r) with
    | some q => q
    | none => { spec := r, credits := r.credits }

/-- The covers of stack x under an image and the segments that are enabled (R383). -/
def Dev.coversOf (d : Dev) (l : Layout) (x : Nat) : List Cover :=
  let dev := (reserved x (d.mem.spareBase x)).map fun r => (⟨frameOf r.1, r.2 / 65536, .device, 0⟩ : Cover)
  let placed := (l.extents.filter fun e => stackOf e.start == x).map Extent.cover
  let segs := d.ctxs.flatMap fun c => (c.2.segs.filter fun g => g.2.enable && stackOf g.2.pbase == x).map fun g => g.2.cover c.1
  dev ++ placed ++ segs

/-- The pins of stack x under an image (R176, R224, R332). -/
def Layout.pinsOf (l : Layout) (x : Nat) : List Pin :=
  let stage := if x = 0 then 0xEFC00 else 0xF0000
  let sections := (List.range 64).map fun p => (⟨stage + 1024 * p, 1024, p⟩ : Pin)
  sections ++ (l.tables.filter fun t => t.dies.contains x).flatMap fun t =>
    t.pcs.zipIdx.map fun p => (⟨(t.base + p.2 * t.part) / 65536, t.part / 65536, p.1⟩ : Pin)

/-- Stack x takes covers and pins of the new image; a frame with contents whose placement changes loses them (R332). -/
def Dev.swapStack (new : Layout) (d : Dev) (x : Nat) : Dev :=
  let k := d.mem.stack x
  let k' := { k with covers := d.coversOf new x, pins := new.pinsOf x, pinSpare := some (d.mem.spareBase x) }
  let lost := ((k.frames.filter fun f => !f.2.zero).map (·.1)).filter fun f => k.pinOf f != k'.pinOf f
  let d := d.updStack x fun _ => k'
  lost.foldl (fun d f => { d.tickFree with mem := d.mem.loseFrame x f (d.free + 1) }) d

/-- Drops the lines whose tags fail the check under the new frame map (R384). -/
def Dev.dropUnowned (d : Dev) : Dev :=
  d.dropLines fun l => !(d.mem.frame (stackOf (64 * l.atom)) (frameOf (64 * l.atom))).admits l.tag

/-- Domains that the new image enables rise, those it disables fall (R72, R526). -/
def Dev.swapDomains (d : Dev) (new : Layout) : Dev :=
  { d with domainRising := (List.range 20).filter fun i => new.domains.testBit i && !d.domainOn.testBit i,
           domainFalling := (List.range 20).filter fun i => d.domainOn.testBit i && !new.domains.testBit i }

/-- A FENCED seat that the new image uses without the fenced cluster is in service again (R372). -/
def Dev.unfence (d : Dev) : Dev :=
  (List.range 64).foldl (fun d n => d.updSeat n fun k =>
    if k.state = .fenced ∧ d.seatFenced n = false then { k with state := .inService } else k) d

/-- Open tricks of the changed seats end (R71). -/
def Dev.swapTricks (d : Dev) (new : Layout) : Dev := { d with trk := (changedSeats d.layout new).foldl Trk.abortSeat d.trk }

/-- Every seat, table, ring, slot and stack at the swap point. -/
def Dev.swapSeats (d : Dev) (new : Layout) : Dev := (List.range 64).foldl (Dev.swapSeat new) d
def Dev.swapTables (d : Dev) (new : Layout) : Dev := d.emptyTables (changedTables d.trk.placed new.tables) new.tables
def Dev.swapRings (d : Dev) (new : Layout) : Dev := (List.range 4096).foldl (Dev.swapRing new) d
def Dev.swapSlots (d : Dev) (new : Layout) : Dev := (List.range 128).foldl (Dev.swapSlot new) d
def Dev.swapStacks (d : Dev) (new : Layout) : Dev := (List.range 12).foldl (Dev.swapStack new) d

/-- The new image is the active one: its routes, its fenced cores, and its cascade at step 0. -/
def Dev.setImage (d : Dev) (new : Layout) : Dev :=
  { d with layout := some new, swapStop := [], routes := swapRoutes d.routes new.routes,
           chk := { d.chk with fenced := new.fenced.foldl (fun f k => insertAsc k f) d.chk.fenced },
           qlk := { d.qlk with step := 0, tokens := [],
                               members := d.qlk.members.foldl (fun m (e : Nat × Member) => SMap.put {} m e.1 { e.2 with step := none }) [] } }

/-- The device takes a new image (R70 to R72). -/
def Dev.takeImage (d : Dev) (new : Layout) : Dev :=
  let gone := d.removedCovers new
  let e := (((((d.swapTricks new).swapSeats new).swapTables new).swapRings new).swapSlots new).swapStacks new
  (((((e.freeRemoved gone).dropUnowned).setImage new).swapDomains new).settlePorts).unfence

/-- The swap point has come: every changed seat is quiescent and no table whose record changes has an unsettled trick
(R70, log 123). -/
def State.swapDue (s : State) (new : Layout) : Bool :=
  (changedSeats s.dev.layout new).all s.dev.quiescent
    && (changedTables ((s.dev.layout.map (·.tables)).getD []) new.tables).all fun t => s.dev.held || !s.dev.trk.unsettled t

/-- The checks that the swap point repeats: 0x12, then 0x15 (R70). -/
def State.recheck (s : State) (new : Layout) : Option (Nat × Hit) :=
  match checkFenced new s.dev.chk.fenced with
  | some h => some (0x12, h)
  | none => (checkOverlap new s.against.spares s.against.held).map fun h => (0x15, h)

/-- The swap point (R70): the buffers are exchanged, or the recheck refuses. -/
def State.swapNow (s : State) (new : Layout) : State :=
  match s.recheck new with
  | some (c, h) => s.refuseLayout c h.1 h.2 true
  | none =>
    let lay := { s.lay with shadow := .retired, activeBuffer := 1 - s.lay.activeBuffer, activeImage := s.lay.image,
                            image := s.lay.activeImage, staged := none, swapAt := some s.dev.slow }
    ({ s with dev := s.dev.takeImage new, lay := lay } : State).setLeaf .lay 2

/-- A pending swap passes its swap point if that has come. -/
def State.trySwap (s : State) : State :=
  match s.lay.shadow, s.lay.staged with
  | .swapPending, some new => if s.swapDue new then s.swapNow new else s
  | _, _ => s

/-- LAY_SWAP (R69, R77): the changed seats' slots start no step; while HELD the swap point comes at once. -/
def execLaySwap (s : State) : Host.Outcome State Fault Refusal :=
  .next (if !s.ready then s
    else match s.lay.shadow, s.lay.staged with
      | .valid, some new =>
        let t : State := { s with lay := { s.lay with shadow := .swapPending },
                                  dev := { s.dev with swapStop := changedSeats s.dev.layout new } }
        if s.dev.held then t.trySwap else t
      | _, _ => s.badLayout)

/-- SWAP_POINT (R70). -/
def execSwapPoint (s : State) : Host.Outcome State Fault Refusal := .next s.trySwap

/-- LAY_DISCARD (R64, R74): a pending swap is cancelled, unless its swap point falls in the same slow cycle (log 68). -/
def execLayDiscard (s : State) : Host.Outcome State Fault Refusal :=
  .next (if !s.ready then s
    else match s.lay.shadow with
      | .swapPending =>
        if (s.lay.staged.map s.swapDue).getD false then s.trySwap else s.refuseLayout 0x0D 0 0 false
      | .retired =>
        if s.lay.swapAt = some s.dev.slow then s
        else { s with lay := { s.lay with shadow := .empty, image := [], staged := none } }
      | .loading | .loaded | .valid | .refused => { s with lay := { s.lay with shadow := .empty, image := [], staged := none } }
      | _ => s.badLayout)

/-! ## Provider keys (R79, R80) -/

/-- The digest in LAY_KEY_HASH0 to 15. -/
def Lay.keyDigest (l : Lay) : List Byte := (List.range 16).flatMap fun i => leBytes 4 (l.keyHash.get 0 i)

/-- LAY_KEY_ENROLL (R80). -/
def execLayKeyEnroll (slot : Nat) (s : State) : Host.Outcome State Fault Refusal :=
  .next (if !s.ready then s
    else if s.dev.held && (s.lay.keys.getD slot none).isNone then
      { s with lay := { s.lay with keys := s.lay.keys.set slot (some s.lay.keyDigest) } }
    else s.badLayout)

/-- LAY_KEY_CLEAR (R80). -/
def execLayKeyClear (slot : Nat) (s : State) : Host.Outcome State Fault Refusal :=
  .next (if !s.ready then s
    else if s.dev.held then { s with lay := { s.lay with keys := s.lay.keys.set slot none } }
    else s.badLayout)

end Sys2Proof.Machine
end

