-- ==== Sys2Proof/Machine/HostLink.lean ====
section
/-! DEFINITION. The host link (12): windows, host-class accesses, EGRESS, host loss events, the completion log, and the CXL
memory-device commands (R412 to R441). -/

namespace Sys2Proof.Machine

/-! ## Windows (R418) -/

/-- The device physical range of a window. -/
def Window.holds (w : Window) (a n : Nat) : Bool :=
  w.enable && decide (w.base ≤ a) && decide (a + n ≤ w.base + w.length * 65536)

/-- Two windows overlap. -/
def Window.meets (w v : Window) : Bool :=
  decide (w.base < v.base + v.length * 65536) && decide (v.base < w.base + w.length * 65536)

/-- The bytes of the twelve stacks (R7, R417). -/
def dpaEnd : Nat := 12 * 2 ^ 36

/-- ENABLE may be set for window `i` (R418). -/
def Dev.windowOk (d : Dev) (i : Nat) : Bool :=
  let w := d.window i
  w.length != 0 && decide (w.base + w.length * 65536 ≤ dpaEnd)
    && d.glb.windows.all fun o => o.1 == i || !o.2.enable || !w.meets o.2

/-- A write of REQ_CHECK, CONTEXT and REQUESTER. CONTEXT is taken only while ENABLE is 0; another CONTEXT is ignored with
WINDOW_BAD (R418, log 37). -/
def Dev.writeWindow (d : Dev) (i v : Nat) : Dev :=
  let w := d.window i
  let d := if w.enable && decide (w.context ≠ bitsAt v 4 10) then d.setLeaf .host 5 else d
  d.updWindow i fun w => { w with reqCheck := v.testBit 1, requester := bitsAt v 16 16,
                                  context := if w.enable then w.context else bitsAt v 4 10 }

/-- WINDOW_ENABLE (R418): GLB_WIN_CTRL with ENABLE 1. -/
def execWindowEnable (window v : Nat) (s : State) : Host.Outcome State Fault Refusal :=
  .next (if !s.ready then s
    else
      let d := s.dev.writeWindow window v
      { s with dev := if (s.dev.window window).enable then d
                      else if d.windowOk window then d.updWindow window fun w => { w with enable := true }
                      else d.setLeaf .host 5 })

/-- WINDOW_DISABLE (R418): GLB_WIN_CTRL with ENABLE 0. -/
def execWindowDisable (window v : Nat) (s : State) : Host.Outcome State Fault Refusal :=
  .next (if !s.ready then s
    else { s with dev := (s.dev.writeWindow window v).updWindow window fun w => { w with enable := false } })

/-! ## Host-class accesses (R417 to R421, R426, R429) -/

/-- An access that the link brings: the device physical address, the window that it falls in, the seat whose aperture it used,
whether it arrives on CXL.io, and the requester. -/
structure Ingress where
  addr : Nat
  window : Option Window
  seat : Option Nat
  io : Bool
  requester : Nat
  deriving DecidableEq, Repr

/-- How an access of `n` bytes arrives, none where it does not reach the device (R414, R417, R429). -/
def Dev.ingress (d : Dev) (path : HostPath) (a n : Nat) : Option Ingress :=
  let g := d.glb
  let hdm := fun (io : Bool) (r : Nat) =>
    if g.committed && g.cxlMem && decide (g.hpaBase ≤ a) && decide (a + n ≤ g.hpaBase + dpaEnd) then
      let pa := a - g.hpaBase
      some (⟨pa, (g.windows.find? fun w => w.2.holds pa n).map (·.2), none, io, r⟩ : Ingress)
    else none
  match path with
  | .mem => hdm false 0
  | .uio r => hdm true r
  | .aperture k r =>
    if g.vfEnable && g.dlUp then
      let ap := g.aperture.get 0 k
      let w := d.window (ap % 1024)
      some ⟨w.base + a, if ap.testBit 31 && w.enable && decide (a + n ≤ w.length * 65536) then some w else none, some k, true, r⟩
    else none

/-- An enabled segment of a context covers a physical range with the permission asked (R378, R419). -/
def Dev.physAllowed (d : Dev) (x a n : Nat) (write : Bool) : Bool :=
  (d.ctx x).segs.any fun g => g.2.enable && decide (g.2.pbase ≤ a) && decide (a + n ≤ g.2.pbase + g.2.length * 65536)
    && (if write then g.2.write else g.2.read)

/-- The atoms of a range, as first byte and count of each piece. -/
def atomsOf (a n : Nat) : List (Nat × Nat) :=
  (List.range (ceilDiv (a + n) 64 - a / 64)).map fun i =>
    let lo := max a ((a / 64 + i) * 64)
    (lo, min (a + n) ((a / 64 + i + 1) * 64) - lo)

/-- The first check of R419 that an access fails, 0 where it passes (log 38). -/
def Dev.ingressCheck (d : Dev) (i : Ingress) (n : Nat) (write : Bool) : Nat :=
  match i.window with
  | none => 1
  | some w =>
    if i.io && w.reqCheck && decide (i.requester ≠ w.requester) then 2
    else if !d.physAllowed w.context i.addr n write then 3
    else if (atomsOf i.addr n).any fun p => !(d.mem.frame (stackOf p.1) (frameOf p.1)).admits (tagOf w.context) then 4
    else 0

/-- Records a failed access (R420). -/
def Dev.ingressFail (d : Dev) (i : Ingress) (row : Nat) : Dev :=
  let x := (i.window.map (·.context)).getD 0
  let seat := match i.window with
    | some w => some (w.context / 16)
    | none => i.seat
  let d := { d with glb := { d.glb with infoSeat := seat, infoKind := row, infoPath := i.io.toNat, faultAddr := i.addr % 2 ^ 40,
                                        ingressFaults := satInc32 d.glb.ingressFaults 1 } }
  match row with
  | 1 => d.setLeaf .host 2
  | 4 => d.rejectTag (tagOf x) i.addr
  | _ => (d.setLeaf .host 2).segFault x (i.addr % 2 ^ 48) 4 0

/-- A die that the access needs accepts nothing now: the host port withholds credits (R426, log 90). -/
def Dev.ingressHeld (d : Dev) (i : Ingress) (n : Nat) : Bool := (atomsOf i.addr n).any fun p => d.blocked p.1

/-- A host-class write (R419, R420, R423); its completion goes out once its die has served the last atom (R422). -/
def Dev.hostWrite (d : Dev) (path : HostPath) (a : Nat) (bytes : List Byte) : Dev :=
  match d.ingress path a bytes.length with
  | none => d
  | some i =>
    let row := d.ingressCheck i bytes.length true
    if row ≠ 0 then
      let d := d.ingressFail i row
      match path with
      | .uio _ => d.emit .unsupported
      | _ => d.emit .writeDone
    else if d.ingressHeld i bytes.length then d
    else
      let t := tagOf ((i.window.map (·.context)).getD 0)
      (atomsOf i.addr bytes.length).foldl (fun d p =>
        d.take { req := ⟨.tagged t, p.1, some (slice bytes (p.1 - i.addr) p.2)⟩, reply := p.1 + p.2 == i.addr + bytes.length }) d

/-- HOST_CLASS_WRITE (R419). -/
def execHostClassWrite (path : HostPath) (addr : Nat) (bytes : List Byte) (s : State) : Host.Outcome State Fault Refusal :=
  .next (if bytes.isEmpty then s else { s with dev := s.dev.hostWrite path addr bytes })

/-- How a failed host-class read ends (R420). -/
def Dev.readFails (d : Dev) (path : HostPath) (row n : Nat) : Dev :=
  let poisoned := d.emit (.readData (List.replicate n 0) true)
  match row, path with
  | 4, _ => poisoned
  | 2, _ => d.emit .unsupported
  | _, .mem => poisoned
  | _, _ => d.emit .unsupported

/-- The atoms of a range as the dies deliver them to a host read: bytes and whether any is poisoned. -/
def Dev.hostAtoms (d : Dev) (seat a n : Nat) : Dev × List Byte × Bool :=
  let r := d.readRange { seat := seat, host := true } a n
  (r.1, r.2.1, r.2.2.any id)

/-- A host-class read (R419 to R421). -/
def Dev.hostRead (d : Dev) (path : HostPath) (a n : Nat) : Dev :=
  match d.ingress path a n with
  | none => d
  | some i =>
    let row := d.ingressCheck i n false
    if row ≠ 0 then (d.ingressFail i row).readFails path row n
    else if d.ingressHeld i n then d
    else
      let r := d.hostAtoms ((i.window.map (·.context)).getD 0 / 16) i.addr n
      let d := if r.2.2 then
          ({ r.1 with glb := { r.1.glb with poisonReads := satInc32 r.1.glb.poisonReads 1 } }).setLeaf .host 3
        else r.1
      d.emit (.readData r.2.1 r.2.2)

/-- HOST_CLASS_READ (R421). -/
def execHostClassRead (path : HostPath) (addr len : Nat) (s : State) : Host.Outcome State Fault Refusal :=
  .next (if len = 0 then s else { s with dev := s.dev.hostRead path addr len })

/-! ## EGRESS (R431 to R433) -/

/-- The posted writes of an EGRESS: at most the maximum payload size each, none across a 4 KiB host boundary (R431). -/
def egressPieces (mps : Nat) : Nat → Nat → List Byte → List Bool → List (Nat × List Byte × Bool)
  | 0, _, _, _ => []
  | fuel + 1, a, bs, po =>
    let n := min (max mps 1) (4096 - a % 4096)
    if bs.isEmpty then []
    else (a, bs.take n, (po.take n).any id) :: egressPieces mps fuel (a + n) (bs.drop n) (po.drop n)

/-- The bytes of BAR k of a function: BAR0 of the PF 64 MiB and of a VF 64 KiB, BAR2 16 GiB (R415). -/
def barBytes (key : Nat) : Nat := if key = 0 then 2 ^ 26 else if key % 2 = 0 then 2 ^ 16 else 2 ^ 34

/-- A host range meets a BAR of the device (R432). -/
def Dev.inBars (d : Dev) (a n : Nat) : Bool :=
  d.glb.bars.any fun b => b.2 != 0 && decide (a < b.2 + barBytes b.1) && decide (b.2 < a + n)

/-- The offset of a host range in the doorbell or mailbox page of a seat, if it lies wholly in one of them (R432, R557). -/
def Dev.ownPage (d : Dev) (seat a n : Nat) : Option Nat :=
  let b := d.glb.bars.get 0 (2 * (seat + 1))
  if b != 0 && decide (b + 0x8000 ≤ a) && decide (a + n ≤ b + 0xA000) && (a - b) / 4096 == (a + n - 1 - b) / 4096 then some (a - b) else none

/-- An access of another size or alignment (R22). -/
def Dev.badAccess (d : Dev) : Dev := d.setLeaf .host 0

/-- A write of a doorbell page (R137 to R139). -/
def Dev.pageDoorbell (d : Dev) (seat off : Nat) (bs : List Byte) : Dev :=
  if 16 ≤ off % 64 then d
  else if bs.length ≠ 8 then d.badAccess
  else match d.ringOf seat (off / 64) with
    | some r => if off % 64 = 0 then d.submit r (leNat bs) else d.consume r (leNat bs)
    | none => d.lostDoorbell seat (leNat bs)

/-- A write of 4 or 8 bytes to the doorbell or mailbox page of a seat; another size is a bad access (R22, R137, R151). -/
def Dev.pageWrite (d : Dev) (seat off : Nat) (bs : List Byte) : Dev :=
  if bs.length ≠ 4 ∧ bs.length ≠ 8 then d.badAccess
  else if off < 0x9000 then d.pageDoorbell seat (off - 0x8000) bs
  else d.updSeat seat fun k => { k with mailbox := bs.zipIdx.foldl (fun m p => SMap.put 0 m (off - 0x9000 + p.2) p.1) k.mailbox }

/-- The aligned writes of 8, 4 or 1 bytes as which a range is delivered inside the device (R432, log 36). -/
def pagePieces : Nat → Nat → List Byte → List (Nat × List Byte)
  | 0, _, _ => []
  | fuel + 1, a, bs =>
    let n := if a % 8 = 0 ∧ 8 ≤ bs.length then 8 else if a % 4 = 0 ∧ 4 ≤ bs.length then 4 else 1
    if bs.isEmpty then [] else (a, bs.take n) :: pagePieces fuel (a + n) (bs.drop n)

/-- The writes of an EGRESS: to the host, or to the seat's own page (R431, R432). -/
def Dev.sendEgress (d : Dev) (p : Place) (bs : List Byte) (po : List Bool) : Dev :=
  let a := p.op.word 1
  match if d.inBars a bs.length then d.ownPage p.seat a bs.length else none with
  | some off => (pagePieces bs.length off bs).foldl (fun d w => d.pageWrite p.seat w.1 w.2) d
  | none => (egressPieces d.glb.maxPayload bs.length a bs po).foldl (fun d w => d.emit (.hostWrite p.seat w.1 w.2.1 w.2.2)) d

/-- The work of EGRESS (R431 to R433, R437). `parity` is a parity mismatch on the way to the host port: the first write leaves
poisoned (R480). -/
def Dev.workEgress (parity : Bool) (d : Dev) (p : Place) : Dev :=
  let n := p.op.word 2
  if d.inBars (p.op.word 1) n && (d.ownPage p.seat (p.op.word 1) n).isNone then d.updPlace p.id (·.fail .badDescriptor)
  else if d.hostGone p.seat || (d.ring p.ring).state == .hostLost then d.loseHost p
  else
    let r := (d.io p).flat (d.agent p) p 0 n
    let po := if parity then true :: r.2.2.drop 1 else r.2.2
    d.conclude p r.1 fun d =>
      let d := if parity then d.noteParity (slotStack p.slot) (some p.seat) else d
      let d := d.meter p.ctxIx fun t => { t with egress := add64 t.egress n }
      (d.sendEgress p r.2.1 po).updPlace p.id fun q => { q.finish with flags := q.flags.or { poisoned := po.any id } }

/-- EGRESS (R431). -/
def execEgress (place : Nat) (parity : Bool) (s : State) : Host.Outcome State Fault Refusal :=
  .next { s with dev := s.dev.runOp place (·.opcode == 0x80) (Dev.workEgress parity) }

/-! ## The link and host loss (R414, R416, R417, R434 to R436) -/

/-- LINK_TRAINED (R414, R531): the port trains once the firmware runs. SPEED 5 is 32 GT/s (log 93). -/
def execLinkTrained (speed width : Nat) (flit256 cxl : Bool) (s : State) : Host.Outcome State Fault Refusal :=
  .next (if s.pwr.boot = .selftest ∨ s.pwr.boot = .ready ∨ s.pwr.boot = .recovery then
      let mem := cxl && decide (5 ≤ speed)
      let d := { s.dev with glb := { s.dev.glb with speed := speed, width := width, flit256 := flit256, cxlMem := mem, dlUp := true } }
      { s with dev := if mem then d else d.setLeaf .host 4 }
    else s)

/-- DECODER_COMMIT (R417). -/
def execDecoderCommit (hpaBase : Nat) (s : State) : Host.Outcome State Fault Refusal :=
  .next (if s.ready && s.dev.glb.dlUp && s.dev.glb.cxlMem then
      { s with dev := { s.dev with glb := { s.dev.glb with committed := true, hpaBase := hpaBase } } }
    else s)

/-- The configuration state of a function after a reset of the host port; what the attention tree holds stays (R434, R435,
log 39). -/
def FnCfg.reset (f : FnCfg) : FnCfg :=
  { f with msixEnable := false, fnMask := false, busMaster := false, addr := 0, data := 0, masked := true }

/-- What every host loss event resets: the HDM decoder, VF Enable, MSI-X enables; the VFs are gone, and with them their Bus Master
Enables (R435). -/
def Glb.lose (g : Glb) : Glb :=
  { g with committed := false, hpaBase := 0, vfEnable := false, lossCount := satInc32 g.lossCount 1,
           fns := (List.range 65).foldl (fun m i => SMap.upd {} m i fun f => { f with msixEnable := false, busMaster := false }) g.fns }

/-- GLB_LINK_STATUS follows the link: it is down (R440). -/
def Glb.linkDown (g : Glb) : Glb :=
  { g with speed := 0, width := 0, flit256 := false, cxlMem := false, dlUp := false, hostLost := true }

/-- The host port and the configuration state of its functions reset (R434). -/
def Glb.portReset (g : Glb) : Glb :=
  { g with fns := (List.range 65).foldl (fun m i => SMap.upd {} m i FnCfg.reset) g.fns, bars := [], maxPayload := 128 }

/-- An operation that a host loss event ends: an EGRESS that has started and not retired, or a VISIBLE fence that waits for its read
(R435, log 91). -/
def Place.meetsHost (p : Place) : Bool :=
  (p.op.opcode == 0x80 && (p.phase == .running || p.phase == .finished)) || (p.hostRead && p.phase == .running)

/-- What a host loss event does to operations (R435). -/
def Dev.loseOps (d : Dev) : Dev := (d.board.filter Place.meetsHost).foldl Dev.loseHost d

/-- A host loss event (R435, log 121). -/
def State.hostLoss (s : State) (f : Glb → Glb) : State :=
  let d := { s.dev with glb := f s.dev.glb.lose }
  let s : State := { s with dev := (d.loseOps).setLeaf .host 1 }
  let s := if s.lay.shadow = .loading then s.refuseLayout 1 0 0 true else s
  let s := if s.tst.state = .loading then ({ s with tst := { s.tst with state := .refused, code := 1, section_ := 0, entry := 0 } } : State).setLeaf .tst 0 else s
  if s.mgt.state = .staging then ({ s with mgt := { s.mgt with state := .failed, error := 1 } } : State).setLeaf .mgt 1 else s

/-- PERST_ASSERT (R434). -/
def execPerstAssert (s : State) : Host.Outcome State Fault Refusal :=
  .next (if s.d0On then s.hostLoss fun g => g.linkDown.portReset else s)

/-- HOT_RESET (R434). -/
def execHotReset (s : State) : Host.Outcome State Fault Refusal :=
  .next (if s.dev.glb.dlUp then s.hostLoss fun g => g.linkDown.portReset else s)

/-- PF_FLR (R416, R434): a function-level reset of the physical function; the link stays up. -/
def execPfFlr (s : State) : Host.Outcome State Fault Refusal :=
  .next (if s.dev.glb.dlUp then s.hostLoss Glb.portReset else s)

/-- DATA_LINK_DOWN (R434). -/
def execDataLinkDown (s : State) : Host.Outcome State Fault Refusal :=
  .next (if s.dev.glb.dlUp then s.hostLoss Glb.linkDown else s)

/-- LINK_UP (R436): the link is up again. -/
def execLinkUp (s : State) : Host.Outcome State Fault Refusal :=
  .next (if s.dev.glb.dlUp then { s with dev := { s.dev with glb := { s.dev.glb with hostLost := false } } } else s)

/-! ## The completion log (R438, R439) -/

/-- The 32 bytes of a log slot of a ring; a slot that is empty reads 0. -/
def Dev.logEntry (d : Dev) (ring : Option Nat) (slot : Nat) : List Byte :=
  match ring with
  | some r => slice ((d.ring r).log.get [] slot) 0 32
  | none => List.replicate 32 0

/-- The log entry has a double-bit error: the read waits (R482). -/
def Dev.logLost (d : Dev) (ring : Option Nat) (slot : Nat) : Bool := (ring.map fun r => d.sramLost .completionLog (r * 256 + slot)).getD false

/-- LOG_SLOT_READ (R439): the first 4 bytes of a log slot are read, and the entry is latched. -/
def execLogSlotRead (fn : Fn) (slot : Nat) (s : State) : Host.Outcome State Fault Refusal :=
  .next (match fn with
    | .pf =>
      if !s.ready || s.dev.logLost (some s.dev.glb.logSelect) slot then s
      else
        let e := s.dev.logEntry (some s.dev.glb.logSelect) slot
        { s with dev := ({ s.dev with glb := { s.dev.glb with logLatch := some (slot, e) } }).emit (.readData (e.take 4) false) }
    | .vf n =>
      if !s.ready || !s.dev.vfOpen n || s.dev.logLost (s.dev.ringOf n (s.dev.seat n).logSelect) slot then s
      else
        let e := s.dev.logEntry (s.dev.ringOf n (s.dev.seat n).logSelect) slot
        { s with dev := (s.dev.updSeat n fun k => { k with logLatch := some (slot, e) }).emit (.readData (e.take 4) false) })

/-! ## CXL memory-device commands and CDAT (R412): what the answers hold is given by other standards (log 13). -/

/-- A command of the CXL mailbox, or a DOE request, is answered. -/
def State.cxlAnswer (s : State) (k : Nat) : State :=
  if s.ready && s.dev.glb.dlUp then s.emit (.response (Config.answer k)) else s

/-- IDENTIFY_MEMORY_DEVICE (R412). -/
def execIdentifyMemoryDevice (s : State) : Host.Outcome State Fault Refusal := .next (s.cxlAnswer 1)

/-- GET_SUPPORTED_LOGS (R412). -/
def execGetSupportedLogs (s : State) : Host.Outcome State Fault Refusal := .next (s.cxlAnswer 2)

/-- GET_LOG (R412): the command effects log. -/
def execGetLog (s : State) : Host.Outcome State Fault Refusal := .next (s.cxlAnswer 3)

/-- GET_EVENT_RECORDS (R412): always empty. -/
def execGetEventRecords (s : State) : Host.Outcome State Fault Refusal := .next (s.cxlAnswer 4)

/-- CDAT_DOE_REQUEST (R412). -/
def execCdatDoeRequest (s : State) : Host.Outcome State Fault Refusal := .next (s.cxlAnswer 5)

end Sys2Proof.Machine
end

