-- ==== Sys2Proof/Machine/Power.lean ====
section
/-! DEFINITION. Power, clocks and resets (16): the governor, supply faults, the resets and what each keeps, start-up,
quarantine, and the clock and domain events. -/

namespace Sys2Proof.Machine

/-! ## What each reset keeps (R250, R537) -/

/-- Cable presence is a pin and outlives every reset (R581). -/
def Qlk.pinsOf (q : Qlk) : Qlk :=
  { ports := (List.range 8).foldl (fun m p => m.put {} p { cable := (q.ports.get {} p).cable }) ([] : SMap Port) }

/-- The PF's function state at reset (R562): ATN_SUMMARY 0x001. -/
def Glb.initial : Glb := { fns := [(0, { summary := 1 })] }

/-- The device after everything but D0 has lost power (R535, R537): the slow count given; outputs are history, cable pins
stay. -/
def Dev.cold (d : Dev) (slow : Nat) : Dev :=
  { free := d.free, out := d.out, slow := slow, qlk := d.qlk.pinsOf, glb := Glb.initial }

/-- D1 to D19 are off and all they hold is lost; the slow count runs on (R519, R540). -/
def State.dropPower (s : State) (b : Boot) : State :=
  { s with dev := s.dev.cold s.dev.slow, lay := { keys := s.lay.keys }, tst := {},
           pwr := { s.pwr with boot := b } }

/-- A firmware update ends at a reset (R544); identity memory and flash stay (R537). -/
def Mgt.afterReset (m : Mgt) : Mgt := { running := m.running, flash := m.flash, floor := m.floor }

/-- A cold reset (R535, R537): Chervil restarts from step 3 of R531. -/
def State.coldReset (s : State) (cause : Nat) : State :=
  { pending := s.pending, dev := s.dev.cold 0, lay := { keys := s.lay.keys }, tst := {},
    pwr := { cause := cause, slotId := s.pwr.slotId }, mgt := s.mgt.afterReset, atn := {}, jtag := s.jtag }

/-- A memory stack in a warm reset: it enters self-refresh; requests not served are lost (R536, R537). -/
def Stack.warm (k : Stack) : Stack :=
  { k with held := [], repairing := [], filling := [], selfRefresh := true, sramBad := [] }

/-- The memory after a warm reset. -/
def Mem.warm (m : Mem) : Mem :=
  { m with dies := (List.range 12).foldl (fun t x => SMap.put {} t x ((m.stack x).warm)) m.dies }

/-- Contexts after a warm reset: metering counts on (R408, R537), the rest is fresh (R403). -/
def Dev.warmCtxs (d : Dev) : SMap Ctx :=
  d.ctxs.foldr (fun p m => SMap.put {} m p.1 { meter := p.2.meter }) []

/-- Seats after a warm reset: handoffs count from cold reset (R550), and graphs go on from their last version number (R114). -/
def Dev.warmSeats (d : Dev) : SMap Seat :=
  d.seats.foldr (fun p m => SMap.put {} m p.1 { handoffs := p.2.handoffs, graphCount := p.2.graphCount }) []

/-- A trick outlives a warm reset when its decision is recorded: it is COMMITTED, its commit record is written, or its prepared
record holds a decision (R250). -/
def Trick.survivesWarm (t : Trick) (log : List CommitRec) : Bool :=
  t.state == .committed || t.state == .committing ||
    (t.state == .prepared && log.any fun r => r.trick == t.entry && r.epoch == 2 ^ 64 - 1 && r.decision != 0)

/-- The prepared cascade halves that a warm reset discards (R250). -/
def Trk.lostHalves (t : Trk) : List Trick := t.tricks.filter fun k => k.state == .prepared && !k.survivesWarm t.log

/-- Tables and tricks in a warm reset: what is undecided is discarded, a prepared cascade half is reported, with its seat as that of the
leaf event (R249, R250, R252); the overlay is to be rebuilt (R251). -/
def Trk.warm (t : Trk) : Trk :=
  let keep := t.tricks.filter (·.survivesWarm t.log)
  { t with tricks := keep.map fun k => { k with handleInUse := false, commit := none },
           staged := t.staged.filter fun r => r.epoch.isSome || keep.any fun k => k.entry == r.trick,
           settling := [], rebuilding := true, infoStack := 0, infoSeat := (t.lostHalves.getLast?.map (·.seat)).getD 0,
           discarded := t.discarded ++ t.lostHalves.map (·.handle),
           log := t.log.filter fun r => r.epoch != 2 ^ 64 - 1 || r.decision != 0 }

/-- A leaf register that a warm reset keeps: MEM_ATN (R368, R537); keys 16 to 31. -/
def keptLeaves (m : SMap Nat) : SMap Nat := m.filter fun p => decide (16 ≤ p.1 ∧ p.1 < 32)

/-- The device after a warm reset (R536, R537, log 49). -/
def Dev.warm (d : Dev) : Dev :=
  { free := d.free, slow := d.slow, out := d.out, mem := d.mem.warm, ctxs := d.warmCtxs, seats := d.warmSeats,
    trk := d.trk.warm,
    leaves := if d.trk.lostHalves.isEmpty then keptLeaves d.leaves else SMap.put 0 (keptLeaves d.leaves) LeafReg.trk.key 8,
    masks := keptLeaves d.masks,
    qlk := { d.qlk.pinsOf with route := d.qlk.route, exclude := d.qlk.exclude, heldEpoch := d.qlk.heldEpoch },
    chk := { fenced := d.chk.fenced, suspect := d.chk.suspect, suspects := d.chk.suspects },
    glb := Glb.initial, domainOn := 0xF0001 }

/-- The layout block after a warm reset: the active image becomes the shadow, LOADED (R78, R537, log 50). -/
def Lay.warm (l : Lay) (active : Bool) : Lay :=
  { keys := l.keys, shadow := if active then .loaded else .empty, image := if active then l.activeImage else [],
    activeBuffer := if active then 1 - l.activeBuffer else 0 }

/-- The pack after a warm reset (R503, R516, log 51). -/
def Tst.warm (t : Tst) : Tst :=
  { state := match t.state with
      | .empty | .loading => .empty
      | .refused => if t.code = 1 then .empty else .loaded
      | _ => .loaded
    image := if t.state = .empty ∨ t.state = .loading then [] else t.image, fenceLast := t.fenceLast, fenceSelect := t.fenceSelect }

/-- A warm reset (R536). -/
def State.warmReset (s : State) (cause : Nat) : State :=
  { pending := s.pending, dev := s.dev.warm, lay := s.lay.warm (!s.dev.held), tst := s.tst.warm,
    pwr := { cause := cause, slotId := s.pwr.slotId, warm := true }, mgt := s.mgt.afterReset, atn := {}, jtag := s.jtag }

/-! ## Requests for resets -/

/-- A write of PWR_RESET_CTRL (R534): TYPE in [1:0], KEY in [31:16]. -/
def State.resetWrite (s : State) (v : Nat) : State :=
  if !s.mgtReady then s
  else if v / 2 ^ 16 = 0xA5C3 ∧ (v % 4 = 1 ∨ v % 4 = 2) then
    { s with pwr := { s.pwr with requested := some (if v % 4 = 1 then 6 else 5) } }
  else s.setLeaf .pwr 3

/-- PWR_RESET_WARM (R534). -/
def execPwrResetWarm (v : Nat) (s : State) : Host.Outcome State Fault Refusal := .next (s.resetWrite v)

/-- PWR_RESET_COLD (R534). -/
def execPwrResetCold (v : Nat) (s : State) : Host.Outcome State Fault Refusal := .next (s.resetWrite v)

/-- A requested reset begins: not while the flash is being written (R534). -/
def State.resetDue (s : State) (causes : List Nat) : Option Nat :=
  match s.pwr.requested with
  | some c => if causes.contains c && s.mgt.state != .writing then some c else none
  | none => none

/-- WARM_RESET (R536): the reset that PWR_RESET_CTRL, PLDM or a recovery write requested. -/
def execWarmReset (s : State) : Host.Outcome State Fault Refusal :=
  .next (match s.resetDue [6, 7, 8] with
    | some c => s.warmReset c
    | none => s)

/-- COLD_RESET (R535): the reset that PWR_RESET_CTRL requested. -/
def execColdReset (s : State) : Host.Outcome State Fault Refusal :=
  .next (match s.resetDue [5] with
    | some c => s.coldReset c
    | none => s)

/-! ## Supply and governor (R518 to R523) -/

/-- The sum of the samples held, in W. -/
def totalOf (xs : List Nat) : Nat := xs.foldl (· + ·) 0

/-- The mean of the samples held as PWR_INPUT shows it, in whole W; 0 of none. -/
def meanOf (xs : List Nat) : Nat := totalOf xs / xs.length

/-- The level after a sample: the first row of R521 that matches. The mean is compared exactly, as a sum of `samples` (log 52). -/
def Pwr.nextLevel (p : Pwr) (watts : Nat) (samples temps : List Nat) : Nat :=
  if watts > 3100 then min (p.level + 4) 15
  else if totalOf samples > p.limit * samples.length then min (p.level + 1) 15
  else if temps.any (· > 105) then min (p.level + 1) 15
  else if totalOf samples + 100 * samples.length ≤ p.limit * samples.length ∧ !temps.any (· > 100) ∧ 100 ≤ p.sinceChange then p.level - 1
  else p.level

/-- The power block after a sample (R519, R521, R523, R551). -/
def Pwr.sample (p : Pwr) (mv watts : Nat) (temps : List Nat) : Pwr :=
  let samples := (watts :: p.samples).take 100
  let l := p.nextLevel watts samples temps
  { p with voltage := mv / 10, samples := samples, peak := max p.peak watts, dieTemp := temps, level := l,
           sinceChange := if l = p.level then p.sinceChange + 1 else 0,
           throttled := satInc32 p.throttled (if p.level = 0 then 0 else 1),
           badSamples := if mv < 40000 ∨ 60000 < mv then p.badSamples + 1 else 0 }

/-- The leaves a sample sets: THROTTLE, DIE_HOT, SUPPLY_WARN (R551). -/
def State.sampleLeaves (s : State) (p : Pwr) (mv : Nat) : State :=
  let s := if s.pwr.level = 0 ∧ 0 < p.level then s.setLeaf .pwr 0 else s
  let hot := (p.dieTemp.zip s.pwr.dieTemp).any fun t => decide (105 < t.1 ∧ t.2 ≤ 105)
  let s := if hot then s.setLeaf .pwr 1 else s
  if mv < 42000 ∨ 58000 < mv then s.setLeaf .pwr 2 else s

/-- POWER_SAMPLE (R519, R521): a sample of input voltage (mV), input power (W) and the four compute dies (°C). Ten in a
row out of range are a supply fault: PWR_GOOD falls and D1 to D19 go off. -/
def execPowerSample (millivolts watts : Nat) (temps : List Nat) (s : State) : Host.Outcome State Fault Refusal :=
  .next (if !(s.pwr.boot != .off) then s
    else
      let p := s.pwr.sample millivolts watts temps
      let s : State := { s.sampleLeaves p millivolts with pwr := p }
      if 10 ≤ p.badSamples ∧ s.pwr.boot ≠ .supplyFault then
        let s := s.dropPower (if s.pwr.boot = .tripped then .tripped else .supplyFault)
        { s with pwr := { s.pwr with good := false } }
      else s)

/-- SUPPLY_RECOVERY (R519): the input has stayed in range for 10 ms with PWR_EN asserted; a cold reset follows. -/
def execSupplyRecovery (s : State) : Host.Outcome State Fault Refusal :=
  .next (if s.pwr.boot = .supplyFault ∧ s.pwr.pwrEn = true then s.coldReset 3 else s)

/-- PWR_LIMIT_WRITE (R551): LIMIT in [11:0]; a value outside 1,000 to 2,600 W sets BAD_COMMAND. -/
def execPwrLimitWrite (v : Nat) (s : State) : Host.Outcome State Fault Refusal :=
  .next (if !s.mgtReady then s
    else if 1000 ≤ v % 4096 ∧ v % 4096 ≤ 2600 then { s with pwr := { s.pwr with limit := v % 4096 } }
    else s.setLeaf .pwr 3)

/-- PWR_PEAK_CLEAR (R551). -/
def execPwrPeakClear (s : State) : Host.Outcome State Fault Refusal :=
  .next (if s.mgtReady then { s with pwr := { s.pwr with peak := 0 } } else s)

/-! ## Power-up, power-down, thermal trip (R531, R539, R540) -/

/-- PWR_EN_ASSERT (R531, R576): step 2: D0 comes up, SLOT_ID is sampled, PWR_GOOD rises, the boot ROM runs. -/
def execPwrEnAssert (slotId : Nat) (s : State) : Host.Outcome State Fault Refusal :=
  .next (if s.pwr.pwrEn then s
    else
      let r := s.coldReset (if s.pwr.tripLatched then 4 else 2)
      { r with pwr := { r.pwr with slotId := slotId } })

/-- PWR_EN_DEASSERT (R539, R540): every domain goes off; a thermal trip is remembered for the next power-up. -/
def execPwrEnDeassert (s : State) : Host.Outcome State Fault Refusal :=
  .next (if !s.pwr.pwrEn then s
    else
      let r := s.dropPower .off
      { r with dev := { r.dev with domainOn := 0 }, atn := { r.atn with pin := false },
               pwr := { r.pwr with pwrEn := false, good := false, tripPin := false,
                                   tripLatched := s.pwr.tripPin || s.pwr.tripLatched } })

/-- THERMAL_TRIP (R540, R563): a compute die above 115 °C, or a memory stack above 110 °C. -/
def execThermalTrip (memory : Bool) (celsius : Nat) (s : State) : Host.Outcome State Fault Refusal :=
  .next (if s.pwr.boot ≠ .off ∧ (if memory then 110 else 115) < celsius then
      let r := s.dropPower .tripped
      { r with pwr := { r.pwr with tripPin := true }, atn := { r.atn with pin := false } }
    else s)

/-- Takes every memory stack out of self-refresh (R536, step 5). -/
def Mem.wake (m : Mem) : Mem :=
  { m with dies := m.dies.foldr (fun p t => SMap.put {} t p.1 { p.2 with selfRefresh := false }) [] }

/-- The refusal code of the image in flash (R542, R544): 0 accepted; 2 MAGIC where the flash holds no image; 0x0A below the
security floor. -/
def Mgt.bootCode (m : Mgt) : Nat :=
  match m.flash with
  | none => 2
  | some i => if i.code ≠ 0 then i.code else if i.security < m.floor then 0x0A else 0

/-- FIRMWARE_BOOT (R531 steps 3 to 5, R542, R543): the boot ROM verifies the image in flash; it runs and powers D1 and D12
to D19, or the device enters recovery-HELD: D1, D12 and D16 are powered and M0 alone is trained. -/
def execFirmwareBoot (s : State) : Host.Outcome State Fault Refusal :=
  .next (if s.pwr.boot ≠ .rom then s
    else if s.mgt.bootCode = 0 then
      { s with pwr := { s.pwr with boot := .selftest },
               dev := { s.dev with domainOn := 0xFF003, mem := s.dev.mem.wake },
               mgt := { s.mgt with running := s.mgt.flash.getD s.mgt.running } }
    else
      { s with pwr := { s.pwr with boot := .recovery },
               dev := { s.dev.updStack 0 fun k => { k with selfRefresh := false } with domainOn := s.dev.domainOn ||| 0x11002 },
               mgt := { s.mgt with reason := s.mgt.bootCode } })

/-- Adds cores to the fenced set (R513). -/
def Chk.fence (c : Chk) (cores : List Nat) : Chk := { c with fenced := cores.foldl (fun f k => insertAsc k f) c.fenced }

/-- SELFTEST_DONE (R531 steps 6 and 7, R532, R542): the cores that failed are fenced, the device enters HELD, and
SECURITY_FLOOR rises to the image's SECURITY_VERSION. -/
def execSelftestDone (failed : List Nat) (s : State) : Host.Outcome State Fault Refusal :=
  .next (if s.pwr.boot ≠ .selftest then s
    else
      let s := { s with pwr := { s.pwr with boot := .ready },
                        dev := { s.dev with chk := s.dev.chk.fence failed },
                        mgt := { s.mgt with selftestDone := true, floor := max s.mgt.floor s.mgt.running.security } }
      match failed.getLast? with
      | none => s
      | some c => { s with tst := { s.tst with fenceLast := some c, infoCore := c } }.setLeaf .tst 3)

/-! ## Quarantine (R538) -/

/-- A seat in service, fenced, resetting or scrubbing holds its clusters (R371). -/
def Seat.inUse (k : Seat) : Bool := k.state != .unused

/-- R81: a seat in service whose cluster holds a fenced core starts no further step: it becomes FENCED, its bit in
LAY_FENCED sets, and SEAT_FENCED sets. -/
def State.fenceSeat (s : State) (core : Nat) : State :=
  match s.dev.clusterOwner (core / 64) with
  | some n =>
    if (s.dev.seat n).serves then
      ({ s with dev := s.dev.updSeat n fun k => { k with state := .fenced },
                lay := { s.lay with fencedSeats := s.lay.fencedSeats ||| 2 ^ n } }).setLeaf .lay 4
    else s
  | none => s

/-- Stops and zeroes a core (R512, R538). -/
def Dev.zeroCore (d : Dev) (c : Nat) : Dev := { d with cores := d.cores.del c }

/-- A core is in a cluster of a seat that is not UNUSED and has operations in the scoreboard. -/
def Dev.coreBusy (d : Dev) (c : Nat) : Bool :=
  match d.clusterOwner (c / 64) with
  | some n => d.seatBusy n
  | none => false

/-- A quarantine takes effect (R538): the core stops and is zeroed, and no test runs on it. -/
def State.quarantine (s : State) (c : Nat) : State :=
  { s with dev := s.dev.zeroCore c, tst := { s.tst with running := s.tst.running.filter fun r => r.core != c && r.partner != c } }

/-- CLK_QUARANTINE (R538): CORE in [16:0], GO in bit 31. The core is fenced at once; while its seat has operations in the scoreboard
the quarantine is pending. -/
def execClkQuarantine (v : Nat) (s : State) : Host.Outcome State Fault Refusal :=
  let c := v % 2 ^ 17
  .next (if !s.mgtReady ∨ v / 2 ^ 31 % 2 = 0 then s
    else if 81919 < c ∨ s.dev.chk.pending.isSome then s.setLeaf .pwr 3
    else
      let s := ({ s with dev := { s.dev with chk := s.dev.chk.fence [c] } } : State).fenceSeat c
      if s.dev.coreBusy c then { s with dev := { s.dev with chk := { s.dev.chk with pending := some c } } } else s.quarantine c)

/-- QUARANTINE_APPLY (R538): once the owning seat has nothing in the scoreboard, the core stops and is zeroed. -/
def execQuarantineApply (s : State) : Host.Outcome State Fault Refusal :=
  .next (match s.dev.chk.pending with
    | none => s
    | some c =>
      if s.dev.coreBusy c then s else ({ s with dev := { s.dev with chk := { s.dev.chk with pending := none } } } : State).quarantine c)

/-! ## Clocks and domains (R524 to R530) -/

/-- No seat is in service (R530). -/
def Dev.noSeat (d : Dev) : Bool := (List.range 64).all fun n => (d.seat n).state == .unused

/-- MESH_CLOCK_STOP (R530): with no seat in service, a compute base die stops its mesh and stream-cache clocks. -/
def execMeshClockStop (stack : Nat) (s : State) : Host.Outcome State Fault Refusal :=
  .next (if s.dev.noSeat ∧ stack < 4 then { s with dev := { s.dev with meshStopped := insertAsc stack s.dev.meshStopped } }
    else s)

/-- MESH_CLOCK_START (R530): a request woke it. -/
def execMeshClockStart (stack : Nat) (s : State) : Host.Outcome State Fault Refusal :=
  .next { s with dev := { s.dev with meshStopped := s.dev.meshStopped.filter (· ≠ stack) } }

/-- The stacks of a memory group (R524). -/
def groupStacks (g : Nat) : List Nat := [3 * g, 3 * g + 1, 3 * g + 2]

/-- SELF_REFRESH_ENTRY (R530): with no seat in service, a memory group enters self-refresh. -/
def execSelfRefreshEntry (group : Nat) (s : State) : Host.Outcome State Fault Refusal :=
  .next (if s.dev.noSeat ∧ group < 4 then
      { s with dev := (groupStacks group).foldl (fun d x => d.updStack x fun k => { k with selfRefresh := true }) s.dev }
    else s)

/-- CLUSTER_CLOCK_START_DONE (R529): a cluster's clock runs. -/
def execClusterClockStartDone (cluster : Nat) (s : State) : Host.Outcome State Fault Refusal :=
  .next { s with dev := { s.dev with clkStarting := s.dev.clkStarting.filter (· ≠ cluster) } }

/-- DOMAIN_POWER_UP_DONE (R72, R526): a domain that a swap point enabled is on; the cores of a compute-die half hold zeroed state. -/
def execDomainPowerUpDone (domain : Nat) (s : State) : Host.Outcome State Fault Refusal :=
  .next (if s.dev.domainRising.contains domain then
      let d := { s.dev with domainRising := s.dev.domainRising.filter (· ≠ domain), domainOn := s.dev.domainOn ||| 2 ^ domain,
                            cores := s.dev.cores.filter fun p => halfDomain (p.1 / 64) != domain }
      { s with dev := d.settlePorts }
    else s)

/-- DOMAIN_POWER_DOWN_DONE (R526): a domain that a swap point disabled is off. -/
def execDomainPowerDownDone (domain : Nat) (s : State) : Host.Outcome State Fault Refusal :=
  .next (if s.dev.domainFalling.contains domain then
      { s with dev := { s.dev with domainFalling := s.dev.domainFalling.filter (· ≠ domain),
                                   domainOn := bitClear s.dev.domainOn (2 ^ domain) } }
    else s)

end Sys2Proof.Machine
end

