-- ==== Sys2Proof/Machine/Firmware.lean ====
section
/-! DEFINITION. Firmware update by the driver and through PLDM (R541 to R546), and the SPDM responder (R547 to R550). The byte
formats of PLDM and SPDM are other standards': an answer starts with a constant of Config.answer (log 13). -/

namespace Sys2Proof.Machine

/-! ## The firmware image and the update (R541 to R545) -/

/-- The firmware image that bytes hold, with the code of the first check of R542 that fails, SECURITY_FLOOR apart. -/
def FwImage.ofBytes (bs : List Byte) : FwImage :=
  { version := field bs 0x18 8, security := field bs 0x24 4, arithRev := field bs 0x2A 2, digest := slice bs 0x40 64,
    code := match signedCheck 0x474D4957464B5654 4 (some Config.rootKeyHash) bs with
      | some c => c
      | none => if field bs 0x20 4 ≠ 0x4880 then 9 else 0 }

/-- The first check of R542 that fails, SECURITY_FLOOR included (R544: 0x0A ROLLBACK); 0 where R542 holds. -/
def FwImage.verdict (i : FwImage) (floor : Nat) : Nat :=
  if i.code ≠ 0 then i.code else if i.security < floor then 0x0A else 0

/-- A message of the firmware device in a PLDM update: `ok` and not ok have answers of their own (log 13). -/
def State.fdSends (s : State) (k : Nat) (ok : Bool) : State :=
  if s.mgt.pldm then s.emit (.response (Config.answer (if ok then k else k + 50))) else s

/-- The update enters FAILED (R544, R552). -/
def State.fwFails (s : State) (code : Nat) : State :=
  ({ s with mgt := { s.mgt with state := .failed, error := code, staged := none } } : State).setLeaf .mgt 1

/-- STAGE applies in this state (R544). -/
def FwState.stageable : FwState → Bool
  | .idle | .pending | .failed => true
  | _ => false

/-- An update holds the state (R545, R546). -/
def FwState.underWay (t : FwState) : Bool := !t.stageable

/-- The shadow buffer is free for a firmware image (R544). -/
def Lay.shadowFree (l : Lay) : Bool := l.shadow == .empty || l.shadow == .refused || l.shadow == .retired

/-- STAGE from a state in which it applies (R544, R545): the shadow becomes EMPTY, or the update fails with BUSY. -/
def State.stage (s : State) (pldm : Bool) : State :=
  let s : State := { s with mgt := { s.mgt with pldm := pldm, written := 0 } }
  if s.lay.shadowFree then
    { s with lay := { s.lay with shadow := .empty, image := [], staged := none },
             mgt := { s.mgt with state := .staging, error := 0, staged := none, stagedLen := 0 } }
  else s.fwFails 0x0D

/-- FW_STAGE (R544, R545): MGT_FW_CMD STAGE. -/
def execFwStage (s : State) : Host.Outcome State Fault Refusal :=
  .next (if !s.mgtReady then s else if s.mgt.state.stageable then s.stage false else s.setLeaf .mgt 5)

/-- FW_CLEAR (R544): MGT_FW_CMD CLEAR. -/
def execFwClear (s : State) : Host.Outcome State Fault Refusal :=
  .next (if !s.mgtReady then s
    else if s.mgt.state = .failed then { s with mgt := { s.mgt with state := .idle, error := 0 } } else s.setLeaf .mgt 5)

/-- FW_STAGE_COPY_DONE (R544, R545): the bytes that the copy brought into the lower 16 MiB of the shadow buffer; it does not end while
M0's die takes no write (R356). The driver's length must be the image's; a PLDM transfer brings the component whole. -/
def execFwStageCopyDone (bytes : List Byte) (s : State) : Host.Outcome State Fault Refusal :=
  .next (if s.mgt.state ≠ .staging ∨ s.shadowOpen bytes.length = false then s
    else
      let s := s.fillShadow (bytes.take 0x1000000)
      if field bytes 0x10 8 = bytes.length ∧ (s.mgt.pldm = true ∨ bytes.length = s.mgt.srcLen) then
      ({ s with mgt := { s.mgt with state := .verifying, staged := some (FwImage.ofBytes bytes), stagedLen := bytes.length } } : State).fdSends 16 true
    else (s.fwFails 1).fdSends 16 false)

/-- FW_VERIFY_DONE (R542, R544): with the image accepted, the flash is being overwritten and holds no valid image until it has
been read back equal (DEDUCED, log 109). -/
def execFwVerifyDone (s : State) : Host.Outcome State Fault Refusal :=
  .next (match s.mgt.state, s.mgt.staged with
    | .verifying, some i =>
      let c := i.verdict s.mgt.floor
      if c = 0 then ({ s with mgt := { s.mgt with state := .writing, flash := none } } : State).fdSends 17 true
      else (s.fwFails c).fdSends 17 false
    | _, _ => s)

/-- FW_FLASH_WRITE_DONE (R543, R544): the flash reads back equal, or differs after three attempts. In recovery-HELD the new image
brings a warm reset with cause RECOVERY_DONE. -/
def execFwFlashWriteDone (ok : Bool) (s : State) : Host.Outcome State Fault Refusal :=
  .next (match s.mgt.state, s.mgt.staged with
    | .writing, some i =>
      if ok then
        let s : State := { s with mgt := { s.mgt with state := .pending, error := 0, flash := some i, written := s.mgt.stagedLen } }
        let s : State := if s.pwr.boot = .recovery then { s with pwr := { s.pwr with requested := some 8 } } else s
        (s.setLeaf .mgt 0).fdSends 18 true
      else
        let s : State := { s with mgt := { s.mgt with flash := none } }
        ((s.fwFails 0x0E).setLeaf .mgt 2).fdSends 18 false
    | _, _ => s)

/-! ## PLDM (R546) -/

/-- An answer on the management port. -/
def State.answers (s : State) (k : Nat) (payload : List Byte) : State := s.emit (.response (Config.answer k ++ payload))

/-- PLDM_REQUEST_UPDATE (R546): refused with ALREADY_IN_UPDATE_MODE (answer 7) while an update is under way. -/
def execPldmRequestUpdate (s : State) : Host.Outcome State Fault Refusal :=
  .next (if !s.mgtReady then s
    else if s.mgt.state.underWay then s.answers 7 []
    else ({ s with mgt := { s.mgt with session := true } } : State).answers 6 [])

/-- PLDM_PASS_COMPONENT_TABLE (R546): the device has the one component 0x4880; answer 10 where no update was requested, 11 for
another component. -/
def execPldmPassComponentTable (component : Nat) (s : State) : Host.Outcome State Fault Refusal :=
  .next (if !s.mgtReady then s
    else if !s.mgt.session then s.answers 10 []
    else if component ≠ 0x4880 then s.answers 11 []
    else s.answers 8 [])

/-- PLDM_UPDATE_COMPONENT (R546): the update starts as STAGE does, with SOURCE 1, and the device requests the firmware data
(answer 15). -/
def execPldmUpdateComponent (component : Nat) (s : State) : Host.Outcome State Fault Refusal :=
  .next (if !s.mgtReady then s
    else if !s.mgt.session then s.answers 10 []
    else if s.mgt.state.underWay then s.answers 7 []
    else if component ≠ 0x4880 then s.answers 11 []
    else
      let s := s.stage true
      if s.mgt.state = .staging then (s.answers 9 []).answers 15 [] else s.answers 59 [])

/-- PLDM_ACTIVATE_FIRMWARE (R546, R533): no self-contained activation: a warm reset with cause PLDM_ACTIVATE follows. -/
def execPldmActivateFirmware (s : State) : Host.Outcome State Fault Refusal :=
  .next (if !s.mgtReady then s
    else if !s.mgt.session ∨ s.mgt.state ≠ .pending then s.answers 10 []
    else
      let s : State := { s with mgt := { s.mgt with session := false }, pwr := { s.pwr with requested := some 7 } }
      s.answers 12 [])

/-- PLDM_GET_STATUS (R546). -/
def execPldmGetStatus (s : State) : Host.Outcome State Fault Refusal :=
  .next (if !s.mgtReady then s else s.answers 13 (Config.pldmStatus s.mgt.state.code s.mgt.error))

/-- PLDM_CANCEL_UPDATE (R546): ends a session and an update that has not begun to write the flash; R544 gives WRITING no other
way out than the end of the writing (log 48). -/
def execPldmCancelUpdate (s : State) : Host.Outcome State Fault Refusal :=
  .next (if !s.mgtReady then s
    else if !s.mgt.session then s.answers 10 []
    else
      let open_ := s.mgt.pldm && (s.mgt.state == .staging || s.mgt.state == .verifying)
      let s : State := { s with mgt := { s.mgt with session := false, state := if open_ then .idle else s.mgt.state,
                                                    staged := if open_ then none else s.mgt.staged } }
      s.answers 14 [])

/-- The readings of platform monitoring (R546): input voltage and power, governor level, four compute dies, twelve stacks. -/
def State.readings (s : State) : List Nat :=
  [s.pwr.voltage, meanOf s.pwr.samples, s.pwr.level] ++ s.pwr.dieTemp ++ (List.range 12).map fun x => (s.dev.mem.stack x).temp

/-- PLDM_PLATFORM_MONITORING (R546). -/
def execPldmPlatformMonitoring (s : State) : Host.Outcome State Fault Refusal :=
  .next (if !s.mgtReady then s else s.answers 20 (Config.pldmMonitor s.readings))

/-! ## SPDM (R547 to R550) -/

/-- The connection state of a port (R548: each keeps its own). -/
def Mgt.spdm (m : Mgt) : SpdmPort → Spdm
  | .mctp => m.mctp
  | .mailbox => m.mailbox

/-- Changes the connection state of a port. -/
def Mgt.setSpdm (m : Mgt) (p : SpdmPort) (c : Spdm) : Mgt :=
  match p with
  | .mctp => { m with mctp := c }
  | .mailbox => { m with mailbox := c }

/-- The request can be served: over the mailbox, one has been submitted by GO (R552). -/
def State.spdmOpen (s : State) (p : SpdmPort) : Bool :=
  s.mgtReady && (match p with
    | .mctp => true
    | .mailbox => s.mgt.spdmBusy)

/-- A response on a port (R548, R552): in MGT_SPDM_BUF in the request's place, with SPDM_DONE, or on the management port. The
buffer holds 4,096 bytes. -/
def State.respond (s : State) (p : SpdmPort) (bytes : List Byte) : State :=
  match p with
  | .mctp => s.emit (.response bytes)
  | .mailbox =>
    let bs := bytes.take 4096
    let buf := bs.zipIdx.foldl (fun (m : SMap Byte) (q : Byte × Nat) => SMap.put 0 m q.2 q.1) []
    ({ s with mgt := { s.mgt with spdmBusy := false, spdmAnswer := bs.length, spdmBuf := buf } } : State).setLeaf .mgt 4

/-- A response of answer `k` with a payload. -/
def State.spdmAnswers (s : State) (p : SpdmPort) (k : Nat) (payload : List Byte) : State := s.respond p (Config.answer k ++ payload)

/-- GET_VERSION (R548): starts the connection anew. -/
def execGetVersion (port : SpdmPort) (s : State) : Host.Outcome State Fault Refusal :=
  .next (if !s.spdmOpen port then s
    else ({ s with mgt := s.mgt.setSpdm port { version := true } } : State).spdmAnswers port 30 [])

/-- GET_CAPABILITIES (R548); out of order, ERROR UnexpectedRequest (answer 38; PRESUMED, SPDM 1.3, log 13). -/
def execGetCapabilities (port : SpdmPort) (s : State) : Host.Outcome State Fault Refusal :=
  let c := s.mgt.spdm port
  .next (if !s.spdmOpen port then s
    else if !c.version then s.spdmAnswers port 38 []
    else ({ s with mgt := s.mgt.setSpdm port { c with capabilities := true } } : State).spdmAnswers port 31 [])

/-- NEGOTIATE_ALGORITHMS (R548): ECDSA P-384 with SHA-384, measurements in SHA-512. -/
def execNegotiateAlgorithms (port : SpdmPort) (s : State) : Host.Outcome State Fault Refusal :=
  let c := s.mgt.spdm port
  .next (if !s.spdmOpen port then s
    else if !c.capabilities then s.spdmAnswers port 38 []
    else ({ s with mgt := s.mgt.setSpdm port { c with algorithms := true } } : State).spdmAnswers port 32 [])

/-- The certificate chain of slot 0: the chain of R547 followed by the alias certificate of the running image (R548). -/
def Mgt.chain (m : Mgt) : List Byte := Config.certificateChain m.running.digest m.running.security

/-- Serves a request that needs a connection with its algorithms negotiated. -/
def State.attest (s : State) (p : SpdmPort) (f : State → State) : State :=
  if !s.spdmOpen p then s else if !(s.mgt.spdm p).algorithms then s.spdmAnswers p 38 [] else f s

/-- GET_DIGESTS (R548): the digest of slot 0's chain. -/
def execGetDigests (port : SpdmPort) (s : State) : Host.Outcome State Fault Refusal :=
  .next (s.attest port fun s => s.spdmAnswers port 33 (Config.sha384 s.mgt.chain))

/-- GET_CERTIFICATE (R548): a portion of slot 0's chain. -/
def execGetCertificate (port : SpdmPort) (offset length : Nat) (s : State) : Host.Outcome State Fault Refusal :=
  .next (s.attest port fun s => s.spdmAnswers port 34 ((s.mgt.chain.drop offset).take length))

/-- The responder's nonce: a free value (log 13). -/
def State.nonce (s : State) : List Byte := leBytes 32 (Config.freeNat s.dev.free)

/-- A response that the alias key signs over the request's nonce and the response's bytes (R547, R549, log 13). -/
def State.signedAnswer (s : State) (p : SpdmPort) (k : Nat) (nonce body : List Byte) : State :=
  let body := body ++ s.nonce
  let sign := Config.aliasSign s.mgt.running.digest (nonce ++ body)
  ({ s with dev := s.dev.tickFree } : State).spdmAnswers p k (body ++ sign)

/-- CHALLENGE (R548): signed by the alias key. -/
def execChallenge (port : SpdmPort) (nonce : List Byte) (s : State) : Host.Outcome State Fault Refusal :=
  .next (s.attest port fun s => s.signedAnswer port 35 nonce (Config.sha384 s.mgt.chain))

/-- The bytes of seat Sn that its measurement covers (R550). -/
def State.seatMeasured (s : State) (l : Layout) (n : Nat) : List Byte :=
  let img := s.lay.activeImage
  let mine := fun (bs : List (List Byte)) => (bs.filter fun b => decide (field b 0 1 = n)).flatten
  let pick := fun (off : Nat) (bs : List (List Byte)) => (bs.filter fun b => decide (field b off 1 = n)).flatten
  leBytes 1 n ++ leBytes 8 l.serial ++ leBytes 8 (s.dev.seat n).handoffs ++ (sectionRecs img 1).getD n []
    ++ (l.clustersOf n).flatMap (leBytes 2)
    ++ mine (sectionRecs img 3) ++ pick 2 (sectionRecs img 4) ++ (((sectionRecs img 5).drop (12 * n)).take 12).flatten
    ++ mine (ringBytes img) ++ mine (slotBytes img)
    ++ ((sectionRecs img 9).filter fun b => (l.rings.getD (field b 0 2) {}).seat == n).flatten
    ++ (if l.exchanges n then sectionBytes img 7 else [])

/-- TST_PACK_DIGEST: the pack's digest while READY, RUNNING or DONE, else zeros (R505). -/
def Tst.digest (t : Tst) : List Byte :=
  match t.state, t.pack with
  | .ready, some k | .running, some k | .done, some k => k.digest
  | _, _ => List.replicate 64 0

/-- LAY_ACTIVE_DIGEST: zeros while HELD (R82). -/
def State.layoutDigest (s : State) : List Byte := (s.dev.layout.map (·.digest)).getD (List.replicate 64 0)

/-- Measurement block `i` (R549): none where it is absent. -/
def State.measurement (s : State) (i : Nat) : Option (List Byte) :=
  if i = 1 then some (leBytes 4 Config.bootRom)
  else if i = 2 then some s.mgt.running.digest
  else if i = 3 then some s.layoutDigest
  else if i = 4 then some s.tst.digest
  else if 16 ≤ i ∧ i < 80 then
    match s.dev.layout with
    | some l => if (s.dev.seat (i - 16)).state = .unused then none else some (sha512 (s.seatMeasured l (i - 16)))
    | none => none
  else none

/-- The measurement blocks that are present, ascending. -/
def State.measured (s : State) : List (Nat × List Byte) :=
  (List.range 80).filterMap fun i => (s.measurement i).map fun v => (i, v)

/-- A block as the response carries it: index, length, value (log 13). -/
def measurementBlock (i : Nat) (v : List Byte) : List Byte := leBytes 1 i ++ leBytes 2 v.length ++ v

/-- GET_MEASUREMENTS (R549): one block, their number (0), or all (0xFF; both PRESUMED, SPDM 1.3, log 13); ERROR InvalidRequest
(answer 39) for a block that is absent. -/
def execGetMeasurements (port : SpdmPort) (nonce : List Byte) (index : Nat) (s : State) : Host.Outcome State Fault Refusal :=
  .next (s.attest port fun s =>
    if index = 0 then s.signedAnswer port 36 nonce (leBytes 1 s.measured.length)
    else if index = 255 then s.signedAnswer port 36 nonce (s.measured.flatMap fun b => measurementBlock b.1 b.2)
    else match s.measurement index with
      | some v => s.signedAnswer port 36 nonce (measurementBlock index v)
      | none => s.spdmAnswers port 39 [])

/-- SPDM_UNSUPPORTED_REQUEST (R548): ERROR UnsupportedRequest (answer 37), which names the request's code (log 13). -/
def execSpdmUnsupportedRequest (port : SpdmPort) (code : Nat) (s : State) : Host.Outcome State Fault Refusal :=
  .next (if !s.spdmOpen port then s else s.spdmAnswers port 37 (leBytes 1 code))

end Sys2Proof.Machine
end

