-- ==== Sys2Proof/Machine/Integrity.lean ====
section
/-! DEFINITION. Integrity (15): the CHECK operation, core faults and their recovery, double-bit errors of SRAM tables, and the driver
commands of the check-value units (R482 to R493, R514, R515). -/

namespace Sys2Proof.Machine

/-! ## CHECK (R489 to R492) -/

/-- The check-value units read a range of one segment from its die (R491), in steps of 4 KiB (R493): charged to READ alone; a poisoned atom
gives its stored bytes. -/
def Mio.unitRange (m : Mio) (g : Agent) (pa n : Nat) : Mio × List Byte × Bool :=
  let m := { m with dev := m.dev.transferRange { g with stack := memOwner (stackOf pa) } false pa n }
  (atomPieces (n + 1) pa n).foldl (fun (r : Mio × List Byte × Bool) p =>
    if r.1.fault || r.1.waits then r
    else
      let w := r.1.readMem g (p.1 / 64 * 64)
      (w.1, r.2.1 ++ (w.2.1.drop (p.1 % 64)).take p.2, r.2.2 || w.2.2)) (m, [], false)

/-- The bytes that a CHECK covers: of memory, where the whole range lies in one segment (R378), or of its payload. -/
def Mio.unitRead (m : Mio) (g : Agent) (p : Place) (n : Nat) : Mio × List Byte × Bool :=
  let a := (p.op.ref 0).addr
  if paysFor p.payload 0 then
    let r := m.readOperand g p 0 0 n
    (r.1, r.2.1, false)
  else match m.dev.translate g.ctx a n true false with
    | .ok pa _ => m.unitRange g pa n
    | t => (m.xfault g a t, [], false)

/-- A check value (R489, R490). -/
def CrcKind.value (k : CrcKind) (seed fold : Nat) (bs : List Byte) : Nat := k.run (k.init seed fold) bs ^^^ k.final

/-- A comparison of a CHECK fails (R492, R517). -/
def Dev.mismatch (d : Dev) (p : Place) : Dev :=
  let d := { d with chk := { d.chk with mismatches := satInc32 d.chk.mismatches 1 } }
  (d.updSeat p.seat fun k => { k with chkRing := (d.ringRec p.ring).localIx }).setLeaf (.vfChk p.seat) 0

/-- The work of CHECK (R491): dirty lines in the range are written back first (log 100). -/
def Dev.workCheck (d : Dev) (p : Place) : Dev :=
  let n := p.op.word 1
  let a := (p.op.ref 0).addr
  let pick := fun (l : Line) => !paysFor p.payload 0 && d.rangeLines p.ctxIx a n l
  match d.stuckLine pick with
  | some l => d.conclude p (({ dev := d } : Mio).reach (64 * l.atom)) id
  | none =>
    let r := ((d.io p).flush pick).unitRead (d.agent p) p n
    let v := (crcKind (p.op.fld 4 0 1)).value (p.op.word 2) (if (p.op.fld 4 1 1).testBit 1 then foldOf (a / 64) 0 else 0) r.2.1
    d.conclude p r.1 fun d =>
      let d := d.updPlace p.id fun q => { q.finish with dest := p.op.destOf 5 v, flags := q.flags.or { poisoned := r.2.2 } }
      if (p.op.fld 4 1 1).testBit 0 && v != p.op.word 3 then d.mismatch p else d

/-- CHECK (R491). -/
def execCheck (place : Nat) (s : State) : Host.Outcome State Fault Refusal :=
  .next { s with dev := s.dev.runOp place (·.opcode == 0x70) Dev.workCheck }

/-! ## Core faults (R483 to R487) -/

/-- A failed check of a core is recorded; the core is suspect (R483, R487). -/
def Dev.noteCoreFault (d : Dev) (core : Nat) (seat : Option Nat) : Dev :=
  let d := { d with chk := { d.chk with faultCore := core, coreFaults := satInc32 d.chk.coreFaults 1, suspect := some core,
                                        suspects := insertAsc core d.chk.suspects } }
  d.integrity 1 (clusterStack (core / 64)) seat

/-- A core fault in an operation (R484 to R487): the core's first starts a recovery re-run, which gives the bits of a run without a
fault; its second poisons output and sets RERUN_FAILED. -/
def Dev.workFault (core : Nat) (d : Dev) (p : Place) : Dev :=
  if !(d.opCores p).contains core || d.chk.fenced.contains core then d
  else
    let d := d.noteCoreFault core (some p.seat)
    if p.reruns.contains core then
      ((d.updPlace p.id fun q => { q with failed := q.failed ++ [(core, d.free)], flags := q.flags.or { poisoned := true } }).tickFree).integrity
        2 (clusterStack (core / 64)) (some p.seat)
    else
      ({ d with chk := { d.chk with reruns := satInc32 d.chk.reruns 1 } }).updPlace p.id fun q =>
        { q with reruns := q.reruns ++ [core], excursions := q.excursions.or { rerun := true } }

/-- CORE_FAULT (R484): it comes while the operation runs, so an operation that may start has started. -/
def execCoreFault (place core : Nat) (s : State) : Host.Outcome State Fault Refusal :=
  .next { s with dev := s.dev.runOp place (fun o => isCoreOp o.opcode) (Dev.workFault core) }

/-! ## SRAM tables (R482) -/

/-- SRAM_DOUBLE_BIT_ERROR (R482): requests that need the entry wait until a warm reset. -/
def execSramDoubleBitError (stack : Nat) (table : SramTable) (index : Nat) (s : State) : Host.Outcome State Fault Refusal :=
  .next (if 12 ≤ stack then s
    else { s with dev := (s.dev.updStack stack fun k =>
      { k with sramBad := if k.sramBad.contains (table, index) then k.sramBad else k.sramBad ++ [(table, index)] }).integrity 7 stack none })

/-! ## Driver commands of the check-value units (R493, R514) -/

/-- CHK_CTRL takes its fields (R514). -/
def ChkUnit.setCtrl (u : ChkUnit) (v : Nat) : ChkUnit :=
  { u with selector := v % 4, fold := v.testBit 2, compare := v.testBit 3, init := v.testBit 4 }

/-- CHK_START (R493, R514): a write of CHK_CTRL; with START it begins a command, or sets BAD_COMMAND while one runs (log 101). -/
def execChkStart (unit v : Nat) (s : State) : Host.Outcome State Fault Refusal :=
  .next (if !s.ready || decide (24 ≤ unit) then s
    else if v.testBit 8 && (s.dev.unit unit).busy then { s with dev := s.dev.integrity 8 unit none }
    else { s with dev := s.dev.updUnit unit fun u =>
      let u := u.setCtrl v
      if v.testBit 8 then { u with busy := true, done := false, matched := false, poisoned := false } else u })

/-- CHK_RUNNING_WRITE (R493): ignored, with BAD_COMMAND, while a command runs. -/
def execChkRunningWrite (unit : Nat) (hi : Bool) (v : Nat) (s : State) : Host.Outcome State Fault Refusal :=
  .next (if !s.ready || decide (24 ≤ unit) then s
    else if (s.dev.unit unit).busy then { s with dev := s.dev.integrity 8 unit none }
    else { s with dev := s.dev.updUnit unit fun u =>
      { u with running := if hi then u.running % 2 ^ 32 + v % 2 ^ 32 * 2 ^ 32 else u.running / 2 ^ 32 * 2 ^ 32 + v % 2 ^ 32 } })

/-- The bytes of a device physical range, read as an internal request: stored bytes, and whether an atom was poisoned (R376, R493). -/
def Dev.physBytes (d : Dev) (a n : Nat) : Dev × List Byte × Bool :=
  let r := d.readRange { host := true } a n
  (r.1, r.2.1, r.2.2.any id)

/-- A driver command ends (R490, R493). -/
def Dev.unitDone (d : Dev) (u : Nat) : Dev :=
  let k := d.unit u
  let c := crcKind k.selector
  let r := d.physBytes k.addr k.len
  let start := if k.init then c.init k.seed (if k.fold then foldOf (k.addr / 64) k.seq else 0) else k.running % 2 ^ c.width
  let v := c.run start r.2.1
  let x := v ^^^ c.final
  let d := r.1.updUnit u fun k =>
    { k with busy := false, done := true, running := v, result := x, matched := x == k.expect, poisoned := r.2.2 }
  if k.compare && x != k.expect then d.integrity 6 u none else d

/-- CHK_COMMAND_DONE (R493): the dies of the range must accept the unit's reads. -/
def execChkCommandDone (unit : Nat) (s : State) : Host.Outcome State Fault Refusal :=
  let k := s.dev.unit unit
  .next (if k.busy && !s.dev.rangeBlocked k.addr k.len then
      { s with dev := s.dev.unitDone unit } else s)

end Sys2Proof.Machine
end

