-- ==== Sys2Proof/Machine/Jtag.lean ====
section
/-! DEFINITION. The JTAG port (R577 to R579). -/

namespace Sys2Proof.Machine

/-- IDCODE (R578): stepping, 0x4880, 0x617, 1. -/
def idcodeOf (stepping : Nat) : Nat := stepping % 16 * 2 ^ 28 + 0x4880 * 2 ^ 12 + 0x617 * 2 + 1

/-- The port takes an instruction: TRST_N does not hold it, and D0 is on (R577). -/
def State.jtagOpen (s : State) : Bool := !s.jtag.held && s.pwr.boot != .off

/-- Selects instruction `ir` and captures `dr`. -/
def State.jtagSelect (s : State) (ir dr : Nat) : State :=
  if s.jtagOpen then { s with jtag := { s.jtag with ir := ir, dr := dr } } else s

/-- EXTEST, CLAMP and HIGHZ take effect only while HELD or recovery-HELD (R579); else they act as BYPASS, code 1. -/
def State.jtagDrive (s : State) (ir dr : Nat) : State :=
  if s.dev.held then s.jtagSelect ir dr else s.jtagSelect 1 0

/-- The sampled pins of the boundary-scan chain (R572, R577): PWR_EN, PWR_GOOD, THERMTRIP_N, ATTN_N, SLOT_ID[2:0], in bits
0 to 6. -/
def State.pins (s : State) : Nat :=
  s.pwr.pwrEn.toNat + 2 * s.pwr.good.toNat + 4 * (!s.pwr.tripPin).toNat + 8 * (!s.atn.pin).toNat + 16 * s.pwr.slotId

/-- JTAG_TRST (R577): while the pin is low the port is held in Test-Logic-Reset. -/
def execJtagTrst (low : Bool) (s : State) : Host.Outcome State Fault Refusal :=
  .next { s with jtag := if low then { ir := 0, held := true, dr := 0 } else { s.jtag with held := false } }

/-- JTAG_BYPASS (R577): the bypass register, one bit of 0. -/
def execJtagBypass (s : State) : Host.Outcome State Fault Refusal := .next (s.jtagSelect 1 0)

/-- JTAG_IDCODE (R578). -/
def execJtagIdcode (s : State) : Host.Outcome State Fault Refusal := .next (s.jtagSelect 2 (idcodeOf Config.stepping))

/-- JTAG_SAMPLE_PRELOAD (R577): samples the pins. -/
def execJtagSamplePreload (s : State) : Host.Outcome State Fault Refusal := .next (s.jtagSelect 3 s.pins)

/-- JTAG_EXTEST (R579). -/
def execJtagExtest (s : State) : Host.Outcome State Fault Refusal := .next (s.jtagDrive 4 s.pins)

/-- JTAG_CLAMP (R579): the pins hold the chain; the bypass register is selected. -/
def execJtagClamp (s : State) : Host.Outcome State Fault Refusal := .next (s.jtagDrive 5 0)

/-- JTAG_HIGHZ (R579): the outputs float; the bypass register is selected. -/
def execJtagHighz (s : State) : Host.Outcome State Fault Refusal := .next (s.jtagDrive 6 0)

end Sys2Proof.Machine
end

