-- ==== Sys2Proof/Machine/Sage.lean ====
section
/-! DEFINITION. Sage packs (15): their format and validation, the random-operand generator, the tests of core pairs, arbitration and
fencing (R494 to R513, R516). -/

namespace Sys2Proof.Machine

/-! ## The generator (R494, R495) -/

/-- One call of xorshift64*: the next state and the output (R494). -/
def xorshift (x : Nat) : Nat × Nat :=
  let x := x ^^^ (x >>> 12)
  let x := x ^^^ ((x <<< 25) % 2 ^ 64)
  let x := x ^^^ (x >>> 27)
  (x, x * 0x2545F4914F6CDD1D % 2 ^ 64)

/-- The bytes of `n` calls, little-endian (R495). -/
def randomBytes : Nat → Nat → List Byte
  | 0, _ => []
  | n + 1, x => let r := xorshift x; leBytes 8 r.2 ++ randomBytes n r.1

/-- The byte of a mask that falls on byte `i` of a buffer (R495). -/
def maskByte (fmt mask i : Nat) : Nat :=
  match formatBits fmt with
  | 4 => mask % 16 * 17
  | w => mask / 2 ^ (8 * (i % (w / 8))) % 256

/-- The buffer that a generator fills (R495). -/
def Gen.buffer (g : Gen) : List Byte :=
  (((randomBytes (ceilDiv g.bytes 8) g.seed).take g.bytes).zipIdx).map fun b =>
    BitVec.ofNat 8 ((b.1.toNat &&& maskByte g.format g.andMask b.2) ||| maskByte g.format g.orMask b.2)

/-! ## The format of a pack (R496 to R500) -/

/-- Record size, least and greatest COUNT of the three sections (R496). -/
def packShape : Nat → Nat × Nat × Nat
  | 1 => (32, 1, 4096)
  | _ => (64, 1, 65536)

/-- The records of a section of a pack. -/
def packRecs (img : List Byte) (id : Nat) : List (List Byte) :=
  let b := sectionBytes img id
  chunks (packShape id).1 b.length b

def Gen.ofBytes (b : List Byte) : Gen := ⟨field b 0 8, field b 8 4, field b 12 1, field b 16 4, field b 20 4⟩

def Test.ofBytes (b : List Byte) : Test :=
  { id := field b 0 4, firstOp := field b 4 4, opCount := field b 8 2,
    gens := (List.range (min (field b 10 1) 4)).map fun i => (field b (12 + 2 * i) 2, field b (20 + 2 * i) 2),
    selector := field b 11 1, resultOffset := field b 0x1C 2, resultBytes := field b 0x1E 2, expected := field b 0x20 8,
    expect := (field b 0x28 1).testBit 0 }

/-- The pack as its header and sections tell it. -/
def Pack.ofBytes (img : List Byte) : Pack :=
  { digest := slice img 0x40 64, gens := (packRecs img 1).map Gen.ofBytes, ops := (packRecs img 2).map OpWord.ofBytes,
    tests := (packRecs img 3).map Test.ofBytes }

/-- Words of an operation that hold operand references in use. -/
def OpWord.refWords (o : OpWord) : List Nat := ((refFields o.opcode).map (·.word)).filter fun w => o.has none w

/-- Bytes that an operand takes in the working area; a quantised matrix has its shift array (R282, R327, R498). -/
def OpWord.areaBytes (o : OpWord) (w : Nat) : Nat :=
  let s := o.shape w
  if (o.opcode = 0x4A ∧ w = 2) ∨ (o.opcode = 0x4B ∧ w = 0) then shiftBase 0 s.2.2 s.1 s.2.1 + s.1 * ceilDiv s.2.1 64
  else packedBytes s

/-- Check 0x0C of a pack: reserved fields and encodings (log 103). -/
def packReserved (img : List Byte) : Option Hit :=
  if dirty img 0x29 0x2A || dirty img 0x2C 0x30 || dirty img 0x38 0x40 || dirty img 0x84 0x100 || dirty img 0x500 0x800 then some (0, 0)
  else lowestHit (
    badRecs 1 (packRecs img 1) (fun b _ => dirty b 0x0D 0x10 || dirty b 0x18 0x20 || !formatOk (field b 12 1)) ++
    badRecs 2 (packRecs img 2) (fun b _ => let o := OpWord.ofBytes b
      decide (4 ≤ o.flags) || !o.reservedOk || o.refWords.any fun w => (o.ref w).resv != 0) ++
    badRecs 3 (packRecs img 3) (fun b _ => decide (1 < field b 0x28 1) || dirty b 0x29 0x40))

/-- A generator record keeps R497. -/
def Gen.ok (g : Gen) : Bool :=
  g.seed != 0 && decide (64 ≤ g.bytes ∧ g.bytes ≤ 16384) && g.bytes % 64 == 0 && decide (1 ≤ g.format ∧ g.format ≤ 8)

/-- An operation record keeps R498 and the checks of R101 that bear on it (log 102). -/
def OpWord.packOk (o : OpWord) : Bool :=
  isCoreOp o.opcode && !o.widens && !((o.opcode == 0x40 || o.opcode == 0x41) && o.fld 4 7 1 != 1) && o.formatsOk
    && o.rangesOk none {} 0 0 none
    && (refFields o.opcode).all fun f => (f.optional && o.word f.word == 0) ||
      (let r := o.ref f.word
       r.kind == 2 && r.hint == 0 && r.uses == 0 && r.addr % 4 == 0 && decide (r.addr ≤ 0x3FFF) && decide (r.addr + o.areaBytes f.word ≤ 0x4000))

/-- Fast cycles of a MATMUL or GEMV on one core in EXACT mode (R261, R285, R295); R500 names no rate for the other
operations (log 104). -/
def OpWord.duration (o : OpWord) : Nat :=
  let m := o.fld 3 0 4
  let k := o.fld 3 4 4
  let n := o.fld 4 0 4
  let w := o.unitShape.2
  let passes := if o.fld 4 4 1 = 5 then 9 else 1
  let block := fun (kk : Nat) => if o.opcode = 0x41 then 4 * ceilDiv (w * kk) 64 else 2 * ceilDiv kk 8
  if o.opcode = 0x40 ∨ o.opcode = 0x41 then m * ceilDiv n w * passes * (k / 64 * block 64 + (if k % 64 = 0 then 0 else block (k % 64))) else 0

/-- The operations of a test. -/
def Pack.opsOf (p : Pack) (t : Test) : List OpWord := (p.ops.drop t.firstOp).take t.opCount

/-- The duration of a test (R500). -/
def Pack.duration (p : Pack) (t : Test) : Nat := ((p.opsOf t).map (·.duration)).foldl (· + ·) 0

/-- A test record keeps R499 and R500. -/
def Pack.testOk (p : Pack) (b : List Byte) (t : Test) : Bool :=
  let bufs := t.gens.map fun g => (g.2, ((p.gens[g.1]?).map (·.bytes)).getD 0)
  decide (1 ≤ t.opCount ∧ t.opCount ≤ 64 ∧ t.firstOp + t.opCount ≤ p.ops.length ∧ field b 10 1 ≤ 4 ∧ t.selector ≤ 3)
    && t.gens.all (fun g => decide (g.1 < p.gens.length))
    && bufs.all (fun q => q.1 % 64 == 0 && decide (q.1 + q.2 ≤ 0x4000))
    && bufs.zipIdx.all (fun q => bufs.zipIdx.all fun r => decide (r.2 ≤ q.2) || !rangesMeet q.1.1 q.1.2 r.1.1 r.1.2)
    && t.resultOffset % 64 == 0 && t.resultBytes % 64 == 0 && decide (64 ≤ t.resultBytes ∧ t.resultBytes ≤ 16384)
    && decide (t.resultOffset + t.resultBytes ≤ 0x4000) && decide (t.expected < 2 ^ (crcKind t.selector).width)
    && decide ((p.tests.filter fun u => u.id == t.id).length ≤ 1) && decide (p.duration t ≤ 16000)

/-- Validation of a pack (R504): code, section and record, or none. -/
def validatePack (keys : List (Option (List Byte))) (firmware arithRev : Nat) (img : List Byte) : Option (Nat × Hit) :=
  let slot := field img 0x28 1
  let key := if slot = 0xFF then some Config.packKeyHash else keys.getD slot none
  match signedCheck 0x4B43415045474153 3 key img with
  | some c => some (c, 0, 0)
  | none =>
    if field img 0x20 4 ≠ 0x4880 ∨ firmware < field img 0x24 4 then some (9, 0, 0)
    else if field img 0x2A 2 ≠ arithRev then some (10, 0, 0)
    else
      let p := Pack.ofBytes img
      let op := fun (b : List Byte) => dirty b 2 0x10 || !(OpWord.ofBytes b).packOk
      let checks : List (Nat × Option Hit) :=
        [(0x0B, checkDirectory 3 packShape img), (0x0C, packReserved img), (0x10, lowestHit (badRecs 1 p.gens fun g _ => !g.ok)),
         (0x11, lowestHit (badRecs 2 (packRecs img 2) fun b _ => op b)),
         (0x12, lowestHit (badRecs 3 (packRecs img 3) fun b _ => !p.testOk b (Test.ofBytes b)))]
      checks.findSome? fun c => c.2.map fun h => (c.1, h)

/-! ## Running a test on one core (R498 to R501) -/

/-- A matrix in the working area, packed (R85). -/
def areaMat (wa : List Byte) (off : Nat) (s : Nat × Nat × Nat) : Mat :=
  let n := rowBytes s.2.2 s.2.1
  Mat.ofRows s.2.2 s.2.1 ((List.range s.1).map fun r => (slice wa (off + r * n) n, []))

/-- Writes a matrix to the working area, packed. -/
def areaPut (wa : List Byte) (off : Nat) (x : Mat) : List Byte := splice wa off ((List.range x.rows).flatMap fun r => (x.rowOut r).1)

/-- Writes a result of elements: the working area and the flags. -/
def areaElems (wa : List Byte) (o : OpWord) (rows cols fmt : Nat) (f : Nat → Nat → OutElem) : List Byte × Flags :=
  let es := elemsOf rows cols (fun _ _ => false) f
  (areaPut wa (o.ref 2).addr (Mat.ofElems fmt cols es []), flagsOf es)

/-- One operation of a test on the working area of a sound core: the area and the completion flags (R498, R501). -/
def OpWord.runArea (o : OpWord) (wa : List Byte) : List Byte × Flags :=
  let x := areaMat wa (o.ref 0).addr (o.shape 0)
  match o.opcode with
  | 0x40 | 0x41 =>
    let b := areaMat wa (o.ref 1).addr (o.shape 1)
    areaElems wa o x.rows b.cols (o.fld 4 6 1) fun i j =>
      dotElement x.fmt b.fmt (o.fld 4 6 1) (o.fld 4 7 1) ((List.range x.cols).map fun k => (x.elem i k, b.elem k j))
  | 0x48 =>
    let f := o.fld 4 4 1
    let y := if vecBinary (f % 64) then areaMat wa (o.ref 1).addr (o.shape 1) else Mat.lost 5 1 1
    areaElems wa o x.rows x.cols (o.fld 4 6 1) fun i j =>
      vecElement (f % 64) (o.fld 4 6 1) (x.wide i j) (if vecBinary (f % 64) then src2At (f / 64) y i j else .zero) (fp32.decode (o.fld 4 0 4))
  | 0x49 =>
    if o.fld 4 1 1 = 0 then areaElems wa o x.rows 1 (o.fld 4 3 1) fun i _ => reduceElement (o.fld 4 0 1) (o.fld 4 3 1) (x.rowWide i)
    else areaElems wa o 1 x.cols (o.fld 4 3 1) fun _ j => reduceElement (o.fld 4 0 1) (o.fld 4 3 1) (x.colWide j)
  | 0x4A =>
    let segs := quantRows (o.fld 4 3 1) (sbyte (o.fld 4 0 1)) x
    let y := quantMat (o.fld 4 3 1) x segs
    let wa := areaPut wa (o.ref 2).addr y
    (splice wa (shiftBase (o.ref 2).addr y.fmt y.rows y.cols) y.shiftArray.1, quantFlags false (segsOf segs))
  | 0x4B =>
    let s := o.shape 0
    let b := shiftBase (o.ref 0).addr s.2.2 s.1 s.2.1
    let nb := ceilDiv s.2.1 64
    let x := { x with shifts := (List.range s.1).map fun i => (List.range nb).map fun j => sbyte (field wa (b + i * nb + j) 1) }
    areaElems wa o x.rows x.cols (o.fld 4 3 1) fun i j => dequantElement (o.fld 4 3 1) (x.elem i j).value
  | _ => (wa, { overflow := (summaryValue (o.fld 4 0 1) (o.fld 1 0 4) x).2 })

/-- The working area of a core as the generators of a test leave it (R495, R499, log 105). -/
def Pack.area (p : Pack) (d : Dev) (core : Nat) (t : Test) : List Byte :=
  t.gens.foldl (fun wa g => match p.gens[g.1]? with
    | some q => splice wa g.2 q.buffer
    | none => wa) (d.padRead core 0xC000 0x4000)

/-- What a sound core gives for a test: check value and flags (R490, R501). -/
def Pack.result (p : Pack) (d : Dev) (core : Nat) (t : Test) : Nat × Nat :=
  let r := (p.opsOf t).foldl (fun (a : List Byte × Flags) o => let q := o.runArea a.1; (q.1, a.2.or q.2)) (p.area d core t, {})
  ((crcKind t.selector).value (2 ^ 64 - 1) (foldOf (t.resultOffset / 64) t.id) (slice r.1 t.resultOffset t.resultBytes), r.2.code)

/-! ## Commands of the pack (R502 to R505) -/

/-- BAD_COMMAND of the TEST group (R503). -/
def State.badTest (s : State) : State := s.setLeaf .tst 5

/-- A pack is refused (R504). -/
def State.refusePack (s : State) (code sect entry : Nat) : State :=
  ({ s with tst := { s.tst with state := .refused, code := code, section_ := sect, entry := entry, pack := none } } : State).setLeaf .tst 0

/-- Where a pack is loaded to: the upper 16 MiB of layout buffer 0 (R502). -/
def packBuffer : Nat := 0xFFD000000

/-- TST_LOAD (R502, R503). -/
def execTstLoad (s : State) : Host.Outcome State Fault Refusal :=
  .next (if !s.ready then s
    else match s.tst.state with
      | .empty | .loaded | .ready | .done | .refused => { s with tst := { s.tst with state := .loading, image := [], pack := none } }
      | _ => s.badTest)

/-- PACK_COPY_DONE (R502, R503): the bytes that the copy brought stand in the upper 16 MiB of layout buffer 0; it does not end while
M0's die takes no write (R356). -/
def execPackCopyDone (bytes : List Byte) (s : State) : Host.Outcome State Fault Refusal :=
  .next (if s.tst.state ≠ .loading ∨ s.dev.rangeBlocked packBuffer bytes.length = true then s
    else
      let s : State := { s with dev := s.dev.writeInternal packBuffer (bytes.take 0x1000000) }
      if bytes.length = s.tst.srcLen ∧ field bytes 0x10 8 = bytes.length then
      { s with tst := { s.tst with state := .loaded, image := bytes } }
    else s.refusePack 1 0 0)

/-- TST_VALIDATE (R503). -/
def execTstValidate (s : State) : Host.Outcome State Fault Refusal :=
  .next (if !s.ready then s
    else if s.tst.state = .loaded then { s with tst := { s.tst with state := .validating } } else s.badTest)

/-- PACK_VALIDATION_DONE (R504). -/
def execPackValidationDone (s : State) : Host.Outcome State Fault Refusal :=
  .next (if s.tst.state ≠ .validating then s
    else match validatePack s.lay.keys s.mgt.running.version s.mgt.running.arithRev s.tst.image with
      | some (c, h) => s.refusePack c h.1 h.2
      | none => { s with tst := { s.tst with state := .ready, pack := some (Pack.ofBytes s.tst.image), code := 0, section_ := 0, entry := 0 } })

/-- A new pass begins (R503, R509). -/
def Tst.newPass (t : Tst) : Tst := { t with state := .running, covered := [], passed := [], running := [] }

/-- TST_START (R503). -/
def execTstStart (s : State) : Host.Outcome State Fault Refusal :=
  .next (if !s.ready then s
    else match s.tst.state with
      | .ready | .done => { s with tst := s.tst.newPass }
      | _ => s.badTest)

/-- The working area and the accumulators of a core are zeroed (R508). -/
def Dev.zeroWork (d : Dev) (c : Nat) : Dev :=
  d.updCore c fun k => { k with
    pad := k.pad.filter fun x => !(decide (0xC000 ≤ x.1) && decide (x.1 < 0x10000)),
    padPoison := k.padPoison.filter fun x => !(decide (0xC000 ≤ x) && decide (x < 0x10000)),
    acc := [], exact := [] }

/-- Tests are abandoned: they run again later and are not counted (R508). -/
def State.abandon (s : State) (pick : Running → Bool) : State :=
  let gone := s.tst.running.filter pick
  { s with dev := (gone.flatMap fun r => [r.core, r.partner]).foldl Dev.zeroWork s.dev,
           tst := { s.tst with running := s.tst.running.filter fun r => !pick r } }

/-- TST_STOP (R503). -/
def execTstStop (s : State) : Host.Outcome State Fault Refusal :=
  .next (if !s.ready then s
    else if s.tst.state = .running then
      let r := s.abandon fun _ => true
      { r with tst := { r.tst with state := .ready } }
    else s.badTest)

/-- TST_DISCARD (R503). -/
def execTstDiscard (s : State) : Host.Outcome State Fault Refusal :=
  .next (if !s.ready then s
    else match s.tst.state with
      | .loading | .running => s.badTest
      | _ => { s with tst := { s.tst with state := .empty, image := [], pack := none } })

/-- TST_CTRL_WRITE (R516): a BUDGET above 5 is ignored (log 77). -/
def execTstCtrlWrite (v : Nat) (s : State) : Host.Outcome State Fault Refusal :=
  .next (if !s.ready then s
    else { s with tst := { s.tst with repeat_ := v.testBit 0, budget := if bitsAt v 8 3 ≤ 5 then bitsAt v 8 3 else s.tst.budget } })

/-! ## Scheduling (R506 to R509) -/

/-- The partner of a core: core xor 1, or if that is fenced the next core above in its cluster that is not, wrapping round (R509). -/
def Dev.partner (d : Dev) (c : Nat) : Option Nat :=
  let x := c ^^^ 1
  if !d.chk.fenced.contains x then some x
  else ((List.range 63).map fun i => c / 64 * 64 + (c % 64 + 1 + i) % 64).find? fun k => !d.chk.fenced.contains k

/-- A cluster's domain is enabled. -/
def Dev.clusterOn (d : Dev) (k : Nat) : Bool := decide (k < 1280) && d.domainOn.testBit (halfDomain k)

/-- A seat's cluster is free for tests: IN_SERVICE, no operation in flight, every slot IDLE (R506, R508). -/
def Dev.seatIdle (d : Dev) (n : Nat) : Bool :=
  (d.seat n).state == .inService && !d.seatBusy n && (List.range 128).all fun i => d.slotSeat i != some n || (d.slot i).idle

/-- A cluster is eligible for tests (R506). -/
def Dev.testable (d : Dev) (k : Nat) : Bool :=
  d.clusterOn k && (coresOf [k]).any (fun c => !d.chk.fenced.contains c) && match d.clusterOwner k with
    | none => true
    | some n => d.seatIdle n

/-- The tests of a pass that a core has still to run, by index. -/
def Tst.todo (t : Tst) (core : Nat) : List Nat :=
  (List.range ((t.pack.map (·.tests.length)).getD 0)).filter fun i => !t.passed.contains (core, i)

/-- A core has a test to start now: it is not fenced, has a partner, neither runs a test, and one is left (R509). -/
def State.wants (s : State) (core : Nat) : Bool :=
  !s.dev.chk.fenced.contains core && !(s.tst.todo core).isEmpty && match s.dev.partner core with
    | none => false
    | some p => !s.tst.running.any fun r => r.core == core || r.partner == core || r.core == p || r.partner == p

/-- Slow cycles that a test takes of its cluster's budget; an unowned cluster that runs no test is woken in 200 (R506, R507). -/
def State.testCost (s : State) (core fast : Nat) : Nat :=
  ceilDiv fast 16 + (if (s.dev.clusterOwner (core / 64)).isNone && !s.tst.running.any fun r => r.core / 64 == core / 64 then 200 else 0)

/-- The budget of the window holds a test (R507): BUDGET × 0.1 % of 100,000,000 slow cycles. -/
def Tst.affords (t : Tst) (cluster cost : Nat) : Bool := decide (t.used.get 0 cluster + cost ≤ t.budget * 100000)

/-- A core may start a test now: its cluster is eligible and its budget holds the test (R506, R507). -/
def State.mayTest (s : State) (core : Nat) : Bool :=
  s.dev.testable (core / 64) && s.wants core && match s.tst.pack, (s.tst.todo core).head? with
    | some p, some i => s.tst.affords (core / 64) (s.testCost core (((p.tests[i]?).map p.duration).getD 0))
    | _, _ => false

/-- The order of a pass: suspect cores first, then clusters in ascending index; a cluster that runs a test is under way (R509). -/
def State.inTurn (s : State) (core : Nat) : Bool :=
  let suspects := s.dev.chk.suspects
  (suspects.contains core || !suspects.any s.mayTest) &&
    (suspects.contains core || (List.range (core / 64)).all fun k =>
      s.tst.running.any (fun r => r.core / 64 == k) || !(coresOf [k]).any s.mayTest)

/-- TEST_START (R506, R507, R509): the first test that the core has still to run, on the pair at once (log 108). -/
def execTestStart (core : Nat) (s : State) : Host.Outcome State Fault Refusal :=
  .next (if s.tst.state ≠ .running then s
    else if !s.mayTest core || !s.inTurn core then s
    else match s.tst.pack, s.dev.partner core, (s.tst.todo core).head? with
      | some p, some q, some i =>
        let cost := s.testCost core (((p.tests[i]?).map p.duration).getD 0)
        { s with tst := { s.tst with running := s.tst.running ++ [{ core := core, partner := q, test := i }],
                                     used := s.tst.used.put 0 (core / 64) (s.tst.used.get 0 (core / 64) + cost) } }
      | _, _, _ => s)

/-- BUDGET_WINDOW (R507): a window of 1 s begins. -/
def execBudgetWindow (s : State) : Host.Outcome State Fault Refusal := .next { s with tst := { s.tst with used := [] } }

/-- The seat that owns a cluster needs it: a slot has left IDLE, or an operation runs (R508). -/
def State.needs (s : State) (cluster : Nat) : Bool := (s.dev.clusterOwner cluster).any fun n => !s.dev.seatIdle n

/-- TEST_ABANDON (R508): the owning seat needs the cluster. -/
def execTestAbandon (cluster : Nat) (s : State) : Host.Outcome State Fault Refusal :=
  .next (if s.needs cluster then s.abandon fun r => r.core / 64 == cluster else s)

/-! ## Outcomes (R510 to R512) -/

/-- A leaf of the TEST group, with its core and test (R516). -/
def State.testLeaf (s : State) (bit core test : Nat) : State :=
  ({ s with tst := { s.tst with infoCore := core, infoTest := test } } : State).setLeaf .tst bit

/-- A core is fenced (R512). -/
def State.fenceCore (test : Nat) (s : State) (core : Nat) : State :=
  let d := s.dev.zeroCore core
  let d := { d with chk := { d.chk.fence [core] with suspects := d.chk.suspects.filter (· ≠ core) } }
  let r : State := { s with dev := d, tst := { s.tst with fenceLast := some core } }
  (r.testLeaf 3 core test).fenceSeat core

/-- The cores of a pass: those that are not fenced, of enabled domains, that have a partner (R509, log 107). -/
def Dev.passCores (d : Dev) : List Nat :=
  (coresOf ((List.range 1280).filter d.clusterOn)).filter fun c => !d.chk.fenced.contains c && (d.partner c).isSome

/-- After tests have been counted: cores that ran them all are covered, and the pass ends when all its cores are (R503, R509). -/
def State.passProgress (s : State) (cores : List Nat) : State :=
  let fresh := cores.filter fun c => !s.dev.chk.fenced.contains c && (s.tst.todo c).isEmpty && !s.tst.covered.contains c
  let t := { s.tst with covered := s.tst.covered ++ fresh }
  if s.dev.passCores.all t.covered.contains then
    let t := { t with passes := satInc32 t.passes 1 }
    ({ s with tst := if t.repeat_ then t.newPass else { t with state := .done } } : State).setLeaf .tst 1
  else { s with tst := t }

/-- A pair has run a test: it counts for the core, and for its partner where the two are partners of each other (R509). -/
def State.testRun (s : State) (r : Running) : State :=
  let both := [r.core] ++ (if s.dev.partner r.partner = some r.core then [r.partner] else [])
  let s : State := { s with
    tst := { s.tst with running := s.tst.running.filter fun q => !(q.core == r.core && q.test == r.test),
                        passed := s.tst.passed ++ both.map fun c => (c, r.test) } }
  s.passProgress both

/-- Both cores become suspect (R510). -/
def State.suspectPair (s : State) (r : Running) : State :=
  { s with dev := { s.dev with chk := { s.dev.chk with suspect := some r.partner,
                                                       suspects := insertAsc r.core (insertAsc r.partner s.dev.chk.suspects) } } }

/-- Slow cycles that one more run of a test takes. -/
def State.runCost (s : State) (r : Running) : Nat := ceilDiv ((s.tst.pack.bind fun p => (p.tests[r.test]?).map p.duration).getD 0) 16

/-- Slow cycles count against the budget of a cluster (R507). -/
def State.charge (s : State) (cluster cost : Nat) : State :=
  { s with tst := { s.tst with used := s.tst.used.put 0 cluster (s.tst.used.get 0 cluster + cost) } }

/-- A test is repeated, or waits for an arbiter; the run counts against the cluster's budget (R507, R510, R511). -/
def State.testAgain (s : State) (r : Running) : State :=
  let s := s.charge (r.core / 64) (s.runCost r)
  { s with tst := { s.tst with running := s.tst.running.map fun q => if q.core = r.core ∧ q.test = r.test then r else q } }

/-- Cores are fenced after a test, and the test is run for those that are not (R510, R511). -/
def State.fencePair (s : State) (r : Running) (test : Nat) (cores : List Nat) (expect : Bool) : State :=
  let s := cores.foldl (State.fenceCore test) s
  let s := if expect && cores.length == 2 then s.testLeaf 4 r.partner test else s
  s.testRun r

/-- The outcome of a run of a test (R510, log 106). -/
def State.testOutcome (s : State) (r : Running) (t : Test) (sound : Nat × Nat) (v : TestDeviation) : State :=
  let w := (crcKind t.selector).width
  let a := (sound.1 ^^^ v.valueA.toNat % 2 ^ w, sound.2 ^^^ v.flagsA)
  let b := (sound.1 ^^^ v.valueB.toNat % 2 ^ w, sound.2 ^^^ v.flagsB)
  let missA := t.expect && a.1 != t.expected
  let missB := t.expect && b.1 != t.expected
  if a == b && !missA && !missB then
    if r.tries = 0 then s.testRun r
    else
      let s := { s with tst := { s.tst with transients := satInc32 s.tst.transients 1 } }
      ((s.suspectPair r).testLeaf 2 r.core t.id).testRun r
  else if r.tries = 0 then s.testAgain { r with tries := 1, missA := missA, missB := missB }
  else
    let s := { s with tst := { s.tst with mismatches := satInc32 s.tst.mismatches 1 } }
    if t.expect then
      s.fencePair r t.id ((if r.missA && missA then [r.core] else []) ++ (if r.missB && missB then [r.partner] else [])) true
    else s.testAgain { r with arbitrating := true }

/-- TEST_DONE (R510): the pair that a core leads has run its test. Where the seat needs the cluster, the test was abandoned (R508). -/
def execTestDone (core : Nat) (deviation : TestDeviation) (s : State) : Host.Outcome State Fault Refusal :=
  .next (if s.needs (core / 64) then s.abandon fun r => r.core / 64 == core / 64 else match s.tst.pack, s.tst.running.find? fun r => r.core == core && !r.arbitrating with
    | some p, some r => match p.tests[r.test]? with
      | some t => s.testOutcome r t (p.result s.dev r.core t) deviation
      | none => s
    | _, _ => s)

/-- An arbiter is eligible: a core of another cluster on the same compute stack that has passed the test in this pass, in a cluster that may
be tested and has the budget (R506, R507, R511). -/
def State.arbiter (s : State) (r : Running) : Option Nat :=
  ((s.tst.passed.filter fun q => q.2 == r.test && q.1 / 64 != r.core / 64 && clusterStack (q.1 / 64) == clusterStack (r.core / 64)
      && !s.dev.chk.fenced.contains q.1 && s.dev.testable (q.1 / 64) && s.tst.affords (q.1 / 64) (s.runCost r)).map (·.1)).foldl (fun (b : Option Nat) c => match b with
    | none => some c
    | some x => some (min x c)) none

/-- ARBITRATION_DONE (R511): a pair core whose result differs from the arbiter's is fenced. The pair's results differ, so one does; an
operand by which neither does names no such event. -/
def execArbitrationDone (core : Nat) (deviation : TestDeviation) (s : State) : Host.Outcome State Fault Refusal :=
  .next (if s.needs (core / 64) then s.abandon fun r => r.core / 64 == core / 64
    else match s.tst.pack, s.tst.running.find? fun r => r.core == core && r.arbitrating with
    | some p, some r => match p.tests[r.test]?, s.arbiter r with
      | some t, some a =>
        let badA := decide (deviation.valueA ≠ 0 ∨ deviation.flagsA ≠ 0)
        let badB := decide (deviation.valueB ≠ 0 ∨ deviation.flagsB ≠ 0)
        if badA || badB then (s.charge (a / 64) (s.runCost r)).fencePair r t.id ((if badA then [r.core] else []) ++ (if badB then [r.partner] else [])) false else s
      | _, _ => s
    | _, _ => s)

end Sys2Proof.Machine
end

