-- ==== Sys2Proof/Machine/Values.lean ====
section
/-! DEFINITION. What every register of PF BAR0 and of the seats' BAR0 reads as (R553 to R557 and the register tables of the
chapters), block by block: a table of (offset, value) for the single registers, and the families by their strides. -/

namespace Sys2Proof.Machine

/-- Bits [31:0] and [63:32] of a value. -/
def lo32 (x : Nat) : Nat := x % 2 ^ 32
def hi32 (x : Nat) : Nat := x / 2 ^ 32 % 2 ^ 32

/-- Register k of a digest or a name: bytes 4k to 4k + 3. -/
def wordOf (bs : List Byte) (k : Nat) : Nat := field bs (4 * k) 4

/-- The value at an offset in a table of registers; 0 at an offset that holds none (R554). -/
def regAt (t : List (Nat × Nat)) (o : Nat) : Nat := SMap.get 0 t o

/-- A leaf register and the mask register beside it. -/
def State.leafPair (s : State) (r : LeafReg) (o : Nat) : List (Nat × Nat) := [(o, s.leafValue r), (o + 4, s.dev.mask r)]

/-- The MSI-X table entry (word 0 to 3) of a function (R565). -/
def FnCfg.msixWord (f : FnCfg) (k : Nat) : Nat :=
  if k = 0 then lo32 f.addr else if k = 1 then hi32 f.addr else if k = 2 then f.data else f.masked.toNat

/-- ATN_FIRST, ATN_FIRST_TIME_LO and _HI from offset `o` (R562, R566, R568). -/
def FnCfg.firstRegs (f : FnCfg) (o : Nat) : List (Nat × Nat) :=
  match f.first with
  | some (g, t) => [(o, g + 2 ^ 31), (o + 4, lo32 t), (o + 8, hi32 t)]
  | none => []

/-- A word of a log slot: the latched entry where the slot is latched (R439). -/
def logWord (latch : Option (Nat × List Byte)) (live : Nat → List Byte) (o : Nat) : Nat :=
  let k := o / 32
  match latch with
  | some (i, b) => if i = k ∧ o % 32 ≠ 0 then wordOf b (o % 32 / 4) else wordOf (live k) (o % 32 / 4)
  | none => wordOf (live k) (o % 32 / 4)

/-! ## Blocks of PF BAR0 (R553) -/

/-- GLB (R278, R440, R556). -/
def State.glbValue (s : State) (o : Nat) : Nat :=
  let g := s.dev.glb
  if 0x400 ≤ o ∧ o < 0x500 then g.aperture.get 0 ((o - 0x400) / 4)
  else if 0x2000 ≤ o ∧ o < 0x4000 then logWord g.logLatch (s.dev.logEntry (some g.logSelect)) (o - 0x2000)
  else if 0x8000 ≤ o ∧ o < 0xC000 then
    let w := s.dev.window ((o - 0x8000) / 16)
    regAt [(0, lo32 w.base), (4, hi32 w.base), (8, w.length),
           (12, w.enable.toNat + 2 * w.reqCheck.toNat + 16 * w.context + 2 ^ 16 * w.requester)] (o % 16)
  else regAt ([(0x000, 0x4880 + Config.stepping % 256 * 2 ^ 16), (0x004, lo32 Config.serial), (0x008, hi32 Config.serial),
      (0x010, s.mgt.running.arithRev), (0x208, g.arithSeat + 256 * g.arithRing),
      (0x300, g.speed + 16 * g.width + 512 * g.flit256.toNat + 1024 * g.cxlMem.toNat + 2048 * g.dlUp.toNat
              + 4096 * g.committed.toNat + 8192 * g.vfEnable.toNat),
      (0x318, g.infoSeat.getD 0 + 64 * g.infoSeat.isSome.toNat + 256 * g.infoKind + 2048 * g.infoPath),
      (0x31C, lo32 g.faultAddr), (0x320, hi32 g.faultAddr), (0x324, g.lossCount), (0x328, g.ingressFaults),
      (0x32C, g.poisonReads), (0x330, g.logSelect)] ++ s.leafPair .arith 0x200 ++ s.leafPair .host 0x310) o

/-- ATN (R562, R565). -/
def State.atnValue (s : State) (o : Nat) : Nat :=
  let f := s.dev.fn 0
  let c := fun g => s.atn.causes.get 0 g
  if 0x8000 ≤ o ∧ o < 0x8010 then f.msixWord ((o - 0x8000) / 4)
  else regAt ([(0x000, f.summary), (0x004, s.atn.pinMask), (0x008, f.mask), (0x00C, 256 * f.armed.toNat),
      (0x010, s.atn.pin.toNat + 2 * s.atn.force.toNat), (0x100, c 0), (0x104, c 1), (0x108, lo32 (c 2)), (0x10C, hi32 (c 2)),
      (0x110, c 3), (0x114, c 4), (0x118, c 5), (0x11C, c 6), (0x120, c 7), (0x124, c 8), (0x128, c 9), (0x12C, c 10),
      (0x130, c 11), (0x9000, f.pending.toNat)] ++ f.firstRegs 0x20) o

/-- The changed seats that are not yet quiescent while a swap is pending (R69, R82). -/
def State.waitingSeats (s : State) : Nat :=
  if s.lay.shadow = .swapPending then bitsOf 64 fun n => s.dev.swapStop.contains n && !s.dev.quiescent n else 0

/-- LAY (R82). -/
def State.layValue (s : State) (o : Nat) : Nat :=
  let l := s.lay
  let serial := (s.dev.layout.map (·.serial)).getD 0
  let w := s.waitingSeats
  if 0x40 ≤ o ∧ o < 0x80 then wordOf s.layoutDigest ((o - 0x40) / 4)
  else if 0xC0 ≤ o ∧ o < 0x100 then l.keyHash.get 0 ((o - 0xC0) / 4)
  else regAt ([(0x004, l.shadow.code + 8 * (!s.dev.held).toNat + 16 * s.dev.held.toNat + 32 * l.activeBuffer
        + 2 ^ 16 * (setBits 64 w).length),
      (0x008, l.code + 256 * l.section_), (0x00C, l.entry), (0x010, lo32 l.src), (0x014, hi32 l.src), (0x018, l.srcLen),
      (0x01C, l.loaded), (0x020, lo32 serial), (0x024, hi32 serial), (0x028, lo32 w), (0x02C, hi32 w),
      (0x030, lo32 l.fencedSeats), (0x034, hi32 l.fencedSeats), (0x084, bitsOf 4 fun i => (l.keys.getD i none).isSome)]
      ++ s.leafPair .lay 0x100) o

/-- A ring's descriptor (R167). -/
def Dev.ringValue (d : Dev) (i o : Nat) : Nat :=
  let r := d.ring i
  let c := d.ringRec i
  let c : RingRec := if c.assigned then c else { seat := 0 }
  regAt [(0x00, i + 2 ^ 12 * c.seat + 2 ^ 18 * c.localIx + 2 ^ 24 * c.slot + 2 ^ 31 * (d.ringRec i).assigned.toNat),
    (0x04, c.context + 256 * c.log2Size + 2 ^ 16 * r.smallPath.toNat + 2 ^ 17 * r.notify + 2 ^ 19 * r.append.toNat + 2 ^ 24 * r.state.code),
    (0x08, lo32 c.submitBase), (0x0C, hi32 c.submitBase), (0x10, lo32 c.completeBase), (0x14, hi32 c.completeBase),
    (0x18, r.generation), (0x1C, r.tail), (0x20, r.fetched), (0x24, r.completed), (0x28, r.consumed), (0x2C, r.stale),
    (0x30, r.dbErr)] o

/-- A slot's registers (R169). -/
def Dev.slotValue (d : Dev) (i o : Nat) : Nat :=
  let k := d.slot i
  let why := d.stallOf i (!d.room i 1)
  regAt [(0x00, (d.slotSeat i).getD 0 + 128 * (d.slotSeat i).isSome.toNat + 256 * min (d.placesHeld i) 31),
    (0x04, why.1.code + 2 ^ 16 * why.2), (0x08, lo32 k.opsFetched), (0x0C, hi32 k.opsFetched), (0x10, lo32 k.opsRetired),
    (0x14, hi32 k.opsRetired), (0x18, lo32 k.tiles), (0x1C, hi32 k.tiles), (0x20, lo32 k.bytes), (0x24, hi32 k.bytes),
    (0x28, k.recheck)] o

/-- A context's counters in the SEAT block (R408, R409). -/
def Dev.meterValue (d : Dev) (x o : Nat) : Nat :=
  let c := d.ctx x
  let m := c.meter
  regAt [(0x00, lo32 m.cycles), (0x04, hi32 m.cycles), (0x08, lo32 m.read), (0x0C, hi32 m.read), (0x10, lo32 m.write),
    (0x14, hi32 m.write), (0x18, lo32 m.remote), (0x1C, hi32 m.remote), (0x20, lo32 m.rows), (0x24, hi32 m.rows),
    (0x28, lo32 m.egress), (0x2C, hi32 m.egress), (0x30, c.debt), (0x34, c.overrunMax), (0x38, min m.loaded 0xFFFFFFFF),
    (0x3C, c.slices)] o

/-- Contexts that a seat has in the active image, 0 of a seat that it does not use. -/
def Dev.contextsOf (d : Dev) (n : Nat) : Nat := if (d.seatRec n).kind = 0 then 0 else (d.seatRec n).contexts

/-- A seat's registers in PF BAR0 (R409). -/
def State.seatValue (s : State) (n o : Nat) : Nat :=
  let k := s.dev.seat n
  if 0x100 ≤ o ∧ o < 0x500 then s.dev.meterValue (16 * n + (o - 0x100) / 0x40) ((o - 0x100) % 0x40)
  else regAt ([(0x000, k.state.code + 8 * (s.dev.shared n).toNat + 16 * s.dev.contextsOf n + 2 ^ 12 * k.loaded.getD 0
        + 2 ^ 16 * k.loaded.isSome.toNat),
      (0x008, ((List.range 16).map fun c => (s.dev.ctx (16 * n + c)).save.code * 4 ^ c).foldl (· + ·) 0),
      (0x018, k.faultCtx + 16 * k.faultKind + 256 * k.faultSeg), (0x01C, lo32 k.faultAddr), (0x020, hi32 k.faultAddr),
      (0x024, k.tagRejects)] ++ s.leafPair (.seat n) 0x010) o

/-- A segment's registers (R410); those of a context that does not exist read 0. -/
def Dev.segValue (d : Dev) (x i o : Nat) : Nat :=
  let g := d.seg x i
  if d.ctxExists x then
    regAt [(0x00, lo32 g.vbase), (0x04, hi32 g.vbase), (0x08, lo32 g.pbase), (0x0C, hi32 g.pbase), (0x10, g.length), (0x14, g.attr),
      (0x18, g.err + 256 * g.dropping.toNat)] o
  else 0

/-- A memory stack's registers (R368). -/
def State.memValue (s : State) (x o : Nat) : Nat :=
  let k := s.dev.mem.stack x
  if 0x8000 ≤ o ∧ o < 0x10000 then
    let e := k.remap.get {} ((o - 0x8000) / 4)
    e.frame + 2 ^ 28 * e.state.code
  else regAt ([(0x000, k.thermal.code + 256 * k.temp + 2 ^ 16 * k.tempMax), (0x008, k.ce), (0x00C, k.ue), (0x010, k.retry),
      (0x014, k.poisonReads), (0x018, k.repairs + 2 ^ 16 * (k.sparesUsed.filter fun b => decide (8 ≤ b.2)).length),
      (0x01C, s.dev.mem.spareBase x), (0x020, lo32 k.faultAddr), (0x024, hi32 k.faultAddr),
      (0x028, k.faultPc + 64 * k.faultBank + 4096 * k.faultRow + 2 ^ 26 * k.faultSpare.isSome.toNat + 2 ^ 27 * k.faultSpare.getD 0),
      (0x02C, k.faultKind + 256 * k.faultSeat + 2 ^ 15 * k.faultHost.toNat)] ++ s.leafPair (.mem x) 0x040) o

/-- A stream cache's registers (R369). -/
def Dev.cacheValue (d : Dev) (k o : Nat) : Nat :=
  if o = 0 then d.cache.keepDenied.get 0 k
  else if 0x100 ≤ o ∧ o < 0x200 then d.cache.keepUsed k ((o - 0x100) / 4) else 0

/-- Tricks in a state that a predicate picks (log 117). -/
def Trk.count (k : Trk) (p : TrickState → Bool) : Nat := (k.tricks.filter fun t => p t.state).length

/-- Granules in use on a stack, in 64 KiB units (R252, log 116). -/
def Trk.stageUnits (k : Trk) (x : Nat) : Nat := ceilDiv (((k.takenOn x).map (·.2)).foldl (· + ·) 0) 1024

/-- TRK (R252). -/
def State.trkValue (s : State) (o : Nat) : Nat :=
  let k := s.dev.trk
  let f := s.dev.pinFloor
  if 0x40 ≤ o ∧ o < 0x70 then (k.takenOn ((o - 0x40) / 4)).length
  else if 0x80 ≤ o ∧ o < 0xB0 then k.stageUnits ((o - 0x80) / 4)
  else regAt ([(0x000, lo32 k.lce), (0x004, hi32 k.lce), (0x008, lo32 k.floor), (0x00C, hi32 k.floor), (0x010, lo32 f), (0x014, hi32 f),
      (0x018, k.count (fun t => t == .open_ || t == .commit)
              + 2 ^ 16 * k.count fun t => t == .prepared || t == .committing || t == .committed),
      (0x01C, k.reserved), (0x020, k.retries), (0x108, k.infoStack + 256 * k.infoSeat)] ++ s.leafPair .trk 0x100) o

/-- A port's registers (R476). -/
def Port.value (p : Port) (o : Nat) : Nat :=
  if 0x10 ≤ o ∧ o < 0x20 then wordOf p.vendor ((o - 0x10) / 4)
  else if 0x20 ≤ o ∧ o < 0x30 then wordOf p.pn ((o - 0x20) / 4)
  else regAt [(0x00, p.state.code + 16 * p.refuse + 128 * p.switch.toNat + 256 * p.farModule),
    (0x08, p.maxPower + 256 * p.length + 2 ^ 16 * p.lanes), (0x30, p.crcErrors), (0x34, p.replays), (0x38, p.retrains),
    (0x3C, p.misrouted), (0x40, lo32 p.txFlits), (0x44, hi32 p.txFlits), (0x48, lo32 p.rxFlits), (0x4C, hi32 p.rxFlits)] o

/-- The route entry of a module is VALID and its port UP (R456, R477). -/
def Dev.reachable (d : Dev) (m : Nat) : Bool :=
  let e := d.qlk.route.get 0 m
  e.testBit 7 && (d.port (e % 8)).state == .up

/-- QLK (R476, R477). -/
def State.qlkValue (s : State) (o : Nat) : Nat :=
  let q := s.dev.qlk
  let m := q.members.get {} q.select
  let step := m.step.getD 0
  if o < 0x8000 then (s.dev.port (o / 0x1000)).value (o % 0x1000)
  else if 0x9000 ≤ o ∧ o < 0x9080 then q.exclude.get 0 ((o - 0x9000) / 4)
  else if 0x10000 ≤ o ∧ o < 0x11000 then q.route.get 0 ((o - 0x10000) / 4)
  else regAt ([(0x8000, lo32 q.step), (0x8004, hi32 q.step), (0x8008, lo32 q.epoch), (0x800C, hi32 q.epoch), (0x8010, q.select),
      (0x8014, m.thermal + 8 * (m.step == some q.step).toNat + 16 * (s.dev.reachable q.select).toNat
        + 32 * ((q.exclude.get 0 (q.select / 32)).testBit (q.select % 32)).toNat),
      (0x8018, lo32 step), (0x801C, hi32 step), (0x8020, lo32 m.progress), (0x8024, hi32 m.progress), (0x8028, m.seen),
      (0x8108, q.infoPort + 256 * q.infoModule)] ++ s.leafPair .qlk 0x8100) o

/-- A check-value unit's registers (R514, log 118). -/
def ChkUnit.value (k : ChkUnit) (o : Nat) : Nat :=
  regAt [(0x00, k.selector + 4 * k.fold.toNat + 8 * k.compare.toNat + 16 * k.init.toNat),
    (0x04, k.busy.toNat + 2 * k.done.toNat + 4 * k.matched.toNat + 8 * k.poisoned.toNat + 256 * k.busy.toNat),
    (0x08, lo32 k.addr), (0x0C, hi32 k.addr), (0x10, lo32 k.len), (0x14, hi32 k.len), (0x18, lo32 k.seed), (0x1C, hi32 k.seed),
    (0x20, k.seq), (0x24, lo32 k.expect), (0x28, hi32 k.expect), (0x2C, lo32 k.running), (0x30, hi32 k.running),
    (0x34, lo32 k.result), (0x38, hi32 k.result)] o

/-- CHK (R514, R515). -/
def State.chkValue (s : State) (o : Nat) : Nat :=
  let c := s.dev.chk
  if o < 0x1800 then (s.dev.unit (o / 0x100)).value (o % 0x100)
  else regAt ([(0x4008, c.infoUnit + 256 * c.infoSeat.getD 0 + 2 ^ 14 * c.infoSeat.isSome.toNat), (0x400C, c.faultCore),
    (0x4010, c.parity), (0x4014, c.coreFaults), (0x4018, c.reruns), (0x401C, c.mismatches)] ++ s.leafPair .chk 0x4000) o

/-- A core with a VALID bit. -/
def coreValid (c : Option Nat) : Nat :=
  match c with
  | some k => k + 2 ^ 31
  | none => 0

/-- TST (R516). -/
def State.tstValue (s : State) (o : Nat) : Nat :=
  let t := s.tst
  let fenced := s.dev.chk.fenced
  if 0x80 ≤ o ∧ o < 0xC0 then wordOf t.digest ((o - 0x80) / 4)
  else regAt ([(0x004, t.state.code), (0x008, t.code + 256 * t.section_), (0x00C, t.entry), (0x010, lo32 t.src), (0x014, hi32 t.src),
      (0x018, t.srcLen), (0x01C, t.repeat_.toNat + 256 * t.budget), (0x020, t.passes), (0x024, t.covered.length),
      (0x028, t.transients), (0x02C, t.mismatches), (0x030, fenced.length), (0x034, coreValid s.dev.chk.suspect),
      (0x038, coreValid t.fenceLast), (0x03C, t.fenceSelect),
      (0x040, bitsOf 32 fun b => fenced.contains (32 * t.fenceSelect + b)), (0x108, t.infoCore), (0x10C, t.infoTest)]
      ++ s.leafPair .tst 0x100) o

/-- A cluster's fast clock runs (R529). -/
def State.clocked (s : State) (c : Nat) : Bool :=
  (s.pwr.boot == .selftest || (s.dev.clusterOwner c).any (fun n => (s.dev.seat n).state != .unused)
    || s.tst.running.any (fun r => r.core / 64 == c || r.partner / 64 == c) || s.dev.chk.pending.any fun k => k / 64 == c)
    && !s.dev.clkStarting.contains c

/-- CLK_STATUS (R527, R551): the always-on PLL has locked, and so has that of every compute and memory base die whose domain is on
(R524, R526). -/
def Dev.plls (d : Dev) : Nat :=
  1 + 2 * bitsOf 4 (fun k => d.domainOn.testBit (12 + k)) + 2 ^ 5 * bitsOf 12 fun x => d.domainOn.testBit (16 + x / 3)

/-- PWR and CLK (R551). -/
def State.pwrValue (s : State) (o : Nat) : Nat :=
  let p := s.pwr
  regAt ([(0x000, p.voltage + 2 ^ 16 * meanOf p.samples), (0x004, p.peak), (0x008, p.limit), (0x00C, p.level), (0x010, p.throttled),
    (0x014, leNat (p.dieTemp.map fun t => BitVec.ofNat 8 t)), (0x018, s.dev.domainOn), (0x020, p.cause),
    (0x4000, s.dev.plls), (0x4008, lo32 s.dev.slow), (0x400C, hi32 s.dev.slow), (0x4010, p.clusterSelect),
    (0x4014, bitsOf 32 fun b => s.clocked (32 * p.clusterSelect + b)), (0x401C, coreValid s.dev.chk.pending)]
    ++ s.leafPair .pwr 0x100) o

/-- MGT (R552). -/
def State.mgtValue (s : State) (o : Nat) : Nat :=
  let m := s.mgt
  if 0x40 ≤ o ∧ o < 0x80 then wordOf m.running.digest ((o - 0x40) / 4)
  else if 0x80 ≤ o ∧ o < 0xC0 then wordOf ((m.flash.map (·.digest)).getD []) ((o - 0x80) / 4)
  else if 0x1000 ≤ o ∧ o < 0x2000 then leNat ((List.range 4).map fun i => SMap.get 0 m.spdmBuf (o - 0x1000 + i))
  else regAt ([(0x000, (s.pwr.boot == .recovery).toNat + 256 * m.reason + 2 ^ 16 * m.selftestDone.toNat), (0x004, Config.bootRom),
      (0x008, lo32 m.running.version), (0x00C, hi32 m.running.version), (0x010, m.running.security), (0x014, m.floor),
      (0x024, m.state.code + 256 * m.error + 2 ^ 16 * m.pldm.toNat), (0x028, lo32 m.src), (0x02C, hi32 m.src), (0x030, m.srcLen),
      (0x034, m.written), (0x200, m.spdmLength), (0x204, m.spdmBusy.toNat + 2 ^ 16 * m.spdmAnswer)] ++ s.leafPair .mgt 0x100) o

/-- The value at an offset of PF BAR0 (R553). -/
def State.pfValue (s : State) (o : Nat) : Nat :=
  if o < 0x10000 then s.glbValue o
  else if o < 0x20000 then s.atnValue (o - 0x10000)
  else if o < 0x21000 then s.layValue (o - 0x20000)
  else if 0x100000 ≤ o ∧ o < 0x140000 then s.dev.ringValue ((o - 0x100000) / 64) (o % 64)
  else if 0x140000 ≤ o ∧ o < 0x141000 then regAt ((0x140008, s.dev.ringInfo) :: s.leafPair .rng 0x140000) o
  else if 0x200000 ≤ o ∧ o < 0x208000 then s.dev.slotValue ((o - 0x200000) / 0x100) (o % 0x100)
  else if 0x300000 ≤ o ∧ o < 0x340000 then s.seatValue ((o - 0x300000) / 0x1000) (o % 0x1000)
  else if 0x400000 ≤ o ∧ o < 0x440000 then s.dev.segValue ((o - 0x400000) / 0x100) (o % 0x100 / 0x20) (o % 0x20)
  else if 0x800000 ≤ o ∧ o < 0xE00000 then s.memValue ((o - 0x800000) / 0x80000) (o % 0x80000)
  else if 0xE00000 ≤ o ∧ o < 0xE40000 then s.dev.cacheValue ((o - 0xE00000) / 0x10000) (o % 0x10000)
  else if 0x1400000 ≤ o ∧ o < 0x1401000 then s.trkValue (o - 0x1400000)
  else if 0x1800000 ≤ o ∧ o < 0x1811000 then s.qlkValue (o - 0x1800000)
  else if 0x1C00000 ≤ o ∧ o < 0x1C04020 then s.chkValue (o - 0x1C00000)
  else if 0x1E00000 ≤ o ∧ o < 0x1E01000 then s.tstValue (o - 0x1E00000)
  else if 0x1F00000 ≤ o ∧ o < 0x1F04020 then s.pwrValue (o - 0x1F00000)
  else if 0x1F80000 ≤ o ∧ o < 0x1F82000 then s.mgtValue (o - 0x1F80000)
  else 0

/-! ## Seat BAR0 (R557) -/

/-- An exception record's registers (R279). -/
def ExcRec.value (e : ExcRec) (o : Nat) : Nat :=
  regAt [(0x00, e.valid.toNat + 256 * e.opcode + 2 ^ 16 * e.context), (0x04, e.seq), (0x08, e.row), (0x0C, e.col), (0x10, e.kblock),
    (0x14, e.opIndex % 2 ^ 16 + 2 ^ 16 * e.inBody.toNat)] o

/-- The ring of a seat with a local index; a ring that no image assigns shows the reset values. -/
def Dev.localRing (d : Dev) (n k : Nat) : Ring := (d.ringOf n k).elim {} d.ring

/-- SEAT_INFO (R411). -/
def State.seatInfo (s : State) (n : Nat) : Nat :=
  let k := s.dev.seat n
  n + 64 * (s.dev.shared n).toNat + 256 * s.dev.contextsOf n + 2 ^ 16 * k.loaded.getD 0 + 2 ^ 20 * k.state.code

/-- The faulting address that seat software sees: for KIND 1 and 2 (R411). -/
def Seat.mirrorAddr (k : Seat) : Nat := if k.faultKind = 1 ∨ k.faultKind = 2 then k.faultAddr else 0

/-- The value at an offset of the BAR0 of VF n + 1 (R557). -/
def State.vfValue (s : State) (n o : Nat) : Nat :=
  let d := s.dev
  let k := d.seat n
  let f := d.fn (n + 1)
  if k.state = .unused then (if o = 0 then n else 0)
  else if 0x100 ≤ o ∧ o < 0x180 then
    let c := d.ctx (16 * n + (o - 0x100) / 8)
    if o % 8 = 0 then c.debt else c.overrunMax
  else if 0x800 ≤ o ∧ o < 0x1000 then (d.localRing n ((o - 0x800) / 32)).exc.value (o % 32)
  else if 0x1000 ≤ o ∧ o < 0x1400 then
    let r := d.localRing n ((o - 0x1000) / 16)
    regAt [(0, r.smallPath.toNat + 2 * r.notify + 8 * r.append.toNat), (8, r.state.code + 2 ^ 16 * r.generation), (12, r.fetched)] (o % 16)
  else if 0x1800 ≤ o ∧ o < 0x1C00 then
    let r := d.localRing n ((o - 0x1800) / 16)
    regAt [(0, r.crushed), (4, r.widened), (8, r.clamped)] (o % 16)
  else if 0x2000 ≤ o ∧ o < 0x3000 then d.segValue (16 * n + (o - 0x2000) / 0x100) (o % 0x100 / 0x20) (o % 0x20)
  else if 0x4000 ≤ o ∧ o < 0x6000 then logWord k.logLatch (d.logEntry (d.ringOf n k.logSelect)) (o - 0x4000)
  else if 0x7000 ≤ o ∧ o < 0x7010 then f.msixWord ((o - 0x7000) / 4)
  else if 0x8000 ≤ o ∧ o < 0x9000 then
    let r := d.localRing n ((o - 0x8000) / 64)
    regAt [(0, lo32 r.dbSubmit), (4, hi32 r.dbSubmit), (8, lo32 r.dbComplete), (12, hi32 r.dbComplete)] (o % 64)
  else if 0x9000 ≤ o ∧ o < 0xA000 then leNat (k.mailBytes (o - 0x9000) 4)
  else regAt ([(0x0000, s.seatInfo n), (0x1408, lo32 k.notify), (0x140C, hi32 k.notify), (0x1428, k.arithRing),
      (0x1448, k.faultCtx + 16 * k.faultKind + 256 * k.faultSeg), (0x144C, lo32 k.mirrorAddr), (0x1450, hi32 k.mirrorAddr),
      (0x1468, k.chkRing), (0x1500, f.summary), (0x1504, f.mask), (0x1508, 256 * f.armed.toNat), (0x3000, k.logSelect),
      (0x7800, f.pending.toNat)] ++ f.firstRegs 0x1510 ++ s.leafPair (.vfRing n) 0x1400 ++ s.leafPair (.vfArith n) 0x1420
      ++ s.leafPair (.vfSeg n) 0x1440 ++ s.leafPair (.vfChk n) 0x1460) o

/-! ## Access (R19 to R22, R554, R555) -/

/-- A block of PF BAR0 that responds in recovery-HELD: ATN, PWR, CLK and MGT (R543, R555). -/
def inRecovery (o : Nat) : Bool :=
  (decide (0x10000 ≤ o) && decide (o < 0x20000)) || (decide (0x1F00000 ≤ o) && decide (o < 0x1F04020))
    || (decide (0x1F80000 ≤ o) && decide (o < 0x1F82000))

/-- The function exists on the link: the physical function from step 7 of R531 on, a VF with VF Enable 1 (R415, R555, log 115). -/
def State.present (s : State) : Fn → Bool
  | .pf => s.mgtReady
  | .vf n => s.ready && s.dev.glb.vfEnable && decide (n < 64)

/-- An aligned access reaches a register at the offset (R555, R557). -/
def State.reaches (s : State) (fn : Fn) (o : Nat) : Bool :=
  match fn with
  | .pf => s.ready || (s.mgtReady && inRecovery o)
  | .vf n => s.ready && s.dev.glb.vfEnable && decide (n < 64)

/-- The value now at an offset; 0 where no register responds. -/
def State.liveValue (s : State) (fn : Fn) (o : Nat) : Nat :=
  if s.reaches fn o then
    match fn with
    | .pf => s.pfValue o
    | .vf n => s.vfValue n o
  else 0

/-- The _LO registers whose read latches the _HI register at the next offset (R162, R252, R409, R476, R477, R514, R551, R562,
R568). -/
def latchesHi (fn : Fn) (o : Nat) : Bool :=
  match fn with
  | .vf _ => o == 0x1514
  | .pf =>
    if o < 0x20000 then o == 0x10024
    else if 0x200000 ≤ o ∧ o < 0x208000 then [0x08, 0x10, 0x18, 0x20].contains (o % 0x100)
    else if 0x300000 ≤ o ∧ o < 0x340000 then
      o % 0x1000 == 0x1C || (decide (0x100 ≤ o % 0x1000) && decide (o % 0x1000 < 0x500) && [0x00, 0x08, 0x10, 0x18, 0x20, 0x28].contains (o % 0x40))
    else if 0x1400000 ≤ o ∧ o < 0x1401000 then [0x1400000, 0x1400008, 0x1400010].contains o
    else if 0x1800000 ≤ o ∧ o < 0x1808000 then o % 0x1000 == 0x40 || o % 0x1000 == 0x48
    else if 0x1808000 ≤ o ∧ o < 0x1809000 then [0x1808000, 0x1808008, 0x1808018, 0x1808020].contains o
    else if 0x1C00000 ≤ o ∧ o < 0x1C01800 then o % 0x100 == 0x2C || o % 0x100 == 0x34
    else o == 0x1F04008

/-- The key of a latched _HI register. -/
def latchKey (fn : Fn) (o : Nat) : Nat := fn.index * 2 ^ 26 + o

/-- What a 32-bit read of an aligned offset returns: a latched _HI register shows what its _LO register latched. -/
def State.readValue (s : State) (fn : Fn) (o : Nat) : Nat :=
  if 4 ≤ o ∧ latchesHi fn (o - 4) = true ∧ s.reaches fn o then s.dev.latches.get 0 (latchKey fn o) else s.liveValue fn o

end Sys2Proof.Machine
end

