-- ==== Sys2Proof/Machine/Registers.lean ====
section
/-! DEFINITION. Register accesses (R19 to R22, R554, R555, R590): what a write does at each offset of PF BAR0 and of the seats'
BAR0, accesses of a wrong size or alignment, reads that latch, and writes of 1 to leaves. A register with a command of its own
has that command's effect. -/

namespace Sys2Proof.Machine

/-- The state that a command leaves. -/
def State.after (s : State) (o : Host.Outcome State Fault Refusal) : State :=
  match o with
  | .next t => t
  | _ => s

/-! ## Leaves and masks (R558 to R560) -/

/-- The leaf register at an offset, with its W1C bits (R559, R567). -/
def leafAt (fn : Fn) (o : Nat) : Option (LeafReg × Nat) :=
  match fn with
  | .vf n =>
    if o = 0x1400 then some (.vfRing n, 0x1F) else if o = 0x1420 then some (.vfArith n, 1)
    else if o = 0x1440 then some (.vfSeg n, 3) else if o = 0x1460 then some (.vfChk n, 1) else none
  | .pf =>
    if o = 0x200 then some (.arith, 1) else if o = 0x310 then some (.host, 0x3F)
    else if o = 0x20100 then some (.lay, 0x3D) else if o = 0x140000 then some (.rng, 0xF)
    else if 0x300000 ≤ o ∧ o < 0x340000 ∧ o % 0x1000 = 0x10 then some (.seat ((o - 0x300000) / 0x1000), 0x3F)
    else if 0x800000 ≤ o ∧ o < 0xE00000 ∧ o % 0x80000 = 0x40 then some (.mem ((o - 0x800000) / 0x80000), 0x1FF)
    else if o = 0x1400100 then some (.trk, 0x1F) else if o = 0x1808100 then some (.qlk, 0x7F)
    else if o = 0x1C04000 then some (.chk, 0x1FF) else if o = 0x1E00100 then some (.tst, 0x3F)
    else if o = 0x1F00100 then some (.pwr, 0xF) else if o = 0x1F80100 then some (.mgt, 0x37) else none

/-- The leaf register whose mask register lies at an offset, with the mask's bits: those of the leaves, the RO ones included. -/
def maskAt (fn : Fn) (o : Nat) : Option (LeafReg × Nat) :=
  if o < 4 then none else (leafAt fn (o - 4)).map fun p => (p.1, if p.1 = .lay ∨ p.1 = .mgt then 0x3F else p.2)

/-- A write to a leaf register: its RO leaves do not change (R560). -/
def State.writeLeaf (s : State) (p : LeafReg × Nat) (v : Nat) : State := { s with dev := s.dev.clearLeaf p.1 (v &&& p.2) }

/-- A write to a mask register (R558). -/
def State.writeMask (s : State) (p : LeafReg × Nat) (v : Nat) : State :=
  { s with dev := { s.dev with masks := s.dev.masks.put 0 p.1.key (v &&& p.2) } }

/-! ## Pieces of 64-bit registers -/

/-- Replaces bits [31:0], or the bits from 32 on, of a value. -/
def setLo (x v : Nat) : Nat := x / 2 ^ 32 * 2 ^ 32 + v
def setHi (x v : Nat) : Nat := x % 2 ^ 32 + v * 2 ^ 32

/-- A write of 1s clears bits of a W1C register (R19): of its lower word, or of its upper word. -/
def clearLo (x v : Nat) : Nat := bitClear x v
def clearHi (x v : Nat) : Nat := bitClear x (v * 2 ^ 32)

/-- A write to word k of a function's MSI-X table entry (R565); a message that pends is sent when the mask bit clears. -/
def Dev.writeMsix (d : Dev) (i k v : Nat) : Dev :=
  if k = 0 then d.updFn i fun f => { f with addr := setLo f.addr v }
  else if k = 1 then d.updFn i fun f => { f with addr := setHi f.addr v }
  else if k = 2 then d.updFn i fun f => { f with data := v }
  else (d.updFn i fun f => { f with masked := v.testBit 0 }).flushMsix i

/-! ## Blocks of PF BAR0 -/

/-- GLB (R278, R440). BASE and LENGTH of a window accept writes only while ENABLE is 0 (R418). -/
def State.writeGlb (s : State) (o v : Nat) : State :=
  if o = 0x330 then { s with dev := { s.dev with glb := { s.dev.glb with logSelect := v % 4096 } } }
  else if 0x400 ≤ o ∧ o < 0x500 then
    { s with dev := { s.dev with glb := { s.dev.glb with
        aperture := s.dev.glb.aperture.put 0 ((o - 0x400) / 4) (v % 1024 + v / 2 ^ 31 * 2 ^ 31) } } }
  else if 0x8000 ≤ o ∧ o < 0xC000 then
    let w := (o - 0x8000) / 16
    if o % 16 = 12 then s.after (if v.testBit 0 then execWindowEnable w v s else execWindowDisable w v s)
    else if (s.dev.window w).enable then s.setLeaf .host 5
    else
      { s with dev := s.dev.updWindow w fun k =>
          if o % 16 = 0 then { k with base := setLo k.base (v / 65536 * 65536) }
          else if o % 16 = 4 then { k with base := setHi k.base (v % 256) }
          else { k with length := v % 2 ^ 24 } }
  else s

/-- ATN (R562, R565). -/
def State.writeAtn (s : State) (o v : Nat) : State :=
  if o = 0x004 then { s with atn := { s.atn with pinMask := v % 4096 } }
  else if o = 0x008 then { s with dev := s.dev.updFn 0 fun f => { f with mask := v % 4096 } }
  else if o = 0x00C then (if v.testBit 0 then s.after (execAtnRearm s) else s)
  else if o = 0x010 then { s with atn := { s.atn with force := v.testBit 1 } }
  else if o = 0x020 then (if v.testBit 31 then { s with dev := s.dev.updFn 0 fun f => { f with first := none } } else s)
  else if 0x8000 ≤ o ∧ o < 0x8010 then { s with dev := s.dev.writeMsix 0 ((o - 0x8000) / 4) v }
  else s

/-- LAY (R82, R590). -/
def State.writeLay (s : State) (o v : Nat) : State :=
  if o = 0x000 then
    (match v % 16 with
      | 0 => s
      | 1 => s.after (execLayLoad s)
      | 2 => s.after (execLayValidate s)
      | 3 => s.after (execLaySwap s)
      | 4 => s.after (execLayDiscard s)
      | _ => s.badLayout)
  else if o = 0x010 then { s with lay := { s.lay with src := setLo s.lay.src (v / 64 * 64) } }
  else if o = 0x014 then { s with lay := { s.lay with src := setHi s.lay.src v } }
  else if o = 0x018 then { s with lay := { s.lay with srcLen := v % 2 ^ 25 } }
  else if o = 0x030 then { s with lay := { s.lay with fencedSeats := clearLo s.lay.fencedSeats v } }
  else if o = 0x034 then { s with lay := { s.lay with fencedSeats := clearHi s.lay.fencedSeats v } }
  else if o = 0x080 then
    (match v / 256 % 4 with
      | 0 => s
      | 1 => s.after (execLayKeyEnroll (v % 4) s)
      | 2 => s.after (execLayKeyClear (v % 4) s)
      | _ => s.badLayout)
  else if 0xC0 ≤ o ∧ o < 0x100 then { s with lay := { s.lay with keyHash := s.lay.keyHash.put 0 ((o - 0xC0) / 4) v } }
  else s

/-- RNG_CTRL or RING_CTRL of ring i (R129, R167, R170): every value of CMD is listed. -/
def State.writeRingCtrl (s : State) (i v : Nat) : State :=
  match v % 4 with
  | 0 => s
  | 1 => s.after (execRingStop i s)
  | 2 => s.after (execRingStart i s)
  | _ => s.after (execRingReset i s)

/-- SEAT_CMD of seat n (R402, R590). -/
def State.writeSeatCmd (s : State) (n v : Nat) : State :=
  match v % 16 with
  | 0 => s
  | 1 => s.after (execSeatSave n (v / 256 % 16) s)
  | 2 => s.after (execSeatRestore n (v / 256 % 16) s)
  | 3 => s.after (execSeatResetContext n (v / 256 % 16) s)
  | 4 => s.after (execSeatReset n s)
  | _ => s.badSeatCmd n

/-- SEG registers of segment i of context x (R379, R380, R410, log 112). -/
def State.writeSeg (s : State) (x i o v : Nat) : State :=
  if !s.dev.ctxExists x then s
  else if o = 0x14 then s.after (if v.testBit 0 then execSegEnable x i v s else execSegDisable x i v s)
  else if 0x14 < o then s
  else if (s.dev.seg x i).enable then s.badSeatCmd (x / 16)
  else
    { s with dev := s.dev.updSeg x i fun g =>
        if o = 0x00 then { g with vbase := setLo g.vbase (v / 65536 * 65536) }
        else if o = 0x04 then { g with vbase := setHi g.vbase (v % 65536) }
        else if o = 0x08 then { g with pbase := setLo g.pbase (v / 65536 * 65536) }
        else if o = 0x0C then { g with pbase := setHi g.pbase (v % 256) }
        else { g with length := v % 2 ^ 21 } }

/-- A memory stack's registers (R368). -/
def State.writeMem (s : State) (x o v : Nat) : State :=
  if o = 0x004 then (if v.testBit 0 then s.after (execMemClearTempMax x s) else s)
  else if o = 0x01C then s.after (execMemSpareBaseWrite x v s)
  else if 0x8000 ≤ o ∧ o < 0x10000 then s.after (execFrameRemapWrite x ((o - 0x8000) / 4) v s)
  else s

/-- QLK (R456, R475 to R477, R590). -/
def State.writeQlk (s : State) (o v : Nat) : State :=
  if o < 0x8000 then
    if o % 0x1000 = 4 then
      (match v % 4 with
        | 0 => s
        | 1 => s.after (execQlkRetrain (o / 0x1000) s)
        | _ => s.setLeaf .qlk 6)
    else s
  else if o = 0x8010 then { s with dev := { s.dev with qlk := { s.dev.qlk with select := v % 1024 } } }
  else if 0x9000 ≤ o ∧ o < 0x9080 then s.after (execQlkExcludeWrite ((o - 0x9000) / 4) v s)
  else if 0x10000 ≤ o ∧ o < 0x11000 then s.after (execQlkRouteWrite ((o - 0x10000) / 4) v s)
  else s

/-- A check-value unit's registers (R493, R514). -/
def State.writeUnit (s : State) (u o v : Nat) : State :=
  let put := fun (f : ChkUnit → ChkUnit) => ({ s with dev := s.dev.updUnit u f } : State)
  if o = 0x00 then s.after (execChkStart u v s)
  else if o = 0x08 then put fun k => { k with addr := setLo k.addr v }
  else if o = 0x0C then put fun k => { k with addr := setHi k.addr (v % 256) }
  else if o = 0x10 then put fun k => { k with len := setLo k.len v }
  else if o = 0x14 then put fun k => { k with len := setHi k.len (v % 256) }
  else if o = 0x18 then put fun k => { k with seed := setLo k.seed v }
  else if o = 0x1C then put fun k => { k with seed := setHi k.seed v }
  else if o = 0x20 then put fun k => { k with seq := v }
  else if o = 0x24 then put fun k => { k with expect := setLo k.expect v }
  else if o = 0x28 then put fun k => { k with expect := setHi k.expect v }
  else if o = 0x2C then s.after (execChkRunningWrite u false v s)
  else if o = 0x30 then s.after (execChkRunningWrite u true v s)
  else s

/-- TST (R503, R516, R590). -/
def State.writeTst (s : State) (o v : Nat) : State :=
  if o = 0x000 then
    (match v % 16 with
      | 0 => s
      | 1 => s.after (execTstLoad s)
      | 2 => s.after (execTstValidate s)
      | 3 => s.after (execTstStart s)
      | 4 => s.after (execTstStop s)
      | 5 => s.after (execTstDiscard s)
      | _ => s.setLeaf .tst 5)
  else if o = 0x010 then { s with tst := { s.tst with src := setLo s.tst.src (v / 64 * 64) } }
  else if o = 0x014 then { s with tst := { s.tst with src := setHi s.tst.src v } }
  else if o = 0x018 then { s with tst := { s.tst with srcLen := v % 2 ^ 25 } }
  else if o = 0x01C then s.after (execTstCtrlWrite v s)
  else if o = 0x03C then { s with tst := { s.tst with fenceSelect := v % 4096 } }
  else s

/-- PWR and CLK (R534, R538, R551). -/
def State.writePwr (s : State) (o v : Nat) : State :=
  if o = 0x004 then (if v.testBit 16 then s.after (execPwrPeakClear s) else s)
  else if o = 0x008 then s.after (execPwrLimitWrite v s)
  else if o = 0x01C then s.resetWrite v
  else if o = 0x4010 then { s with pwr := { s.pwr with clusterSelect := v % 64 } }
  else if o = 0x4018 then s.after (execClkQuarantine v s)
  else s

/-- MGT_SPDM_CTRL (R552): GO submits the request in MGT_SPDM_BUF; while BUSY it is ignored and sets BAD_COMMAND (log 114). -/
def State.writeSpdm (s : State) (v : Nat) : State :=
  let s : State := { s with mgt := { s.mgt with spdmLength := v % 2 ^ 13 } }
  if !v.testBit 31 then s
  else if s.mgt.spdmBusy then s.setLeaf .mgt 5
  else { s with mgt := { s.mgt with spdmBusy := true } }

/-- MGT (R544, R552, R590). -/
def State.writeMgt (s : State) (o v : Nat) : State :=
  if o = 0x020 then
    (match v % 16 with
      | 0 => s
      | 1 => s.after (execFwStage s)
      | 2 => s.after (execFwClear s)
      | _ => s.setLeaf .mgt 5)
  else if o = 0x028 then { s with mgt := { s.mgt with src := setLo s.mgt.src (v / 64 * 64) } }
  else if o = 0x02C then { s with mgt := { s.mgt with src := setHi s.mgt.src v } }
  else if o = 0x030 then { s with mgt := { s.mgt with srcLen := v % 2 ^ 25 } }
  else if o = 0x200 then s.writeSpdm v
  else if 0x1000 ≤ o ∧ o < 0x2000 then
    { s with mgt := { s.mgt with spdmBuf :=
        (leBytes 4 v).zipIdx.foldl (fun (m : SMap Byte) (q : Byte × Nat) => SMap.put 0 m (o - 0x1000 + q.2) q.1) s.mgt.spdmBuf } }
  else s

/-- A 32-bit write to PF BAR0 (R553): registers that are RO, and offsets without a register, do not change (R554). -/
def State.writePf (s : State) (o v : Nat) : State :=
  match leafAt .pf o, maskAt .pf o with
  | some p, _ => s.writeLeaf p v
  | none, some p => s.writeMask p v
  | none, none =>
    if o < 0x10000 then s.writeGlb o v
    else if o < 0x20000 then s.writeAtn (o - 0x10000) v
    else if o < 0x21000 then s.writeLay (o - 0x20000) v
    else if 0x100000 ≤ o ∧ o < 0x140000 then (if o % 64 = 0x34 then s.writeRingCtrl ((o - 0x100000) / 64) v else s)
    else if 0x200000 ≤ o ∧ o < 0x208000 then
      (if o % 0x100 = 0x28 then s.after (execSltRecheckWrite ((o - 0x200000) / 0x100) v s) else s)
    else if 0x300000 ≤ o ∧ o < 0x340000 then (if o % 0x1000 = 4 then s.writeSeatCmd ((o - 0x300000) / 0x1000) v else s)
    else if 0x400000 ≤ o ∧ o < 0x440000 then s.writeSeg ((o - 0x400000) / 0x100) (o % 0x100 / 0x20) (o % 0x20) v
    else if 0x800000 ≤ o ∧ o < 0xE00000 then s.writeMem ((o - 0x800000) / 0x80000) (o % 0x80000) v
    else if 0x1800000 ≤ o ∧ o < 0x1811000 then s.writeQlk (o - 0x1800000) v
    else if 0x1C00000 ≤ o ∧ o < 0x1C01800 then s.writeUnit ((o - 0x1C00000) / 0x100) (o % 0x100) v
    else if 0x1E00000 ≤ o ∧ o < 0x1E01000 then s.writeTst (o - 0x1E00000) v
    else if 0x1F00000 ≤ o ∧ o < 0x1F04020 then s.writePwr (o - 0x1F00000) v
    else if 0x1F80000 ≤ o ∧ o < 0x1F82000 then s.writeMgt (o - 0x1F80000) v
    else s

/-! ## Seat BAR0 -/

/-- A command on the ring of a seat with a local index; with no such ring nothing happens. -/
def State.onRing (s : State) (n k : Nat) (f : Nat → State) : State :=
  match s.dev.ringOf n k with
  | some i => f i
  | none => s

/-- A 32-bit write to the BAR0 of VF n + 1, outside the doorbell page (R557). -/
def State.writeVf (s : State) (n o v : Nat) : State :=
  match leafAt (.vf n) o, maskAt (.vf n) o with
  | some p, _ => s.writeLeaf p v
  | none, some p => s.writeMask p v
  | none, none =>
    if 0x800 ≤ o ∧ o < 0x1000 then
      (if o % 32 = 0 ∧ v.testBit 0 = true then s.onRing n ((o - 0x800) / 32) fun i => s.after (execExcRecordClear i s) else s)
    else if 0x1000 ≤ o ∧ o < 0x1400 then
      (if o % 16 = 0 then s.onRing n ((o - 0x1000) / 16) fun i => s.after (execRingModeWrite i v s)
       else if o % 16 = 4 then s.onRing n ((o - 0x1000) / 16) fun i => s.writeRingCtrl i v else s)
    else if o = 0x1408 then { s with dev := s.dev.updSeat n fun k => { k with notify := clearLo k.notify v } }
    else if o = 0x140C then { s with dev := s.dev.updSeat n fun k => { k with notify := clearHi k.notify v } }
    else if o = 0x1504 then { s with dev := s.dev.updFn (n + 1) fun f => { f with mask := v % 4096 } }
    else if o = 0x1508 then (if v.testBit 0 then s.after (execSeatAtnRearm n s) else s)
    else if o = 0x1510 then (if v.testBit 31 then { s with dev := s.dev.updFn (n + 1) fun f => { f with first := none } } else s)
    else if o = 0x3000 then { s with dev := s.dev.updSeat n fun k => { k with logSelect := v % 64 } }
    else if 0x7000 ≤ o ∧ o < 0x7010 then { s with dev := s.dev.writeMsix (n + 1) ((o - 0x7000) / 4) v }
    else if 0x9000 ≤ o ∧ o < 0xA000 then s.after (execMailboxWrite n (o - 0x9000) (leBytes 4 v) s)
    else s

/-- A doorbell: one 64-bit write, taken as one event (R21, R137, R138). -/
def State.writeDoorbell (s : State) (n o v : Nat) : State :=
  if o % 64 = 0 then s.after (execSubmissionDoorbell n (o / 64) v s)
  else if o % 64 = 8 then s.after (execCompletionDoorbell n (o / 64) v s)
  else s

/-! ## The commands -/

/-- An offset in the doorbell page of a VF (R137). -/
def inDoorbells (fn : Fn) (o : Nat) : Bool :=
  match fn with
  | .pf => false
  | .vf _ => decide (0x8000 ≤ o) && decide (o < 0x9000)

/-- The offset is a doorbell, which a write of another size than 64 bits does not reach (R21, R137). -/
def isDoorbell (fn : Fn) (o : Nat) : Bool := inDoorbells fn o && (o % 64 == 0 || o % 64 == 8)

/-- An access has a size and an alignment that R21 permits (log 113). -/
def accessOk (fn : Fn) (o size : Nat) (isRead : Bool) : Bool :=
  (size == 4 || size == 8) && o % size == 0 && (isRead || size == 8 || !isDoorbell fn o)

/-- An aligned 32-bit write (R19, R555, R557). -/
def State.write32 (s : State) (fn : Fn) (o v : Nat) : State :=
  if !s.reaches fn o then s
  else match fn with
    | .pf => s.writePf o v
    | .vf n => if (s.dev.seat n).state = .unused then s else s.writeVf n o v

/-- REGISTER_WRITE (R19 to R22): a write of 32 or, `wide`, 64 bits; the latter is two accesses, the lower address first, but for a
doorbell. -/
def execRegisterWrite (fn : Fn) (off : Nat) (wide : Bool) (v : Nat) (s : State) : Host.Outcome State Fault Refusal :=
  .next (if !s.present fn then s
    else if !accessOk fn off (if wide then 8 else 4) false then s.setLeaf .host 0
    else if !wide then s.write32 fn off (v % 2 ^ 32)
    else match fn with
      | .vf n =>
        if inDoorbells fn off then s.writeDoorbell n (off - 0x8000) (v % 2 ^ 64)
        else (s.write32 fn off (v % 2 ^ 32)).write32 fn (off + 4) (v / 2 ^ 32 % 2 ^ 32)
      | .pf => (s.write32 fn off (v % 2 ^ 32)).write32 fn (off + 4) (v / 2 ^ 32 % 2 ^ 32))

/-- BAD_ACCESS (R22): an access of another size or alignment has no effect on the device; a read returns 0xFFFF_FFFF; the
bad-access leaf sets (log 119). -/
def execBadAccess (fn : Fn) (off size : Nat) (isRead : Bool) (s : State) : Host.Outcome State Fault Refusal :=
  .next (if !s.present fn || accessOk fn off size isRead then s
    else
      let s := s.setLeaf .host 0
      if isRead then s.emit (.readData (leBytes 4 0xFFFFFFFF) false) else s)

/-- A 32-bit read of an aligned offset (R21, R162): the state it leaves, in which the read of a _LO register has latched its _HI
register, and the value it returns. -/
def State.read32 (s : State) (fn : Fn) (o : Nat) : State × Nat :=
  (if s.reaches fn o && latchesHi fn o then
      { s with dev := { s.dev with latches := s.dev.latches.put 0 (latchKey fn (o + 4)) (s.liveValue fn (o + 4)) } }
    else s, s.readValue fn o)

/-- An aligned 64-bit read (R21): two 32-bit reads, the lower address first, so that it shows a counter and its latched half as
one value. -/
def State.read64 (s : State) (fn : Fn) (o : Nat) : State × Nat :=
  let a := s.read32 fn o
  let b := a.1.read32 fn (o + 4)
  (b.1, a.2 + 2 ^ 32 * b.2)

/-- LATCHING_LO_READ (R162): the read of a _LO register returns it and latches its _HI register (log 120). -/
def execLatchingLoRead (fn : Fn) (off : Nat) (s : State) : Host.Outcome State Fault Refusal :=
  .next (if s.reaches fn off && latchesHi fn off then
      let r := s.read32 fn off
      r.1.emit (.readData (leBytes 4 r.2) false)
    else s)

/-- LEAF_CLEAR (R560): a write to a leaf register. -/
def execLeafClear (fn : Fn) (off v : Nat) (s : State) : Host.Outcome State Fault Refusal :=
  .next (match leafAt fn off with
    | some p =>
      let open_ : Bool := match fn with
        | .pf => s.reaches fn off
        | .vf n => s.reaches fn off && (s.dev.seat n).state != .unused
      if open_ then s.writeLeaf p v else s
    | none => s)

end Sys2Proof.Machine
end

