-- ==== Sys2Proof/Machine/Dispatch.lean ====
section
/-! DEFINITION. Which meaning each command has. -/

namespace Sys2Proof.Machine

/-- The effect of a command on everything but the queue. -/
def exec (i : Instr) (s : State) : Host.Outcome State Fault Refusal :=
  match i with
  | .registerWrite fn off wide v => Sys2Proof.Machine.execRegisterWrite fn off wide v s
  | .badAccess fn off size isRead => Sys2Proof.Machine.execBadAccess fn off size isRead s
  | .latchingLoRead fn off => Sys2Proof.Machine.execLatchingLoRead fn off s
  | .leafClear fn off v => Sys2Proof.Machine.execLeafClear fn off v s
  | .layLoad => Sys2Proof.Machine.execLayLoad s
  | .layoutCopyDone bytes => Sys2Proof.Machine.execLayoutCopyDone bytes s
  | .layValidate => Sys2Proof.Machine.execLayValidate s
  | .layoutValidationDone => Sys2Proof.Machine.execLayoutValidationDone s
  | .laySwap => Sys2Proof.Machine.execLaySwap s
  | .layDiscard => Sys2Proof.Machine.execLayDiscard s
  | .swapPoint => Sys2Proof.Machine.execSwapPoint s
  | .layKeyEnroll slot => Sys2Proof.Machine.execLayKeyEnroll slot s
  | .layKeyClear slot => Sys2Proof.Machine.execLayKeyClear slot s
  | .domainPowerUpDone domain => Sys2Proof.Machine.execDomainPowerUpDone domain s
  | .clusterClockStartDone cluster => Sys2Proof.Machine.execClusterClockStartDone cluster s
  | .submissionDoorbell seat localIx v => Sys2Proof.Machine.execSubmissionDoorbell seat localIx v s
  | .completionDoorbell seat localIx v => Sys2Proof.Machine.execCompletionDoorbell seat localIx v s
  | .mailboxWrite seat off bytes => Sys2Proof.Machine.execMailboxWrite seat off bytes s
  | .fetchRound slot fc parity => Sys2Proof.Machine.execFetchRound slot fc parity s
  | .slotIdle slot => Sys2Proof.Machine.execSlotIdle slot s
  | .staleReread ring fc => Sys2Proof.Machine.execStaleReread ring fc s
  | .slotRecheck slot fc => Sys2Proof.Machine.execSlotRecheck slot fc s
  | .sltRecheckWrite slot v => Sys2Proof.Machine.execSltRecheckWrite slot v s
  | .ringStop ring => Sys2Proof.Machine.execRingStop ring s
  | .ringStart ring => Sys2Proof.Machine.execRingStart ring s
  | .ringReset ring => Sys2Proof.Machine.execRingReset ring s
  | .ringZeroingDone ring => Sys2Proof.Machine.execRingZeroingDone ring s
  | .ringModeWrite ring v => Sys2Proof.Machine.execRingModeWrite ring v s
  | .skippedOperation place => Sys2Proof.Machine.execSkippedOperation place s
  | .operationRetire place fc => Sys2Proof.Machine.execOperationRetire place fc s
  | .completionEntryWrite ring => Sys2Proof.Machine.execCompletionEntryWrite ring s
  | .excRecordClear ring => Sys2Proof.Machine.execExcRecordClear ring s
  | .mark place => Sys2Proof.Machine.execMark place s
  | .wait place => Sys2Proof.Machine.execWait place s
  | .waitSatisfied place => Sys2Proof.Machine.execWaitSatisfied place s
  | .acquireInvalidate place => Sys2Proof.Machine.execAcquireInvalidate place s
  | .acquireBypass place => Sys2Proof.Machine.execAcquireBypass place s
  | .acquireRestore place => Sys2Proof.Machine.execAcquireRestore place s
  | .flush place => Sys2Proof.Machine.execFlush place s
  | .fence place => Sys2Proof.Machine.execFence place s
  | .tileLoad place => Sys2Proof.Machine.execTileLoad place s
  | .tileStore place => Sys2Proof.Machine.execTileStore place s
  | .copy place => Sys2Proof.Machine.execCopy place s
  | .tileArrival route fault scaleFault => Sys2Proof.Machine.execTileArrival route fault scaleFault s
  | .routeCreditReturn route => Sys2Proof.Machine.execRouteCreditReturn route s
  | .gather run => Sys2Proof.Machine.execGather run s
  | .gatherPool run => Sys2Proof.Machine.execGatherPool run s
  | .prefetchRows place => Sys2Proof.Machine.execPrefetchRows place s
  | .prefetchLineLand place => Sys2Proof.Machine.execPrefetchLineLand place s
  | .trickOpen place => Sys2Proof.Machine.execTrickOpen place s
  | .trickAdmit place => Sys2Proof.Machine.execTrickAdmit place s
  | .trickPut place once twice => Sys2Proof.Machine.execTrickPut place once twice s
  | .trickCommit place => Sys2Proof.Machine.execTrickCommit place s
  | .trickAbort place => Sys2Proof.Machine.execTrickAbort place s
  | .trickPrepared trick failed => Sys2Proof.Machine.execTrickPrepared trick failed s
  | .dieEpochAck trick stack => Sys2Proof.Machine.execDieEpochAck trick stack s
  | .settlingStart trick => Sys2Proof.Machine.execSettlingStart trick s
  | .settleDone stack granule => Sys2Proof.Machine.execSettleDone stack granule s
  | .overlaySpaceFreed place => Sys2Proof.Machine.execOverlaySpaceFreed place s
  | .epochPin place => Sys2Proof.Machine.execEpochPin place s
  | .rowMigrateMove place => Sys2Proof.Machine.execRowMigrateMove place s
  | .rowMigrateReplicate place => Sys2Proof.Machine.execRowMigrateReplicate place s
  | .rowMigrateDropReplica place => Sys2Proof.Machine.execRowMigrateDropReplica place s
  | .migrateCommitCheck place => Sys2Proof.Machine.execMigrateCommitCheck place s
  | .matmul place => Sys2Proof.Machine.execMatmul place s
  | .gemv place => Sys2Proof.Machine.execGemv place s
  | .combineBufferSpaceFreed place => Sys2Proof.Machine.execCombineBufferSpaceFreed place s
  | .vector place => Sys2Proof.Machine.execVector place s
  | .reduce place => Sys2Proof.Machine.execReduce place s
  | .quantize place => Sys2Proof.Machine.execQuantize place s
  | .wideningRerun place => Sys2Proof.Machine.execWideningRerun place s
  | .dequantize place => Sys2Proof.Machine.execDequantize place s
  | .summary place => Sys2Proof.Machine.execSummary place s
  | .skipIf place => Sys2Proof.Machine.execSkipIf place s
  | .launchGraphLaunch place => Sys2Proof.Machine.execLaunchGraphLaunch place s
  | .launchGraphPublish place => Sys2Proof.Machine.execLaunchGraphPublish place s
  | .launchGraphRetire place => Sys2Proof.Machine.execLaunchGraphRetire place s
  | .runCmdbuf place => Sys2Proof.Machine.execRunCmdbuf place s
  | .cmdbufTranslated place => Sys2Proof.Machine.execCmdbufTranslated place s
  | .check place => Sys2Proof.Machine.execCheck place s
  | .egress place parity => Sys2Proof.Machine.execEgress place parity s
  | .exchange place => Sys2Proof.Machine.execExchange place s
  | .allToAll place => Sys2Proof.Machine.execAllToAll place s
  | .stepTokenIssue place => Sys2Proof.Machine.execStepTokenIssue place s
  | .stepTokenAwait place => Sys2Proof.Machine.execStepTokenAwait place s
  | .stepTokenRespond place => Sys2Proof.Machine.execStepTokenRespond place s
  | .memoryRequest request upset parity => Sys2Proof.Machine.execMemoryRequest request upset parity s
  | .rowRepairDone stack => Sys2Proof.Machine.execRowRepairDone stack s
  | .zeroFillDone stack frame => Sys2Proof.Machine.execZeroFillDone stack frame s
  | .requestIssue cycles => Sys2Proof.Machine.execRequestIssue cycles s
  | .patrolScrub stack index upset => Sys2Proof.Machine.execPatrolScrub stack index upset s
  | .temperatureSample stack celsius => Sys2Proof.Machine.execTemperatureSample stack celsius s
  | .memClearTempMax stack => Sys2Proof.Machine.execMemClearTempMax stack s
  | .memSpareBaseWrite stack v => Sys2Proof.Machine.execMemSpareBaseWrite stack v s
  | .frameRemapWrite stack entry v => Sys2Proof.Machine.execFrameRemapWrite stack entry v s
  | .frameCopyDone stack entry => Sys2Proof.Machine.execFrameCopyDone stack entry s
  | .segEnable ctx seg v => Sys2Proof.Machine.execSegEnable ctx seg v s
  | .segDisable ctx seg v => Sys2Proof.Machine.execSegDisable ctx seg v s
  | .segDropDone ctx seg => Sys2Proof.Machine.execSegDropDone ctx seg s
  | .seatSave seat ctx => Sys2Proof.Machine.execSeatSave seat ctx s
  | .seatRestore seat ctx => Sys2Proof.Machine.execSeatRestore seat ctx s
  | .seatResetContext seat ctx => Sys2Proof.Machine.execSeatResetContext seat ctx s
  | .seatReset seat => Sys2Proof.Machine.execSeatReset seat s
  | .vfFlr seat => Sys2Proof.Machine.execVfFlr seat s
  | .seatDrained seat => Sys2Proof.Machine.execSeatDrained seat s
  | .scrubDone seat => Sys2Proof.Machine.execScrubDone seat s
  | .sliceExpiry seat => Sys2Proof.Machine.execSliceExpiry seat s
  | .contextQuiescent seat => Sys2Proof.Machine.execContextQuiescent seat s
  | .saveDone seat => Sys2Proof.Machine.execSaveDone seat s
  | .restoreDone seat => Sys2Proof.Machine.execRestoreDone seat s
  | .windowEnable window v => Sys2Proof.Machine.execWindowEnable window v s
  | .windowDisable window v => Sys2Proof.Machine.execWindowDisable window v s
  | .hostClassWrite path addr bytes => Sys2Proof.Machine.execHostClassWrite path addr bytes s
  | .hostClassRead path addr len => Sys2Proof.Machine.execHostClassRead path addr len s
  | .linkTrained speed width flit256 cxl => Sys2Proof.Machine.execLinkTrained speed width flit256 cxl s
  | .decoderCommit hpaBase => Sys2Proof.Machine.execDecoderCommit hpaBase s
  | .vfEnable busMaster => Sys2Proof.Machine.execVfEnable busMaster s
  | .msixEnable fn fnMask unmask => Sys2Proof.Machine.execMsixEnable fn fnMask unmask s
  | .perstAssert => Sys2Proof.Machine.execPerstAssert s
  | .hotReset => Sys2Proof.Machine.execHotReset s
  | .pfFlr => Sys2Proof.Machine.execPfFlr s
  | .dataLinkDown => Sys2Proof.Machine.execDataLinkDown s
  | .linkUp => Sys2Proof.Machine.execLinkUp s
  | .logSlotRead fn slot => Sys2Proof.Machine.execLogSlotRead fn slot s
  | .identifyMemoryDevice => Sys2Proof.Machine.execIdentifyMemoryDevice s
  | .getSupportedLogs => Sys2Proof.Machine.execGetSupportedLogs s
  | .getLog => Sys2Proof.Machine.execGetLog s
  | .getEventRecords => Sys2Proof.Machine.execGetEventRecords s
  | .cdatDoeRequest => Sys2Proof.Machine.execCdatDoeRequest s
  | .cableInsert port => Sys2Proof.Machine.execCableInsert port s
  | .cableRemove port => Sys2Proof.Machine.execCableRemove port s
  | .cableIdentityRead port id => Sys2Proof.Machine.execCableIdentityRead port id s
  | .laneLock port => Sys2Proof.Machine.execLaneLock port s
  | .trainingTimeout port => Sys2Proof.Machine.execTrainingTimeout port s
  | .lockLost port => Sys2Proof.Machine.execLockLost port s
  | .retrainTimeout port => Sys2Proof.Machine.execRetrainTimeout port s
  | .qlkRetrain port => Sys2Proof.Machine.execQlkRetrain port s
  | .cageOvercurrent port => Sys2Proof.Machine.execCageOvercurrent port s
  | .ident port seq cascade module => Sys2Proof.Machine.execIdent port seq cascade module s
  | .nak port ack => Sys2Proof.Machine.execNak port ack s
  | .credit port seq dataCredits controlCredits => Sys2Proof.Machine.execCredit port seq dataCredits controlCredits s
  | .creditReturnTimer port => Sys2Proof.Machine.execCreditReturnTimer port s
  | .exchangeMessage port m => Sys2Proof.Machine.execExchangeMessage port m s
  | .a2aBlock port m => Sys2Proof.Machine.execA2aBlock port m s
  | .token port m => Sys2Proof.Machine.execToken port m s
  | .response port m => Sys2Proof.Machine.execResponse port m s
  | .status port m => Sys2Proof.Machine.execStatus port m s
  | .xack port m => Sys2Proof.Machine.execXack port m s
  | .xnak port m => Sys2Proof.Machine.execXnak port m s
  | .statusTimer => Sys2Proof.Machine.execStatusTimer s
  | .a2aResendTimer => Sys2Proof.Machine.execA2aResendTimer s
  | .qlkRouteWrite module v => Sys2Proof.Machine.execQlkRouteWrite module v s
  | .qlkExcludeWrite word v => Sys2Proof.Machine.execQlkExcludeWrite word v s
  | .coreFault place core => Sys2Proof.Machine.execCoreFault place core s
  | .sramDoubleBitError stack table index => Sys2Proof.Machine.execSramDoubleBitError stack table index s
  | .chkStart unit v => Sys2Proof.Machine.execChkStart unit v s
  | .chkRunningWrite unit hi v => Sys2Proof.Machine.execChkRunningWrite unit hi v s
  | .chkCommandDone unit => Sys2Proof.Machine.execChkCommandDone unit s
  | .tstLoad => Sys2Proof.Machine.execTstLoad s
  | .packCopyDone bytes => Sys2Proof.Machine.execPackCopyDone bytes s
  | .tstValidate => Sys2Proof.Machine.execTstValidate s
  | .packValidationDone => Sys2Proof.Machine.execPackValidationDone s
  | .tstStart => Sys2Proof.Machine.execTstStart s
  | .tstStop => Sys2Proof.Machine.execTstStop s
  | .tstDiscard => Sys2Proof.Machine.execTstDiscard s
  | .tstCtrlWrite v => Sys2Proof.Machine.execTstCtrlWrite v s
  | .testStart core => Sys2Proof.Machine.execTestStart core s
  | .testDone core deviation => Sys2Proof.Machine.execTestDone core deviation s
  | .arbitrationDone core deviation => Sys2Proof.Machine.execArbitrationDone core deviation s
  | .testAbandon cluster => Sys2Proof.Machine.execTestAbandon cluster s
  | .budgetWindow => Sys2Proof.Machine.execBudgetWindow s
  | .powerSample millivolts watts temps => Sys2Proof.Machine.execPowerSample millivolts watts temps s
  | .supplyRecovery => Sys2Proof.Machine.execSupplyRecovery s
  | .pwrLimitWrite v => Sys2Proof.Machine.execPwrLimitWrite v s
  | .pwrPeakClear => Sys2Proof.Machine.execPwrPeakClear s
  | .pwrResetWarm v => Sys2Proof.Machine.execPwrResetWarm v s
  | .pwrResetCold v => Sys2Proof.Machine.execPwrResetCold v s
  | .warmReset => Sys2Proof.Machine.execWarmReset s
  | .coldReset => Sys2Proof.Machine.execColdReset s
  | .overlayRebuildDone => Sys2Proof.Machine.execOverlayRebuildDone s
  | .pwrEnAssert slotId => Sys2Proof.Machine.execPwrEnAssert slotId s
  | .pwrEnDeassert => Sys2Proof.Machine.execPwrEnDeassert s
  | .firmwareBoot => Sys2Proof.Machine.execFirmwareBoot s
  | .selftestDone failed => Sys2Proof.Machine.execSelftestDone failed s
  | .thermalTrip memory celsius => Sys2Proof.Machine.execThermalTrip memory celsius s
  | .clkQuarantine v => Sys2Proof.Machine.execClkQuarantine v s
  | .quarantineApply => Sys2Proof.Machine.execQuarantineApply s
  | .meshClockStop stack => Sys2Proof.Machine.execMeshClockStop stack s
  | .selfRefreshEntry group => Sys2Proof.Machine.execSelfRefreshEntry group s
  | .fwStage => Sys2Proof.Machine.execFwStage s
  | .fwClear => Sys2Proof.Machine.execFwClear s
  | .fwStageCopyDone bytes => Sys2Proof.Machine.execFwStageCopyDone bytes s
  | .fwVerifyDone => Sys2Proof.Machine.execFwVerifyDone s
  | .fwFlashWriteDone ok => Sys2Proof.Machine.execFwFlashWriteDone ok s
  | .pldmRequestUpdate => Sys2Proof.Machine.execPldmRequestUpdate s
  | .pldmPassComponentTable component => Sys2Proof.Machine.execPldmPassComponentTable component s
  | .pldmUpdateComponent component => Sys2Proof.Machine.execPldmUpdateComponent component s
  | .pldmActivateFirmware => Sys2Proof.Machine.execPldmActivateFirmware s
  | .pldmGetStatus => Sys2Proof.Machine.execPldmGetStatus s
  | .pldmCancelUpdate => Sys2Proof.Machine.execPldmCancelUpdate s
  | .pldmPlatformMonitoring => Sys2Proof.Machine.execPldmPlatformMonitoring s
  | .getVersion port => Sys2Proof.Machine.execGetVersion port s
  | .getCapabilities port => Sys2Proof.Machine.execGetCapabilities port s
  | .negotiateAlgorithms port => Sys2Proof.Machine.execNegotiateAlgorithms port s
  | .getDigests port => Sys2Proof.Machine.execGetDigests port s
  | .getCertificate port offset length => Sys2Proof.Machine.execGetCertificate port offset length s
  | .challenge port nonce => Sys2Proof.Machine.execChallenge port nonce s
  | .getMeasurements port nonce index => Sys2Proof.Machine.execGetMeasurements port nonce index s
  | .spdmUnsupportedRequest port code => Sys2Proof.Machine.execSpdmUnsupportedRequest port code s
  | .attentionTick => Sys2Proof.Machine.execAttentionTick s
  | .atnRearm => Sys2Proof.Machine.execAtnRearm s
  | .seatAtnRearm seat => Sys2Proof.Machine.execSeatAtnRearm seat s
  | .jtagTrst low => Sys2Proof.Machine.execJtagTrst low s
  | .jtagBypass => Sys2Proof.Machine.execJtagBypass s
  | .jtagIdcode => Sys2Proof.Machine.execJtagIdcode s
  | .jtagSamplePreload => Sys2Proof.Machine.execJtagSamplePreload s
  | .jtagExtest => Sys2Proof.Machine.execJtagExtest s
  | .jtagClamp => Sys2Proof.Machine.execJtagClamp s
  | .jtagHighz => Sys2Proof.Machine.execJtagHighz s
  | .flitDiscard port crcBad => Sys2Proof.Machine.execFlitDiscard port crcBad s
  | .idle port ack => Sys2Proof.Machine.execIdle port ack s
  | .selfRefreshExit group => Sys2Proof.Machine.execSelfRefreshExit group s
  | .meshClockStart stack => Sys2Proof.Machine.execMeshClockStart stack s
  | .domainPowerDownDone domain => Sys2Proof.Machine.execDomainPowerDownDone domain s

end Sys2Proof.Machine
end

