-- ==== Sys2Proof/Safety.lean ====
section
/-! DEFINITION. What a safe run is, in the terms that claims use: a step that answers a next state, states that steps reach,
and the invariant of the model. -/

namespace Sys2Proof

open Machine

/-- A step from this state answers a next state: it neither faults nor is refused. -/
def Safe (s : State) : Prop := ∃ t, step s = .next t

/-- The states that steps reach from a state. -/
inductive Reaches : State → State → Prop where
  | refl (s : State) : Reaches s s
  | tail {s t u : State} : Reaches s t → step t = .next u → Reaches s u

/-- What every state of the device meets, whatever commands have come (R42, R62, R516, R520, R521, R551): PWR_LIMIT lies in 1,000 to
2,600 W, the governor's level in 0 to 15, BUDGET in 0 to 5; the governor's mean covers at most 100 samples; one of the two image
buffers is the active one; and a shadow image that is VALID, or that waits for its swap point, is one that validation decoded. -/
structure Inv (s : State) : Prop where
  limit : 1000 ≤ s.pwr.limit ∧ s.pwr.limit ≤ 2600
  level : s.pwr.level ≤ 15
  budget : s.tst.budget ≤ 5
  window : s.pwr.samples.length ≤ 100
  buffer : s.lay.activeBuffer ≤ 1
  shadow : s.lay.shadow = .valid ∨ s.lay.shadow = .swapPending → s.lay.staged.isSome = true

/-! ## What resets leave, in the terms of the statements -/

/-- `t` is `s` after D1 to D19 lost power (R519, R539, R540): memory contents, layout buffers, pack and everything the domains hold are
gone; identity memory, flash, the JTAG port and the queue stay. -/
structure AfterPowerLoss (s t : State) : Prop where
  pending : t.pending = s.pending
  mem : t.dev.mem = {}
  layout : t.dev.layout = none
  rings : t.dev.rings = []
  board : t.dev.board = []
  seats : t.dev.seats = []
  cores : t.dev.cores = []
  lay : t.lay = { keys := s.lay.keys }
  tst : t.tst = {}
  mgt : t.mgt.flash = s.mgt.flash ∧ t.mgt.floor = s.mgt.floor
  jtag : t.jtag = s.jtag

/-- `t` is `s` after a cold reset with a PWR_RESET_CAUSE code (R531, R535, R537): power was lost, the slow count restarts at 0, a
firmware update has ended, and the boot ROM runs with PWR_EN and PWR_GOOD asserted. -/
structure AfterColdReset (s t : State) (cause : Nat) : Prop where
  lost : AfterPowerLoss s t
  slow : t.dev.slow = 0
  update : t.mgt = { running := s.mgt.running, flash := s.mgt.flash, floor := s.mgt.floor }
  pwr : t.pwr = { cause := cause, slotId := t.pwr.slotId }
  atn : t.atn = {}

/-! ## What the memory work of an operation leaves -/

/-- The memory work of an operation takes `d` to `e`: memory, leaves, the record of recent leaves, the stream cache, READ_BYTES,
WRITE_BYTES, REMOTE_BYTES and ROWS of contexts, BYTES_GATHERED of slots, and the fault records and tag-reject counts of seats may
change (R162, R378, R385, R408, R411), with the bandwidth buckets and the requests that wait on them (R343), and the count and the place of
parity mismatches (R481); nothing else. -/
structure Machine.Dev.WorkOnly (d e : Dev) : Prop where
  rest : ∃ m l r x s c k g q, e = { d with mem := m, leaves := l, recent := r, ctxs := x, seats := s, cache := c, slots := k, reg := g, chk := q }
  chk : ∃ a b c, e.chk = { d.chk with parity := a, infoUnit := b, infoSeat := c }
  slot : ∀ n, ∃ b, e.slot n = { d.slot n with bytes := b }
  ctx : ∀ y, ∃ r w m n, e.ctx y = { d.ctx y with meter := { (d.ctx y).meter with read := r, write := w, remote := m, rows := n } }
  seat : ∀ n, ∃ r c k s a, e.seat n = { d.seat n with tagRejects := r, faultCtx := c, faultKind := k, faultSeg := s, faultAddr := a }

/-- No die holds a request back, and no atom has symbol errors. -/
def Machine.Dev.Calm (d : Dev) : Prop := d.mem.upsets = [] ∧ ∀ a, d.blocked a = false

/-- Requests of context `x` are admitted at every byte of [pa, pa + n) (R384). -/
def Machine.Dev.Admitted (d : Dev) (x pa n : Nat) : Prop :=
  ∀ b, pa ≤ b → b < pa + n → (d.mem.frame (stackOf b) (frameOf b)).admits (tagOf x) = true

/-- Context `x` may read [a, a + n) (R378, R384). -/
def Machine.Dev.Reads (d : Dev) (x a n : Nat) : Prop := ∃ pa i, d.translate x a n true false = .ok pa i ∧ d.Admitted x pa n

/-- Context `x` may write [a, a + n), and read it where it does not cover whole atoms (R378, R384). -/
def Machine.Dev.Writes (d : Dev) (x a n : Nat) : Prop :=
  ∃ pa i, d.translate x a n (a % 64 != 0 || n % 64 != 0) true = .ok pa i ∧ d.Admitted x pa n

/-- An operation can read [off, off + n) of its operand word `w`: of its payload, or of its memory operand (R149). -/
def Machine.Dev.Feeds (d : Dev) (p : Place) (w off n : Nat) : Prop :=
  (∃ y, p.payload = some y ∧ y.word = w ∧ off + n ≤ y.bytes.length) ∨
    paysFor p.payload w = false ∧ d.Reads p.ctxIx ((p.op.ref w).addr + off) n

/-- The rows of source operand `w` can be read: its tiles have come, or it lies in scratchpads, or memory or the payload gives each row. -/
def Machine.Dev.Supplies (d : Dev) (p : Place) (w : Nat) : Prop :=
  p.inPads w = true ∨ (paysFor p.payload w = false ∧ (p.op.ref w).kind = 1) ∨ d.Calm ∧ ∀ r, r < (p.op.shape w).1 →
    d.Feeds p w (r * rowBytes (p.op.shape w).2.2 (p.op.shape w).2.1) (rowBytes (p.op.shape w).2.2 (p.op.shape w).2.1)

/-- Destination `w` can take `rows` rows of `n` bytes, `stride` bytes apart: a stream, scratchpads, or memory that may be written. -/
def Machine.Dev.Takes (d : Dev) (p : Place) (w rows stride n : Nat) : Prop :=
  (p.op.ref w).kind = 1 ∨ (p.op.ref w).kind = 2 ∨ d.Calm ∧ ∀ r, r < rows → d.Writes p.ctxIx ((p.op.ref w).addr + r * stride) n

/-- Destination `w` can take the operation's packed result. -/
def Machine.Dev.Accepts (d : Dev) (p : Place) (w : Nat) : Prop :=
  d.Takes p w (p.op.shape w).1 (rowBytes (p.op.shape w).2.2 (p.op.shape w).2.1) (rowBytes (p.op.shape w).2.2 (p.op.shape w).2.1)

/-- Row `row` of a table can be read in its slot or its staging record: no SRAM entry that its lookup needs is bad, and the slot's atoms
admit the context of `p` (R184, R482). -/
def Machine.Dev.RowReads (d : Dev) (p : Place) (t : TableRec) (row : Nat) : Prop :=
  d.rowSram (t.place row).stack t.table row = false ∧ ∀ a ∈ t.slotOf row, d.Admitted p.ctxIx (64 * a) 64

/-- Every row of a table and its default row can be read, and no prefetch of a row is in flight (R202). -/
def Machine.Dev.TableReads (d : Dev) (p : Place) (t : TableRec) : Prop :=
  (∀ row, row < t.rows → d.prefetching p.frontEnd t.table row = false ∧ d.RowReads p t row) ∧
    (t.defaultKind = 0 ∨ ∀ k, k < ceilDiv t.rowBytes 64 → d.Admitted p.ctxIx (64 * (t.defaultRow / 64 + k)) 64)

/-- The memory work neither waits nor failed a check, and no payload was too short. -/
def Machine.Mio.done (m : Mio) : Prop := m.waits = false ∧ m.fault = false ∧ m.short = false

/-- The memory work `m` is done; where operand `o` is memory, so is `out`, the work with the writes of the result: the rows can reach it. -/
def Machine.Mio.delivers (m : Mio) (o : Opref) (out : Mio) : Prop := m.done ∧ (o.kind ≠ 1 → o.kind ≠ 2 → out.done)

/-- The memory work with the rows of a result written where its operand `w` is memory (R99). -/
def Machine.Mio.written (m : Mio) (d : Dev) (p : Place) (w : Nat) (x : Mat) : Mio :=
  m.writeMat (d.agent p) (p.op.ref w) (rowBytes x.fmt x.cols) x

/-- The memory work of a gather with its rows written out (R189). -/
def Machine.Gathered.out (r : Gathered) (p : Place) : Mio :=
  (r.work.writeMat p.frontEnd (p.op.ref 1) (rowBytes r.mat.fmt r.mat.cols) r.mat).writeOut p.ctxIx (p.op.ref 1).addr (r.mat.rows * rowBytes r.mat.fmt r.mat.cols)

/-- From a device whose operation in place `p` has done the work `m`, and with the writes of its result the work `out`, the device became `e`
in which the place is `q`: the result `x` has gone to operand word `w`. Its tiles are counted, and each is on a route or waits with the
place, which then shows ROUTE_CREDIT (R88, R92, R162); or the scratchpads of the operation's cores hold its packed rows, and which of the
bytes are poisoned (R352); or its rows are written to memory (R99). The operation is finished with the status that it had, and POISONED
shows poisoned rows (R294). Rings, the layout, the trick tables and every other place stay as they were after the work. -/
structure Machine.Delivered (m : Mio) (p : Place) (w : Nat) (x : Mat) (out : Mio) (e : Dev) (q : Place) : Prop where
  place : e.place p.id = some q
  finished : q.phase = .finished
  status : q.status = p.status
  poisoned : q.flags.poisoned = (p.flags.poisoned || x.anyPoison)
  stream : (p.op.ref w).kind = 1 → ∀ ts, ts = x.tiles (p.op.ref w).addr p.op.seqBase 0 →
    (e.slot p.slot).tiles = ((m.dev.slot p.slot).tiles + ts.length) % 2 ^ 64 ∧
      (∀ t ∈ ts, t ∈ q.unsent ∨ ∃ r ∈ e.routes, ∃ y ∈ r.queue, y.tile = t) ∧ (q.unsent ≠ [] → q.stall = .routeCredit)
  pads : (p.op.ref w).kind = 2 → p.op.opcode ≠ 0x12 → ∀ rs, rs = (List.range x.rows).map x.rowOut → ∀ c ∈ m.dev.opCores p,
    e.padRead c (p.op.ref w).addr (rs.flatMap (·.1)).length = rs.flatMap (·.1) ∧
      e.padBad c (p.op.ref w).addr (rs.flatMap (·.1)).length = rs.flatMap (·.2)
  mem : (p.op.ref w).kind ≠ 1 → (p.op.ref w).kind ≠ 2 → e.mem = out.dev.mem ∧ e.cache = out.dev.cache
  rings : e.rings = m.dev.rings
  layout : e.layout = m.dev.layout
  trk : e.trk = m.dev.trk
  others : ∀ j, j ≠ p.id → e.place j = m.dev.place j

/-! ## The Quinay ports and the cascade -/

/-- Nothing waits to be sent: no operation has an unsent message, and no UP port a queued one. -/
def Machine.Dev.Quiet (d : Dev) : Prop :=
  (∀ q ∈ d.board, q.unsentMsgs = []) ∧ ∀ k < 8, (d.port k).state = .up → (d.port k).outbox = []

/-- No STEP_TOKEN stands in the scoreboard but, perhaps, in place `i`. -/
def Machine.Dev.OnlyToken (d : Dev) (i : Nat) : Prop := ∀ q ∈ d.board, q.op.opcode = 0x62 → q.id = i

/-! ## Core operations -/

/-- A MATMUL or GEMV runs past its combine buffers: none of them fills, or space has been freed (R291). -/
def Machine.Dev.Combines (d : Dev) (p : Place) : Prop := p.combineFreed = true ∨ p.combineHeld = false ∧ d.fullBuffers p = []

/-- A message of the cascade to this module, the next of its pair, is accepted, and the port leaves the device as `e` (R451, R455, R457). -/
def Machine.Dev.Accepted (d : Dev) (p : Nat) (m : QMessage) (e : Dev) : Prop :=
  m.cascade = d.cascade.cascadeId ∧ m.dst = d.cascade.moduleIndex ∧ m.xseq = d.qlk.xrecv.get 0 m.src ∧ e = (d.acceptMessage p m).1

/-- A command enters at an operation whose stream tiles have all come; a MATMUL or GEMV runs past its combine buffers (R89, R291). -/
def Machine.State.Enters (s : State) (c : Instr) (d : Dev) (p : Place) : Prop :=
  p.inputsReady = true ∧
    ((c = .matmul p.id ∧ s.dev.enters p.id (·.opcode == 0x40) = some (d, p) ∨
        c = .gemv p.id ∧ s.dev.enters p.id (·.opcode == 0x41) = some (d, p)) ∧ d.Combines p ∨
      c = .vector p.id ∧ s.dev.enters p.id (·.opcode == 0x48) = some (d, p) ∨
      c = .reduce p.id ∧ s.dev.enters p.id (·.opcode == 0x49) = some (d, p) ∨
      c = .quantize p.id ∧ s.dev.enters p.id (·.opcode == 0x4A) = some (d, p) ∨
      c = .dequantize p.id ∧ s.dev.enters p.id (·.opcode == 0x4B) = some (d, p) ∨
      c = .summary p.id ∧ s.dev.enters p.id (·.opcode == 0x50) = some (d, p))

/-- What an operation's entry keeps of its result: the first offender, unless it had one, and the flags of its elements beside those that it had. -/
structure Machine.Place.Shows (p q : Place) (es : List (List OutElem)) : Prop where
  offender : q.offender = (p.offender <|> offenderOf es)
  invalid : q.flags.invalid = (p.flags.invalid || (flagsOf es).invalid)
  overflow : q.flags.overflow = (p.flags.overflow || (flagsOf es).overflow)
  clip : q.flags.exactClip = (p.flags.exactClip || (flagsOf es).exactClip)

end Sys2Proof
end

