-- ==== Sys2Proof/Certificates/Slice0/Obligations.lean ====
section
/-! DEFINITION. The statements for the provers. Each says what the device does in the terms of the model; a docstring names the
rules of the manual that it formalises, and says where a clause rests on a choice of the model (log numbers are rows of
notes/assumptions). -/

open Sys2Proof Sys2Proof.Machine

/-! ## The queue and the step -/

/-- A step takes the command at the front of the queue and answers what exec answers on the state with the queue's rest; on
an empty queue the block idles (the model's choice, log 1). -/
def Obligations.StepRunsFrontCommand : Prop :=
  (∀ (s : State) (c : Instr) (rest : List Instr), step { s with pending := c :: rest } = exec c { s with pending := rest }) ∧
    ∀ s : State, s.pending = [] → step s = .next s

/-- No command reads or changes the queue of those that wait: what exec answers is the same over every queue, but for the
queue itself. -/
def Obligations.ExecKeepsQueue : Prop :=
  ∀ (c : Instr) (s t : State), exec c s = .next t → t.pending = s.pending

/-- Every command answers a next state in every state. A request whose address names stack 12 to 15 fails its segment check (R31): it
reaches no die and nothing is emitted; the seat of its tag records SEGMENT_FAULT (R385, log 129). -/
def Obligations.EveryCommandAnswers : Prop :=
  (∀ (c : Instr) (s : State), ∃ t, exec c s = .next t) ∧
  (∀ (s : State) (r : MemReq) (u : Upset) (parity : Bool) (tag n : Nat), 12 ≤ r.addr / 2 ^ 36 % 16 → r.source = .tagged tag → n = tag / 16 % 64 →
    ∃ t, exec (.memoryRequest r u parity) s = .next t ∧ (t.dev.leaf (.seat n)).testBit 0 = true ∧ (t.dev.leaf (.vfSeg n)).testBit 0 = true ∧
      t.dev.seat n = { s.dev.seat n with faultCtx := tag % 16, faultKind := 1, faultSeg := 0, faultAddr := r.addr } ∧
      t.dev.mem = s.dev.mem ∧ t.dev.out = s.dev.out ∧ (∀ k, k ≠ n → t.dev.seat k = s.dev.seat k)) ∧
  (∀ (s : State) (r : MemReq) (u : Upset) (parity : Bool), 12 ≤ r.addr / 2 ^ 36 % 16 → r.source = .internal →
    exec (.memoryRequest r u parity) s = .next s)

/-! ## Power, resets and clocks (16) -/

/-- Pins and power: PWR_EN_ASSERT brings up D0 and starts the boot ROM with SLOT_ID sampled and the slow count at 0; PWR_EN_DEASSERT
switches every domain off; a thermal trip (a compute die above 115 °C, a memory stack above 110 °C) switches D1 to D19 off,
asserts THERMTRIP_N and is recorded at the next power-up; a supply fault that has recovered is followed by a cold reset
(R519, R531, R539, R540). -/
def Obligations.PowerPins : Prop :=
  (∀ (s : State) (k : Nat), s.pwr.pwrEn = false →
    ∃ t, exec (.pwrEnAssert k) s = .next t ∧ AfterColdReset s t (if s.pwr.tripLatched then 4 else 2) ∧ t.pwr.slotId = k) ∧
  (∀ s : State, s.pwr.pwrEn = true →
    ∃ t, exec .pwrEnDeassert s = .next t ∧ AfterPowerLoss s t ∧ t.dev.slow = s.dev.slow ∧ t.pwr.boot = .off ∧
      t.pwr.pwrEn = false ∧ t.pwr.good = false ∧ t.pwr.tripPin = false ∧ t.dev.domainOn = 0 ∧ t.atn.pin = false ∧
      t.pwr.tripLatched = (s.pwr.tripPin || s.pwr.tripLatched)) ∧
  (∀ (s : State) (memory : Bool) (celsius : Nat), s.pwr.boot ≠ .off → (if memory then 110 else 115) < celsius →
    ∃ t, exec (.thermalTrip memory celsius) s = .next t ∧ AfterPowerLoss s t ∧ t.dev.slow = s.dev.slow ∧
      t.pwr = { s.pwr with boot := .tripped, tripPin := true } ∧ t.atn = { s.atn with pin := false }) ∧
  (∀ s : State, s.pwr.boot = .supplyFault → s.pwr.pwrEn = true →
    ∃ t, exec .supplyRecovery s = .next t ∧ AfterColdReset s t 3 ∧ t.pwr.slotId = s.pwr.slotId)

/-- The governor at each sample (R521), its counters and leaves (R551), and the supply fault at the tenth sample out of 40 V
to 60 V in a row (R519). The mean is that of the last 100 samples, this one among them; before there are 100,
that of the samples there are (the model's choice, log 52). -/
def Obligations.GovernorFollowsTheTable : Prop :=
  ∀ (s : State) (millivolts watts : Nat) (temps : List Nat), s.pwr.boot ≠ .off →
    ∃ t, exec (.powerSample millivolts watts temps) s = .next t ∧
      t.pwr.samples = (watts :: s.pwr.samples).take 100 ∧
      t.pwr.level =
        (if watts > 3100 then min (s.pwr.level + 4) 15
        else if totalOf t.pwr.samples > s.pwr.limit * t.pwr.samples.length then min (s.pwr.level + 1) 15
        else if ∃ c ∈ temps, c > 105 then min (s.pwr.level + 1) 15
        else if totalOf t.pwr.samples + 100 * t.pwr.samples.length ≤ s.pwr.limit * t.pwr.samples.length ∧ (∀ c ∈ temps, c ≤ 100) ∧ 100 ≤ s.pwr.sinceChange then s.pwr.level - 1
        else s.pwr.level) ∧
      t.pwr.sinceChange = (if t.pwr.level = s.pwr.level then s.pwr.sinceChange + 1 else 0) ∧
      t.pwr.voltage = millivolts / 10 ∧ t.pwr.peak = max s.pwr.peak watts ∧ t.pwr.dieTemp = temps ∧
      t.pwr.limit = s.pwr.limit ∧
      t.pwr.badSamples = (if millivolts < 40000 ∨ 60000 < millivolts then s.pwr.badSamples + 1 else 0) ∧
      t.mgt = s.mgt ∧ t.atn = s.atn ∧ t.jtag = s.jtag ∧ t.pending = s.pending ∧
      (if 10 ≤ t.pwr.badSamples ∧ s.pwr.boot ≠ .supplyFault then
        (s.pwr.boot ≠ .tripped → t.pwr.boot = .supplyFault) ∧ t.pwr.good = false ∧ AfterPowerLoss s t
      else t.pwr.boot = s.pwr.boot ∧ t.pwr.good = s.pwr.good ∧ t.lay = s.lay ∧ t.tst = s.tst ∧
        t.dev = { s.dev with leaves := t.dev.leaves, recent := t.dev.recent } ∧
        ((42000 ≤ millivolts ∧ millivolts ≤ 58000 ∧ (s.pwr.level ≠ 0 ∨ t.pwr.level = 0) ∧ (∀ c ∈ temps, c ≤ 105)) → t.dev = s.dev))

/-- The commands of the PWR block while its registers answer: a limit of 1,000 to 2,600 W is taken, one outside sets the
BAD_COMMAND leaf (R551); PEAK clears; a reset is requested only with KEY 0xA5C3 and TYPE 1 or 2, else BAD_COMMAND sets, and one requested while the flash is written
waits, but a loss of PWR_EN or of the input does not (R534). -/
def Obligations.PowerRegisters : Prop :=
  (∀ (s : State) (v : Nat), s.mgtReady = true → 1000 ≤ v % 4096 → v % 4096 ≤ 2600 →
    exec (.pwrLimitWrite v) s = .next { s with pwr := { s.pwr with limit := v % 4096 } }) ∧
  (∀ (s : State) (v : Nat), s.mgtReady = true → v % 4096 < 1000 ∨ 2600 < v % 4096 →
    exec (.pwrLimitWrite v) s = .next (s.setLeaf .pwr 3)) ∧
  (∀ s : State, s.mgtReady = true → exec .pwrPeakClear s = .next { s with pwr := { s.pwr with peak := 0 } }) ∧
  (∀ (s : State) (v : Nat), s.mgtReady = true → v / 2 ^ 16 = 0xA5C3 → v % 4 = 1 →
    exec (.pwrResetWarm v) s = .next { s with pwr := { s.pwr with requested := some 6 } }) ∧
  (∀ (s : State) (v : Nat), s.mgtReady = true → v / 2 ^ 16 = 0xA5C3 → v % 4 = 2 →
    exec (.pwrResetCold v) s = .next { s with pwr := { s.pwr with requested := some 5 } }) ∧
  (∀ (s : State) (v : Nat), s.mgtReady = true → v / 2 ^ 16 ≠ 0xA5C3 ∨ (v % 4 ≠ 1 ∧ v % 4 ≠ 2) →
    exec (.pwrResetWarm v) s = .next (s.setLeaf .pwr 3) ∧ exec (.pwrResetCold v) s = .next (s.setLeaf .pwr 3)) ∧
  (∀ s : State, s.mgt.state = .writing → exec .coldReset s = .next s ∧ exec .warmReset s = .next s ∧
    (s.pwr.pwrEn = true → ∃ t, exec .pwrEnDeassert s = .next t ∧ t.pwr.boot = .off ∧ t.pwr.good = false) ∧
    (∀ millivolts watts temps, millivolts < 40000 → 9 ≤ s.pwr.badSamples → s.pwr.boot = .ready →
      ∃ t, exec (.powerSample millivolts watts temps) s = .next t ∧ t.pwr.boot = .supplyFault ∧ t.pwr.good = false))

/-- What each reset keeps (R537): after a cold reset memory contents are gone, both layout buffers and the pack are EMPTY, the slow
count restarts at 0, and identity memory and flash stay; after a warm reset memory contents, repair and frame tables, committed
tricks, the fenced set, the metering counters, QLK_ROUTE and QLK_EXCLUDE, MEM_ATN and the slow count stay, and the active
image has become the shadow, LOADED. -/
def Obligations.ResetsKeepWhatTheTableKeeps : Prop :=
  (∀ s : State, s.pwr.requested = some 5 → s.mgt.state ≠ .writing →
    ∃ t, exec .coldReset s = .next t ∧ AfterColdReset s t 5 ∧ t.pwr.slotId = s.pwr.slotId) ∧
  (∀ (s : State) (c : Nat), s.pwr.requested = some c → 6 ≤ c → c ≤ 8 → s.mgt.state ≠ .writing →
    ∃ t, exec .warmReset s = .next t ∧ t.pending = s.pending ∧ t.pwr.boot = .rom ∧ t.pwr.cause = c ∧
      t.dev.mem.cells = s.dev.mem.cells ∧ t.dev.mem.poison = s.dev.mem.poison ∧
      (∀ x, (t.dev.mem.stack x).repair = (s.dev.mem.stack x).repair ∧ (t.dev.mem.stack x).remap = (s.dev.mem.stack x).remap ∧
        (t.dev.mem.stack x).frames = (s.dev.mem.stack x).frames) ∧
      (∀ k ∈ s.dev.trk.tricks, k.state = .committed → ∃ k' ∈ t.dev.trk.tricks, k'.entry = k.entry ∧ k'.state = .committed) ∧
      t.dev.chk.fenced = s.dev.chk.fenced ∧ t.dev.slow = s.dev.slow ∧
      (∀ x, (t.dev.ctx x).meter = (s.dev.ctx x).meter) ∧
      t.dev.qlk.route = s.dev.qlk.route ∧ t.dev.qlk.exclude = s.dev.qlk.exclude ∧
      (∀ x, x < 12 → t.dev.leaf (.mem x) = s.dev.leaf (.mem x)) ∧
      t.dev.layout = none ∧ (s.dev.held = false → t.lay.shadow = .loaded ∧ t.lay.image = s.lay.activeImage) ∧
      (∀ i, t.dev.ring i = {}) ∧ t.dev.board = [] ∧ t.mgt.flash = s.mgt.flash ∧ t.lay.keys = s.lay.keys)

/-- Start-up (R531, R532, R542, R543): the boot ROM runs the image in flash that it verifies and powers D1 and D12 to D19, else the
device enters recovery-HELD, which powers D1, D12 and D16 and trains M0; the self-test fences the cores that failed, the device is HELD and answers, and
SECURITY_FLOOR rises to the running image's version. -/
def Obligations.StartUp : Prop :=
  (∀ (s : State) (i : FwImage), s.pwr.boot = .rom → s.mgt.flash = some i → i.code = 0 → s.mgt.floor ≤ i.security →
    ∃ t, exec .firmwareBoot s = .next t ∧ t.pwr = { s.pwr with boot := .selftest } ∧
      t.dev = { s.dev with domainOn := 0xFF003, mem := t.dev.mem } ∧ t.dev.mem.cells = s.dev.mem.cells ∧
      (∀ x, (t.dev.mem.stack x).selfRefresh = false) ∧
      t.mgt = { s.mgt with running := i } ∧ t.lay = s.lay ∧ t.tst = s.tst ∧ t.atn = s.atn ∧ t.jtag = s.jtag) ∧
  (∀ s : State, s.pwr.boot = .rom → (∀ i, s.mgt.flash = some i → i.code ≠ 0 ∨ i.security < s.mgt.floor) →
    ∃ t, exec .firmwareBoot s = .next t ∧ t.pwr = { s.pwr with boot := .recovery } ∧
      t.dev = { s.dev with domainOn := s.dev.domainOn ||| 0x11002, mem := t.dev.mem } ∧ t.dev.mem.cells = s.dev.mem.cells ∧
      (t.dev.mem.stack 0).selfRefresh = false ∧ (∀ x, x ≠ 0 → t.dev.mem.stack x = s.dev.mem.stack x) ∧ t.mgt = { s.mgt with reason := t.mgt.reason } ∧ t.mgt.reason ≠ 0 ∧
      t.lay = s.lay ∧ t.tst = s.tst ∧ t.atn = s.atn ∧ t.jtag = s.jtag) ∧
  (∀ (s : State) (failed : List Nat), s.pwr.boot = .selftest →
    ∃ t, exec (.selftestDone failed) s = .next t ∧ t.pwr = { s.pwr with boot := .ready } ∧
      (∀ c, c ∈ t.dev.chk.fenced ↔ c ∈ s.dev.chk.fenced ∨ c ∈ failed) ∧
      t.mgt = { s.mgt with selftestDone := true, floor := max s.mgt.floor s.mgt.running.security } ∧
      t.dev.mem = s.dev.mem ∧ t.dev.layout = s.dev.layout ∧ t.lay = s.lay ∧ t.atn = s.atn ∧ t.jtag = s.jtag)

/-- A core quarantine (R538): the core named joins the fenced set at once, and R81 applies to its seat; while that seat has operations in
the scoreboard the quarantine is pending, else it takes effect: the core is zeroed and no test runs on it. A core above 81,919, or one
written while another is pending, sets BAD_COMMAND. -/
def Obligations.Quarantine : Prop :=
  (∀ (s : State) (v : Nat), s.mgtReady = true → v / 2 ^ 31 % 2 = 1 → v % 2 ^ 17 ≤ 81919 → s.dev.chk.pending = none →
    ∃ t, exec (.clkQuarantine v) s = .next t ∧
      t.dev.chk.pending = (if s.dev.coreBusy (v % 2 ^ 17) then some (v % 2 ^ 17) else none) ∧
      (∀ c, c ∈ t.dev.chk.fenced ↔ c ∈ s.dev.chk.fenced ∨ c = v % 2 ^ 17) ∧
      (∀ k, t.dev.core k = if s.dev.coreBusy (v % 2 ^ 17) = false ∧ k = v % 2 ^ 17 then {} else s.dev.core k) ∧
      (s.dev.coreBusy (v % 2 ^ 17) = false → ∀ r ∈ t.tst.running, r.core ≠ v % 2 ^ 17 ∧ r.partner ≠ v % 2 ^ 17) ∧
      t.dev.mem = s.dev.mem ∧ t.pwr = s.pwr ∧ t.tst = { s.tst with running := t.tst.running } ∧
      (∀ n, s.dev.clusterOwner (v % 2 ^ 17 / 64) = some n → (s.dev.seat n).state = .inService →
        (t.dev.seat n).state = .fenced ∧ t.lay.fencedSeats = s.lay.fencedSeats ||| 2 ^ n)) ∧
  (∀ (s : State) (v : Nat), s.mgtReady = true → v / 2 ^ 31 % 2 = 1 → 81919 < v % 2 ^ 17 ∨ s.dev.chk.pending ≠ none →
    exec (.clkQuarantine v) s = .next (s.setLeaf .pwr 3)) ∧
  (∀ (s : State) (c : Nat), s.dev.chk.pending = some c → s.dev.coreBusy c = false →
    ∃ t, exec .quarantineApply s = .next t ∧ t.dev.core c = {} ∧ (∀ k, k ≠ c → t.dev.core k = s.dev.core k) ∧
      t.dev.chk = { s.dev.chk with pending := none } ∧ t.dev = { s.dev with cores := t.dev.cores, chk := t.dev.chk } ∧
      t = { s with dev := t.dev, tst := { s.tst with running := s.tst.running.filter fun r => r.core != c && r.partner != c } }) ∧
  (∀ (s : State) (c : Nat), s.dev.chk.pending = some c → s.dev.coreBusy c = true → exec .quarantineApply s = .next s)

/-- Clocks and domains (R526, R529, R530): with no seat in service a base die stops its mesh clock and a memory group enters
self-refresh; a request wakes either; a cluster's clock start and a domain's change of power end. -/
def Obligations.ClocksAndDomains : Prop :=
  (∀ (s : State) (k : Nat), (∀ n, n < 64 → (s.dev.seat n).state = .unused) → k < 4 →
    exec (.meshClockStop k) s = .next { s with dev := { s.dev with meshStopped := insertAsc k s.dev.meshStopped } }) ∧
  (∀ (s : State) (k : Nat),
    exec (.meshClockStart k) s = .next { s with dev := { s.dev with meshStopped := s.dev.meshStopped.filter (· ≠ k) } }) ∧
  (∀ (s : State) (g : Nat), (∀ n, n < 64 → (s.dev.seat n).state = .unused) → g < 4 →
    ∃ t, exec (.selfRefreshEntry g) s = .next t ∧
      (∀ x, t.dev.mem.stack x =
        if x / 3 = g then { s.dev.mem.stack x with selfRefresh := true } else s.dev.mem.stack x) ∧
      t.dev.mem.cells = s.dev.mem.cells ∧ t = { s with dev := { s.dev with mem := t.dev.mem } }) ∧
  (∀ (s : State) (g : Nat), (∀ x, x / 3 = g → (s.dev.mem.stack x).held = []) →
    ∃ t, exec (.selfRefreshExit g) s = .next t ∧
      (∀ x, t.dev.mem.stack x =
        if x / 3 = g then { s.dev.mem.stack x with selfRefresh := false } else s.dev.mem.stack x) ∧
      t.dev.mem.cells = s.dev.mem.cells ∧ t = { s with dev := { s.dev with mem := t.dev.mem } }) ∧
  (∀ (s : State) (c : Nat),
    exec (.clusterClockStartDone c) s = .next { s with dev := { s.dev with clkStarting := s.dev.clkStarting.filter (· ≠ c) } }) ∧
  (∀ (s : State) (k : Nat), k ∈ s.dev.domainRising →
    ∃ t, exec (.domainPowerUpDone k) s = .next t ∧ t.dev.domainRising = s.dev.domainRising.filter (· ≠ k) ∧
      t.dev.domainOn = s.dev.domainOn ||| 2 ^ k ∧
      (∀ c, t.dev.core c = if halfDomain (c / 64) = k then {} else s.dev.core c) ∧
      t = { s with dev := { s.dev with domainRising := t.dev.domainRising, domainOn := t.dev.domainOn, cores := t.dev.cores, qlk := t.dev.qlk } }) ∧
  (∀ (s : State) (k : Nat), k ∈ s.dev.domainFalling →
    exec (.domainPowerDownDone k) s = .next { s with dev := { s.dev with domainFalling := s.dev.domainFalling.filter (· ≠ k),
                                                                         domainOn := bitClear s.dev.domainOn (2 ^ k) } })

/-! ## JTAG and the attention tree (17, 18) -/

/-- The JTAG port (R577 to R579): while JTAG_TRST_N is low the port is held in Test-Logic-Reset; each instruction is taken while it
is not held and D0 is on; IDCODE holds stepping, 0x4880, 0x617 and 1; EXTEST, CLAMP and HIGHZ act as BYPASS while an image is active. No
instruction changes anything but the port. -/
def Obligations.JtagPort : Prop :=
  (∀ s : State, exec (.jtagTrst true) s = .next { s with jtag := { ir := 0, held := true, dr := 0 } } ∧
    exec (.jtagTrst false) s = .next { s with jtag := { s.jtag with held := false } }) ∧
  (∀ s : State, s.jtag.held = false → s.pwr.boot ≠ .off →
    exec .jtagBypass s = .next { s with jtag := { s.jtag with ir := 1, dr := 0 } } ∧
    (∃ dr, exec .jtagIdcode s = .next { s with jtag := { s.jtag with ir := 2, dr := dr } } ∧ dr / 2 ^ 12 % 2 ^ 16 = 0x4880 ∧
      dr / 2 % 2 ^ 11 = 0x617 ∧ dr % 2 = 1 ∧ dr / 2 ^ 28 = Config.stepping % 16) ∧
    (∃ dr, exec .jtagSamplePreload s = .next { s with jtag := { s.jtag with ir := 3, dr := dr } }) ∧
    (s.dev.layout = none →
      (∃ dr, exec .jtagExtest s = .next { s with jtag := { s.jtag with ir := 4, dr := dr } }) ∧
      exec .jtagClamp s = .next { s with jtag := { s.jtag with ir := 5, dr := 0 } } ∧
      exec .jtagHighz s = .next { s with jtag := { s.jtag with ir := 6, dr := 0 } }) ∧
    (s.dev.layout ≠ none →
      exec .jtagExtest s = exec .jtagBypass s ∧ exec .jtagClamp s = exec .jtagBypass s ∧
        exec .jtagHighz s = exec .jtagBypass s)) ∧
  (∀ s : State, s.jtag.held = true ∨ s.pwr.boot = .off →
    exec .jtagBypass s = .next s ∧ exec .jtagIdcode s = .next s ∧ exec .jtagSamplePreload s = .next s ∧
      exec .jtagExtest s = .next s ∧ exec .jtagClamp s = .next s ∧ exec .jtagHighz s = .next s)

/-- The tree of the physical function in a slow cycle while D0 is on (R528, R558, R561): the slow count rises by one; bit c of a cause
register is set where its leaf register has an unmasked leaf; bit g of ATN_SUMMARY where cause register g is not zero; the pin
follows one slow cycle behind the summary, which in recovery-HELD counts the FIRMWARE group alone (R563). -/
def Obligations.AttentionTree : Prop :=
  ∀ s : State, s.pwr.boot ≠ .off →
    ∃ t, exec .attentionTick s = .next t ∧ t.dev.slow = (s.dev.slow + 1) % 2 ^ 48 ∧
      (∀ x, x < 12 → ((t.atn.causes.get 0 3).testBit x = true ↔
        bitClear (s.dev.leaf (.mem x)) (s.dev.mask (.mem x)) ≠ 0)) ∧
      (∀ n, n < 64 → ((t.atn.causes.get 0 2).testBit n = true ↔
        bitClear (s.dev.leaf (.seat n)) (s.dev.mask (.seat n)) ≠ 0)) ∧
      ((t.atn.causes.get 0 10 = 1 ↔ bitClear (s.dev.leaf .pwr) (s.dev.mask .pwr) ≠ 0)) ∧
      (∀ g, (t.dev.fn 0).summary.testBit g = true ↔ g < 12 ∧ t.atn.causes.get 0 g ≠ 0) ∧
      t.atn.pin = (s.atn.pinNext && s.pwr.boot != .tripped) ∧
      (t.atn.pinNext = true ↔ s.atn.force = true ∨
        bitClear (if s.pwr.boot = .recovery then (t.dev.fn 0).summary &&& 2 ^ 11 else (t.dev.fn 0).summary) s.atn.pinMask ≠ 0) ∧
      t.dev.leaves = s.dev.leaves ∧ t.dev.masks = s.dev.masks ∧ t.dev.rings = s.dev.rings ∧ t.dev.board = s.dev.board ∧
      t.dev.mem = s.dev.mem ∧ t.lay = s.lay ∧ t.tst = s.tst ∧ t.pwr = s.pwr ∧ t.mgt = s.mgt ∧ t.jtag = s.jtag

/-- A function's vector (R564, R565, R568, R569): a REARM with a request that is not masked sends the message of entry 0 at once and
leaves the vector disarmed, or makes it pending while MSI-X Enable is 0, Function Mask is 1 or entry 0 is masked; a REARM with
nothing requested arms it; MSIX_ENABLE with nothing left to hold it sends the pending message. -/
def Obligations.VectorsFireAndPend : Prop :=
  (∀ s : State, s.mgtReady = true → bitClear (s.dev.fn 0).summary (s.dev.fn 0).mask ≠ 0 → (s.dev.fn 0).open_ = true →
    exec .atnRearm s = .next { s with dev := ((s.dev.updFn 0 fun f => { f with armed := false }).emit
      (.msix 0 (s.dev.fn 0).addr (s.dev.fn 0).data)) }) ∧
  (∀ s : State, s.mgtReady = true → bitClear (s.dev.fn 0).summary (s.dev.fn 0).mask ≠ 0 → (s.dev.fn 0).open_ = false →
    exec .atnRearm s = .next { s with dev := s.dev.updFn 0 fun f => { f with armed := false, pending := true } }) ∧
  (∀ s : State, s.mgtReady = true → bitClear (s.dev.fn 0).summary (s.dev.fn 0).mask = 0 →
    exec .atnRearm s = .next { s with dev := s.dev.updFn 0 fun f => { f with armed := true } }) ∧
  (∀ (s : State) (n : Nat), s.ready = true → s.dev.vfOpen n = true →
    bitClear (s.dev.fn (n + 1)).summary (s.dev.fn (n + 1)).mask ≠ 0 → (s.dev.fn (n + 1)).open_ = true →
    exec (.seatAtnRearm n) s = .next { s with dev := ((s.dev.updFn (n + 1) fun f => { f with armed := false }).emit
      (.msix (n + 1) (s.dev.fn (n + 1)).addr (s.dev.fn (n + 1)).data)) }) ∧
  (∀ (s : State) (n : Nat), s.ready = true → s.dev.vfOpen n = true →
    bitClear (s.dev.fn (n + 1)).summary (s.dev.fn (n + 1)).mask = 0 →
    exec (.seatAtnRearm n) s = .next { s with dev := s.dev.updFn (n + 1) fun f => { f with armed := true } }) ∧
  (∀ s : State, s.mgtReady = true → (s.dev.fn 0).pending = true →
    exec (.msixEnable .pf false true) s = .next { s with dev := ((s.dev.updFn 0 fun f =>
      { f with msixEnable := true, fnMask := false, masked := false, pending := false }).emit
      (.msix 0 (s.dev.fn 0).addr (s.dev.fn 0).data)) }) ∧
  (∀ (s : State) (fnMask unmask : Bool), s.mgtReady = true → (s.dev.fn 0).pending = false →
    exec (.msixEnable .pf fnMask unmask) s = .next { s with dev := s.dev.updFn 0 fun f =>
      { f with msixEnable := true, fnMask := fnMask, masked := f.masked && !unmask } }) ∧
  (∀ (s : State) (busMaster : Nat), s.ready = true → s.dev.glb.dlUp = true →
    ∃ t, exec (.vfEnable busMaster) s = .next t ∧ t.dev.glb.vfEnable = true ∧
      (∀ n, n < 64 → (t.dev.fn (n + 1)).busMaster = busMaster.testBit n) ∧ t.dev.fn 0 = s.dev.fn 0 ∧
      t = { s with dev := { s.dev with glb := t.dev.glb, out := t.dev.out } })


/-! ## Firmware (16) -/

/-- The firmware update (R544, R545): STAGE from IDLE, PENDING or FAILED with a shadow buffer that holds nothing to lose empties it and
enters STAGING, with a used one it fails with BUSY (0x0D); STAGE in another state, and CLEAR outside FAILED, set BAD_COMMAND; a
copy, whose bytes stand in the lower 16 MiB of the shadow buffer once M0's die takes them (R356), enters VERIFYING if it has the length
written, and else fails with INCOMPLETE; an accepted image is written to flash; PENDING or, where the
flash reads back different, FAILED with FLASH follows. -/
def Obligations.FirmwareUpdate : Prop :=
  (∀ s : State, s.mgtReady = true → s.mgt.state.stageable = true → s.lay.shadow = .empty ∨ s.lay.shadow = .refused ∨ s.lay.shadow = .retired →
    exec .fwStage s = .next { s with
      lay := { s.lay with shadow := .empty, image := [], staged := none },
      mgt := { s.mgt with pldm := false, written := 0, state := .staging, error := 0, staged := none, stagedLen := 0 } }) ∧
  (∀ s : State, s.mgtReady = true → s.mgt.state.stageable = true →
    s.lay.shadow ≠ .empty → s.lay.shadow ≠ .refused → s.lay.shadow ≠ .retired →
    exec .fwStage s = .next (({ s with mgt := { s.mgt with pldm := false, written := 0, state := .failed, error := 0x0D, staged := none } } : State).setLeaf .mgt 1)) ∧
  (∀ s : State, s.mgtReady = true → s.mgt.state = .failed →
    exec .fwClear s = .next { s with mgt := { s.mgt with state := .idle, error := 0 } }) ∧
  (∀ s : State, s.mgtReady = true →
    (s.mgt.state.stageable = false → exec .fwStage s = .next (s.setLeaf .mgt 5)) ∧
    (s.mgt.state ≠ .failed → exec .fwClear s = .next (s.setLeaf .mgt 5))) ∧
  (∀ (s u : State) (bytes : List Byte), s.mgt.state = .staging → s.mgt.pldm = false →
    (s.dev.rangeBlocked (layoutBuffer (1 - s.lay.activeBuffer)) bytes.length = true → exec (.fwStageCopyDone bytes) s = .next s) ∧
    (s.dev.rangeBlocked (layoutBuffer (1 - s.lay.activeBuffer)) bytes.length = false →
      u = { s with dev := s.dev.writeInternal (layoutBuffer (1 - s.lay.activeBuffer)) (bytes.take (16 * 2 ^ 20)) } →
      exec (.fwStageCopyDone bytes) s = .next
        (if field bytes 0x10 8 = bytes.length ∧ bytes.length = s.mgt.srcLen then
          { u with mgt := { s.mgt with state := .verifying, staged := some (FwImage.ofBytes bytes), stagedLen := bytes.length } }
        else ({ u with mgt := { s.mgt with state := .failed, error := 1, staged := none } } : State).setLeaf .mgt 1))) ∧
  (∀ (s : State) (i : FwImage), s.mgt.state = .verifying → s.mgt.staged = some i → s.mgt.pldm = false →
    exec .fwVerifyDone s = .next
      (if i.code = 0 ∧ s.mgt.floor ≤ i.security then { s with mgt := { s.mgt with state := .writing, flash := none } }
      else ({ s with mgt := { s.mgt with state := .failed, error := if i.code = 0 then 0x0A else i.code, staged := none } }
        : State).setLeaf .mgt 1)) ∧
  (∀ (s : State) (i : FwImage), s.mgt.state = .writing → s.mgt.staged = some i → s.mgt.pldm = false → s.pwr.boot ≠ .recovery →
    exec (.fwFlashWriteDone true) s = .next (({ s with mgt := { s.mgt with state := .pending, error := 0, flash := some i, written := s.mgt.stagedLen } } : State).setLeaf .mgt 0) ∧
    exec (.fwFlashWriteDone false) s = .next ((({ s with mgt := { s.mgt with state := .failed, error := 0x0E, flash := none, staged := none } } : State).setLeaf .mgt 1).setLeaf .mgt 2))

/-- PLDM firmware update and platform monitoring (R546): a session opens unless an update is under way; the component table and the
component are taken in a session for the one component 0x4880; UPDATE_COMPONENT stages as STAGE does, with SOURCE 1; ACTIVATE requests a
warm reset with cause PLDM_ACTIVATE (7); CANCEL ends the session and a staging or verifying PLDM update. The answers' bytes are
PLDM's: `Config.answer` (log 13). -/
def Obligations.PldmCommands : Prop :=
  (∀ s : State, s.mgtReady = true → s.mgt.state.stageable = true →
    exec .pldmRequestUpdate s = .next (({ s with mgt := { s.mgt with session := true } } : State).emit (.response (Config.answer 6 ++ [])))) ∧
  (∀ s : State, s.mgtReady = true → s.mgt.state.stageable = false →
    exec .pldmRequestUpdate s = .next (s.emit (.response (Config.answer 7 ++ [])))) ∧
  (∀ s : State, s.mgtReady = true → s.mgt.session = true →
    exec (.pldmPassComponentTable 0x4880) s = .next (s.emit (.response (Config.answer 8 ++ [])))) ∧
  (∀ s : State, s.mgtReady = true → s.mgt.session = true → s.mgt.state.stageable = true → s.lay.shadowFree = true →
    exec (.pldmUpdateComponent 0x4880) s = .next ((({ s with
      lay := { s.lay with shadow := .empty, image := [], staged := none },
      mgt := { s.mgt with pldm := true, written := 0, state := .staging, error := 0, staged := none, stagedLen := 0 } }
        : State).emit (.response (Config.answer 9 ++ []))).emit (.response (Config.answer 15 ++ [])))) ∧
  (∀ s : State, s.mgtReady = true → s.mgt.session = true → s.mgt.state = .pending →
    exec .pldmActivateFirmware s = .next (({ s with mgt := { s.mgt with session := false }, pwr := { s.pwr with requested := some 7 } } : State).emit (.response (Config.answer 12 ++ [])))) ∧
  (∀ s : State, s.mgtReady = true →
    exec .pldmGetStatus s = .next (s.emit (.response (Config.answer 13 ++ Config.pldmStatus s.mgt.state.code s.mgt.error))) ∧
    exec .pldmPlatformMonitoring s = .next (s.emit (.response (Config.answer 20 ++ Config.pldmMonitor s.readings)))) ∧
  (∀ s : State, s.mgtReady = true → s.mgt.session = true → s.mgt.pldm = true → s.mgt.state = .staging ∨ s.mgt.state = .verifying →
    exec .pldmCancelUpdate s = .next (({ s with mgt := { s.mgt with session := false, state := .idle, staged := none } }
      : State).emit (.response (Config.answer 14 ++ []))))

/-- The SPDM responder on the management port (R547 to R550): the connection is set up request by request, each out of order answered
with ERROR; digests, certificate chain, challenge and measurements are served once algorithms are negotiated, the last two signed
by the alias key over the request's nonce and the response with a fresh nonce of the device, a free value (log 13). Over the
mailbox a response lands in MGT_SPDM_BUF, clears BUSY and sets SPDM_DONE (R552). Block 2 is the running image's digest; block 3 the
active image's, zeros while HELD; block 4 the pack's while it is READY, RUNNING or DONE, else zeros; block 16 + n is absent while seat Sn is
UNUSED (R549, R550). -/
def Obligations.SpdmResponder : Prop :=
  (∀ s : State, s.mgtReady = true →
    exec (.getVersion .mctp) s = .next (({ s with mgt := { s.mgt with mctp := { version := true } } } : State).emit
      (.response (Config.answer 30 ++ []))) ∧
    (s.mgt.mctp.version = true → exec (.getCapabilities .mctp) s = .next (({ s with mgt := { s.mgt with mctp := { s.mgt.mctp with capabilities := true } } } : State).emit (.response (Config.answer 31 ++ [])))) ∧
    (s.mgt.mctp.capabilities = true → exec (.negotiateAlgorithms .mctp) s = .next (({ s with mgt := { s.mgt with mctp := { s.mgt.mctp with algorithms := true } } } : State).emit (.response (Config.answer 32 ++ [])))) ∧
    (∀ code, exec (.spdmUnsupportedRequest .mctp code) s = .next (s.emit (.response (Config.answer 37 ++ leBytes 1 code))))) ∧
  (∀ s : State, s.mgtReady = true → s.mgt.mctp.algorithms = true →
    exec (.getDigests .mctp) s = .next (s.emit (.response (Config.answer 33 ++ Config.sha384
      (Config.certificateChain s.mgt.running.digest s.mgt.running.security)))) ∧
    (∀ offset length, exec (.getCertificate .mctp offset length) s = .next (s.emit (.response (Config.answer 34 ++
      ((Config.certificateChain s.mgt.running.digest s.mgt.running.security).drop offset).take length)))) ∧
    (∀ nonce : List Byte, ∃ body, body = Config.sha384 (Config.certificateChain s.mgt.running.digest s.mgt.running.security) ++
        leBytes 32 (Config.freeNat s.dev.free) ∧
      exec (.challenge .mctp nonce) s = .next (({ s with dev := { s.dev with free := s.dev.free + 1 } } : State).emit
        (.response (Config.answer 35 ++ (body ++ Config.aliasSign s.mgt.running.digest (nonce ++ body)))))) ∧
    (∀ (nonce : List Byte) (i : Nat) (v : List Byte), i ≠ 0 → i ≠ 255 → s.measurement i = some v →
      ∃ body, body = leBytes 1 i ++ leBytes 2 v.length ++ v ++ leBytes 32 (Config.freeNat s.dev.free) ∧
      exec (.getMeasurements .mctp nonce i) s = .next (({ s with dev := { s.dev with free := s.dev.free + 1 } } : State).emit
        (.response (Config.answer 36 ++ (body ++ Config.aliasSign s.mgt.running.digest (nonce ++ body))))))) ∧
  (∀ s : State, s.mgtReady = true → s.mgt.mctp.algorithms = false →
    exec (.getDigests .mctp) s = .next (s.emit (.response (Config.answer 38 ++ [])))) ∧
  (∀ s : State, s.mgtReady = true → s.mgt.spdmBusy = true →
    ∃ t, exec (.getVersion .mailbox) s = .next t ∧ t.mgt.spdmBusy = false ∧ t.mgt.spdmAnswer = min 4096 (Config.answer 30).length ∧
      t.mgt.mailbox = { version := true } ∧ t.mgt.mctp = s.mgt.mctp ∧ t.dev = s.dev.setLeaf .mgt 4) ∧
  (∀ s : State, s.mgtReady = true → s.mgt.spdmBusy = false → exec (.getVersion .mailbox) s = .next s) ∧
  (∀ s : State,
    s.measurement 2 = some s.mgt.running.digest ∧
    (s.dev.layout = none → s.measurement 3 = some (List.replicate 64 0)) ∧
    (∀ l, s.dev.layout = some l → s.measurement 3 = some l.digest) ∧
    (∀ k, s.tst.pack = some k → s.tst.state = .ready ∨ s.tst.state = .running ∨ s.tst.state = .done →
      s.measurement 4 = some k.digest) ∧
    (s.tst.state ≠ .ready → s.tst.state ≠ .running → s.tst.state ≠ .done → s.measurement 4 = some (List.replicate 64 0)) ∧
    (∀ n, n < 64 → (s.dev.seat n).state = .unused → s.measurement (16 + n) = none) ∧
    (∀ n l, n < 64 → s.dev.layout = some l → (s.dev.seat n).state ≠ .unused → s.measurement (16 + n) = some (sha512 (s.seatMeasured l n))))

/-- The CXL memory-device commands and the CDAT request are answered while the device answers on its link (R412); a read of the
first 4 bytes of a completion-log slot latches the entry of the ring selected and returns its first word (R439). -/
def Obligations.LinkQueries : Prop :=
  (∀ s : State, s.ready = true → s.dev.glb.dlUp = true →
    exec .identifyMemoryDevice s = .next (s.emit (.response (Config.answer 1))) ∧
    exec .getSupportedLogs s = .next (s.emit (.response (Config.answer 2))) ∧
    exec .getLog s = .next (s.emit (.response (Config.answer 3))) ∧
    exec .getEventRecords s = .next (s.emit (.response (Config.answer 4))) ∧
    exec .cdatDoeRequest s = .next (s.emit (.response (Config.answer 5)))) ∧
  (∀ (s : State) (slot : Nat), s.ready = true → s.dev.logLost (some s.dev.glb.logSelect) slot = false →
    ∃ e : List Byte, e = ((s.dev.ring s.dev.glb.logSelect).log.get [] slot).take 32 ++
        List.replicate (32 - ((s.dev.ring s.dev.glb.logSelect).log.get [] slot).length) 0 ∧
      exec (.logSlotRead .pf slot) s = .next ({ s with dev := { s.dev with glb := { s.dev.glb with logLatch := some (slot, e) } } }
        |>.emit (.readData (e.take 4) false))) ∧
  (∀ (s : State) (n slot ring : Nat), s.ready = true → s.dev.vfOpen n = true → s.dev.ringOf n (s.dev.seat n).logSelect = some ring →
    s.dev.logLost (some ring) slot = false →
    ∃ e : List Byte, e = ((s.dev.ring ring).log.get [] slot).take 32 ++
        List.replicate (32 - ((s.dev.ring ring).log.get [] slot).length) 0 ∧
      exec (.logSlotRead (.vf n) slot) s = .next ({ s with dev := (s.dev.updSeat n fun k => { k with logLatch := some (slot, e) }) }
        |>.emit (.readData (e.take 4) false)))


/-! ## Sage packs (15) -/

/-- The commands of the pack (R502 to R504, R507, R516): each state's row of R503, BAD_COMMAND where a command has none; a copy stands
in the pack area once M0's die takes it (R356), and one whose length differs is refused INCOMPLETE (code 1, leaf REFUSED); validation answers READY with the pack, or REFUSED with its code; a
BUDGET above 5 is ignored while REPEAT is taken (log 77); a window of the budget begins anew. -/
def Obligations.PackCommands : Prop :=
  (∀ s : State, s.ready = true →
    (s.tst.state = .empty ∨ s.tst.state = .loaded ∨ s.tst.state = .ready ∨ s.tst.state = .done ∨ s.tst.state = .refused →
      exec .tstLoad s = .next { s with tst := { s.tst with state := .loading, image := [], pack := none } }) ∧
    (s.tst.state = .loading ∨ s.tst.state = .validating ∨ s.tst.state = .running → exec .tstLoad s = .next (s.setLeaf .tst 5)) ∧
    (s.tst.state = .loaded → exec .tstValidate s = .next { s with tst := { s.tst with state := .validating } }) ∧
    (s.tst.state ≠ .loaded → exec .tstValidate s = .next (s.setLeaf .tst 5)) ∧
    (s.tst.state = .ready ∨ s.tst.state = .done →
      exec .tstStart s = .next { s with tst := { s.tst with state := .running, covered := [], passed := [], running := [] } }) ∧
    (s.tst.state ≠ .ready → s.tst.state ≠ .done → exec .tstStart s = .next (s.setLeaf .tst 5)) ∧
    (s.tst.state = .running → s.tst.running = [] → exec .tstStop s = .next { s with tst := { s.tst with state := .ready } }) ∧
    (s.tst.state ≠ .running → exec .tstStop s = .next (s.setLeaf .tst 5)) ∧
    (s.tst.state ≠ .loading → s.tst.state ≠ .running →
      exec .tstDiscard s = .next { s with tst := { s.tst with state := .empty, image := [], pack := none } }) ∧
    (s.tst.state = .loading ∨ s.tst.state = .running → exec .tstDiscard s = .next (s.setLeaf .tst 5)) ∧
    (∀ v, exec (.tstCtrlWrite v) s = .next { s with tst := { s.tst with repeat_ := v.testBit 0, budget := if v / 2 ^ 8 % 8 ≤ 5 then v / 2 ^ 8 % 8 else s.tst.budget } })) ∧
  (∀ (s u : State) (bytes : List Byte), s.tst.state = .loading →
    (s.dev.rangeBlocked packBuffer bytes.length = true → exec (.packCopyDone bytes) s = .next s) ∧
    (s.dev.rangeBlocked packBuffer bytes.length = false → u = { s with dev := s.dev.writeInternal packBuffer (bytes.take (16 * 2 ^ 20)) } →
      exec (.packCopyDone bytes) s = .next (if bytes.length = s.tst.srcLen ∧ field bytes 0x10 8 = bytes.length then
          { u with tst := { s.tst with state := .loaded, image := bytes } }
        else ({ u with tst := { s.tst with state := .refused, code := 1, section_ := 0, entry := 0, pack := none } } : State).setLeaf .tst 0))) ∧
  (∀ s : State, s.tst.state = .validating →
    (∀ c x e, validatePack s.lay.keys s.mgt.running.version s.mgt.running.arithRev s.tst.image = some (c, x, e) →
      exec .packValidationDone s = .next
        (({ s with tst := { s.tst with state := .refused, code := c, section_ := x, entry := e, pack := none } } : State).setLeaf .tst 0)) ∧
    (validatePack s.lay.keys s.mgt.running.version s.mgt.running.arithRev s.tst.image = none →
      exec .packValidationDone s = .next
        { s with tst := { s.tst with state := .ready, pack := some (Pack.ofBytes s.tst.image), code := 0, section_ := 0, entry := 0 } })) ∧
  (∀ s : State, exec .budgetWindow s = .next { s with tst := { s.tst with used := [] } })

/-- A test of a pass (R506 to R511). It starts on a core and its partner when the cluster is eligible, the core comes next in the pass and the
budget holds it. Equal results that meet EXPECTED count for the core and change no counter and no fence; a difference starts the
repeat, unread; one that repeats without EXPECT counts a mismatch and waits for arbitration; the arbiter's result fences
the core that differs from it. A cluster that its seat needs abandons its tests, and no outcome of one counts then (R508). -/
def Obligations.TestOutcomes : Prop :=
  (∀ (s : State) (core q i : Nat) (p : Pack), s.tst.state = .running → s.mayTest core = true → s.inTurn core = true →
    s.tst.pack = some p → s.dev.partner core = some q → (s.tst.todo core).head? = some i →
    ∃ t, exec (.testStart core) s = .next t ∧ t.tst.running = s.tst.running ++ [{ core := core, partner := q, test := i }] ∧
      t = { s with tst := { s.tst with running := t.tst.running, used := t.tst.used } }) ∧
  (∀ (s : State) (p : Pack) (r : Running) (x : Test), s.tst.pack = some p →
    s.tst.running.find? (fun q => q.core == r.core && !q.arbitrating) = some r → p.tests[r.test]? = some x → r.tries = 0 → s.needs (r.core / 64) = false →
    (x.expect = true → (p.result s.dev r.core x).1 = x.expected) →
    ∃ t, exec (.testDone r.core ⟨0, 0, 0, 0⟩) s = .next t ∧
      (∀ k ∈ t.tst.running, ¬ (k.core = r.core ∧ k.test = r.test)) ∧
      ((r.core, r.test) ∈ t.tst.passed ∨ t.tst.passes = satInc32 s.tst.passes 1) ∧
      t.tst.transients = s.tst.transients ∧ t.tst.mismatches = s.tst.mismatches ∧ t.dev.chk = s.dev.chk ∧
      t.dev = { s.dev with leaves := t.dev.leaves, recent := t.dev.recent } ∧ t = { s with dev := t.dev, tst := t.tst }) ∧
  (∀ (s : State) (p : Pack) (r : Running) (x : Test) (v : TestDeviation), s.tst.pack = some p →
    s.tst.running.find? (fun q => q.core == r.core && !q.arbitrating) = some r → p.tests[r.test]? = some x → x.expect = false →
    v.flagsA ≠ v.flagsB → s.needs (r.core / 64) = false →
    (r.tries = 0 → ∃ t, exec (.testDone r.core v) s = .next t ∧
      t.tst.running = s.tst.running.map (fun k => if k.core = r.core ∧ k.test = r.test then { r with tries := 1, missA := false, missB := false } else k) ∧
      t = { s with tst := { s.tst with running := t.tst.running, used := t.tst.used } }) ∧
    (r.tries ≠ 0 → ∃ t, exec (.testDone r.core v) s = .next t ∧
      t.tst.running = s.tst.running.map (fun k => if k.core = r.core ∧ k.test = r.test then { r with arbitrating := true } else k) ∧
      t = { s with tst := { s.tst with running := t.tst.running, used := t.tst.used, mismatches := satInc32 s.tst.mismatches 1 } })) ∧
  (∀ (s : State) (p : Pack) (r : Running) (x : Test) (a : Nat) (v : TestDeviation), s.tst.pack = some p →
    s.tst.running.find? (fun q => q.core == r.core && q.arbitrating) = some r → p.tests[r.test]? = some x → s.arbiter r = some a →
    v.flagsA ≠ 0 → v.valueB = 0 → v.flagsB = 0 → s.needs (r.core / 64) = false →
    ∃ t, exec (.arbitrationDone r.core v) s = .next t ∧
      (∀ c, c ∈ t.dev.chk.fenced ↔ c ∈ s.dev.chk.fenced ∨ c = r.core) ∧ t.tst.fenceLast = some r.core ∧
      (t.dev.leaf .tst).testBit 3 = true ∧ t.dev.core r.core = {} ∧ t.dev.mem = s.dev.mem ∧ t.mgt = s.mgt ∧ t.pwr = s.pwr) ∧
  (∀ (s : State) (cluster : Nat) (c : Instr) (v : TestDeviation), s.needs cluster = true →
    c = .testAbandon cluster ∨ (∃ x, x / 64 = cluster ∧ (c = .testDone x v ∨ c = .arbitrationDone x v)) → ∃ t, exec c s = .next t ∧
      t.tst = { s.tst with running := s.tst.running.filter fun r => !(r.core / 64 == cluster) } ∧
      t = { s with dev := { s.dev with cores := t.dev.cores }, tst := t.tst } ∧
      (∀ c, (∀ r ∈ s.tst.running, r.core / 64 = cluster → r.core ≠ c ∧ r.partner ≠ c) → t.dev.core c = s.dev.core c))

/-! ## Check-value units and integrity events (15) -/

/-- The driver commands of a check-value unit (R490, R493, R514): CHK_CTRL is taken and START begins a command; while one runs, START
and writes of RUNNING set BAD_COMMAND; a command that ends shows its check value over the stored bytes of its range, MATCH and the
MISMATCH leaf. -/
def Obligations.CheckUnits : Prop :=
  (∀ (s : State) (u v : Nat), s.ready = true → u < 24 → (s.dev.unit u).busy = false → v.testBit 8 = true →
    exec (.chkStart u v) s = .next { s with dev := s.dev.updUnit u fun k =>
      { k with selector := v % 4, fold := v.testBit 2, compare := v.testBit 3, init := v.testBit 4, busy := true, done := false, matched := false, poisoned := false } }) ∧
  (∀ (s : State) (u v : Nat), s.ready = true → u < 24 → (s.dev.unit u).busy = true →
    (v.testBit 8 = true → exec (.chkStart u v) s = .next { s with dev := s.dev.integrity 8 u none }) ∧
    ∀ hi, exec (.chkRunningWrite u hi v) s = .next { s with dev := s.dev.integrity 8 u none }) ∧
  (∀ (s : State) (u v : Nat), s.ready = true → u < 24 → (s.dev.unit u).busy = false →
    exec (.chkRunningWrite u false v) s = .next { s with dev := s.dev.updUnit u fun k =>
      { k with running := k.running / 2 ^ 32 * 2 ^ 32 + v % 2 ^ 32 } } ∧
    exec (.chkRunningWrite u true v) s = .next { s with dev := s.dev.updUnit u fun k =>
      { k with running := k.running % 2 ^ 32 + v % 2 ^ 32 * 2 ^ 32 } }) ∧
  (∀ (s : State) (u : Nat) (bytes : List Byte), (s.dev.unit u).busy = true →
    s.dev.rangeBlocked (s.dev.unit u).addr (s.dev.unit u).len = false →
    (s.dev.physBytes (s.dev.unit u).addr (s.dev.unit u).len).2.1 = bytes →
    ∃ t start, exec (.chkCommandDone u) s = .next t ∧
      start = (if (s.dev.unit u).init then (crcKind (s.dev.unit u).selector).init (s.dev.unit u).seed
          (if (s.dev.unit u).fold then foldOf ((s.dev.unit u).addr / 64) (s.dev.unit u).seq else 0)
        else (s.dev.unit u).running % 2 ^ (crcKind (s.dev.unit u).selector).width) ∧
      (t.dev.unit u).running = (crcKind (s.dev.unit u).selector).run start bytes ∧
      (t.dev.unit u).result = (t.dev.unit u).running ^^^ (crcKind (s.dev.unit u).selector).final ∧
      (t.dev.unit u).busy = false ∧ (t.dev.unit u).done = true ∧
      ((t.dev.unit u).matched = true ↔ (t.dev.unit u).result = (t.dev.unit u).expect) ∧
      ((s.dev.unit u).compare = true → (t.dev.unit u).result ≠ (s.dev.unit u).expect → (t.dev.leaf .chk).testBit 6 = true) ∧
      t = { s with dev := t.dev })

/-- Integrity events: a core's first fault in an operation starts a recovery re-run, its second poisons the output and sets
RERUN_FAILED (R484 to R487); each makes the core suspect and counts. A double-bit error of an SRAM table entry is kept with its leaf
until a warm reset (R482). -/
def Obligations.IntegrityEvents : Prop :=
  (∀ (s : State) (place core : Nat) (p : Place), s.dev.place place = some p → p.phase = .running → p.bad = false → p.skipped = false →
    isCoreOp p.op.opcode = true → core ∈ s.dev.opCores p → core ∉ s.dev.chk.fenced →
    ∃ t, exec (.coreFault place core) s = .next t ∧ t = { s with dev := t.dev } ∧
      t.dev.chk.faultCore = core ∧ t.dev.chk.coreFaults = satInc32 s.dev.chk.coreFaults 1 ∧ t.dev.chk.suspect = some core ∧
      (t.dev.leaf .chk).testBit 1 = true ∧ t.dev.mem = s.dev.mem ∧ t.dev.chk.fenced = s.dev.chk.fenced ∧
      (core ∉ p.reruns → t.dev.chk.reruns = satInc32 s.dev.chk.reruns 1 ∧
        t.dev.board = s.dev.board.map fun q => if q.id = p.id then
          { q with reruns := q.reruns ++ [core], excursions := q.excursions.or { rerun := true } } else q) ∧
      (core ∈ p.reruns → (t.dev.leaf .chk).testBit 2 = true ∧ t.dev.chk.reruns = s.dev.chk.reruns ∧
        t.dev.board = s.dev.board.map fun q => if q.id = p.id then
          { q with failed := q.failed ++ [(core, s.dev.free)], flags := q.flags.or { poisoned := true } } else q)) ∧
  (∀ (s : State) (stack index : Nat) (table : SramTable), stack < 12 →
    ∃ t, exec (.sramDoubleBitError stack table index) s = .next t ∧ (table, index) ∈ (t.dev.mem.stack stack).sramBad ∧
      (∀ e ∈ (s.dev.mem.stack stack).sramBad, e ∈ (t.dev.mem.stack stack).sramBad) ∧ (t.dev.leaf .chk).testBit 7 = true ∧
      t.dev.mem.cells = s.dev.mem.cells ∧ t.dev.chk = { s.dev.chk with infoUnit := stack, infoSeat := none } ∧
      (∀ x, x ≠ stack → t.dev.mem.stack x = s.dev.mem.stack x) ∧ t = { s with dev := t.dev })


/-! ## Memory base dies (10, 11) -/

/-- A request at a memory base die that nothing holds (R339, R350, R351, R384 to R386), its atom free of symbol errors and no parity mismatch
on its way: a write that passes
the tag check stores its bytes where its address goes and nothing else; a read delivers them, poisoned if the atom is
stored poison; a write into a ZERO_PENDING frame starts the zero fill and waits for it; a read of such a frame gives zeros;
one that fails the tag check touches no memory, a read delivering a poisoned atom. A request that something holds waits. -/
def Obligations.MemoryRequests : Prop :=
  ∀ (s : State) (r : MemReq) (u : Upset), r.addr / 2 ^ 36 % 16 < 12 → u.symbols = [] →
    (s.dev.blocked r.addr = false → s.dev.admits r.source r.addr = true →
      (s.dev.mem.frame (stackOf r.addr) (frameOf r.addr)).zero = false → s.dev.mem.upsets.get [] (s.dev.mem.locate r.addr / 64) = [] →
      (∀ bs, r.write = some bs → r.addr % 64 + bs.length ≤ 64 →
        ∃ t, exec (.memoryRequest r u false) s = .next t ∧ t = { s with dev := { s.dev with mem := t.dev.mem } } ∧
          (∀ i (h : i < bs.length), t.dev.mem.byte (r.addr + i) = bs[i]) ∧
          (∀ b, (∀ i, i < bs.length → s.dev.mem.locate b ≠ s.dev.mem.locate (r.addr + i)) → t.dev.mem.byte b = s.dev.mem.byte b) ∧
          (bs.length = 64 → t.dev.mem.isPoison r.addr = false)) ∧
      (r.write = none → s.dev.mem.isPoison r.addr = false →
        exec (.memoryRequest r u false) s =
          .next { s with dev := s.dev.emit (.readData (s.dev.mem.bytes (r.addr / 64 * 64) 64) false) }) ∧
      (r.write = none → s.dev.mem.isPoison r.addr = true →
        ∃ t, exec (.memoryRequest r u false) s = .next t ∧ t.dev.mem.cells = s.dev.mem.cells ∧
          t.dev.out = s.dev.out ++ [.readData (s.dev.mem.bytes (r.addr / 64 * 64) 64) true] ∧
          (t.dev.mem.stack (stackOf r.addr)).poisonReads = satInc32 (s.dev.mem.stack (stackOf r.addr)).poisonReads 1)) ∧
    (s.dev.blocked r.addr = false → s.dev.admits r.source r.addr = true →
      (s.dev.mem.frame (stackOf r.addr) (frameOf r.addr)).zero = true →
      (r.write = none → exec (.memoryRequest r u false) s =
        .next { s with dev := s.dev.emit (.readData (List.replicate 64 0) false) }) ∧
      (r.write ≠ none → ∃ t, exec (.memoryRequest r u false) s = .next t ∧
        (t.dev.mem.stack (stackOf r.addr)).held = (s.dev.mem.stack (stackOf r.addr)).held ++ [⟨r, false, u.again, false⟩] ∧
        frameOf r.addr ∈ (t.dev.mem.stack (stackOf r.addr)).filling ∧ t.dev.mem.cells = s.dev.mem.cells ∧
        t = { s with dev := { s.dev with mem := t.dev.mem } })) ∧
    (∀ tag, s.dev.blocked r.addr = false → r.source = .tagged tag → tag < 2 ^ 16 → s.dev.admits r.source r.addr = false →
      ∃ t, exec (.memoryRequest r u false) s = .next t ∧ t.dev.mem = s.dev.mem ∧
        t.dev.out = s.dev.out ++ (if r.write = none then [.readData (List.replicate 64 0) true] else []) ∧
        (t.dev.seat (tagSeat tag)).tagRejects = satInc32 (s.dev.seat (tagSeat tag)).tagRejects 1 ∧
        (t.dev.leaf (.seat (tagSeat tag))).testBit 1 = true) ∧
    (s.dev.blocked r.addr = true → ∃ t, exec (.memoryRequest r u false) s = .next t ∧
      (t.dev.mem.stack (stackOf r.addr)).held = (s.dev.mem.stack (stackOf r.addr)).held ++ [⟨r, false, u.again, false⟩] ∧
      t.dev.mem.cells = s.dev.mem.cells ∧ t = { s with dev := { s.dev with mem := t.dev.mem } })

/-- The bytes of memory keep their canonical form, so that equal memories are equal data, under every command of a memory base
die. -/
def Obligations.MemoryStaysCanonical : Prop :=
  ∀ (c : Instr) (s t : State),
    ((∃ r u p, c = .memoryRequest r u p) ∨ (∃ k, c = .rowRepairDone k) ∨ (∃ k f, c = .zeroFillDone k f) ∨
      (∃ k i u, c = .patrolScrub k i u) ∨ (∃ k x, c = .temperatureSample k x) ∨ (∃ g, c = .selfRefreshExit g) ∨
      (∃ k e, c = .frameCopyDone k e)) →
    s.dev.mem.wf = true → exec c s = .next t → t.dev.mem.wf = true

/-- Repairs, fills and copies that end at a die (R360, R365, R366, R386): the row is in its spare, with fresh check symbols, and the repair
counted; the frame holds zeros and is no longer ZERO_PENDING; every byte of a copied frame without symbol errors reads as before, now from
its spare frame. What the die held is then served in order. -/
def Obligations.DieWorkEnds : Prop :=
  (∀ (s : State) (k c spare : Nat) (rest : List (Nat × Nat)), k < 12 → c < 2 ^ 26 → (s.dev.mem.stack k).repairing = (c, spare) :: rest →
    ∃ d : Dev, exec (.rowRepairDone k) s = .next { s with dev := d.release k } ∧
      (∀ i, i < 16 → d.mem.upsets.get [] (k * 2 ^ 30 + c * 16 + i) = []) ∧
      ((∀ i, i < 16 → s.dev.mem.upsets.get [] (k * 2 ^ 30 + c * 16 + i) = []) →
        d.mem.cells = s.dev.mem.cells ∧ d.mem.poison = s.dev.mem.poison) ∧
      (d.mem.stack k).repairing = rest ∧ SMap.find (d.mem.stack k).repair c = some spare ∧
      (d.mem.stack k).repairs = min ((s.dev.mem.stack k).repairs + 1) 0xFFFF ∧ (d.mem.stack k).held = (s.dev.mem.stack k).held ∧
      (d.leaf (.mem k)).testBit 2 = true ∧ (∀ x, x ≠ k → d.mem.stack x = s.dev.mem.stack x)) ∧
  (∀ (s : State) (k f : Nat), k < 12 → f < 2 ^ 20 → f ∈ (s.dev.mem.stack k).filling →
    ∃ d : Dev, exec (.zeroFillDone k f) s = .next { s with dev := d.release k } ∧
      (∀ i, i < 65536 → d.mem.byte (frameAddr k f + i) = 0) ∧
      (∀ b, b < 2 ^ 40 → b / 65536 ≠ s.dev.mem.locate (frameAddr k f) / 65536 → d.mem.rawByte b = s.dev.mem.rawByte b) ∧
      (d.mem.frame k f).zero = false ∧ f ∉ (d.mem.stack k).filling ∧ (d.mem.stack k).held = (s.dev.mem.stack k).held ∧
      d = { s.dev with mem := d.mem }) ∧
  (∀ (s : State) (k e f : Nat), k < 12 → f < 2 ^ 20 → s.dev.mem.spareBase k + e < 2 ^ 20 →
    (s.dev.mem.stack k).remap.get {} e = ⟨f, .copy⟩ →
    ∃ d : Dev, exec (.frameCopyDone k e) s = .next { s with dev := d.release k } ∧
      ((s.dev.mem.frame k f).zero = false →
        (∀ i, i < 1024 → s.dev.mem.upsets.get [] (s.dev.mem.locate (frameAddr k f + 64 * i) / 64) = []) →
        ∀ i, i < 65536 → d.mem.byte (frameAddr k f + i) = s.dev.mem.byte (frameAddr k f + i)) ∧
      (∀ b, b / 65536 ≠ frameAddr k (s.dev.mem.spareBase k + e) / 65536 → d.mem.rawByte b = s.dev.mem.rawByte b) ∧
      (d.mem.stack k).remap.get {} e = ⟨f, .active⟩ ∧ (d.leaf (.mem k)).testBit 6 = true ∧
      (d.mem.stack k).held = (s.dev.mem.stack k).held) ∧
  (∀ (s : State) (k i : Nat) (u : Upset), k < 12 → i < 2 ^ 30 → s.dev.blocked (k * 2 ^ 36 + 64 * i) = false →
    ∃ t, exec (.patrolScrub k i u) s = .next t ∧ t.dev.mem.cells = s.dev.mem.cells ∧
      (u.symbols = [] → (s.dev.mem.frame k (i / 1024)).zero = true → t = s))

/-- A stack's temperature (R355, R356, R368): a sample moves the thermal state as the table says, sets THERMAL_CAP or STACK_PROTECT on
entering CAPPED or PROTECT, and keeps the maximum, which MEM_CLEAR_TEMP_MAX sets to the present value. -/
def Obligations.StackTemperature : Prop :=
  (∀ (s : State) (k c : Nat), k < 12 → (s.dev.mem.stack k).held = [] →
    ∃ t, exec (.temperatureSample k c) s = .next t ∧
      (t.dev.mem.stack k).thermal =
        (let old := (s.dev.mem.stack k).thermal
        if 105 < c then .protect else if old = .protect ∧ 100 ≤ c then .protect
        else if 100 < c then .capped else if old = .capped ∧ 98 < c then .capped
        else if 95 < c then .refresh4x else if old = .refresh4x ∧ 93 < c then .refresh4x
        else if 85 < c then .refresh2x else if old = .refresh2x ∧ 83 < c then .refresh2x else .normal) ∧
      (t.dev.mem.stack k).temp = c ∧ (t.dev.mem.stack k).tempMax = max (s.dev.mem.stack k).tempMax c ∧
      ((t.dev.mem.stack k).thermal = .capped → (s.dev.mem.stack k).thermal ≠ .capped → (t.dev.leaf (.mem k)).testBit 4 = true) ∧
      ((t.dev.mem.stack k).thermal = .protect → (s.dev.mem.stack k).thermal ≠ .protect → (t.dev.leaf (.mem k)).testBit 5 = true) ∧
      t.dev.mem.cells = s.dev.mem.cells ∧ (∀ x, x ≠ k → t.dev.mem.stack x = s.dev.mem.stack x) ∧
      t.dev.seats = s.dev.seats ∧ t.dev.board = s.dev.board ∧ t = { s with dev := t.dev }) ∧
  (∀ (s : State) (k : Nat), s.ready = true →
    exec (.memClearTempMax k) s = .next { s with dev := s.dev.updStack k fun x => { x with tempMax := x.temp } })

/-- The retirement registers (R364, R365): MEM_SPARE_BASE is taken while HELD with every entry FREE and the pool within the stack, else
BAD_COMMAND; while a layout is active it sets LOCKED_WRITE. A FREE entry enters COPY where the checks pass; a write of another entry, or
one that fails them, sets BAD_COMMAND. -/
def Obligations.RetirementRegisters : Prop :=
  (∀ (s : State) (k v : Nat), s.ready = true → s.dev.layout = none →
    exec (.memSpareBaseWrite k v) s = .next
      (if (∀ e ∈ (s.dev.mem.stack k).remap, e.2.state = .free) ∧ v % 2 ^ 20 + 8192 ≤ 1048576 then
        { s with dev := s.dev.updStack k fun x => { x with spareBase := some (v % 2 ^ 20) } }
      else s.setLeaf (.mem k) 8)) ∧
  (∀ (s : State) (k v : Nat), s.ready = true → s.dev.layout ≠ none →
    exec (.memSpareBaseWrite k v) s = .next (s.setLeaf .lay 3)) ∧
  (∀ (s : State) (k e v : Nat), s.ready = true → ((s.dev.mem.stack k).remap.get {} e).state = .free → v / 2 ^ 28 % 4 = 1 →
    exec (.frameRemapWrite k e v) s = .next
      (if s.dev.mem.remapOk k e (v % 2 ^ 20) then
        { s with dev := s.dev.updStack k fun x => { x with remap := SMap.put {} x.remap e ⟨v % 2 ^ 20, .copy⟩ } }
      else s.setLeaf (.mem k) 8)) ∧
  (∀ (s : State) (k e v : Nat), s.ready = true → ((s.dev.mem.stack k).remap.get {} e).state ≠ .free →
    exec (.frameRemapWrite k e v) s = .next (s.setLeaf (.mem k) 8)) ∧
  (∀ (s : State) (k e f : Nat), f < s.dev.mem.spareBase k → (s.dev.mem.stack k).pinOf f = none →
    (∀ x ∈ (s.dev.mem.stack k).remap, x.1 ≠ e → x.2.state = .copy → x.2.frame ≠ f) → s.dev.mem.remapOk k e f = true)

/-- The bandwidth regulator (R343, R355, R520): in a memory-base-die cycle a READ or WRITE bucket gains share / 8 bytes and a REMOTE
bucket share × 8 bytes, scaled by the thermal factor and by (16 − L) / 16, never above 8,448 bytes; a bucket holds 1/4,096 bytes in the
model. With nothing waiting that is all REQUEST_ISSUE does. -/
def Obligations.BucketGains : Prop :=
  ∀ (s : State) (cycles : Nat), s.dev.reg.queue = [] →
    ∃ t, exec (.requestIssue cycles) s = .next t ∧
      (∀ k, t.dev.reg.level k = min (8448 * 4096) (s.dev.reg.level k + (cycles *
        ((match k % 4 with
          | 0 => (s.dev.split (k / 4096) (k / 256 % 16)).read
          | 1 => (s.dev.split (k / 4096) (k / 256 % 16)).write
          | _ => 64 * (s.dev.split (k / 4096) (k / 256 % 16)).remote) *
          (s.dev.mem.stack (k / 256 % 16)).thermal.factor * (16 - s.pwr.level)) : Nat))) ∧
      t.dev.mem = s.dev.mem ∧ t.dev.rings = s.dev.rings ∧ t.dev.seats = s.dev.seats ∧ t = { s with dev := t.dev }


/-! ## Rings, doorbells, fetch and completion (04) -/

/-- Ring commands (R129, R130, R437): STOP of a RUNNING ring, START of one that is STOPPED or HOST_LOST, and RESET of a STOPPED ring
with no operation in the scoreboard; a ring that starts empty counts GENERATION on, sets the four counts and the mode to 0, and is
zeroed before anything is fetched from it; its old lines in the stream cache go (the model's choice, log 139). Any other command is ignored and sets BAD_COMMAND; so is a mode write outside R131. -/
def Obligations.RingCommands : Prop :=
  (∀ (s : State) (i : Nat), s.ready = true →
    ((s.dev.ring i).state = .running →
      exec (.ringStop i) s = .next { s with dev := s.dev.setRing i { s.dev.ring i with state := .stopped } }) ∧
    ((s.dev.ring i).state = .stopped ∨ (s.dev.ring i).state = .hostLost →
      exec (.ringStart i) s = .next { s with dev := s.dev.setRing i { s.dev.ring i with state := .running } }) ∧
    ((s.dev.ring i).state = .stopped → (∀ p ∈ s.dev.board, p.ring ≠ i) →
      ∃ r : Ring, exec (.ringReset i) s = .next { s with dev := s.dev.setRing i r } ∧ r.state = .stopped ∧
        r.generation = ((s.dev.ring i).generation + 1) % 65536 ∧ r.tail = 0 ∧ r.fetched = 0 ∧ r.completed = 0 ∧ r.consumed = 0 ∧
        r.smallPath = false ∧ r.notify = 0 ∧ r.append = false ∧ r.zeroing = true) ∧
    (∀ c, (c = .ringStop i ∧ (s.dev.ring i).state ≠ .running) ∨
        (c = .ringStart i ∧ (s.dev.ring i).state ≠ .stopped ∧ (s.dev.ring i).state ≠ .hostLost) ∨
        (c = .ringReset i ∧ ((s.dev.ring i).state ≠ .stopped ∨ ∃ p ∈ s.dev.board, p.ring = i)) →
      ∃ t, exec c s = .next t ∧ (t.dev.leaf .rng).testBit 2 = true ∧ t.dev.ringInfo = i ∧ t.dev.rings = s.dev.rings ∧
        ((s.dev.ringRec i).seat < 64 → (t.dev.leaf (.vfRing (s.dev.ringRec i).seat)).testBit 3 = true) ∧
        t = { s with dev := { s.dev with ringInfo := i, leaves := t.dev.leaves, recent := t.dev.recent } })) ∧
  (∀ (s : State) (i v : Nat), s.ready = true → (s.dev.ringRec i).seat < 64 → s.dev.vfOpen (s.dev.ringRec i).seat = true →
    ((s.dev.ring i).state = .stopped → (∀ p ∈ s.dev.board, p.ring ≠ i) →
      ∃ r : Ring, exec (.ringModeWrite i v) s = .next { s with dev := s.dev.setRing i r } ∧
        r = { s.dev.ring i with smallPath := v.testBit 0, notify := v / 2 % 4, append := v.testBit 3 }) ∧
    ((s.dev.ring i).state ≠ .stopped ∨ (∃ p ∈ s.dev.board, p.ring = i) →
      ∃ t, exec (.ringModeWrite i v) s = .next t ∧ (t.dev.leaf (.vfRing (s.dev.ringRec i).seat)).testBit 3 = true ∧
        t.dev.rings = s.dev.rings) ∧
    exec (.excRecordClear i) s = .next { s with dev := s.dev.setRing i { s.dev.ring i with exc := {} } }) ∧
  (∀ (s : State) (i : Nat), (s.dev.ring i).zeroing = true →
    ((s.dev.ringRec i).seat < 64 →
      s.dev.rangeBlocked (s.dev.ringRec i).completeBase (2 ^ (s.dev.ringRec i).log2Size * 32) = true →
      exec (.ringZeroingDone i) s = .next s) ∧
    ((s.dev.ringRec i).seat < 64 →
      s.dev.rangeBlocked (s.dev.ringRec i).completeBase (2 ^ (s.dev.ringRec i).log2Size * 32) = false →
      ∃ d e : Dev, exec (.ringZeroingDone i) s = .next { s with dev := e } ∧
        e = d.writeInternal (s.dev.ringRec i).completeBase (List.replicate (2 ^ (s.dev.ringRec i).log2Size * 32) 0) ∧
        (∃ c, d = { s.dev.setRing i { s.dev.ring i with zeroing := false } with cache := c }) ∧
        (∀ l, l ∈ d.cache.lines ↔ l ∈ s.dev.cache.lines ∧ ¬(l.tag = tagOf ((s.dev.ringRec i).seat * 16 + (s.dev.ringRec i).context) ∧
          (s.dev.ringRec i).completeBase ≤ 64 * l.atom ∧
          64 * l.atom < (s.dev.ringRec i).completeBase + 2 ^ (s.dev.ringRec i).log2Size * 32))) ∧
    (¬(s.dev.ringRec i).seat < 64 →
      exec (.ringZeroingDone i) s = .next { s with dev := s.dev.setRing i { s.dev.ring i with zeroing := false } })) ∧
  (∀ (s : State) (slot fc : Nat) (par : List Nat), (∀ i ∈ s.dev.slotRings slot, (s.dev.ring i).zeroing = true) →
    exec (.fetchRound slot fc par) s = .next s)

/-- The registers of slots and mailboxes (R146, R151, R169): SLT_RECHECK takes 256 to 65,536 and ignores anything else; an
aligned write of 4 or 8 bytes to the mailbox page stores those bytes and no others. A slot is idle only if no ring of it has
something to take when every tail is read once more (R147). -/
def Obligations.SlotAndMailboxRegisters : Prop :=
  (∀ (s : State) (i v : Nat), s.ready = true → 256 ≤ v % 2 ^ 17 → v % 2 ^ 17 ≤ 65536 →
    exec (.sltRecheckWrite i v) s = .next { s with dev := s.dev.updSlot i fun k => { k with recheck := v % 2 ^ 17 } }) ∧
  (∀ (s : State) (i v : Nat), v % 2 ^ 17 < 256 ∨ 65536 < v % 2 ^ 17 → exec (.sltRecheckWrite i v) s = .next s) ∧
  (∀ (s : State) (n off : Nat) (bs : List Byte), s.ready = true → s.dev.vfOpen n = true → bs.length = 4 ∨ bs.length = 8 →
    off % bs.length = 0 → off + bs.length ≤ 4096 →
    ∃ t, exec (.mailboxWrite n off bs) s = .next t ∧
      (∀ i (h : i < bs.length), SMap.get 0 (t.dev.seat n).mailbox (off + i) = bs[i]) ∧
      (∀ k, k < off ∨ off + bs.length ≤ k → SMap.get 0 (t.dev.seat n).mailbox k = SMap.get 0 (s.dev.seat n).mailbox k) ∧
      t = { s with dev := s.dev.updSeat n fun k => { k with mailbox := (t.dev.seat n).mailbox } }) ∧
  (∀ (s : State) (i n : Nat), s.dev.slotSeat i = some n →
    ((∀ r ∈ s.dev.slotRings i, s.dev.tailAhead r = false) → ∃ t, exec (.slotIdle i) s = .next t ∧ (t.dev.slot i).idle = true) ∧
    ((∃ r ∈ s.dev.slotRings i, s.dev.tailAhead r = true) →
      exec (.slotIdle i) s = .next { s with dev := s.dev.updSlot i fun k => { k with idle := false } }))

/-- Doorbells (R137 to R139, R148), the first row that matches: a value that names another ring or has a bit of 63 to 44 set, an
announcement that would pass the ring's end, or more consumed than was completed, is ignored, counted and sets DOORBELL_BAD; an old
value is ignored; any other becomes TAIL or CONSUMED. On a device-append ring a submission doorbell only probes, whatever its value
(R148). A part of the page that no ring of the seat holds sets the leaves and counts
nothing. -/
def Obligations.Doorbells : Prop :=
  (∀ (s : State) (n k i v : Nat), s.ready = true → s.dev.vfOpen n = true → s.dev.ringOf n k = some i →
    ((s.dev.ring i).append = true →
      exec (.submissionDoorbell n k v) s = .next { s with dev := s.dev.probe i }) ∧
    (v / 2 ^ 32 % 4096 ≠ i ∨ v / 2 ^ 44 ≠ 0 →
      ∀ c, (c = .submissionDoorbell n k v ∧ (s.dev.ring i).append = false) ∨ c = .completionDoorbell n k v →
      ∃ t, exec c s = .next t ∧ t.dev.ring i = { s.dev.ring i with dbErr := satInc32 (s.dev.ring i).dbErr 1 } ∧
        (t.dev.leaf .rng).testBit 0 = true ∧ (∀ j, j ≠ i → t.dev.ring j = s.dev.ring j) ∧ t.dev.board = s.dev.board) ∧
    (v / 2 ^ 32 % 4096 = i → v / 2 ^ 44 = 0 →
      ((s.dev.ring i).append = false →
        ((v % 2 ^ 32 + 2 ^ 32 - (s.dev.ring i).tail) % 2 ^ 32 = 0 ∨ 2 ^ 31 ≤ (v % 2 ^ 32 + 2 ^ 32 - (s.dev.ring i).tail) % 2 ^ 32 →
          (s.dev.ring i).tail < 2 ^ 32 → exec (.submissionDoorbell n k v) s = .next s) ∧
        ((v % 2 ^ 32 + 2 ^ 32 - (s.dev.ring i).tail) % 2 ^ 32 ≠ 0 → (v % 2 ^ 32 + 2 ^ 32 - (s.dev.ring i).tail) % 2 ^ 32 < 2 ^ 31 →
          (2 ^ (s.dev.ringRec i).log2Size < (v % 2 ^ 32 + 2 ^ 32 - (s.dev.ring i).fetched) % 2 ^ 32 →
            ∃ t, exec (.submissionDoorbell n k v) s = .next t ∧ (t.dev.leaf .rng).testBit 0 = true ∧
              t.dev.ring i = { s.dev.ring i with dbErr := satInc32 (s.dev.ring i).dbErr 1 }) ∧
          ((v % 2 ^ 32 + 2 ^ 32 - (s.dev.ring i).fetched) % 2 ^ 32 ≤ 2 ^ (s.dev.ringRec i).log2Size → (s.dev.ring i).staleReads ≠ 3 →
            ∃ d : Dev, exec (.submissionDoorbell n k v) s = .next { s with dev := d } ∧
              d = (s.dev.setRing i { s.dev.ring i with tail := v % 2 ^ 32, dbSubmit := v }).updSlot (s.dev.ringRec i).slot
                fun k => { k with idle := false }))) ∧
      ((v % 2 ^ 32 + 2 ^ 32 - (s.dev.ring i).consumed) % 2 ^ 32 = 0 ∨ 2 ^ 31 ≤ (v % 2 ^ 32 + 2 ^ 32 - (s.dev.ring i).consumed) % 2 ^ 32 →
        (s.dev.ring i).consumed < 2 ^ 32 → exec (.completionDoorbell n k v) s = .next s) ∧
      ((v % 2 ^ 32 + 2 ^ 32 - (s.dev.ring i).consumed) % 2 ^ 32 ≠ 0 → (v % 2 ^ 32 + 2 ^ 32 - (s.dev.ring i).consumed) % 2 ^ 32 < 2 ^ 31 →
        (((s.dev.ring i).completed + 2 ^ 32 - (s.dev.ring i).consumed) % 2 ^ 32 < (v % 2 ^ 32 + 2 ^ 32 - (s.dev.ring i).consumed) % 2 ^ 32 →
          ∃ t, exec (.completionDoorbell n k v) s = .next t ∧ (t.dev.leaf .rng).testBit 0 = true ∧
            t.dev.ring i = { s.dev.ring i with dbErr := satInc32 (s.dev.ring i).dbErr 1 }) ∧
        ((v % 2 ^ 32 + 2 ^ 32 - (s.dev.ring i).consumed) % 2 ^ 32 ≤ ((s.dev.ring i).completed + 2 ^ 32 - (s.dev.ring i).consumed) % 2 ^ 32 →
          ∃ r : Ring, exec (.completionDoorbell n k v) s = .next { s with dev := s.dev.setRing i r } ∧
            r = { s.dev.ring i with consumed := v % 2 ^ 32, dbComplete := v })))) ∧
  (∀ (s : State) (n k v : Nat), s.ready = true → s.dev.vfOpen n = true → s.dev.ringOf n k = none →
    ∀ c, c = .submissionDoorbell n k v ∨ c = .completionDoorbell n k v →
      ∃ t, exec c s = .next t ∧ t.dev.rings = s.dev.rings ∧ t.dev.board = s.dev.board ∧ t.dev.ringInfo = v / 2 ^ 32 % 4096 ∧
        (t.dev.leaf .rng).testBit 0 = true ∧ (t.dev.leaf (.vfRing n)).testBit 1 = true)

/-- An operation that a ring carries is taken once its entry passes the tests of R135: nothing holds the slot, the entry has no
continuation and no widening partner. It takes the next place; FETCHED and OPS_FETCHED rise by 1; an operation that fails the checks of
R101 has its place too, as one that completes with BAD_DESCRIPTOR. A round, a timed re-read of a stale entry, and a re-check all take so;
an entry that fails is counted in RNG_STALE and never taken, and its third timed reading sets STALE_ENTRY (R135, R141, R145, R146, R162).
The entry is that of a dirty line of the stream cache, or else of memory (a clean old line is no entry: the model's choice, log 139). -/
def Obligations.FetchTakes : Prop :=
  (∀ (s : State) (slot r fc : Nat) (c : Instr), (s.dev.slotSeat slot).isSome = true → (s.dev.ring r).append = false →
    (s.dev.ringRec r).slot = slot → s.dev.pending r = true → s.dev.fetchStall r = none →
    ((c = .fetchRound slot fc [] ∧ s.dev.slotRings slot = [r] ∧ (s.dev.ring r).staleReads = 0) ∨
      (c = .staleReread r fc ∧ ((s.dev.ring r).staleReads = 1 ∨ (s.dev.ring r).staleReads = 2)) ∨
      (c = .slotRecheck slot fc ∧ s.dev.slotRings slot = [r] ∧ (s.dev.ring r).staleReads ≠ 0)) →
    (∀ e d, s.dev.readEntry r (s.dev.ring r).fetched ((s.dev.ring r).available (s.dev.ringRec r).log2Size) = (d, .frame [e]) →
      field e 2 1 = 0 → (ringOp [e] (s.dev.ring r).smallPath (s.dev.seat (s.dev.ringRec r).seat)).op.widens = false →
      ∃ t p, exec c s = .next t ∧ t.dev.board = s.dev.board ++ [p] ∧ p.id = s.dev.nextPlace ∧ p.ring = r ∧ p.slot = slot ∧
        p.seat = (s.dev.ringRec r).seat ∧ p.ctx = (s.dev.ringRec r).context ∧ p.seq = (s.dev.ring r).fetched ∧ p.phase = .waiting ∧
        p.op = (ringOp [e] (s.dev.ring r).smallPath (s.dev.seat p.seat)).op ∧
        ((s.dev.ring r).skip = 0 → p.skipped = false ∧
          p.bad = !s.dev.frameOk r (s.dev.ring r).fetched (ringOp [e] (s.dev.ring r).smallPath (s.dev.seat p.seat))) ∧
        ((s.dev.ring r).skip ≠ 0 → p.skipped = true ∧ p.bad = false) ∧
        (t.dev.ring r).fetched = ((s.dev.ring r).fetched + 1) % 2 ^ 32 ∧ (t.dev.ring r).staleReads = 0 ∧
        (∀ j, j ≠ r → t.dev.ring j = s.dev.ring j) ∧
        (t.dev.slot slot).opsFetched = add64 (s.dev.slot slot).opsFetched 1 ∧ t.dev.mem = d.mem ∧ t.dev.cache = d.cache) ∧
    (∀ (n a : Nat) (e : List Byte), n = (s.dev.ring r).fetched → a = (s.dev.ringRec r).slotAddr n → a % 64 = 0 →
      (s.dev.ring r).available (s.dev.ringRec r).log2Size = 1 →
      s.dev.cache.line (slotStack (s.dev.ringRec r).slot) (tagOf ((s.dev.ringRec r).seat * 16 + (s.dev.ringRec r).context)) (a / 64) = none →
      s.dev.blocked a = false → (s.dev.mem.frame (stackOf a) (frameOf a)).zero = false →
      (s.dev.mem.frame (stackOf a) (frameOf a)).admits (tagOf ((s.dev.ringRec r).seat * 16 + (s.dev.ringRec r).context)) = true →
      s.dev.mem.isPoison a = false → s.dev.mem.upsets.get [] (s.dev.mem.locate a / 64) = [] → e = s.dev.mem.bytes a 64 →
      field e 4 4 = n →
      field e 8 4 = crc32c (foldOf ((s.dev.ring r).generation * 65536 + r) n) (slice e 0 8 ++ List.replicate 4 0 ++ e.drop 12) →
      field e 2 1 = 0 → (ringOp [e] (s.dev.ring r).smallPath (s.dev.seat (s.dev.ringRec r).seat)).op.widens = false →
      ∃ t p, exec c s = .next t ∧ t.dev.board = s.dev.board ++ [p] ∧ p.ring = r ∧ p.seq = n ∧ p.phase = .waiting ∧
        p.op = (ringOp [e] (s.dev.ring r).smallPath (s.dev.seat p.seat)).op ∧ (t.dev.ring r).fetched = (n + 1) % 2 ^ 32) ∧
    (∀ d, s.dev.readEntry r (s.dev.ring r).fetched ((s.dev.ring r).available (s.dev.ringRec r).log2Size) =
        (d, .stale (s.dev.ring r).fetched) →
      ∃ t, exec c s = .next t ∧ t.dev.board = s.dev.board ∧ (t.dev.ring r).fetched = (s.dev.ring r).fetched ∧
        (t.dev.ring r).stale = satInc32 (s.dev.ring r).stale 1 ∧ (t.dev.slot slot).stall = .staleEntry ∧
        ((s.dev.ring r).staleReads = 0 ∨ (s.dev.ring r).staleAt ≠ (s.dev.ring r).fetched → (t.dev.ring r).staleReads = 1) ∧
        (c = .staleReread r fc → (s.dev.ring r).staleAt = (s.dev.ring r).fetched →
          (t.dev.ring r).staleReads = (s.dev.ring r).staleReads + 1 ∧
          ((s.dev.ring r).staleReads = 2 → (t.dev.leaf .rng).testBit 1 = true)))) ∧
  (∀ (d : Dev) (r count avail : Nat) (l : Line), d.cache.line (slotStack (d.ringRec r).slot)
      (tagOf ((d.ringRec r).seat * 16 + (d.ringRec r).context)) ((d.ringRec r).slotAddr count / 64) = some l → l.dirty = true →
    (d.readEntry r count avail).2 = if l.poison = false ∧ entryFresh l.data r (d.ring r).generation count = true
      then .frame [l.data] else .stale count) ∧
  (∀ (d : Dev) (r count a : Nat), a = (d.ringRec r).slotAddr count → a % 64 = 0 →
    d.cache.line (slotStack (d.ringRec r).slot) (tagOf ((d.ringRec r).seat * 16 + (d.ringRec r).context)) (a / 64) = none →
    d.blocked a = false → (d.mem.frame (stackOf a) (frameOf a)).zero = false →
    (d.mem.frame (stackOf a) (frameOf a)).admits (tagOf ((d.ringRec r).seat * 16 + (d.ringRec r).context)) = true →
    d.mem.isPoison a = false → d.mem.upsets.get [] (d.mem.locate a / 64) = [] →
    (d.readEntry r count 1).2 =
      (let e := d.mem.bytes a 64
      if field e 4 4 = count ∧
          field e 8 4 = crc32c (foldOf ((d.ring r).generation * 65536 + r) count) (slice e 0 8 ++ List.replicate 4 0 ++ e.drop 12)
      then .frame [e] else .stale count)) ∧
  (∀ (d : Dev) (r count avail : Nat), d.cache.line (slotStack (d.ringRec r).slot)
      (tagOf ((d.ringRec r).seat * 16 + (d.ringRec r).context)) ((d.ringRec r).slotAddr count / 64) = none →
    d.blocked ((d.ringRec r).slotAddr count) = true → d.readEntry r count avail = (d, .notYet))

/-- The completion entry of a ring's oldest operation, once that has retired and the entry's die serves it (R127, R152, R155, R159):
32 bytes at slot c mod 2^LOG2_SIZE of the completion ring (in memory, where no line of the stream cache holds the place), COMPLETED one higher, the place free; while the oldest operation has not
retired nothing is written, whatever later ones have done. -/
def Obligations.CompletionEntries : Prop :=
  (∀ (s : State) (i : Nat) (p : Place), (s.dev.ringPlaces i).find? (·.parent.isNone) = some p → p.phase ≠ .retired →
    exec (.completionEntryWrite i) s = .next s) ∧
  (∀ (s : State) (i : Nat) (p : Place) (a : Nat), (s.dev.ringPlaces i).find? (·.parent.isNone) = some p → p.phase = .retired →
    a = (s.dev.ringRec i).completeBase + (s.dev.ring i).completed % 2 ^ (s.dev.ringRec i).log2Size * 32 → a % 32 = 0 →
    stackOf a < 12 → s.dev.blocked a = false →
    s.dev.sramLost .completionLog (i * 256 + (s.dev.ring i).completed % 256) = false → (s.dev.wcet i).isNone = true →
    (s.dev.mem.frame (stackOf a) (frameOf a)).admits (tagOf ((s.dev.ringRec i).seat * 16 + (s.dev.ringRec i).context)) = true →
    (s.dev.mem.frame (stackOf a) (frameOf a)).zero = false →
    s.dev.cache.line (slotStack (s.dev.ringRec i).slot) (tagOf ((s.dev.ringRec i).seat * 16 + (s.dev.ringRec i).context)) (a / 64) = none →
    (∀ q ∈ s.dev.board, q.op.launches = false) → p.flags.invalid = false → (s.dev.ring i).notify = 0 →
    ∃ t e, exec (.completionEntryWrite i) s = .next t ∧ e = p.entry i (s.dev.ring i).completed (s.dev.ringRec i).log2Size false 0 ∧
      e.length = 32 ∧ field e 0 2 = i % 65536 ∧ field e 2 1 = p.status.code ∧
      field e 3 1 = 1 - (s.dev.ring i).completed / 2 ^ (s.dev.ringRec i).log2Size % 2 ∧
      field e 4 4 = p.seq % 2 ^ 32 ∧ field e 10 6 = p.start / 16 % 2 ^ 48 ∧
      field e 24 4 = min ((p.stop + 2 ^ 52 - p.start) % 2 ^ 52) 0xFFFFFFFF ∧
      t.dev.mem.bytes a 32 = e ∧ t.dev.board = s.dev.board.filter (·.id != p.id) ∧
      (t.dev.ring i).completed = ((s.dev.ring i).completed + 1) % 2 ^ 32 ∧ (∀ j, j ≠ i → t.dev.ring j = s.dev.ring j) ∧
      t = { s with dev := t.dev })

/-- Retirement (R106, R156, R159, R160): an operation whose work is done leaves its unit, at most eight in a fast cycle at a stack's
collector; it keeps its place until its completion entry is written. An operation that failed a check of R101 retires with
BAD_DESCRIPTOR, and one that a SKIP_IF covers with SKIPPED and no flags, without having run. Here the operation is no launch, has no
launch, writes no DEST and no SUM, and its opcode has no effect of its own at retirement. -/
def Obligations.Retirement : Prop :=
  ∀ (s : State) (p : Place) (fc : Nat), s.dev.place p.id = some p → p.parent = none → p.summary = none →
    (∀ q ∈ s.dev.board, q.op.launches = false) → (s.dev.wcet p.ring).isNone = true →
    p.op.opcode ∉ [0x32, 0x33, 0x61, 0x62, 0x7F] → isCoreOp p.op.opcode = false → s.dev.reg.waits (.work p.id) = false →
    (p.phase = .finished → p.dest = none → p.unsent = [] → p.unacked = [] → p.unsentMsgs = [] → p.prefetch = [] →
      s.dev.tilesInFlight p = false → (∀ e ∈ s.dev.qlk.resend, e.1 ≠ p.id) →
      ((s.dev.collector.get (0, 0) (p.slot / 32)).1 ≠ s.dev.now fc ∨ (s.dev.collector.get (0, 0) (p.slot / 32)).2 < 8 →
        ∃ t q, exec (.operationRetire p.id fc) s = .next t ∧ t.dev.place p.id = some q ∧ q.phase = .retired ∧ q.status = p.status ∧
          q.flags = p.flags ∧ q.start = p.start ∧ q.stop = s.dev.now fc ∧
          (t.dev.slot p.slot).opsRetired = add64 (s.dev.slot p.slot).opsRetired 1 ∧ t.dev.mem = s.dev.mem ∧
          t.dev.rings = s.dev.rings ∧ t.dev.seats = s.dev.seats ∧ t.dev.ctxs = s.dev.ctxs ∧ t = { s with dev := t.dev }) ∧
      ((s.dev.collector.get (0, 0) (p.slot / 32)).1 = s.dev.now fc → 8 ≤ (s.dev.collector.get (0, 0) (p.slot / 32)).2 →
        ∃ t q, exec (.operationRetire p.id fc) s = .next t ∧ t.dev.place p.id = some q ∧ q.phase = .finished ∧
          t.dev.mem = s.dev.mem ∧ t.dev.rings = s.dev.rings)) ∧
    (p.phase = .waiting → p.dest = none →
      ((s.dev.collector.get (0, 0) (p.slot / 32)).1 ≠ s.dev.now 0 ∨ (s.dev.collector.get (0, 0) (p.slot / 32)).2 < 8) →
      (p.bad = true → s.dev.canStart p = true → fc = 0 →
        ∃ t q, exec (.operationRetire p.id fc) s = .next t ∧ t.dev.place p.id = some q ∧ q.phase = .retired ∧
          q.status = .badDescriptor ∧ q.flags = p.flags ∧ t.dev.mem = s.dev.mem) ∧
      (p.skipped = true → (∀ q ∈ s.dev.ahead p, q.begun = true) →
        ∃ t q, exec (.skippedOperation p.id) s = .next t ∧ t.dev.place p.id = some q ∧ q.phase = .retired ∧ q.status = .skipped ∧
          q.flags = p.flags ∧ t.dev.mem = s.dev.mem))


/-! ## Register accesses (01, 17) and the layout block (02) -/

/-- Register accesses (R19 to R22, R554, R557, R560): one of another size or alignment, or a 32-bit write of a doorbell, changes nothing
but the HOST leaf, a read of that kind returning 0xFFFF_FFFF; a 64-bit write is two 32-bit writes, the lower address first; RW fields
read back what was written; writes to an UNUSED seat's BAR0 and to offsets without a register are ignored. -/
def Obligations.RegisterAccess : Prop :=
  (∀ (s : State) (fn : Fn) (off v : Nat) (wide : Bool), s.present fn = true →
    off % (if wide then 8 else 4) ≠ 0 ∨ (wide = false ∧ ∃ n, fn = .vf n ∧ 0x8000 ≤ off ∧ off < 0x9000 ∧ (off % 64 = 0 ∨ off % 64 = 8)) →
    exec (.registerWrite fn off wide v) s = .next (s.setLeaf .host 0)) ∧
  (∀ (s : State) (fn : Fn) (off size : Nat), s.present fn = true → (size ≠ 4 ∧ size ≠ 8) ∨ off % size ≠ 0 →
    exec (.badAccess fn off size false) s = .next (s.setLeaf .host 0) ∧
    exec (.badAccess fn off size true) s = .next ((s.setLeaf .host 0).emit (.readData [0xFF, 0xFF, 0xFF, 0xFF] false))) ∧
  (∀ (s : State) (off v : Nat), s.present .pf = true → off % 8 = 0 →
    ∃ t u, exec (.registerWrite .pf off false (v % 2 ^ 32)) s = .next t ∧
      exec (.registerWrite .pf (off + 4) false (v / 2 ^ 32 % 2 ^ 32)) t = .next u ∧ exec (.registerWrite .pf off true v) s = .next u) ∧
  (∀ (s : State) (r : Nat × Nat) (v : Nat), s.ready = true →
    r ∈ [(0x330, 0xFFF), (0x10004, 0xFFF), (0x10008, 0xFFF), (0x20010, 0xFFFFFFC0), (0x20014, 0xFFFFFFFF), (0x20018, 0x1FFFFFF),
      (0x1808010, 0x3FF), (0x1E00010, 0xFFFFFFC0), (0x1E00014, 0xFFFFFFFF), (0x1E00018, 0x1FFFFFF), (0x1E0003C, 0xFFF),
      (0x1F04010, 0x3F), (0x1F80028, 0xFFFFFFC0), (0x1F8002C, 0xFFFFFFFF), (0x1F80030, 0x1FFFFFF)] →
    ∃ t, exec (.registerWrite .pf r.1 false v) s = .next t ∧ t.readValue .pf r.1 = v % 2 ^ 32 &&& r.2 ∧ t.pending = s.pending ∧
      t.dev.mem = s.dev.mem ∧ t.dev.rings = s.dev.rings ∧ t.dev.layout = s.dev.layout) ∧
  (∀ (s : State) (off v : Nat), s.ready = true → off % 4 = 0 → 0x2000000 ≤ off →
    exec (.registerWrite .pf off false v) s = .next s) ∧
  (∀ (s : State) (n off v : Nat), s.ready = true → s.dev.glb.vfEnable = true → n < 64 → (s.dev.seat n).state = .unused → off % 4 = 0 →
    ¬ (0x8000 ≤ off ∧ off < 0x9000) → exec (.registerWrite (.vf n) off false v) s = .next s)

/-- Leaves and latches (R19, R162, R560): a write of 1 clears a W1C leaf, but one whose event recurred in this slow cycle stays; RO
leaves and zeros written change nothing. A read of a _LO register latches its _HI register. -/
def Obligations.LeavesAndLatches : Prop :=
  (∀ (s : State) (off v : Nat) (r : LeafReg) (w : Nat), s.ready = true → leafAt .pf off = some (r, w) →
    ∃ t, exec (.leafClear .pf off v) s = .next t ∧
      (∀ b, (t.dev.leaf r).testBit b =
        ((s.dev.leaf r).testBit b && !(v.testBit b && w.testBit b && !(s.dev.recent.get 0 r.key).testBit b))) ∧
      (∀ q, q.key ≠ r.key → t.dev.leaf q = s.dev.leaf q) ∧ t = { s with dev := { s.dev with leaves := t.dev.leaves } }) ∧
  (∀ (s : State) (n off v : Nat) (r : LeafReg) (w : Nat), s.ready = true → s.dev.glb.vfEnable = true → n < 64 →
    (s.dev.seat n).state ≠ .unused → leafAt (.vf n) off = some (r, w) →
    ∃ t, exec (.leafClear (.vf n) off v) s = .next t ∧
      (∀ b, (t.dev.leaf r).testBit b =
        ((s.dev.leaf r).testBit b && !(v.testBit b && w.testBit b && !(s.dev.recent.get 0 r.key).testBit b)))) ∧
  (∀ (s : State) (fn : Fn) (off : Nat), s.reaches fn off = true → s.reaches fn (off + 4) = true → latchesHi fn off = true →
    ∃ t, exec (.latchingLoRead fn off) s = .next t ∧
      t.dev.out = s.dev.out ++ [.readData (leBytes 4 (s.liveValue fn off)) false] ∧
      t.readValue fn (off + 4) = s.liveValue fn (off + 4) ∧
      (s.read64 fn off).2 = s.liveValue fn off + 2 ^ 32 * s.liveValue fn (off + 4) ∧
      t = { s with dev := { s.dev with latches := t.dev.latches, out := t.dev.out } })

/-- The layout block's commands (R63 to R65, R67, R74, R80): a command in a state without a row is ignored and sets BAD_COMMAND; a
refusal changes no active image. The copy fills the shadow buffer in M0's memory (R42), once its die accepts the writes. -/
def Obligations.LayoutCommands : Prop :=
  (∀ s : State, s.ready = true → s.mgt.state ≠ .staging → s.mgt.state ≠ .verifying → s.mgt.state ≠ .writing →
    exec .layLoad s = .next
      (if s.lay.shadow ∈ [.empty, .loaded, .valid, .refused, .retired] then
        { s with lay := { s.lay with shadow := .loading, loaded := 0, image := [], staged := none } }
      else s.setLeaf .lay 5)) ∧
  (∀ (s : State) (bytes : List Byte), s.lay.shadow = .loading →
    (s.dev.rangeBlocked (layoutBuffer (1 - s.lay.activeBuffer)) bytes.length = true → exec (.layoutCopyDone bytes) s = .next s) ∧
    (s.dev.rangeBlocked (layoutBuffer (1 - s.lay.activeBuffer)) bytes.length = false →
      ∃ t e, exec (.layoutCopyDone bytes) s = .next t ∧ t.lay.image = bytes ∧ t.lay.activeImage = s.lay.activeImage ∧
        e = s.dev.writeInternal (layoutBuffer (1 - s.lay.activeBuffer)) (bytes.take 0x2000000) ∧
        (if bytes.length = s.lay.srcLen ∧ field bytes 0x10 8 = bytes.length then t.lay.shadow = .loaded ∧ t.dev = e
        else t.lay.shadow = .refused ∧ t.lay.code = 1 ∧ (t.dev.leaf .lay).testBit 0 = true ∧ t.dev.mem = e.mem ∧
          t.dev.layout = e.layout))) ∧
  (∀ s : State, s.ready = true →
    exec .layValidate s = .next
      (if s.lay.shadow = .loaded then { s with lay := { s.lay with shadow := .validating } } else s.setLeaf .lay 5)) ∧
  (∀ s : State, s.lay.shadow = .validating →
    ∃ t, exec .layoutValidationDone s = .next t ∧ t.dev.layout = s.dev.layout ∧ t.dev.rings = s.dev.rings ∧
      t.dev.board = s.dev.board ∧ t.lay.image = s.lay.image ∧ t.lay.activeImage = s.lay.activeImage ∧
      (validate s.lay.image s.against = none →
        t.lay.shadow = .valid ∧ t.lay.staged = some (Layout.ofBytes s.lay.image) ∧ t.dev = s.dev) ∧
      (∀ c h, validate s.lay.image s.against = some (c, h) →
        t.lay.shadow = .refused ∧ t.lay.code = c ∧ t.lay.section_ = h.1 ∧ t.lay.entry = h.2 ∧ t.lay.staged = none ∧
        (t.dev.leaf .lay).testBit 0 = true)) ∧
  (∀ s : State, s.ready = true →
    (s.lay.shadow ∈ [.loading, .loaded, .valid, .refused] ∨ (s.lay.shadow = .retired ∧ s.lay.swapAt ≠ some s.dev.slow) →
      exec .layDiscard s = .next { s with lay := { s.lay with shadow := .empty, image := [], staged := none } }) ∧
    (s.lay.shadow = .swapPending → (∀ new, s.lay.staged = some new → s.swapDue new = false) →
      ∃ t, exec .layDiscard s = .next t ∧ t.lay.shadow = .refused ∧ t.lay.code = 0x0D ∧ t.dev = { s.dev with swapStop := [] }) ∧
    (s.lay.shadow = .empty ∨ s.lay.shadow = .validating → exec .layDiscard s = .next (s.setLeaf .lay 5))) ∧
  (∀ (s : State) (slot : Nat), s.ready = true → slot < 4 →
    exec (.layKeyEnroll slot) s = .next
      (if s.dev.layout = none ∧ s.lay.keys.getD slot none = none then
        { s with lay := { s.lay with keys := s.lay.keys.set slot (some s.lay.keyDigest) } }
      else s.setLeaf .lay 5) ∧
    exec (.layKeyClear slot) s = .next
      (if s.dev.layout = none then { s with lay := { s.lay with keys := s.lay.keys.set slot none } } else s.setLeaf .lay 5))

/-- The swap (R69 to R71, R74, R77, R129): SWAP of a VALID shadow stops the changed seats' slots; the swap point comes once every
changed seat is quiescent (no operation in the scoreboard, and none of a begun step there to take) and no table whose record changes has an
unsettled trick, while HELD at once. There
either the recheck refuses (0x12, 0x15) and the active image stays, or the buffers are exchanged: a ring whose record is the same
keeps its state, one whose record changes starts empty. -/
def Obligations.TheSwap : Prop :=
  (∀ (s : State) (new : Layout), s.ready = true → s.lay.shadow = .valid → s.lay.staged = some new → s.dev.layout ≠ none →
    exec .laySwap s = .next { s with lay := { s.lay with shadow := .swapPending },
                                     dev := { s.dev with swapStop := changedSeats s.dev.layout new } }) ∧
  (∀ (s u : State) (new : Layout), s.ready = true → s.lay.shadow = .valid → s.lay.staged = some new → s.dev.layout = none →
    u = { s with lay := { s.lay with shadow := .swapPending }, dev := { s.dev with swapStop := changedSeats none new } } →
    exec .laySwap s = exec .swapPoint u) ∧
  (∀ s : State, s.ready = true → s.lay.shadow ≠ .valid → exec .laySwap s = .next (s.setLeaf .lay 5)) ∧
  (∀ (s : State) (new : Layout), s.lay.shadow = .swapPending → s.lay.staged = some new →
    (s.swapDue new = false → exec .swapPoint s = .next s) ∧
    ((∃ p ∈ s.dev.board, p.seat ∈ changedSeats s.dev.layout new) → exec .swapPoint s = .next s) ∧
    (s.swapDue new = true → ∀ c h, s.recheck new = some (c, h) →
      ∃ t, exec .swapPoint s = .next t ∧ t.lay.shadow = .refused ∧ t.lay.code = c ∧ (c = 0x12 ∨ c = 0x15) ∧
        t.dev.layout = s.dev.layout ∧ t.dev.rings = s.dev.rings ∧ t.dev.swapStop = [] ∧ (t.dev.leaf .lay).testBit 0 = true) ∧
    (s.swapDue new = true → s.recheck new = none →
      ∃ t, exec .swapPoint s = .next t ∧ t.dev.layout = some new ∧ t.lay.shadow = .retired ∧
        t.lay.activeBuffer = 1 - s.lay.activeBuffer ∧ t.lay.activeImage = s.lay.image ∧ t.lay.image = s.lay.activeImage ∧
        (t.dev.leaf .lay).testBit 2 = true ∧ t.dev.swapStop = [] ∧ t.dev.board = s.dev.board ∧
        (∀ i, i < 4096 → s.dev.layout ≠ none → s.dev.ringRec i = new.rings.getD i {} →
          new.uses (s.dev.ringRec i).seat = true ∨ (s.dev.seatRec (s.dev.ringRec i).seat).kind = 0 →
          t.dev.ring i = s.dev.ring i) ∧
        (∀ i, i < 4096 → s.dev.ringRec i ≠ new.rings.getD i {} →
          ((new.rings.getD i {}).seat < 64 →
            (t.dev.ring i).state = .running ∧ (t.dev.ring i).generation = ((s.dev.ring i).generation + 1) % 65536 ∧
            (t.dev.ring i).tail = 0 ∧ (t.dev.ring i).fetched = 0 ∧ (t.dev.ring i).completed = 0 ∧ (t.dev.ring i).consumed = 0 ∧
            (t.dev.ring i).zeroing = true) ∧
          (64 ≤ (new.rings.getD i {}).seat → (t.dev.ring i).state = .inactive))))


/-! ## Operations in the scoreboard (03, 04) -/

/-- Where an operation works (R38, R101, R102, R104, R106, R118, R124, R156): one that waits starts when ring order and its seat allow it, with
START the slow-cycle count and the epoch that its ring pins; one that failed a check or is skipped never does. An operation that follows an
unfinished WAIT, FENCE or SKIP_IF of its ring, or is ORDERED behind one that has not retired, does not start, and a command for it
then changes nothing. -/
def Obligations.OperationsStart : Prop :=
  (∀ (d : Dev) (p : Place) (sel : OpWord → Bool), d.place p.id = some p → sel p.op = true → p.bad = false → p.skipped = false →
    (p.phase = .running → d.enters p.id sel = some (d, p)) ∧
    (p.phase = .waiting → d.canStart p = true →
      ∃ e q, d.enters p.id sel = some (e, q) ∧ e.place p.id = some q ∧
        q = { p with phase := .running, start := 16 * d.slow, epoch := (d.ring p.ring).pin, stall := .none } ∧
        (∀ i, i ≠ p.id → e.place i = d.place i) ∧
        (∀ i, e.ring i = { d.ring i with stepStart := (e.ring i).stepStart }) ∧
        e = { d with board := e.board, rings := e.rings }) ∧
    (p.phase = .waiting → d.canStart p = false → d.enters p.id sel = none)) ∧
  (∀ (d : Dev) (p : Place) (sel : OpWord → Bool), d.place p.id = some p → p.bad = true ∨ p.skipped = true ∨ sel p.op = false →
    d.enters p.id sel = none) ∧
  (∀ (d : Dev) (p q : Place), q ∈ d.ahead p → q.phase ≠ .retired →
    q.op.opcode = 0x02 ∨ q.op.opcode = 0x05 ∨ q.op.opcode = 0x51 ∨ p.op.flags.testBit 1 = true ∨ p.op.opcode = 0x51 ∨
      q.phase = .waiting → d.canStart p = false) ∧
  (∀ (s : State) (i : Nat) (c : Instr),
    (c = .mark i ∧ s.dev.enters i (·.opcode == 0x01) = none) ∨ (c = .wait i ∧ s.dev.enters i (·.opcode == 0x02) = none) ∨
      (c = .flush i ∧ s.dev.enters i (·.opcode == 0x04) = none) ∨ (c = .fence i ∧ s.dev.enters i (·.opcode == 0x05) = none) ∨
      (c = .tileLoad i ∧ s.dev.enters i (·.opcode == 0x10) = none) ∨ (c = .tileStore i ∧ s.dev.enters i (·.opcode == 0x11) = none) ∨
      (c = .copy i ∧ s.dev.enters i (·.opcode == 0x12) = none) ∨ (c = .skipIf i ∧ s.dev.enters i (·.opcode == 0x51) = none) →
    exec c s = .next s)

/-- What MARK, WAIT, FENCE and SKIP_IF do (R100, R102, R104 to R106, R124), each on its running place. A FENCE VISIBLE writes the dirty lines of its
context back, then reads from the host, and ends with the FENCE command that follows the read's return (the model's reading, log 27). -/
def Obligations.OrderingOperations : Prop :=
  (∀ (s : State) (i : Nat) (d : Dev) (p : Place), s.dev.enters i (·.opcode == 0x01) = some (d, p) →
    ∃ w, exec (.mark i) s = .next { s with dev := d.updPlace i fun q => { q.finish with dest := w } } ∧
      w = if p.op.word 1 = 0 then none else some ⟨(p.op.ref 1).addr, leBytes 8 (p.op.word 0)⟩) ∧
  (∀ (s : State) (i r : Nat) (d : Dev) (p : Place), s.dev.enters i (·.opcode == 0x02) = some (d, p) →
    r = (if p.op.fld 0 0 2 = 0xFFFF then p.ring else p.op.fld 0 0 2) →
    (∀ e, SMap.find (d.ring r).log (((d.ring r).completed + 2 ^ 32 - 1) % 256) = some e →
      (field e 4 4 + 2 ^ 32 - p.op.fld 0 4 4) % 2 ^ 32 < 2 ^ 31 →
      exec (.wait i) s = .next { s with dev := d.updPlace i Place.finish }) ∧
    ((∀ e, SMap.find (d.ring r).log (((d.ring r).completed + 2 ^ 32 - 1) % 256) = some e →
      2 ^ 31 ≤ (field e 4 4 + 2 ^ 32 - p.op.fld 0 4 4) % 2 ^ 32) →
      ∃ t q, exec (.wait i) s = .next t ∧ t.dev.place i = some q ∧ q.phase = p.phase ∧ q.stall = .wait ∧
        t.dev.rings = d.rings ∧ t.dev.mem = d.mem)) ∧
  (∀ (s : State) (i r : Nat) (p : Place) (e : List Byte), s.dev.place i = some p → p.op.opcode = 0x02 → p.phase = .running →
    r = (if p.op.fld 0 0 2 = 0xFFFF then p.ring else p.op.fld 0 0 2) →
    SMap.find (s.dev.ring r).log (((s.dev.ring r).completed + 2 ^ 32 - 1) % 256) = some e →
    (field e 4 4 + 2 ^ 32 - p.op.fld 0 4 4) % 2 ^ 32 < 2 ^ 31 →
    exec (.waitSatisfied i) s = .next { s with dev := s.dev.updPlace i Place.finish }) ∧
  (∀ (s : State) (i : Nat) (d : Dev) (p : Place), s.dev.enters i (·.opcode == 0x05) = some (d, p) →
    ((∃ q ∈ d.ahead p, q.phase ≠ .retired) → exec (.fence i) s = .next { s with dev := d }) ∧
    ((∀ q ∈ d.ahead p, q.phase = .retired) →
      (p.op.fld 0 0 1 = 0 → exec (.fence i) s = .next { s with dev := d.updPlace i Place.finish }) ∧
      (p.op.fld 0 0 1 ≠ 0 → d.glb.hostLost = true ∨ (d.fn (p.seat + 1)).busMaster = false →
        ∃ t q, exec (.fence i) s = .next t ∧ t.dev.place i = some q ∧ q.phase = .finished ∧ q.status = .hostLost ∧
          (t.dev.ring p.ring).state = .hostLost ∧ (t.dev.leaf .rng).testBit 3 = true) ∧
      (p.op.fld 0 0 1 ≠ 0 → d.glb.hostLost = false → (d.fn (p.seat + 1)).busMaster = true →
        (p.hostRead = true → exec (.fence i) s = .next { s with dev := d.updPlace i Place.finish }) ∧
        (p.hostRead = false → (∃ l ∈ d.cache.lines, l.dirty = true ∧ l.tag = tagOf p.ctxIx ∧ d.blocked (64 * l.atom) = true) →
          ∃ t q, exec (.fence i) s = .next t ∧ t.dev.place i = some q ∧ q.phase = p.phase ∧ q.hostRead = false ∧
            t.dev.out = d.out ∧ t.dev.cache = d.cache ∧ t.dev.mem = d.mem) ∧
        (p.hostRead = false → d.writesHeld p.ctxIx = false →
          (∀ l ∈ d.cache.lines, l.dirty = true → l.tag = tagOf p.ctxIx → d.blocked (64 * l.atom) = false ∧ l.data.length = 64 ∧
            (d.mem.frame (stackOf (64 * l.atom)) (frameOf (64 * l.atom))).zero = false) →
          ∃ t q, exec (.fence i) s = .next t ∧ t.dev.place i = some q ∧ q.phase = p.phase ∧ q.hostRead = true ∧
            t.dev.out = d.out ++ [.hostRead p.seat] ∧
            t.dev.cache.lines = d.cache.lines.map (fun l => if l.tag == tagOf p.ctxIx then { l with dirty := false } else l))))) ∧
  (∀ (s : State) (i : Nat) (d : Dev) (p : Place), s.dev.enters i (·.opcode == 0x51) = some (d, p) → p.parent = none →
    (skipTest (p.op.fld 1 1 1) ((d.ctx p.ctxIx).sums.get 0 (p.op.fld 1 0 1)) (p.op.word 0) = false →
      exec (.skipIf i) s = .next { s with dev := d.updPlace i Place.finish }) ∧
    (skipTest (p.op.fld 1 1 1) ((d.ctx p.ctxIx).sums.get 0 (p.op.fld 1 0 1)) (p.op.word 0) = true →
      ∀ later, later = d.board.filter (fun q => q.ring == p.ring && decide (p.id < q.id) && q.parent == none) →
        (∀ q ∈ later, q.partner = none) →
        ∃ t, exec (.skipIf i) s = .next t ∧ (t.dev.ring p.ring).skip = p.op.fld 1 2 2 - later.length ∧
          (∀ q ∈ t.dev.board, q.id ∈ ((later.take (p.op.fld 1 2 2)).map (·.id)) → q.skipped = true) ∧
          t.dev.board.map (·.id) = d.board.map (·.id) ∧ t.dev.mem = d.mem)) ∧
  (∀ x y : Nat, skipTest 0 x y = (x == y) ∧ skipTest 1 x y = (x != y) ∧ skipTest 2 x y = decide (x < y) ∧
    skipTest 3 x y = decide (y ≤ x) ∧ ((fp32.decode (x % 2 ^ 32)).isNan = true → skipTest 4 x y = false ∧ skipTest 5 x y = false))

/-- ACQUIRE and FLUSH (R122, R123): a range that enabled segments do not wholly cover ends in SEGMENT_FAULT and acts on no line. INVALIDATE
and BYPASS leave no line of the range on a compute stack where the seat owns clusters, and a dirty one is written back before it is dropped, so that no write is lost; a fifth bypass range
is NO_SPACE; RESTORE ends the bypass ranges that lie wholly in its range; a flushed line stays valid and is no longer dirty. Here no
write-back meets a die that accepts nothing. -/
def Obligations.CacheOperations : Prop :=
  (∀ (s : State) (i : Nat) (c : Instr) (d : Dev) (p : Place),
    (c = .acquireInvalidate i ∧ s.dev.enters i (fun o => o.opcode == 0x03 && o.fld 2 0 1 == 0) = some (d, p)) ∨
      (c = .acquireBypass i ∧ s.dev.enters i (fun o => o.opcode == 0x03 && o.fld 2 0 1 == 1) = some (d, p)) ∨
      (c = .acquireRestore i ∧ s.dev.enters i (fun o => o.opcode == 0x03 && o.fld 2 0 1 == 2) = some (d, p)) ∨
      (c = .flush i ∧ s.dev.enters i (·.opcode == 0x04) = some (d, p) ∧ p.op.word 1 ≠ 0) →
    (d.ctx p.ctxIx).covers (p.op.ref 0).addr (p.op.word 1) = false → d.place i = some p → p.ctx < 16 →
    ∃ t q, exec c s = .next t ∧ t.dev.place i = some q ∧ q.phase = .finished ∧ q.status = .segmentFault ∧
      t.dev.cache = d.cache ∧ t.dev.mem = d.mem ∧ (t.dev.seat p.seat).faultKind = 1) ∧
  (∀ (s : State) (i : Nat) (c : Instr) (d : Dev) (p : Place),
    (c = .acquireInvalidate i ∧ s.dev.enters i (fun o => o.opcode == 0x03 && o.fld 2 0 1 == 0) = some (d, p)) ∨
      (c = .acquireBypass i ∧ s.dev.enters i (fun o => o.opcode == 0x03 && o.fld 2 0 1 == 1) = some (d, p) ∧
        (d.ctx p.ctxIx).bypass.length < 4) →
    (d.ctx p.ctxIx).covers (p.op.ref 0).addr (p.op.word 1) = true → d.place i = some p →
    (∀ l ∈ d.cache.lines, l.dirty = true → d.acquireLines p.ctxIx (p.op.ref 0).addr (p.op.word 1) l = true → d.blocked (64 * l.atom) = false) →
    ∃ t q, exec c s = .next t ∧ t.dev.place i = some q ∧ q.phase = .finished ∧ q.status = p.status ∧
      t.dev.cache.lines = (d.cache.lines.filter fun l => !d.acquireLines p.ctxIx (p.op.ref 0).addr (p.op.word 1) l) ∧
      (t.dev.ctx p.ctxIx).bypass = (d.ctx p.ctxIx).bypass ++
        (if c = .acquireBypass i then [⟨(p.op.ref 0).addr, p.op.word 1⟩] else []) ∧
      ((∀ l ∈ d.cache.lines, d.acquireLines p.ctxIx (p.op.ref 0).addr (p.op.word 1) l = true → l.dirty = false) → t.dev.mem = d.mem) ∧
      (∀ l, (d.cache.lines.filter fun l => d.acquireLines p.ctxIx (p.op.ref 0).addr (p.op.word 1) l) = [l] → l.dirty = true →
        l.data.length = 64 → l.atom < 12 * 2 ^ 30 → (d.mem.frame (stackOf (64 * l.atom)) (frameOf (64 * l.atom))).admits l.tag = true →
        (d.mem.frame (stackOf (64 * l.atom)) (frameOf (64 * l.atom))).zero = false →
        t.dev.mem.bytes (64 * l.atom) 64 = l.data ∧ t.dev.mem.isPoison (64 * l.atom) = l.poison)) ∧
  (∀ (s : State) (i : Nat) (d : Dev) (p : Place),
    s.dev.enters i (fun o => o.opcode == 0x03 && o.fld 2 0 1 == 1) = some (d, p) → 4 ≤ (d.ctx p.ctxIx).bypass.length →
    (d.ctx p.ctxIx).covers (p.op.ref 0).addr (p.op.word 1) = true →
    exec (.acquireBypass i) s = .next { s with dev := d.updPlace i (·.fail .noSpace) }) ∧
  (∀ (s : State) (i : Nat) (d : Dev) (p : Place),
    s.dev.enters i (fun o => o.opcode == 0x03 && o.fld 2 0 1 == 2) = some (d, p) →
    (d.ctx p.ctxIx).covers (p.op.ref 0).addr (p.op.word 1) = true → d.place i = some p →
    ∃ t q, exec (.acquireRestore i) s = .next t ∧ t.dev.place i = some q ∧ q.phase = .finished ∧ t.dev.cache = d.cache ∧
      t.dev.mem = d.mem ∧ (∀ b, b ∈ (t.dev.ctx p.ctxIx).bypass ↔ b ∈ (d.ctx p.ctxIx).bypass ∧
        ¬ ((p.op.ref 0).addr ≤ b.addr ∧ b.addr + b.length ≤ (p.op.ref 0).addr + p.op.word 1))) ∧
  (∀ (s : State) (i : Nat) (d : Dev) (p : Place), s.dev.enters i (·.opcode == 0x04) = some (d, p) → d.place i = some p →
    p.op.word 1 = 0 ∨ (d.ctx p.ctxIx).covers (p.op.ref 0).addr (p.op.word 1) = true →
    (∀ l ∈ d.cache.lines, l.dirty = true → d.flushPick p l = true → d.blocked (64 * l.atom) = false) →
    ∃ t q, exec (.flush i) s = .next t ∧ t.dev.place i = some q ∧ q.phase = .finished ∧ q.status = p.status ∧
      t.dev.cache.lines = d.cache.lines.map (fun l => if d.flushPick p l then { l with dirty := false } else l) ∧
      ((∀ l ∈ d.cache.lines, d.flushPick p l = true → l.dirty = false) → t.dev.mem = d.mem))


/-! ## Tiles and moves (03) -/

/-- TILE_LOAD, TILE_STORE and COPY (R92, R99, R100, R162, R378, R385), and the tiles of a result (R83, R84, R87, R88): how their memory work ends. A load delivers the matrix that it read to
its stream or to the scratchpads of its cores. A store and a copy finish with the status they had; nothing else of the device but
memory, its leaves, the stream cache, meters, bandwidth buckets, seat fault records and the place changes. Work that must wait stays
for later, a failed address check ends in SEGMENT_FAULT, and a payload that is too short in BAD_DESCRIPTOR. A load whose SRC is a
payload that is long enough, and whose DST is a stream, completes. An element without a shift is stored as it is, one of a float format as
its value in FORMAT; what a shifted element of an integer format becomes is a free value of the format, the code and the shift (log 26). The tile at row block i and column block j has SEQ_BASE + i × ceil(C / 64) + j as its SEQUENCE, its share of the rows and
columns, and the CHECK of its header and payload; a matrix has ceil(ROWS / 64) × ceil(COLS / 64) tiles. -/
def Obligations.TileMoves : Prop :=
  (∀ (s : State) (i : Nat) (d : Dev) (p : Place) (r : Mio × Mat), s.dev.enters i (·.opcode == 0x10) = some (d, p) →
    r = (d.io p).readMat (d.agent p) p 0 (p.op.word 3) (p.op.shape 0).1 (p.op.shape 0).2.1 (p.op.shape 0).2.2 →
    r.1.delivers (p.op.ref 1) (r.1.written d p 1 r.2) ∨ (d.Calm ∧ ∀ k, k < (p.op.shape 0).1 →
        d.Feeds p 0 (k * p.op.word 3) (rowBytes (p.op.shape 0).2.2 (p.op.shape 0).2.1)) ∧
      d.Takes p 1 (p.op.shape 0).1 (rowBytes (p.op.shape 0).2.2 (p.op.shape 0).2.1) (rowBytes (p.op.shape 0).2.2 (p.op.shape 0).2.1) →
    d.WorkOnly r.1.dev ∧ ∃ t q, exec (.tileLoad i) s = .next t ∧ Delivered r.1 p 1 r.2 (r.1.written d p 1 r.2) t.dev q) ∧
  (∀ (s : State) (i : Nat) (d : Dev) (p : Place) (y : Payload), s.dev.enters i (·.opcode == 0x10) = some (d, p) → p.payload = some y →
    y.word = 0 → (p.op.ref 1).kind = 1 →
    (∀ r < (p.op.shape 0).1, r * p.op.word 3 + rowBytes (p.op.shape 0).2.2 (p.op.shape 0).2.1 ≤ y.bytes.length) →
    ∃ t q, exec (.tileLoad i) s = .next t ∧ t.dev.place i = some q ∧ q.phase = .finished ∧ q.status = p.status ∧ t.dev.mem = d.mem ∧
      t.dev.cache = d.cache) ∧
  (∀ (s : State) (i : Nat) (d : Dev) (p : Place) (r : Mio × Mat) (y : Mat) (m : Mio) (es : List (List OutElem)),
    s.dev.enters i (·.opcode == 0x11) = some (d, p) → p.inputsReady = true →
    r = (d.io p).source (d.agent p) p 0 (d.elementCore p) → es = r.2.stored → y = { r.2 with codes := es.map fun e => e.map (·.code) } →
    m = r.1.writeMat (d.agent p) (p.op.ref 1) (p.op.word 3) y →
    m.done ∨ d.Supplies p 0 ∧ d.Calm ∧ (∀ k, k < (p.op.shape 0).1 → d.Writes p.ctxIx ((p.op.ref 1).addr + k * p.op.word 3)
      (rowBytes (p.op.shape 0).2.2 (p.op.shape 0).2.1)) →
    ∃ t q, exec (.tileStore i) s = .next t ∧ t.dev.place i = some q ∧ q.phase = .finished ∧ q.status = p.status ∧
      q.flags.poisoned = (p.flags.poisoned || y.anyPoison) ∧ q.flags.overflow = (p.flags.overflow || (flagsOf es).overflow) ∧
      (∃ e, d.WorkOnly e ∧ t.dev = { e with board := t.dev.board })) ∧
  (∀ (s : State) (i : Nat) (d : Dev) (p : Place) (r : Mio × List Byte × List Bool) (m : Mio),
    s.dev.enters i (·.opcode == 0x12) = some (d, p) → (p.op.ref 1).kind ≠ 2 →
    r = (d.io p).flat (d.agent p) p 0 (p.op.word 2) →
    m = r.1.write (d.agent p) (p.op.ref 1) (p.op.ref 1).addr r.2.1 r.2.2 →
    r.1.short = false ∧ m.done ∨ d.Calm ∧ (p.inPads 0 = true ∨ d.Feeds p 0 0 (p.op.word 2)) ∧
      d.Writes p.ctxIx (p.op.ref 1).addr (p.op.word 2) →
    ∃ t q, exec (.copy i) s = .next t ∧ t.dev.place i = some q ∧ q.phase = .finished ∧ q.status = p.status ∧
      q.flags.poisoned = (p.flags.poisoned || r.2.2.any id) ∧ (∃ e, d.WorkOnly e ∧ t.dev = { e with board := t.dev.board })) ∧
  (∀ (d : Dev) (p : Place) (m : Mio) (f : Dev → Dev), d.place p.id = some p → d.WorkOnly m.dev →
    (m.waits = true → ∃ q, (d.conclude p m f).place p.id = some q ∧ q.phase = p.phase ∧ q.stall = m.wait ∧ q.status = p.status ∧
      (d.conclude p m f).mem = d.mem ∧ (d.conclude p m f).rings = d.rings) ∧
    (m.waits = false → m.fault = true → ∃ q, (d.conclude p m f).place p.id = some q ∧ q.phase = .finished ∧ q.status = .segmentFault) ∧
    (m.waits = false → m.fault = false → m.short = true →
      ∃ q, (d.conclude p m f).place p.id = some q ∧ q.phase = .finished ∧ q.status = .badDescriptor)) ∧
  (∀ (x : Mat) (stream base mode : Nat), (x.tiles stream base mode).length = ceilDiv x.rows 64 * ceilDiv x.cols 64) ∧
  (∀ (x : Mat) (stream base mode i j : Nat), i < ceilDiv x.rows 64 → j < ceilDiv x.cols 64 →
    ∃ t, (x.tiles stream base mode)[i * ceilDiv x.cols 64 + j]? = some t ∧ t.stream = stream ∧
      t.sequence = (base + i * ceilDiv x.cols 64 + j) % 2 ^ 32 ∧ t.rows = min 64 (x.rows - 64 * i) ∧ t.cols = min 64 (x.cols - 64 * j) ∧
      t.format = x.fmt ∧ t.shiftMode = mode ∧ t.check = t.checkAs stream t.sequence ∧ t.payload.length % 64 = 0) ∧
  (∀ fmt code : Nat, storeElement fmt code 0 = { code := code }) ∧
  (∀ (fmt code : Nat) (f : FloatFmt) (c : Int), c ≠ 0 → floatFmt fmt = some f →
    (storeElement fmt code c).code = (f.convert ((elemValue fmt code).shift c)).1)

/-- COPY of one aligned atom between STREAM operands (R100, R335, R340, R378), and TILE_STORE of one row of 64 bytes from a stream
(R99): with the memory operands in enabled segments and no line in the cache, the 64 bytes arrive at the translated address, every byte
elsewhere is as it was, and each transfer is charged max(64, 512) + 128 = 640 bytes. -/
def Obligations.CopyMovesAnAtom : Prop :=
  (∀ (s : State) (i : Nat) (d : Dev) (p : Place) (sa sb pa pb x y : Nat) (g h : Seg),
    s.dev.enters i (·.opcode == 0x12) = some (d, p) → p.payload = none → p.op.acquires = false → p.acquire = false → p.op.word 2 = 64 →
    (p.op.ref 0).kind = 0 → (p.op.ref 1).kind = 0 → (p.op.ref 0).hint = 1 → (p.op.ref 1).hint = 1 →
    (p.op.ref 0).addr = sa → (p.op.ref 1).addr = sb → (d.ctx p.ctxIx).covering sa = some (x, g) →
    (d.ctx p.ctxIx).covering sb = some (y, h) → g.read = true → h.write = true → sa + 64 ≤ g.vbase + g.length * 65536 →
    sb + 64 ≤ h.vbase + h.length * 65536 → pa = g.pbase + (sa - g.vbase) → pb = h.pbase + (sb - h.vbase) →
    pa % 64 = 0 → pb % 64 = 0 → sb % 64 = 0 → pb < 12 * 2 ^ 36 → d.cache.lines = [] →
    d.blocked pa = false → d.blocked pb = false → (d.mem.frame (stackOf pa) (frameOf pa)).admits (tagOf p.ctxIx) = true →
    (d.mem.frame (stackOf pb) (frameOf pb)).admits (tagOf p.ctxIx) = true → (d.mem.frame (stackOf pa) (frameOf pa)).zero = false →
    (d.mem.frame (stackOf pb) (frameOf pb)).zero = false → d.mem.isPoison pa = false →
    d.mem.upsets.get [] (d.mem.locate pa / 64) = [] →
    ∃ t q, exec (.copy i) s = .next t ∧ t.dev.place i = some q ∧ q.phase = .finished ∧ q.status = p.status ∧ q.flags = p.flags ∧
      t.dev.mem.bytes pb 64 = d.mem.bytes pa 64 ∧
      (∀ b, ¬ (d.mem.locate pb ≤ d.mem.locate b ∧ d.mem.locate b < d.mem.locate pb + 64) → t.dev.mem.byte b = d.mem.byte b) ∧
      (t.dev.ctx p.ctxIx).meter.read = ((d.ctx p.ctxIx).meter.read + 640) % 2 ^ 64 ∧
      (t.dev.ctx p.ctxIx).meter.write = ((d.ctx p.ctxIx).meter.write + 640) % 2 ^ 64 ∧ t.dev.cache = d.cache ∧
      t.dev.rings = d.rings ∧ t.dev.seats = d.seats) ∧
  (∀ (s : State) (i : Nat) (d : Dev) (p : Place) (sb pb y : Nat) (h : Seg) (x z : Mat),
    s.dev.enters i (·.opcode == 0x11) = some (d, p) → p.inputsReady = true → p.payload = none → (p.op.ref 0).kind = 1 →
    p.op.acquires = false → p.acquire = false → x = p.streamMat 0 (p.op.shape 0).1 (p.op.shape 0).2.1 (p.op.shape 0).2.2 →
    z = { x with codes := x.stored.map fun e => e.map (·.code) } → (p.op.shape 0).1 = 1 → (z.rowOut 0).1.length = 64 → z.anyPoison = false →
    (p.op.ref 1).kind = 0 → (p.op.ref 1).hint = 1 → (p.op.ref 1).addr = sb → (d.ctx p.ctxIx).covering sb = some (y, h) → h.write = true →
    sb + 64 ≤ h.vbase + h.length * 65536 → pb = h.pbase + (sb - h.vbase) → pb % 64 = 0 → sb % 64 = 0 → pb < 12 * 2 ^ 36 →
    d.cache.lines = [] → d.blocked pb = false → (d.mem.frame (stackOf pb) (frameOf pb)).admits (tagOf p.ctxIx) = true →
    (d.mem.frame (stackOf pb) (frameOf pb)).zero = false →
    ∃ t q, exec (.tileStore i) s = .next t ∧ t.dev.place i = some q ∧ q.phase = .finished ∧ q.status = p.status ∧
      t.dev.mem.bytes pb 64 = (z.rowOut 0).1 ∧
      (∀ b, ¬ (d.mem.locate pb ≤ d.mem.locate b ∧ d.mem.locate b < d.mem.locate pb + 64) → t.dev.mem.byte b = d.mem.byte b) ∧
      (t.dev.ctx p.ctxIx).meter.write = ((d.ctx p.ctxIx).meter.write + 640) % 2 ^ 64 ∧ t.dev.cache = d.cache)

/-- What a consumer does with an arriving tile, and the credit of its route (R90 to R93, R198, R259, R260, R481, R591): a tile that verifies and
lies in the window takes its position; one that verifies under the expected stream outside it, or under its own STREAM, makes SEQ_SKEW and
DATA_ERROR and has the rest drained; one that verifies under neither takes no position, sets POISONED and raises an INTEGRITY cause. In
every case the tile leaves its route, whose credit then waits to be returned; a parity mismatch on the way is counted. -/
def Obligations.TileArrivals : Prop :=
  ∀ (s : State) (i : Nat) (r : Route) (x0 : Sent) (t0 : Tile) (rest : List Sent), s.dev.routes[i]? = some r → r.queue = x0 :: rest →
    t0 = x0.tile → t0.shiftMode ≠ 2 →
    (∀ f (p : Place) (w n : Nat), s.dev.consumer r x0 (decide (f = .damaged)) = some (p, w, n) → s.dev.place p.id = some p →
      ∃ t g, exec (.tileArrival i f .none) s = .next t ∧ t.dev.routes[i]? = some g ∧ g = { r with queue := rest, unread := r.unread + 1 } ∧
      (∀ j, j ≠ i → t.dev.routes[j]? = s.dev.routes[j]?) ∧ t.dev.mem = s.dev.mem ∧ t.dev.rings = s.dev.rings ∧
      (f.mismatch = false ∨ r.spec.src ≠ 0 → ∀ j, j ≠ p.id → t.dev.place j = s.dev.place j) ∧
      (f.mismatch = true → t.dev.chk.parity = satInc32 s.dev.chk.parity 1) ∧
      (∃ q st, t.dev.place p.id = some q ∧ q.stream w = st ∧ st.received = (p.stream w).received + 1 ∧ q.phase = p.phase)) ∧
    (∀ (p : Place) (w n : Nat), s.dev.consumer r x0 false = some (p, w, n) → s.dev.place p.id = some p → (p.stream w).draining = false →
      (t0.check = t0.checkAs (p.op.ref w).addr t0.sequence → (t0.sequence + 2 ^ 32 - p.op.seqBase) % 2 ^ 32 < n →
        p.tileAt w t0.sequence = none → (p.stream w).received < n →
        ∃ t q u, exec (.tileArrival i .none .none) s = .next t ∧ t.dev.place p.id = some q ∧
          q.arrived = p.arrived ++ [⟨w, t0.sequence, u, none⟩] ∧
          (u = t0 ∧ q.status = p.status ∧ q.flags = p.flags ∨
            u = { t0 with poison := 2 ^ 64 - 1 } ∧ q.flags.poisoned = true ∧ q.status ≠ .ok)) ∧
      (p.status = .ok →
        (t0.check = t0.checkAs (p.op.ref w).addr t0.sequence ∧ (n ≤ (t0.sequence + 2 ^ 32 - p.op.seqBase) % 2 ^ 32 ∨
            p.tileAt w t0.sequence ≠ none ∨ n ≤ (p.stream w).received) ∨
          t0.check ≠ t0.checkAs (p.op.ref w).addr t0.sequence ∧ t0.check = t0.checkAs t0.stream t0.sequence) →
        ∃ t q, exec (.tileArrival i .none .none) s = .next t ∧ t.dev.place p.id = some q ∧ q.arrived = p.arrived ∧
          q.flags.seqSkew = true ∧ q.status = .dataError ∧ (q.stream w).draining = true)) ∧
    (∀ (p : Place) (w n : Nat), s.dev.consumer r x0 true = some (p, w, n) → s.dev.place p.id = some p → (p.stream w).draining = false →
      ∃ t q, exec (.tileArrival i .damaged .none) s = .next t ∧ t.dev.place p.id = some q ∧ q.arrived = p.arrived ∧
        q.flags.poisoned = true ∧ q.flags.seqSkew = p.flags.seqSkew ∧ q.status = p.status ∧ (t.dev.leaf .chk).testBit 3 = true) ∧
    (r.unread ≠ 0 → (∀ q ∈ s.dev.board, q.unsent = []) →
      exec (.routeCreditReturn i) s = .next { s with dev :=
        { s.dev with routes := s.dev.routes.modify i fun g => { g with credits := g.credits + 1, unread := g.unread - 1 } } })

/-! ## Gathering (05) -/

/-- GATHER, GATHER_POOL and PREFETCH_ROWS (R178 to R180, R182, R183, R188, R189, R192, R196, R198, R199, R202): when the memory work is done, the
operation is finished with its matrix delivered; its entry shows the epoch that its ring pins, and a ring without a pin takes the
latest committed epoch; it is done where its lists and every row can be read and its rows written; DEFAULT_ROWS shows that some index was invalid. BAGS that sum above 16,777,216 end in BAD_DESCRIPTOR; poisoned BAGS
poison every bag. An empty bag gives +0 and no flag; MAX of a bag with a NaN is the canonical NaN. PREFETCH_ROWS leaves each distinct valid
row in flight with its number of positions, shows DEFAULT_ROWS for an invalid index, and a row lands as a line that shows its table and
epoch. A position of a PREFETCH_ROWS whose index arrived poisoned names no row (log 69). -/
def Obligations.Gathers : Prop :=
  (∀ (s : State) (i ep : Nat) (mm : List Nat) (c : Instr) (d e : Dev) (p : Place) (g : Gathered), e = d.gatherPin p →
    ep = ((d.ring p.ring).pin).getD d.trk.lce → d.place p.id = some p → p.id = i → (p.op.ref 1).kind ≠ 2 →
    (c = .gather ⟨i, mm⟩ ∧ s.dev.enters i (·.opcode == 0x20) = some (d, p) ∧ g = e.gatherResult p mm) ∨
      (c = .gatherPool ⟨i, mm⟩ ∧ s.dev.enters i (·.opcode == 0x21) = some (d, p) ∧
        ∃ (b : Mio × List Byte × List Bool) (sizes : List Nat) (n : Nat), n = p.op.fld 2 0 4 ∧
          b = (e.io p).readOperand p.frontEnd p 4 0 (4 * n) ∧ b.1.done ∧
          sizes = (List.range n).map (fun k => field b.2.1 (4 * k) 4) ∧
          ((true ∈ b.2.2 ∧ g = p.gathered (e.opTable p) b.1 (List.replicate n (zeroRow (e.opTable p).dimension))
              (List.replicate n true) false (List.replicate n [])) ∨
            (true ∉ b.2.2 ∧ sizes.foldl (· + ·) 0 ≤ 16777216 ∧ g = e.poolBags p (e.opTable p) b.1 sizes mm))) →
    g.work.delivers (p.op.ref 1) (g.out p) →
    e.WorkOnly g.work.dev ∧ ∃ t q, exec c s = .next t ∧ Delivered g.work p 1 g.mat (g.out p) t.dev q ∧ q.epoch = some ep ∧
      q.flags.defaultRows = (p.flags.defaultRows || g.dflt) ∧ (t.dev.ring p.ring).pin = some ep ∧
      (∀ r, r ≠ p.ring → t.dev.ring r = d.ring r) ∧ t.dev.trk = d.trk) ∧
  (∀ (s : State) (i n w l total : Nat) (mm : List Nat) (d : Dev) (p : Place) (t : TableRec) (b : List Byte), t = d.opTable p →
    n = p.op.fld 2 0 4 → w = p.op.fld 2 6 1 → l = rowBytes (p.op.fld 2 7 1) t.dimension → t.dimension % 2 = 0 → d.Calm → d.TableReads p t →
    d.place p.id = some p → p.id = i → (p.op.ref 1).kind ≠ 2 → d.Takes p 1 n l l →
    (s.dev.enters i (·.opcode == 0x20) = some (d, p) → d.Feeds p 0 0 (n * w) →
      ∃ u q, exec (.gather ⟨i, mm⟩) s = .next u ∧ u.dev.place i = some q ∧ q.phase = .finished ∧ q.status = p.status) ∧
    (s.dev.enters i (·.opcode == 0x21) = some (d, p) → d.Feeds p 4 0 (4 * n) →
      b = (((d.gatherPin p).io p).readOperand p.frontEnd p 4 0 (4 * n)).2.1 →
      total = ((List.range n).map (fun k => field b (4 * k) 4)).foldl (· + ·) 0 → total ≤ 16777216 →
      (total = 0 ∨ d.Feeds p 0 0 (total * w) ∧ (p.op.has p.payload 5 = true → d.Feeds p 5 0 (2 * total))) →
      ∃ u q, exec (.gatherPool ⟨i, mm⟩) s = .next u ∧ u.dev.place i = some q ∧ q.phase = .finished ∧ q.status = p.status)) ∧
  (∀ (s : State) (i : Nat) (mm : List Nat) (d e : Dev) (p : Place) (b : Mio × List Byte × List Bool),
    s.dev.enters i (·.opcode == 0x21) = some (d, p) → e = d.gatherPin p →
    b = (e.io p).readOperand p.frontEnd p 4 0 (4 * p.op.fld 2 0 4) → b.1.done → true ∉ b.2.2 →
    16777216 < ((List.range (p.op.fld 2 0 4)).map (fun k => field b.2.1 (4 * k) 4)).foldl (· + ·) 0 →
    ∃ t q, exec (.gatherPool ⟨i, mm⟩) s = .next t ∧ t.dev.place i = some q ∧ q.phase = .finished ∧ q.status = .badDescriptor ∧
      t.dev.routes = d.routes ∧ t.dev.cores = d.cores) ∧
  (∀ (t : TableRec) (w n k : Nat) (bs : List Byte), k < n → (listRows t w n bs)[k]? =
    some (if field bs (w * k) w = 2 ^ (8 * w) - 1 ∨ t.rows ≤ field bs (w * k) w then none else some (field bs (w * k) w))) ∧
  (∀ (m : Mio) (p : Place) (t : TableRec), t.defaultKind = 0 →
    m.readDefault p t = (m, ⟨List.replicate t.dimension .zero, false, none⟩)) ∧
  (∀ pool fmt dim : Nat, fmt = 4 ∨ fmt = 5 → poolRow pool fmt dim [] = List.replicate dim {}) ∧
  (∀ (f : FloatFmt) (vs : List Machine.Num), (∃ v ∈ vs, v.isNan = true) → poolMax f vs = { code := f.nanCode }) ∧
  (∀ (s : State) (i ep : Nat) (d e : Dev) (p : Place) (x : Mio × List Byte × List Bool) (named : List (Option Nat)),
    s.dev.enters i (·.opcode == 0x22) = some (d, p) → e = d.gatherPin p → ep = ((d.ring p.ring).pin).getD d.trk.lce →
    x = (e.io p).readOperand p.frontEnd (if paysFor p.payload 0 then p else { p with op := p.op.asStream }) 0 0
      (p.op.fld 2 0 4 * p.op.fld 2 6 1) →
    x.1.done ∨ d.Calm ∧ d.Feeds p 0 0 (p.op.fld 2 0 4 * p.op.fld 2 6 1) →
    named = ((listRows (e.opTable p) (p.op.fld 2 6 1) (p.op.fld 2 0 4) x.2.1).zip
      (listPoison (p.op.fld 2 6 1) (p.op.fld 2 0 4) x.2.2)).filterMap (fun r => if r.2 then none else some r.1) →
    ∃ t q, exec (.prefetchRows i) s = .next t ∧ t.dev.place i = some q ∧ q.phase = .finished ∧ q.status = p.status ∧ q.epoch = some ep ∧
      q.prefetch = (named.filterMap id).eraseDups.map (fun r => (r, (named.filterMap id).count r)) ∧ (t.dev.ring p.ring).pin = some ep ∧
      q.flags.defaultRows = (p.flags.defaultRows || named.any Option.isNone) ∧
      t.dev.cache = x.1.dev.cache ∧ t.dev.mem = x.1.dev.mem ∧ t.dev.trk = d.trk) ∧
  (∀ (s : State) (i row n ep : Nat) (rest : List (Nat × Nat)) (p : Place) (tb : TableRec) (r : Mio × List (List Byte × Bool)),
    s.dev.place i = some p → p.op.opcode = 0x22 → p.phase = .finished → p.cancelled = false → p.prefetch = (row, n) :: rest →
    s.dev.reg.waits (.row p.id row) = false → tb = s.dev.opTable p → ep = p.epoch.getD 0 → s.dev.prefetched p tb row ep = none →
    r = ({ dev := s.dev } : Mio).rowAtoms p tb 0 row ep →
    r.1.waits = false ∧ r.1.fault = false ∨ s.dev.Calm ∧ s.dev.RowReads p tb row →
    ∃ t q, exec (.prefetchLineLand i) s = .next t ∧ t.dev.place i = some q ∧ q.phase = .finished ∧ q.status = p.status ∧
      q.prefetch = p.prefetch.filter (·.1 != row) ∧ t.dev.rings = s.dev.rings ∧ t.dev.trk = s.dev.trk ∧
      (∀ x a, r.2 = [x] → s.dev.lineAtoms p tb row ep = [a] →
        ∃ l, t.dev.cache.line p.frontEnd.stack (tagOf p.ctxIx) a = some l ∧ l.data = x.1 ∧ l.poison = x.2 ∧
          l.dirty = false ∧ l.row = some (tb.table, ep)))


/-! ## Tricks (06) -/

/-- The life of a trick until its commit (R214 to R216, R219 to R222, R226 to R228, R239): TRICK_OPEN takes the lowest free entry where R216
admits it and waits with TRICK_BACKPRESSURE otherwise; a handle in use or unknown is BAD_DESCRIPTOR, an aborted trick ABORTED. A PUT
past ROWS_MAX aborts its trick with OVERFLOW and leaves no row of it; one whose rows encode and find space stages them all, invisible
to every reader, in granules of their stack's staging area that no other record takes and that the commit log does not use; a new record's
header atom stands in memory at its granule. TRICK_ABORT discards the rows; TRICK_COMMIT moves the trick to COMMIT once every PUT of the
trick ahead of it in its ring has been staged, and waits until then. Which place a record takes in its section is the model's choice (log 31). -/
def Obligations.Tricks : Prop :=
  (∀ (k : Trk) (n rows e : Nat), k.admission n rows = some e → e < 1024 ∧ (∀ t ∈ k.tricks, t.entry ≠ e) ∧ k.heldBy n < 64 ∧
    k.reserved + rows ≤ 2097152 ∧ (k.reserved + rows) * 1088 ≤ 2 ^ 31) ∧
  (∀ (s : State) (i e : Nat) (c : Instr) (d : Dev) (p : Place), d.place i = some p →
    (c = .trickOpen i ∧ s.dev.enters i (·.opcode == 0x30) = some (d, p)) ∨
      (c = .trickAdmit i ∧ d = s.dev ∧ p.op.opcode = 0x30 ∧ p.phase = .running) →
    d.trk.byHandle p.seat (p.op.fld 0 0 4) = none → d.trk.admission p.seat (p.op.fld 0 4 4) = some e → d.sramLost .trickTable e = false →
    ∃ t q, exec c s = .next t ∧ t.dev.place i = some q ∧ q.phase = .finished ∧ q.status = p.status ∧
      (∀ u : Trick, u = { entry := e, handle := p.op.fld 0 0 4, seat := p.seat, ring := p.ring, rowsMax := p.op.fld 0 4 4,
                          cascade := p.op.fld 1 0 1 == 1, state := .open_, handleInUse := true } →
        t.dev.trk = { d.trk with tricks := d.trk.tricks ++ [u] }) ∧
      t.dev.rings = d.rings ∧ t.dev.mem = d.mem) ∧
  (∀ (s : State) (i : Nat) (d : Dev) (p : Place), s.dev.enters i (·.opcode == 0x30) = some (d, p) →
    (d.trk.byHandle p.seat (p.op.fld 0 0 4) ≠ none → exec (.trickOpen i) s = .next { s with dev := d.updPlace i (·.fail .badDescriptor) }) ∧
    (d.trk.byHandle p.seat (p.op.fld 0 0 4) = none → d.trk.admission p.seat (p.op.fld 0 4 4) = none → d.place i = some p →
      ∃ t q, exec (.trickOpen i) s = .next t ∧ t.dev.place i = some q ∧ q.phase = p.phase ∧ q.stall = .trickBackpressure ∧
        q.excursions.trickStall = true ∧ t.dev.trk = d.trk)) ∧
  (∀ (s : State) (i h : Nat) (c : Instr) (d : Dev) (p : Place),
    (c = .trickPut i [] [] ∧ s.dev.enters i (·.opcode == 0x31) = some (d, p) ∧ h = p.op.fld 3 0 4) ∨
      (c = .trickCommit i ∧ s.dev.enters i (·.opcode == 0x32) = some (d, p) ∧ h = p.op.fld 0 0 4) ∨
      (c = .trickAbort i ∧ s.dev.enters i (·.opcode == 0x33) = some (d, p) ∧ h = p.op.fld 0 0 4) →
    (d.trk.byHandle p.seat h = none → exec c s = .next { s with dev := d.updPlace i (·.fail .badDescriptor) }) ∧
    (∀ k, d.trk.byHandle p.seat h = some k → k.ring = p.ring → k.commit ≠ some i → d.sramLost .trickTable k.entry = false →
      (k.state = .aborted → exec c s = .next { s with dev := d.updPlace i (·.fail .aborted) }) ∧
      (k.state = .commit ∨ k.state = .prepared ∨ k.state = .committing ∨ k.state = .committed →
        exec c s = .next { s with dev := d.updPlace i (·.fail .badDescriptor) }))) ∧
  (∀ (s : State) (i : Nat) (d : Dev) (p : Place) (k : Trick) (tb : TableRec) (x y : Mio × List Byte × List Bool)
    (items : List (Nat × Nat × List Nat)), s.dev.enters i (·.opcode == 0x31) = some (d, p) →
    d.trk.byHandle p.seat (p.op.fld 3 0 4) = some k → k.ring = p.ring → d.sramLost .trickTable k.entry = false → k.state = .open_ →
    k.commit = none → tb = d.opTable p →
    x = (d.io p).readOperand p.frontEnd p 0 0 (p.op.fld 2 0 4 * p.op.fld 2 6 1) →
    y = x.1.readOperand p.frontEnd p 1 0 (p.op.fld 2 0 4 * rowBytes (p.op.fld 2 7 1) tb.dimension) →
    y.1.done ∨ d.Calm ∧ d.Feeds p 0 0 (p.op.fld 2 0 4 * p.op.fld 2 6 1) ∧
      d.Feeds p 1 0 (p.op.fld 2 0 4 * rowBytes (p.op.fld 2 7 1) tb.dimension) →
    true ∉ x.2.2 → true ∉ y.2.2 →
    items = (listRows tb (p.op.fld 2 6 1) (p.op.fld 2 0 4) x.2.1).zipIdx.filterMap (fun r => r.1.map fun row => (r.2, row,
      rowCodes (p.op.fld 2 7 1) tb.dimension (slice y.2.1 (r.2 * rowBytes (p.op.fld 2 7 1) tb.dimension)
        (rowBytes (p.op.fld 2 7 1) tb.dimension)))) →
    (k.rowsMax < k.staged + items.length →
      ∃ t q, exec (.trickPut i [] []) s = .next t ∧ t.dev.place i = some q ∧ q.phase = .finished ∧ q.status = .aborted ∧
        q.flags.overflow = true ∧ (∀ u ∈ t.dev.trk.tricks, u.entry = k.entry → u.state = .aborted) ∧
        (∀ r ∈ t.dev.trk.staged, r.trick = k.entry → r.epoch ≠ none)) ∧
    (∀ (rs : List (Nat × Coded)) (trk : Trk) (m : Mio), k.staged + items.length ≤ k.rowsMax →
      encodeRows tb (p.op.fld 2 7 1) [] items = .good rs →
      y.1.dev.trk.stageAll (rs.zipIdx.map fun r => stagedRow tb k (p.ringKey * 2 ^ 32 + r.2) r.1.1 r.1.2) = .ok trk →
      m = rs.foldl (fun m r => m.lookup tb r.1) (y.1.reachRecords (trk.staged.drop y.1.dev.trk.staged.length)) →
      m.done ∨ y.1.done ∧ d.Calm ∧ (∀ r ∈ rs, d.rowSram (tb.place r.1).stack tb.table r.1 = false) →
      ∃ t q, exec (.trickPut i [] []) s = .next t ∧ t.dev.place i = some q ∧ q.phase = .finished ∧ q.status = p.status ∧
        q.flags.defaultRows = (p.flags.defaultRows || (listRows tb (p.op.fld 2 6 1) (p.op.fld 2 0 4) x.2.1).any Option.isNone) ∧
        t.dev.trk.staged = trk.staged ∧
        t.dev.trk.tricks = d.trk.tricks.map (fun u => if u.entry = k.entry then { u with staged := u.staged + rs.length } else u))) ∧
  (∀ (k k' : Trk) (rs : List (Staged × Nat)), k.stageAll rs = .ok k' → ∃ new, k' = { k with staged := k.staged ++ new } ∧
    new.map (fun r => { r with granule := 0 }) = rs.map (fun r => { r.1 with granule := 0 })) ∧
  (∀ (d : Dev) (k : Trk) (r : Staged), k = { d.trk with staged := d.trk.staged ++ [r] } → r ∉ d.trk.staged →
    (∀ i ≤ r.bytes.length / 64, d.blocked (r.addr + 64 * i) = false) → r.addr % 65536 + 64 * r.atoms ≤ 65536 →
    (d.setTrk k).trk = k ∧ (d.setTrk k).mem.bytes r.addr 64 = r.headerAtom (k.prevOf r)) ∧
  (∀ (tb : TableRec) (k : Trick) (o row : Nat) (c : Coded), (stagedRow tb k o row c).1.epoch = none ∧ (stagedRow tb k o row c).1.kind = 1) ∧
  (∀ (k k' : Trk) (r : Staged) (pc : Nat), k.stage r pc = some k' → pc < 64 → ∃ g, k' = { k with staged := k.staged ++ [{ r with granule := g }] } ∧
    g + r.atoms ≤ 2 ^ 26 ∧ (r.stack = 0 → 4096 ≤ g) ∧
    (∀ u ∈ k.staged, u.stack = r.stack → g + r.atoms ≤ u.granule ∨ u.granule + u.atoms ≤ g)) ∧
  (∀ (s : State) (i : Nat) (d : Dev) (p : Place) (k : Trick), s.dev.enters i (·.opcode == 0x33) = some (d, p) → d.place i = some p →
    d.trk.byHandle p.seat (p.op.fld 0 0 4) = some k → k.ring = p.ring → d.sramLost .trickTable k.entry = false → k.state = .open_ →
    k.commit = none →
    ∃ t q, exec (.trickAbort i) s = .next t ∧ t.dev.place i = some q ∧ q.phase = .finished ∧ q.status = p.status ∧
      (∀ u ∈ t.dev.trk.tricks, u.entry = k.entry → u.state = .aborted) ∧
      t.dev.trk.staged = d.trk.staged.filter (fun r => !(r.trick == k.entry && r.epoch.isNone))) ∧
  (∀ (s : State) (i : Nat) (d : Dev) (p : Place) (k : Trick), s.dev.enters i (·.opcode == 0x32) = some (d, p) →
    d.trk.byHandle p.seat (p.op.fld 0 0 4) = some k → k.ring = p.ring → d.sramLost .trickTable k.entry = false → k.state = .open_ →
    k.commit = none →
    (d.putsDone k p = true →
      exec (.trickCommit i) s = .next { s with dev := d.updTrick k.entry fun u => { u with state := .commit, commit := some i } }) ∧
    (d.putsDone k p = false → exec (.trickCommit i) s = .next { s with dev := d })) ∧
  (∀ (d : Dev) (t : Trick) (p : Place), d.putsDone t p = false ↔ ∃ q ∈ d.board, q.op.opcode = 0x31 ∧ q.seat = t.seat ∧ q.ring = t.ring ∧
    q.op.fld 3 0 4 = t.handle ∧ q.bad = false ∧ q.skipped = false ∧ q.ringKey < p.ringKey ∧ (q.phase = .waiting ∨ q.phase = .running))

/-- Commits, settling and pins (R221, R223, R231 to R237, R250, R251): when the dies report a trick in COMMIT prepared, it takes the next epoch and
its record stands in the commit log, and each die that holds records is told; a die that could not write aborts it. Where one trick alone has its
entry number, a die marks its records with the epoch, and after the last one LCE reaches it. Settling starts where the floor has reached the epoch and raises
TRK_FLOOR; a settled record is in its home slot and out of the directory. EPOCH_PIN pins LCE, or an epoch from TRK_FLOOR to LCE, and is
BAD_DESCRIPTOR otherwise. The rebuild sets LCE to the highest epoch of a COMMIT record and raises RESUMED. -/
def Obligations.CommitsAndSettling : Prop :=
  (∀ (s : State) (e : Nat) (t : Trick), s.dev.trk.trick e = some t → t.state = .commit → t.migrate = none → s.dev.logBlocked = false →
    s.dev.sramLost .trickTable e = false →
    (t.cascade = false → s.dev.trk.stacksOf t ≠ [] →
      ∃ u v, exec (.trickPrepared e false) s = .next u ∧ u.dev.trk.trick e = some v ∧ v.state = .committing ∧
        v.epoch = some (s.dev.trk.lastEpoch + 1) ∧ v.unacked = s.dev.trk.stacksOf t ∧ u.dev.trk.lastEpoch = s.dev.trk.lastEpoch + 1 ∧
        (∃ r ∈ u.dev.trk.log, r.decision = 1 ∧ r.trick = e ∧ r.epoch = s.dev.trk.lastEpoch + 1 ∧ r.handle = t.handle ∧
          r.dies = s.dev.trk.stacksOf t ∧ r.rows = (s.dev.trk.recordsOf t).length)) ∧
    (t.cascade = true →
      ∃ u v, exec (.trickPrepared e false) s = .next u ∧ u.dev.trk.trick e = some v ∧ v.state = .prepared ∧
        u.dev.trk.lastEpoch = s.dev.trk.lastEpoch ∧ (∃ r ∈ u.dev.trk.log, r.decision = 0 ∧ r.trick = e ∧ r.epoch = 2 ^ 64 - 1)) ∧
    (∀ i p, t.commit = some i → s.dev.place i = some p →
      ∃ u q, exec (.trickPrepared e true) s = .next u ∧ u.dev.place i = some q ∧ q.phase = .finished ∧ q.status = .aborted ∧
        q.flags.poisoned = true ∧ (∀ v ∈ u.dev.trk.tricks, v.entry = e → v.state = .aborted) ∧
        (∀ r ∈ u.dev.trk.staged, r.trick = e → r.epoch ≠ none))) ∧
  (∀ (s : State) (e x ep : Nat) (t : Trick), s.dev.trk.trick e = some t → t.state = .committing → x ∈ t.unacked →
    (∀ u ∈ s.dev.trk.tricks, u.entry = e → u = t) → s.dev.sramLost .trickTable e = false → t.epoch = some ep →
    (∀ r ∈ s.dev.trk.recordsOf t, r.stack = x → s.dev.blocked r.addr = false) →
    ∃ u, exec (.dieEpochAck e x) s = .next u ∧
      (∀ r ∈ s.dev.trk.staged, r.kind = 1 → r.trick = e → r.stack = x → r.epoch = none → { r with epoch := some ep } ∈ u.dev.trk.staged) ∧
      (t.unacked.filter (· ≠ x) ≠ [] → ∃ v, u.dev.trk.trick e = some v ∧ v.state = .committing ∧ v.unacked = t.unacked.filter (· ≠ x)) ∧
      (t.unacked.filter (· ≠ x) = [] → ep = s.dev.trk.lce + 1 → ep ≤ u.dev.trk.lce) ∧ s.dev.trk.lce ≤ u.dev.trk.lce) ∧
  (∀ (s : State) (e : Nat) (t : Trick), s.dev.trk.trick e = some t → s.dev.maySettle t = true →
    ∃ u, exec (.settlingStart e) s = .next u ∧ e ∈ u.dev.trk.settling ∧
      u.dev.trk.floor = max s.dev.trk.floor (t.epoch.getD 0) ∧ u.dev.trk.staged = s.dev.trk.staged ∧ u.dev.mem = s.dev.mem) ∧
  (∀ (d : Dev) (t : Trick), d.maySettle t = true → t.epoch.getD 0 ≤ d.pinFloor ∧ t.state = .committed) ∧
  (∀ (d : Dev) (r e : Nat), (d.ring r).pin = some e → d.rings ≠ [] → d.pinFloor ≤ e) ∧
  (∀ (s : State) (x g : Nat) (r : Staged) (t : Trick) (tb : TableRec),
    s.dev.trk.staged.find? (fun r => r.stack == x && r.granule == g && r.kind == 1 && r.epoch.isSome) = some r →
    s.dev.trk.trick r.trick = some t → s.dev.table r.table = some tb → t.entry ∈ s.dev.trk.settling → s.dev.trk.olderPending r = false →
    (∀ a ∈ s.dev.settleRanges tb r, s.dev.rangeBlocked a.1 a.2 = false) → s.dev.rowSram (tb.place r.row).stack r.table r.row = false →
    ∃ u, exec (.settleDone x g) s = .next u ∧ (∀ q ∈ u.dev.trk.staged, ¬ (q.stack = x ∧ q.granule = g)) ∧
      (tb.isSplit = false → tb.slotAtoms = 1 → (tb.place r.row).addr % 64 = 0 → s.dev.trk.copiesOf r = [] → r.bytes.length = 64 →
        (s.dev.mem.frame (stackOf (r.addr + 64)) (frameOf (r.addr + 64))).zero = false →
        s.dev.mem.upsets.get [] (s.dev.mem.locate (r.addr + 64) / 64) = [] →
        u.dev.mem.bytes (tb.place r.row).addr 64 = s.dev.mem.bytes (r.addr + 64) 64)) ∧
  (∀ (s : State) (i : Nat) (d : Dev) (p : Place), s.dev.enters i (·.opcode == 0x34) = some (d, p) → d.place i = some p →
    (∀ e, (p.op.fld 1 0 1 = 0 ∧ e = d.trk.lce) ∨ (p.op.fld 1 0 1 ≠ 0 ∧ e = p.op.word 0 ∧ d.trk.floor ≤ e ∧ e ≤ d.trk.lce) →
      ∃ t q, exec (.epochPin i) s = .next t ∧ t.dev.place i = some q ∧ q.phase = .finished ∧ q.status = p.status ∧
        (t.dev.ring p.ring).pin = some e ∧ (∀ r, r ≠ p.ring → t.dev.ring r = d.ring r)) ∧
    (p.op.fld 1 0 1 ≠ 0 → p.op.word 0 < d.trk.floor ∨ d.trk.lce < p.op.word 0 →
      exec (.epochPin i) s = .next { s with dev := d.updPlace i (·.fail .badDescriptor) })) ∧
  (∀ s : State, s.dev.trk.rebuilding = true →
    ∃ t, exec .overlayRebuildDone s = .next t ∧ (t.dev.leaf .trk).testBit 4 = true ∧
      ((∀ k ∈ s.dev.trk.tricks, k.state ≠ .prepared) → t.dev.trk.rebuilding = false ∧ t.dev.trk.lce = s.dev.trk.topEpoch))

/-- Row migration (R239, R241 to R243): a ROW_MIGRATE that R242 refuses is BAD_DESCRIPTOR and changes no table; one without a free entry waits; one
whose row was read and whose copies found space is a trick in COMMIT that read the row at LCE. At its commit check without a conflict the
new list is valid from the next epoch, and its record stands in the log where no committed record names a later epoch than the last; one that
the limits of R242 refuse by then is BAD_DESCRIPTOR (log 81); the sixteenth conflict ends it with ABORTED and MIGRATE_ABORT. A PUT or ROW_MIGRATE that waits for
overlay space starts over when space is freed. -/
def Obligations.RowMigration : Prop :=
  (∀ (s : State) (i mode : Nat) (c : Instr) (d : Dev) (p : Place), d.place i = some p →
    (c = .rowMigrateMove i ∧ mode = 0) ∨ (c = .rowMigrateReplicate i ∧ mode = 1) ∨ (c = .rowMigrateDropReplica i ∧ mode = 2) →
    s.dev.enters i (fun o => o.opcode == 0x35 && o.fld 1 2 1 == mode) = some (d, p) →
    (∀ t ∈ d.trk.tricks, t.commit ≠ some p.id) →
    (d.migrateOk ((d.table (p.op.fld 1 0 2)).getD {}) (p.op.word 0) (p.op.fld 1 2 1) (p.op.fld 1 3 1) (setBits 64 (p.op.word 2)) = false →
      exec c s = .next { s with dev := d.updPlace i (·.fail .badDescriptor) }) ∧
    (d.migrateOk ((d.table (p.op.fld 1 0 2)).getD {}) (p.op.word 0) (p.op.fld 1 2 1) (p.op.fld 1 3 1) (setBits 64 (p.op.word 2)) = true →
      (d.trk.admission p.seat 1 = none →
        ∃ t q, exec c s = .next t ∧ t.dev.place i = some q ∧ q.phase = p.phase ∧ q.stall = .trickBackpressure ∧ t.dev.trk = d.trk) ∧
      (∀ (e : Nat) (m : Migration) (k : Trick) (f : Dev) (tb : TableRec) (a : Mio × List (List Byte × Bool)) (h : List Byte)
        (w : Mio) (trk : Trk), d.trk.admission p.seat 1 = some e →
        tb = (d.table (p.op.fld 1 0 2)).getD {} →
        m = { table := tb.table, row := p.op.word 0, mode := p.op.fld 1 2 1, stack := p.op.fld 1 3 1, pcs := setBits 64 (p.op.word 2),
              er := d.trk.lce } →
        k = { entry := e, handle := 0, seat := p.seat, ring := p.ring, rowsMax := 1, cascade := false, state := .open_, handleInUse := false,
              commit := some p.id, migrate := some m } →
        f = { d with trk := { d.trk with tricks := d.trk.tricks ++ [k] } } → f.table m.table = some tb →
        a = (f.io p).rowAtoms p tb 0 m.row d.trk.lce →
        h = (if tb.isSplit then headerIn (f.source p.id 0 tb.table m.row d.trk.lce) tb m.row (a.2.getD tb.atoms ([], false)).1 else []) →
        a.1.dev.trk.stageAll (migrationCopies k m (d.trk.present m.table m.row).1 ((a.2.take tb.atoms).flatMap (·.1)) h
          (a.2.any (·.2))) = .ok trk →
        w = a.1.reachRecords (trk.staged.drop a.1.dev.trk.staged.length) →
        a.1.waits = false ∧ a.1.fault = false ∧ w.done ∨ d.Calm ∧ d.RowReads p tb m.row →
        ∃ t q u, exec c s = .next t ∧ t.dev.place i = some q ∧ q.phase = p.phase ∧ q.status = p.status ∧ q.stall = .none ∧
          u ∈ t.dev.trk.tricks ∧ u.entry = e ∧ u.state = .commit ∧ u.commit = some i ∧
          (∃ v, u.migrate = some v ∧ v.er = d.trk.lce ∧ v.row = p.op.word 0) ∧ t.dev.trk.staged = trk.staged))) ∧
  (∀ (s : State) (i : Nat) (p : Place) (k : Trick) (m : Migration), s.dev.place i = some p → p.op.opcode = 0x35 → p.phase = .running →
    s.dev.trk.tricks.find? (fun t => t.commit == some i && t.state == .commit) = some k → k.migrate = some m →
    s.dev.logBlocked = false → (∀ r ∈ s.dev.trk.recordsOf k, s.dev.blocked r.addr = false) →
    (m.conflict = false → s.dev.migrationOk m = true →
      exec (.migrateCommitCheck i) s = .next { s with dev := s.dev.migrateCommit k m } ∧
      ((∀ r ∈ s.dev.trk.log, r.committed = true → r.epoch ≤ s.dev.trk.lastEpoch) → s.dev.trk.lastEpoch < 2 ^ 64 - 2 →
        ∃ r ∈ (s.dev.migrateCommit k m).trk.log, r.decision = 1 ∧ r.trick = k.entry ∧ r.epoch = s.dev.trk.lastEpoch + 1) ∧
      (s.dev.trk.stacksOf k ≠ [] → m.mode ≠ 2 → m.pcs ≠ [] → (∀ q ∈ s.dev.trk.replicas, q.since ≤ s.dev.trk.lastEpoch) →
        ∃ r ∈ (s.dev.migrateCommit k m).trk.replicas, r.table = m.table ∧ r.row = m.row ∧ r.since = s.dev.trk.lastEpoch + 1 ∧
          ∀ a ∈ m.pcs, (m.stack, a) ∈ r.places)) ∧
    (m.conflict = false → s.dev.migrationOk m = false →
      ∃ t q, exec (.migrateCommitCheck i) s = .next t ∧ t.dev.place i = some q ∧ q.phase = .finished ∧ q.status = .badDescriptor ∧
        (∀ u ∈ t.dev.trk.tricks, u.entry ≠ k.entry) ∧ (∀ r ∈ t.dev.trk.staged, r.trick = k.entry → r.epoch ≠ none)) ∧
    (m.conflict = true → 15 ≤ m.retries →
      ∃ t q, exec (.migrateCommitCheck i) s = .next t ∧ t.dev.place i = some q ∧ q.phase = .finished ∧ q.status = .aborted ∧
        (t.dev.leaf .trk).testBit 2 = true ∧ t.dev.trk.retries = satInc32 s.dev.trk.retries 1 ∧
        (∀ u ∈ t.dev.trk.tricks, u.entry ≠ k.entry) ∧ (∀ r ∈ t.dev.trk.staged, r.trick = k.entry → r.epoch ≠ none))) ∧
  (∀ (s : State) (i : Nat) (p : Place), s.dev.place i = some p → p.phase = .running → p.stall = .trickBackpressure → p.bad = false →
    p.skipped = false →
    (p.op.opcode = 0x31 → ∃ t, exec (.overlaySpaceFreed i) s = .next t ∧ exec (.trickPut i [] []) s = .next t) ∧
    (p.op.opcode = 0x35 → p.op.fld 1 2 1 = 0 → ∃ t, exec (.overlaySpaceFreed i) s = .next t ∧ exec (.rowMigrateMove i) s = .next t) ∧
    (p.op.opcode = 0x35 → p.op.fld 1 2 1 = 1 → ∃ t, exec (.overlaySpaceFreed i) s = .next t ∧ exec (.rowMigrateReplicate i) s = .next t) ∧
    (p.op.opcode = 0x35 → p.op.fld 1 2 1 = 2 → ∃ t, exec (.overlaySpaceFreed i) s = .next t ∧ exec (.rowMigrateDropReplica i) s = .next t))


/-! ## Core operations (07, 08, 09) -/

/-- Core operations (R92, R97, R257, R267, R272 to R274, R284, R286, R288, R291, R294, R295, R299, R303 to R305, R308, R309, R486): when the memory work is
done, the operation is finished with its matrix delivered, its flags and its first offender. An element at (r, c) is the function's value there, and
zero where its row is poisoned; a product element takes its pairs in ascending k, each from the core that runs its K-block, and each core's
accumulators keep the parts of the last unit that it ran. A SUMMARY keeps its value for its retirement; a poisoned source gives the extreme
value of R309. Cores whose parts fill a combine buffer hold 16 units, the operation shows ROUTE_CREDIT, and it goes on once space is
freed. Which units a core had completed at its second fault is a free value (log 45), so the positions that it poisons are. -/
def Obligations.CoreOperations : Prop :=
  (∀ (s : State) (c : Instr) (d : Dev) (p : Place) (r : Mio × Factors) (m : Mio) (x : List (List OutElem) × Mat), s.Enters c d p →
    p.op.opcode = 0x40 ∨ p.op.opcode = 0x41 → p.partner = none → r = d.readFactors p → m = { r.1 with dev := r.1.dev.setParts p r.2 } →
    x = d.elemsOut p (p.op.fld 3 0 4) (p.op.fld 4 0 4) (p.op.fld 4 6 1)
      (fun i j => (d.poisonOf p r.2).1.getD i false || (d.poisonOf p r.2).2.getD j false)
      (fun i j => dotElement (p.op.fld 4 4 1) (p.op.fld 4 5 1) (p.op.fld 4 6 1) (p.op.fld 4 7 1) ((List.range (p.op.fld 3 4 4)).map fun k =>
        ((r.2.a (d.unitCore p (p.op.blockOf i j) (k / 64))).elem i k, (r.2.b (d.unitCore p (p.op.blockOf i j) (k / 64))).elem k j))) →
    m.delivers (p.op.ref 2) (m.written d p 2 x.2) ∨ d.Supplies p 0 ∧ d.Supplies p 1 ∧ d.Accepts p 2 →
    d.WorkOnly r.1.dev ∧ ∃ t q, exec c s = .next t ∧ Delivered m p 2 x.2 (m.written d p 2 x.2) t.dev q ∧ p.Shows q x.1) ∧
  (∀ (d : Dev) (p : Place) (f : Factors) (n c u : Nat), (d.opCores p)[n]? = some c → (d.opCores p).Nodup →
    (d.unitsOf p n).getLast? = some u → ∀ e ∈ d.unitParts p f u,
      (p.op.fld 4 7 1 = 1 → ((d.setParts p f).core c).exact.get 0 e.1 = e.2) ∧
      (p.op.fld 4 7 1 ≠ 1 → p.op.opcode = 0x40 → ((d.setParts p f).core c).acc.get 0 e.1 = e.2)) ∧
  (∀ (s : State) (c : Instr) (d : Dev) (p : Place) (r q : Mio × Mat) (b : Mio × (Nat → Mat)) (f : Nat) (x : List (List OutElem) × Mat)
    (imm : Machine.Num), s.Enters c d p → p.op.opcode = 0x48 → r = (d.io p).source (d.agent p) p 0 (d.elementCore p) →
    f = p.op.fld 4 4 1 → imm = fp32.decode (p.op.fld 4 0 4) → b = r.1.sourceBy (d.agent p) p 1 →
    ((vecBinary (f % 64) = true ∧ q = (b.1, r.2) ∧
        x = d.elemsOut p r.2.rows r.2.cols (p.op.fld 4 6 1)
          (fun i _ => r.2.rowPoison i || (d.src2Rows p (f / 64) r.2.rows r.2.cols b.2).getD i false)
          (fun i j => vecElement (f % 64) (p.op.fld 4 6 1) (r.2.wide i j) (src2At (f / 64) (b.2 (d.elementCore p i j)) i j) imm)) ∨
      (vecBinary (f % 64) = false ∧ q = r ∧ x = d.elemsOut p r.2.rows r.2.cols (p.op.fld 4 6 1) (fun i _ => r.2.rowPoison i)
        (fun i j => vecElement (f % 64) (p.op.fld 4 6 1) (r.2.wide i j) .zero imm))) →
    q.1.delivers (p.op.ref 2) (q.1.written d p 2 x.2) ∨
      d.Supplies p 0 ∧ (vecBinary (f % 64) = true → d.Supplies p 1) ∧ d.Accepts p 2 →
    d.WorkOnly q.1.dev ∧ ∃ t y, exec c s = .next t ∧ Delivered q.1 p 2 x.2 (q.1.written d p 2 x.2) t.dev y ∧ p.Shows y x.1) ∧
  (∀ (d : Dev) (p : Place) (shape rows cols i : Nat) (y : Nat → Mat), p.inPads 1 = false → i < rows →
    (d.src2Rows p shape rows cols y).getD i false = (y 0).rowPoison (if shape = 1 then 0 else i)) ∧
  (∀ (s : State) (c : Instr) (d : Dev) (p : Place) (r : Mio × Mat) (x : List (List OutElem) × Mat), s.Enters c d p → p.op.opcode = 0x49 →
    r = (d.io p).source (d.agent p) p 0 (d.elementCore p) →
    ((p.op.fld 4 1 1 = 0 ∧ x = d.elemsOut p r.2.rows 1 (p.op.fld 4 3 1) (fun i _ => r.2.rowPoison i)
        (fun i _ => reduceElement (p.op.fld 4 0 1) (p.op.fld 4 3 1) ((List.range r.2.cols).map fun c => r.2.wide i c))) ∨
      (p.op.fld 4 1 1 ≠ 0 ∧ x = d.elemsOut p 1 r.2.cols (p.op.fld 4 3 1) (fun _ _ => r.2.anyPoison)
        (fun _ j => reduceElement (p.op.fld 4 0 1) (p.op.fld 4 3 1) ((List.range r.2.rows).map fun k => r.2.wide k j)))) →
    r.1.delivers (p.op.ref 2) (r.1.written d p 2 x.2) ∨ d.Supplies p 0 ∧ d.Accepts p 2 →
    d.WorkOnly r.1.dev ∧ ∃ t q, exec c s = .next t ∧ Delivered r.1 p 2 x.2 (r.1.written d p 2 x.2) t.dev q ∧ p.Shows q x.1) ∧
  (∀ (s : State) (c : Instr) (d : Dev) (p : Place) (r : Mio × Mat) (v : Nat × Bool), s.Enters c d p → p.op.opcode = 0x50 →
    p.failed = [] → r = (d.io p).source (d.agent p) p 0 (d.elementCore p) → r.1.done ∨ d.Supplies p 0 →
    v = summaryValue (p.op.fld 4 0 1) (p.op.fld 1 0 4) r.2 →
    ∃ t q, exec c s = .next t ∧ t.dev.place p.id = some q ∧ q.phase = .finished ∧ q.status = p.status ∧
      q.summary = some (p.op.fld 4 2 1, v.1) ∧ q.flags.overflow = (p.flags.overflow || v.2) ∧
      q.flags.poisoned = (p.flags.poisoned || r.2.anyPoison) ∧ (∃ e, d.WorkOnly e ∧ t.dev = { e with board := t.dev.board })) ∧
  (∀ (k th : Nat) (x : Mat), x.anyPoison = true →
    summaryValue k th x = (if k = 0 ∨ k = 1 then 0x7FC00000 else 0xFFFFFFFFFFFFFFFF, false)) ∧
  (∀ (s : State) (i : Nat) (c : Instr) (d : Dev) (p : Place),
    (c = .matmul i ∧ s.dev.enters i (·.opcode == 0x40) = some (d, p)) ∨ (c = .gemv i ∧ s.dev.enters i (·.opcode == 0x41) = some (d, p)) →
    p.inputsReady = true → p.combineFreed = false → p.combineHeld = false → d.fullBuffers p ≠ [] →
    (∀ f ∈ d.fullBuffers p, f.2.2.length = 16) ∧ ∃ t q, exec c s = .next t ∧ t.dev.place i = some q ∧ q.stall = .routeCredit ∧
      q.combineHeld = true ∧ q.phase = p.phase ∧ t.dev.mem = d.mem ∧ t.dev.rings = d.rings ∧ t.dev.routes = d.routes ∧
      (∀ f ∈ d.fullBuffers p, (t.dev.core f.1).combine ≠ [])) ∧
  (∀ (s : State) (i : Nat) (p : Place), s.dev.place i = some p →
    (p.combineHeld = true → ∃ t q, exec (.combineBufferSpaceFreed i) s = .next t ∧ t.dev.place i = some q ∧ q.stall = .none ∧
      q.combineFreed = true ∧ q.phase = p.phase ∧ t.dev.mem = s.dev.mem ∧ t.dev.rings = s.dev.rings ∧ t.dev.routes = s.dev.routes ∧
      (∀ c ∈ s.dev.opCores p, ∀ e ∈ (t.dev.core c).combine, e.1 ≠ i)) ∧
    (p.combineHeld = false → exec (.combineBufferSpaceFreed i) s = .next s)) ∧
  (∀ (d : Dev) (p : Place) (rows cols fmt : Nat) (po : Nat → Nat → Bool) (f : Nat → Nat → OutElem) (x : List (List OutElem) × Mat) (r c : Nat),
    x = d.elemsOut p rows cols fmt po f → r < rows → c < cols → p.failed = [] →
    x.2.rows = rows ∧ x.2.cols = cols ∧ x.2.fmt = fmt ∧ x.2.code r c = (if po r (c / 64) then 0 else (f r c).code) ∧
      x.2.poisonAt r (c / 64) = po r (c / 64)) ∧
  (∀ (w mode : Nat) (split : Bool) (xs ys : List (Elem × Elem)), xs.length % 64 = 0 → ys ≠ [] → ys.length ≤ 64 →
    normalSum w mode split (xs ++ ys) =
      (normalSum w mode split xs).addPart (normalPart w mode split ys (xs.length / 64)) (xs.length / 64)) ∧
  (∀ (a p : Acc) (kb : Nat), (a.addPart p kb).value = (rne32 (a.value.add p.value)).1.plusZero) ∧
  (∀ (ps : List (Machine.Num × Machine.Num)) (w : Nat),
    (∃ p ∈ ps, p.1.isZero = true ∧ p.2.isInf = true ∨ p.1.isInf = true ∧ p.2.isZero = true) → groupValue w ps = (.nan, true, false)) ∧
  (∀ (f : Nat) (y imm : Machine.Num), 0x10 ≤ f ∧ f ≤ 0x15 → vecFunc f .nan y imm = ⟨.nan, false, false⟩) ∧
  (∀ (f m : Nat) (e : Int) (y imm : Machine.Num), f = 0x11 ∨ f = 0x12 → 0 < m → vecFunc f (.fin true m e) y imm = ⟨.nan, true, false⟩)

/-- QUANTIZE, widening and DEQUANTIZE (R257, R294, R312 to R318, R321, R322, R324, R327 to R329): a segment's shift is the least that fits its largest
finite magnitude into Q, capped, and HEADROOM where it would exceed it; integer codes are clamped to the format. With a memory DST the codes and
then the shifts are written; with a stream, each data tile goes with its scale tile of the same SEQUENCE. The ring counts what was
crushed, clamped or widened. The partner of a widening pair computes, keeps its result until the QUANTIZE has retired, and sends it then;
where a segment exceeded its headroom only its re-run sends, from the kept BF16 segments and a second read of B. What a widening pair keeps beyond
BF16's largest finite value sets OVERFLOW (log 92). -/
def Obligations.Quantisation : Prop :=
  (∀ (s : State) (i : Nat) (d : Dev) (p : Place) (r : Mio × Mat) (x y : Mat) (segs : List (List (Option SegOut))) (gs : List SegOut) (m : Mio),
    s.dev.enters i (·.opcode == 0x4A) = some (d, p) → p.inputsReady = true → p.failed = [] →
    r = (d.io p).source (d.agent p) p 0 (d.elementCore p) →
    x = { r.2 with poison := (List.range r.2.rows).map fun i => (List.range r.2.blocks).map fun _ => r.2.rowPoison i } →
    segs = quantRows (p.op.fld 4 3 1) (sbyte (p.op.fld 4 0 1)) x → gs = segsOf segs → y = quantMat (p.op.fld 4 3 1) x segs →
    m = (if (p.op.ref 2).kind = 1 then r.1 else
      (r.1.writeMat (d.agent p) (p.op.ref 2) (rowBytes y.fmt y.cols) y).write (d.agent p) (p.op.ref 2)
        (shiftBase (p.op.ref 2).addr y.fmt y.rows y.cols) y.shiftArray.1 y.shiftArray.2) →
    m.done ∨ d.Supplies p 0 ∧ ((p.op.ref 2).kind = 1 ∨ d.Calm ∧
      (∀ k, k < (p.op.shape 2).1 → d.Writes p.ctxIx ((p.op.ref 2).addr + k * rowBytes y.fmt (p.op.shape 2).2.1) (rowBytes y.fmt (p.op.shape 2).2.1)) ∧
      d.Writes p.ctxIx (shiftBase (p.op.ref 2).addr y.fmt (p.op.shape 2).1 (p.op.shape 2).2.1) ((p.op.shape 2).1 * ceilDiv (p.op.shape 2).2.1 64)) →
    d.WorkOnly m.dev ∧ ∃ t q, exec (.quantize i) s = .next t ∧ t.dev.place i = some q ∧ q.phase = .finished ∧ q.status = p.status ∧
      q.flags.crushed = (p.flags.crushed || gs.any fun g => decide (0 < g.crushed)) ∧
      q.flags.overflow = (p.flags.overflow || (gs.any fun g => g.capped || (g.exceeds && !p.op.widens)) || (p.op.widens && x.keepOverflows)) ∧
      q.flags.widened = (p.flags.widened || (p.op.widens && gs.any (·.exceeds))) ∧
      q.flags.poisoned = (p.flags.poisoned || x.anyPoison) ∧ q.offender = quantOffender segs ∧
      t.dev.ring p.ring = (d.ring p.ring).countQuant p.op.widens gs ∧ (∀ k, k ≠ p.ring → t.dev.ring k = d.ring k) ∧
      t.dev.mem = m.dev.mem ∧ t.dev.cache = m.dev.cache ∧
      (∀ a ts us, (p.op.ref 2).kind = 1 → ts = y.tiles (p.op.ref 2).addr p.op.seqBase 2 → us = y.scaleTiles (p.op.ref 2).addr p.op.seqBase →
        (a ∈ ts ∨ a ∈ us) → a ∈ q.unsent ∨ ∃ g ∈ t.dev.routes, ∃ z ∈ g.queue, z.tile = a) ∧
      (∀ k u, p.partner = some k → k ≠ i → d.place k = some u →
        ∃ v, t.dev.place k = some v ∧ v.exceeded = (if p.op.widens then exceededOf gs else 0) ∧ v.phase = u.phase)) ∧
  (∀ (y : Mat) (stream base k : Nat) (t u : Tile), (y.tiles stream base 2)[k]? = some t → (y.scaleTiles stream base)[k]? = some u →
    t.shiftMode = 2 ∧ t.shift = 0 ∧ u.format = 10 ∧ u.cols = 1 ∧ u.shiftMode = 0 ∧ u.rows = t.rows ∧ u.sequence = t.sequence ∧
      u.stream = t.stream + 2 ^ 31 ∧ t.stream = stream) ∧
  (∀ (m k : Nat) (e e' s : Int) (x q : Machine.Num), 0 < m → 0 < k → x = .fin false m e → q = .fin false k e' → s = leastShift x q →
    Machine.Num.cmp x (q.shift s) ≤ 0 ∧ 0 < Machine.Num.cmp x (q.shift (s - 1))) ∧
  (∀ (out : Nat) (h : Int) (xs : List Machine.Num) (m : Machine.Num) (s0 s1 : Int), m = quantMax out xs →
    s0 = (if m.isZero then 0 else leastShift m (quantBound out)) → s1 = max (min s0 127) (-128) →
    (m.isZero = false → (quantSegment out h xs).shift = if h < s1 then h else s1) ∧ (quantSegment out h xs).exceeds = decide (h < s1) ∧
      (quantSegment out h xs).capped = decide (127 < s0) ∧
      ((∀ x ∈ xs, x.isZero = true ∨ x.isFinite = false) → (quantSegment out h xs).shift = 0)) ∧
  (∀ (s : Int) (x : Machine.Num),
    signed 8 (quantCode 6 s x) = max (-127) (min 127 (roundInt (x.shift (-s)))) ∧
    signed 4 (quantCode 7 s x) = max (-7) (min 7 (roundInt (x.shift (-s)))) ∧
    (quantCode 8 s x : Int) = max 0 (min 255 (roundInt (x.shift (-s))))) ∧
  (∀ (s : State) (c : Instr) (d : Dev) (p : Place) (r : Mio × Factors) (m : Mio) (x : List (List OutElem) × Mat), s.Enters c d p →
    p.op.opcode = 0x40 ∨ p.op.opcode = 0x41 → p.partner ≠ none → p.result = none → r = d.readFactors p →
    m = { r.1 with dev := r.1.dev.setParts p r.2 } → x = d.product p r.2 →
    m.done ∨ d.Supplies p 0 ∧ d.Supplies p 1 →
    ∃ t q, exec c s = .next t ∧ t.dev.place p.id = some q ∧ q.phase = p.phase ∧ q.status = p.status ∧
      q.result = some ⟨x.2.codes, x.2.poison⟩ ∧ p.Shows q x.1 ∧ t.dev.routes = d.routes ∧ t.dev.mem = m.dev.mem ∧
      t.dev.rings = d.rings) ∧
  (∀ (s : State) (c : Instr) (d : Dev) (p : Place) (k : KeptResult), s.Enters c d p → p.op.opcode = 0x40 ∨ p.op.opcode = 0x41 →
    p.partner ≠ none → p.result = some k →
    (d.pairOpen p = true ∨ 0 < p.exceeded → exec c s = .next { s with dev := d }) ∧
    (∀ (x : Mat) (m : Mio), d.pairOpen p = false → p.exceeded = 0 → m = { dev := d } →
      x = ⟨p.op.fld 4 6 1, p.op.fld 3 0 4, p.op.fld 4 0 4, k.codes, [], k.poison⟩ →
      m.delivers (p.op.ref 2) (m.written d p 2 x) ∨ (∀ r, r < x.rows → (x.codes.getD r []).length = x.cols) ∧ d.Accepts p 2 →
      ∃ t q, exec c s = .next t ∧ Delivered m p 2 x (m.written d p 2 x) t.dev q ∧ q.result = none ∧ q.offender = p.offender)) ∧
  (∀ (s : State) (i : Nat) (d : Dev) (p : Place) (b : Mio × (Nat → Mat)) (m : Mio) (f : Factors) (x : List (List OutElem) × Mat),
    s.dev.enters i (fun o => o.opcode == 0x40 || o.opcode == 0x41) = some (d, p) → p.inputsReady = true → d.pairOpen p = false →
    p.exceeded ≠ 0 → p.result ≠ none → b = ({ dev := d } : Mio).readB (d.agent p) p →
    f = { a := fun _ => p.keptMat, b := b.2, bf := true } → m = { b.1 with dev := b.1.dev.setParts p f } →
    x = d.elemsOut p (p.op.fld 3 0 4) (p.op.fld 4 0 4) (p.op.fld 4 6 1)
      (fun i j => (d.poisonOf p f).1.getD i false || (d.poisonOf p f).2.getD j false) (fun i j =>
      dotElement 4 4 (p.op.fld 4 6 1) (p.op.fld 4 7 1) ((List.range (p.op.fld 3 4 4)).map fun k =>
        (p.keptMat.elem i k, (⟨((b.2 (d.unitCore p (p.op.blockOf i j) (k / 64))).elem k j).value, 0⟩ : Elem)))) →
    m.delivers (p.op.ref 2) (m.written d p 2 x.2) ∨ d.Supplies p 1 ∧ d.Accepts p 2 →
    ∃ t q, exec (.wideningRerun i) s = .next t ∧ Delivered m p 2 x.2 (m.written d p 2 x.2) t.dev q ∧ q.flags.widened = true ∧ q.kept = [] ∧
      q.result = none ∧ q.offender = (p.offender <|> offenderOf x.1)) ∧
  (∀ (s : State) (c : Instr) (d : Dev) (p : Place) (r : Mio × Mat) (x : List (List OutElem) × Mat), s.Enters c d p → p.op.opcode = 0x4B →
    r = (if paysFor p.payload 0 || (p.op.ref 0).kind == 0 then (d.io p).readQuantised (d.agent p) p
      else (d.io p).source (d.agent p) p 0 (d.elementCore p)) →
    x = d.elemsOut p r.2.rows r.2.cols (p.op.fld 4 3 1) (fun i _ => r.2.rowPoison i)
      (fun i j => dequantElement (p.op.fld 4 3 1) (r.2.elem i j).value) →
    r.1.delivers (p.op.ref 2) (r.1.written d p 2 x.2) ∨ d.Supplies p 0 ∧ d.Accepts p 2 ∧ ((p.inPads 0 = false ∧ (paysFor p.payload 0 = true ∨ (p.op.ref 0).kind = 0)) →
      d.Feeds p 0 (shiftBase 0 (p.op.shape 0).2.2 (p.op.shape 0).1 (p.op.shape 0).2.1) ((p.op.shape 0).1 * ceilDiv (p.op.shape 0).2.1 64)) →
    d.WorkOnly r.1.dev ∧ ∃ t q, exec c s = .next t ∧ Delivered r.1 p 2 x.2 (r.1.written d p 2 x.2) t.dev q ∧
      q.flags.overflow = (p.flags.overflow || (flagsOf x.1).overflow) ∧ q.flags.invalid = p.flags.invalid)


/-! ## Stored graphs, command buffers, checks and egress (03, 04, 12, 14) -/

/-- Stored graphs and command buffers (R97, R108, R109, R111 to R114, R164 to R166, R479). A PUBLISH keeps its body and makes its version when it retires;
one that fails a check, or finds no space, makes none. A LAUNCH pins a version, replaces its arguments and puts its body in the
scoreboard; without the version or an argument it is BAD_DESCRIPTOR. A command buffer is translated whole: RESULT names the first refused
record, and a refused buffer runs nothing; the operations of a record wait for the records that it names. A launch hands its acquire flag on to
its body: what that acquires leaves out the hints STREAM and KEEP and a segment default of KEEP. Body operations join their launch: flags are
the OR, the status the first in body order. -/
def Obligations.Graphs : Prop :=
  (∀ (s : State) (i n : Nat) (d e : Dev) (p : Place) (l : Layout) (r : Mio × List Byte × List Bool) (b : List (OpWord × Option Payload) × Bool)
    (good : Bool), s.dev.enters i (fun o => o.opcode == 0x7F && o.fld 0 2 1 == 1) = some (d, p) → d.layout = some l →
    e = d.pruneGraphs p.seat → n = p.op.fld 2 0 4 → r = (e.io p).readOperand (d.agent p) p 1 0 (64 * n) →
    r.1.done ∨ d.Calm ∧ d.Feeds p 1 0 (64 * n) →
    b = bodyOps n (entriesOf r.2.1) → good = (b.2 && bodyGood l p.seat p.ring b.1) →
    ∃ t q, exec (.launchGraphPublish i) s = .next t ∧ t.dev.place i = some q ∧ q.phase = .finished ∧
      (t.dev.seat p.seat).graphs = (e.seat p.seat).graphs ∧ (t.dev.seat p.seat).graphCount = (d.seat p.seat).graphCount ∧
      t.dev.rings = d.rings ∧
      (good = false → q.status = .badDescriptor) ∧
      (good = true → (d.seatRec p.seat).store < r.1.dev.storeUsed p.seat + 64 * (n + 1) → q.status = .noSpace) ∧
      (good = true → r.1.dev.storeUsed p.seat + 64 * (n + 1) ≤ (d.seatRec p.seat).store → q.status = p.status ∧ q.body = bodyOf b.1)) ∧
  (∀ (d : Dev) (p : Place) (v : Nat), v = (d.seat p.seat).graphCount.get 0 (p.op.fld 0 0 2) + 1 →
    (∀ h ∈ (d.seat p.seat).graphs, h.graph = p.op.fld 0 0 2 → h.version < v) →
    ((d.publish p).seat p.seat).graphCount.get 0 (p.op.fld 0 0 2) = v ∧
      ∃ x ∈ ((d.publish p).seat p.seat).graphs, x.graph = p.op.fld 0 0 2 ∧ x.version = v ∧ x.body = p.body.map (fun o => (o.op, o.payload)) ∧ x.live = true) ∧
  (∀ (d : Dev) (p : Place), ∀ x ∈ ((d.retireGraph p).seat p.seat).graphs, x.graph = p.op.fld 0 0 2 → x.live = false) ∧
  (∀ (d : Dev) (n g : Nat) (x : Graph), d.findVersion n g 0 = some x → x ∈ (d.seat n).graphs ∧ x.graph = g ∧ x.live = true ∧ x.since ≠ d.slow ∧
    ∀ y ∈ (d.seat n).graphs, y.graph = g → y.live = true → y.since ≠ d.slow → y.version ≤ x.version) ∧
  (∀ (d : Dev) (n g v : Nat) (x : Graph), v ≠ 0 → d.findVersion n g v = some x →
    x ∈ (d.seat n).graphs ∧ x.graph = g ∧ x.live = true ∧ x.version = v) ∧
  (∀ (s : State) (i : Nat) (d e : Dev) (p : Place), s.dev.enters i (fun o => o.opcode == 0x7F && o.fld 0 2 1 == 0) = some (d, p) →
    p.body = [] → p.bodyNext = 0 → p.pinned = none → e = d.pruneGraphs p.seat →
    (e.findVersion p.seat (p.op.fld 0 0 2) (p.op.fld 0 4 4) = none →
      exec (.launchGraphLaunch i) s = .next { s with dev := e.updPlace i (·.fail .badDescriptor) }) ∧
    (∀ (g : Graph) (n : Nat) (f : Dev) (r : Mio × List Byte × List Bool) (args : List Nat),
      e.findVersion p.seat (p.op.fld 0 0 2) (p.op.fld 0 4 4) = some g → n = p.op.fld 2 0 4 →
      f = e.updPlace i (fun q => { q with pinned := some (g.graph, g.version) }) →
      r = (if n = 0 then (({ dev := f } : Mio), ([], [])) else
        (f.io p).readOperand (f.agent p) p 1 0 (8 * n)) → r.1.done ∨ n = 0 ∨ d.Calm ∧ d.Feeds p 1 0 (8 * n) →
      args = (List.range n).map (fun k => field r.2.1 (8 * k) 8) →
      ((∃ o ∈ g.body, ∃ w ∈ o.1.argRefs o.2, n ≤ (o.1.ref w).addr) →
        ∃ t q, exec (.launchGraphLaunch i) s = .next t ∧ t.dev.place i = some q ∧ q.phase = .finished ∧ q.status = .badDescriptor ∧
          q.pinned = none ∧ t.dev.board.length = d.board.length) ∧
      ((∀ o ∈ g.body, ∀ w ∈ o.1.argRefs o.2, (o.1.ref w).addr < n) → p.phase = .running →
        ∃ t q, exec (.launchGraphLaunch i) s = .next t ∧ t.dev.place i = some q ∧ q.phase = .running ∧ q.status = p.status ∧
          q.pinned = some (g.graph, g.version) ∧ q.bodyNext + q.body.length = g.body.length ∧ t.dev.rings = d.rings ∧
          q.body = (bodyOf (g.body.map fun o => (o.1.substArgs o.2 args, o.2))).drop q.bodyNext ∧ t.dev.mem = r.1.dev.mem))) ∧
  (∀ (s : State) (i : Nat) (d : Dev) (p : Place), s.dev.enters i (fun o => o.opcode == 0x7F && o.fld 0 2 1 == 2) = some (d, p) →
    exec (.launchGraphRetire i) s = .next { s with dev := d.updPlace i Place.finish }) ∧
  (∀ (s : State) (i : Nat) (d : Dev) (p : Place), s.dev.enters i (·.opcode == 0x7E) = some (d, p) → p.body = [] → p.bodyNext = 0 →
    ∃ t q, exec (.runCmdbuf i) s = .next t ∧ t.dev.place i = some q ∧ q.phase = p.phase ∧ q.stall = .cmdbuf ∧ t.dev.mem = d.mem ∧
      t.dev.rings = d.rings) ∧
  (∀ (s : State) (i : Nat) (p : Place) (r : Mio × List Byte × List Bool) (m : Mio) (result : Nat), s.dev.place i = some p →
    p.op.opcode = 0x7E → p.phase = .running → p.body = [] → p.bodyNext = 0 →
    r = (s.dev.io p).readOperand (s.dev.agent p) p 0 0 (p.op.word 1) →
    result = (match cmdbufOps r.2.1 with | .ok _ => 0xFFFFFFFF | .error k => k) →
    m = (if paysFor p.payload 0 || r.1.short then r.1 else
      r.1.write (s.dev.agent p) (p.op.ref 0) ((p.op.ref 0).addr + 12) (leBytes 4 result) [false, false, false, false]) →
    m.done ∨ s.dev.Calm ∧ s.dev.Feeds p 0 0 (p.op.word 1) ∧
      (paysFor p.payload 0 = true ∨ s.dev.Writes p.ctxIx ((p.op.ref 0).addr + 12) 4) →
    ∃ t q, exec (.cmdbufTranslated i) s = .next t ∧ t.dev.place i = some q ∧ t.dev.mem = m.dev.mem ∧ t.dev.rings = s.dev.rings ∧
      (∀ k, cmdbufOps r.2.1 = .error k → q.phase = .finished ∧ q.status = .cmdbufError ∧ t.dev.board.length = s.dev.board.length) ∧
      (cmdbufOps r.2.1 = .ok [] → q.phase = .finished ∧ q.status = p.status) ∧
      (∀ ops, cmdbufOps r.2.1 = .ok ops → ops ≠ [] → q.phase = .running ∧ q.status = p.status ∧
        q.bodyNext + q.body.length = ops.length ∧ q.body = ops.drop q.bodyNext)) ∧
  (∀ b : List Byte, cmdbufHeader b = false → cmdbufOps b = .error 0xFFFFFFFE) ∧
  (∀ (recs : List (List Byte)) (ix k : Nat) (gone : Nat → List Nat), translateAll ix recs gone = .error k →
    ∃ j b, recs[j]? = some b ∧ k = ix + j ∧ (∀ g, translateRecord k b g = none) ∧
      ∀ j' b', j' < j → recs[j']? = some b' → ∀ g, translateRecord (ix + j') b' g ≠ none) ∧
  (∀ (ix : Nat) (b : List Byte) (gone : Nat → List Nat) (ops : List BodyOp), translateRecord ix b gone = some ops →
    dependsOk ix (field b 2 2) = true ∧ ∀ o ∈ ops, o.index = ix ∧ ∀ k, k ∈ o.needs ↔
      ∃ i < 16, (field b 2 2).testBit i = true ∧ k ∈ gone (ix - 1 - i)) ∧
  (∀ (d : Dev) (p : Place) (o : BodyOp) (ix : Nat) (good skip : Bool), (d.bodyPlace p o ix good skip).op = o.op ∧
    (d.bodyPlace p o ix good skip).parent = some p.id ∧ (d.bodyPlace p o ix good skip).needs = o.needs ∧
    (d.bodyPlace p o ix good skip).acquire = (p.op.opcode == 0x7F && p.op.acquires)) ∧
  (∀ (d : Dev) (p : Place) (w : Nat), d.acquiresRef p w = true ↔ p.op.has p.payload w = true ∧ paysFor p.payload w = false ∧
    (p.op.ref w).kind = 0 ∧ (p.op.acquires = true ∨ p.acquire = true ∧ ((p.op.ref w).hint = 3 ∨ (p.op.ref w).hint = 0 ∧
      ¬ ∃ g, (d.ctx p.ctxIx).covering (p.op.ref w).addr = some g ∧ g.2.hint = 2))) ∧
  (∀ q c : Place, (q.absorb c).flags = q.flags.or c.flags ∧ (q.absorb c).phase = q.phase ∧
    (c.status ≠ .ok → q.statusIx = none → (q.absorb c).status = c.status ∧ (q.absorb c).statusIx = some c.bodyIx) ∧
    (∀ k, q.statusIx = some k → k < c.bodyIx → (q.absorb c).status = q.status ∧ (q.absorb c).statusIx = some k) ∧
    (∀ k, q.statusIx = some k → c.bodyIx < k → c.status ≠ .ok → (q.absorb c).status = c.status ∧ (q.absorb c).statusIx = some c.bodyIx) ∧
    (c.status = .ok → (q.absorb c).status = q.status))

/-- CHECK and EGRESS (R431 to R433, R437, R480, R489 to R492). A CHECK gives DEST its value, sets POISONED where it read poisoned atoms, and where
its comparison fails counts CHK_SEAT_MISMATCHES and sets the seat's MISMATCH leaf, with its status as it was. An EGRESS leaves as posted
writes of its seat in ascending order, none longer than the maximum payload size or over a 4 KiB boundary; its bytes are metered. With the
host gone it ends in HOST_LOST and writes nothing; one that meets a BAR outside its own page is BAD_DESCRIPTOR. -/
def Obligations.ChecksAndEgress : Prop :=
  (∀ (s : State) (i : Nat) (d : Dev) (p : Place) (pick : Line → Bool), s.dev.enters i (·.opcode == 0x70) = some (d, p) →
    pick = (fun l => !paysFor p.payload 0 && d.rangeLines p.ctxIx (p.op.ref 0).addr (p.op.word 1) l) →
    (∀ l, d.stuckLine pick = some l → ∃ t q, exec (.check i) s = .next t ∧ t.dev.place i = some q ∧ q.phase = p.phase ∧
      q.stall = d.blockStall (64 * l.atom) ∧ t.dev.mem = d.mem ∧ t.dev.cache = d.cache) ∧
    (∀ (r : Mio × List Byte × Bool) (v : Nat), d.stuckLine pick = none →
      r = ((d.io p).flush pick).unitRead (d.agent p) p (p.op.word 1) →
      r.1.done ∨ d.Calm ∧ d.Feeds p 0 0 (p.op.word 1) →
      v = (crcKind (p.op.fld 4 0 1)).value (p.op.word 2)
        (if (p.op.fld 4 1 1).testBit 1 then foldOf ((p.op.ref 0).addr / 64) 0 else 0) r.2.1 →
      ∃ t q, exec (.check i) s = .next t ∧ t.dev.place i = some q ∧ q.phase = .finished ∧ q.status = p.status ∧
        q.flags.poisoned = (p.flags.poisoned || r.2.2) ∧
        q.dest = (if p.op.word 5 = 0 then none else some ⟨(p.op.ref 5).addr, leBytes 8 v⟩) ∧ t.dev.mem = r.1.dev.mem ∧
        t.dev.rings = d.rings ∧
        ((p.op.fld 4 1 1).testBit 0 = true → v ≠ p.op.word 3 →
          t.dev.chk.mismatches = satInc32 d.chk.mismatches 1 ∧ (t.dev.leaf (.vfChk p.seat)).testBit 0 = true ∧
          (t.dev.seat p.seat).chkRing = (d.ringRec p.ring).localIx) ∧
        ((p.op.fld 4 1 1).testBit 0 = false ∨ v = p.op.word 3 → t.dev.chk.mismatches = d.chk.mismatches))) ∧
  (∀ (s : State) (i : Nat) (parity : Bool) (d : Dev) (p : Place), s.dev.enters i (·.opcode == 0x80) = some (d, p) →
    (d.inBars (p.op.word 1) (p.op.word 2) = true → d.ownPage p.seat (p.op.word 1) (p.op.word 2) = none →
      exec (.egress i parity) s = .next { s with dev := d.updPlace i (·.fail .badDescriptor) }) ∧
    (d.inBars (p.op.word 1) (p.op.word 2) = false → d.hostGone p.seat = true ∨ (d.ring p.ring).state = .hostLost →
      ∃ t q, exec (.egress i parity) s = .next t ∧ t.dev.place i = some q ∧ q.phase = .finished ∧ q.status = .hostLost ∧
        t.dev.out = d.out ∧ (t.dev.ring p.ring).state = .hostLost ∧ t.dev.mem = d.mem) ∧
    (∀ (r : Mio × List Byte × List Bool) (po : List Bool),
      d.hostGone p.seat = false → (d.ring p.ring).state ≠ .hostLost →
      r = (d.io p).flat (d.agent p) p 0 (p.op.word 2) →
      r.1.done ∨ p.inPads 0 = true ∨ d.Calm ∧ d.Feeds p 0 0 (p.op.word 2) →
      po = (if parity then true :: r.2.2.drop 1 else r.2.2) →
      (d.inBars (p.op.word 1) (p.op.word 2) = false →
        ∃ t q, exec (.egress i parity) s = .next t ∧ t.dev.place i = some q ∧ q.phase = .finished ∧ q.status = p.status ∧
          q.flags.poisoned = (p.flags.poisoned || po.any id) ∧
          t.dev.out = d.out ++ (egressPieces d.glb.maxPayload r.2.1.length (p.op.word 1) r.2.1 po).map (fun w => .hostWrite p.seat w.1 w.2.1 w.2.2) ∧
          (t.dev.ctx p.ctxIx).meter.egress = ((d.ctx p.ctxIx).meter.egress + p.op.word 2) % 2 ^ 64 ∧ t.dev.mem = r.1.dev.mem ∧
          (parity = true → t.dev.chk.parity = satInc32 r.1.dev.chk.parity 1 ∧ (t.dev.leaf .chk).testBit 0 = true) ∧
          (parity = false → t.dev.chk = r.1.dev.chk) ∧ t.dev.rings = d.rings) ∧
      (∀ off, d.inBars (p.op.word 1) (p.op.word 2) = true → d.ownPage p.seat (p.op.word 1) (p.op.word 2) = some off → 0x9000 ≤ off →
        off % 8 = 0 → r.2.1.length = 8 →
        ∃ t q, exec (.egress i parity) s = .next t ∧ t.dev.place i = some q ∧ q.phase = .finished ∧ q.status = p.status ∧
          (t.dev.seat p.seat).mailBytes (off - 0x9000) 8 = r.2.1 ∧ t.dev.out = d.out))) ∧
  (∀ (mps a : Nat) (bs : List Byte) (po : List Bool) (ps : List (Nat × List Byte × Bool)), ps = egressPieces mps bs.length a bs po →
    ps.flatMap (fun w => w.2.1) = bs ∧ ∀ w ∈ ps, w.2.1 ≠ [] ∧ w.2.1.length ≤ max mps 1 ∧ w.1 / 4096 = (w.1 + w.2.1.length - 1) / 4096) ∧
  (∀ (k : CrcKind) (seed fold : Nat) (as bs : List Byte),
    k.value seed fold (as ++ bs) = k.run (k.run (k.init seed fold) as) bs ^^^ k.final)


/-! ## The cascade (13) -/

/-- EXCHANGE, ALL_TO_ALL and STEP_TOKEN (R246 to R248, R453 to R457, R460, R463 to R471, R474, R475). A message leaves once its module is reached by an
UP port that has the credits, with at most 4 data messages of its pair unanswered; it takes the next XSEQ and its CHECK, and the operation waits for its
XACK. A module that cannot be reached ends the operation with PEER_ERROR. An ALL_TO_ALL numbers itself, copies its own block and sends one block to every
other member. ISSUE waits for every member's response for the step before, and puts up to 16 decisions in its token: COMMIT where every member
reported prepared, ABORT where all reported and one did not, and after a restart those of the commit log and ABORT for what else a member
reports prepared. AWAIT takes one of the tokens it holds, or waits for the next; RESPOND reports. The highest epoch held in full rises with
the tokens of which this module holds every trick (R249). A STEP outside its range is BAD_DESCRIPTOR. By how much the cascade epoch rises
is a free value (log 44). -/
def Obligations.CascadeOperations : Prop :=
  (∀ (d : Dev) (i port x : Nat) (p : Place) (e : Nat × Nat) (r : Mio × QMessage), d.place i = some p → e ∈ p.unsentMsgs →
    d.reaches e.1 = some port → (dataClass p.op.sendsKind = true → d.pairBusy e.1 < 4) →
    r = ({ dev := d } : Mio).entryMessage (d.agent p) p e → r.1.waits = false → r.1.fault = false → (d.port port).takes r.2 = true →
    (dataClass r.2.kind = true ∨ (d.port port).outbox = []) → x = d.qlk.xsend.get 0 e.1 → r.2.dst = e.1 ∧
    ∃ q m, (d.sendEntry i e).place i = some q ∧ q.unsentMsgs = p.unsentMsgs.erase e ∧ q.status = p.status ∧ q.phase = p.phase ∧
      q.unacked = p.unacked ++ (if r.2.kind = 3 then [] else [(e.1, x)]) ∧ (d.sendEntry i e).out = d.out ++ [.message port m] ∧
      m = { r.2 with xseq := x, check := m.check } ∧ m.check = m.checkOf ∧ (d.sendEntry i e).qlk.xsend.get 0 e.1 = (x + 1) % 2 ^ 32 ∧
      ((d.sendEntry i e).port port).txSeq = ((d.port port).txSeq + flitsOf r.2.body.length) % 4096) ∧
  (∀ (d : Dev) (i : Nat) (p : Place) (e : Nat × Nat), d.place i = some p → e ∈ p.unsentMsgs → d.reaches e.1 = none → p.op.opcode ≠ 0x62 →
    d.sendEntry i e = d.updPlace i Place.peerError) ∧
  (∀ (s : State) (i n peer : Nat) (d a : Dev) (p : Place), s.dev.enters i (·.opcode == 0x60) = some (d, p) → p.inputsReady = true →
    a = (d.io p).dev → n = (if p.exchangesStream then p.exchangeTiles.length else ceilDiv (p.op.word 2) 65536) → peer = p.op.fld 3 0 2 →
    (d.reaches peer = none → n ≠ 0 → p.status = .ok →
      ∃ t q, exec (.exchange i) s = .next t ∧ t.dev.place i = some q ∧ q.phase = .finished ∧ q.status = .peerError ∧ q.unsentMsgs = [] ∧
        t.dev.out = d.out ∧ t.dev.mem = a.mem) ∧
    (∀ port, d.reaches peer = some port → 4 ≤ d.pairBusy peer → n ≠ 0 →
      ∃ t q, exec (.exchange i) s = .next t ∧ t.dev.place i = some q ∧ q.phase = .finished ∧ q.status = p.status ∧ q.stall = .peer ∧
        q.unsentMsgs = (List.range n).map (fun k => (peer, k)) ∧ t.dev.out = d.out ∧ t.dev.mem = a.mem) ∧
    (∀ port e q r, n = 1 → d.reaches peer = some port → d.pairBusy peer < 4 →
      e = (a.updPlace i fun q => { q.finish with unsentMsgs := [(peer, 0)] }).stallPlace p .peer → e.place i = some q →
      r = ({ dev := e } : Mio).entryMessage (e.agent q) q (peer, 0) →
      r.1.waits = false ∧ r.1.fault = false ∨ p.exchangesStream = true ∨ p.inPads 0 = true ∨ d.Calm ∧ d.Feeds p 0 0 (min 65536 (p.op.word 2)) →
      (d.port port).takes r.2 = true → r.2.kind = 1 ∧
      ∃ t u m, exec (.exchange i) s = .next t ∧ t.dev.place i = some u ∧ u.phase = .finished ∧ u.status = p.status ∧ u.unsentMsgs = [] ∧
        u.unacked = p.unacked ++ [(peer, d.qlk.xsend.get 0 peer)] ∧ t.dev.out = d.out ++ [.message port m] ∧
        m = { r.2 with xseq := d.qlk.xsend.get 0 peer, check := m.check } ∧ m.check = m.checkOf ∧ t.dev.rings = d.rings)) ∧
  (∀ (s : State) (i own b : Nat) (d e : Dev) (p : Place) (r : Mio × List Byte × List Bool) (m : Mio) (others : List (Nat × Nat)),
    s.dev.enters i (·.opcode == 0x61) = some (d, p) → p.coll = none → e = d.numberCollective p →
    b = p.op.word 2 → own = d.cascade.moduleIndex - p.op.fld 3 0 2 →
    r = (e.io p).readOperand (e.agent p) p 0 (own * b) b →
    m = r.1.write (e.agent p) (p.op.ref 1) ((p.op.ref 1).addr + own * b) r.2.1 r.2.2 →
    m.done ∨ d.Calm ∧ d.Feeds p 0 (own * b) b ∧ d.Writes p.ctxIx ((p.op.ref 1).addr + own * b) b →
    others = ((List.range (p.op.fld 3 2 2)).filter (· ≠ own)).map (fun j => (p.op.fld 3 0 2 + j, j)) →
    (∀ k ∈ others, d.reaches k.1 ≠ none ∧ 4 ≤ d.pairBusy k.1) →
    ∃ t q, exec (.allToAll i) s = .next t ∧ t.dev.place i = some q ∧ q.phase = .finished ∧ q.status = p.status ∧
      q.unsentMsgs = others ∧ q.coll = some (d.ctx (p.seat * 16 + p.ctx)).collectives ∧
      (t.dev.ctx (p.seat * 16 + p.ctx)).collectives = ((d.ctx (p.seat * 16 + p.ctx)).collectives + 1) % 2 ^ 32 ∧
      q.flags.poisoned = (p.flags.poisoned || r.2.2.any id) ∧ t.dev.mem = m.dev.mem ∧ t.dev.out = d.out) ∧
  (∀ (s : State) (i step ep : Nat) (d : Dev) (p : Place) (ds : List (Nat × Nat)) (others : List Nat),
    s.dev.enters i (fun o => o.opcode == 0x62 && o.fld 1 0 1 == 0) = some (d, p) → d.OnlyToken i → step = p.op.word 0 →
    ds = d.decisions → others = d.included.filter (· ≠ d.cascade.moduleIndex) →
    (step ≠ d.qlk.step + 1 → ∃ t q, exec (.stepTokenIssue i) s = .next t ∧ t.dev.place i = some q ∧ q.phase = .finished ∧
      q.status = .badDescriptor ∧ t.dev.qlk = d.qlk) ∧
    (step = d.qlk.step + 1 → (∃ m ∈ d.included, (d.member m).step ≠ some (step - 1)) →
      ∃ t q, exec (.stepTokenIssue i) s = .next t ∧ t.dev.place i = some q ∧ q.phase = .running ∧ q.stall = .peer ∧
        t.dev.qlk.step = d.qlk.step ∧ t.dev.out = d.out) ∧
    (step = d.qlk.step + 1 → (∀ m ∈ d.included, (d.member m).step = some (step - 1)) → others = [] →
      ds = [] ∨ d.logBlocked = false → ep = (if ds.any (·.2 == 1) then (d.qlk.epoch + 1 + Config.freeNat d.free) % 2 ^ 64 else d.qlk.epoch) →
      ∃ t q, exec (.stepTokenIssue i) s = .next t ∧ t.dev.place i = some q ∧ q.phase = .finished ∧ q.status = p.status ∧
        q.dest = (if p.op.word 2 = 0 then none else some ⟨(p.op.ref 2).addr, leBytes 8 ep⟩) ∧ t.dev.qlk.step = step ∧ t.dev.qlk.epoch = ep ∧
        d.tokenRec step ep ds ∈ t.dev.qlk.tokens ∧ t.dev.qlk.tokens.length ≤ max 16 d.qlk.tokens.length ∧ t.dev.qlk.restarted = false) ∧
    (step = d.qlk.step + 1 → (∀ m ∈ d.included, (d.member m).step = some (step - 1)) → ds ≠ [] → d.logBlocked = true →
      ∃ t q, exec (.stepTokenIssue i) s = .next t ∧ t.dev.place i = some q ∧ q.phase = .running ∧ q.stall = .thermal ∧
        t.dev.qlk = d.qlk ∧ t.dev.out = d.out)) ∧
  (∀ (s : State) (i step : Nat) (d : Dev) (p : Place), s.dev.enters i (fun o => o.opcode == 0x62 && o.fld 1 0 1 == 1) = some (d, p) →
    step = p.op.word 0 →
    (d.tokenOf step = none → step ≠ d.qlk.step + 1 →
      exec (.stepTokenAwait i) s = .next { s with dev := d.updPlace i (·.fail .badDescriptor) }) ∧
    (d.tokenOf step = none → step = d.qlk.step + 1 → ∃ t q, exec (.stepTokenAwait i) s = .next t ∧ t.dev.place i = some q ∧
      q.phase = p.phase ∧ q.stall = .peer ∧ t.dev.qlk.step = d.qlk.step ∧ t.dev.qlk.stepPeerWait = true) ∧
    (∀ k, d.tokenOf step = some k → (∀ r ∈ k.decisions, ∀ u ∈ d.trk.tricks, u.cascade = true → u.handle ≠ r.1) →
      ∃ t q, exec (.stepTokenAwait i) s = .next t ∧ t.dev.place i = some q ∧ q.phase = .finished ∧ q.status = p.status ∧
        q.dest = (if p.op.word 2 = 0 then none else some ⟨(p.op.ref 2).addr, leBytes 8 k.epoch⟩) ∧ t.dev.trk.tricks = d.trk.tricks)) ∧
  (∀ (d : Dev) (dealer : Bool) (k : TokenRec), d.qlk.heldEpoch ≤ (d.takeToken dealer k).qlk.heldEpoch ∧
    (d.takeToken dealer k).qlk.step = k.step ∧ (d.takeToken dealer k).qlk.epoch = k.epoch ∧
    (d.qlk.heldEpoch ≠ k.prev → (d.takeToken dealer k).qlk.heldEpoch = d.qlk.heldEpoch) ∧
    (∀ r ∈ k.decisions, r.2 = 1 → (∀ u ∈ d.trk.tricks, u.cascade = true → u.handle ≠ r.1) →
      (d.takeToken dealer k).qlk.heldEpoch = d.qlk.heldEpoch) ∧
    (d.qlk.heldEpoch = k.prev → (∃ r ∈ k.decisions, r.2 = 1) ∨ d.qlk.tokens ≠ [] →
      (∀ r ∈ k.decisions, r.2 = 1 → ∃ u ∈ d.trk.tricks, u.cascade = true ∧ u.handle = r.1 ∧ u.state = .prepared) →
      (d.takeToken dealer k).qlk.heldEpoch = max d.qlk.heldEpoch k.epoch)) ∧
  (∀ (s : State) (i step : Nat) (d : Dev) (p : Place), s.dev.enters i (fun o => o.opcode == 0x62 && o.fld 1 0 1 == 2) = some (d, p) →
    d.OnlyToken i → step = p.op.word 0 →
    (d.qlk.step < step → ∃ t q, exec (.stepTokenRespond i) s = .next t ∧ t.dev.place i = some q ∧ q.phase = .finished ∧
      q.status = .badDescriptor ∧ t.dev.qlk = d.qlk) ∧
    (step ≤ d.qlk.step → d.cascade.dealer = 1 →
      ∃ t q k, exec (.stepTokenRespond i) s = .next t ∧ t.dev.place i = some q ∧ q.phase = .finished ∧ q.status = p.status ∧
        q.dest = (if p.op.word 2 = 0 then none else some ⟨(p.op.ref 2).addr, leBytes 8 step⟩) ∧ k = t.dev.member d.cascade.moduleIndex ∧
        k.step = some step ∧ k.heldEpoch = d.qlk.heldEpoch ∧ (∀ r ∈ d.trickReports, r ∈ k.reports) ∧ t.dev.qlk.stepPeerWait = false ∧
        t.dev.out = d.out) ∧
    (step ≤ d.qlk.step → d.cascade.dealer ≠ 1 → d.reaches d.cascade.dealerIndex = none → p.status = .ok →
      ∃ t q, exec (.stepTokenRespond i) s = .next t ∧ t.dev.place i = some q ∧ q.phase = .finished ∧ q.status = .peerError ∧
        t.dev.out = d.out)) ∧
  (∀ (d : Dev) (h : Nat),
    ((∀ m ∈ d.included, (d.member m).report h = some 1) → d.decisionFor h = some (h, 1)) ∧
    ((∀ m ∈ d.included, (d.member m).report h ≠ none) → (∃ m ∈ d.included, (d.member m).report h ≠ some 1) →
      d.decisionFor h = some (h, 2)) ∧
    ((∃ m ∈ d.included, (d.member m).report h = none) → d.decisionFor h = none)) ∧
  (∀ d : Dev, d.decisions.length ≤ 16 ∧ (d.waitingDecisions.length ≤ 16 → d.decisions = d.waitingDecisions) ∧
    (d.qlk.restarted = true →
      (∀ r ∈ d.trk.loggedDecisions, r ∈ d.waitingDecisions) ∧
      (∀ m ∈ d.included, ∀ h, (d.member m).report h = some 1 → (∀ r ∈ d.trk.loggedDecisions, r.1 ≠ h) → (h, 2) ∈ d.waitingDecisions)) ∧
    (d.qlk.restarted = false →
      (∀ r ∈ d.qlk.owed, r ∈ d.waitingDecisions) ∧
      (∀ m ∈ d.included, ∀ h, (d.member m).report h ≠ none → (∀ r ∈ d.qlk.owed, r.1 ≠ h) → ∀ r, d.decisionFor h = some r →
        r ∈ d.waitingDecisions))) ∧
  (∀ (m : Mio) (g : Agent) (p : Place) (k : Nat × Nat), p.op.opcode = 0x61 →
    (m.entryMessage g p k).2.body = (m.readOperand g p 0 (k.2 * p.op.word 2) (p.op.word 2)).2.1 ∧ (m.entryMessage g p k).2.kind = 2 ∧
    (m.entryMessage g p k).2.coll = p.coll.getD 0 ∧ (m.entryMessage g p k).2.dst = k.1) ∧
  (∀ (m : Mio) (g : Agent) (p : Place) (k : Nat × Nat),
    (p.op.opcode = 0x60 → (m.entryMessage g p k).2.kind = 1 ∧
      (p.exchangesStream = false → (m.entryMessage g p k).2.body = (m.flatAt g p 0 (k.2 * 65536) (min 65536 (p.op.word 2 - k.2 * 65536))).2.1) ∧
      (p.exchangesStream = true → (m.entryMessage g p k).2.body = (p.exchangeTiles.getD k.2 {}).bytes)) ∧
    (p.op.opcode = 0x62 → p.op.fld 1 0 1 = 2 → (m.entryMessage g p k).2.kind = 4 ∧
      (m.entryMessage g p k).2.body = m.dev.responseBody (p.op.word 0)) ∧
    (p.op.opcode = 0x62 → p.op.fld 1 0 1 ≠ 2 → (m.entryMessage g p k).2.kind = 3 ∧
      ∀ u, m.dev.tokenOf (p.op.word 0) = some u → (m.entryMessage g p k).2.body = u.body))

/-! ## Quinay ports (13) -/

/-- The state of a port (R443 to R448, R455, R456, R474 to R477, R581 to R583): a cable that is inserted is identified; one that R445 refuses
leaves the port REFUSED in low-power mode with its reason; otherwise it trains, sends its IDENT on lock, and is UP once an IDENT of the same
cascade and another module, or of a switch, arrives. Lost lock makes it RETRAINING; the third attempt in a row without lock makes it DOWN, and then what its
modules were to bring is lost. QLK_RETRAIN identifies again a port that is REFUSED or DOWN. A route entry does not change while a message of its
pair awaits its XACK. -/
def Obligations.Ports : Prop :=
  (∀ (s : State) (p : Nat), (s.dev.port p).cable = true → exec (.cableInsert p) s = .next s) ∧
  (∀ (s : State) (p : Nat), (s.dev.port p).cable = false → ∃ t k, exec (.cableInsert p) s = .next t ∧ k = t.dev.port p ∧ k.cable = true ∧ k.lowPower = true ∧
    k.state = (if (s.dev.port p).state = .empty then .identifying else (s.dev.port p).state) ∧
    (∀ j, j ≠ p → t.dev.port j = s.dev.port j) ∧ t.dev.mem = s.dev.mem ∧ t.dev.board = s.dev.board) ∧
  (∀ (s : State) (p : Nat), ∃ t k, exec (.cableRemove p) s = .next t ∧ k = t.dev.port p ∧ k.cable = false ∧ k.lowPower = true ∧
    k.state = (if (s.dev.port p).state = .disabled then .disabled else .empty) ∧ (∀ j, j ≠ p → t.dev.port j = s.dev.port j) ∧
    t.dev.mem = s.dev.mem ∧ t.dev.board = s.dev.board) ∧
  (∀ (s : State) (p : Nat) (id : CableId),
    ((s.dev.port p).state ≠ .identifying → exec (.cableIdentityRead p id) s = .next s) ∧
    ((s.dev.port p).state = .identifying →
      ∃ t k, exec (.cableIdentityRead p id) s = .next t ∧ k = t.dev.port p ∧
        (id.refusal = 0 → k.state = .training ∧ k.refuse = 0 ∧ k.lowPower = false ∧ k.lanes = id.lanes ∧ k.maxPower = id.maxPower ∧
          k.length = id.length ∧ t.dev.leaves = s.dev.leaves) ∧
        (id.refusal ≠ 0 → k.state = .refused ∧ k.refuse = id.refusal ∧ k.lowPower = true ∧ (t.dev.leaf .qlk).testBit 0 = true ∧
          t.dev.qlk.infoPort = p))) ∧
  (∀ id : CableId, (id.refusal = 1 ↔ id.readOk = false ∨ id.checksumOk = false) ∧
    (id.refusal = 2 ↔ id.readOk = true ∧ id.checksumOk = true ∧ 48 < id.maxPower) ∧
    (id.refusal = 3 ↔ id.readOk = true ∧ id.checksumOk = true ∧ id.maxPower ≤ 48 ∧ id.lanes < 8) ∧ id.refusal ≤ 3) ∧
  (∀ (s : State) (p : Nat) (k : Port), k = s.dev.port p →
    (k.state = .training → k.locked = false →
      ∃ t, exec (.laneLock p) s = .next t ∧ (t.dev.port p).locked = true ∧ (t.dev.port p).state = .training ∧
        t.dev.out = s.dev.out ++ [.flit p 4 k.ack s.dev.cascade.ident] ∧ (t.dev.port p).txSeq = (k.txSeq + 1) % 4096) ∧
    (k.state = .retraining → s.dev.Quiet → k.outbox = [] → ∃ t, exec (.laneLock p) s = .next t ∧ (t.dev.port p).state = .up ∧
      (t.dev.port p).retrainFails = 0 ∧ (t.dev.port p).replays = (if k.replay = [] then k.replays else satInc32 k.replays 1) ∧
      t.dev.out = s.dev.out) ∧
    (k.state ≠ .training → k.state ≠ .retraining → exec (.laneLock p) s = .next s)) ∧
  (∀ (s : State) (p : Nat) (c : Instr) (k : Port), k = s.dev.port p →
    (c = .trainingTimeout p ∧ k.state = .training ∧ k.locked = false) ∨ (c = .retrainTimeout p ∧ k.state = .retraining ∧ 2 ≤ k.retrainFails) →
    ∃ t, exec c s = .next t ∧ (t.dev.port p).state = .down ∧ (t.dev.port p).outbox = [] ∧ (t.dev.port p).replay = [] ∧
      (c = .retrainTimeout p → (t.dev.leaf .qlk).testBit 1 = true) ∧ (c = .trainingTimeout p → t.dev.leaves = s.dev.leaves) ∧
      t.dev.mem = s.dev.mem ∧
      ∀ q ∈ s.dev.board, q.status = .ok → q.phase = .running ∨ q.phase = .finished → (∃ u ∈ q.unacked, u.1 ∈ s.dev.routed p) →
        ∃ r ∈ t.dev.board, r.id = q.id ∧ r.phase = .finished ∧ r.status = .peerError ∧ r.unacked = [] ∧ r.unsentMsgs = []) ∧
  (∀ (s : State) (p : Nat) (k : Port), k = s.dev.port p → k.state = .retraining → k.retrainFails < 2 →
    ∃ t, exec (.retrainTimeout p) s = .next t ∧ t.dev.port p = { k with retrainFails := k.retrainFails + 1 } ∧ t.dev.board = s.dev.board) ∧
  (∀ (s : State) (p : Nat), (s.dev.port p).state = .up →
    ∃ t, exec (.lockLost p) s = .next t ∧ (t.dev.port p).state = .retraining ∧ (t.dev.port p).retrainFails = 0 ∧
      (t.dev.port p).retrains = satInc32 (s.dev.port p).retrains 1 ∧ (t.dev.leaf .qlk).testBit 2 = true ∧ t.dev.board = s.dev.board ∧
      (t.dev.port p).replay = (s.dev.port p).replay) ∧
  (∀ (s : State) (p : Nat), s.ready = true → (s.dev.port p).state = .refused ∨ (s.dev.port p).state = .down →
    ∃ t, exec (.qlkRetrain p) s = .next t ∧ (t.dev.port p).state = .identifying ∧ (t.dev.port p).refuse = 0) ∧
  (∀ (s : State) (p : Nat), (s.dev.port p).cable = true → s.dev.domainOn.testBit (if p < 4 then 2 else 3) = true →
    (s.dev.port p).state ≠ .disabled →
    ∃ t, exec (.cageOvercurrent p) s = .next t ∧ (t.dev.port p).state = .refused ∧ (t.dev.port p).refuse = 2 ∧
      (t.dev.port p).overcurrent = true ∧ (t.dev.leaf .qlk).testBit 0 = true) ∧
  (∀ (s : State) (p seq c m : Nat) (k : Port), k = s.dev.port p → k.state = .training → k.locked = true →
    (seq ≠ k.rxSeq → ∃ t, exec (.ident p seq c m) s = .next t ∧ (t.dev.port p).state = .training ∧ (t.dev.port p).rxSeq = k.rxSeq ∧
      (t.dev.port p).nakSent = true) ∧
    (seq = k.rxSeq → ∃ t, exec (.ident p seq c m) s = .next t ∧ (t.dev.port p).rxSeq = (k.rxSeq + 1) % 4096 ∧
      (m = 0xFFFF → (t.dev.port p).state = .up ∧ (t.dev.port p).switch = true) ∧
      (m ≠ 0xFFFF → c ≠ s.dev.cascade.cascadeId → (t.dev.port p).state = .refused ∧ (t.dev.port p).refuse = 4) ∧
      (m ≠ 0xFFFF → c = s.dev.cascade.cascadeId → m = s.dev.cascade.moduleIndex → (t.dev.port p).state = .refused ∧
        (t.dev.port p).refuse = 5) ∧
      (m ≠ 0xFFFF → c = s.dev.cascade.cascadeId → m ≠ s.dev.cascade.moduleIndex → (t.dev.port p).state = .up ∧
        (t.dev.port p).farModule = m % 1024 ∧ (t.dev.port p).creditData = 1024 ∧ (t.dev.port p).creditControl = 64 ∧
        ∀ x ∈ s.dev.routed p, t.dev.qlk.xsend.get 0 x = 0 ∧ t.dev.qlk.xrecv.get 0 x = 0))) ∧
  (∀ (s : State) (m v : Nat), s.ready = true →
    ((∃ q ∈ s.dev.board, ∃ u ∈ q.unacked, u.1 = m) → ∃ t, exec (.qlkRouteWrite m v) s = .next t ∧ t.dev.qlk.route = s.dev.qlk.route ∧
      (t.dev.leaf .qlk).testBit 6 = true) ∧
    ((∀ q ∈ s.dev.board, ∀ u ∈ q.unacked, u.1 ≠ m) → ∃ t, exec (.qlkRouteWrite m v) s = .next t ∧
      t.dev.qlk.route.get 0 m = v % 8 + (if v.testBit 7 then 128 else 0) ∧ (∀ j, j ≠ m → t.dev.qlk.route.get 0 j = s.dev.qlk.route.get 0 j))) ∧
  (∀ (s : State) (w v : Nat), s.ready = true → (∀ q ∈ s.dev.board, q.op.opcode ≠ 0x62) →
    ∃ t, exec (.qlkExcludeWrite w v) s = .next t ∧ t.dev.qlk.exclude.get 0 w = v % 2 ^ 32 ∧
      (∀ j, j ≠ w → t.dev.qlk.exclude.get 0 j = s.dev.qlk.exclude.get 0 j) ∧
      ∀ m, m / 32 = w → t.dev.excluded m = v.testBit (m % 32))


/-! ## Quinay messages (13) -/

/-- What an arriving message meets (R451, R455, R457): its flits are counted; one for another cascade or module is misrouted, and one out of its
pair's sequence raises PEER_ORDER and is answered by XNAK ORDER; any other takes the next XSEQ of its pair. Here no buffer is due to be returned. -/
def Obligations.MessagesAccepted : Prop :=
  (∀ (d : Dev) (p : Nat) (m : QMessage) (r : Dev × Bool) (n : Nat) (k : Port), r = d.acceptMessage p m → n = flitsOf m.body.length → k = d.port p →
    k.freedData + n < 64 → k.freedControl + n < 64 → (r.1.port p).rxSeq = (k.rxSeq + n) % 4096 ∧ (r.1.port p).nakSent = false ∧
      r.1.board = d.board ∧ r.1.mem = d.mem ∧ r.1.rings = d.rings ∧
    ((m.cascade ≠ d.cascade.cascadeId ∨ m.dst ≠ d.cascade.moduleIndex) → r.2 = false ∧ (r.1.port p).misrouted = satInc32 k.misrouted 1 ∧
      (r.1.leaf .qlk).testBit 3 = true ∧ r.1.qlk.xrecv = d.qlk.xrecv) ∧
    (m.cascade = d.cascade.cascadeId → m.dst = d.cascade.moduleIndex → m.xseq ≠ d.qlk.xrecv.get 0 m.src → r.2 = false ∧
      (r.1.leaf .qlk).testBit 5 = true ∧ r.1.qlk.xrecv = d.qlk.xrecv ∧ ∃ e : Dev, r.1 = e.answerMessage m 4) ∧
    (m.cascade = d.cascade.cascadeId → m.dst = d.cascade.moduleIndex → m.xseq = d.qlk.xrecv.get 0 m.src → r.2 = true ∧
      r.1.qlk.xrecv.get 0 m.src = (m.xseq + 1) % 2 ^ 32 ∧ (∀ j, j ≠ m.src → r.1.qlk.xrecv.get 0 j = d.qlk.xrecv.get 0 j) ∧
      r.1.leaves = d.leaves ∧ r.1.out = d.out)) ∧
  (∀ (d : Dev) (m : QMessage) (p reason : Nat), d.reaches m.src = some p → (d.port p).outbox = [] → (d.port p).room 1 = true →
    0 < (d.port p).creditControl →
    ∃ a, (d.answerMessage m reason).out = d.out ++ [.message p a] ∧ a.kind = (if reason = 0 then 6 else 7) ∧ a.reason = reason ∧ a.dst = m.src ∧
      a.dest = m.xseq ∧ a.body = [] ∧ a.check = a.checkOf ∧ (d.answerMessage m reason).mem = d.mem ∧ (d.answerMessage m reason).board = d.board) ∧
  (∀ (s : State) (p kind : Nat) (m : QMessage) (c : Instr) (e : Dev),
    (c = .token p m ∧ kind = 3) ∨ (c = .response p m ∧ kind = 4) ∨ (c = .status p m ∧ kind = 5) ∨ (c = .xack p m ∧ kind = 6) ∨ (c = .xnak p m ∧ kind = 7) →
    m.kind = kind → (s.dev.port p).state = .up → s.dev.Accepted p m e → m.check ≠ m.checkOf →
    exec c s = .next { s with dev := e.checkFails p m })

/-- What the messages of the cascade do once they are accepted (R453, R458, R459, R464, R466, R467, R469 to R475), and the link's own flits (R447, R449 to
R452): data is written at the seat's context and answered by XACK, or by XNAK with a reason and no XACK; a tile enters its route; a block of a
later collective is BUSY, and is sent again; the token of the next step is kept and its decision enters the prepared record of its handle, any other raises PEER_ORDER; the dealer records
responses and STATUS. Here no message waits to be sent. -/
def Obligations.QuinayMessages : Prop :=
  (∀ (s : State) (p : Nat) (m : QMessage) (e : Dev), (s.dev.port p).state = .up → s.dev.Accepted p m e →
    m.check = m.checkOf →
    (m.kind = 3 → (∀ q ∈ e.board, q.op.opcode ≠ 0x62) →
      (field m.body 0 8 = e.qlk.step + 1 → ∃ t, exec (.token p m) s = .next t ∧ t.dev.qlk.step = field m.body 0 8 ∧
        t.dev.qlk.epoch = field m.body 8 8 ∧ t.dev.trk.tricks = e.trk.tricks ∧ ∀ ds k, ds = handleRecords (m.body.drop 24) (field m.body 16 1) →
        k = e.tokenRec (field m.body 0 8) (field m.body 8 8) ds → k ∈ t.dev.qlk.tokens ∧ t.dev.qlk.heldEpoch = e.heldAfter k ∧
        ∀ r l, ds = [r] → l ∈ e.trk.log → l.cascade = true → l.handle = r.1 → l.epoch = 2 ^ 64 - 1 → l.decision = 0 →
          { l with decision := r.2, step := field m.body 0 8, cascadeEpoch := field m.body 8 8 } ∈ t.dev.trk.log) ∧
      (field m.body 0 8 ≠ e.qlk.step + 1 → ∃ t, exec (.token p m) s = .next t ∧ t.dev.qlk.step = e.qlk.step ∧ t.dev.qlk.tokens = e.qlk.tokens ∧
        (t.dev.leaf .qlk).testBit 5 = true)) ∧
    (m.kind = 4 → (∀ q ∈ e.board, q.op.opcode ≠ 0x62) →
      ∃ t, exec (.response p m) s = .next t ∧ t.dev.mem = e.mem ∧ t.dev.board = e.board ∧
        (e.cascade.dealer = 1 → (t.dev.member m.src).step = some (field m.body 0 8) ∧ (t.dev.member m.src).heldEpoch = field m.body 16 8 ∧
          ∀ r ∈ handleRecords (m.body.drop 24) (field m.body 9 1), r ∈ (t.dev.member m.src).reports) ∧
        (e.cascade.dealer ≠ 1 → t.dev.qlk.members = e.qlk.members)) ∧
    (m.kind = 5 → ∃ t, exec (.status p m) s = .next t ∧ t.dev.mem = e.mem ∧ t.dev.board = e.board ∧
        (e.cascade.dealer = 1 → (t.dev.member m.src).thermal = field m.body 8 1 % 8 ∧ (t.dev.member m.src).progress = field m.body 16 8 ∧
          (t.dev.member m.src).seen = e.slow % 2 ^ 32 ∧ (field m.body 8 1 = 4 → (t.dev.leaf .qlk).testBit 4 = true)) ∧
        (e.cascade.dealer ≠ 1 → t.dev = e)) ∧
    (m.kind = 6 → e.Quiet → ∀ q, e.awaiting m = some q → e.place q.id = some q →
      ∃ t r, exec (.xack p m) s = .next t ∧ t.dev.place q.id = some r ∧ r = { q with unacked := q.unacked.erase (m.src, m.dest % 2 ^ 32) } ∧
        t.dev.out = e.out) ∧
    (m.kind = 7 → e.Quiet → ∀ q, e.awaiting m = some q → e.place q.id = some q →
      ∃ t r, exec (.xnak p m) s = .next t ∧ t.dev.place q.id = some r ∧
        (m.reason = 3 → q.op.opcode = 0x61 → r.status = q.status ∧ r.unacked = q.unacked.erase (m.src, m.dest % 2 ^ 32) ∧
          (q.id, m.src, m.src - q.op.fld 3 0 2) ∈ t.dev.qlk.resend) ∧
        (m.reason ≠ 3 ∨ q.op.opcode ≠ 0x61 → q.status = .ok → r.status = .peerError ∧ r.unacked = []))) ∧
  (∀ (s : State) (p : Nat) (m : QMessage) (e : Dev) (c : Instr), (s.dev.port p).state = .up → s.dev.Accepted p m e →
    (c = .exchangeMessage p m ∧ m.kind = 1) ∨ (c = .a2aBlock p m ∧ m.kind = 2) →
    ((e.seat m.seat).serves = false → exec c s = .next { s with dev := e.answerMessage m 5 }) ∧
    ((e.seat m.seat).serves = true → m.kind = 2 → e.laterCollective m.ctxIx m.coll = true →
      exec c s = .next { s with dev := e.answerMessage m 3 }) ∧
    ((e.seat m.seat).serves = true → m.kind = 1 → (Opref.ofNat m.dest).kind ≠ 1 → e.bodyHeld m = true → exec c s = .next s) ∧
    ((e.seat m.seat).serves = true → (m.kind = 1 → (Opref.ofNat m.dest).kind ≠ 1) → (m.kind = 2 → e.laterCollective m.ctxIx m.coll = false) →
      e.bodyHeld m = false →
      ∃ t w, exec c s = .next t ∧ w = e.writeBody m ∧ t.dev.board = e.board ∧ t.dev.rings = e.rings ∧
        (w.2.2 = true → t.dev = (w.1.chargeBody p m w.2.1).answerMessage m 1) ∧
        (w.2.2 = false → m.check ≠ m.checkOf → (t.dev.leaf .chk).testBit 4 = true ∧ ∀ a ∈ w.2.1, t.dev.mem.isPoison a.1 = true) ∧
        (w.2.2 = false → m.check = m.checkOf → t.dev.mem = w.1.mem ∧
          (m.kind = 2 → m.coll ∈ e.openCollectives m.ctxIx → (t.dev.ctx m.ctxIx).blocks.get 0 m.coll = (e.ctx m.ctxIx).blocks.get 0 m.coll + 1))) ∧
    (∀ i r, (e.seat m.seat).serves = true → m.kind = 1 → (Opref.ofNat m.dest).kind = 1 →
      e.exchangeRoute p m.seat (Opref.ofNat m.dest).addr = some i → e.routes[i]? = some r →
      (r.credits = 0 → exec c s = .next s) ∧
      (r.credits ≠ 0 → ∃ t u, exec c s = .next t ∧ t.dev.routes[i]? = some { r with credits := r.credits - 1, queue := r.queue ++ [u] } ∧
        (m.check = m.checkOf → m.poison = [] → u.tile = Tile.ofBytes m.body ∧ t.dev.leaves = e.leaves) ∧
        (m.check = m.checkOf → m.poison ≠ [] → u.tile = (Tile.ofBytes m.body).allPoison ∧ t.dev.leaves = e.leaves) ∧
        (m.check ≠ m.checkOf → u.tile = (Tile.ofBytes m.body).allPoison ∧ (t.dev.leaf .chk).testBit 4 = true)))) ∧
  (∀ (s : State), (s.dev.reports = false → exec .statusTimer s = .next s) ∧
    (s.dev.reports = true → s.dev.cascade.dealer = 1 → ∃ t k, exec .statusTimer s = .next t ∧ k = t.dev.member s.dev.cascade.moduleIndex ∧
      k.thermal = s.dev.maxThermal % 8 ∧ k.progress = s.dev.progress ∧ t.dev.out = s.dev.out) ∧
    (∀ p, s.dev.reports = true → s.dev.cascade.dealer ≠ 1 → s.dev.reaches s.dev.cascade.dealerIndex = some p → (s.dev.port p).outbox = [] →
      (s.dev.port p).room 1 = true → 0 < (s.dev.port p).creditControl →
      ∃ t a, exec .statusTimer s = .next t ∧ t.dev.out = s.dev.out ++ [.message p a] ∧ a.kind = 5 ∧ a.dst = s.dev.cascade.dealerIndex ∧
        field a.body 0 8 = s.dev.qlk.step % 2 ^ 64 ∧ field a.body 8 1 = s.dev.maxThermal % 256)) ∧
  (∀ (s : State) (i m j : Nat) (p : Place), s.dev.qlk.resend = [(i, m, j)] → s.dev.place i = some p → p.status = .ok → s.dev.Quiet →
    (s.dev.reaches m = none → p.op.opcode = 0x61 → ∃ t q, exec .a2aResendTimer s = .next t ∧ t.dev.qlk.resend = [] ∧ t.dev.place i = some q ∧
      q.status = .peerError ∧ q.unsentMsgs = []) ∧
    (s.dev.reaches m ≠ none → 4 ≤ s.dev.pairBusy m → p.op.opcode = 0x61 → ∃ t q, exec .a2aResendTimer s = .next t ∧ t.dev.qlk.resend = [] ∧
      t.dev.place i = some q ∧ q = { p with unsentMsgs := [(m, j)] })) ∧
  (∀ (s : State) (p : Nat) (k : Port), k = s.dev.port p →
    (k.state = .up → k.room 1 = true → k.freedData + k.freedControl ≠ 0 →
      ∃ t, exec (.creditReturnTimer p) s = .next t ∧ t.dev.out = s.dev.out ++ [.flit p 5 k.ack (leBytes 2 k.freedData ++ leBytes 2 k.freedControl)] ∧
        (t.dev.port p).freedData = 0 ∧ (t.dev.port p).freedControl = 0 ∧ (t.dev.port p).txSeq = (k.txSeq + 1) % 4096) ∧
    (k.state ≠ .up ∨ k.freedData + k.freedControl = 0 → exec (.creditReturnTimer p) s = .next s) ∧
    (∀ bad, k.state = .up → ∃ t, exec (.flitDiscard p bad) s = .next t ∧ (t.dev.port p).rxSeq = k.rxSeq ∧ (t.dev.port p).nakSent = true ∧
      (t.dev.port p).crcErrors = (if bad then satInc32 k.crcErrors 1 else k.crcErrors) ∧
      t.dev.out = (if k.nakSent then s.dev.out else s.dev.out ++ [.flit p 3 k.ack []])) ∧
    (∀ ack, k.state = .up → s.dev.Quiet → ∃ t, exec (.idle p ack) s = .next t ∧
      t.dev.port p = { k with replay := if ack ∈ k.replay then (k.replay.dropWhile (· ≠ ack)).tail else k.replay } ∧ t.dev.out = s.dev.out) ∧
    (∀ seq a b, k.state = .up → s.dev.Quiet →
      (seq = k.rxSeq → ∃ t, exec (.credit p seq a b) s = .next t ∧ (t.dev.port p).creditData = min 1024 (k.creditData + a) ∧
        (t.dev.port p).creditControl = min 64 (k.creditControl + b) ∧ (t.dev.port p).rxSeq = (k.rxSeq + 1) % 4096) ∧
      (seq ≠ k.rxSeq → ∃ t, exec (.credit p seq a b) s = .next t ∧ (t.dev.port p).creditData = k.creditData ∧
        (t.dev.port p).creditControl = k.creditControl ∧ (t.dev.port p).rxSeq = k.rxSeq)) ∧
    (∀ ack n, k.state = .up → s.dev.Quiet → n = (match k.nakRun with | some (a, c) => if a = ack then c + 1 else 1 | none => 1) →
      (n < 8 → ∃ t, exec (.nak p ack) s = .next t ∧ (t.dev.port p).state = .up ∧ (t.dev.port p).nakRun = some (ack, n) ∧
        (t.dev.port p).replays = (if (k.acked ack).replay = [] then k.replays else satInc32 k.replays 1) ∧ t.dev.leaves = s.dev.leaves) ∧
      (8 ≤ n → ∃ t, exec (.nak p ack) s = .next t ∧ (t.dev.port p).state = .retraining ∧ (t.dev.leaf .qlk).testBit 2 = true)))


/-! ## Segments and seats (11) -/

/-- Segments (R377 to R380, R383 to R385, R409, R411): an enabling write is checked, and what passes maps its range and holds its frames; a refused one
leaves the segment as it was, records its code and sets BAD_COMMAND. A segment that is disabled drops the context's lines in its range
without write-back before it is disabled. An access is translated through the covering segment, and fails without one, without the permission, or past its
end; a failed access touches no memory and is recorded. -/
def Obligations.Segments : Prop :=
  (∀ (s : State) (x i v w : Nat) (g : Seg), s.ready = true → s.dev.ctxExists x = true → g = s.dev.seg x i → w = v ||| 1 →
    (g.enable = false → s.dev.segCheck x i w = 0 → ∃ t h, exec (.segEnable x i v) s = .next t ∧ h = t.dev.seg x i ∧ h.enable = true ∧
      h.vbase = g.vbase ∧ h.pbase = g.pbase ∧ h.length = g.length ∧ h.read = w.testBit 1 ∧ h.write = w.testBit 2 ∧ h.detect = w.testBit 3 ∧
      h.hint = w / 16 % 4 ∧ h.uses = w / 64 % 16 ∧ h.err = 0 ∧ (∀ j, j ≠ i → t.dev.seg x j = s.dev.seg x j) ∧
      (t.dev.mem.stack (stackOf g.pbase)).covers =
        (s.dev.mem.stack (stackOf g.pbase)).covers ++ [⟨frameOf g.pbase, g.length, .context, tagOf x⟩] ∧ t.dev.leaves = s.dev.leaves) ∧
    (∀ k, (g.enable = false ∧ k = s.dev.segCheck x i w ∧ k ≠ 0) ∨ (g.enable = true ∧ k = 6 ∧ w ≠ g.attr) →
      ∃ t, exec (.segEnable x i v) s = .next t ∧ t.dev.seg x i = { g with err := k } ∧ (t.dev.leaf (.seat (x / 16))).testBit 5 = true ∧
        t.dev.mem = s.dev.mem ∧ ∀ j, j ≠ i → t.dev.seg x j = s.dev.seg x j) ∧
    (g.enable = true → w = g.attr → exec (.segEnable x i v) s = .next s)) ∧
  (∀ (d : Dev) (x i v : Nat) (g : Seg), g = d.seg x i → d.segCheck x i v = 0 →
    1 ≤ g.length ∧ g.length ≤ 1048576 ∧ g.vbase + g.length * 65536 ≤ 2 ^ 48 ∧ v < 2 ^ 10 ∧ stackOf g.pbase < 12 ∧
    stackOf (g.pbase + g.length * 65536 - 1) = stackOf g.pbase ∧
    (∀ c ∈ (d.mem.stack (stackOf g.pbase)).covers, rangesMeet c.first c.count (frameOf g.pbase) g.length = true →
      c.kind ≠ .device ∧ tagSeat c.tag = x / 16) ∧
    (∀ e ∈ (d.ctx x).segs, e.1 ≠ i → e.2.enable = true → rangesMeet e.2.vbase (e.2.length * 65536) g.vbase (g.length * 65536) = false) ∧
    (v.testBit 3 = true → ∀ e ∈ (d.layout.map (·.correctOnly)).getD [], rangesMeet e.frames.1 e.frames.2 g.pbase (g.length * 65536) = false)) ∧
  (∀ (s : State) (x i v : Nat) (g : Seg), s.ready = true → s.dev.ctxExists x = true → g = s.dev.seg x i →
    (g.enable = false → ∃ t, exec (.segDisable x i v) s = .next t ∧ t.dev.seg x i = g.setAttr v ∧ t.dev.mem = s.dev.mem) ∧
    (g.enable = true → (∀ r ∈ s.dev.ctxRings x, (s.dev.ring r).state = .stopped ∨ (s.dev.ring r).state = .inactive) → s.dev.ctxPlaces x = [] →
      ∃ t, exec (.segDisable x i v) s = .next t ∧ t.dev.seg x i = { g with dropping := true, err := 0 } ∧ t.dev.mem = s.dev.mem) ∧
    (g.enable = true → (∃ r ∈ s.dev.ctxRings x, (s.dev.ring r).state ≠ .stopped ∧ (s.dev.ring r).state ≠ .inactive) ∨ s.dev.ctxPlaces x ≠ [] →
      ∃ t, exec (.segDisable x i v) s = .next t ∧ t.dev.seg x i = { g with err := 6 } ∧ (t.dev.leaf (.seat (x / 16))).testBit 5 = true)) ∧
  (∀ (s : State) (x i : Nat) (g : Seg), g = s.dev.seg x i → g.dropping = true → g.enable = true →
    ∃ t, exec (.segDropDone x i) s = .next t ∧ (t.dev.seg x i).enable = false ∧ (t.dev.seg x i).dropping = false ∧
      (∀ l, l ∈ t.dev.cache.lines ↔ l ∈ s.dev.cache.lines ∧
        ¬ (l.tag = tagOf x ∧ g.pbase ≤ 64 * l.atom ∧ 64 * l.atom < g.pbase + g.length * 65536)) ∧
      t.dev.mem.cells = s.dev.mem.cells ∧ t.dev.mem.poison = s.dev.mem.poison) ∧
  (∀ (d : Dev) (x a n : Nat) (rd wr : Bool),
    (∀ i g, (d.ctx x).covering a = some (i, g) → (rd = true → g.read = true) → (wr = true → g.write = true) →
      a + n ≤ g.vbase + g.length * 65536 → d.translate x a n rd wr = .ok (g.pbase + (a - g.vbase)) i) ∧
    (∀ i g, (d.ctx x).covering a = some (i, g) →
      (rd = true ∧ g.read = false) ∨ (wr = true ∧ g.write = false) ∨ g.vbase + g.length * 65536 < a + n →
      d.translate x a n rd wr = .denied i) ∧
    ((d.ctx x).covering a = none → d.translate x a n rd wr = .uncovered)) ∧
  (∀ (d : Dev) (x a i : Nat) (g : Seg), (d.ctx x).covering a = some (i, g) →
    (i, g) ∈ (d.ctx x).segs ∧ g.enable = true ∧ g.vbase ≤ a ∧ a < g.vbase + g.length * 65536) ∧
  (∀ (m : Mio) (g : Agent) (o : Opref) (a n : Nat) (k : Seat), m.fault = false → m.waits = false → g.ctx < 1024 →
    (m.dev.translate g.ctx a n true false = .uncovered → k = (m.read g o a n).1.dev.seat (g.ctx / 16) →
      (m.read g o a n).1.fault = true ∧ (m.read g o a n).1.dev.mem = m.dev.mem ∧
      k.faultKind = 1 ∧ k.faultAddr = a ∧ k.faultCtx = g.ctx % 16) ∧
    (∀ bs po i, bs ≠ [] → m.dev.translate g.ctx a bs.length (a % 64 != 0 || bs.length % 64 != 0) true = .denied i →
      (m.write g o a bs po).fault = true ∧ (m.write g o a bs po).dev.mem = m.dev.mem ∧
      ((m.write g o a bs po).dev.seat (g.ctx / 16)).faultKind = 2 ∧ ((m.write g o a bs po).dev.seat (g.ctx / 16)).faultSeg = i ∧
      ((m.write g o a bs po).dev.leaf (.seat (g.ctx / 16))).testBit 0 = true)) ∧
  (∀ (d : Dev) (tag a : Nat) (bs : List Byte) (po : Bool), stackOf a < 12 → d.admits (.tagged tag) a = false →
    (d.memWrite tag a bs po).mem = d.mem ∧
      ((d.memWrite tag a bs po).seat (tagSeat tag % 64)).tagRejects = satInc32 (d.seat (tagSeat tag % 64)).tagRejects 1)

/-- Seats (R371 to R373, R391 to R396, R399, R401, R402, R404 to R406, R571): SAVE, RESTORE and RESET_CONTEXT are taken where R402 allows and
otherwise only set BAD_COMMAND; a record that a save seals passes the check of a restore; a refused restore loads nothing. A seat reset cancels its
operations, of which only a PREFETCH_ROWS with issued reads stays until they land (R203), starts its rings empty and then scrubs; the scrub leaves no core state, line, segment, graph or mailbox byte behind, and its
save frames read zeros. A slice that expires goes to the next context with work, and its overrun becomes debt. -/
def Obligations.SeatCommands : Prop :=
  (∀ (s : State) (n x : Nat) (c : Instr), s.ready = true → c = .seatSave n x ∨ c = .seatRestore n x ∨ c = .seatResetContext n x →
    (s.dev.seatCmdOk n x = false ∨ (c = .seatSave n x ∧ s.dev.shared n = true) →
      ∃ t, exec c s = .next t ∧ (t.dev.leaf (.seat n)).testBit 5 = true ∧ t.dev.ctxs = s.dev.ctxs ∧ t.dev.seats = s.dev.seats ∧
        t.dev.mem = s.dev.mem ∧ t.dev.cores = s.dev.cores) ∧
    (s.dev.seatCmdOk n x = true → (c = .seatSave n x → s.dev.shared n = false) → ∃ t, exec c s = .next t ∧
      (c = .seatSave n x → (t.dev.seat n).moving = some (x, false) ∧ (t.dev.ctx (16 * n + x)).save = .saving) ∧
      (c = .seatRestore n x → s.dev.shared n = false ∨ s.dev.slotBlocked n x = true → (t.dev.seat n).moving = some (x, true) ∧
        (t.dev.seat n).checking = s.dev.shared n) ∧
      (c = .seatRestore n x → s.dev.shared n = true → s.dev.slotBlocked n x = false → s.dev.slotOk n x = true →
        (t.dev.ctx (16 * n + x)).save = .saved ∧ t.dev.cores = s.dev.cores) ∧
      (c = .seatRestore n x → s.dev.shared n = true → s.dev.slotBlocked n x = false → s.dev.slotOk n x = false →
        (t.dev.ctx (16 * n + x)).save = .incomplete ∧ (t.dev.leaf (.seat n)).testBit 2 = true ∧ t.dev.cores = s.dev.cores) ∧
      (c = .seatResetContext n x → (t.dev.ctx (16 * n + x)).save = .none) ∧
      t.dev.mem = (if c = .seatRestore n x ∧ s.dev.shared n = true ∧ s.dev.slotBlocked n x = false then (s.dev.readSlot n x).1.mem else s.dev.mem))) ∧
  (∀ (s : State) (n : Nat), s.ready = true →
    ((s.dev.seat n).state = .inService ∨ (s.dev.seat n).state = .fenced →
      ∃ t, exec (.seatReset n) s = .next t ∧ (t.dev.seat n).state = .resetting ∧
        (∀ p, p.seat ≠ n → (p ∈ t.dev.board ↔ p ∈ s.dev.board)) ∧
        (∀ p ∈ t.dev.board, p.seat = n → p.op.opcode = 0x22 ∧ p.cancelled = true ∧ p.phase = .finished ∧ p.prefetch ≠ [] ∧
          ∀ e ∈ p.prefetch, s.dev.reg.waits (.row p.id e.1) = false) ∧
        (∀ r ∈ s.dev.seatRings n, (t.dev.ring r).generation = ((s.dev.ring r).generation + 1) % 65536 ∧ (t.dev.ring r).zeroing = true ∧
          (t.dev.ring r).tail = 0 ∧ (t.dev.ring r).fetched = 0 ∧ (t.dev.ring r).completed = 0 ∧ (t.dev.ring r).pin = none ∧
          (t.dev.ring r).state = .running) ∧
        (∀ r, r ∉ s.dev.seatRings n → t.dev.ring r = s.dev.ring r) ∧
        (∀ k ∈ t.dev.trk.tricks, k.seat = n → k.state ≠ .open_ ∧ k.state ≠ .commit) ∧ t.dev.mem = s.dev.mem ∧ t.dev.out = s.dev.out ∧
        ∀ m, m ≠ n → t.dev.seat m = s.dev.seat m) ∧
    ((s.dev.seat n).state = .unused ∨ (s.dev.seat n).state = .resetting ∨ (s.dev.seat n).state = .scrubbing →
      exec (.seatReset n) s = .next s)) ∧
  (∀ (s : State) (n : Nat), s.ready = true → s.dev.glb.vfEnable = true →
    ∃ t, exec (.vfFlr n) s = .next t ∧ (t.dev.fn (n + 1)).busMaster = false ∧ (t.dev.fn (n + 1)).msixEnable = false ∧
      (t.dev.fn (n + 1)).masked = true ∧
      ((s.dev.seat n).state = .inService ∨ (s.dev.seat n).state = .fenced → (t.dev.seat n).state = .resetting ∧
        ∀ p ∈ t.dev.board, p.seat = n → p.op.opcode = 0x22 ∧ p.cancelled = true)) ∧
  (∀ (s : State) (n : Nat), ((s.dev.seat n).state = .resetting → s.dev.seatBusy n = false →
      ∃ t, exec (.seatDrained n) s = .next t ∧ (t.dev.seat n).state = .scrubbing ∧ (t.dev.seat n).handoffs = (s.dev.seat n).handoffs + 1 ∧
        t.dev.leaf (.vfRing n) = 0 ∧ t.dev.leaf (.vfSeg n) = 0 ∧ (t.dev.fn (n + 1)).first = none ∧ (t.dev.fn (n + 1)).armed = true ∧
        (t.dev.fn (n + 1)).pending = false ∧ t.dev.mem = s.dev.mem) ∧
    ((s.dev.seat n).state ≠ .resetting ∨ s.dev.seatBusy n = true → exec (.seatDrained n) s = .next s)) ∧
  (∀ (s : State) (n : Nat) (r : SeatRec), (s.dev.seat n).state = .scrubbing → r = s.dev.seatRec n →
    ∃ t k, exec (.scrubDone n) s = .next t ∧ k = t.dev.seat n ∧ (t.dev.leaf (.seat n)).testBit 4 = true ∧
      k.state = (if r.kind = 0 then .unused else if s.dev.seatFenced n then .fenced else .inService) ∧
      (∀ j, (j / 64) ∈ s.dev.clustersOf n → t.dev.core j = {}) ∧ (∀ l, l ∈ t.dev.cache.lines ↔ l ∈ s.dev.cache.lines ∧ tagSeat l.tag ≠ n) ∧
      (∀ c i, c < 16 → i < 8 → (t.dev.seg (16 * n + c) i).enable = false) ∧
      (∀ c, c < 16 → (t.dev.ctx (16 * n + c)).sums = [] ∧ (t.dev.ctx (16 * n + c)).bypass = [] ∧ (t.dev.ctx (16 * n + c)).save = .none) ∧
      k.mailbox = [] ∧ k.graphs = [] ∧ k.graphCount = [] ∧ k.notify = 0 ∧
      (r.kind ≠ 0 → ∀ f, frameOf r.saveBase ≤ f → f < frameOf r.saveBase + r.saveLength / 65536 →
        (t.dev.mem.frame (stackOf r.saveBase) f).zero = true) ∧
      (k.state = .fenced → t.lay.fencedSeats.testBit n = true ∧ (t.dev.leaf .lay).testBit 4 = true)) ∧
  (∀ (body : List Byte) (n x j clusters count : Nat), body.length = 0x10FC0 → n < 256 → x < 256 → j < 2 ^ 32 → clusters < 2 ^ 32 →
    trailerOk (sealRecord body n x j clusters count) n x j clusters = true ∧
      field (sealRecord body n x j clusters count) 0x10FD0 8 = count % 2 ^ 64 ∧
      slice (sealRecord body n x j clusters count) 0 0x10FC0 = body ∧ (sealRecord body n x j clusters count).length = 0x11000) ∧
  (∀ (s : State) (n c : Nat), (s.dev.seat n).moving = some (c, false) →
    (s.dev.slotBlocked n c = true → exec (.saveDone n) s = .next s) ∧
    (s.dev.slotBlocked n c = false → ∃ t, exec (.saveDone n) s = .next t ∧ (t.dev.ctx (16 * n + c)).save = .saved ∧
      (t.dev.ctx (16 * n + c)).saveCount = (s.dev.ctx (16 * n + c)).saveCount + 1 ∧ t.dev.cores = s.dev.cores ∧
      (s.dev.shared n = false → (t.dev.seat n).moving = none) ∧
      (s.dev.shared n = true → (t.dev.seat n).loaded = none ∧ (t.dev.seat n).expired = none ∧
        (t.dev.seat n).moving = (s.dev.seat n).next.map fun k => (k, true)))) ∧
  (∀ (s : State) (n c : Nat) (none' : Bool), (s.dev.seat n).moving = some (c, true) →
    none' = (s.dev.shared n && !(s.dev.seat n).checking && (s.dev.ctx (16 * n + c)).save != .saved) →
    (none' = true → ∃ t, exec (.restoreDone n) s = .next t ∧ (t.dev.seat n).loaded = some c ∧
      (∀ j, (j / 64) ∈ s.dev.clustersOf n → t.dev.core j = {}) ∧ t.dev.mem = s.dev.mem ∧
      (t.dev.ctx (16 * n + c)).slices = satInc32 (s.dev.ctx (16 * n + c)).slices 1) ∧
    (none' = false → s.dev.slotBlocked n c = true → exec (.restoreDone n) s = .next s) ∧
    (none' = false → s.dev.slotBlocked n c = false → (s.dev.seat n).checking = true ∨ s.dev.slotOk n c = false →
      ∃ t, exec (.restoreDone n) s = .next t ∧ t.dev.cores = s.dev.cores ∧ (t.dev.seat n).moving = none ∧
        (t.dev.ctx (16 * n + c)).save = (if s.dev.slotOk n c then .saved else .incomplete) ∧
        (s.dev.slotOk n c = false → (t.dev.leaf (.seat n)).testBit 2 = true)) ∧
    (none' = false → s.dev.slotBlocked n c = false → (s.dev.seat n).checking = false → s.dev.slotOk n c = true →
      ∃ t, exec (.restoreDone n) s = .next t ∧ (t.dev.seat n).moving = none ∧ (s.dev.shared n = true → (t.dev.seat n).loaded = some c) ∧
        (∀ p ∈ s.dev.slotRecords n c, (s.dev.seatCores n).Nodup → t.dev.core p.core = Core.ofRecord p.bytes p.poison) ∧
        t.dev.mem = (s.dev.readSlot n c).1.mem)) ∧
  (∀ (s : State) (n : Nat) (k : Seat) (q : Dev × Option Nat), k = s.dev.seat n → s.dev.shared n = true → k.state = .inService ∨ k.state = .fenced →
    k.moving = none → k.expired = none →
    (k.loaded = none → q = s.dev.chooseCtx n (List.range (s.dev.seatRec n).contexts) → ∃ t, exec (.sliceExpiry n) s = .next t ∧
      (q.2 = none → t.dev = q.1) ∧ (∀ c, q.2 = some c → (t.dev.seat n).moving = some (c, true))) ∧
    (∀ c, k.loaded = some c → s.dev.slow < k.sliceEnd → exec (.sliceExpiry n) s = .next s) ∧
    (∀ c, k.loaded = some c → k.sliceEnd ≤ s.dev.slow → q = s.dev.chooseCtx n (cyclicAfter c (s.dev.seatRec n).contexts) →
      ∃ t, exec (.sliceExpiry n) s = .next t ∧ (∀ b, q.2 = some b → (t.dev.seat n).expired = some s.dev.slow ∧ (t.dev.seat n).next = some b) ∧
        (q.2 = none → (t.dev.seat n).loaded = some c ∧ (t.dev.seat n).expired = none ∧
          (t.dev.seat n).sliceEnd = s.dev.slow + ((s.dev.seatRec n).slice - min (q.1.ctx (16 * n + c)).debt (s.dev.seatRec n).slice)))) ∧
  (∀ (d : Dev) (n c : Nat) (l : List Nat), (d.chooseCtx n l).2 = some c → c ∈ l ∧ d.hasWork (16 * n + c) = true ∧
    (d.ctx (16 * n + c)).save ≠ .incomplete) ∧
  (∀ (s : State) (n c x t0 late : Nat) (k : Seat), k = s.dev.seat n → k.expired = some t0 → k.loaded = some c → k.moving = none → x = 16 * n + c →
    (∀ p ∈ s.dev.ctxPlaces x, p.op.opcode ≠ 0x22 → s.dev.hasStarted p = false) → late = (s.dev.slow + 2 ^ 48 - t0) % 2 ^ 48 →
    ∃ t, exec (.contextQuiescent n) s = .next t ∧ (t.dev.ctx x).debt = (s.dev.ctx x).debt + late ∧
      (t.dev.ctx x).overrunMax = max (s.dev.ctx x).overrunMax late ∧ (t.dev.ctx x).save = .saving ∧ (t.dev.seat n).moving = some (c, false) ∧
      ((s.dev.seatRec n).maxOpWcet / 16 < late → (t.dev.leaf (.seat n)).testBit 3 = true) ∧
      (∀ p ∈ t.dev.board, p.seat * 16 + p.ctx = x → p.op.opcode = 0x02 → p.phase ≠ .running) ∧
      (∀ p ∈ t.dev.board, p.seat * 16 + p.ctx = x → p.op.opcode = 0x22 → p.phase = .finished → p.cancelled = true ∧
        ∀ e ∈ p.prefetch, s.dev.reg.waits (.row p.id e.1) = false))

/-! ## The host link (12) -/

/-- Windows, host-class accesses, and the link (R414, R416 to R421, R434 to R437, R440): a window is enabled only where R418 lets it; an access passes the
checks of R419 in order, and one that fails touches no memory, is recorded, and ends as R420 says; a write that passes stores its bytes. A host loss event
resets the decoder, VF Enable and the MSI-X enables, counts itself, and ends with HOST_LOST what had started of EGRESS and every fence that waits for its host read; it changes no memory. -/
def Obligations.HostAccess : Prop :=
  (∀ (s : State) (w v : Nat) (d : Dev), s.ready = true → d = s.dev.writeWindow w v →
    ((s.dev.window w).enable = false → d.windowOk w = true →
      ∃ t, exec (.windowEnable w v) s = .next t ∧ (t.dev.window w).enable = true ∧ (t.dev.window w).reqCheck = v.testBit 1 ∧
        (t.dev.window w).context = v / 16 % 1024 ∧ (t.dev.window w).requester = v / 65536 % 65536 ∧ t.dev.leaves = s.dev.leaves ∧
        ∀ j, j ≠ w → t.dev.window j = s.dev.window j) ∧
    ((s.dev.window w).enable = false → d.windowOk w = false →
      ∃ t, exec (.windowEnable w v) s = .next t ∧ (t.dev.window w).enable = false ∧ (t.dev.leaf .host).testBit 5 = true) ∧
    (∃ t, exec (.windowDisable w v) s = .next t ∧ (t.dev.window w).enable = false ∧ t.dev.mem = s.dev.mem ∧
      (∀ j, j ≠ w → t.dev.window j = s.dev.window j) ∧
      ((s.dev.window w).enable = true → (t.dev.window w).context = (s.dev.window w).context))) ∧
  (∀ (d : Dev) (w : Nat), d.windowOk w = true → (d.window w).length ≠ 0 ∧
    (d.window w).base + (d.window w).length * 65536 ≤ 12 * 2 ^ 36 ∧
    ∀ o ∈ d.glb.windows, o.1 ≠ w → o.2.enable = true → (d.window w).meets o.2 = false) ∧
  (∀ (d : Dev) (i : Ingress) (n : Nat) (wr : Bool), (d.ingressCheck i n wr = 1 ↔ i.window = none) ∧
    (∀ w, i.window = some w → (d.ingressCheck i n wr = 2 ↔ i.io = true ∧ w.reqCheck = true ∧ i.requester ≠ w.requester) ∧
      (d.ingressCheck i n wr = 0 → d.physAllowed w.context i.addr n wr = true ∧
        ∀ p ∈ atomsOf i.addr n, d.admits (.tagged (tagOf w.context)) p.1 = true))) ∧
  (∀ (s : State) (path : HostPath) (a row : Nat) (bs : List Byte) (i : Ingress), bs ≠ [] → s.dev.ingress path a bs.length = some i →
    row = s.dev.ingressCheck i bs.length true →
    (row ≠ 0 → ∃ t, exec (.hostClassWrite path a bs) s = .next t ∧ t.dev.mem = s.dev.mem ∧
      t.dev.out = s.dev.out ++ [match path with | .uio _ => .unsupported | _ => .writeDone] ∧ t.dev.glb.infoKind = row ∧
      t.dev.glb.faultAddr = i.addr % 2 ^ 40 ∧ t.dev.glb.ingressFaults = satInc32 s.dev.glb.ingressFaults 1 ∧
      (row ≠ 4 → (t.dev.leaf .host).testBit 2 = true)) ∧
    (row = 0 → bs.length = 64 → i.addr % 64 = 0 → i.addr < 12 * 2 ^ 36 → s.dev.blocked i.addr = false →
      (s.dev.mem.frame (stackOf i.addr) (frameOf i.addr)).zero = false → s.dev.mem.upsets.get [] (s.dev.mem.locate i.addr / 64) = [] →
      ∃ t, exec (.hostClassWrite path a bs) s = .next t ∧ t.dev.mem.bytes i.addr 64 = bs ∧ t.dev.out = s.dev.out ++ [.writeDone] ∧
        t.dev.glb = s.dev.glb ∧ (∀ b, ¬ (s.dev.mem.locate i.addr ≤ s.dev.mem.locate b ∧ s.dev.mem.locate b < s.dev.mem.locate i.addr + 64) →
          t.dev.mem.byte b = s.dev.mem.byte b)) ∧
    (row = 0 → bs.length = 64 → i.addr % 64 = 0 → i.addr < 12 * 2 ^ 36 → s.dev.blocked i.addr = false →
      (s.dev.mem.frame (stackOf i.addr) (frameOf i.addr)).zero = true → ∃ t, exec (.hostClassWrite path a bs) s = .next t ∧ t.dev.out = s.dev.out ∧
        t.dev.mem.cells = s.dev.mem.cells ∧ frameOf i.addr ∈ (t.dev.mem.stack (stackOf i.addr)).filling)) ∧
  (∀ (s : State) (path : HostPath) (a n row : Nat) (i : Ingress), n ≠ 0 → s.dev.ingress path a n = some i → row = s.dev.ingressCheck i n false →
    (row ≠ 0 → ∃ t o, exec (.hostClassRead path a n) s = .next t ∧ t.dev.mem = s.dev.mem ∧ t.dev.out = s.dev.out ++ [o] ∧
      (row = 4 → o = .readData (List.replicate n 0) true) ∧ (row = 2 → o = .unsupported) ∧
      (row = 1 ∨ row = 3 → path = .mem → o = .readData (List.replicate n 0) true) ∧ (row = 1 ∨ row = 3 → path ≠ .mem → o = .unsupported)) ∧
    (row = 0 → i.addr % 64 + n ≤ 64 → s.dev.blocked i.addr = false →
      (s.dev.mem.frame (stackOf i.addr) (frameOf i.addr)).zero = false → s.dev.mem.upsets.get [] (s.dev.mem.locate i.addr / 64) = [] →
      ∃ t, exec (.hostClassRead path a n) s = .next t ∧ t.dev.mem.cells = s.dev.mem.cells ∧
        t.dev.out = s.dev.out ++ [.readData (slice (s.dev.mem.bytes (i.addr / 64 * 64) 64) (i.addr % 64) n) (s.dev.mem.isPoison i.addr)] ∧
        (s.dev.mem.isPoison i.addr = true → (t.dev.leaf .host).testBit 3 = true ∧
          t.dev.glb.poisonReads = satInc32 s.dev.glb.poisonReads 1))) ∧
  (∀ (s : State) (speed width : Nat) (f c : Bool), s.pwr.boot = .selftest ∨ s.pwr.boot = .ready ∨ s.pwr.boot = .recovery →
    ∃ t, exec (.linkTrained speed width f c) s = .next t ∧ t.dev.glb = { s.dev.glb with speed := speed, width := width, flit256 := f, cxlMem := c && decide (5 ≤ speed), dlUp := true } ∧
      (c = false ∨ speed < 5 → (t.dev.leaf .host).testBit 4 = true) ∧ (c = true → 5 ≤ speed → t.dev.leaves = s.dev.leaves)) ∧
  (∀ (s : State) (a : Nat), s.ready = true → s.dev.glb.dlUp = true → s.dev.glb.cxlMem = true →
    ∃ t, exec (.decoderCommit a) s = .next t ∧ t.dev.glb = { s.dev.glb with committed := true, hpaBase := a } ∧ t.dev.mem = s.dev.mem) ∧
  (∀ (s : State) (c : Instr), (c = .perstAssert ∧ s.pwr.boot ≠ .off) ∨ (s.dev.glb.dlUp = true ∧ (c = .hotReset ∨ c = .pfFlr ∨ c = .dataLinkDown)) →
    ∃ t, exec c s = .next t ∧ t.dev.glb.committed = false ∧ t.dev.glb.vfEnable = false ∧ t.dev.glb.lossCount = satInc32 s.dev.glb.lossCount 1 ∧
      (∀ k, k ≤ 64 → (t.dev.fn k).msixEnable = false ∧ (t.dev.fn k).busMaster = false) ∧ (t.dev.leaf .host).testBit 1 = true ∧
      (c ≠ .pfFlr → t.dev.glb.dlUp = false ∧ t.dev.glb.hostLost = true ∧ t.dev.glb.speed = 0) ∧
      (c = .pfFlr → t.dev.glb.dlUp = s.dev.glb.dlUp ∧ t.dev.glb.hostLost = s.dev.glb.hostLost) ∧
      t.dev.mem = s.dev.mem ∧ t.dev.glb.windows = s.dev.glb.windows ∧ t.dev.glb.aperture = s.dev.glb.aperture ∧ t.dev.seats = s.dev.seats ∧
      t.dev.trk = s.dev.trk ∧
      (∀ p ∈ t.dev.board, p.op.opcode = 0x80 → p.phase = .running ∨ p.phase = .finished → p.status = .hostLost) ∧
      (∀ p ∈ t.dev.board, p.hostRead = true → p.phase ≠ .running) ∧
      (s.lay.shadow = .loading → t.lay.shadow = .refused ∧ t.lay.code = 1) ∧ (s.mgt.state = .staging → t.mgt.state = .failed ∧ t.mgt.error = 1)) ∧
  (∀ s : State, (s.dev.glb.dlUp = true → ∃ t, exec .linkUp s = .next t ∧ t.dev.glb = { s.dev.glb with hostLost := false } ∧ t.dev.rings = s.dev.rings) ∧
    (s.dev.glb.dlUp = false → exec .linkUp s = .next s))


/-! ## Reset and the invariant -/

/-- What a cold reset leaves (R76, R129, R167, R221, R252, R367, R386, R409, R443, R514, R551, R560): the queue, the scoreboard and the outputs are
empty; no leaf is set and none masked; every ring, slot, seat and port holds the reset values of its registers; every frame is FREE and ZERO_PENDING; no
image is active and the shadow buffer is EMPTY; only D0 is on, PWR_LIMIT is 2,600 W and the governor's level 0; and the invariant of the model holds. The
values of registers to which the manual gives none are the model's (log 6), and no clause rests on them. -/
def Obligations.ResetState : Prop :=
  ∀ s : State, s = State.reset →
    s.pending = [] ∧ s.dev.board = [] ∧ s.dev.out = [] ∧ (∀ r, s.dev.leaf r = 0) ∧ (∀ r, s.dev.mask r = 0) ∧
    (∀ i k, k = s.dev.ring i → k.tail = 0 ∧ k.fetched = 0 ∧ k.completed = 0 ∧ k.consumed = 0 ∧ k.generation = 0 ∧ k.stale = 0 ∧ k.dbErr = 0 ∧
      k.state = .inactive ∧ k.pin = none ∧ k.crushed = 0 ∧ k.widened = 0 ∧ k.clamped = 0) ∧
    (∀ n k, k = s.dev.seat n → k.state = .unused ∧ k.handoffs = 0 ∧ k.tagRejects = 0 ∧ k.faultKind = 0) ∧
    (∀ x i, (s.dev.seg x i).enable = false) ∧
    (∀ p k, k = s.dev.port p → k.state = .disabled ∧ k.refuse = 0 ∧ k.crcErrors = 0 ∧ k.creditData = 1024 ∧ k.creditControl = 64) ∧
    (∀ x f, s.dev.mem.frame x f = ⟨.free, 0, true⟩) ∧ (∀ x, (s.dev.mem.stack x).thermal = .normal) ∧ s.dev.held = true ∧
    s.lay.shadow = .empty ∧ s.tst.state = .empty ∧ s.dev.trk.tricks = [] ∧ s.dev.trk.lce = 0 ∧ s.dev.trk.floor = 0 ∧ s.dev.domainOn = 1 ∧
    s.dev.slow = 0 ∧ s.pwr.boot = .rom ∧ s.pwr.limit = 2600 ∧ s.pwr.level = 0 ∧ s.pwr.throttled = 0 ∧ s.mgt.selftestDone = false ∧
    s.pfValue 0x1F00008 = 2600 ∧ s.pfValue 0x1F0000C = 0 ∧ s.pfValue 0x20004 % 8 = 0 ∧ s.pfValue 0x1C00004 = 0 ∧ Inv s

/-- The invariant of the model (R42, R62, R516, R520, R521, R551) is kept by every step, whatever command stands at the front of the queue. -/
def Obligations.InvariantKept : Prop :=
  ∀ s t : State, Inv s → step s = .next t → Inv t
end

