-- ==== Sys2Proof/Laws/Read.lean ====
section
/-! SUPPORT. What each reading of a record gives after each named update that leaves it as it was. -/

namespace Sys2Proof.Machine

/-! updRing -/

@[simp] theorem Dev.slot_updRing_keep (d : Dev) (i : Nat) (f : Ring → Ring) (j : Nat) : (d.updRing i f).slot j = d.slot j := rfl
@[simp] theorem Dev.seat_updRing_keep (d : Dev) (i : Nat) (f : Ring → Ring) (j : Nat) : (d.updRing i f).seat j = d.seat j := rfl
@[simp] theorem Dev.ctx_updRing_keep (d : Dev) (i : Nat) (f : Ring → Ring) (j : Nat) : (d.updRing i f).ctx j = d.ctx j := rfl
@[simp] theorem Dev.core_updRing_keep (d : Dev) (i : Nat) (f : Ring → Ring) (j : Nat) : (d.updRing i f).core j = d.core j := rfl
@[simp] theorem Dev.port_updRing_keep (d : Dev) (i : Nat) (f : Ring → Ring) (j : Nat) : (d.updRing i f).port j = d.port j := rfl
@[simp] theorem Dev.unit_updRing_keep (d : Dev) (i : Nat) (f : Ring → Ring) (j : Nat) : (d.updRing i f).unit j = d.unit j := rfl
@[simp] theorem Dev.window_updRing_keep (d : Dev) (i : Nat) (f : Ring → Ring) (j : Nat) : (d.updRing i f).window j = d.window j := rfl
@[simp] theorem Dev.fn_updRing_keep (d : Dev) (i : Nat) (f : Ring → Ring) (j : Nat) : (d.updRing i f).fn j = d.fn j := rfl
@[simp] theorem Dev.leaf_updRing_keep (d : Dev) (i : Nat) (f : Ring → Ring) (q : LeafReg) : (d.updRing i f).leaf q = d.leaf q := rfl
@[simp] theorem Dev.mask_updRing_keep (d : Dev) (i : Nat) (f : Ring → Ring) (q : LeafReg) : (d.updRing i f).mask q = d.mask q := rfl
@[simp] theorem Dev.held_updRing_keep (d : Dev) (i : Nat) (f : Ring → Ring) : (d.updRing i f).held = d.held := rfl
@[simp] theorem Dev.place_updRing_keep (d : Dev) (i : Nat) (f : Ring → Ring) (j : Nat) : (d.updRing i f).place j = d.place j := rfl
@[simp] theorem Dev.seatRec_updRing_keep (d : Dev) (i : Nat) (f : Ring → Ring) (j : Nat) : (d.updRing i f).seatRec j = d.seatRec j := rfl
@[simp] theorem Dev.ringRec_updRing_keep (d : Dev) (i : Nat) (f : Ring → Ring) (j : Nat) : (d.updRing i f).ringRec j = d.ringRec j := rfl
@[simp] theorem Dev.clusterOwner_updRing_keep (d : Dev) (i : Nat) (f : Ring → Ring) (j : Nat) : (d.updRing i f).clusterOwner j = d.clusterOwner j := rfl
@[simp] theorem Dev.clustersOf_updRing_keep (d : Dev) (i : Nat) (f : Ring → Ring) (j : Nat) : (d.updRing i f).clustersOf j = d.clustersOf j := rfl
@[simp] theorem Dev.now_updRing_keep (d : Dev) (i : Nat) (f : Ring → Ring) (j : Nat) : (d.updRing i f).now j = d.now j := rfl
@[simp] theorem Dev.wcet_updRing_keep (d : Dev) (i : Nat) (f : Ring → Ring) (j : Nat) : (d.updRing i f).wcet j = d.wcet j := rfl

/-! updSlot -/

@[simp] theorem Dev.ring_updSlot_keep (d : Dev) (i : Nat) (f : Slot → Slot) (j : Nat) : (d.updSlot i f).ring j = d.ring j := rfl
@[simp] theorem Dev.seat_updSlot_keep (d : Dev) (i : Nat) (f : Slot → Slot) (j : Nat) : (d.updSlot i f).seat j = d.seat j := rfl
@[simp] theorem Dev.ctx_updSlot_keep (d : Dev) (i : Nat) (f : Slot → Slot) (j : Nat) : (d.updSlot i f).ctx j = d.ctx j := rfl
@[simp] theorem Dev.core_updSlot_keep (d : Dev) (i : Nat) (f : Slot → Slot) (j : Nat) : (d.updSlot i f).core j = d.core j := rfl
@[simp] theorem Dev.port_updSlot_keep (d : Dev) (i : Nat) (f : Slot → Slot) (j : Nat) : (d.updSlot i f).port j = d.port j := rfl
@[simp] theorem Dev.unit_updSlot_keep (d : Dev) (i : Nat) (f : Slot → Slot) (j : Nat) : (d.updSlot i f).unit j = d.unit j := rfl
@[simp] theorem Dev.window_updSlot_keep (d : Dev) (i : Nat) (f : Slot → Slot) (j : Nat) : (d.updSlot i f).window j = d.window j := rfl
@[simp] theorem Dev.fn_updSlot_keep (d : Dev) (i : Nat) (f : Slot → Slot) (j : Nat) : (d.updSlot i f).fn j = d.fn j := rfl
@[simp] theorem Dev.leaf_updSlot_keep (d : Dev) (i : Nat) (f : Slot → Slot) (q : LeafReg) : (d.updSlot i f).leaf q = d.leaf q := rfl
@[simp] theorem Dev.mask_updSlot_keep (d : Dev) (i : Nat) (f : Slot → Slot) (q : LeafReg) : (d.updSlot i f).mask q = d.mask q := rfl
@[simp] theorem Dev.held_updSlot_keep (d : Dev) (i : Nat) (f : Slot → Slot) : (d.updSlot i f).held = d.held := rfl
@[simp] theorem Dev.place_updSlot_keep (d : Dev) (i : Nat) (f : Slot → Slot) (j : Nat) : (d.updSlot i f).place j = d.place j := rfl
@[simp] theorem Dev.seatRec_updSlot_keep (d : Dev) (i : Nat) (f : Slot → Slot) (j : Nat) : (d.updSlot i f).seatRec j = d.seatRec j := rfl
@[simp] theorem Dev.ringRec_updSlot_keep (d : Dev) (i : Nat) (f : Slot → Slot) (j : Nat) : (d.updSlot i f).ringRec j = d.ringRec j := rfl
@[simp] theorem Dev.clusterOwner_updSlot_keep (d : Dev) (i : Nat) (f : Slot → Slot) (j : Nat) : (d.updSlot i f).clusterOwner j = d.clusterOwner j := rfl
@[simp] theorem Dev.clustersOf_updSlot_keep (d : Dev) (i : Nat) (f : Slot → Slot) (j : Nat) : (d.updSlot i f).clustersOf j = d.clustersOf j := rfl
@[simp] theorem Dev.now_updSlot_keep (d : Dev) (i : Nat) (f : Slot → Slot) (j : Nat) : (d.updSlot i f).now j = d.now j := rfl
@[simp] theorem Dev.wcet_updSlot_keep (d : Dev) (i : Nat) (f : Slot → Slot) (j : Nat) : (d.updSlot i f).wcet j = d.wcet j := rfl

/-! updSeat -/

@[simp] theorem Dev.ring_updSeat_keep (d : Dev) (i : Nat) (f : Seat → Seat) (j : Nat) : (d.updSeat i f).ring j = d.ring j := rfl
@[simp] theorem Dev.slot_updSeat_keep (d : Dev) (i : Nat) (f : Seat → Seat) (j : Nat) : (d.updSeat i f).slot j = d.slot j := rfl
@[simp] theorem Dev.ctx_updSeat_keep (d : Dev) (i : Nat) (f : Seat → Seat) (j : Nat) : (d.updSeat i f).ctx j = d.ctx j := rfl
@[simp] theorem Dev.core_updSeat_keep (d : Dev) (i : Nat) (f : Seat → Seat) (j : Nat) : (d.updSeat i f).core j = d.core j := rfl
@[simp] theorem Dev.port_updSeat_keep (d : Dev) (i : Nat) (f : Seat → Seat) (j : Nat) : (d.updSeat i f).port j = d.port j := rfl
@[simp] theorem Dev.unit_updSeat_keep (d : Dev) (i : Nat) (f : Seat → Seat) (j : Nat) : (d.updSeat i f).unit j = d.unit j := rfl
@[simp] theorem Dev.window_updSeat_keep (d : Dev) (i : Nat) (f : Seat → Seat) (j : Nat) : (d.updSeat i f).window j = d.window j := rfl
@[simp] theorem Dev.fn_updSeat_keep (d : Dev) (i : Nat) (f : Seat → Seat) (j : Nat) : (d.updSeat i f).fn j = d.fn j := rfl
@[simp] theorem Dev.leaf_updSeat_keep (d : Dev) (i : Nat) (f : Seat → Seat) (q : LeafReg) : (d.updSeat i f).leaf q = d.leaf q := rfl
@[simp] theorem Dev.mask_updSeat_keep (d : Dev) (i : Nat) (f : Seat → Seat) (q : LeafReg) : (d.updSeat i f).mask q = d.mask q := rfl
@[simp] theorem Dev.held_updSeat_keep (d : Dev) (i : Nat) (f : Seat → Seat) : (d.updSeat i f).held = d.held := rfl
@[simp] theorem Dev.place_updSeat_keep (d : Dev) (i : Nat) (f : Seat → Seat) (j : Nat) : (d.updSeat i f).place j = d.place j := rfl
@[simp] theorem Dev.seatRec_updSeat_keep (d : Dev) (i : Nat) (f : Seat → Seat) (j : Nat) : (d.updSeat i f).seatRec j = d.seatRec j := rfl
@[simp] theorem Dev.ringRec_updSeat_keep (d : Dev) (i : Nat) (f : Seat → Seat) (j : Nat) : (d.updSeat i f).ringRec j = d.ringRec j := rfl
@[simp] theorem Dev.clusterOwner_updSeat_keep (d : Dev) (i : Nat) (f : Seat → Seat) (j : Nat) : (d.updSeat i f).clusterOwner j = d.clusterOwner j := rfl
@[simp] theorem Dev.clustersOf_updSeat_keep (d : Dev) (i : Nat) (f : Seat → Seat) (j : Nat) : (d.updSeat i f).clustersOf j = d.clustersOf j := rfl
@[simp] theorem Dev.now_updSeat_keep (d : Dev) (i : Nat) (f : Seat → Seat) (j : Nat) : (d.updSeat i f).now j = d.now j := rfl
@[simp] theorem Dev.wcet_updSeat_keep (d : Dev) (i : Nat) (f : Seat → Seat) (j : Nat) : (d.updSeat i f).wcet j = d.wcet j := rfl

/-! updCtx -/

@[simp] theorem Dev.ring_updCtx_keep (d : Dev) (i : Nat) (f : Ctx → Ctx) (j : Nat) : (d.updCtx i f).ring j = d.ring j := rfl
@[simp] theorem Dev.slot_updCtx_keep (d : Dev) (i : Nat) (f : Ctx → Ctx) (j : Nat) : (d.updCtx i f).slot j = d.slot j := rfl
@[simp] theorem Dev.seat_updCtx_keep (d : Dev) (i : Nat) (f : Ctx → Ctx) (j : Nat) : (d.updCtx i f).seat j = d.seat j := rfl
@[simp] theorem Dev.core_updCtx_keep (d : Dev) (i : Nat) (f : Ctx → Ctx) (j : Nat) : (d.updCtx i f).core j = d.core j := rfl
@[simp] theorem Dev.port_updCtx_keep (d : Dev) (i : Nat) (f : Ctx → Ctx) (j : Nat) : (d.updCtx i f).port j = d.port j := rfl
@[simp] theorem Dev.unit_updCtx_keep (d : Dev) (i : Nat) (f : Ctx → Ctx) (j : Nat) : (d.updCtx i f).unit j = d.unit j := rfl
@[simp] theorem Dev.window_updCtx_keep (d : Dev) (i : Nat) (f : Ctx → Ctx) (j : Nat) : (d.updCtx i f).window j = d.window j := rfl
@[simp] theorem Dev.fn_updCtx_keep (d : Dev) (i : Nat) (f : Ctx → Ctx) (j : Nat) : (d.updCtx i f).fn j = d.fn j := rfl
@[simp] theorem Dev.leaf_updCtx_keep (d : Dev) (i : Nat) (f : Ctx → Ctx) (q : LeafReg) : (d.updCtx i f).leaf q = d.leaf q := rfl
@[simp] theorem Dev.mask_updCtx_keep (d : Dev) (i : Nat) (f : Ctx → Ctx) (q : LeafReg) : (d.updCtx i f).mask q = d.mask q := rfl
@[simp] theorem Dev.held_updCtx_keep (d : Dev) (i : Nat) (f : Ctx → Ctx) : (d.updCtx i f).held = d.held := rfl
@[simp] theorem Dev.place_updCtx_keep (d : Dev) (i : Nat) (f : Ctx → Ctx) (j : Nat) : (d.updCtx i f).place j = d.place j := rfl
@[simp] theorem Dev.seatRec_updCtx_keep (d : Dev) (i : Nat) (f : Ctx → Ctx) (j : Nat) : (d.updCtx i f).seatRec j = d.seatRec j := rfl
@[simp] theorem Dev.ringRec_updCtx_keep (d : Dev) (i : Nat) (f : Ctx → Ctx) (j : Nat) : (d.updCtx i f).ringRec j = d.ringRec j := rfl
@[simp] theorem Dev.clusterOwner_updCtx_keep (d : Dev) (i : Nat) (f : Ctx → Ctx) (j : Nat) : (d.updCtx i f).clusterOwner j = d.clusterOwner j := rfl
@[simp] theorem Dev.clustersOf_updCtx_keep (d : Dev) (i : Nat) (f : Ctx → Ctx) (j : Nat) : (d.updCtx i f).clustersOf j = d.clustersOf j := rfl
@[simp] theorem Dev.now_updCtx_keep (d : Dev) (i : Nat) (f : Ctx → Ctx) (j : Nat) : (d.updCtx i f).now j = d.now j := rfl
@[simp] theorem Dev.wcet_updCtx_keep (d : Dev) (i : Nat) (f : Ctx → Ctx) (j : Nat) : (d.updCtx i f).wcet j = d.wcet j := rfl

/-! updCore -/

@[simp] theorem Dev.ring_updCore_keep (d : Dev) (i : Nat) (f : Core → Core) (j : Nat) : (d.updCore i f).ring j = d.ring j := rfl
@[simp] theorem Dev.slot_updCore_keep (d : Dev) (i : Nat) (f : Core → Core) (j : Nat) : (d.updCore i f).slot j = d.slot j := rfl
@[simp] theorem Dev.seat_updCore_keep (d : Dev) (i : Nat) (f : Core → Core) (j : Nat) : (d.updCore i f).seat j = d.seat j := rfl
@[simp] theorem Dev.ctx_updCore_keep (d : Dev) (i : Nat) (f : Core → Core) (j : Nat) : (d.updCore i f).ctx j = d.ctx j := rfl
@[simp] theorem Dev.port_updCore_keep (d : Dev) (i : Nat) (f : Core → Core) (j : Nat) : (d.updCore i f).port j = d.port j := rfl
@[simp] theorem Dev.unit_updCore_keep (d : Dev) (i : Nat) (f : Core → Core) (j : Nat) : (d.updCore i f).unit j = d.unit j := rfl
@[simp] theorem Dev.window_updCore_keep (d : Dev) (i : Nat) (f : Core → Core) (j : Nat) : (d.updCore i f).window j = d.window j := rfl
@[simp] theorem Dev.fn_updCore_keep (d : Dev) (i : Nat) (f : Core → Core) (j : Nat) : (d.updCore i f).fn j = d.fn j := rfl
@[simp] theorem Dev.leaf_updCore_keep (d : Dev) (i : Nat) (f : Core → Core) (q : LeafReg) : (d.updCore i f).leaf q = d.leaf q := rfl
@[simp] theorem Dev.mask_updCore_keep (d : Dev) (i : Nat) (f : Core → Core) (q : LeafReg) : (d.updCore i f).mask q = d.mask q := rfl
@[simp] theorem Dev.held_updCore_keep (d : Dev) (i : Nat) (f : Core → Core) : (d.updCore i f).held = d.held := rfl
@[simp] theorem Dev.place_updCore_keep (d : Dev) (i : Nat) (f : Core → Core) (j : Nat) : (d.updCore i f).place j = d.place j := rfl
@[simp] theorem Dev.seatRec_updCore_keep (d : Dev) (i : Nat) (f : Core → Core) (j : Nat) : (d.updCore i f).seatRec j = d.seatRec j := rfl
@[simp] theorem Dev.ringRec_updCore_keep (d : Dev) (i : Nat) (f : Core → Core) (j : Nat) : (d.updCore i f).ringRec j = d.ringRec j := rfl
@[simp] theorem Dev.clusterOwner_updCore_keep (d : Dev) (i : Nat) (f : Core → Core) (j : Nat) : (d.updCore i f).clusterOwner j = d.clusterOwner j := rfl
@[simp] theorem Dev.clustersOf_updCore_keep (d : Dev) (i : Nat) (f : Core → Core) (j : Nat) : (d.updCore i f).clustersOf j = d.clustersOf j := rfl
@[simp] theorem Dev.now_updCore_keep (d : Dev) (i : Nat) (f : Core → Core) (j : Nat) : (d.updCore i f).now j = d.now j := rfl
@[simp] theorem Dev.wcet_updCore_keep (d : Dev) (i : Nat) (f : Core → Core) (j : Nat) : (d.updCore i f).wcet j = d.wcet j := rfl

/-! updStack -/

@[simp] theorem Dev.ring_updStack_keep (d : Dev) (i : Nat) (f : Stack → Stack) (j : Nat) : (d.updStack i f).ring j = d.ring j := rfl
@[simp] theorem Dev.slot_updStack_keep (d : Dev) (i : Nat) (f : Stack → Stack) (j : Nat) : (d.updStack i f).slot j = d.slot j := rfl
@[simp] theorem Dev.seat_updStack_keep (d : Dev) (i : Nat) (f : Stack → Stack) (j : Nat) : (d.updStack i f).seat j = d.seat j := rfl
@[simp] theorem Dev.ctx_updStack_keep (d : Dev) (i : Nat) (f : Stack → Stack) (j : Nat) : (d.updStack i f).ctx j = d.ctx j := rfl
@[simp] theorem Dev.core_updStack_keep (d : Dev) (i : Nat) (f : Stack → Stack) (j : Nat) : (d.updStack i f).core j = d.core j := rfl
@[simp] theorem Dev.port_updStack_keep (d : Dev) (i : Nat) (f : Stack → Stack) (j : Nat) : (d.updStack i f).port j = d.port j := rfl
@[simp] theorem Dev.unit_updStack_keep (d : Dev) (i : Nat) (f : Stack → Stack) (j : Nat) : (d.updStack i f).unit j = d.unit j := rfl
@[simp] theorem Dev.window_updStack_keep (d : Dev) (i : Nat) (f : Stack → Stack) (j : Nat) : (d.updStack i f).window j = d.window j := rfl
@[simp] theorem Dev.fn_updStack_keep (d : Dev) (i : Nat) (f : Stack → Stack) (j : Nat) : (d.updStack i f).fn j = d.fn j := rfl
@[simp] theorem Dev.leaf_updStack_keep (d : Dev) (i : Nat) (f : Stack → Stack) (q : LeafReg) : (d.updStack i f).leaf q = d.leaf q := rfl
@[simp] theorem Dev.mask_updStack_keep (d : Dev) (i : Nat) (f : Stack → Stack) (q : LeafReg) : (d.updStack i f).mask q = d.mask q := rfl
@[simp] theorem Dev.held_updStack_keep (d : Dev) (i : Nat) (f : Stack → Stack) : (d.updStack i f).held = d.held := rfl
@[simp] theorem Dev.place_updStack_keep (d : Dev) (i : Nat) (f : Stack → Stack) (j : Nat) : (d.updStack i f).place j = d.place j := rfl
@[simp] theorem Dev.seatRec_updStack_keep (d : Dev) (i : Nat) (f : Stack → Stack) (j : Nat) : (d.updStack i f).seatRec j = d.seatRec j := rfl
@[simp] theorem Dev.ringRec_updStack_keep (d : Dev) (i : Nat) (f : Stack → Stack) (j : Nat) : (d.updStack i f).ringRec j = d.ringRec j := rfl
@[simp] theorem Dev.clusterOwner_updStack_keep (d : Dev) (i : Nat) (f : Stack → Stack) (j : Nat) : (d.updStack i f).clusterOwner j = d.clusterOwner j := rfl
@[simp] theorem Dev.clustersOf_updStack_keep (d : Dev) (i : Nat) (f : Stack → Stack) (j : Nat) : (d.updStack i f).clustersOf j = d.clustersOf j := rfl
@[simp] theorem Dev.now_updStack_keep (d : Dev) (i : Nat) (f : Stack → Stack) (j : Nat) : (d.updStack i f).now j = d.now j := rfl
@[simp] theorem Dev.wcet_updStack_keep (d : Dev) (i : Nat) (f : Stack → Stack) (j : Nat) : (d.updStack i f).wcet j = d.wcet j := rfl

/-! updPort -/

@[simp] theorem Dev.ring_updPort_keep (d : Dev) (i : Nat) (f : Port → Port) (j : Nat) : (d.updPort i f).ring j = d.ring j := rfl
@[simp] theorem Dev.slot_updPort_keep (d : Dev) (i : Nat) (f : Port → Port) (j : Nat) : (d.updPort i f).slot j = d.slot j := rfl
@[simp] theorem Dev.seat_updPort_keep (d : Dev) (i : Nat) (f : Port → Port) (j : Nat) : (d.updPort i f).seat j = d.seat j := rfl
@[simp] theorem Dev.ctx_updPort_keep (d : Dev) (i : Nat) (f : Port → Port) (j : Nat) : (d.updPort i f).ctx j = d.ctx j := rfl
@[simp] theorem Dev.core_updPort_keep (d : Dev) (i : Nat) (f : Port → Port) (j : Nat) : (d.updPort i f).core j = d.core j := rfl
@[simp] theorem Dev.unit_updPort_keep (d : Dev) (i : Nat) (f : Port → Port) (j : Nat) : (d.updPort i f).unit j = d.unit j := rfl
@[simp] theorem Dev.window_updPort_keep (d : Dev) (i : Nat) (f : Port → Port) (j : Nat) : (d.updPort i f).window j = d.window j := rfl
@[simp] theorem Dev.fn_updPort_keep (d : Dev) (i : Nat) (f : Port → Port) (j : Nat) : (d.updPort i f).fn j = d.fn j := rfl
@[simp] theorem Dev.leaf_updPort_keep (d : Dev) (i : Nat) (f : Port → Port) (q : LeafReg) : (d.updPort i f).leaf q = d.leaf q := rfl
@[simp] theorem Dev.mask_updPort_keep (d : Dev) (i : Nat) (f : Port → Port) (q : LeafReg) : (d.updPort i f).mask q = d.mask q := rfl
@[simp] theorem Dev.held_updPort_keep (d : Dev) (i : Nat) (f : Port → Port) : (d.updPort i f).held = d.held := rfl
@[simp] theorem Dev.place_updPort_keep (d : Dev) (i : Nat) (f : Port → Port) (j : Nat) : (d.updPort i f).place j = d.place j := rfl
@[simp] theorem Dev.seatRec_updPort_keep (d : Dev) (i : Nat) (f : Port → Port) (j : Nat) : (d.updPort i f).seatRec j = d.seatRec j := rfl
@[simp] theorem Dev.ringRec_updPort_keep (d : Dev) (i : Nat) (f : Port → Port) (j : Nat) : (d.updPort i f).ringRec j = d.ringRec j := rfl
@[simp] theorem Dev.clusterOwner_updPort_keep (d : Dev) (i : Nat) (f : Port → Port) (j : Nat) : (d.updPort i f).clusterOwner j = d.clusterOwner j := rfl
@[simp] theorem Dev.clustersOf_updPort_keep (d : Dev) (i : Nat) (f : Port → Port) (j : Nat) : (d.updPort i f).clustersOf j = d.clustersOf j := rfl
@[simp] theorem Dev.now_updPort_keep (d : Dev) (i : Nat) (f : Port → Port) (j : Nat) : (d.updPort i f).now j = d.now j := rfl
@[simp] theorem Dev.wcet_updPort_keep (d : Dev) (i : Nat) (f : Port → Port) (j : Nat) : (d.updPort i f).wcet j = d.wcet j := rfl

/-! updUnit -/

@[simp] theorem Dev.ring_updUnit_keep (d : Dev) (i : Nat) (f : ChkUnit → ChkUnit) (j : Nat) : (d.updUnit i f).ring j = d.ring j := rfl
@[simp] theorem Dev.slot_updUnit_keep (d : Dev) (i : Nat) (f : ChkUnit → ChkUnit) (j : Nat) : (d.updUnit i f).slot j = d.slot j := rfl
@[simp] theorem Dev.seat_updUnit_keep (d : Dev) (i : Nat) (f : ChkUnit → ChkUnit) (j : Nat) : (d.updUnit i f).seat j = d.seat j := rfl
@[simp] theorem Dev.ctx_updUnit_keep (d : Dev) (i : Nat) (f : ChkUnit → ChkUnit) (j : Nat) : (d.updUnit i f).ctx j = d.ctx j := rfl
@[simp] theorem Dev.core_updUnit_keep (d : Dev) (i : Nat) (f : ChkUnit → ChkUnit) (j : Nat) : (d.updUnit i f).core j = d.core j := rfl
@[simp] theorem Dev.port_updUnit_keep (d : Dev) (i : Nat) (f : ChkUnit → ChkUnit) (j : Nat) : (d.updUnit i f).port j = d.port j := rfl
@[simp] theorem Dev.window_updUnit_keep (d : Dev) (i : Nat) (f : ChkUnit → ChkUnit) (j : Nat) : (d.updUnit i f).window j = d.window j := rfl
@[simp] theorem Dev.fn_updUnit_keep (d : Dev) (i : Nat) (f : ChkUnit → ChkUnit) (j : Nat) : (d.updUnit i f).fn j = d.fn j := rfl
@[simp] theorem Dev.leaf_updUnit_keep (d : Dev) (i : Nat) (f : ChkUnit → ChkUnit) (q : LeafReg) : (d.updUnit i f).leaf q = d.leaf q := rfl
@[simp] theorem Dev.mask_updUnit_keep (d : Dev) (i : Nat) (f : ChkUnit → ChkUnit) (q : LeafReg) : (d.updUnit i f).mask q = d.mask q := rfl
@[simp] theorem Dev.held_updUnit_keep (d : Dev) (i : Nat) (f : ChkUnit → ChkUnit) : (d.updUnit i f).held = d.held := rfl
@[simp] theorem Dev.place_updUnit_keep (d : Dev) (i : Nat) (f : ChkUnit → ChkUnit) (j : Nat) : (d.updUnit i f).place j = d.place j := rfl
@[simp] theorem Dev.seatRec_updUnit_keep (d : Dev) (i : Nat) (f : ChkUnit → ChkUnit) (j : Nat) : (d.updUnit i f).seatRec j = d.seatRec j := rfl
@[simp] theorem Dev.ringRec_updUnit_keep (d : Dev) (i : Nat) (f : ChkUnit → ChkUnit) (j : Nat) : (d.updUnit i f).ringRec j = d.ringRec j := rfl
@[simp] theorem Dev.clusterOwner_updUnit_keep (d : Dev) (i : Nat) (f : ChkUnit → ChkUnit) (j : Nat) : (d.updUnit i f).clusterOwner j = d.clusterOwner j := rfl
@[simp] theorem Dev.clustersOf_updUnit_keep (d : Dev) (i : Nat) (f : ChkUnit → ChkUnit) (j : Nat) : (d.updUnit i f).clustersOf j = d.clustersOf j := rfl
@[simp] theorem Dev.now_updUnit_keep (d : Dev) (i : Nat) (f : ChkUnit → ChkUnit) (j : Nat) : (d.updUnit i f).now j = d.now j := rfl
@[simp] theorem Dev.wcet_updUnit_keep (d : Dev) (i : Nat) (f : ChkUnit → ChkUnit) (j : Nat) : (d.updUnit i f).wcet j = d.wcet j := rfl

/-! updWindow -/

@[simp] theorem Dev.ring_updWindow_keep (d : Dev) (i : Nat) (f : Window → Window) (j : Nat) : (d.updWindow i f).ring j = d.ring j := rfl
@[simp] theorem Dev.slot_updWindow_keep (d : Dev) (i : Nat) (f : Window → Window) (j : Nat) : (d.updWindow i f).slot j = d.slot j := rfl
@[simp] theorem Dev.seat_updWindow_keep (d : Dev) (i : Nat) (f : Window → Window) (j : Nat) : (d.updWindow i f).seat j = d.seat j := rfl
@[simp] theorem Dev.ctx_updWindow_keep (d : Dev) (i : Nat) (f : Window → Window) (j : Nat) : (d.updWindow i f).ctx j = d.ctx j := rfl
@[simp] theorem Dev.core_updWindow_keep (d : Dev) (i : Nat) (f : Window → Window) (j : Nat) : (d.updWindow i f).core j = d.core j := rfl
@[simp] theorem Dev.port_updWindow_keep (d : Dev) (i : Nat) (f : Window → Window) (j : Nat) : (d.updWindow i f).port j = d.port j := rfl
@[simp] theorem Dev.unit_updWindow_keep (d : Dev) (i : Nat) (f : Window → Window) (j : Nat) : (d.updWindow i f).unit j = d.unit j := rfl
@[simp] theorem Dev.fn_updWindow_keep (d : Dev) (i : Nat) (f : Window → Window) (j : Nat) : (d.updWindow i f).fn j = d.fn j := rfl
@[simp] theorem Dev.leaf_updWindow_keep (d : Dev) (i : Nat) (f : Window → Window) (q : LeafReg) : (d.updWindow i f).leaf q = d.leaf q := rfl
@[simp] theorem Dev.mask_updWindow_keep (d : Dev) (i : Nat) (f : Window → Window) (q : LeafReg) : (d.updWindow i f).mask q = d.mask q := rfl
@[simp] theorem Dev.held_updWindow_keep (d : Dev) (i : Nat) (f : Window → Window) : (d.updWindow i f).held = d.held := rfl
@[simp] theorem Dev.place_updWindow_keep (d : Dev) (i : Nat) (f : Window → Window) (j : Nat) : (d.updWindow i f).place j = d.place j := rfl
@[simp] theorem Dev.seatRec_updWindow_keep (d : Dev) (i : Nat) (f : Window → Window) (j : Nat) : (d.updWindow i f).seatRec j = d.seatRec j := rfl
@[simp] theorem Dev.ringRec_updWindow_keep (d : Dev) (i : Nat) (f : Window → Window) (j : Nat) : (d.updWindow i f).ringRec j = d.ringRec j := rfl
@[simp] theorem Dev.clusterOwner_updWindow_keep (d : Dev) (i : Nat) (f : Window → Window) (j : Nat) : (d.updWindow i f).clusterOwner j = d.clusterOwner j := rfl
@[simp] theorem Dev.clustersOf_updWindow_keep (d : Dev) (i : Nat) (f : Window → Window) (j : Nat) : (d.updWindow i f).clustersOf j = d.clustersOf j := rfl
@[simp] theorem Dev.now_updWindow_keep (d : Dev) (i : Nat) (f : Window → Window) (j : Nat) : (d.updWindow i f).now j = d.now j := rfl
@[simp] theorem Dev.wcet_updWindow_keep (d : Dev) (i : Nat) (f : Window → Window) (j : Nat) : (d.updWindow i f).wcet j = d.wcet j := rfl

/-! updFn -/

@[simp] theorem Dev.ring_updFn_keep (d : Dev) (i : Nat) (f : FnCfg → FnCfg) (j : Nat) : (d.updFn i f).ring j = d.ring j := rfl
@[simp] theorem Dev.slot_updFn_keep (d : Dev) (i : Nat) (f : FnCfg → FnCfg) (j : Nat) : (d.updFn i f).slot j = d.slot j := rfl
@[simp] theorem Dev.seat_updFn_keep (d : Dev) (i : Nat) (f : FnCfg → FnCfg) (j : Nat) : (d.updFn i f).seat j = d.seat j := rfl
@[simp] theorem Dev.ctx_updFn_keep (d : Dev) (i : Nat) (f : FnCfg → FnCfg) (j : Nat) : (d.updFn i f).ctx j = d.ctx j := rfl
@[simp] theorem Dev.core_updFn_keep (d : Dev) (i : Nat) (f : FnCfg → FnCfg) (j : Nat) : (d.updFn i f).core j = d.core j := rfl
@[simp] theorem Dev.port_updFn_keep (d : Dev) (i : Nat) (f : FnCfg → FnCfg) (j : Nat) : (d.updFn i f).port j = d.port j := rfl
@[simp] theorem Dev.unit_updFn_keep (d : Dev) (i : Nat) (f : FnCfg → FnCfg) (j : Nat) : (d.updFn i f).unit j = d.unit j := rfl
@[simp] theorem Dev.window_updFn_keep (d : Dev) (i : Nat) (f : FnCfg → FnCfg) (j : Nat) : (d.updFn i f).window j = d.window j := rfl
@[simp] theorem Dev.leaf_updFn_keep (d : Dev) (i : Nat) (f : FnCfg → FnCfg) (q : LeafReg) : (d.updFn i f).leaf q = d.leaf q := rfl
@[simp] theorem Dev.mask_updFn_keep (d : Dev) (i : Nat) (f : FnCfg → FnCfg) (q : LeafReg) : (d.updFn i f).mask q = d.mask q := rfl
@[simp] theorem Dev.held_updFn_keep (d : Dev) (i : Nat) (f : FnCfg → FnCfg) : (d.updFn i f).held = d.held := rfl
@[simp] theorem Dev.place_updFn_keep (d : Dev) (i : Nat) (f : FnCfg → FnCfg) (j : Nat) : (d.updFn i f).place j = d.place j := rfl
@[simp] theorem Dev.seatRec_updFn_keep (d : Dev) (i : Nat) (f : FnCfg → FnCfg) (j : Nat) : (d.updFn i f).seatRec j = d.seatRec j := rfl
@[simp] theorem Dev.ringRec_updFn_keep (d : Dev) (i : Nat) (f : FnCfg → FnCfg) (j : Nat) : (d.updFn i f).ringRec j = d.ringRec j := rfl
@[simp] theorem Dev.clusterOwner_updFn_keep (d : Dev) (i : Nat) (f : FnCfg → FnCfg) (j : Nat) : (d.updFn i f).clusterOwner j = d.clusterOwner j := rfl
@[simp] theorem Dev.clustersOf_updFn_keep (d : Dev) (i : Nat) (f : FnCfg → FnCfg) (j : Nat) : (d.updFn i f).clustersOf j = d.clustersOf j := rfl
@[simp] theorem Dev.now_updFn_keep (d : Dev) (i : Nat) (f : FnCfg → FnCfg) (j : Nat) : (d.updFn i f).now j = d.now j := rfl
@[simp] theorem Dev.wcet_updFn_keep (d : Dev) (i : Nat) (f : FnCfg → FnCfg) (j : Nat) : (d.updFn i f).wcet j = d.wcet j := rfl

/-! setLeaf -/

@[simp] theorem Dev.ring_setLeaf_keep (d : Dev) (r : LeafReg) (b : Nat) (j : Nat) : (d.setLeaf r b).ring j = d.ring j := rfl
@[simp] theorem Dev.slot_setLeaf_keep (d : Dev) (r : LeafReg) (b : Nat) (j : Nat) : (d.setLeaf r b).slot j = d.slot j := rfl
@[simp] theorem Dev.seat_setLeaf_keep (d : Dev) (r : LeafReg) (b : Nat) (j : Nat) : (d.setLeaf r b).seat j = d.seat j := rfl
@[simp] theorem Dev.ctx_setLeaf_keep (d : Dev) (r : LeafReg) (b : Nat) (j : Nat) : (d.setLeaf r b).ctx j = d.ctx j := rfl
@[simp] theorem Dev.core_setLeaf_keep (d : Dev) (r : LeafReg) (b : Nat) (j : Nat) : (d.setLeaf r b).core j = d.core j := rfl
@[simp] theorem Dev.port_setLeaf_keep (d : Dev) (r : LeafReg) (b : Nat) (j : Nat) : (d.setLeaf r b).port j = d.port j := rfl
@[simp] theorem Dev.unit_setLeaf_keep (d : Dev) (r : LeafReg) (b : Nat) (j : Nat) : (d.setLeaf r b).unit j = d.unit j := rfl
@[simp] theorem Dev.window_setLeaf_keep (d : Dev) (r : LeafReg) (b : Nat) (j : Nat) : (d.setLeaf r b).window j = d.window j := rfl
@[simp] theorem Dev.fn_setLeaf_keep (d : Dev) (r : LeafReg) (b : Nat) (j : Nat) : (d.setLeaf r b).fn j = d.fn j := rfl
@[simp] theorem Dev.mask_setLeaf_keep (d : Dev) (r : LeafReg) (b : Nat) (q : LeafReg) : (d.setLeaf r b).mask q = d.mask q := rfl
@[simp] theorem Dev.held_setLeaf_keep (d : Dev) (r : LeafReg) (b : Nat) : (d.setLeaf r b).held = d.held := rfl
@[simp] theorem Dev.place_setLeaf_keep (d : Dev) (r : LeafReg) (b : Nat) (j : Nat) : (d.setLeaf r b).place j = d.place j := rfl
@[simp] theorem Dev.seatRec_setLeaf_keep (d : Dev) (r : LeafReg) (b : Nat) (j : Nat) : (d.setLeaf r b).seatRec j = d.seatRec j := rfl
@[simp] theorem Dev.ringRec_setLeaf_keep (d : Dev) (r : LeafReg) (b : Nat) (j : Nat) : (d.setLeaf r b).ringRec j = d.ringRec j := rfl
@[simp] theorem Dev.clusterOwner_setLeaf_keep (d : Dev) (r : LeafReg) (b : Nat) (j : Nat) : (d.setLeaf r b).clusterOwner j = d.clusterOwner j := rfl
@[simp] theorem Dev.clustersOf_setLeaf_keep (d : Dev) (r : LeafReg) (b : Nat) (j : Nat) : (d.setLeaf r b).clustersOf j = d.clustersOf j := rfl
@[simp] theorem Dev.now_setLeaf_keep (d : Dev) (r : LeafReg) (b : Nat) (j : Nat) : (d.setLeaf r b).now j = d.now j := rfl
@[simp] theorem Dev.wcet_setLeaf_keep (d : Dev) (r : LeafReg) (b : Nat) (j : Nat) : (d.setLeaf r b).wcet j = d.wcet j := rfl

/-! clearLeaf -/

@[simp] theorem Dev.ring_clearLeaf_keep (d : Dev) (r : LeafReg) (v : Nat) (j : Nat) : (d.clearLeaf r v).ring j = d.ring j := rfl
@[simp] theorem Dev.slot_clearLeaf_keep (d : Dev) (r : LeafReg) (v : Nat) (j : Nat) : (d.clearLeaf r v).slot j = d.slot j := rfl
@[simp] theorem Dev.seat_clearLeaf_keep (d : Dev) (r : LeafReg) (v : Nat) (j : Nat) : (d.clearLeaf r v).seat j = d.seat j := rfl
@[simp] theorem Dev.ctx_clearLeaf_keep (d : Dev) (r : LeafReg) (v : Nat) (j : Nat) : (d.clearLeaf r v).ctx j = d.ctx j := rfl
@[simp] theorem Dev.core_clearLeaf_keep (d : Dev) (r : LeafReg) (v : Nat) (j : Nat) : (d.clearLeaf r v).core j = d.core j := rfl
@[simp] theorem Dev.port_clearLeaf_keep (d : Dev) (r : LeafReg) (v : Nat) (j : Nat) : (d.clearLeaf r v).port j = d.port j := rfl
@[simp] theorem Dev.unit_clearLeaf_keep (d : Dev) (r : LeafReg) (v : Nat) (j : Nat) : (d.clearLeaf r v).unit j = d.unit j := rfl
@[simp] theorem Dev.window_clearLeaf_keep (d : Dev) (r : LeafReg) (v : Nat) (j : Nat) : (d.clearLeaf r v).window j = d.window j := rfl
@[simp] theorem Dev.fn_clearLeaf_keep (d : Dev) (r : LeafReg) (v : Nat) (j : Nat) : (d.clearLeaf r v).fn j = d.fn j := rfl
@[simp] theorem Dev.mask_clearLeaf_keep (d : Dev) (r : LeafReg) (v : Nat) (q : LeafReg) : (d.clearLeaf r v).mask q = d.mask q := rfl
@[simp] theorem Dev.held_clearLeaf_keep (d : Dev) (r : LeafReg) (v : Nat) : (d.clearLeaf r v).held = d.held := rfl
@[simp] theorem Dev.place_clearLeaf_keep (d : Dev) (r : LeafReg) (v : Nat) (j : Nat) : (d.clearLeaf r v).place j = d.place j := rfl
@[simp] theorem Dev.seatRec_clearLeaf_keep (d : Dev) (r : LeafReg) (v : Nat) (j : Nat) : (d.clearLeaf r v).seatRec j = d.seatRec j := rfl
@[simp] theorem Dev.ringRec_clearLeaf_keep (d : Dev) (r : LeafReg) (v : Nat) (j : Nat) : (d.clearLeaf r v).ringRec j = d.ringRec j := rfl
@[simp] theorem Dev.clusterOwner_clearLeaf_keep (d : Dev) (r : LeafReg) (v : Nat) (j : Nat) : (d.clearLeaf r v).clusterOwner j = d.clusterOwner j := rfl
@[simp] theorem Dev.clustersOf_clearLeaf_keep (d : Dev) (r : LeafReg) (v : Nat) (j : Nat) : (d.clearLeaf r v).clustersOf j = d.clustersOf j := rfl
@[simp] theorem Dev.now_clearLeaf_keep (d : Dev) (r : LeafReg) (v : Nat) (j : Nat) : (d.clearLeaf r v).now j = d.now j := rfl
@[simp] theorem Dev.wcet_clearLeaf_keep (d : Dev) (r : LeafReg) (v : Nat) (j : Nat) : (d.clearLeaf r v).wcet j = d.wcet j := rfl

/-! zeroLeaf -/

@[simp] theorem Dev.ring_zeroLeaf_keep (d : Dev) (r : LeafReg) (j : Nat) : (d.zeroLeaf r).ring j = d.ring j := rfl
@[simp] theorem Dev.slot_zeroLeaf_keep (d : Dev) (r : LeafReg) (j : Nat) : (d.zeroLeaf r).slot j = d.slot j := rfl
@[simp] theorem Dev.seat_zeroLeaf_keep (d : Dev) (r : LeafReg) (j : Nat) : (d.zeroLeaf r).seat j = d.seat j := rfl
@[simp] theorem Dev.ctx_zeroLeaf_keep (d : Dev) (r : LeafReg) (j : Nat) : (d.zeroLeaf r).ctx j = d.ctx j := rfl
@[simp] theorem Dev.core_zeroLeaf_keep (d : Dev) (r : LeafReg) (j : Nat) : (d.zeroLeaf r).core j = d.core j := rfl
@[simp] theorem Dev.port_zeroLeaf_keep (d : Dev) (r : LeafReg) (j : Nat) : (d.zeroLeaf r).port j = d.port j := rfl
@[simp] theorem Dev.unit_zeroLeaf_keep (d : Dev) (r : LeafReg) (j : Nat) : (d.zeroLeaf r).unit j = d.unit j := rfl
@[simp] theorem Dev.window_zeroLeaf_keep (d : Dev) (r : LeafReg) (j : Nat) : (d.zeroLeaf r).window j = d.window j := rfl
@[simp] theorem Dev.fn_zeroLeaf_keep (d : Dev) (r : LeafReg) (j : Nat) : (d.zeroLeaf r).fn j = d.fn j := rfl
@[simp] theorem Dev.mask_zeroLeaf_keep (d : Dev) (r : LeafReg) (q : LeafReg) : (d.zeroLeaf r).mask q = d.mask q := rfl
@[simp] theorem Dev.held_zeroLeaf_keep (d : Dev) (r : LeafReg) : (d.zeroLeaf r).held = d.held := rfl
@[simp] theorem Dev.place_zeroLeaf_keep (d : Dev) (r : LeafReg) (j : Nat) : (d.zeroLeaf r).place j = d.place j := rfl
@[simp] theorem Dev.seatRec_zeroLeaf_keep (d : Dev) (r : LeafReg) (j : Nat) : (d.zeroLeaf r).seatRec j = d.seatRec j := rfl
@[simp] theorem Dev.ringRec_zeroLeaf_keep (d : Dev) (r : LeafReg) (j : Nat) : (d.zeroLeaf r).ringRec j = d.ringRec j := rfl
@[simp] theorem Dev.clusterOwner_zeroLeaf_keep (d : Dev) (r : LeafReg) (j : Nat) : (d.zeroLeaf r).clusterOwner j = d.clusterOwner j := rfl
@[simp] theorem Dev.clustersOf_zeroLeaf_keep (d : Dev) (r : LeafReg) (j : Nat) : (d.zeroLeaf r).clustersOf j = d.clustersOf j := rfl
@[simp] theorem Dev.now_zeroLeaf_keep (d : Dev) (r : LeafReg) (j : Nat) : (d.zeroLeaf r).now j = d.now j := rfl
@[simp] theorem Dev.wcet_zeroLeaf_keep (d : Dev) (r : LeafReg) (j : Nat) : (d.zeroLeaf r).wcet j = d.wcet j := rfl

/-! emit -/

@[simp] theorem Dev.ring_emit_keep (d : Dev) (o : Out) (j : Nat) : (d.emit o).ring j = d.ring j := rfl
@[simp] theorem Dev.slot_emit_keep (d : Dev) (o : Out) (j : Nat) : (d.emit o).slot j = d.slot j := rfl
@[simp] theorem Dev.seat_emit_keep (d : Dev) (o : Out) (j : Nat) : (d.emit o).seat j = d.seat j := rfl
@[simp] theorem Dev.ctx_emit_keep (d : Dev) (o : Out) (j : Nat) : (d.emit o).ctx j = d.ctx j := rfl
@[simp] theorem Dev.core_emit_keep (d : Dev) (o : Out) (j : Nat) : (d.emit o).core j = d.core j := rfl
@[simp] theorem Dev.port_emit_keep (d : Dev) (o : Out) (j : Nat) : (d.emit o).port j = d.port j := rfl
@[simp] theorem Dev.unit_emit_keep (d : Dev) (o : Out) (j : Nat) : (d.emit o).unit j = d.unit j := rfl
@[simp] theorem Dev.window_emit_keep (d : Dev) (o : Out) (j : Nat) : (d.emit o).window j = d.window j := rfl
@[simp] theorem Dev.fn_emit_keep (d : Dev) (o : Out) (j : Nat) : (d.emit o).fn j = d.fn j := rfl
@[simp] theorem Dev.leaf_emit_keep (d : Dev) (o : Out) (q : LeafReg) : (d.emit o).leaf q = d.leaf q := rfl
@[simp] theorem Dev.mask_emit_keep (d : Dev) (o : Out) (q : LeafReg) : (d.emit o).mask q = d.mask q := rfl
@[simp] theorem Dev.held_emit_keep (d : Dev) (o : Out) : (d.emit o).held = d.held := rfl
@[simp] theorem Dev.place_emit_keep (d : Dev) (o : Out) (j : Nat) : (d.emit o).place j = d.place j := rfl
@[simp] theorem Dev.seatRec_emit_keep (d : Dev) (o : Out) (j : Nat) : (d.emit o).seatRec j = d.seatRec j := rfl
@[simp] theorem Dev.ringRec_emit_keep (d : Dev) (o : Out) (j : Nat) : (d.emit o).ringRec j = d.ringRec j := rfl
@[simp] theorem Dev.clusterOwner_emit_keep (d : Dev) (o : Out) (j : Nat) : (d.emit o).clusterOwner j = d.clusterOwner j := rfl
@[simp] theorem Dev.clustersOf_emit_keep (d : Dev) (o : Out) (j : Nat) : (d.emit o).clustersOf j = d.clustersOf j := rfl
@[simp] theorem Dev.now_emit_keep (d : Dev) (o : Out) (j : Nat) : (d.emit o).now j = d.now j := rfl
@[simp] theorem Dev.wcet_emit_keep (d : Dev) (o : Out) (j : Nat) : (d.emit o).wcet j = d.wcet j := rfl

/-! tickFree -/

@[simp] theorem Dev.ring_tickFree_keep (d : Dev) (j : Nat) : (d.tickFree).ring j = d.ring j := rfl
@[simp] theorem Dev.slot_tickFree_keep (d : Dev) (j : Nat) : (d.tickFree).slot j = d.slot j := rfl
@[simp] theorem Dev.seat_tickFree_keep (d : Dev) (j : Nat) : (d.tickFree).seat j = d.seat j := rfl
@[simp] theorem Dev.ctx_tickFree_keep (d : Dev) (j : Nat) : (d.tickFree).ctx j = d.ctx j := rfl
@[simp] theorem Dev.core_tickFree_keep (d : Dev) (j : Nat) : (d.tickFree).core j = d.core j := rfl
@[simp] theorem Dev.port_tickFree_keep (d : Dev) (j : Nat) : (d.tickFree).port j = d.port j := rfl
@[simp] theorem Dev.unit_tickFree_keep (d : Dev) (j : Nat) : (d.tickFree).unit j = d.unit j := rfl
@[simp] theorem Dev.window_tickFree_keep (d : Dev) (j : Nat) : (d.tickFree).window j = d.window j := rfl
@[simp] theorem Dev.fn_tickFree_keep (d : Dev) (j : Nat) : (d.tickFree).fn j = d.fn j := rfl
@[simp] theorem Dev.leaf_tickFree_keep (d : Dev) (q : LeafReg) : (d.tickFree).leaf q = d.leaf q := rfl
@[simp] theorem Dev.mask_tickFree_keep (d : Dev) (q : LeafReg) : (d.tickFree).mask q = d.mask q := rfl
@[simp] theorem Dev.held_tickFree_keep (d : Dev) : (d.tickFree).held = d.held := rfl
@[simp] theorem Dev.place_tickFree_keep (d : Dev) (j : Nat) : (d.tickFree).place j = d.place j := rfl
@[simp] theorem Dev.seatRec_tickFree_keep (d : Dev) (j : Nat) : (d.tickFree).seatRec j = d.seatRec j := rfl
@[simp] theorem Dev.ringRec_tickFree_keep (d : Dev) (j : Nat) : (d.tickFree).ringRec j = d.ringRec j := rfl
@[simp] theorem Dev.clusterOwner_tickFree_keep (d : Dev) (j : Nat) : (d.tickFree).clusterOwner j = d.clusterOwner j := rfl
@[simp] theorem Dev.clustersOf_tickFree_keep (d : Dev) (j : Nat) : (d.tickFree).clustersOf j = d.clustersOf j := rfl
@[simp] theorem Dev.now_tickFree_keep (d : Dev) (j : Nat) : (d.tickFree).now j = d.now j := rfl
@[simp] theorem Dev.wcet_tickFree_keep (d : Dev) (j : Nat) : (d.tickFree).wcet j = d.wcet j := rfl

/-! updPlace -/

@[simp] theorem Dev.ring_updPlace_keep (d : Dev) (i : Nat) (f : Place → Place) (j : Nat) : (d.updPlace i f).ring j = d.ring j := rfl
@[simp] theorem Dev.slot_updPlace_keep (d : Dev) (i : Nat) (f : Place → Place) (j : Nat) : (d.updPlace i f).slot j = d.slot j := rfl
@[simp] theorem Dev.seat_updPlace_keep (d : Dev) (i : Nat) (f : Place → Place) (j : Nat) : (d.updPlace i f).seat j = d.seat j := rfl
@[simp] theorem Dev.ctx_updPlace_keep (d : Dev) (i : Nat) (f : Place → Place) (j : Nat) : (d.updPlace i f).ctx j = d.ctx j := rfl
@[simp] theorem Dev.core_updPlace_keep (d : Dev) (i : Nat) (f : Place → Place) (j : Nat) : (d.updPlace i f).core j = d.core j := rfl
@[simp] theorem Dev.port_updPlace_keep (d : Dev) (i : Nat) (f : Place → Place) (j : Nat) : (d.updPlace i f).port j = d.port j := rfl
@[simp] theorem Dev.unit_updPlace_keep (d : Dev) (i : Nat) (f : Place → Place) (j : Nat) : (d.updPlace i f).unit j = d.unit j := rfl
@[simp] theorem Dev.window_updPlace_keep (d : Dev) (i : Nat) (f : Place → Place) (j : Nat) : (d.updPlace i f).window j = d.window j := rfl
@[simp] theorem Dev.fn_updPlace_keep (d : Dev) (i : Nat) (f : Place → Place) (j : Nat) : (d.updPlace i f).fn j = d.fn j := rfl
@[simp] theorem Dev.leaf_updPlace_keep (d : Dev) (i : Nat) (f : Place → Place) (q : LeafReg) : (d.updPlace i f).leaf q = d.leaf q := rfl
@[simp] theorem Dev.mask_updPlace_keep (d : Dev) (i : Nat) (f : Place → Place) (q : LeafReg) : (d.updPlace i f).mask q = d.mask q := rfl
@[simp] theorem Dev.held_updPlace_keep (d : Dev) (i : Nat) (f : Place → Place) : (d.updPlace i f).held = d.held := rfl
@[simp] theorem Dev.seatRec_updPlace_keep (d : Dev) (i : Nat) (f : Place → Place) (j : Nat) : (d.updPlace i f).seatRec j = d.seatRec j := rfl
@[simp] theorem Dev.ringRec_updPlace_keep (d : Dev) (i : Nat) (f : Place → Place) (j : Nat) : (d.updPlace i f).ringRec j = d.ringRec j := rfl
@[simp] theorem Dev.clusterOwner_updPlace_keep (d : Dev) (i : Nat) (f : Place → Place) (j : Nat) : (d.updPlace i f).clusterOwner j = d.clusterOwner j := rfl
@[simp] theorem Dev.clustersOf_updPlace_keep (d : Dev) (i : Nat) (f : Place → Place) (j : Nat) : (d.updPlace i f).clustersOf j = d.clustersOf j := rfl
@[simp] theorem Dev.now_updPlace_keep (d : Dev) (i : Nat) (f : Place → Place) (j : Nat) : (d.updPlace i f).now j = d.now j := rfl
@[simp] theorem Dev.wcet_updPlace_keep (d : Dev) (i : Nat) (f : Place → Place) (j : Nat) : (d.updPlace i f).wcet j = d.wcet j := rfl

end Sys2Proof.Machine
end

