-- ==== Sys2Proof/Laws/SMap.lean ====
section
/-! SUPPORT. Sparse tables: reading back what was written, and the canonical form under every operation. -/

namespace Sys2Proof.Machine

variable {α : Type} {d : α} {m : SMap α} {k j : Nat} {v : α}

@[simp] theorem SMap.get_nil (d : α) (k : Nat) : SMap.get d [] k = d := rfl
@[simp] theorem SMap.find_nil (k : Nat) : SMap.find ([] : SMap α) k = none := rfl

theorem SMap.above_mono {b c : Nat} (h : c ≤ b) : ∀ {m : SMap α}, SMap.above b m = true → SMap.above c m = true
  | [], _ => rfl
  | (k, _) :: t, hm => by
    simp only [SMap.above, Bool.and_eq_true, decide_eq_true_eq] at hm ⊢
    exact ⟨by omega, SMap.above_mono h hm.2⟩

/-- A key at or below a lower bound of the keys is not listed. -/
theorem SMap.find_of_above {b : Nat} : ∀ {m : SMap α}, SMap.above b m = true → k ≤ b → SMap.find m k = none
  | [], _, _ => rfl
  | (k', _) :: t, hm, hk => by
    simp only [SMap.above, Bool.and_eq_true, decide_eq_true_eq] at hm
    have : k' ≠ k := by omega
    simp [SMap.find, this, SMap.find_of_above hm.2 hk]

theorem SMap.get_eq_find : ∀ (m : SMap α), SMap.get d m k = (SMap.find m k).getD d
  | [] => rfl
  | (k', v) :: t => by
    by_cases h : k' = k <;> simp [SMap.get, SMap.find, h, SMap.get_eq_find t]

/-! ## Reading after writing -/

theorem SMap.find_ins : ∀ (m : SMap α), SMap.find (m.ins k v) j = if j = k then some v else SMap.find m j
  | [] => by
    by_cases h : j = k
    · simp [SMap.ins, SMap.find, h]
    · simp [SMap.ins, SMap.find, h, Ne.symm h]
  | (k', v') :: t => by
    by_cases h1 : k < k'
    · by_cases h : j = k
      · simp [SMap.ins, SMap.find, h1, h]
      · simp [SMap.ins, SMap.find, h1, h, Ne.symm h]
    · by_cases h2 : k = k'
      · subst h2
        by_cases h : j = k
        · simp [SMap.ins, SMap.find, h]
        · simp [SMap.ins, SMap.find, h, Ne.symm h]
      · by_cases h : k' = j
        · subst h; simp [SMap.ins, SMap.find, h1, h2, Ne.symm h2]
        · simp [SMap.ins, SMap.find, h1, h2, h, SMap.find_ins t]

theorem SMap.find_del_other (h : j ≠ k) : ∀ (m : SMap α), SMap.find (m.del k) j = SMap.find m j
  | [] => rfl
  | (k', v') :: t => by
    by_cases h1 : k' = k
    · simp [SMap.del, SMap.find, h1, Ne.symm h, SMap.find_del_other h t]
    · by_cases h2 : k' = j
      · subst h2; simp [SMap.del, SMap.find, h1]
      · simp [SMap.del, SMap.find, h1, h2, SMap.find_del_other h t]

@[simp] theorem SMap.find_del_same : ∀ (m : SMap α), SMap.find (m.del k) k = none
  | [] => rfl
  | (k', v') :: t => by
    by_cases h1 : k' = k
    · simp [SMap.del, h1, SMap.find_del_same t]
    · simp [SMap.del, SMap.find, h1, SMap.find_del_same t]

theorem SMap.find_del (m : SMap α) : SMap.find (m.del k) j = if j = k then none else SMap.find m j := by
  by_cases h : j = k
  · simp [h]
  · simp [h, SMap.find_del_other h]

/-- What a filter on the keys leaves. -/
theorem SMap.find_filter (p : Nat → Bool) : ∀ (m : SMap α),
    SMap.find (m.filter fun e => p e.1) k = if p k = true then SMap.find m k else none
  | [] => by simp
  | (k', v') :: t => by
    have ih := SMap.find_filter p t
    by_cases h : p k' = true
    · by_cases h1 : k' = k
      · subst h1; simp [h, SMap.find]
      · simp [h, SMap.find, h1, ih]
    · by_cases h1 : k' = k
      · subst h1; simpa [h, SMap.find] using ih
      · simp [h, SMap.find, h1, ih]

theorem SMap.get_filter (p : Nat → Bool) (m : SMap α) :
    SMap.get d (m.filter fun e => p e.1) k = if p k = true then SMap.get d m k else d := by
  rw [SMap.get_eq_find, SMap.find_filter, SMap.get_eq_find]; split <;> rfl

theorem SMap.get_put_other [DecidableEq α] (h : j ≠ k) (m : SMap α) : SMap.get d (SMap.put d m k v) j = SMap.get d m j := by
  unfold SMap.put; split
  · simp [SMap.get_eq_find, SMap.find_del_other h]
  · simp [SMap.get_eq_find, SMap.find_ins, h]

@[simp] theorem SMap.get_put_same [DecidableEq α] : SMap.get d (SMap.put d m k v) k = v := by
  unfold SMap.put; split
  · rename_i h; simp [SMap.get_eq_find, h]
  · simp [SMap.get_eq_find, SMap.find_ins]

theorem SMap.get_put [DecidableEq α] (m : SMap α) :
    SMap.get d (SMap.put d m k v) j = if j = k then v else SMap.get d m j := by
  by_cases h : j = k
  · simp [h]
  · simp [h, SMap.get_put_other h]

theorem SMap.get_upd [DecidableEq α] (m : SMap α) (f : α → α) :
    SMap.get d (SMap.upd d m k f) j = if j = k then f (SMap.get d m k) else SMap.get d m j := by
  simp [SMap.upd, SMap.get_put]

/-! ## Keys keep rising -/

theorem SMap.above_ins {b : Nat} (hk : b < k) : ∀ {m : SMap α}, SMap.above b m = true → SMap.above b (m.ins k v) = true
  | [], _ => by simp [SMap.ins, SMap.above, hk]
  | (k', v') :: t, hm => by
    simp only [SMap.above, Bool.and_eq_true, decide_eq_true_eq] at hm
    by_cases h1 : k < k'
    · simp [SMap.ins, SMap.above, h1, hk, hm]
    · by_cases h2 : k = k'
      · subst h2; simp [SMap.ins, SMap.above, hm]
      · simp [SMap.ins, SMap.above, h1, h2, hm.1, SMap.above_ins hk hm.2]

theorem SMap.sorted_ins : ∀ {m : SMap α}, m.sorted = true → (m.ins k v).sorted = true
  | [], _ => rfl
  | (k', v') :: t, hs => by
    simp only [SMap.sorted, Bool.and_eq_true] at hs
    by_cases h1 : k < k'
    · simp [SMap.ins, SMap.sorted, SMap.above, h1, hs, SMap.above_mono (Nat.le_of_lt h1) hs.1]
    · by_cases h2 : k = k'
      · subst h2; simp [SMap.ins, SMap.sorted, hs]
      · have hk : k' < k := by omega
        simp [SMap.ins, SMap.sorted, h1, h2, SMap.above_ins hk hs.1, SMap.sorted_ins hs.2]

theorem SMap.above_del {b : Nat} : ∀ {m : SMap α}, SMap.above b m = true → SMap.above b (m.del k) = true
  | [], _ => rfl
  | (k', v') :: t, hm => by
    simp only [SMap.above, Bool.and_eq_true, decide_eq_true_eq] at hm
    by_cases h1 : k' = k
    · simp only [SMap.del, h1, if_true]; exact SMap.above_del hm.2
    · simp [SMap.del, SMap.above, h1, hm.1, SMap.above_del hm.2]

theorem SMap.sorted_del : ∀ {m : SMap α}, m.sorted = true → (m.del k).sorted = true
  | [], _ => rfl
  | (k', v') :: t, hs => by
    simp only [SMap.sorted, Bool.and_eq_true] at hs
    by_cases h1 : k' = k
    · simp only [SMap.del, h1, if_true]; exact SMap.sorted_del hs.2
    · simp [SMap.del, SMap.sorted, h1, SMap.above_del hs.1, SMap.sorted_del hs.2]

theorem SMap.sorted_put [DecidableEq α] (hs : m.sorted = true) : (SMap.put d m k v).sorted = true := by
  unfold SMap.put; split
  · exact SMap.sorted_del hs
  · exact SMap.sorted_ins hs

theorem SMap.above_filter (p : Nat × α → Bool) {b : Nat} : ∀ {m : SMap α}, SMap.above b m = true → SMap.above b (m.filter p) = true
  | [], _ => rfl
  | (k', v') :: t, hm => by
    simp only [SMap.above, Bool.and_eq_true, decide_eq_true_eq] at hm
    by_cases h1 : p (k', v') = true
    · simp only [List.filter_cons_of_pos h1, SMap.above, Bool.and_eq_true, decide_eq_true_eq]
      exact ⟨hm.1, SMap.above_filter p hm.2⟩
    · simp only [List.filter_cons_of_neg h1]; exact SMap.above_filter p hm.2

theorem SMap.sorted_filter (p : Nat × α → Bool) : ∀ {m : SMap α}, m.sorted = true → SMap.sorted (m.filter p) = true
  | [], _ => rfl
  | (k', v') :: t, hs => by
    simp only [SMap.sorted, Bool.and_eq_true] at hs
    by_cases h1 : p (k', v') = true
    · simp only [List.filter_cons_of_pos h1, SMap.sorted, Bool.and_eq_true]
      exact ⟨SMap.above_filter p hs.1, SMap.sorted_filter p hs.2⟩
    · simp only [List.filter_cons_of_neg h1]; exact SMap.sorted_filter p hs.2

/-! ## What is listed -/

theorem SMap.mem_ins {q : Nat × α} : ∀ {m : SMap α}, q ∈ m.ins k v → q = (k, v) ∨ q ∈ m
  | [], h => by simpa [SMap.ins] using h
  | (k', v') :: t, h => by
    unfold SMap.ins at h
    split at h
    · simpa using h
    · split at h
      · simp only [List.mem_cons] at h ⊢; tauto
      · simp only [List.mem_cons] at h ⊢
        rcases h with h | h
        · exact .inr (.inl h)
        · rcases SMap.mem_ins h with h | h
          · exact .inl h
          · exact .inr (.inr h)

theorem SMap.mem_del {q : Nat × α} : ∀ {m : SMap α}, q ∈ m.del k → q ∈ m
  | [], h => by simp [SMap.del] at h
  | (k', v') :: t, h => by
    unfold SMap.del at h
    split at h
    · exact List.mem_cons_of_mem _ (SMap.mem_del h)
    · simp only [List.mem_cons] at h ⊢
      rcases h with h | h
      · exact .inl h
      · exact .inr (SMap.mem_del h)

theorem SMap.not_mem_del {q : Nat × α} : ∀ {m : SMap α}, q ∈ m.del k → q.1 ≠ k
  | [], h => by simp [SMap.del] at h
  | (k', v') :: t, h => by
    unfold SMap.del at h
    split at h
    · exact SMap.not_mem_del h
    · rename_i hk
      simp only [List.mem_cons] at h
      rcases h with rfl | h
      · exact hk
      · exact SMap.not_mem_del h

/-- A write keeps the canonical form. -/
theorem SMap.wf_put [DecidableEq α] (h : SMap.wf d m = true) : SMap.wf d (SMap.put d m k v) = true := by
  simp only [SMap.wf, Bool.and_eq_true, List.all_eq_true, decide_eq_true_eq] at h ⊢
  refine ⟨SMap.sorted_put h.1, fun q hq => ?_⟩
  unfold SMap.put at hq
  split at hq
  · exact h.2 q (SMap.mem_del hq)
  · rename_i hv
    rcases SMap.mem_ins hq with rfl | hq
    · exact hv
    · exact h.2 q hq

end Sys2Proof.Machine
end

