-- ==== Sys2Proof/Laws/State.lean ====
section
/-! SUPPORT. What each named update of the device leaves as it was: one lemma per field per update, so that no proof unfolds a
record update. -/

namespace Sys2Proof.Machine

/-! updRing -/

@[simp] theorem Dev.updRing_free (d : Dev) (i : Nat) (f : Ring → Ring) : (d.updRing i f).free = d.free := rfl
@[simp] theorem Dev.updRing_slow (d : Dev) (i : Nat) (f : Ring → Ring) : (d.updRing i f).slow = d.slow := rfl
@[simp] theorem Dev.updRing_leaves (d : Dev) (i : Nat) (f : Ring → Ring) : (d.updRing i f).leaves = d.leaves := rfl
@[simp] theorem Dev.updRing_masks (d : Dev) (i : Nat) (f : Ring → Ring) : (d.updRing i f).masks = d.masks := rfl
@[simp] theorem Dev.updRing_recent (d : Dev) (i : Nat) (f : Ring → Ring) : (d.updRing i f).recent = d.recent := rfl
@[simp] theorem Dev.updRing_layout (d : Dev) (i : Nat) (f : Ring → Ring) : (d.updRing i f).layout = d.layout := rfl
@[simp] theorem Dev.updRing_swapStop (d : Dev) (i : Nat) (f : Ring → Ring) : (d.updRing i f).swapStop = d.swapStop := rfl
@[simp] theorem Dev.updRing_ringInfo (d : Dev) (i : Nat) (f : Ring → Ring) : (d.updRing i f).ringInfo = d.ringInfo := rfl
@[simp] theorem Dev.updRing_slots (d : Dev) (i : Nat) (f : Ring → Ring) : (d.updRing i f).slots = d.slots := rfl
@[simp] theorem Dev.updRing_latches (d : Dev) (i : Nat) (f : Ring → Ring) : (d.updRing i f).latches = d.latches := rfl
@[simp] theorem Dev.updRing_board (d : Dev) (i : Nat) (f : Ring → Ring) : (d.updRing i f).board = d.board := rfl
@[simp] theorem Dev.updRing_nextPlace (d : Dev) (i : Nat) (f : Ring → Ring) : (d.updRing i f).nextPlace = d.nextPlace := rfl
@[simp] theorem Dev.updRing_collector (d : Dev) (i : Nat) (f : Ring → Ring) : (d.updRing i f).collector = d.collector := rfl
@[simp] theorem Dev.updRing_seats (d : Dev) (i : Nat) (f : Ring → Ring) : (d.updRing i f).seats = d.seats := rfl
@[simp] theorem Dev.updRing_ctxs (d : Dev) (i : Nat) (f : Ring → Ring) : (d.updRing i f).ctxs = d.ctxs := rfl
@[simp] theorem Dev.updRing_mem (d : Dev) (i : Nat) (f : Ring → Ring) : (d.updRing i f).mem = d.mem := rfl
@[simp] theorem Dev.updRing_cache (d : Dev) (i : Nat) (f : Ring → Ring) : (d.updRing i f).cache = d.cache := rfl
@[simp] theorem Dev.updRing_reg (d : Dev) (i : Nat) (f : Ring → Ring) : (d.updRing i f).reg = d.reg := rfl
@[simp] theorem Dev.updRing_cores (d : Dev) (i : Nat) (f : Ring → Ring) : (d.updRing i f).cores = d.cores := rfl
@[simp] theorem Dev.updRing_routes (d : Dev) (i : Nat) (f : Ring → Ring) : (d.updRing i f).routes = d.routes := rfl
@[simp] theorem Dev.updRing_trk (d : Dev) (i : Nat) (f : Ring → Ring) : (d.updRing i f).trk = d.trk := rfl
@[simp] theorem Dev.updRing_qlk (d : Dev) (i : Nat) (f : Ring → Ring) : (d.updRing i f).qlk = d.qlk := rfl
@[simp] theorem Dev.updRing_chk (d : Dev) (i : Nat) (f : Ring → Ring) : (d.updRing i f).chk = d.chk := rfl
@[simp] theorem Dev.updRing_glb (d : Dev) (i : Nat) (f : Ring → Ring) : (d.updRing i f).glb = d.glb := rfl
@[simp] theorem Dev.updRing_clkStarting (d : Dev) (i : Nat) (f : Ring → Ring) : (d.updRing i f).clkStarting = d.clkStarting := rfl
@[simp] theorem Dev.updRing_domainOn (d : Dev) (i : Nat) (f : Ring → Ring) : (d.updRing i f).domainOn = d.domainOn := rfl
@[simp] theorem Dev.updRing_domainRising (d : Dev) (i : Nat) (f : Ring → Ring) : (d.updRing i f).domainRising = d.domainRising := rfl
@[simp] theorem Dev.updRing_domainFalling (d : Dev) (i : Nat) (f : Ring → Ring) : (d.updRing i f).domainFalling = d.domainFalling := rfl
@[simp] theorem Dev.updRing_meshStopped (d : Dev) (i : Nat) (f : Ring → Ring) : (d.updRing i f).meshStopped = d.meshStopped := rfl
@[simp] theorem Dev.updRing_out (d : Dev) (i : Nat) (f : Ring → Ring) : (d.updRing i f).out = d.out := rfl

/-! updSlot -/

@[simp] theorem Dev.updSlot_free (d : Dev) (i : Nat) (f : Slot → Slot) : (d.updSlot i f).free = d.free := rfl
@[simp] theorem Dev.updSlot_slow (d : Dev) (i : Nat) (f : Slot → Slot) : (d.updSlot i f).slow = d.slow := rfl
@[simp] theorem Dev.updSlot_leaves (d : Dev) (i : Nat) (f : Slot → Slot) : (d.updSlot i f).leaves = d.leaves := rfl
@[simp] theorem Dev.updSlot_masks (d : Dev) (i : Nat) (f : Slot → Slot) : (d.updSlot i f).masks = d.masks := rfl
@[simp] theorem Dev.updSlot_recent (d : Dev) (i : Nat) (f : Slot → Slot) : (d.updSlot i f).recent = d.recent := rfl
@[simp] theorem Dev.updSlot_layout (d : Dev) (i : Nat) (f : Slot → Slot) : (d.updSlot i f).layout = d.layout := rfl
@[simp] theorem Dev.updSlot_swapStop (d : Dev) (i : Nat) (f : Slot → Slot) : (d.updSlot i f).swapStop = d.swapStop := rfl
@[simp] theorem Dev.updSlot_rings (d : Dev) (i : Nat) (f : Slot → Slot) : (d.updSlot i f).rings = d.rings := rfl
@[simp] theorem Dev.updSlot_ringInfo (d : Dev) (i : Nat) (f : Slot → Slot) : (d.updSlot i f).ringInfo = d.ringInfo := rfl
@[simp] theorem Dev.updSlot_latches (d : Dev) (i : Nat) (f : Slot → Slot) : (d.updSlot i f).latches = d.latches := rfl
@[simp] theorem Dev.updSlot_board (d : Dev) (i : Nat) (f : Slot → Slot) : (d.updSlot i f).board = d.board := rfl
@[simp] theorem Dev.updSlot_nextPlace (d : Dev) (i : Nat) (f : Slot → Slot) : (d.updSlot i f).nextPlace = d.nextPlace := rfl
@[simp] theorem Dev.updSlot_collector (d : Dev) (i : Nat) (f : Slot → Slot) : (d.updSlot i f).collector = d.collector := rfl
@[simp] theorem Dev.updSlot_seats (d : Dev) (i : Nat) (f : Slot → Slot) : (d.updSlot i f).seats = d.seats := rfl
@[simp] theorem Dev.updSlot_ctxs (d : Dev) (i : Nat) (f : Slot → Slot) : (d.updSlot i f).ctxs = d.ctxs := rfl
@[simp] theorem Dev.updSlot_mem (d : Dev) (i : Nat) (f : Slot → Slot) : (d.updSlot i f).mem = d.mem := rfl
@[simp] theorem Dev.updSlot_cache (d : Dev) (i : Nat) (f : Slot → Slot) : (d.updSlot i f).cache = d.cache := rfl
@[simp] theorem Dev.updSlot_reg (d : Dev) (i : Nat) (f : Slot → Slot) : (d.updSlot i f).reg = d.reg := rfl
@[simp] theorem Dev.updSlot_cores (d : Dev) (i : Nat) (f : Slot → Slot) : (d.updSlot i f).cores = d.cores := rfl
@[simp] theorem Dev.updSlot_routes (d : Dev) (i : Nat) (f : Slot → Slot) : (d.updSlot i f).routes = d.routes := rfl
@[simp] theorem Dev.updSlot_trk (d : Dev) (i : Nat) (f : Slot → Slot) : (d.updSlot i f).trk = d.trk := rfl
@[simp] theorem Dev.updSlot_qlk (d : Dev) (i : Nat) (f : Slot → Slot) : (d.updSlot i f).qlk = d.qlk := rfl
@[simp] theorem Dev.updSlot_chk (d : Dev) (i : Nat) (f : Slot → Slot) : (d.updSlot i f).chk = d.chk := rfl
@[simp] theorem Dev.updSlot_glb (d : Dev) (i : Nat) (f : Slot → Slot) : (d.updSlot i f).glb = d.glb := rfl
@[simp] theorem Dev.updSlot_clkStarting (d : Dev) (i : Nat) (f : Slot → Slot) : (d.updSlot i f).clkStarting = d.clkStarting := rfl
@[simp] theorem Dev.updSlot_domainOn (d : Dev) (i : Nat) (f : Slot → Slot) : (d.updSlot i f).domainOn = d.domainOn := rfl
@[simp] theorem Dev.updSlot_domainRising (d : Dev) (i : Nat) (f : Slot → Slot) : (d.updSlot i f).domainRising = d.domainRising := rfl
@[simp] theorem Dev.updSlot_domainFalling (d : Dev) (i : Nat) (f : Slot → Slot) : (d.updSlot i f).domainFalling = d.domainFalling := rfl
@[simp] theorem Dev.updSlot_meshStopped (d : Dev) (i : Nat) (f : Slot → Slot) : (d.updSlot i f).meshStopped = d.meshStopped := rfl
@[simp] theorem Dev.updSlot_out (d : Dev) (i : Nat) (f : Slot → Slot) : (d.updSlot i f).out = d.out := rfl

/-! updSeat -/

@[simp] theorem Dev.updSeat_free (d : Dev) (i : Nat) (f : Seat → Seat) : (d.updSeat i f).free = d.free := rfl
@[simp] theorem Dev.updSeat_slow (d : Dev) (i : Nat) (f : Seat → Seat) : (d.updSeat i f).slow = d.slow := rfl
@[simp] theorem Dev.updSeat_leaves (d : Dev) (i : Nat) (f : Seat → Seat) : (d.updSeat i f).leaves = d.leaves := rfl
@[simp] theorem Dev.updSeat_masks (d : Dev) (i : Nat) (f : Seat → Seat) : (d.updSeat i f).masks = d.masks := rfl
@[simp] theorem Dev.updSeat_recent (d : Dev) (i : Nat) (f : Seat → Seat) : (d.updSeat i f).recent = d.recent := rfl
@[simp] theorem Dev.updSeat_layout (d : Dev) (i : Nat) (f : Seat → Seat) : (d.updSeat i f).layout = d.layout := rfl
@[simp] theorem Dev.updSeat_swapStop (d : Dev) (i : Nat) (f : Seat → Seat) : (d.updSeat i f).swapStop = d.swapStop := rfl
@[simp] theorem Dev.updSeat_rings (d : Dev) (i : Nat) (f : Seat → Seat) : (d.updSeat i f).rings = d.rings := rfl
@[simp] theorem Dev.updSeat_ringInfo (d : Dev) (i : Nat) (f : Seat → Seat) : (d.updSeat i f).ringInfo = d.ringInfo := rfl
@[simp] theorem Dev.updSeat_slots (d : Dev) (i : Nat) (f : Seat → Seat) : (d.updSeat i f).slots = d.slots := rfl
@[simp] theorem Dev.updSeat_latches (d : Dev) (i : Nat) (f : Seat → Seat) : (d.updSeat i f).latches = d.latches := rfl
@[simp] theorem Dev.updSeat_board (d : Dev) (i : Nat) (f : Seat → Seat) : (d.updSeat i f).board = d.board := rfl
@[simp] theorem Dev.updSeat_nextPlace (d : Dev) (i : Nat) (f : Seat → Seat) : (d.updSeat i f).nextPlace = d.nextPlace := rfl
@[simp] theorem Dev.updSeat_collector (d : Dev) (i : Nat) (f : Seat → Seat) : (d.updSeat i f).collector = d.collector := rfl
@[simp] theorem Dev.updSeat_ctxs (d : Dev) (i : Nat) (f : Seat → Seat) : (d.updSeat i f).ctxs = d.ctxs := rfl
@[simp] theorem Dev.updSeat_mem (d : Dev) (i : Nat) (f : Seat → Seat) : (d.updSeat i f).mem = d.mem := rfl
@[simp] theorem Dev.updSeat_cache (d : Dev) (i : Nat) (f : Seat → Seat) : (d.updSeat i f).cache = d.cache := rfl
@[simp] theorem Dev.updSeat_reg (d : Dev) (i : Nat) (f : Seat → Seat) : (d.updSeat i f).reg = d.reg := rfl
@[simp] theorem Dev.updSeat_cores (d : Dev) (i : Nat) (f : Seat → Seat) : (d.updSeat i f).cores = d.cores := rfl
@[simp] theorem Dev.updSeat_routes (d : Dev) (i : Nat) (f : Seat → Seat) : (d.updSeat i f).routes = d.routes := rfl
@[simp] theorem Dev.updSeat_trk (d : Dev) (i : Nat) (f : Seat → Seat) : (d.updSeat i f).trk = d.trk := rfl
@[simp] theorem Dev.updSeat_qlk (d : Dev) (i : Nat) (f : Seat → Seat) : (d.updSeat i f).qlk = d.qlk := rfl
@[simp] theorem Dev.updSeat_chk (d : Dev) (i : Nat) (f : Seat → Seat) : (d.updSeat i f).chk = d.chk := rfl
@[simp] theorem Dev.updSeat_glb (d : Dev) (i : Nat) (f : Seat → Seat) : (d.updSeat i f).glb = d.glb := rfl
@[simp] theorem Dev.updSeat_clkStarting (d : Dev) (i : Nat) (f : Seat → Seat) : (d.updSeat i f).clkStarting = d.clkStarting := rfl
@[simp] theorem Dev.updSeat_domainOn (d : Dev) (i : Nat) (f : Seat → Seat) : (d.updSeat i f).domainOn = d.domainOn := rfl
@[simp] theorem Dev.updSeat_domainRising (d : Dev) (i : Nat) (f : Seat → Seat) : (d.updSeat i f).domainRising = d.domainRising := rfl
@[simp] theorem Dev.updSeat_domainFalling (d : Dev) (i : Nat) (f : Seat → Seat) : (d.updSeat i f).domainFalling = d.domainFalling := rfl
@[simp] theorem Dev.updSeat_meshStopped (d : Dev) (i : Nat) (f : Seat → Seat) : (d.updSeat i f).meshStopped = d.meshStopped := rfl
@[simp] theorem Dev.updSeat_out (d : Dev) (i : Nat) (f : Seat → Seat) : (d.updSeat i f).out = d.out := rfl

/-! updCtx -/

@[simp] theorem Dev.updCtx_free (d : Dev) (i : Nat) (f : Ctx → Ctx) : (d.updCtx i f).free = d.free := rfl
@[simp] theorem Dev.updCtx_slow (d : Dev) (i : Nat) (f : Ctx → Ctx) : (d.updCtx i f).slow = d.slow := rfl
@[simp] theorem Dev.updCtx_leaves (d : Dev) (i : Nat) (f : Ctx → Ctx) : (d.updCtx i f).leaves = d.leaves := rfl
@[simp] theorem Dev.updCtx_masks (d : Dev) (i : Nat) (f : Ctx → Ctx) : (d.updCtx i f).masks = d.masks := rfl
@[simp] theorem Dev.updCtx_recent (d : Dev) (i : Nat) (f : Ctx → Ctx) : (d.updCtx i f).recent = d.recent := rfl
@[simp] theorem Dev.updCtx_layout (d : Dev) (i : Nat) (f : Ctx → Ctx) : (d.updCtx i f).layout = d.layout := rfl
@[simp] theorem Dev.updCtx_swapStop (d : Dev) (i : Nat) (f : Ctx → Ctx) : (d.updCtx i f).swapStop = d.swapStop := rfl
@[simp] theorem Dev.updCtx_rings (d : Dev) (i : Nat) (f : Ctx → Ctx) : (d.updCtx i f).rings = d.rings := rfl
@[simp] theorem Dev.updCtx_ringInfo (d : Dev) (i : Nat) (f : Ctx → Ctx) : (d.updCtx i f).ringInfo = d.ringInfo := rfl
@[simp] theorem Dev.updCtx_slots (d : Dev) (i : Nat) (f : Ctx → Ctx) : (d.updCtx i f).slots = d.slots := rfl
@[simp] theorem Dev.updCtx_latches (d : Dev) (i : Nat) (f : Ctx → Ctx) : (d.updCtx i f).latches = d.latches := rfl
@[simp] theorem Dev.updCtx_board (d : Dev) (i : Nat) (f : Ctx → Ctx) : (d.updCtx i f).board = d.board := rfl
@[simp] theorem Dev.updCtx_nextPlace (d : Dev) (i : Nat) (f : Ctx → Ctx) : (d.updCtx i f).nextPlace = d.nextPlace := rfl
@[simp] theorem Dev.updCtx_collector (d : Dev) (i : Nat) (f : Ctx → Ctx) : (d.updCtx i f).collector = d.collector := rfl
@[simp] theorem Dev.updCtx_seats (d : Dev) (i : Nat) (f : Ctx → Ctx) : (d.updCtx i f).seats = d.seats := rfl
@[simp] theorem Dev.updCtx_mem (d : Dev) (i : Nat) (f : Ctx → Ctx) : (d.updCtx i f).mem = d.mem := rfl
@[simp] theorem Dev.updCtx_cache (d : Dev) (i : Nat) (f : Ctx → Ctx) : (d.updCtx i f).cache = d.cache := rfl
@[simp] theorem Dev.updCtx_reg (d : Dev) (i : Nat) (f : Ctx → Ctx) : (d.updCtx i f).reg = d.reg := rfl
@[simp] theorem Dev.updCtx_cores (d : Dev) (i : Nat) (f : Ctx → Ctx) : (d.updCtx i f).cores = d.cores := rfl
@[simp] theorem Dev.updCtx_routes (d : Dev) (i : Nat) (f : Ctx → Ctx) : (d.updCtx i f).routes = d.routes := rfl
@[simp] theorem Dev.updCtx_trk (d : Dev) (i : Nat) (f : Ctx → Ctx) : (d.updCtx i f).trk = d.trk := rfl
@[simp] theorem Dev.updCtx_qlk (d : Dev) (i : Nat) (f : Ctx → Ctx) : (d.updCtx i f).qlk = d.qlk := rfl
@[simp] theorem Dev.updCtx_chk (d : Dev) (i : Nat) (f : Ctx → Ctx) : (d.updCtx i f).chk = d.chk := rfl
@[simp] theorem Dev.updCtx_glb (d : Dev) (i : Nat) (f : Ctx → Ctx) : (d.updCtx i f).glb = d.glb := rfl
@[simp] theorem Dev.updCtx_clkStarting (d : Dev) (i : Nat) (f : Ctx → Ctx) : (d.updCtx i f).clkStarting = d.clkStarting := rfl
@[simp] theorem Dev.updCtx_domainOn (d : Dev) (i : Nat) (f : Ctx → Ctx) : (d.updCtx i f).domainOn = d.domainOn := rfl
@[simp] theorem Dev.updCtx_domainRising (d : Dev) (i : Nat) (f : Ctx → Ctx) : (d.updCtx i f).domainRising = d.domainRising := rfl
@[simp] theorem Dev.updCtx_domainFalling (d : Dev) (i : Nat) (f : Ctx → Ctx) : (d.updCtx i f).domainFalling = d.domainFalling := rfl
@[simp] theorem Dev.updCtx_meshStopped (d : Dev) (i : Nat) (f : Ctx → Ctx) : (d.updCtx i f).meshStopped = d.meshStopped := rfl
@[simp] theorem Dev.updCtx_out (d : Dev) (i : Nat) (f : Ctx → Ctx) : (d.updCtx i f).out = d.out := rfl

/-! updCore -/

@[simp] theorem Dev.updCore_free (d : Dev) (i : Nat) (f : Core → Core) : (d.updCore i f).free = d.free := rfl
@[simp] theorem Dev.updCore_slow (d : Dev) (i : Nat) (f : Core → Core) : (d.updCore i f).slow = d.slow := rfl
@[simp] theorem Dev.updCore_leaves (d : Dev) (i : Nat) (f : Core → Core) : (d.updCore i f).leaves = d.leaves := rfl
@[simp] theorem Dev.updCore_masks (d : Dev) (i : Nat) (f : Core → Core) : (d.updCore i f).masks = d.masks := rfl
@[simp] theorem Dev.updCore_recent (d : Dev) (i : Nat) (f : Core → Core) : (d.updCore i f).recent = d.recent := rfl
@[simp] theorem Dev.updCore_layout (d : Dev) (i : Nat) (f : Core → Core) : (d.updCore i f).layout = d.layout := rfl
@[simp] theorem Dev.updCore_swapStop (d : Dev) (i : Nat) (f : Core → Core) : (d.updCore i f).swapStop = d.swapStop := rfl
@[simp] theorem Dev.updCore_rings (d : Dev) (i : Nat) (f : Core → Core) : (d.updCore i f).rings = d.rings := rfl
@[simp] theorem Dev.updCore_ringInfo (d : Dev) (i : Nat) (f : Core → Core) : (d.updCore i f).ringInfo = d.ringInfo := rfl
@[simp] theorem Dev.updCore_slots (d : Dev) (i : Nat) (f : Core → Core) : (d.updCore i f).slots = d.slots := rfl
@[simp] theorem Dev.updCore_latches (d : Dev) (i : Nat) (f : Core → Core) : (d.updCore i f).latches = d.latches := rfl
@[simp] theorem Dev.updCore_board (d : Dev) (i : Nat) (f : Core → Core) : (d.updCore i f).board = d.board := rfl
@[simp] theorem Dev.updCore_nextPlace (d : Dev) (i : Nat) (f : Core → Core) : (d.updCore i f).nextPlace = d.nextPlace := rfl
@[simp] theorem Dev.updCore_collector (d : Dev) (i : Nat) (f : Core → Core) : (d.updCore i f).collector = d.collector := rfl
@[simp] theorem Dev.updCore_seats (d : Dev) (i : Nat) (f : Core → Core) : (d.updCore i f).seats = d.seats := rfl
@[simp] theorem Dev.updCore_ctxs (d : Dev) (i : Nat) (f : Core → Core) : (d.updCore i f).ctxs = d.ctxs := rfl
@[simp] theorem Dev.updCore_mem (d : Dev) (i : Nat) (f : Core → Core) : (d.updCore i f).mem = d.mem := rfl
@[simp] theorem Dev.updCore_cache (d : Dev) (i : Nat) (f : Core → Core) : (d.updCore i f).cache = d.cache := rfl
@[simp] theorem Dev.updCore_reg (d : Dev) (i : Nat) (f : Core → Core) : (d.updCore i f).reg = d.reg := rfl
@[simp] theorem Dev.updCore_routes (d : Dev) (i : Nat) (f : Core → Core) : (d.updCore i f).routes = d.routes := rfl
@[simp] theorem Dev.updCore_trk (d : Dev) (i : Nat) (f : Core → Core) : (d.updCore i f).trk = d.trk := rfl
@[simp] theorem Dev.updCore_qlk (d : Dev) (i : Nat) (f : Core → Core) : (d.updCore i f).qlk = d.qlk := rfl
@[simp] theorem Dev.updCore_chk (d : Dev) (i : Nat) (f : Core → Core) : (d.updCore i f).chk = d.chk := rfl
@[simp] theorem Dev.updCore_glb (d : Dev) (i : Nat) (f : Core → Core) : (d.updCore i f).glb = d.glb := rfl
@[simp] theorem Dev.updCore_clkStarting (d : Dev) (i : Nat) (f : Core → Core) : (d.updCore i f).clkStarting = d.clkStarting := rfl
@[simp] theorem Dev.updCore_domainOn (d : Dev) (i : Nat) (f : Core → Core) : (d.updCore i f).domainOn = d.domainOn := rfl
@[simp] theorem Dev.updCore_domainRising (d : Dev) (i : Nat) (f : Core → Core) : (d.updCore i f).domainRising = d.domainRising := rfl
@[simp] theorem Dev.updCore_domainFalling (d : Dev) (i : Nat) (f : Core → Core) : (d.updCore i f).domainFalling = d.domainFalling := rfl
@[simp] theorem Dev.updCore_meshStopped (d : Dev) (i : Nat) (f : Core → Core) : (d.updCore i f).meshStopped = d.meshStopped := rfl
@[simp] theorem Dev.updCore_out (d : Dev) (i : Nat) (f : Core → Core) : (d.updCore i f).out = d.out := rfl

/-! updStack -/

@[simp] theorem Dev.updStack_free (d : Dev) (i : Nat) (f : Stack → Stack) : (d.updStack i f).free = d.free := rfl
@[simp] theorem Dev.updStack_slow (d : Dev) (i : Nat) (f : Stack → Stack) : (d.updStack i f).slow = d.slow := rfl
@[simp] theorem Dev.updStack_leaves (d : Dev) (i : Nat) (f : Stack → Stack) : (d.updStack i f).leaves = d.leaves := rfl
@[simp] theorem Dev.updStack_masks (d : Dev) (i : Nat) (f : Stack → Stack) : (d.updStack i f).masks = d.masks := rfl
@[simp] theorem Dev.updStack_recent (d : Dev) (i : Nat) (f : Stack → Stack) : (d.updStack i f).recent = d.recent := rfl
@[simp] theorem Dev.updStack_layout (d : Dev) (i : Nat) (f : Stack → Stack) : (d.updStack i f).layout = d.layout := rfl
@[simp] theorem Dev.updStack_swapStop (d : Dev) (i : Nat) (f : Stack → Stack) : (d.updStack i f).swapStop = d.swapStop := rfl
@[simp] theorem Dev.updStack_rings (d : Dev) (i : Nat) (f : Stack → Stack) : (d.updStack i f).rings = d.rings := rfl
@[simp] theorem Dev.updStack_ringInfo (d : Dev) (i : Nat) (f : Stack → Stack) : (d.updStack i f).ringInfo = d.ringInfo := rfl
@[simp] theorem Dev.updStack_slots (d : Dev) (i : Nat) (f : Stack → Stack) : (d.updStack i f).slots = d.slots := rfl
@[simp] theorem Dev.updStack_latches (d : Dev) (i : Nat) (f : Stack → Stack) : (d.updStack i f).latches = d.latches := rfl
@[simp] theorem Dev.updStack_board (d : Dev) (i : Nat) (f : Stack → Stack) : (d.updStack i f).board = d.board := rfl
@[simp] theorem Dev.updStack_nextPlace (d : Dev) (i : Nat) (f : Stack → Stack) : (d.updStack i f).nextPlace = d.nextPlace := rfl
@[simp] theorem Dev.updStack_collector (d : Dev) (i : Nat) (f : Stack → Stack) : (d.updStack i f).collector = d.collector := rfl
@[simp] theorem Dev.updStack_seats (d : Dev) (i : Nat) (f : Stack → Stack) : (d.updStack i f).seats = d.seats := rfl
@[simp] theorem Dev.updStack_ctxs (d : Dev) (i : Nat) (f : Stack → Stack) : (d.updStack i f).ctxs = d.ctxs := rfl
@[simp] theorem Dev.updStack_cache (d : Dev) (i : Nat) (f : Stack → Stack) : (d.updStack i f).cache = d.cache := rfl
@[simp] theorem Dev.updStack_reg (d : Dev) (i : Nat) (f : Stack → Stack) : (d.updStack i f).reg = d.reg := rfl
@[simp] theorem Dev.updStack_cores (d : Dev) (i : Nat) (f : Stack → Stack) : (d.updStack i f).cores = d.cores := rfl
@[simp] theorem Dev.updStack_routes (d : Dev) (i : Nat) (f : Stack → Stack) : (d.updStack i f).routes = d.routes := rfl
@[simp] theorem Dev.updStack_trk (d : Dev) (i : Nat) (f : Stack → Stack) : (d.updStack i f).trk = d.trk := rfl
@[simp] theorem Dev.updStack_qlk (d : Dev) (i : Nat) (f : Stack → Stack) : (d.updStack i f).qlk = d.qlk := rfl
@[simp] theorem Dev.updStack_chk (d : Dev) (i : Nat) (f : Stack → Stack) : (d.updStack i f).chk = d.chk := rfl
@[simp] theorem Dev.updStack_glb (d : Dev) (i : Nat) (f : Stack → Stack) : (d.updStack i f).glb = d.glb := rfl
@[simp] theorem Dev.updStack_clkStarting (d : Dev) (i : Nat) (f : Stack → Stack) : (d.updStack i f).clkStarting = d.clkStarting := rfl
@[simp] theorem Dev.updStack_domainOn (d : Dev) (i : Nat) (f : Stack → Stack) : (d.updStack i f).domainOn = d.domainOn := rfl
@[simp] theorem Dev.updStack_domainRising (d : Dev) (i : Nat) (f : Stack → Stack) : (d.updStack i f).domainRising = d.domainRising := rfl
@[simp] theorem Dev.updStack_domainFalling (d : Dev) (i : Nat) (f : Stack → Stack) : (d.updStack i f).domainFalling = d.domainFalling := rfl
@[simp] theorem Dev.updStack_meshStopped (d : Dev) (i : Nat) (f : Stack → Stack) : (d.updStack i f).meshStopped = d.meshStopped := rfl
@[simp] theorem Dev.updStack_out (d : Dev) (i : Nat) (f : Stack → Stack) : (d.updStack i f).out = d.out := rfl

/-! updPort -/

@[simp] theorem Dev.updPort_free (d : Dev) (i : Nat) (f : Port → Port) : (d.updPort i f).free = d.free := rfl
@[simp] theorem Dev.updPort_slow (d : Dev) (i : Nat) (f : Port → Port) : (d.updPort i f).slow = d.slow := rfl
@[simp] theorem Dev.updPort_leaves (d : Dev) (i : Nat) (f : Port → Port) : (d.updPort i f).leaves = d.leaves := rfl
@[simp] theorem Dev.updPort_masks (d : Dev) (i : Nat) (f : Port → Port) : (d.updPort i f).masks = d.masks := rfl
@[simp] theorem Dev.updPort_recent (d : Dev) (i : Nat) (f : Port → Port) : (d.updPort i f).recent = d.recent := rfl
@[simp] theorem Dev.updPort_layout (d : Dev) (i : Nat) (f : Port → Port) : (d.updPort i f).layout = d.layout := rfl
@[simp] theorem Dev.updPort_swapStop (d : Dev) (i : Nat) (f : Port → Port) : (d.updPort i f).swapStop = d.swapStop := rfl
@[simp] theorem Dev.updPort_rings (d : Dev) (i : Nat) (f : Port → Port) : (d.updPort i f).rings = d.rings := rfl
@[simp] theorem Dev.updPort_ringInfo (d : Dev) (i : Nat) (f : Port → Port) : (d.updPort i f).ringInfo = d.ringInfo := rfl
@[simp] theorem Dev.updPort_slots (d : Dev) (i : Nat) (f : Port → Port) : (d.updPort i f).slots = d.slots := rfl
@[simp] theorem Dev.updPort_latches (d : Dev) (i : Nat) (f : Port → Port) : (d.updPort i f).latches = d.latches := rfl
@[simp] theorem Dev.updPort_board (d : Dev) (i : Nat) (f : Port → Port) : (d.updPort i f).board = d.board := rfl
@[simp] theorem Dev.updPort_nextPlace (d : Dev) (i : Nat) (f : Port → Port) : (d.updPort i f).nextPlace = d.nextPlace := rfl
@[simp] theorem Dev.updPort_collector (d : Dev) (i : Nat) (f : Port → Port) : (d.updPort i f).collector = d.collector := rfl
@[simp] theorem Dev.updPort_seats (d : Dev) (i : Nat) (f : Port → Port) : (d.updPort i f).seats = d.seats := rfl
@[simp] theorem Dev.updPort_ctxs (d : Dev) (i : Nat) (f : Port → Port) : (d.updPort i f).ctxs = d.ctxs := rfl
@[simp] theorem Dev.updPort_mem (d : Dev) (i : Nat) (f : Port → Port) : (d.updPort i f).mem = d.mem := rfl
@[simp] theorem Dev.updPort_cache (d : Dev) (i : Nat) (f : Port → Port) : (d.updPort i f).cache = d.cache := rfl
@[simp] theorem Dev.updPort_reg (d : Dev) (i : Nat) (f : Port → Port) : (d.updPort i f).reg = d.reg := rfl
@[simp] theorem Dev.updPort_cores (d : Dev) (i : Nat) (f : Port → Port) : (d.updPort i f).cores = d.cores := rfl
@[simp] theorem Dev.updPort_routes (d : Dev) (i : Nat) (f : Port → Port) : (d.updPort i f).routes = d.routes := rfl
@[simp] theorem Dev.updPort_trk (d : Dev) (i : Nat) (f : Port → Port) : (d.updPort i f).trk = d.trk := rfl
@[simp] theorem Dev.updPort_chk (d : Dev) (i : Nat) (f : Port → Port) : (d.updPort i f).chk = d.chk := rfl
@[simp] theorem Dev.updPort_glb (d : Dev) (i : Nat) (f : Port → Port) : (d.updPort i f).glb = d.glb := rfl
@[simp] theorem Dev.updPort_clkStarting (d : Dev) (i : Nat) (f : Port → Port) : (d.updPort i f).clkStarting = d.clkStarting := rfl
@[simp] theorem Dev.updPort_domainOn (d : Dev) (i : Nat) (f : Port → Port) : (d.updPort i f).domainOn = d.domainOn := rfl
@[simp] theorem Dev.updPort_domainRising (d : Dev) (i : Nat) (f : Port → Port) : (d.updPort i f).domainRising = d.domainRising := rfl
@[simp] theorem Dev.updPort_domainFalling (d : Dev) (i : Nat) (f : Port → Port) : (d.updPort i f).domainFalling = d.domainFalling := rfl
@[simp] theorem Dev.updPort_meshStopped (d : Dev) (i : Nat) (f : Port → Port) : (d.updPort i f).meshStopped = d.meshStopped := rfl
@[simp] theorem Dev.updPort_out (d : Dev) (i : Nat) (f : Port → Port) : (d.updPort i f).out = d.out := rfl

/-! updUnit -/

@[simp] theorem Dev.updUnit_free (d : Dev) (i : Nat) (f : ChkUnit → ChkUnit) : (d.updUnit i f).free = d.free := rfl
@[simp] theorem Dev.updUnit_slow (d : Dev) (i : Nat) (f : ChkUnit → ChkUnit) : (d.updUnit i f).slow = d.slow := rfl
@[simp] theorem Dev.updUnit_leaves (d : Dev) (i : Nat) (f : ChkUnit → ChkUnit) : (d.updUnit i f).leaves = d.leaves := rfl
@[simp] theorem Dev.updUnit_masks (d : Dev) (i : Nat) (f : ChkUnit → ChkUnit) : (d.updUnit i f).masks = d.masks := rfl
@[simp] theorem Dev.updUnit_recent (d : Dev) (i : Nat) (f : ChkUnit → ChkUnit) : (d.updUnit i f).recent = d.recent := rfl
@[simp] theorem Dev.updUnit_layout (d : Dev) (i : Nat) (f : ChkUnit → ChkUnit) : (d.updUnit i f).layout = d.layout := rfl
@[simp] theorem Dev.updUnit_swapStop (d : Dev) (i : Nat) (f : ChkUnit → ChkUnit) : (d.updUnit i f).swapStop = d.swapStop := rfl
@[simp] theorem Dev.updUnit_rings (d : Dev) (i : Nat) (f : ChkUnit → ChkUnit) : (d.updUnit i f).rings = d.rings := rfl
@[simp] theorem Dev.updUnit_ringInfo (d : Dev) (i : Nat) (f : ChkUnit → ChkUnit) : (d.updUnit i f).ringInfo = d.ringInfo := rfl
@[simp] theorem Dev.updUnit_slots (d : Dev) (i : Nat) (f : ChkUnit → ChkUnit) : (d.updUnit i f).slots = d.slots := rfl
@[simp] theorem Dev.updUnit_latches (d : Dev) (i : Nat) (f : ChkUnit → ChkUnit) : (d.updUnit i f).latches = d.latches := rfl
@[simp] theorem Dev.updUnit_board (d : Dev) (i : Nat) (f : ChkUnit → ChkUnit) : (d.updUnit i f).board = d.board := rfl
@[simp] theorem Dev.updUnit_nextPlace (d : Dev) (i : Nat) (f : ChkUnit → ChkUnit) : (d.updUnit i f).nextPlace = d.nextPlace := rfl
@[simp] theorem Dev.updUnit_collector (d : Dev) (i : Nat) (f : ChkUnit → ChkUnit) : (d.updUnit i f).collector = d.collector := rfl
@[simp] theorem Dev.updUnit_seats (d : Dev) (i : Nat) (f : ChkUnit → ChkUnit) : (d.updUnit i f).seats = d.seats := rfl
@[simp] theorem Dev.updUnit_ctxs (d : Dev) (i : Nat) (f : ChkUnit → ChkUnit) : (d.updUnit i f).ctxs = d.ctxs := rfl
@[simp] theorem Dev.updUnit_mem (d : Dev) (i : Nat) (f : ChkUnit → ChkUnit) : (d.updUnit i f).mem = d.mem := rfl
@[simp] theorem Dev.updUnit_cache (d : Dev) (i : Nat) (f : ChkUnit → ChkUnit) : (d.updUnit i f).cache = d.cache := rfl
@[simp] theorem Dev.updUnit_reg (d : Dev) (i : Nat) (f : ChkUnit → ChkUnit) : (d.updUnit i f).reg = d.reg := rfl
@[simp] theorem Dev.updUnit_cores (d : Dev) (i : Nat) (f : ChkUnit → ChkUnit) : (d.updUnit i f).cores = d.cores := rfl
@[simp] theorem Dev.updUnit_routes (d : Dev) (i : Nat) (f : ChkUnit → ChkUnit) : (d.updUnit i f).routes = d.routes := rfl
@[simp] theorem Dev.updUnit_trk (d : Dev) (i : Nat) (f : ChkUnit → ChkUnit) : (d.updUnit i f).trk = d.trk := rfl
@[simp] theorem Dev.updUnit_qlk (d : Dev) (i : Nat) (f : ChkUnit → ChkUnit) : (d.updUnit i f).qlk = d.qlk := rfl
@[simp] theorem Dev.updUnit_glb (d : Dev) (i : Nat) (f : ChkUnit → ChkUnit) : (d.updUnit i f).glb = d.glb := rfl
@[simp] theorem Dev.updUnit_clkStarting (d : Dev) (i : Nat) (f : ChkUnit → ChkUnit) : (d.updUnit i f).clkStarting = d.clkStarting := rfl
@[simp] theorem Dev.updUnit_domainOn (d : Dev) (i : Nat) (f : ChkUnit → ChkUnit) : (d.updUnit i f).domainOn = d.domainOn := rfl
@[simp] theorem Dev.updUnit_domainRising (d : Dev) (i : Nat) (f : ChkUnit → ChkUnit) : (d.updUnit i f).domainRising = d.domainRising := rfl
@[simp] theorem Dev.updUnit_domainFalling (d : Dev) (i : Nat) (f : ChkUnit → ChkUnit) : (d.updUnit i f).domainFalling = d.domainFalling := rfl
@[simp] theorem Dev.updUnit_meshStopped (d : Dev) (i : Nat) (f : ChkUnit → ChkUnit) : (d.updUnit i f).meshStopped = d.meshStopped := rfl
@[simp] theorem Dev.updUnit_out (d : Dev) (i : Nat) (f : ChkUnit → ChkUnit) : (d.updUnit i f).out = d.out := rfl

/-! updWindow -/

@[simp] theorem Dev.updWindow_free (d : Dev) (i : Nat) (f : Window → Window) : (d.updWindow i f).free = d.free := rfl
@[simp] theorem Dev.updWindow_slow (d : Dev) (i : Nat) (f : Window → Window) : (d.updWindow i f).slow = d.slow := rfl
@[simp] theorem Dev.updWindow_leaves (d : Dev) (i : Nat) (f : Window → Window) : (d.updWindow i f).leaves = d.leaves := rfl
@[simp] theorem Dev.updWindow_masks (d : Dev) (i : Nat) (f : Window → Window) : (d.updWindow i f).masks = d.masks := rfl
@[simp] theorem Dev.updWindow_recent (d : Dev) (i : Nat) (f : Window → Window) : (d.updWindow i f).recent = d.recent := rfl
@[simp] theorem Dev.updWindow_layout (d : Dev) (i : Nat) (f : Window → Window) : (d.updWindow i f).layout = d.layout := rfl
@[simp] theorem Dev.updWindow_swapStop (d : Dev) (i : Nat) (f : Window → Window) : (d.updWindow i f).swapStop = d.swapStop := rfl
@[simp] theorem Dev.updWindow_rings (d : Dev) (i : Nat) (f : Window → Window) : (d.updWindow i f).rings = d.rings := rfl
@[simp] theorem Dev.updWindow_ringInfo (d : Dev) (i : Nat) (f : Window → Window) : (d.updWindow i f).ringInfo = d.ringInfo := rfl
@[simp] theorem Dev.updWindow_slots (d : Dev) (i : Nat) (f : Window → Window) : (d.updWindow i f).slots = d.slots := rfl
@[simp] theorem Dev.updWindow_latches (d : Dev) (i : Nat) (f : Window → Window) : (d.updWindow i f).latches = d.latches := rfl
@[simp] theorem Dev.updWindow_board (d : Dev) (i : Nat) (f : Window → Window) : (d.updWindow i f).board = d.board := rfl
@[simp] theorem Dev.updWindow_nextPlace (d : Dev) (i : Nat) (f : Window → Window) : (d.updWindow i f).nextPlace = d.nextPlace := rfl
@[simp] theorem Dev.updWindow_collector (d : Dev) (i : Nat) (f : Window → Window) : (d.updWindow i f).collector = d.collector := rfl
@[simp] theorem Dev.updWindow_seats (d : Dev) (i : Nat) (f : Window → Window) : (d.updWindow i f).seats = d.seats := rfl
@[simp] theorem Dev.updWindow_ctxs (d : Dev) (i : Nat) (f : Window → Window) : (d.updWindow i f).ctxs = d.ctxs := rfl
@[simp] theorem Dev.updWindow_mem (d : Dev) (i : Nat) (f : Window → Window) : (d.updWindow i f).mem = d.mem := rfl
@[simp] theorem Dev.updWindow_cache (d : Dev) (i : Nat) (f : Window → Window) : (d.updWindow i f).cache = d.cache := rfl
@[simp] theorem Dev.updWindow_reg (d : Dev) (i : Nat) (f : Window → Window) : (d.updWindow i f).reg = d.reg := rfl
@[simp] theorem Dev.updWindow_cores (d : Dev) (i : Nat) (f : Window → Window) : (d.updWindow i f).cores = d.cores := rfl
@[simp] theorem Dev.updWindow_routes (d : Dev) (i : Nat) (f : Window → Window) : (d.updWindow i f).routes = d.routes := rfl
@[simp] theorem Dev.updWindow_trk (d : Dev) (i : Nat) (f : Window → Window) : (d.updWindow i f).trk = d.trk := rfl
@[simp] theorem Dev.updWindow_qlk (d : Dev) (i : Nat) (f : Window → Window) : (d.updWindow i f).qlk = d.qlk := rfl
@[simp] theorem Dev.updWindow_chk (d : Dev) (i : Nat) (f : Window → Window) : (d.updWindow i f).chk = d.chk := rfl
@[simp] theorem Dev.updWindow_clkStarting (d : Dev) (i : Nat) (f : Window → Window) : (d.updWindow i f).clkStarting = d.clkStarting := rfl
@[simp] theorem Dev.updWindow_domainOn (d : Dev) (i : Nat) (f : Window → Window) : (d.updWindow i f).domainOn = d.domainOn := rfl
@[simp] theorem Dev.updWindow_domainRising (d : Dev) (i : Nat) (f : Window → Window) : (d.updWindow i f).domainRising = d.domainRising := rfl
@[simp] theorem Dev.updWindow_domainFalling (d : Dev) (i : Nat) (f : Window → Window) : (d.updWindow i f).domainFalling = d.domainFalling := rfl
@[simp] theorem Dev.updWindow_meshStopped (d : Dev) (i : Nat) (f : Window → Window) : (d.updWindow i f).meshStopped = d.meshStopped := rfl
@[simp] theorem Dev.updWindow_out (d : Dev) (i : Nat) (f : Window → Window) : (d.updWindow i f).out = d.out := rfl

/-! updFn -/

@[simp] theorem Dev.updFn_free (d : Dev) (i : Nat) (f : FnCfg → FnCfg) : (d.updFn i f).free = d.free := rfl
@[simp] theorem Dev.updFn_slow (d : Dev) (i : Nat) (f : FnCfg → FnCfg) : (d.updFn i f).slow = d.slow := rfl
@[simp] theorem Dev.updFn_leaves (d : Dev) (i : Nat) (f : FnCfg → FnCfg) : (d.updFn i f).leaves = d.leaves := rfl
@[simp] theorem Dev.updFn_masks (d : Dev) (i : Nat) (f : FnCfg → FnCfg) : (d.updFn i f).masks = d.masks := rfl
@[simp] theorem Dev.updFn_recent (d : Dev) (i : Nat) (f : FnCfg → FnCfg) : (d.updFn i f).recent = d.recent := rfl
@[simp] theorem Dev.updFn_layout (d : Dev) (i : Nat) (f : FnCfg → FnCfg) : (d.updFn i f).layout = d.layout := rfl
@[simp] theorem Dev.updFn_swapStop (d : Dev) (i : Nat) (f : FnCfg → FnCfg) : (d.updFn i f).swapStop = d.swapStop := rfl
@[simp] theorem Dev.updFn_rings (d : Dev) (i : Nat) (f : FnCfg → FnCfg) : (d.updFn i f).rings = d.rings := rfl
@[simp] theorem Dev.updFn_ringInfo (d : Dev) (i : Nat) (f : FnCfg → FnCfg) : (d.updFn i f).ringInfo = d.ringInfo := rfl
@[simp] theorem Dev.updFn_slots (d : Dev) (i : Nat) (f : FnCfg → FnCfg) : (d.updFn i f).slots = d.slots := rfl
@[simp] theorem Dev.updFn_latches (d : Dev) (i : Nat) (f : FnCfg → FnCfg) : (d.updFn i f).latches = d.latches := rfl
@[simp] theorem Dev.updFn_board (d : Dev) (i : Nat) (f : FnCfg → FnCfg) : (d.updFn i f).board = d.board := rfl
@[simp] theorem Dev.updFn_nextPlace (d : Dev) (i : Nat) (f : FnCfg → FnCfg) : (d.updFn i f).nextPlace = d.nextPlace := rfl
@[simp] theorem Dev.updFn_collector (d : Dev) (i : Nat) (f : FnCfg → FnCfg) : (d.updFn i f).collector = d.collector := rfl
@[simp] theorem Dev.updFn_seats (d : Dev) (i : Nat) (f : FnCfg → FnCfg) : (d.updFn i f).seats = d.seats := rfl
@[simp] theorem Dev.updFn_ctxs (d : Dev) (i : Nat) (f : FnCfg → FnCfg) : (d.updFn i f).ctxs = d.ctxs := rfl
@[simp] theorem Dev.updFn_mem (d : Dev) (i : Nat) (f : FnCfg → FnCfg) : (d.updFn i f).mem = d.mem := rfl
@[simp] theorem Dev.updFn_cache (d : Dev) (i : Nat) (f : FnCfg → FnCfg) : (d.updFn i f).cache = d.cache := rfl
@[simp] theorem Dev.updFn_reg (d : Dev) (i : Nat) (f : FnCfg → FnCfg) : (d.updFn i f).reg = d.reg := rfl
@[simp] theorem Dev.updFn_cores (d : Dev) (i : Nat) (f : FnCfg → FnCfg) : (d.updFn i f).cores = d.cores := rfl
@[simp] theorem Dev.updFn_routes (d : Dev) (i : Nat) (f : FnCfg → FnCfg) : (d.updFn i f).routes = d.routes := rfl
@[simp] theorem Dev.updFn_trk (d : Dev) (i : Nat) (f : FnCfg → FnCfg) : (d.updFn i f).trk = d.trk := rfl
@[simp] theorem Dev.updFn_qlk (d : Dev) (i : Nat) (f : FnCfg → FnCfg) : (d.updFn i f).qlk = d.qlk := rfl
@[simp] theorem Dev.updFn_chk (d : Dev) (i : Nat) (f : FnCfg → FnCfg) : (d.updFn i f).chk = d.chk := rfl
@[simp] theorem Dev.updFn_clkStarting (d : Dev) (i : Nat) (f : FnCfg → FnCfg) : (d.updFn i f).clkStarting = d.clkStarting := rfl
@[simp] theorem Dev.updFn_domainOn (d : Dev) (i : Nat) (f : FnCfg → FnCfg) : (d.updFn i f).domainOn = d.domainOn := rfl
@[simp] theorem Dev.updFn_domainRising (d : Dev) (i : Nat) (f : FnCfg → FnCfg) : (d.updFn i f).domainRising = d.domainRising := rfl
@[simp] theorem Dev.updFn_domainFalling (d : Dev) (i : Nat) (f : FnCfg → FnCfg) : (d.updFn i f).domainFalling = d.domainFalling := rfl
@[simp] theorem Dev.updFn_meshStopped (d : Dev) (i : Nat) (f : FnCfg → FnCfg) : (d.updFn i f).meshStopped = d.meshStopped := rfl
@[simp] theorem Dev.updFn_out (d : Dev) (i : Nat) (f : FnCfg → FnCfg) : (d.updFn i f).out = d.out := rfl

/-! updSeg -/

@[simp] theorem Dev.updSeg_free (d : Dev) (x i : Nat) (f : Seg → Seg) : (d.updSeg x i f).free = d.free := rfl
@[simp] theorem Dev.updSeg_slow (d : Dev) (x i : Nat) (f : Seg → Seg) : (d.updSeg x i f).slow = d.slow := rfl
@[simp] theorem Dev.updSeg_leaves (d : Dev) (x i : Nat) (f : Seg → Seg) : (d.updSeg x i f).leaves = d.leaves := rfl
@[simp] theorem Dev.updSeg_masks (d : Dev) (x i : Nat) (f : Seg → Seg) : (d.updSeg x i f).masks = d.masks := rfl
@[simp] theorem Dev.updSeg_recent (d : Dev) (x i : Nat) (f : Seg → Seg) : (d.updSeg x i f).recent = d.recent := rfl
@[simp] theorem Dev.updSeg_layout (d : Dev) (x i : Nat) (f : Seg → Seg) : (d.updSeg x i f).layout = d.layout := rfl
@[simp] theorem Dev.updSeg_swapStop (d : Dev) (x i : Nat) (f : Seg → Seg) : (d.updSeg x i f).swapStop = d.swapStop := rfl
@[simp] theorem Dev.updSeg_rings (d : Dev) (x i : Nat) (f : Seg → Seg) : (d.updSeg x i f).rings = d.rings := rfl
@[simp] theorem Dev.updSeg_ringInfo (d : Dev) (x i : Nat) (f : Seg → Seg) : (d.updSeg x i f).ringInfo = d.ringInfo := rfl
@[simp] theorem Dev.updSeg_slots (d : Dev) (x i : Nat) (f : Seg → Seg) : (d.updSeg x i f).slots = d.slots := rfl
@[simp] theorem Dev.updSeg_latches (d : Dev) (x i : Nat) (f : Seg → Seg) : (d.updSeg x i f).latches = d.latches := rfl
@[simp] theorem Dev.updSeg_board (d : Dev) (x i : Nat) (f : Seg → Seg) : (d.updSeg x i f).board = d.board := rfl
@[simp] theorem Dev.updSeg_nextPlace (d : Dev) (x i : Nat) (f : Seg → Seg) : (d.updSeg x i f).nextPlace = d.nextPlace := rfl
@[simp] theorem Dev.updSeg_collector (d : Dev) (x i : Nat) (f : Seg → Seg) : (d.updSeg x i f).collector = d.collector := rfl
@[simp] theorem Dev.updSeg_seats (d : Dev) (x i : Nat) (f : Seg → Seg) : (d.updSeg x i f).seats = d.seats := rfl
@[simp] theorem Dev.updSeg_mem (d : Dev) (x i : Nat) (f : Seg → Seg) : (d.updSeg x i f).mem = d.mem := rfl
@[simp] theorem Dev.updSeg_cache (d : Dev) (x i : Nat) (f : Seg → Seg) : (d.updSeg x i f).cache = d.cache := rfl
@[simp] theorem Dev.updSeg_reg (d : Dev) (x i : Nat) (f : Seg → Seg) : (d.updSeg x i f).reg = d.reg := rfl
@[simp] theorem Dev.updSeg_cores (d : Dev) (x i : Nat) (f : Seg → Seg) : (d.updSeg x i f).cores = d.cores := rfl
@[simp] theorem Dev.updSeg_routes (d : Dev) (x i : Nat) (f : Seg → Seg) : (d.updSeg x i f).routes = d.routes := rfl
@[simp] theorem Dev.updSeg_trk (d : Dev) (x i : Nat) (f : Seg → Seg) : (d.updSeg x i f).trk = d.trk := rfl
@[simp] theorem Dev.updSeg_qlk (d : Dev) (x i : Nat) (f : Seg → Seg) : (d.updSeg x i f).qlk = d.qlk := rfl
@[simp] theorem Dev.updSeg_chk (d : Dev) (x i : Nat) (f : Seg → Seg) : (d.updSeg x i f).chk = d.chk := rfl
@[simp] theorem Dev.updSeg_glb (d : Dev) (x i : Nat) (f : Seg → Seg) : (d.updSeg x i f).glb = d.glb := rfl
@[simp] theorem Dev.updSeg_clkStarting (d : Dev) (x i : Nat) (f : Seg → Seg) : (d.updSeg x i f).clkStarting = d.clkStarting := rfl
@[simp] theorem Dev.updSeg_domainOn (d : Dev) (x i : Nat) (f : Seg → Seg) : (d.updSeg x i f).domainOn = d.domainOn := rfl
@[simp] theorem Dev.updSeg_domainRising (d : Dev) (x i : Nat) (f : Seg → Seg) : (d.updSeg x i f).domainRising = d.domainRising := rfl
@[simp] theorem Dev.updSeg_domainFalling (d : Dev) (x i : Nat) (f : Seg → Seg) : (d.updSeg x i f).domainFalling = d.domainFalling := rfl
@[simp] theorem Dev.updSeg_meshStopped (d : Dev) (x i : Nat) (f : Seg → Seg) : (d.updSeg x i f).meshStopped = d.meshStopped := rfl
@[simp] theorem Dev.updSeg_out (d : Dev) (x i : Nat) (f : Seg → Seg) : (d.updSeg x i f).out = d.out := rfl

/-! updPlace -/

@[simp] theorem Dev.updPlace_free (d : Dev) (i : Nat) (f : Place → Place) : (d.updPlace i f).free = d.free := rfl
@[simp] theorem Dev.updPlace_slow (d : Dev) (i : Nat) (f : Place → Place) : (d.updPlace i f).slow = d.slow := rfl
@[simp] theorem Dev.updPlace_leaves (d : Dev) (i : Nat) (f : Place → Place) : (d.updPlace i f).leaves = d.leaves := rfl
@[simp] theorem Dev.updPlace_masks (d : Dev) (i : Nat) (f : Place → Place) : (d.updPlace i f).masks = d.masks := rfl
@[simp] theorem Dev.updPlace_recent (d : Dev) (i : Nat) (f : Place → Place) : (d.updPlace i f).recent = d.recent := rfl
@[simp] theorem Dev.updPlace_layout (d : Dev) (i : Nat) (f : Place → Place) : (d.updPlace i f).layout = d.layout := rfl
@[simp] theorem Dev.updPlace_swapStop (d : Dev) (i : Nat) (f : Place → Place) : (d.updPlace i f).swapStop = d.swapStop := rfl
@[simp] theorem Dev.updPlace_rings (d : Dev) (i : Nat) (f : Place → Place) : (d.updPlace i f).rings = d.rings := rfl
@[simp] theorem Dev.updPlace_ringInfo (d : Dev) (i : Nat) (f : Place → Place) : (d.updPlace i f).ringInfo = d.ringInfo := rfl
@[simp] theorem Dev.updPlace_slots (d : Dev) (i : Nat) (f : Place → Place) : (d.updPlace i f).slots = d.slots := rfl
@[simp] theorem Dev.updPlace_latches (d : Dev) (i : Nat) (f : Place → Place) : (d.updPlace i f).latches = d.latches := rfl
@[simp] theorem Dev.updPlace_nextPlace (d : Dev) (i : Nat) (f : Place → Place) : (d.updPlace i f).nextPlace = d.nextPlace := rfl
@[simp] theorem Dev.updPlace_collector (d : Dev) (i : Nat) (f : Place → Place) : (d.updPlace i f).collector = d.collector := rfl
@[simp] theorem Dev.updPlace_seats (d : Dev) (i : Nat) (f : Place → Place) : (d.updPlace i f).seats = d.seats := rfl
@[simp] theorem Dev.updPlace_ctxs (d : Dev) (i : Nat) (f : Place → Place) : (d.updPlace i f).ctxs = d.ctxs := rfl
@[simp] theorem Dev.updPlace_mem (d : Dev) (i : Nat) (f : Place → Place) : (d.updPlace i f).mem = d.mem := rfl
@[simp] theorem Dev.updPlace_cache (d : Dev) (i : Nat) (f : Place → Place) : (d.updPlace i f).cache = d.cache := rfl
@[simp] theorem Dev.updPlace_reg (d : Dev) (i : Nat) (f : Place → Place) : (d.updPlace i f).reg = d.reg := rfl
@[simp] theorem Dev.updPlace_cores (d : Dev) (i : Nat) (f : Place → Place) : (d.updPlace i f).cores = d.cores := rfl
@[simp] theorem Dev.updPlace_routes (d : Dev) (i : Nat) (f : Place → Place) : (d.updPlace i f).routes = d.routes := rfl
@[simp] theorem Dev.updPlace_trk (d : Dev) (i : Nat) (f : Place → Place) : (d.updPlace i f).trk = d.trk := rfl
@[simp] theorem Dev.updPlace_qlk (d : Dev) (i : Nat) (f : Place → Place) : (d.updPlace i f).qlk = d.qlk := rfl
@[simp] theorem Dev.updPlace_chk (d : Dev) (i : Nat) (f : Place → Place) : (d.updPlace i f).chk = d.chk := rfl
@[simp] theorem Dev.updPlace_glb (d : Dev) (i : Nat) (f : Place → Place) : (d.updPlace i f).glb = d.glb := rfl
@[simp] theorem Dev.updPlace_clkStarting (d : Dev) (i : Nat) (f : Place → Place) : (d.updPlace i f).clkStarting = d.clkStarting := rfl
@[simp] theorem Dev.updPlace_domainOn (d : Dev) (i : Nat) (f : Place → Place) : (d.updPlace i f).domainOn = d.domainOn := rfl
@[simp] theorem Dev.updPlace_domainRising (d : Dev) (i : Nat) (f : Place → Place) : (d.updPlace i f).domainRising = d.domainRising := rfl
@[simp] theorem Dev.updPlace_domainFalling (d : Dev) (i : Nat) (f : Place → Place) : (d.updPlace i f).domainFalling = d.domainFalling := rfl
@[simp] theorem Dev.updPlace_meshStopped (d : Dev) (i : Nat) (f : Place → Place) : (d.updPlace i f).meshStopped = d.meshStopped := rfl
@[simp] theorem Dev.updPlace_out (d : Dev) (i : Nat) (f : Place → Place) : (d.updPlace i f).out = d.out := rfl

/-! setLeaf -/

@[simp] theorem Dev.setLeaf_free (d : Dev) (r : LeafReg) (b : Nat) : (d.setLeaf r b).free = d.free := rfl
@[simp] theorem Dev.setLeaf_slow (d : Dev) (r : LeafReg) (b : Nat) : (d.setLeaf r b).slow = d.slow := rfl
@[simp] theorem Dev.setLeaf_masks (d : Dev) (r : LeafReg) (b : Nat) : (d.setLeaf r b).masks = d.masks := rfl
@[simp] theorem Dev.setLeaf_layout (d : Dev) (r : LeafReg) (b : Nat) : (d.setLeaf r b).layout = d.layout := rfl
@[simp] theorem Dev.setLeaf_swapStop (d : Dev) (r : LeafReg) (b : Nat) : (d.setLeaf r b).swapStop = d.swapStop := rfl
@[simp] theorem Dev.setLeaf_rings (d : Dev) (r : LeafReg) (b : Nat) : (d.setLeaf r b).rings = d.rings := rfl
@[simp] theorem Dev.setLeaf_ringInfo (d : Dev) (r : LeafReg) (b : Nat) : (d.setLeaf r b).ringInfo = d.ringInfo := rfl
@[simp] theorem Dev.setLeaf_slots (d : Dev) (r : LeafReg) (b : Nat) : (d.setLeaf r b).slots = d.slots := rfl
@[simp] theorem Dev.setLeaf_latches (d : Dev) (r : LeafReg) (b : Nat) : (d.setLeaf r b).latches = d.latches := rfl
@[simp] theorem Dev.setLeaf_board (d : Dev) (r : LeafReg) (b : Nat) : (d.setLeaf r b).board = d.board := rfl
@[simp] theorem Dev.setLeaf_nextPlace (d : Dev) (r : LeafReg) (b : Nat) : (d.setLeaf r b).nextPlace = d.nextPlace := rfl
@[simp] theorem Dev.setLeaf_collector (d : Dev) (r : LeafReg) (b : Nat) : (d.setLeaf r b).collector = d.collector := rfl
@[simp] theorem Dev.setLeaf_seats (d : Dev) (r : LeafReg) (b : Nat) : (d.setLeaf r b).seats = d.seats := rfl
@[simp] theorem Dev.setLeaf_ctxs (d : Dev) (r : LeafReg) (b : Nat) : (d.setLeaf r b).ctxs = d.ctxs := rfl
@[simp] theorem Dev.setLeaf_mem (d : Dev) (r : LeafReg) (b : Nat) : (d.setLeaf r b).mem = d.mem := rfl
@[simp] theorem Dev.setLeaf_cache (d : Dev) (r : LeafReg) (b : Nat) : (d.setLeaf r b).cache = d.cache := rfl
@[simp] theorem Dev.setLeaf_reg (d : Dev) (r : LeafReg) (b : Nat) : (d.setLeaf r b).reg = d.reg := rfl
@[simp] theorem Dev.setLeaf_cores (d : Dev) (r : LeafReg) (b : Nat) : (d.setLeaf r b).cores = d.cores := rfl
@[simp] theorem Dev.setLeaf_routes (d : Dev) (r : LeafReg) (b : Nat) : (d.setLeaf r b).routes = d.routes := rfl
@[simp] theorem Dev.setLeaf_trk (d : Dev) (r : LeafReg) (b : Nat) : (d.setLeaf r b).trk = d.trk := rfl
@[simp] theorem Dev.setLeaf_qlk (d : Dev) (r : LeafReg) (b : Nat) : (d.setLeaf r b).qlk = d.qlk := rfl
@[simp] theorem Dev.setLeaf_chk (d : Dev) (r : LeafReg) (b : Nat) : (d.setLeaf r b).chk = d.chk := rfl
@[simp] theorem Dev.setLeaf_glb (d : Dev) (r : LeafReg) (b : Nat) : (d.setLeaf r b).glb = d.glb := rfl
@[simp] theorem Dev.setLeaf_clkStarting (d : Dev) (r : LeafReg) (b : Nat) : (d.setLeaf r b).clkStarting = d.clkStarting := rfl
@[simp] theorem Dev.setLeaf_domainOn (d : Dev) (r : LeafReg) (b : Nat) : (d.setLeaf r b).domainOn = d.domainOn := rfl
@[simp] theorem Dev.setLeaf_domainRising (d : Dev) (r : LeafReg) (b : Nat) : (d.setLeaf r b).domainRising = d.domainRising := rfl
@[simp] theorem Dev.setLeaf_domainFalling (d : Dev) (r : LeafReg) (b : Nat) : (d.setLeaf r b).domainFalling = d.domainFalling := rfl
@[simp] theorem Dev.setLeaf_meshStopped (d : Dev) (r : LeafReg) (b : Nat) : (d.setLeaf r b).meshStopped = d.meshStopped := rfl
@[simp] theorem Dev.setLeaf_out (d : Dev) (r : LeafReg) (b : Nat) : (d.setLeaf r b).out = d.out := rfl

/-! clearLeaf -/

@[simp] theorem Dev.clearLeaf_free (d : Dev) (r : LeafReg) (v : Nat) : (d.clearLeaf r v).free = d.free := rfl
@[simp] theorem Dev.clearLeaf_slow (d : Dev) (r : LeafReg) (v : Nat) : (d.clearLeaf r v).slow = d.slow := rfl
@[simp] theorem Dev.clearLeaf_masks (d : Dev) (r : LeafReg) (v : Nat) : (d.clearLeaf r v).masks = d.masks := rfl
@[simp] theorem Dev.clearLeaf_recent (d : Dev) (r : LeafReg) (v : Nat) : (d.clearLeaf r v).recent = d.recent := rfl
@[simp] theorem Dev.clearLeaf_layout (d : Dev) (r : LeafReg) (v : Nat) : (d.clearLeaf r v).layout = d.layout := rfl
@[simp] theorem Dev.clearLeaf_swapStop (d : Dev) (r : LeafReg) (v : Nat) : (d.clearLeaf r v).swapStop = d.swapStop := rfl
@[simp] theorem Dev.clearLeaf_rings (d : Dev) (r : LeafReg) (v : Nat) : (d.clearLeaf r v).rings = d.rings := rfl
@[simp] theorem Dev.clearLeaf_ringInfo (d : Dev) (r : LeafReg) (v : Nat) : (d.clearLeaf r v).ringInfo = d.ringInfo := rfl
@[simp] theorem Dev.clearLeaf_slots (d : Dev) (r : LeafReg) (v : Nat) : (d.clearLeaf r v).slots = d.slots := rfl
@[simp] theorem Dev.clearLeaf_latches (d : Dev) (r : LeafReg) (v : Nat) : (d.clearLeaf r v).latches = d.latches := rfl
@[simp] theorem Dev.clearLeaf_board (d : Dev) (r : LeafReg) (v : Nat) : (d.clearLeaf r v).board = d.board := rfl
@[simp] theorem Dev.clearLeaf_nextPlace (d : Dev) (r : LeafReg) (v : Nat) : (d.clearLeaf r v).nextPlace = d.nextPlace := rfl
@[simp] theorem Dev.clearLeaf_collector (d : Dev) (r : LeafReg) (v : Nat) : (d.clearLeaf r v).collector = d.collector := rfl
@[simp] theorem Dev.clearLeaf_seats (d : Dev) (r : LeafReg) (v : Nat) : (d.clearLeaf r v).seats = d.seats := rfl
@[simp] theorem Dev.clearLeaf_ctxs (d : Dev) (r : LeafReg) (v : Nat) : (d.clearLeaf r v).ctxs = d.ctxs := rfl
@[simp] theorem Dev.clearLeaf_mem (d : Dev) (r : LeafReg) (v : Nat) : (d.clearLeaf r v).mem = d.mem := rfl
@[simp] theorem Dev.clearLeaf_cache (d : Dev) (r : LeafReg) (v : Nat) : (d.clearLeaf r v).cache = d.cache := rfl
@[simp] theorem Dev.clearLeaf_reg (d : Dev) (r : LeafReg) (v : Nat) : (d.clearLeaf r v).reg = d.reg := rfl
@[simp] theorem Dev.clearLeaf_cores (d : Dev) (r : LeafReg) (v : Nat) : (d.clearLeaf r v).cores = d.cores := rfl
@[simp] theorem Dev.clearLeaf_routes (d : Dev) (r : LeafReg) (v : Nat) : (d.clearLeaf r v).routes = d.routes := rfl
@[simp] theorem Dev.clearLeaf_trk (d : Dev) (r : LeafReg) (v : Nat) : (d.clearLeaf r v).trk = d.trk := rfl
@[simp] theorem Dev.clearLeaf_qlk (d : Dev) (r : LeafReg) (v : Nat) : (d.clearLeaf r v).qlk = d.qlk := rfl
@[simp] theorem Dev.clearLeaf_chk (d : Dev) (r : LeafReg) (v : Nat) : (d.clearLeaf r v).chk = d.chk := rfl
@[simp] theorem Dev.clearLeaf_glb (d : Dev) (r : LeafReg) (v : Nat) : (d.clearLeaf r v).glb = d.glb := rfl
@[simp] theorem Dev.clearLeaf_clkStarting (d : Dev) (r : LeafReg) (v : Nat) : (d.clearLeaf r v).clkStarting = d.clkStarting := rfl
@[simp] theorem Dev.clearLeaf_domainOn (d : Dev) (r : LeafReg) (v : Nat) : (d.clearLeaf r v).domainOn = d.domainOn := rfl
@[simp] theorem Dev.clearLeaf_domainRising (d : Dev) (r : LeafReg) (v : Nat) : (d.clearLeaf r v).domainRising = d.domainRising := rfl
@[simp] theorem Dev.clearLeaf_domainFalling (d : Dev) (r : LeafReg) (v : Nat) : (d.clearLeaf r v).domainFalling = d.domainFalling := rfl
@[simp] theorem Dev.clearLeaf_meshStopped (d : Dev) (r : LeafReg) (v : Nat) : (d.clearLeaf r v).meshStopped = d.meshStopped := rfl
@[simp] theorem Dev.clearLeaf_out (d : Dev) (r : LeafReg) (v : Nat) : (d.clearLeaf r v).out = d.out := rfl

/-! zeroLeaf -/

@[simp] theorem Dev.zeroLeaf_free (d : Dev) (r : LeafReg) : (d.zeroLeaf r).free = d.free := rfl
@[simp] theorem Dev.zeroLeaf_slow (d : Dev) (r : LeafReg) : (d.zeroLeaf r).slow = d.slow := rfl
@[simp] theorem Dev.zeroLeaf_masks (d : Dev) (r : LeafReg) : (d.zeroLeaf r).masks = d.masks := rfl
@[simp] theorem Dev.zeroLeaf_layout (d : Dev) (r : LeafReg) : (d.zeroLeaf r).layout = d.layout := rfl
@[simp] theorem Dev.zeroLeaf_swapStop (d : Dev) (r : LeafReg) : (d.zeroLeaf r).swapStop = d.swapStop := rfl
@[simp] theorem Dev.zeroLeaf_rings (d : Dev) (r : LeafReg) : (d.zeroLeaf r).rings = d.rings := rfl
@[simp] theorem Dev.zeroLeaf_ringInfo (d : Dev) (r : LeafReg) : (d.zeroLeaf r).ringInfo = d.ringInfo := rfl
@[simp] theorem Dev.zeroLeaf_slots (d : Dev) (r : LeafReg) : (d.zeroLeaf r).slots = d.slots := rfl
@[simp] theorem Dev.zeroLeaf_latches (d : Dev) (r : LeafReg) : (d.zeroLeaf r).latches = d.latches := rfl
@[simp] theorem Dev.zeroLeaf_board (d : Dev) (r : LeafReg) : (d.zeroLeaf r).board = d.board := rfl
@[simp] theorem Dev.zeroLeaf_nextPlace (d : Dev) (r : LeafReg) : (d.zeroLeaf r).nextPlace = d.nextPlace := rfl
@[simp] theorem Dev.zeroLeaf_collector (d : Dev) (r : LeafReg) : (d.zeroLeaf r).collector = d.collector := rfl
@[simp] theorem Dev.zeroLeaf_seats (d : Dev) (r : LeafReg) : (d.zeroLeaf r).seats = d.seats := rfl
@[simp] theorem Dev.zeroLeaf_ctxs (d : Dev) (r : LeafReg) : (d.zeroLeaf r).ctxs = d.ctxs := rfl
@[simp] theorem Dev.zeroLeaf_mem (d : Dev) (r : LeafReg) : (d.zeroLeaf r).mem = d.mem := rfl
@[simp] theorem Dev.zeroLeaf_cache (d : Dev) (r : LeafReg) : (d.zeroLeaf r).cache = d.cache := rfl
@[simp] theorem Dev.zeroLeaf_reg (d : Dev) (r : LeafReg) : (d.zeroLeaf r).reg = d.reg := rfl
@[simp] theorem Dev.zeroLeaf_cores (d : Dev) (r : LeafReg) : (d.zeroLeaf r).cores = d.cores := rfl
@[simp] theorem Dev.zeroLeaf_routes (d : Dev) (r : LeafReg) : (d.zeroLeaf r).routes = d.routes := rfl
@[simp] theorem Dev.zeroLeaf_trk (d : Dev) (r : LeafReg) : (d.zeroLeaf r).trk = d.trk := rfl
@[simp] theorem Dev.zeroLeaf_qlk (d : Dev) (r : LeafReg) : (d.zeroLeaf r).qlk = d.qlk := rfl
@[simp] theorem Dev.zeroLeaf_chk (d : Dev) (r : LeafReg) : (d.zeroLeaf r).chk = d.chk := rfl
@[simp] theorem Dev.zeroLeaf_glb (d : Dev) (r : LeafReg) : (d.zeroLeaf r).glb = d.glb := rfl
@[simp] theorem Dev.zeroLeaf_clkStarting (d : Dev) (r : LeafReg) : (d.zeroLeaf r).clkStarting = d.clkStarting := rfl
@[simp] theorem Dev.zeroLeaf_domainOn (d : Dev) (r : LeafReg) : (d.zeroLeaf r).domainOn = d.domainOn := rfl
@[simp] theorem Dev.zeroLeaf_domainRising (d : Dev) (r : LeafReg) : (d.zeroLeaf r).domainRising = d.domainRising := rfl
@[simp] theorem Dev.zeroLeaf_domainFalling (d : Dev) (r : LeafReg) : (d.zeroLeaf r).domainFalling = d.domainFalling := rfl
@[simp] theorem Dev.zeroLeaf_meshStopped (d : Dev) (r : LeafReg) : (d.zeroLeaf r).meshStopped = d.meshStopped := rfl
@[simp] theorem Dev.zeroLeaf_out (d : Dev) (r : LeafReg) : (d.zeroLeaf r).out = d.out := rfl

/-! emit -/

@[simp] theorem Dev.emit_free (d : Dev) (o : Out) : (d.emit o).free = d.free := rfl
@[simp] theorem Dev.emit_slow (d : Dev) (o : Out) : (d.emit o).slow = d.slow := rfl
@[simp] theorem Dev.emit_leaves (d : Dev) (o : Out) : (d.emit o).leaves = d.leaves := rfl
@[simp] theorem Dev.emit_masks (d : Dev) (o : Out) : (d.emit o).masks = d.masks := rfl
@[simp] theorem Dev.emit_recent (d : Dev) (o : Out) : (d.emit o).recent = d.recent := rfl
@[simp] theorem Dev.emit_layout (d : Dev) (o : Out) : (d.emit o).layout = d.layout := rfl
@[simp] theorem Dev.emit_swapStop (d : Dev) (o : Out) : (d.emit o).swapStop = d.swapStop := rfl
@[simp] theorem Dev.emit_rings (d : Dev) (o : Out) : (d.emit o).rings = d.rings := rfl
@[simp] theorem Dev.emit_ringInfo (d : Dev) (o : Out) : (d.emit o).ringInfo = d.ringInfo := rfl
@[simp] theorem Dev.emit_slots (d : Dev) (o : Out) : (d.emit o).slots = d.slots := rfl
@[simp] theorem Dev.emit_latches (d : Dev) (o : Out) : (d.emit o).latches = d.latches := rfl
@[simp] theorem Dev.emit_board (d : Dev) (o : Out) : (d.emit o).board = d.board := rfl
@[simp] theorem Dev.emit_nextPlace (d : Dev) (o : Out) : (d.emit o).nextPlace = d.nextPlace := rfl
@[simp] theorem Dev.emit_collector (d : Dev) (o : Out) : (d.emit o).collector = d.collector := rfl
@[simp] theorem Dev.emit_seats (d : Dev) (o : Out) : (d.emit o).seats = d.seats := rfl
@[simp] theorem Dev.emit_ctxs (d : Dev) (o : Out) : (d.emit o).ctxs = d.ctxs := rfl
@[simp] theorem Dev.emit_mem (d : Dev) (o : Out) : (d.emit o).mem = d.mem := rfl
@[simp] theorem Dev.emit_cache (d : Dev) (o : Out) : (d.emit o).cache = d.cache := rfl
@[simp] theorem Dev.emit_reg (d : Dev) (o : Out) : (d.emit o).reg = d.reg := rfl
@[simp] theorem Dev.emit_cores (d : Dev) (o : Out) : (d.emit o).cores = d.cores := rfl
@[simp] theorem Dev.emit_routes (d : Dev) (o : Out) : (d.emit o).routes = d.routes := rfl
@[simp] theorem Dev.emit_trk (d : Dev) (o : Out) : (d.emit o).trk = d.trk := rfl
@[simp] theorem Dev.emit_qlk (d : Dev) (o : Out) : (d.emit o).qlk = d.qlk := rfl
@[simp] theorem Dev.emit_chk (d : Dev) (o : Out) : (d.emit o).chk = d.chk := rfl
@[simp] theorem Dev.emit_glb (d : Dev) (o : Out) : (d.emit o).glb = d.glb := rfl
@[simp] theorem Dev.emit_clkStarting (d : Dev) (o : Out) : (d.emit o).clkStarting = d.clkStarting := rfl
@[simp] theorem Dev.emit_domainOn (d : Dev) (o : Out) : (d.emit o).domainOn = d.domainOn := rfl
@[simp] theorem Dev.emit_domainRising (d : Dev) (o : Out) : (d.emit o).domainRising = d.domainRising := rfl
@[simp] theorem Dev.emit_domainFalling (d : Dev) (o : Out) : (d.emit o).domainFalling = d.domainFalling := rfl
@[simp] theorem Dev.emit_meshStopped (d : Dev) (o : Out) : (d.emit o).meshStopped = d.meshStopped := rfl

/-! tickFree -/

@[simp] theorem Dev.tickFree_slow (d : Dev) : (d.tickFree ).slow = d.slow := rfl
@[simp] theorem Dev.tickFree_leaves (d : Dev) : (d.tickFree ).leaves = d.leaves := rfl
@[simp] theorem Dev.tickFree_masks (d : Dev) : (d.tickFree ).masks = d.masks := rfl
@[simp] theorem Dev.tickFree_recent (d : Dev) : (d.tickFree ).recent = d.recent := rfl
@[simp] theorem Dev.tickFree_layout (d : Dev) : (d.tickFree ).layout = d.layout := rfl
@[simp] theorem Dev.tickFree_swapStop (d : Dev) : (d.tickFree ).swapStop = d.swapStop := rfl
@[simp] theorem Dev.tickFree_rings (d : Dev) : (d.tickFree ).rings = d.rings := rfl
@[simp] theorem Dev.tickFree_ringInfo (d : Dev) : (d.tickFree ).ringInfo = d.ringInfo := rfl
@[simp] theorem Dev.tickFree_slots (d : Dev) : (d.tickFree ).slots = d.slots := rfl
@[simp] theorem Dev.tickFree_latches (d : Dev) : (d.tickFree ).latches = d.latches := rfl
@[simp] theorem Dev.tickFree_board (d : Dev) : (d.tickFree ).board = d.board := rfl
@[simp] theorem Dev.tickFree_nextPlace (d : Dev) : (d.tickFree ).nextPlace = d.nextPlace := rfl
@[simp] theorem Dev.tickFree_collector (d : Dev) : (d.tickFree ).collector = d.collector := rfl
@[simp] theorem Dev.tickFree_seats (d : Dev) : (d.tickFree ).seats = d.seats := rfl
@[simp] theorem Dev.tickFree_ctxs (d : Dev) : (d.tickFree ).ctxs = d.ctxs := rfl
@[simp] theorem Dev.tickFree_mem (d : Dev) : (d.tickFree ).mem = d.mem := rfl
@[simp] theorem Dev.tickFree_cache (d : Dev) : (d.tickFree ).cache = d.cache := rfl
@[simp] theorem Dev.tickFree_reg (d : Dev) : (d.tickFree ).reg = d.reg := rfl
@[simp] theorem Dev.tickFree_cores (d : Dev) : (d.tickFree ).cores = d.cores := rfl
@[simp] theorem Dev.tickFree_routes (d : Dev) : (d.tickFree ).routes = d.routes := rfl
@[simp] theorem Dev.tickFree_trk (d : Dev) : (d.tickFree ).trk = d.trk := rfl
@[simp] theorem Dev.tickFree_qlk (d : Dev) : (d.tickFree ).qlk = d.qlk := rfl
@[simp] theorem Dev.tickFree_chk (d : Dev) : (d.tickFree ).chk = d.chk := rfl
@[simp] theorem Dev.tickFree_glb (d : Dev) : (d.tickFree ).glb = d.glb := rfl
@[simp] theorem Dev.tickFree_clkStarting (d : Dev) : (d.tickFree ).clkStarting = d.clkStarting := rfl
@[simp] theorem Dev.tickFree_domainOn (d : Dev) : (d.tickFree ).domainOn = d.domainOn := rfl
@[simp] theorem Dev.tickFree_domainRising (d : Dev) : (d.tickFree ).domainRising = d.domainRising := rfl
@[simp] theorem Dev.tickFree_domainFalling (d : Dev) : (d.tickFree ).domainFalling = d.domainFalling := rfl
@[simp] theorem Dev.tickFree_meshStopped (d : Dev) : (d.tickFree ).meshStopped = d.meshStopped := rfl
@[simp] theorem Dev.tickFree_out (d : Dev) : (d.tickFree ).out = d.out := rfl

/-! State.setLeaf -/

@[simp] theorem State.setLeaf_pending (s : State) (r : LeafReg) (b : Nat) : (s.setLeaf r b).pending = s.pending := rfl
@[simp] theorem State.setLeaf_lay (s : State) (r : LeafReg) (b : Nat) : (s.setLeaf r b).lay = s.lay := rfl
@[simp] theorem State.setLeaf_tst (s : State) (r : LeafReg) (b : Nat) : (s.setLeaf r b).tst = s.tst := rfl
@[simp] theorem State.setLeaf_pwr (s : State) (r : LeafReg) (b : Nat) : (s.setLeaf r b).pwr = s.pwr := rfl
@[simp] theorem State.setLeaf_mgt (s : State) (r : LeafReg) (b : Nat) : (s.setLeaf r b).mgt = s.mgt := rfl
@[simp] theorem State.setLeaf_atn (s : State) (r : LeafReg) (b : Nat) : (s.setLeaf r b).atn = s.atn := rfl
@[simp] theorem State.setLeaf_jtag (s : State) (r : LeafReg) (b : Nat) : (s.setLeaf r b).jtag = s.jtag := rfl
@[simp] theorem State.setLeaf_dev (s : State) (r : LeafReg) (b : Nat) : (s.setLeaf r b).dev = s.dev.setLeaf r b := rfl

/-! State.emit -/

@[simp] theorem State.emit_pending (s : State) (o : Out) : (s.emit o).pending = s.pending := rfl
@[simp] theorem State.emit_lay (s : State) (o : Out) : (s.emit o).lay = s.lay := rfl
@[simp] theorem State.emit_tst (s : State) (o : Out) : (s.emit o).tst = s.tst := rfl
@[simp] theorem State.emit_pwr (s : State) (o : Out) : (s.emit o).pwr = s.pwr := rfl
@[simp] theorem State.emit_mgt (s : State) (o : Out) : (s.emit o).mgt = s.mgt := rfl
@[simp] theorem State.emit_atn (s : State) (o : Out) : (s.emit o).atn = s.atn := rfl
@[simp] theorem State.emit_jtag (s : State) (o : Out) : (s.emit o).jtag = s.jtag := rfl
@[simp] theorem State.emit_dev (s : State) (o : Out) : (s.emit o).dev = s.dev.emit o := rfl

end Sys2Proof.Machine
end

