-- ==== Sys2Proof/Laws/Ops.lean ====
section
/-! SUPPORT. What the named operations over registers do: records read back, leaves, and what a fold over records leaves. -/

namespace Sys2Proof.Machine

/-! ## Records read back -/

theorem Dev.ring_updRing (d : Dev) (i j : Nat) (f : Ring → Ring) :
    (d.updRing i f).ring j = if j = i then f (d.ring i) else d.ring j := by
  simp [Dev.ring, Dev.updRing, Dev.setRing, SMap.get_put]

theorem Dev.slot_updSlot (d : Dev) (i j : Nat) (f : Slot → Slot) :
    (d.updSlot i f).slot j = if j = i then f (d.slot i) else d.slot j := by
  simp [Dev.slot, Dev.updSlot, SMap.get_put]

theorem Dev.seat_updSeat (d : Dev) (i j : Nat) (f : Seat → Seat) :
    (d.updSeat i f).seat j = if j = i then f (d.seat i) else d.seat j := by
  simp [Dev.seat, Dev.updSeat, SMap.get_put]

theorem Dev.ctx_updCtx (d : Dev) (i j : Nat) (f : Ctx → Ctx) :
    (d.updCtx i f).ctx j = if j = i then f (d.ctx i) else d.ctx j := by
  simp [Dev.ctx, Dev.updCtx, SMap.get_put]

theorem Dev.core_updCore (d : Dev) (i j : Nat) (f : Core → Core) :
    (d.updCore i f).core j = if j = i then f (d.core i) else d.core j := by
  simp [Dev.core, Dev.updCore, SMap.get_put]

theorem Dev.stack_updStack (d : Dev) (i j : Nat) (f : Stack → Stack) :
    (d.updStack i f).mem.stack j = if j = i then f (d.mem.stack i) else d.mem.stack j := by
  simp [Dev.updStack, Mem.stack, Mem.updStack, SMap.get_put]

theorem Dev.port_updPort (d : Dev) (i j : Nat) (f : Port → Port) :
    (d.updPort i f).port j = if j = i then f (d.port i) else d.port j := by
  simp [Dev.port, Dev.updPort, SMap.get_put]

theorem Dev.unit_updUnit (d : Dev) (i j : Nat) (f : ChkUnit → ChkUnit) :
    (d.updUnit i f).unit j = if j = i then f (d.unit i) else d.unit j := by
  simp [Dev.unit, Dev.updUnit, SMap.get_put]

theorem Dev.window_updWindow (d : Dev) (i j : Nat) (f : Window → Window) :
    (d.updWindow i f).window j = if j = i then f (d.window i) else d.window j := by
  simp [Dev.window, Dev.updWindow, SMap.get_put]

theorem Dev.fn_updFn (d : Dev) (i j : Nat) (f : FnCfg → FnCfg) :
    (d.updFn i f).fn j = if j = i then f (d.fn i) else d.fn j := by
  simp [Dev.fn, Dev.updFn, SMap.get_put]

theorem Dev.seg_updSeg (d : Dev) (x s y u : Nat) (f : Seg → Seg) :
    (d.updSeg x s f).seg y u = if y = x ∧ u = s then f (d.seg x s) else d.seg y u := by
  unfold Dev.seg Dev.updSeg
  rw [Dev.ctx_updCtx]
  by_cases hy : y = x
  · subst hy; simp [SMap.get_put]
  · simp [hy]

/-! ## Places -/

theorem Dev.place_id {d : Dev} {i : Nat} {p : Place} (h : d.place i = some p) : p.id = i := by
  simpa using List.find?_some h

theorem Dev.place_mem {d : Dev} {i : Nat} {p : Place} (h : d.place i = some p) : p ∈ d.board := List.mem_of_find?_eq_some h

/-- A change of a place that keeps its number is what reading the place gives. -/
theorem Dev.place_updPlace {d : Dev} {i : Nat} {f : Place → Place} (hf : ∀ p, p.id = i → (f p).id = i) :
    (d.updPlace i f).place i = (d.place i).map f := by
  unfold Dev.place Dev.updPlace
  dsimp only
  induction d.board with
  | nil => rfl
  | cons q l ih =>
    rw [List.map_cons, List.find?_cons, List.find?_cons]
    by_cases h : q.id = i
    · simp [h, hf q h]
    · rw [if_neg h, beq_false_of_ne h]; exact ih

/-- A change of a place leaves every other place. -/
theorem Dev.place_updPlace_other {d : Dev} {i j : Nat} {f : Place → Place} (hf : ∀ p, p.id = i → (f p).id = i) (hj : j ≠ i) :
    (d.updPlace i f).place j = d.place j := by
  unfold Dev.place Dev.updPlace
  dsimp only
  induction d.board with
  | nil => rfl
  | cons q l ih =>
    rw [List.map_cons, List.find?_cons, List.find?_cons]
    by_cases h : q.id = i
    · rw [if_pos h, hf q h, h, beq_false_of_ne (Ne.symm hj)]; exact ih
    · rw [if_neg h]
      by_cases h' : q.id = j
      · rw [h', beq_self_eq_true]
      · rw [beq_false_of_ne h']; exact ih

/-! ## Leaves -/

@[simp] theorem Dev.leaf_setLeaf_same (d : Dev) (r : LeafReg) (b : Nat) : (d.setLeaf r b).leaf r = d.leaf r ||| 2 ^ b := by
  simp [Dev.leaf, Dev.setLeaf]

theorem Dev.leaf_setLeaf_other (d : Dev) {r q : LeafReg} (b : Nat) (h : q.key ≠ r.key) : (d.setLeaf r b).leaf q = d.leaf q := by
  simp [Dev.leaf, Dev.setLeaf, SMap.get_put_other h]

theorem Dev.testBit_leaf_setLeaf (d : Dev) (r : LeafReg) (b : Nat) : ((d.setLeaf r b).leaf r).testBit b = true := by
  simp [Nat.testBit_or]

theorem mem_insertAsc (x y : Nat) : ∀ l, y ∈ insertAsc x l ↔ y = x ∨ y ∈ l
  | [] => by simp [insertAsc]
  | z :: l => by
    unfold insertAsc
    split
    · simp
    · split
      · rename_i h; simp [h]
      · simp [mem_insertAsc x y l]; tauto

/-! ## Folds of updates -/

/-- A property that every update keeps holds after a fold of them. -/
theorem foldl_keeps {α β : Type} {P : β → Prop} {f : β → α → β} (hf : ∀ b a, P b → P (f b a)) :
    ∀ (l : List α) (b : β), P b → P (l.foldl f b)
  | [], _, h => h
  | a :: l, b, h => foldl_keeps hf l (f b a) (hf b a h)

/-- What every update of a fold leaves is as it was. -/
theorem foldl_leaves {α β γ : Type} (g : β → γ) {f : β → α → β} (hf : ∀ b a, g (f b a) = g b) (l : List α) (b : β) :
    g (l.foldl f b) = g b :=
  foldl_keeps (P := fun x => g x = g b) (fun x a h => (hf x a).trans h) l b rfl

/-- A table rebuilt from its own entries, front entry last. -/
theorem SMap.get_foldr_put {α β : Type} [DecidableEq β] (d : α) (e : β) (g : α → β) (hg : g d = e) (k : Nat) :
    ∀ m : SMap α, SMap.get e (m.foldr (fun p t => SMap.put e t p.1 (g p.2)) []) k = g (SMap.get d m k)
  | [] => by simp [hg]
  | (j, v) :: t => by
    simp only [List.foldr_cons, SMap.get_put, SMap.get]
    by_cases h : k = j
    · simp [h]
    · simp [h, Ne.symm h, SMap.get_foldr_put d e g hg k t]

/-- A table filled at the keys of a list. -/
theorem SMap.get_foldl_put {α : Type} [DecidableEq α] (d : α) (f : Nat → α) (k : Nat) :
    ∀ (l : List Nat) (m : SMap α), SMap.get d (l.foldl (fun t g => SMap.put d t g (f g)) m) k =
      if k ∈ l then f k else SMap.get d m k
  | [], m => by simp
  | j :: l, m => by
    rw [List.foldl_cons, SMap.get_foldl_put d f k l]
    by_cases h : k ∈ l
    · simp [h]
    · by_cases hj : k = j
      · subst hj; simp
      · simp [h, hj, SMap.get_put_other hj]

end Sys2Proof.Machine
end

