-- ==== Sys2Proof/Laws/Memory.lean ====
section
/-! SUPPORT. The bytes of memory: reading back what was written, the canonical form under every operation that touches
the bytes or the frames, and the form at reset. -/

namespace Sys2Proof.Machine

variable {m m' : Mem} {a b : Nat} {v : Byte}

/-! ## The canonical form -/

theorem Mem.wf_iff : m.wf = true ↔ SMap.sorted m.cells = true ∧ ∀ c ∈ m.cells, c.2 ≠ m.dflt c.1 ∧ c.1 < 2 ^ 40 := by
  simp [Mem.wf, List.all_eq_true]

/-- Memory with fewer cells and the same defaults where they are listed is canonical. -/
theorem Mem.wf_of (h : m.wf = true) (hs : SMap.sorted m'.cells = true) (hc : ∀ c ∈ m'.cells, c ∈ m.cells)
    (hd : ∀ c ∈ m'.cells, m'.dflt c.1 = m.dflt c.1) : m'.wf = true := by
  rw [Mem.wf_iff] at h ⊢
  exact ⟨hs, fun c hm => ⟨by rw [hd c hm]; exact (h.2 c (hc c hm)).1, (h.2 c (hc c hm)).2⟩⟩

/-- The losses of the frames decide what unlisted bytes read as. -/
theorem Mem.dflt_of (h : ((m'.stack (stackOf a)).frames.get {} (frameOf a)).lost =
    ((m.stack (stackOf a)).frames.get {} (frameOf a)).lost) : m'.dflt a = m.dflt a := by
  simp [Mem.dflt, h]

/-- Memory with the same cells and the same losses is canonical. -/
theorem Mem.wf_same (h : m.wf = true) (hc : m'.cells = m.cells)
    (hl : ∀ a, m'.dflt a = m.dflt a) : m'.wf = true :=
  Mem.wf_of h (by rw [hc]; exact (Mem.wf_iff.1 h).1) (by simp [hc]) (fun c _ => hl c.1)

@[simp] theorem Mem.stack_updStack (m : Mem) (x y : Nat) (f : Stack → Stack) :
    (m.updStack x f).stack y = if y = x then f (m.stack x) else m.stack y := by
  simp [Mem.stack, Mem.updStack, SMap.get_put]

@[simp] theorem Mem.cells_updStack (m : Mem) (x : Nat) (f : Stack → Stack) : (m.updStack x f).cells = m.cells := rfl

/-- An update of a stack that leaves its frames keeps what unlisted bytes read as. -/
theorem Mem.dflt_updStack {x : Nat} {f : Stack → Stack} (hf : (f (m.stack x)).frames = (m.stack x).frames) :
    (m.updStack x f).dflt a = m.dflt a := by
  apply Mem.dflt_of
  by_cases h : stackOf a = x
  · simp [h, hf]
  · simp [h]

theorem Mem.wf_updStack {x : Nat} {f : Stack → Stack} (hf : (f (m.stack x)).frames = (m.stack x).frames)
    (h : m.wf = true) : (m.updStack x f).wf = true :=
  Mem.wf_same h rfl fun _ => Mem.dflt_updStack hf

theorem Mem.wf_reset : ({} : Mem).wf = true := rfl

/-! ## One byte -/

theorem Mem.locate_lt (m : Mem) (a : Nat) : m.locate a < 2 ^ 40 := by
  unfold Mem.locate; dsimp only
  split <;> exact Nat.mod_lt _ (by decide)

@[simp] theorem Mem.dflt_putRaw : (m.putRaw a v).dflt b = m.dflt b := rfl

@[simp] theorem Mem.locate_putRaw : (m.putRaw a v).locate b = m.locate b := rfl

theorem Mem.rawByte_eq (m : Mem) (b : Nat) : m.rawByte b = (SMap.find m.cells b).getD (m.dflt b) := by
  unfold Mem.rawByte; split <;> simp [*]

theorem Mem.rawByte_putRaw : (m.putRaw a v).rawByte b = if b = a then v else m.rawByte b := by
  rw [Mem.rawByte_eq, Mem.rawByte_eq, Mem.dflt_putRaw]
  unfold Mem.putRaw
  by_cases hv : v = m.dflt a
  · simp only [hv, if_true, SMap.find_del]
    by_cases hb : b = a
    · simp [hb]
    · simp [hb]
  · simp only [hv, if_false, SMap.find_ins]
    by_cases hb : b = a
    · simp [hb]
    · simp [hb]

theorem Mem.wf_putRaw (ha : a < 2 ^ 40) (h : m.wf = true) : (m.putRaw a v).wf = true := by
  have hw := Mem.wf_iff.1 h
  rw [Mem.wf_iff]
  simp only [Mem.dflt_putRaw]
  unfold Mem.putRaw
  by_cases hv : v = m.dflt a
  · simp only [hv, if_true]
    exact ⟨SMap.sorted_del hw.1, fun c hc => hw.2 c (SMap.mem_del hc)⟩
  · simp only [hv, if_false]
    refine ⟨SMap.sorted_ins hw.1, fun c hc => ?_⟩
    rcases SMap.mem_ins hc with rfl | hc
    · exact ⟨hv, ha⟩
    · exact hw.2 c hc

/-- A byte written reads back. -/
@[simp] theorem Mem.byte_putByte_same (m : Mem) (a : Nat) (v : Byte) : (m.putByte a v).byte a = v := by
  simp [Mem.byte, Mem.putByte, Mem.rawByte_putRaw]

/-- A write of a byte leaves every address that another byte answers. -/
theorem Mem.byte_putByte_other (h : m.locate b ≠ m.locate a) : (m.putByte a v).byte b = m.byte b := by
  simp [Mem.byte, Mem.putByte, Mem.rawByte_putRaw, h]

theorem Mem.wf_putByte (h : m.wf = true) : (m.putByte a v).wf = true := Mem.wf_putRaw (Mem.locate_lt m a) h

theorem Mem.wf_putBytes : ∀ {bs : List Byte} {m : Mem} {a : Nat}, m.wf = true → (m.putBytes a bs).wf = true
  | [], _, _, h => h
  | b :: _, m, a, h => Mem.wf_putBytes (m := m.putByte a b) (a := a + 1) (Mem.wf_putByte h)

/-! ## Ranges and frames -/

theorem Mem.mem_dropRange {c : Nat × Byte} {n : Nat} :
    c ∈ (m.dropRange a n).cells ↔ c ∈ m.cells ∧ ¬ (a ≤ c.1 ∧ c.1 < a + n) := by
  simp [Mem.dropRange]; intro _; omega

theorem Mem.wf_dropRange {n : Nat} (h : m.wf = true) : (m.dropRange a n).wf = true :=
  Mem.wf_of h (SMap.sorted_filter _ (Mem.wf_iff.1 h).1) (fun _ hc => (Mem.mem_dropRange.1 hc).1) (fun _ _ => rfl)

/-- Where an address of 40 bits lies in its frame. -/
theorem frameAddr_le {a : Nat} (h : a < 2 ^ 40) : frameAddr (stackOf a) (frameOf a) ≤ a ∧
    a < frameAddr (stackOf a) (frameOf a) + 65536 := by
  unfold frameAddr stackOf frameOf offsetOf; omega

/-- The form is of the bytes and the frames alone. -/
theorem Mem.wf_marks (p : List Nat) (u : SMap (List (Nat × Byte))) :
    ({ m with poison := p, upsets := u } : Mem).wf = m.wf := rfl

theorem Mem.wf_poison (p : List Nat) : ({ m with poison := p } : Mem).wf = m.wf := rfl

theorem Mem.wf_upsets (u : SMap (List (Nat × Byte))) : ({ m with upsets := u } : Mem).wf = m.wf := rfl

/-- Bytes of a range go, and frames change that lie in it. -/
theorem Mem.wf_drop_updStack {r n x : Nat} {g : Stack → Stack} (h : m.wf = true)
    (hg : ∀ a, a < 2 ^ 40 → ¬ (r ≤ a ∧ a < r + n) → stackOf a = x →
      ((g (m.stack x)).frames.get {} (frameOf a)).lost = ((m.stack x).frames.get {} (frameOf a)).lost) :
    ((m.dropRange r n).updStack x g).wf = true := by
  have hd : (m.dropRange r n).wf = true := Mem.wf_dropRange h
  have hs : ∀ y, (m.dropRange r n).stack y = m.stack y := fun _ => rfl
  refine Mem.wf_of hd (by rw [Mem.cells_updStack]; exact (Mem.wf_iff.1 hd).1) (fun _ hc => by rwa [Mem.cells_updStack] at hc)
    (fun c hc => ?_)
  rw [Mem.cells_updStack] at hc
  have hc' := Mem.mem_dropRange.1 hc
  have hlt := ((Mem.wf_iff.1 h).2 c hc'.1).2
  apply Mem.dflt_of
  rw [Mem.stack_updStack, hs, hs]
  by_cases hx : stackOf c.1 = x
  · rw [if_pos hx, hg c.1 hlt hc'.2 hx, hx]
  · rw [if_neg hx]

theorem frameAddr_eq {a x f : Nat} (hx : stackOf a = x) (hf : frameOf a = f) (ha : a < 2 ^ 40) :
    frameAddr x f ≤ a ∧ a < frameAddr x f + 65536 := by
  subst hx hf; exact frameAddr_le ha

theorem Mem.wf_loseFrame {x f stamp : Nat} (h : m.wf = true) : (m.loseFrame x f stamp).wf = true := by
  unfold Mem.loseFrame; dsimp only; rw [Mem.wf_marks]
  refine Mem.wf_drop_updStack h fun a ha hr hx => ?_
  rw [SMap.get_upd, if_neg fun hf => hr (frameAddr_eq hx hf ha)]

theorem Mem.locate_frameAddr (m : Mem) (x f : Nat) : frameAddr (stackOf (m.locate (frameAddr x f)))
    (frameOf (m.locate (frameAddr x f))) = m.locate (frameAddr x f) := by
  have hlt := Mem.locate_lt m (frameAddr x f)
  have hm : m.locate (frameAddr x f) % 65536 = 0 := by
    unfold Mem.locate; dsimp only
    split <;> (unfold frameAddr; omega)
  unfold stackOf frameOf offsetOf
  unfold frameAddr at *
  omega

/-- The range that an access to a frame reaches goes, with the loss mark of that frame. -/
theorem Mem.wf_dropLocated {x f : Nat} (h : m.wf = true) :
    ((m.dropRange (m.locate (frameAddr x f)) 65536).updStack (stackOf (m.locate (frameAddr x f))) fun k =>
      { k with frames := SMap.upd {} k.frames (frameOf (m.locate (frameAddr x f))) fun e => { e with lost := 0 } }).wf = true := by
  have hb := Mem.locate_frameAddr m x f
  generalize m.locate (frameAddr x f) = b at *
  refine Mem.wf_drop_updStack (r := b) (n := 65536) (x := stackOf b)
    (g := fun k => { k with frames := SMap.upd {} k.frames (frameOf b) fun e => { e with lost := 0 } }) h fun a ha hr hx => ?_
  rw [SMap.get_upd, if_neg fun hf => hr (hb ▸ frameAddr_eq hx hf ha)]

/-- A change of ZERO_PENDING is no change of bytes. -/
theorem Mem.wf_updZero {x f : Nat} {z : Bool} (h : m.wf = true) :
    (m.updStack x fun k => { k with frames := SMap.upd {} k.frames f fun e => { e with zero := z } }).wf = true := by
  refine Mem.wf_same h (Mem.cells_updStack ..) fun a => Mem.dflt_of ?_
  rw [Mem.stack_updStack]
  by_cases hx : stackOf a = x
  · rw [if_pos hx, SMap.get_upd, hx]
    by_cases hf : frameOf a = f
    · rw [if_pos hf, hf]
    · rw [if_neg hf]
  · rw [if_neg hx]

theorem Mem.wf_fillFrame {x f : Nat} (h : m.wf = true) : (m.fillFrame x f).wf = true := by
  unfold Mem.fillFrame; dsimp only; rw [Mem.wf_marks]
  exact Mem.wf_updZero (Mem.wf_dropLocated h)

theorem Mem.wf_zeroFrame {x f : Nat} (h : m.wf = true) : (m.zeroFrame x f).wf = true := by
  unfold Mem.zeroFrame; dsimp only; rw [Mem.wf_marks]
  exact Mem.wf_updZero (Mem.wf_dropLocated h)

theorem Mem.wf_zeroFrames {x f n : Nat} (h : m.wf = true) : (m.zeroFrames x f n).wf = true :=
  foldl_keeps (P := fun m : Mem => m.wf = true) (fun _ _ hb => Mem.wf_zeroFrame hb) _ _ h

theorem Mem.wf_foldl_putRaw : ∀ (l : List (Byte × Nat)) {m : Mem} (dst : Nat), m.wf = true →
    (l.foldl (fun m p => m.putRaw ((dst + p.2) % 2 ^ 40) p.1) m).wf = true
  | [], _, _, h => h
  | _ :: l, _, dst, h => Mem.wf_foldl_putRaw l dst (Mem.wf_putRaw (Nat.mod_lt _ (by decide)) h)

/-! ## What leaves the bytes -/

theorem Mem.wf_setPoison {on : Bool} (h : m.wf = true) : (m.setPoison a on).wf = true := Mem.wf_same h rfl fun _ => rfl

theorem Mem.wf_clearUpset (h : m.wf = true) : (m.clearUpset a).wf = true := Mem.wf_same h rfl fun _ => rfl

theorem Mem.wf_upset {u : Upset} (h : m.wf = true) : (m.upset a u).wf = true := by
  unfold Mem.upset; split
  · exact h
  · exact Mem.wf_same h rfl fun _ => rfl

/-! ## Addresses within a frame -/

/-- Addresses of one frame go to one frame, at the same offset. -/
theorem Mem.locate_add {m : Mem} {a i : Nat} (h : a % 65536 + i < 65536) : m.locate (a + i) = m.locate a + i := by
  have h1 : stackOf (a + i) = stackOf a := by unfold stackOf; omega
  have h2 : frameOf (a + i) = frameOf a := by unfold frameOf offsetOf; omega
  unfold Mem.locate
  rw [h1, h2]
  dsimp only
  split
  · unfold frameAddr; omega
  · omega

theorem Mem.locate_of_remap {m m' : Mem} (h : m'.dies = m.dies) (a : Nat) : m'.locate a = m.locate a := by
  simp [Mem.locate, Mem.stack, Mem.spareBase, h]

/-- Bytes written within a frame read back. -/
theorem Mem.byte_putBytes : ∀ {bs : List Byte} {m : Mem} {a : Nat}, a % 65536 + bs.length ≤ 65536 →
    ∀ i (h : i < bs.length), (m.putBytes a bs).byte (a + i) = bs[i]
  | v :: bs, m, a, hl, 0, _ => by
    have hl : a % 65536 + (bs.length + 1) ≤ 65536 := hl
    rw [Mem.putBytes, List.getElem_cons_zero]
    show ((m.putByte a v).putBytes (a + 1) bs).byte a = v
    have other : ∀ (cs : List Byte) (m : Mem) (c : Nat), c > a → c % 65536 + cs.length ≤ 65536 ∨ cs = [] →
        c / 65536 = a / 65536 ∨ cs = [] → (m.putBytes c cs).byte a = m.byte a := by
      intro cs
      induction cs with
      | nil => intros; rfl
      | cons w cs ih =>
        intro m c hc hm hf
        simp only [reduceCtorEq, or_false, List.length_cons] at hm hf
        rw [Mem.putBytes, ih _ _ (by omega) (by by_cases hn : cs = []; exact .inr hn; left; have := List.length_pos_iff.2 hn; omega)
          (by by_cases hn : cs = []; exact .inr hn; left; have := List.length_pos_iff.2 hn; omega)]
        refine Mem.byte_putByte_other ?_
        have hx : c = a + (c - a) := by omega
        have := Mem.locate_add (m := m) (a := a) (i := c - a) (by omega)
        rw [← hx] at this
        omega
    rw [other _ _ _ (by omega) (by by_cases hn : bs = []; exact .inr hn; left; have := List.length_pos_iff.2 hn; omega)
      (by by_cases hn : bs = []; exact .inr hn; left; have := List.length_pos_iff.2 hn; omega)]
    simp
  | v :: bs, m, a, hl, i + 1, h => by
    have hl : a % 65536 + (bs.length + 1) ≤ 65536 := hl
    have h : i + 1 < bs.length + 1 := h
    rw [Mem.putBytes, List.getElem_cons_succ]
    have := Mem.byte_putBytes (bs := bs) (m := m.putByte a v) (a := a + 1) (by omega) i (by omega)
    rwa [show a + (i + 1) = a + 1 + i by omega]

/-- A write of bytes leaves every address that goes elsewhere. -/
theorem Mem.byte_putBytes_other {b : Nat} : ∀ {bs : List Byte} {m : Mem} {a : Nat},
    (∀ i, i < bs.length → m.locate b ≠ m.locate (a + i)) → (m.putBytes a bs).byte b = m.byte b
  | [], _, _, _ => rfl
  | v :: bs, m, a, h => by
    rw [Mem.putBytes, Mem.byte_putBytes_other (bs := bs) (m := m.putByte a v)]
    · exact Mem.byte_putByte_other (by simpa using h 0 (by simp))
    · intro i hi
      have := h (i + 1) (by simpa using hi)
      change m.locate b ≠ m.locate (a + 1 + i)
      rwa [show a + 1 + i = a + (i + 1) by omega]

/-! ## What the operations at a die leave -/

/-- Memories that answer the same bytes at every address, with the same frames and retirements. -/
structure Mem.Same (m m' : Mem) : Prop where
  cells : m'.cells = m.cells
  frames : ∀ x, (m'.stack x).frames = (m.stack x).frames
  remap : ∀ x, (m'.stack x).remap = (m.stack x).remap
  spare : ∀ x, (m'.stack x).spareBase = (m.stack x).spareBase
  covers : ∀ x, (m'.stack x).covers = (m.stack x).covers

theorem Mem.Same.refl (m : Mem) : Mem.Same m m := ⟨rfl, fun _ => rfl, fun _ => rfl, fun _ => rfl, fun _ => rfl⟩

theorem Mem.Same.trans {m m' m'' : Mem} (h : Mem.Same m m') (g : Mem.Same m' m'') : Mem.Same m m'' :=
  ⟨g.cells.trans h.cells, fun x => (g.frames x).trans (h.frames x), fun x => (g.remap x).trans (h.remap x),
    fun x => (g.spare x).trans (h.spare x), fun x => (g.covers x).trans (h.covers x)⟩

theorem Mem.Same.locate {m m' : Mem} (h : Mem.Same m m') (a : Nat) : m'.locate a = m.locate a := by
  simp [Mem.locate, Mem.spareBase, h.remap, h.spare]

theorem Mem.Same.dflt {m m' : Mem} (h : Mem.Same m m') (a : Nat) : m'.dflt a = m.dflt a := by
  simp [Mem.dflt, h.frames]

theorem Mem.Same.byte {m m' : Mem} (h : Mem.Same m m') (a : Nat) : m'.byte a = m.byte a := by
  simp [Mem.byte, Mem.rawByte_eq, h.locate, h.dflt, h.cells]

theorem Mem.Same.wf {m m' : Mem} (h : Mem.Same m m') (hw : m.wf = true) : m'.wf = true :=
  Mem.wf_same hw h.cells h.dflt

theorem Mem.Same.updStack {m : Mem} {d : Dev} (h : Mem.Same m d.mem) {x : Nat} {f : Stack → Stack}
    (hf : ∀ k, (f k).frames = k.frames ∧ (f k).remap = k.remap ∧ (f k).spareBase = k.spareBase ∧ (f k).covers = k.covers) :
    Mem.Same m (d.updStack x f).mem := by
  refine h.trans ⟨rfl, fun y => ?_, fun y => ?_, fun y => ?_, fun y => ?_⟩ <;> rw [Dev.stack_updStack] <;> split <;> simp [*]

/-- Marks of atoms are not bytes. -/
theorem Mem.Same.marks {m m' : Mem} (h : Mem.Same m m') (p : List Nat) (u : SMap (List (Nat × Byte))) :
    Mem.Same m { m' with poison := p, upsets := u } := ⟨h.cells, h.frames, h.remap, h.spare, h.covers⟩

theorem Mem.Same.recordAt {m : Mem} {d : Dev} (h : Mem.Same m d.mem) (a b kind : Nat) (w : Who) :
    Mem.Same m (d.recordAt a b kind w).mem :=
  h.updStack (by intro k; exact ⟨rfl, rfl, rfl, rfl⟩)

theorem Mem.Same.recordFault {m : Mem} {d : Dev} (h : Mem.Same m d.mem) (a kind : Nat) (w : Who) :
    Mem.Same m (d.recordFault a kind w).mem := h.recordAt a _ kind w

theorem Mem.Same.repairRow {m : Mem} {d : Dev} (h : Mem.Same m d.mem) (a : Nat) (w : Who) : Mem.Same m (d.repairRow a w).mem := by
  unfold Dev.repairRow; dsimp only
  split
  · exact h
  · split
    · exact h.updStack (by intro k; exact ⟨rfl, rfl, rfl, rfl⟩)
    · refine Mem.Same.recordFault (d := d.updStack _ _) ?_ _ _ _
      exact h.updStack (by intro k; exact ⟨rfl, rfl, rfl, rfl⟩)

theorem Mem.Same.countCorrected {m : Mem} {d : Dev} (h : Mem.Same m d.mem) (a : Nat) (w : Who) :
    Mem.Same m (d.countCorrected a w).mem := by
  unfold Dev.countCorrected; dsimp only
  split
  · exact h
  · split
    · refine Mem.Same.repairRow (d := d.updStack _ _) ?_ _ _
      exact h.updStack (by intro k; exact ⟨rfl, rfl, rfl, rfl⟩)
    · exact h.updStack (by intro k; exact ⟨rfl, rfl, rfl, rfl⟩)

theorem Mem.Same.clearUpset {m m' : Mem} (h : Mem.Same m m') (a : Nat) : Mem.Same m (m'.clearUpset a) :=
  ⟨h.cells, h.frames, h.remap, h.spare, h.covers⟩

theorem Mem.Same.setPoison {m m' : Mem} (h : Mem.Same m m') (a : Nat) (b : Bool) : Mem.Same m (m'.setPoison a b) :=
  ⟨h.cells, h.frames, h.remap, h.spare, h.covers⟩

theorem Mem.Same.upset {m m' : Mem} (h : Mem.Same m m') (a : Nat) (u : Upset) : Mem.Same m (m'.upset a u) := by
  unfold Mem.upset; split
  · exact h
  · exact ⟨h.cells, h.frames, h.remap, h.spare, h.covers⟩

theorem Mem.Same.bump {m : Mem} {d : Dev} (h : Mem.Same m d.mem) (x : Nat) {f : Stack → Stack}
    (hf : ∀ k, (f k).frames = k.frames ∧ (f k).remap = k.remap ∧ (f k).spareBase = k.spareBase ∧ (f k).covers = k.covers) :
    Mem.Same m (d.bump x f).mem := h.updStack hf

theorem Mem.Same.setUpset {m m' : Mem} (h : Mem.Same m m') (a : Nat) (es : List (Nat × Byte)) : Mem.Same m (m'.setUpset a es) :=
  ⟨h.cells, h.frames, h.remap, h.spare, h.covers⟩

theorem Mem.Same.readPoison {m : Mem} {d : Dev} (h : Mem.Same m d.mem) (a : Nat) (w : Who) : Mem.Same m (d.readPoison a w).mem :=
  (h.bump _ (by intro k; exact ⟨rfl, rfl, rfl, rfl⟩)).recordFault _ _ _

/-- The action of a check of an atom changes no byte. -/
theorem Mem.Same.settleAtom {m : Mem} {d : Dev} (h : Mem.Same m d.mem) (a : Nat) (c : AtomCheck) (w : Who) :
    Mem.Same m (d.settleAtom a c w).1.mem := by
  have worse : ∀ k b, Mem.Same m (((d.bump (stackOf a) fun k => { k with ue := satInc32 k.ue 1 }).recordFault a k w).setLeaf (.mem (stackOf a)) b).mem :=
    fun k b => (h.bump _ (by intro k; exact ⟨rfl, rfl, rfl, rfl⟩)).recordFault _ _ _
  have dead : ∀ e : Dev, Mem.Same m e.mem →
      Mem.Same m (({ e with mem := (e.mem.clearUpset a).setPoison a true } : Dev).repairRow a w).mem :=
    fun e he => Mem.Same.repairRow (d := { e with mem := _ }) ((he.clearUpset a).setPoison a true) _ _
  unfold Dev.settleAtom
  cases c
  · exact h
  · exact h.readPoison a w
  · exact (((h.bump _ (by intro k; exact ⟨rfl, rfl, rfl, rfl⟩)).recordFault _ _ _).clearUpset a).countCorrected
      (d := { (Dev.recordFault _ a 1 w) with mem := _ }) _ _
  · exact worse 3 1
  · exact dead _ (worse 2 0)
  · exact dead _ (worse 2 0)

/-- A check of an atom changes no byte. -/
theorem Mem.Same.checkAtom {m : Mem} {d : Dev} (h : Mem.Same m d.mem) (a : Nat) (es : List (Nat × Byte)) (t : Option (List (Nat × Byte)))
    (w : Who) : Mem.Same m (d.checkAtom a es t w).1.mem := by
  unfold Dev.checkAtom; dsimp only
  split
  · refine Mem.Same.settleAtom ?_ _ _ _
    have h1 : Mem.Same m (if t.isSome = true then { d with mem := d.mem.setUpset a (t.getD es) } else d).mem := by
      split
      · exact h.setUpset a _
      · exact h
    generalize (if t.isSome = true then { d with mem := d.mem.setUpset a (t.getD es) } else d) = e at *
    split
    · exact (h1.bump _ (by intro k; exact ⟨rfl, rfl, rfl, rfl⟩)).recordFault _ _ _
    · exact h1
  · exact h.settleAtom _ _ _

/-- A read of an atom changes no byte. -/
theorem Mem.Same.readAtom {m : Mem} {d : Dev} (h : Mem.Same m d.mem) (a : Nat) (t : Option (List (Nat × Byte))) (w : Who) :
    Mem.Same m (d.readAtom a t w).1.mem := by
  unfold Dev.readAtom; dsimp only
  split
  · exact h
  · split
    · exact h.readPoison _ _
    · split
      · exact h
      · exact h.checkAtom _ _ _ _

/-- A read of a range changes no byte. -/
theorem Mem.Same.readRange {m : Mem} {d : Dev} (h : Mem.Same m d.mem) (w : Who) (a n : Nat) : Mem.Same m (d.readRange w a n).1.mem := by
  unfold Dev.readRange
  exact foldl_keeps (P := fun q : Dev × List Byte × List Bool => Mem.Same m q.1.mem) (fun q _ hq => hq.readAtom _ _ _) _ _ h

/-! ## The canonical form at the dies -/

theorem Dev.wf_updStack {d : Dev} (h : d.mem.wf = true) (x : Nat) {f : Stack → Stack}
    (hf : ∀ k, (f k).frames = k.frames) : (d.updStack x f).mem.wf = true := Mem.wf_updStack (hf _) h

theorem Dev.wf_setLeaf {d : Dev} (h : d.mem.wf = true) (r : LeafReg) (b : Nat) : (d.setLeaf r b).mem.wf = true := h

theorem Dev.wf_recordAt {d : Dev} (h : d.mem.wf = true) (a b k : Nat) (w : Who) : (d.recordAt a b k w).mem.wf = true :=
  ((Mem.Same.refl d.mem).recordAt a b k w).wf h

theorem Dev.wf_recordFault {d : Dev} (h : d.mem.wf = true) (a k : Nat) (w : Who) : (d.recordFault a k w).mem.wf = true :=
  Dev.wf_recordAt h a _ k w

theorem Dev.wf_readAtom {d : Dev} (h : d.mem.wf = true) (a : Nat) (t : Option (List (Nat × Byte))) (w : Who) :
    (d.readAtom a t w).1.mem.wf = true := ((Mem.Same.refl d.mem).readAtom a t w).wf h

theorem Dev.wf_writeAtom {d : Dev} (h : d.mem.wf = true) (a : Nat) (bs : List Byte) (w : Who) : (d.writeAtom a bs w).mem.wf = true := by
  unfold Dev.writeAtom
  have h1 : (if (d.mem.frame (stackOf a) (frameOf a)).zero then
      { d with mem := d.mem.fillFrame (stackOf a) (frameOf a) } else d : Dev).mem.wf = true := by
    split
    · exact Mem.wf_fillFrame h
    · exact h
  dsimp only
  generalize (if (d.mem.frame (stackOf a) (frameOf a)).zero = true then
      { d with mem := d.mem.fillFrame (stackOf a) (frameOf a) } else d : Dev) = e at *
  split
  · exact Mem.wf_putBytes (Mem.wf_setPoison (Mem.wf_clearUpset h1))
  · have h2 := Dev.wf_readAtom h1 a none w
    refine Mem.wf_putBytes ?_
    split
    · exact h2
    · exact Mem.wf_putBytes (Mem.wf_clearUpset h2)

theorem Dev.wf_writeRange {w : Who} : ∀ {n a : Nat} {bs : List Byte} {d : Dev}, d.mem.wf = true →
    (d.writeRange w n a bs).mem.wf = true
  | 0, _, _, _, h => h
  | n + 1, a, bs, d, h => by
    unfold Dev.writeRange
    split
    · exact h
    · exact Dev.wf_writeRange (Dev.wf_writeAtom h a _ w)

theorem Dev.wf_poisoned {d : Dev} {a : Nat} (h : d.mem.wf = true) (p : Bool) :
    (if p then { d with mem := d.mem.setPoison a true } else d).mem.wf = true := by
  split
  · exact Mem.wf_setPoison h
  · exact h

theorem Dev.wf_serve {d : Dev} (h : d.mem.wf = true) (r : MemReq) (t : Option (List (Nat × Byte))) (p : Bool) : (d.serve r t p).mem.wf = true := by
  unfold Dev.serve
  split
  · have h1 : ∀ t, (d.rejectTag t r.addr).mem = d.mem := fun _ => rfl
    dsimp only
    cases r.source <;> cases r.write <;> simp [h, h1]
  · cases r.write with
    | none => exact Dev.wf_readAtom h r.addr t r.source.who
    | some bs => exact Dev.wf_poisoned (Dev.wf_writeAtom h _ _ _) p

theorem Dev.wf_hold {d : Dev} (h : d.mem.wf = true) (q : HeldReq) : (d.hold q).mem.wf = true := Mem.wf_updStack (by rfl) h

theorem Dev.wf_take {d : Dev} (h : d.mem.wf = true) (q : HeldReq) : (d.take q).mem.wf = true := by
  unfold Dev.take
  split
  · exact Dev.wf_hold h _
  · split
    · refine Dev.wf_hold ?_ _
      refine Dev.wf_updStack h _ ?_
      intro k; rfl
    · simp only
      split <;> exact Dev.wf_serve h _ _ _

theorem Dev.wf_request {d : Dev} (h : d.mem.wf = true) (r : MemReq) (t : Option (List (Nat × Byte))) (p : Bool) :
    (d.request r t p).mem.wf = true := Dev.wf_take h _

theorem Dev.wf_release {d : Dev} (h : d.mem.wf = true) (x : Nat) : (d.release x).mem.wf = true := by
  unfold Dev.release
  exact foldl_keeps (P := fun d : Dev => d.mem.wf = true) (fun _ q hb => Dev.wf_take hb q) _ _
    (Mem.wf_updStack (by rfl) h)

/-! ## Repairs and retirements -/

/-- A located address of 40 bits is written. -/
theorem Mem.wf_foldl_cells {f : Nat → Nat × Byte} : ∀ (l : List Nat) {m : Mem}, m.wf = true → (∀ i ∈ l, (f i).1 < 2 ^ 40) →
    ∀ g : Mem → Nat → Byte, (l.foldl (fun m i => m.putRaw (f i).1 (g m i)) m).wf = true
  | [], _, h, _, _ => h
  | i :: l, _, h, hl, g => Mem.wf_foldl_cells l (Mem.wf_putRaw (hl i (by simp)) h) (fun j hj => hl j (by simp [hj])) g

@[simp] theorem Mem.dies_putRaw : (m.putRaw a v).dies = m.dies := rfl

/-- Only cells change. -/
theorem Mem.dies_foldl {α : Type} {f : Mem → α → Mem} (hf : ∀ m i, (f m i).dies = m.dies) (l : List α) (m : Mem) :
    (l.foldl f m).dies = m.dies := foldl_leaves Mem.dies hf l m

/-- Memory with the cells of a canonical one over the same dies is canonical. -/
theorem Mem.wf_cells {m m' m'' : Mem} (h : m'.wf = true) (hd : m'.dies = m.dies) (hc : m''.cells = m'.cells) (hs : m''.dies = m.dies) :
    m''.wf = true :=
  Mem.wf_same h hc fun a => by simp [Mem.dflt, Mem.stack, hd, hs]

theorem Dev.wf_scrubAtom {d : Dev} (h : d.mem.wf = true) {b : Nat} (hb : b + 64 ≤ 2 ^ 40) : (d.scrubAtom b).mem.wf = true := by
  unfold Dev.scrubAtom; dsimp only
  split
  · exact h
  · split
    · refine Mem.wf_cells (m := d.mem) (Mem.wf_foldl_cells (f := fun i => (b + i, 0)) _ h (fun i hi => ?_)
        fun m i => m.rawByte (b + i) ^^^ errorAt (d.mem.upsets.get [] (b / 64)) (i + 4)) (by apply Mem.dies_foldl; intros; rfl) rfl rfl
      have := List.mem_range.1 (List.mem_filter.1 hi).1
      show b + i < 2 ^ 40
      omega
    · exact Mem.wf_cells (m := d.mem) h rfl rfl rfl

/-- The atoms of a DRAM row of the sixteen stacks. -/
theorem Dev.wf_scrubRow {d : Dev} (h : d.mem.wf = true) {a : Nat} (ha : a + 1024 ≤ 2 ^ 40) :
    ((List.range 16).foldl (fun d i => d.scrubAtom (a + 64 * i)) d).mem.wf = true := by
  suffices ∀ (l : List Nat) (d : Dev), d.mem.wf = true → (∀ i ∈ l, i < 16) → (l.foldl (fun d i => d.scrubAtom (a + 64 * i)) d).mem.wf = true
    from this _ _ h fun i hi => List.mem_range.1 hi
  intro l
  induction l with
  | nil => exact fun _ h _ => h
  | cons i l ih =>
    intro d h hl
    have := hl i (by simp)
    exact ih _ (Dev.wf_scrubAtom h (by omega)) fun j hj => hl j (by simp [hj])

theorem Dev.wf_endRepair {d : Dev} (h : d.mem.wf = true) (x c spare : Nat) (rest : List (Nat × Nat)) :
    (d.endRepair x c spare rest).mem.wf = true := by
  unfold Dev.endRepair
  have h0 := Dev.wf_scrubRow h (a := (x * 2 ^ 36 + c * 1024) % 2 ^ 40) (by omega)
  generalize (x * 2 ^ 36 + c * 1024) % 2 ^ 40 = a at *
  dsimp only
  generalize ((List.range 16).foldl (fun d i => d.scrubAtom (a + 64 * i)) d) = e at *
  refine Dev.wf_setLeaf ?_ _ _
  refine Dev.wf_updStack ?_ _ ?_
  · exact Dev.wf_recordAt h0 _ _ _ _
  · intro k; rfl

theorem Dev.wf_copyAtom {q : Dev × Bool} (h : q.1.mem.wf = true) (src dst i : Nat) : (Dev.copyAtom src dst q i).1.mem.wf = true := by
  unfold Dev.copyAtom; dsimp only
  have h0 := Dev.wf_readAtom h (src + 64 * i) none { host := true }
  generalize q.1.readAtom (src + 64 * i) none { host := true } = r at *
  exact Mem.wf_cells (m := r.1.mem) (Mem.wf_foldl_putRaw r.2.1.zipIdx (dst + 64 * i) h0) (by apply Mem.dies_foldl; intros; rfl) rfl
    (by apply Mem.dies_foldl; intros; rfl)

theorem Dev.wf_copyFrame {d : Dev} (h : d.mem.wf = true) (src dst : Nat) : (d.copyFrame src dst).1.mem.wf = true := by
  unfold Dev.copyFrame
  exact foldl_keeps (P := fun q : Dev × Bool => q.1.mem.wf = true) (fun _ i hq => Dev.wf_copyAtom hq src dst i) _ _ h

theorem Dev.wf_endCopy {d : Dev} (h : d.mem.wf = true) (x entry frame : Nat) : (d.endCopy x entry frame).mem.wf = true := by
  unfold Dev.endCopy; dsimp only
  have h0 := Dev.wf_copyFrame h (frameAddr x frame) (frameAddr x (d.mem.spareBase x + entry))
  generalize d.copyFrame _ _ = q at *
  have h1 := Dev.wf_setLeaf (Dev.wf_updStack (d := q.1) h0 x (f := fun k => k.activate entry frame) fun _ => rfl) (.mem x) 6
  generalize (Dev.setLeaf _ _ _) = e at *
  split
  · exact Dev.wf_setLeaf (Dev.wf_recordFault h1 _ _ _) _ _
  · exact h1

theorem Dev.wf_sampleStack {d : Dev} (h : d.mem.wf = true) (x t : Nat) : (d.sampleStack x t).mem.wf = true := by
  unfold Dev.sampleStack; dsimp only
  have h0 : ∀ f : Stack → Stack, (∀ k, (f k).frames = k.frames) → (d.updStack x f).mem.wf = true := fun f hf => Dev.wf_updStack h x hf
  replace h0 := h0 (fun k => { k with
    thermal := (d.mem.stack x).thermal.next t, temp := t, tempMax := max k.tempMax t,
    cooled := if (d.mem.stack x).thermal ≠ .normal ∧ (d.mem.stack x).thermal.next t = .normal then some d.slow else k.cooled }) fun _ => rfl
  generalize (d.updStack x _) = d0 at *
  have h1 : (if (d.mem.stack x).thermal.next t = .capped ∧ (d.mem.stack x).thermal ≠ .capped then d0.setLeaf (.mem x) 4 else d0).mem.wf
      = true := by split <;> exact h0
  generalize (if (d.mem.stack x).thermal.next t = .capped ∧ (d.mem.stack x).thermal ≠ .capped then d0.setLeaf (.mem x) 4 else d0) = d1 at *
  have h2 : (if (d.mem.stack x).thermal.next t = .protect ∧ (d.mem.stack x).thermal ≠ .protect then d1.setLeaf (.mem x) 5 else d1).mem.wf
      = true := by split <;> exact h1
  generalize (if (d.mem.stack x).thermal.next t = .protect ∧ (d.mem.stack x).thermal ≠ .protect then d1.setLeaf (.mem x) 5 else d1) = d2 at *
  have h3 : (if (d.mem.stack x).thermal.next t ≠ .normal then { d2 with qlk := { d2.qlk with stepThermal := true } } else d2).mem.wf
      = true := by split <;> exact h2
  generalize (if (d.mem.stack x).thermal.next t ≠ .normal then { d2 with qlk := { d2.qlk with stepThermal := true } } else d2) = d3 at *
  split
  · exact Dev.wf_release h3 x
  · exact h3

end Sys2Proof.Machine
end

