-- ==== Sys2Proof/Laws/Work.lean ====
section
/-! SUPPORT. What the memory work of an operation can change, and what it leaves (log 3): one lemma for each shared operation. -/

namespace Sys2Proof.Machine

/-! ## Atom accesses -/

/-- An atom access changes memory, leaves and the record of recent leaves only. -/
def Dev.MemOnly (d e : Dev) : Prop := ∃ m l r, e = { d with mem := m, leaves := l, recent := r }

theorem Dev.MemOnly.refl (d : Dev) : d.MemOnly d := ⟨_, _, _, rfl⟩

theorem Dev.MemOnly.trans {a b c : Dev} (h : a.MemOnly b) (g : b.MemOnly c) : a.MemOnly c := by
  obtain ⟨m, l, r, rfl⟩ := h; obtain ⟨m', l', r', rfl⟩ := g; exact ⟨m', l', r', rfl⟩

theorem Dev.MemOnly.setMem {a b : Dev} (h : a.MemOnly b) (m : Mem) : a.MemOnly { b with mem := m } := by
  obtain ⟨m', l, r, rfl⟩ := h; exact ⟨m, l, r, rfl⟩

theorem Dev.MemOnly.updStack {a b : Dev} (h : a.MemOnly b) (x : Nat) (f : Stack → Stack) : a.MemOnly (b.updStack x f) := h.setMem _

theorem Dev.MemOnly.recordFault {a b : Dev} (h : a.MemOnly b) (x k : Nat) (w : Who) : a.MemOnly (b.recordFault x k w) := h.setMem _

theorem Dev.MemOnly.setLeaf {a b : Dev} (h : a.MemOnly b) (r : LeafReg) (k : Nat) : a.MemOnly (b.setLeaf r k) := by
  obtain ⟨m', l, r, rfl⟩ := h; exact ⟨_, _, _, rfl⟩

theorem Dev.MemOnly.repairRow {a b : Dev} (h : a.MemOnly b) (x : Nat) (w : Who) : a.MemOnly (b.repairRow x w) := by
  unfold Dev.repairRow; dsimp only
  split
  · exact h
  · split
    · exact h.updStack _ _
    · exact ((h.updStack _ _).recordFault _ _ _).setLeaf _ _

theorem Dev.MemOnly.countCorrected {a b : Dev} (h : a.MemOnly b) (x : Nat) (w : Who) : a.MemOnly (b.countCorrected x w) := by
  unfold Dev.countCorrected; dsimp only
  split
  · exact h
  · split
    · exact (h.updStack _ _).repairRow _ _
    · exact h.updStack _ _

theorem Dev.MemOnly.bump {a b : Dev} (h : a.MemOnly b) (x : Nat) (f : Stack → Stack) : a.MemOnly (b.bump x f) := h.setMem _

theorem Dev.MemOnly.readPoison {a b : Dev} (h : a.MemOnly b) (x : Nat) (w : Who) : a.MemOnly (b.readPoison x w) :=
  (h.bump _ _).recordFault _ _ _

theorem Dev.MemOnly.settleAtom {a b : Dev} (h : a.MemOnly b) (x : Nat) (c : AtomCheck) (w : Who) :
    a.MemOnly (b.settleAtom x c w).1 := by
  unfold Dev.settleAtom; dsimp only
  cases c
  · exact h
  · exact h.readPoison _ _
  · exact (((h.bump _ _).recordFault _ _ _).setMem _).countCorrected _ _
  · exact ((h.bump _ _).recordFault _ _ _).setLeaf _ _
  · exact ((((h.bump _ _).recordFault _ _ _).setLeaf _ _).setMem _).repairRow _ _
  · exact ((((h.bump _ _).recordFault _ _ _).setLeaf _ _).setMem _).repairRow _ _

theorem Dev.MemOnly.checkAtom {a b : Dev} (h : a.MemOnly b) (x : Nat) (es : List (Nat × Byte)) (t : Option (List (Nat × Byte))) (w : Who) :
    a.MemOnly (b.checkAtom x es t w).1 := by
  unfold Dev.checkAtom; dsimp only
  split
  · refine Dev.MemOnly.settleAtom ?_ _ _ _
    have h1 : a.MemOnly (if t.isSome = true then { b with mem := b.mem.setUpset x (t.getD es) } else b) := by
      split
      · exact h.setMem _
      · exact h
    generalize (if t.isSome = true then { b with mem := b.mem.setUpset x (t.getD es) } else b) = e at *
    split
    · exact (h1.bump _ _).recordFault _ _ _
    · exact h1
  · exact h.settleAtom _ _ _

theorem Dev.MemOnly.readAtom {a b : Dev} (h : a.MemOnly b) (x : Nat) (t : Option (List (Nat × Byte))) (w : Who) : a.MemOnly (b.readAtom x t w).1 := by
  unfold Dev.readAtom; dsimp only
  split
  · exact h
  · split
    · exact h.readPoison _ _
    · split
      · exact h
      · exact h.checkAtom _ _ _ _

theorem Dev.MemOnly.writeAtom {a b : Dev} (h : a.MemOnly b) (x : Nat) (bs : List Byte) (w : Who) : a.MemOnly (b.writeAtom x bs w) := by
  have h1 : a.MemOnly (if (b.mem.frame (stackOf x) (frameOf x)).zero then { b with mem := b.mem.fillFrame (stackOf x) (frameOf x) } else b) := by
    split
    · exact h.setMem _
    · exact h
  unfold Dev.writeAtom; dsimp only
  split
  · exact h1.setMem _
  · exact (h1.readAtom _ _ _).setMem _

/-! ## The work of an operation -/

theorem Dev.WorkOnly.refl (d : Dev) : d.WorkOnly d :=
  ⟨⟨_, _, _, _, _, _, _, _, _, rfl⟩, ⟨_, _, _, rfl⟩, fun _ => ⟨_, rfl⟩, fun _ => ⟨_, _, _, _, rfl⟩, fun _ => ⟨_, _, _, _, _, rfl⟩⟩

theorem Dev.WorkOnly.trans {a b c : Dev} (h : a.WorkOnly b) (g : b.WorkOnly c) : a.WorkOnly c := by
  obtain ⟨⟨m, l, r, x, s, k, v, w, z, hb⟩, ⟨_, _, _, h0⟩, h1, h2, h3⟩ := h
  obtain ⟨⟨m', l', r', x', s', k', v', w', z', hc⟩, ⟨_, _, _, g0⟩, g1, g2, g3⟩ := g
  refine ⟨⟨m', l', r', x', s', k', v', w', z', ?_⟩, ⟨_, _, _, by rw [g0, h0]⟩, fun n => ?_, fun y => ?_, fun n => ?_⟩
  · rw [hc, hb]
  · obtain ⟨_, e⟩ := h1 n
    obtain ⟨_, e'⟩ := g1 n
    rw [e', e]; exact ⟨_, rfl⟩
  · obtain ⟨_, _, _, _, e⟩ := h2 y
    obtain ⟨_, _, _, _, e'⟩ := g2 y
    rw [e', e]; exact ⟨_, _, _, _, rfl⟩
  · obtain ⟨_, _, _, _, _, e⟩ := h3 n
    obtain ⟨_, _, _, _, _, e'⟩ := g3 n
    rw [e', e]; exact ⟨_, _, _, _, _, rfl⟩

theorem Dev.WorkOnly.board {d e : Dev} (h : d.WorkOnly e) : e.board = d.board := by
  obtain ⟨_, _, _, _, _, _, _, _, _, rfl⟩ := h.rest; rfl

theorem Dev.WorkOnly.place {d e : Dev} (h : d.WorkOnly e) (i : Nat) : e.place i = d.place i := by
  unfold Dev.place; rw [h.board]

theorem Dev.WorkOnly.rings {d e : Dev} (h : d.WorkOnly e) : e.rings = d.rings := by
  obtain ⟨_, _, _, _, _, _, _, _, _, rfl⟩ := h.rest; rfl

theorem Dev.WorkOnly.layout {d e : Dev} (h : d.WorkOnly e) : e.layout = d.layout := by
  obtain ⟨_, _, _, _, _, _, _, _, _, rfl⟩ := h.rest; rfl

theorem Dev.WorkOnly.trk {d e : Dev} (h : d.WorkOnly e) : e.trk = d.trk := by
  obtain ⟨_, _, _, _, _, _, _, _, _, rfl⟩ := h.rest; rfl

theorem Dev.WorkOnly.free {d e : Dev} (h : d.WorkOnly e) : e.free = d.free := by
  obtain ⟨_, _, _, _, _, _, _, _, _, rfl⟩ := h.rest; rfl

theorem Dev.WorkOnly.cores {d e : Dev} (h : d.WorkOnly e) : e.cores = d.cores := by
  obtain ⟨_, _, _, _, _, _, _, _, _, rfl⟩ := h.rest; rfl

theorem Dev.WorkOnly.routes {d e : Dev} (h : d.WorkOnly e) : e.routes = d.routes := by
  obtain ⟨_, _, _, _, _, _, _, _, _, rfl⟩ := h.rest; rfl

theorem Dev.MemOnly.work {a b : Dev} (h : a.MemOnly b) : a.WorkOnly b := by
  obtain ⟨m, l, r, rfl⟩ := h; exact ⟨⟨_, _, _, _, _, _, _, _, _, rfl⟩, ⟨_, _, _, rfl⟩, fun _ => ⟨_, rfl⟩, fun _ => ⟨_, _, _, _, rfl⟩, fun _ => ⟨_, _, _, _, _, rfl⟩⟩

theorem Dev.WorkOnly.setCache (d : Dev) (c : Cache) : d.WorkOnly { d with cache := c } :=
  ⟨⟨_, _, _, _, _, _, _, _, _, rfl⟩, ⟨_, _, _, rfl⟩, fun _ => ⟨_, rfl⟩, fun _ => ⟨_, _, _, _, rfl⟩, fun _ => ⟨_, _, _, _, _, rfl⟩⟩

theorem Dev.WorkOnly.meter (d : Dev) (x : Nat) (f : Meter → Meter)
    (hf : ∀ t, ∃ r w m n, f t = { t with read := r, write := w, remote := m, rows := n }) : d.WorkOnly (d.meter x f) := by
  refine ⟨⟨_, _, _, _, _, _, _, _, _, rfl⟩, ⟨_, _, _, rfl⟩, fun _ => ⟨_, rfl⟩, fun y => ?_, fun _ => ⟨_, _, _, _, _, rfl⟩⟩
  unfold Dev.meter; rw [Dev.ctx_updCtx]; split
  · rename_i h; subst h
    obtain ⟨r, w, m, n, h⟩ := hf (d.ctx y).meter
    exact ⟨r, w, m, n, by rw [h]⟩
  · exact ⟨_, _, _, _, rfl⟩

/-- The memory work of an operation leaves EGRESS_BYTES as it was. -/
theorem Dev.WorkOnly.egress {d e : Dev} (h : d.WorkOnly e) (y : Nat) : (e.ctx y).meter.egress = (d.ctx y).meter.egress := by
  obtain ⟨_, _, _, _, h⟩ := h.ctx y; rw [h]

theorem Dev.WorkOnly.foldl {α : Type} {f : Dev → α → Dev} (hf : ∀ (d : Dev) (a : α), d.WorkOnly (f d a)) :
    ∀ (l : List α) (d : Dev), d.WorkOnly (l.foldl f d)
  | [], d => .refl d
  | a :: l, d => (hf d a).trans (Dev.WorkOnly.foldl hf l (f d a))

theorem Dev.WorkOnly.post (d : Dev) (c : Charge) : d.WorkOnly (d.post c) :=
  ⟨⟨_, _, _, _, _, _, _, _, _, rfl⟩, ⟨_, _, _, rfl⟩, fun _ => ⟨_, rfl⟩, fun _ => ⟨_, _, _, _, rfl⟩, fun _ => ⟨_, _, _, _, _, rfl⟩⟩

theorem Dev.WorkOnly.chargeRemote (d : Dev) (g : Agent) (x n : Nat) : d.WorkOnly (d.chargeRemote g x n) :=
  (Dev.WorkOnly.meter _ _ _ fun _ => ⟨_, _, _, _, rfl⟩).trans (.post _ _)

theorem Dev.WorkOnly.transfer (d : Dev) (g : Agent) (w : Bool) (ps : List (Nat × Nat)) : d.WorkOnly (d.transfer g w ps) :=
  (Dev.WorkOnly.meter _ _ _ fun _ => ⟨_, _, _, _, rfl⟩).trans (.post _ _)

theorem Dev.WorkOnly.transferAtoms (d : Dev) (g : Agent) (w : Bool) (l : List Nat) : d.WorkOnly (d.transferAtoms g w l) :=
  Dev.WorkOnly.foldl (fun d _ => .transfer d _ _ _) _ _

theorem Dev.WorkOnly.transferRange (d : Dev) (g : Agent) (w : Bool) (a n : Nat) : d.WorkOnly (d.transferRange g w a n) :=
  Dev.WorkOnly.foldl (fun d _ => .transfer d _ _ _) _ _

theorem Dev.WorkOnly.chargeAtoms (d : Dev) (g : Agent) (l : List Nat) : d.WorkOnly (d.chargeAtoms g l) :=
  (Dev.WorkOnly.meter _ _ _ fun _ => ⟨_, _, _, _, rfl⟩).trans (.post _ _)

theorem Dev.WorkOnly.setLeaf (d : Dev) (r : LeafReg) (k : Nat) : d.WorkOnly (d.setLeaf r k) :=
  ((Dev.MemOnly.refl d).setLeaf r k).work

theorem Dev.WorkOnly.updSeat (d : Dev) (n : Nat) (f : Seat → Seat)
    (hf : ∀ k, ∃ r c k' s a, f k = { k with tagRejects := r, faultCtx := c, faultKind := k', faultSeg := s, faultAddr := a }) :
    d.WorkOnly (d.updSeat n f) := by
  refine ⟨⟨_, _, _, _, _, _, _, _, _, rfl⟩, ⟨_, _, _, rfl⟩, fun _ => ⟨_, rfl⟩, fun _ => ⟨_, _, _, _, rfl⟩, fun m => ?_⟩
  rw [Dev.seat_updSeat]; split
  · rename_i h; subst h; exact hf _
  · exact ⟨_, _, _, _, _, rfl⟩

theorem Dev.WorkOnly.rejectTag (d : Dev) (t a : Nat) : d.WorkOnly (d.rejectTag t a) :=
  (Dev.WorkOnly.updSeat d _ _ fun _ => ⟨_, _, _, _, _, rfl⟩).trans (.setLeaf _ _ _)

theorem Dev.WorkOnly.segFault (d : Dev) (x a k s : Nat) : d.WorkOnly (d.segFault x a k s) :=
  ((Dev.WorkOnly.updSeat d _ _ fun _ => ⟨_, _, _, _, _, rfl⟩).trans (.setLeaf _ _ _)).trans (.setLeaf _ _ _)

theorem Dev.WorkOnly.memWrite (d : Dev) (t a : Nat) (bs : List Byte) (p : Bool) : d.WorkOnly (d.memWrite t a bs p) := by
  unfold Dev.memWrite; dsimp only
  split
  · exact .refl d
  · split
    · split
      · exact (((Dev.MemOnly.refl d).writeAtom _ _ _).setMem _).work
      · exact ((Dev.MemOnly.refl d).writeAtom _ _ _).work
    · exact .rejectTag _ _ _

theorem Dev.WorkOnly.hold (d : Dev) (r : HeldReq) : d.WorkOnly (d.hold r) := ((Dev.MemOnly.refl d).updStack _ _).work

theorem Dev.WorkOnly.writeBack (d : Dev) (l : Line) : d.WorkOnly (d.writeBack l) := by
  unfold Dev.writeBack; dsimp only
  split
  · exact .refl d
  · split
    · exact (Dev.WorkOnly.transfer _ _ _ _).trans (.hold _ _)
    · exact (Dev.WorkOnly.transfer _ _ _ _).trans (.memWrite _ _ _ _ _)

theorem Dev.writeBack_cache (d : Dev) (l : Line) : (d.writeBack l).cache = d.cache := by
  have hw : ∀ (e : Dev) (a : Nat) (bs : List Byte) (w : Who), (e.writeAtom a bs w).cache = e.cache := by
    intro e a bs w; obtain ⟨m, l, r, h⟩ := (Dev.MemOnly.refl e).writeAtom a bs w; rw [h]
  unfold Dev.writeBack; dsimp only
  split
  · rfl
  · split
    · rfl
    · unfold Dev.memWrite; dsimp only
      split
      · rfl
      · split
        · split
          · exact hw _ _ _ _
          · exact hw _ _ _ _
        · rfl

theorem Dev.WorkOnly.flushLines (d : Dev) (p : Line → Bool) : d.WorkOnly (d.flushLines p) := by
  unfold Dev.flushLines; dsimp only
  exact (Dev.WorkOnly.foldl Dev.WorkOnly.writeBack _ _).trans (.setCache _ _)

theorem Dev.flushLines_lines (d : Dev) (p : Line → Bool) :
    (d.flushLines p).cache.lines = d.cache.lines.map fun l => if p l then { l with dirty := false } else l := by
  unfold Dev.flushLines; dsimp only
  rw [foldl_leaves Dev.cache Dev.writeBack_cache]; rfl

theorem Dev.WorkOnly.dropLines (d : Dev) (p : Line → Bool) : d.WorkOnly (d.dropLines p) := .setCache _ _

theorem Dev.WorkOnly.invalidateLines (d : Dev) (p : Line → Bool) : d.WorkOnly (d.invalidateLines p) :=
  (Dev.WorkOnly.flushLines d p).trans (.setCache _ _)

theorem Dev.WorkOnly.updLine (d : Dev) (k t a : Nat) (f : Line → Line) : d.WorkOnly (d.updLine k t a f) := .setCache _ _

theorem Dev.WorkOnly.touchLine (d : Dev) (k t a : Nat) (f : Line → Line) : d.WorkOnly (d.touchLine k t a f) := .setCache _ _

theorem Dev.WorkOnly.hitLine (d : Dev) (l : Line) (h : Hint) (u : Nat) : d.WorkOnly (d.hitLine l h u) := by
  unfold Dev.hitLine; dsimp only
  split <;> split
  · exact .setCache _ _
  · exact (Dev.WorkOnly.setCache d _).trans (.touchLine (d.denyKeep l.stack) _ _ _ _)
  · exact .refl d
  · exact .touchLine _ _ _ _ _

theorem Dev.WorkOnly.allocKind (d : Dev) (k t a : Nat) (h : Hint) : d.WorkOnly (d.allocKind k t a h).1 := by
  unfold Dev.allocKind
  split
  · exact .setCache _ _
  · exact .refl d

theorem Dev.WorkOnly.allocate (d : Dev) (l : Line) : d.WorkOnly (d.allocate l) := by
  unfold Dev.allocate; dsimp only
  split
  · exact .setCache _ _
  · exact ((Dev.WorkOnly.writeBack _ _).trans (.dropLines _ _)).trans (.setCache _ _)

/-! ## Reads and writes of operands -/

theorem Mio.reach_dev (m : Mio) (a : Nat) : (m.reach a).dev = m.dev := by
  unfold Mio.reach Mio.touch; dsimp only; split <;> rfl

/-- A fold that only does memory work. -/
theorem work_foldl {α β : Type} (dev : β → Dev) {f : β → α → β} (hf : ∀ b a, (dev b).WorkOnly (dev (f b a))) {d : Dev} :
    ∀ (l : List α) (b : β), d.WorkOnly (dev b) → d.WorkOnly (dev (l.foldl f b))
  | [], _, h => h
  | a :: l, b, h => work_foldl dev hf l (f b a) (h.trans (hf b a))

theorem Mio.touches_dev (l : List Nat) (m : Mio) : (l.foldl Mio.touch m).dev = m.dev := by
  apply foldl_leaves Mio.dev; intros; rfl

theorem Mio.work_flush (m : Mio) (p : Line → Bool) : m.dev.WorkOnly (m.flush p).dev := by
  unfold Mio.flush; dsimp only; rw [Mio.touches_dev]; exact .flushLines _ _

theorem Mio.work_invalidate (m : Mio) (p : Line → Bool) : m.dev.WorkOnly (m.invalidate p).dev :=
  (m.work_flush p).trans (.dropLines _ _)

theorem Mio.work_acquire (m : Mio) (x a n : Nat) : m.dev.WorkOnly (m.acquire x a n).dev := m.work_invalidate _

theorem Mio.work_allocate (m : Mio) (l : Line) : m.dev.WorkOnly (m.allocate l).dev := by
  unfold Mio.allocate; dsimp only
  split
  · split <;> exact .allocate _ _
  · exact .allocate _ _

theorem Mio.work_readMem (m : Mio) (g : Agent) (a : Nat) : m.dev.WorkOnly (m.readMem g a).1.dev := by
  unfold Mio.readMem; dsimp only
  have h := m.reach_dev a
  split
  · exact h ▸ .refl _
  · split
    · dsimp only; rw [h]; exact .rejectTag _ _ _
    · split
      · exact h ▸ .refl _
      · dsimp only; rw [h]; exact ((Dev.MemOnly.refl _).readAtom _ _ _).work

theorem Mio.work_readAtom (m : Mio) (g : Agent) (a : Nat) (h : Hint) (b : Bool) : m.dev.WorkOnly (m.readAtom g a h b).1.dev := by
  unfold Mio.readAtom; dsimp only
  split
  · exact .hitLine _ _ _ _
  · split
    · exact m.work_readMem _ _
    · exact ((m.work_readMem _ _).trans (.allocKind _ _ _ _ _)).trans (Mio.work_allocate { (m.readMem g (64 * (a / 64))).1 with dev := _ } _)

theorem Mio.work_writeMem (m : Mio) (g : Agent) (a : Nat) (bs : List Byte) (p : Bool) : m.dev.WorkOnly (m.writeMem g a bs p).dev := by
  unfold Mio.writeMem; dsimp only
  have h := m.reach_dev a
  split
  · exact h ▸ .refl _
  · dsimp only; rw [h]; exact (Dev.WorkOnly.transfer _ _ _ _).trans (.memWrite _ _ _ _ _)

theorem Mio.work_dropping (m : Mio) (p : Line → Bool) : m.dev.WorkOnly (m.dropping p).dev := .dropLines _ _

/-- A line is allocated by memory work that came so far. -/
theorem Mio.work_allocated {d : Dev} {m : Mio} (k t a : Nat) (h : Hint) (l : LineKind → Line) (hd : d.WorkOnly m.dev) :
    d.WorkOnly (({ m with dev := (m.dev.allocKind k t a h).1 } : Mio).allocate (l (m.dev.allocKind k t a h).2)).dev :=
  (hd.trans (.allocKind _ _ _ _ _)).trans (Mio.work_allocate { m with dev := (m.dev.allocKind k t a h).1 } _)

theorem Mio.work_writeAtom (m : Mio) (g : Agent) (a : Nat) (bs : List Byte) (p : Bool) (h : Hint) (b t : Bool) :
    m.dev.WorkOnly (m.writeAtom g a bs p h b t).dev := by
  unfold Mio.writeAtom; dsimp only
  split
  · split
    · have hr := m.reach_dev a
      split
      · exact hr ▸ .refl _
      · dsimp only; rw [hr]
        split
        · exact ((Dev.WorkOnly.updLine _ _ _ _ _).trans (.writeBack _ _)).trans (.dropLines _ _)
        · exact ((Dev.WorkOnly.updLine _ _ _ _ _).trans (.writeBack _ _)).trans (.updLine _ _ _ _ _)
    · exact (Dev.WorkOnly.hitLine _ _ _ _).trans (.updLine _ _ _ _ _)
  · split
    · split
      · exact m.work_writeMem _ _ _ _
      · exact Mio.work_allocated _ _ _ _ (fun k => ⟨g.stack, tagOf g.ctx, a / 64, bs, true, p, k, 0, none⟩) (.refl _)
    · split
      · split
        · exact m.work_readMem _ _
        · have h1 : m.dev.WorkOnly ((m.readMem g (64 * (a / 64))).1.dev.transfer g false [(64 * (a / 64), 64)]) :=
            (m.work_readMem _ _).trans (.transfer _ _ _ _)
          generalize m.readMem g (64 * (a / 64)) = r at *
          obtain ⟨n, x, y⟩ := r
          split
          · exact h1.trans (Mio.work_writeMem { n with dev := _ } _ _ _ _)
          · have h2 := Mio.work_allocated (m := { n with dev := n.dev.transfer g false [(64 * (a / 64), 64)] }) g.stack (tagOf g.ctx) (a / 64) h
              (fun k => ⟨g.stack, tagOf g.ctx, a / 64, splice x (a % 64) bs, true, y || p, k, 0, none⟩) h1
            split
            · exact (h2.trans (Mio.work_writeMem _ _ _ _ _)).trans (Mio.work_dropping _ _)
            · exact h2
      · exact m.work_writeMem _ _ _ _

theorem Mio.work_xfault (m : Mio) (g : Agent) (a : Nat) (t : Xlate) : m.dev.WorkOnly (m.xfault g a t).dev := by
  cases t
  · exact .refl _
  · exact .segFault _ _ _ _ _
  · exact .segFault _ _ _ _ _

theorem Mio.work_readPiece (g : Agent) (va pa : Nat) (h : Hint) (q : Mio × List Byte × List Bool) (p : Nat × Nat) :
    q.1.dev.WorkOnly (Mio.readPiece g va pa h q p).1.dev := by
  unfold Mio.readPiece; dsimp only
  split
  · exact .refl _
  · exact q.1.work_readAtom _ _ _ _

theorem Mio.work_read (m : Mio) (g : Agent) (o : Opref) (a n : Nat) : m.dev.WorkOnly (m.read g o a n).1.dev := by
  unfold Mio.read; dsimp only
  split
  · exact .refl _
  · split
    · dsimp only
      refine work_foldl (fun q : Mio × List Byte × List Bool => q.1.dev) (Mio.work_readPiece _ _ _ _) _ _ ?_
      exact .transferAtoms _ _ _ _
    · exact m.work_xfault _ _ _

theorem Mio.work_write (m : Mio) (g : Agent) (o : Opref) (a : Nat) (bs : List Byte) (po : List Bool) :
    m.dev.WorkOnly (m.write g o a bs po).dev := by
  unfold Mio.write; dsimp only
  split
  · exact .refl _
  · split
    · refine work_foldl Mio.dev (fun m p => ?_) _ _ (.refl _)
      unfold Mio.writePiece; dsimp only
      split
      · exact .refl _
      · exact m.work_writeAtom _ _ _ _ _ _ _
    · exact m.work_xfault _ _ _

theorem Mio.work_acquireRef (m : Mio) (p : Place) (w a n : Nat) : m.dev.WorkOnly (m.acquireRef p w a n).dev := by
  unfold Mio.acquireRef; split
  · exact m.work_acquire _ _ _
  · exact .refl _

/-- What an operation acquires before its first read is memory work (R97, R479). -/
theorem Dev.work_io (d : Dev) (p : Place) : d.WorkOnly (d.io p).dev := by
  unfold Dev.io
  refine work_foldl Mio.dev (fun m f => ?_) _ _ (.refl _)
  split
  · exact work_foldl Mio.dev (fun m r => m.work_acquireRef _ _ _ _) _ _ (.refl _)
  · exact .refl _

theorem Mio.work_readOperand (m : Mio) (g : Agent) (p : Place) (w off n : Nat) : m.dev.WorkOnly (m.readOperand g p w off n).1.dev := by
  unfold Mio.readOperand; dsimp only
  split
  · exact .refl _
  · exact m.work_read _ _ _ _

theorem Mio.work_readMat (m : Mio) (g : Agent) (p : Place) (w s r c f : Nat) : m.dev.WorkOnly (m.readMat g p w s r c f).1.dev := by
  unfold Mio.readMat; dsimp only
  exact work_foldl (fun q : Mio × List (List Byte × List Bool) => q.1.dev) (fun q i => q.1.work_readOperand _ _ _ _ _) _ _ (.refl _)

theorem Mio.work_writeMat (m : Mio) (g : Agent) (o : Opref) (s : Nat) (x : Mat) : m.dev.WorkOnly (m.writeMat g o s x).dev := by
  unfold Mio.writeMat
  exact work_foldl Mio.dev (fun m r => m.work_write _ _ _ _ _) _ _ (.refl _)

theorem Mio.work_source (m : Mio) (g : Agent) (p : Place) (w : Nat) (k : Nat → Nat → Nat) : m.dev.WorkOnly (m.source g p w k).1.dev := by
  unfold Mio.source; dsimp only
  split
  · exact .refl _
  · split
    · exact .refl _
    · exact m.work_readMat _ _ _ _ _ _ _

theorem Mio.work_sourceBy (m : Mio) (g : Agent) (p : Place) (w : Nat) : m.dev.WorkOnly (m.sourceBy g p w).1.dev := by
  unfold Mio.sourceBy; split
  · exact .refl _
  · exact m.work_source _ _ _ _

end Sys2Proof.Machine
end

