-- ==== Sys2Proof/Laws/Board.lean ====
section
/-! SUPPORT. What the operations of the scoreboard do: entering a place, waiting, and ending with the outcome of memory work. -/

namespace Sys2Proof.Machine

/-- Where a command enters, the place is in the scoreboard under its number. -/
theorem Dev.enters_place {d e : Dev} {i : Nat} {sel : OpWord → Bool} {p : Place} (h : d.enters i sel = some (e, p)) :
    e.place i = some p ∧ p.id = i := by
  unfold Dev.enters at h
  split at h
  · cases h
  · rename_i p' hp
    split at h
    · cases h
    · split at h
      · split at h
        · cases hq : (d.startPlace p').place i with
          | none => rw [hq] at h; cases h
          | some q =>
            rw [hq] at h; cases h
            exact ⟨hq, Dev.place_id hq⟩
        · cases h
      · cases h; exact ⟨hp, Dev.place_id hp⟩
      · cases h

/-- Where a command enters, the operation is one that the command is for, and it has not finished. -/
theorem Dev.enters_sel {d e : Dev} {i : Nat} {sel : OpWord → Bool} {p : Place} (h : d.enters i sel = some (e, p)) :
    sel p.op = true ∧ p.phase = .running := by
  unfold Dev.enters at h
  split at h
  · cases h
  · rename_i p' hp
    split at h
    · cases h
    · rename_i hs
      have hs : sel p'.op = true := by cases h' : sel p'.op <;> simp_all
      split at h
      · split at h
        · cases hq : (d.startPlace p').place i with
          | none => rw [hq] at h; cases h
          | some q =>
            rw [hq] at h; cases h
            have hid := Dev.place_id hp
            subst hid
            unfold Dev.startPlace at hq
            dsimp only at hq
            rw [Dev.place_updPlace (by intro q h; exact h)] at hq
            have hn : (d.noteStep p' (d.now 0)).place p'.id = some p' := by
              unfold Dev.noteStep; split <;> exact hp
            rw [hn] at hq
            cases hq
            exact ⟨hs, rfl⟩
        · cases h
      · rename_i hph; cases h; exact ⟨hs, hph⟩
      · cases h

/-- A place changed in a device that has the same scoreboard. -/
theorem Dev.place_upd_of {e d : Dev} {i : Nat} {p : Place} (f : Place → Place) (hw : e.board = d.board) (hp : d.place i = some p)
    (hf : ∀ q, (f q).id = q.id) : (e.updPlace i f).place i = some (f p) := by
  rw [Dev.place_updPlace (fun q h => (hf q).trans h)]
  unfold Dev.place at hp ⊢; rw [hw, hp]; rfl

/-- A place changed once more. -/
theorem Dev.place_upd_again {e : Dev} {i : Nat} {p : Place} (f : Place → Place) (hp : e.place i = some p)
    (hf : ∀ q, (f q).id = q.id) : (e.updPlace i f).place i = some (f p) := Dev.place_upd_of f rfl hp hf

/-- What waiting for a reason does (R163): the place shows the reason and its excursion; rings and memory stay. -/
theorem Dev.stallPlace_spec (d : Dev) (p : Place) (r : Stall) (q : Place) (h : d.place p.id = some q) :
    (d.stallPlace p r).place p.id = some { q with stall := r, excursions := q.excursions.or r.excursion } ∧
      ∃ x, d.stallPlace p r = { d with board := (d.stallPlace p r).board, qlk := x } := by
  unfold Dev.stallPlace
  dsimp only
  have hp := Dev.place_upd_again (fun q => { q with stall := r, excursions := q.excursions.or r.excursion }) h (fun _ => rfl)
  refine ⟨?_, ?_⟩
  · split <;> exact hp
  · split <;> exact ⟨_, rfl⟩

/-- Other places stay. -/
theorem Dev.stallPlace_other (d : Dev) (p : Place) (r : Stall) {j : Nat} (hj : j ≠ p.id) : (d.stallPlace p r).place j = d.place j := by
  have h : (d.updPlace p.id fun q => { q with stall := r, excursions := q.excursions.or r.excursion }).place j = d.place j :=
    Dev.place_updPlace_other (by intro q h; exact h) hj
  unfold Dev.stallPlace; dsimp only; split <;> exact h

/-- Memory work that must wait leaves the device as it was but for the place and the note of a peer. -/
theorem Dev.conclude_waits {d : Dev} {p : Place} {m : Mio} {f : Dev → Dev} {q : Place} (h : d.place p.id = some q) (hw : m.waits = true) :
    (d.conclude p m f).place p.id =
        some { q.noted m with stall := m.wait, excursions := (q.noted m).excursions.or m.wait.excursion } ∧
      ∃ x, d.conclude p m f = { d with board := (d.conclude p m f).board, qlk := x } := by
  have e : d.conclude p m f = (d.updPlace p.id (·.noted m)).stallPlace p m.wait := by
    unfold Dev.conclude; dsimp only; rw [if_pos hw]
  have h1 := Dev.place_upd_again (·.noted m) h (fun _ => rfl)
  obtain ⟨h2, x, h3⟩ := Dev.stallPlace_spec _ p m.wait _ h1
  rw [e]
  exact ⟨h2, x, h3⟩

/-- Memory work that failed a check ends its place with SEGMENT_FAULT. -/
theorem Dev.conclude_fault {d : Dev} {p : Place} {m : Mio} {f : Dev → Dev} {q : Place} (h : m.dev.place p.id = some q)
    (hw : m.waits = false) (hf : m.fault = true) :
    (d.conclude p m f).place p.id = some ((q.noted m).fail .segmentFault) ∧
      d.conclude p m f = { m.dev with board := (d.conclude p m f).board } := by
  have e : d.conclude p m f = (m.dev.updPlace p.id (·.noted m)).updPlace p.id (·.fail .segmentFault) := by
    unfold Dev.conclude; dsimp only; rw [if_neg (by simp [hw]), if_pos hf]
  have h1 := Dev.place_upd_again (·.noted m) h (fun _ => rfl)
  rw [e]
  exact ⟨Dev.place_upd_again _ h1 (fun _ => rfl), rfl⟩

/-- A payload read past its end ends the place with BAD_DESCRIPTOR. -/
theorem Dev.conclude_short {d : Dev} {p : Place} {m : Mio} {f : Dev → Dev} {q : Place} (h : m.dev.place p.id = some q)
    (hw : m.waits = false) (hf : m.fault = false) (hs : m.short = true) :
    (d.conclude p m f).place p.id = some ((q.noted m).fail .badDescriptor) ∧
      d.conclude p m f = { m.dev with board := (d.conclude p m f).board } := by
  have e : d.conclude p m f = (m.dev.updPlace p.id (·.noted m)).updPlace p.id (·.fail .badDescriptor) := by
    unfold Dev.conclude; dsimp only; rw [if_neg (by simp [hw]), if_neg (by simp [hf]), if_pos hs]
  have h1 := Dev.place_upd_again (·.noted m) h (fun _ => rfl)
  rw [e]
  exact ⟨Dev.place_upd_again _ h1 (fun _ => rfl), rfl⟩

/-- Memory work that is done goes on with `f`, on a device whose place notes the work; the other places stay. -/
theorem Dev.conclude_done {d : Dev} {p : Place} {m : Mio} (f : Dev → Dev) {q : Place} (h : m.dev.place p.id = some q)
    (hd : m.done) :
    ∃ e, d.conclude p m f = f e ∧ e = { m.dev with board := e.board } ∧ e.place p.id = some (q.noted m) ∧
      ∀ j, j ≠ p.id → e.place j = m.dev.place j := by
  obtain ⟨hw, hf, hs⟩ := hd
  refine ⟨m.dev.updPlace p.id (·.noted m), ?_, rfl, Dev.place_upd_again _ h (fun _ => rfl), fun j hj =>
    Dev.place_updPlace_other (by intro q h; exact h) hj⟩
  unfold Dev.conclude; dsimp only
  rw [if_neg (by simp [hw]), if_neg (by simp [hf]), if_neg (by simp [hs])]

/-! ## Scratchpads -/

theorem SMap.get_foldl_zipIdx (a : Nat) : ∀ (bs : List Byte) (n : Nat) (m : SMap Byte) (k : Nat),
    SMap.get 0 ((bs.zipIdx n).foldl (fun m p => SMap.put 0 m (a + p.2) p.1) m) k =
      if a + n ≤ k ∧ k < a + n + bs.length then bs.getD (k - (a + n)) 0 else SMap.get 0 m k
  | [], n, m, k => by simp
  | b :: t, n, m, k => by
    rw [List.zipIdx_cons, List.foldl_cons, SMap.get_foldl_zipIdx a t (n + 1)]
    by_cases h : k = a + n
    · subst h
      rw [if_neg (by omega), if_pos (by simp)]
      simp
    · by_cases h1 : a + n < k ∧ k < a + n + (t.length + 1)
      · rw [if_pos (by omega), if_pos (by simp; omega), show k - (a + n) = (k - (a + (n + 1))) + 1 by omega]
        simp
      · rw [if_neg (by omega), if_neg (by simp; omega), SMap.get_put_other h]

/-- Bytes written to a scratchpad read back, and others stay. -/
theorem Core.padByte_padWrite (c : Core) (a : Nat) (bs : List Byte) (po : List Bool) (k : Nat) :
    (c.padWrite a bs po).padByte k = if a ≤ k ∧ k < a + bs.length then bs.getD (k - a) 0 else c.padByte k := by
  have := SMap.get_foldl_zipIdx a bs 0 c.pad k
  simpa [Core.padByte, Core.padWrite] using this

theorem mem_insertAscs {α : Type} (f : α → Nat) : ∀ (l : List α) (xs : List Nat) (k : Nat),
    k ∈ l.foldl (fun l p => insertAsc (f p) l) xs ↔ k ∈ xs ∨ ∃ p ∈ l, f p = k
  | [], xs, k => by simp
  | p :: l, xs, k => by
    rw [List.foldl_cons, mem_insertAscs f l, mem_insertAsc]
    constructor
    · rintro ((h | h) | ⟨q, hq, h⟩)
      · exact .inr ⟨p, by simp, h.symm⟩
      · exact .inl h
      · exact .inr ⟨q, by simp [hq], h⟩
    · rintro (h | ⟨q, hq, h⟩)
      · exact .inl (.inr h)
      · rcases List.mem_cons.1 hq with rfl | hq
        · exact .inl (.inl h.symm)
        · exact .inr ⟨q, hq, h⟩

/-- The poison of bytes written to a scratchpad reads back, and that of others stays (R352). -/
theorem Core.padPoison_padWrite (c : Core) (a : Nat) (bs : List Byte) (po : List Bool) (k : Nat) :
    (c.padWrite a bs po).padPoison.contains k =
      if a ≤ k ∧ k < a + bs.length then po.getD (k - a) false else c.padPoison.contains k := by
  have h : k ∈ (c.padWrite a bs po).padPoison ↔ if a ≤ k ∧ k < a + bs.length then po.getD (k - a) false = true else k ∈ c.padPoison := by
    unfold Core.padWrite; dsimp only
    rw [mem_insertAscs (fun p : Byte × Nat => a + p.2)]
    simp only [List.mem_filter, Bool.not_eq_true', Bool.and_eq_false_iff, decide_eq_false_iff_not]
    split
    · rename_i hk
      constructor
      · rintro (⟨_, h⟩ | ⟨⟨b, i⟩, ⟨hm, hp⟩, h⟩)
        · omega
        · rw [← h, Nat.add_sub_cancel_left]; exact hp
      · intro hp
        refine .inr ⟨(bs[k - a]'(by omega), k - a), ⟨?_, hp⟩, by dsimp only; omega⟩
        rw [List.mk_mem_zipIdx_iff_getElem?]
        simp
    · rename_i hk
      constructor
      · rintro (⟨h, _⟩ | ⟨⟨b, i⟩, ⟨hm, hp⟩, h⟩)
        · exact h
        · obtain ⟨this, _⟩ := List.getElem?_eq_some_iff.1 (List.mk_mem_zipIdx_iff_getElem?.1 hm)
          dsimp only at h; omega
      · intro h
        exact .inl ⟨h, by omega⟩
  cases hc : (c.padWrite a bs po).padPoison.contains k <;> split at h <;> rename_i hk
  · rw [if_pos hk]; simp at hc; cases hp : po.getD (k - a) false
    · rfl
    · exact absurd (h.2 hp) hc
  · rw [if_neg hk]; simp at hc; symm; simpa using fun g => hc (h.2 g)
  · rw [if_pos hk]; simp at hc; exact (h.1 hc).symm
  · rw [if_neg hk]; simp at hc; symm; simpa using h.1 hc

/-- What a scratchpad holds: its bytes, and which of them are poisoned. -/
def Core.SamePad (c k : Core) : Prop := c.padByte = k.padByte ∧ ∀ x, c.padPoison.contains x = k.padPoison.contains x

theorem Dev.core_padWrites (a : Nat) (bs : List Byte) (po : List Bool) : ∀ (l : List Nat) (d : Dev) (c : Nat),
    ((l.foldl (fun d c => d.padWrite c a bs po) d).core c).SamePad (if c ∈ l then (d.core c).padWrite a bs po else d.core c)
  | [], d, c => by simp [Core.SamePad]
  | x :: t, d, c => by
    rw [List.foldl_cons]
    have h0 := Dev.core_padWrites a bs po t (d.padWrite x a bs po) c
    have h1 : (d.padWrite x a bs po).core c = if c = x then (d.core x).padWrite a bs po else d.core c := Dev.core_updCore _ _ _ _
    rw [h1] at h0
    by_cases hx : c = x
    · subst hx
      simp only [if_true, List.mem_cons, true_or] at h0 ⊢
      split at h0
      · refine ⟨h0.1.trans ?_, fun k => (h0.2 k).trans ?_⟩
        · funext k
          rw [Core.padByte_padWrite, Core.padByte_padWrite]
          split <;> rfl
        · rw [Core.padPoison_padWrite, Core.padPoison_padWrite]
          split <;> rfl
      · exact h0
    · simpa [hx] using h0

theorem Dev.core_padWrites_other (a : Nat) (bs : List Byte) (po : List Bool) : ∀ (l : List Nat) (d : Dev) (c : Nat), c ∉ l →
    (l.foldl (fun d c => d.padWrite c a bs po) d).core c = d.core c
  | [], d, c, _ => rfl
  | x :: t, d, c, h => by
    rw [List.foldl_cons, Dev.core_padWrites_other a bs po t _ _ (by simp at h; exact h.2)]
    have h1 : (d.padWrite x a bs po).core c = if c = x then (d.core x).padWrite a bs po else d.core c := Dev.core_updCore _ _ _ _
    rw [h1, if_neg (by simp at h; exact h.1)]

/-- Writing scratchpads changes the cores only. -/
theorem Dev.padWrites_rest (a : Nat) (bs : List Byte) (po : List Bool) : ∀ (l : List Nat) (d : Dev),
    ∃ c, l.foldl (fun d c => d.padWrite c a bs po) d = { d with cores := c }
  | [], d => ⟨_, rfl⟩
  | x :: t, d => by
    obtain ⟨c, h⟩ := Dev.padWrites_rest a bs po t (d.padWrite x a bs po)
    exact ⟨c, h⟩

end Sys2Proof.Machine
end

