-- ==== Sys2Proof/Laws/Calm.lean ====
section
/-! SUPPORT. Memory work that neither waits nor faults: while no die holds a request back and no atom has symbol errors, an access to a
range that its context maps, in frames that admit it, is done, and what it leaves is as it was for every later access (log 3). -/

namespace Sys2Proof.Machine

/-! ## What decides whether a die serves a request -/

/-- The fields of a stack that say whether it serves a request, and where the request goes. -/
def Stack.gates (k : Stack) : (Thermal × Bool × List (Nat × Nat) × SMap Remap × List Nat) × List (SramTable × Nat) × List Cover × Option Nat × List Pin × Option Nat :=
  ((k.thermal, k.selfRefresh, k.repairing, k.remap, k.filling), k.sramBad, k.covers, k.spareBase, k.pins, k.pinSpare)

/-- No atom gains a symbol error, and every die serves what it served. -/
def Mem.Gated (m k : Mem) : Prop := (m.upsets = [] → k.upsets = []) ∧ ∀ x, (k.stack x).gates = (m.stack x).gates

theorem Mem.Gated.refl (m : Mem) : m.Gated m := ⟨id, fun _ => rfl⟩

theorem Mem.Gated.trans {a b c : Mem} (h : a.Gated b) (g : b.Gated c) : a.Gated c :=
  ⟨fun u => g.1 (h.1 u), fun x => (g.2 x).trans (h.2 x)⟩

theorem Mem.Gated.of {m k : Mem} (hd : k.dies = m.dies) (hu : m.upsets = [] → k.upsets = []) : m.Gated k :=
  ⟨hu, fun x => by unfold Mem.stack; rw [hd]⟩

theorem Mem.Gated.updStack (m : Mem) (x : Nat) (f : Stack → Stack) (hf : ∀ k, (f k).gates = k.gates) : m.Gated (m.updStack x f) :=
  ⟨id, fun y => by rw [Mem.stack_updStack]; split <;> simp [*]⟩

theorem Mem.Gated.locate {m k : Mem} (h : m.Gated k) (a : Nat) : k.locate a = m.locate a := by
  have g := h.2 (stackOf a)
  simp only [Stack.gates, Prod.mk.injEq] at g
  simp [Mem.locate, Mem.spareBase, g]

theorem Mem.Gated.bankOf {m k : Mem} (h : m.Gated k) (a : Nat) : k.bankOf a = m.bankOf a := by
  have g := h.2 (stackOf a)
  simp only [Stack.gates, Prod.mk.injEq] at g
  obtain ⟨-, -, -, -, hp, hs⟩ := g
  unfold Mem.bankOf Mem.dram Stack.pinOf Stack.rowsLeft Stack.pinnedBelow
  simp only [hp, hs]

theorem Mem.Gated.admits {m k : Mem} (h : m.Gated k) (x f t : Nat) : (k.frame x f).admits t = (m.frame x f).admits t := by
  have g := h.2 x
  simp only [Stack.gates, Prod.mk.injEq] at g
  unfold Mem.frame FrameEntry.admits; simp [g]

theorem Mem.Gated.blocked {d e : Dev} (h : d.mem.Gated e.mem) (a : Nat) : e.blocked a = d.blocked a := by
  have g := h.2 (stackOf a)
  simp only [Stack.gates, Prod.mk.injEq] at g
  unfold Dev.blocked
  simp [g, h.locate, h.bankOf]

/-! ## Device operations -/

/-- While no atom has symbol errors, dies go on serving what they served. -/
def Dev.Tame (d e : Dev) : Prop := d.mem.upsets = [] → d.mem.Gated e.mem

theorem Dev.Tame.of {d e : Dev} (h : e.mem = d.mem) : d.Tame e := fun _ => h ▸ .refl _

theorem Dev.Tame.trans {a b c : Dev} (h : a.Tame b) (g : b.Tame c) : a.Tame c := fun u => (h u).trans (g ((h u).1 u))

theorem Dev.Tame.foldl {α : Type} {f : Dev → α → Dev} (hf : ∀ d a, Dev.Tame d (f d a)) : ∀ (l : List α) (d : Dev), d.Tame (l.foldl f d)
  | [], _ => .of rfl
  | a :: t, d => (hf d a).trans (foldl hf t (f d a))

theorem Dev.Tame.updStack (d : Dev) (x : Nat) (f : Stack → Stack) (hf : ∀ k, (f k).gates = k.gates) : d.Tame (d.updStack x f) :=
  fun _ => .updStack _ _ _ hf

theorem Dev.Tame.readPoison (d : Dev) (a : Nat) (w : Who) : d.Tame (d.readPoison a w) := by
  have h : ∀ e : Dev, e.Tame (e.recordFault a 8 w) := fun e => Tame.updStack e _ _ fun _ => rfl
  exact (Tame.updStack d (stackOf a) (fun k => { k with poisonReads := satInc32 k.poisonReads 1 }) fun _ => rfl).trans (h _)

theorem Dev.readAtom_tame (d : Dev) (a : Nat) (w : Who) (u : d.mem.upsets = []) :
    d.mem.Gated (d.readAtom a none w).1.mem ∧ (d.readAtom a none w).2.2.2 = false := by
  unfold Dev.readAtom; dsimp only
  split
  · exact ⟨.refl _, rfl⟩
  · split
    · exact ⟨Tame.readPoison _ _ _ u, rfl⟩
    · rw [u]; exact ⟨.refl _, rfl⟩

theorem Mem.dies_putBytes : ∀ (bs : List Byte) (m : Mem) (a : Nat), (m.putBytes a bs).dies = m.dies ∧ (m.putBytes a bs).upsets = m.upsets
  | [], _, _ => ⟨rfl, rfl⟩
  | b :: t, m, a => dies_putBytes t (m.putByte a b) (a + 1)

theorem SMap.del_nil {α : Type} (k : Nat) : SMap.del ([] : SMap α) k = [] := rfl

theorem Mem.Gated.putBytes (m : Mem) (a : Nat) (bs : List Byte) : m.Gated (m.putBytes a bs) :=
  .of (Mem.dies_putBytes bs m a).1 fun u => by rw [(Mem.dies_putBytes bs m a).2]; exact u

theorem Mem.Gated.clearUpset (m : Mem) (a : Nat) : m.Gated (m.clearUpset a) :=
  .of rfl fun u => by unfold Mem.clearUpset; rw [u]; rfl

theorem Mem.Gated.setPoison (m : Mem) (a : Nat) (on : Bool) : m.Gated (m.setPoison a on) := .of rfl id

theorem Mem.Gated.marks (m : Mem) (p : List Nat) (u : SMap (List (Nat × Byte))) (h : m.upsets = [] → u = []) :
    m.Gated { m with poison := p, upsets := u } := .of rfl h

theorem Mem.Gated.drop (m : Mem) (a n : Nat) : m.Gated (m.dropRange a n) := .of rfl id

theorem Mem.Gated.fillFrame (m : Mem) (x f : Nat) : m.Gated (m.fillFrame x f) := by
  let b := m.locate (frameAddr x f)
  let m1 := m.dropRange b 65536
  let m2 := m1.updStack (stackOf b) fun k => { k with frames := SMap.upd {} k.frames (frameOf b) fun e => { e with lost := 0 } }
  let m3 := m2.updStack x fun k => { k with frames := SMap.upd {} k.frames f fun e => { e with zero := false } }
  have h1 : m.Gated m1 := .drop _ _ _
  have h2 : m1.Gated m2 := .updStack _ _ _ fun _ => rfl
  have h3 : m2.Gated m3 := .updStack _ _ _ fun _ => rfl
  exact ((h1.trans h2).trans h3).trans (.marks m3 _ _ fun u => by rw [u]; rfl)

theorem Dev.Tame.writeAtom (d : Dev) (a : Nat) (bs : List Byte) (w : Who) : d.Tame (d.writeAtom a bs w) := by
  intro u
  unfold Dev.writeAtom
  have h : d.mem.Gated (if (d.mem.frame (stackOf a) (frameOf a)).zero then ({ d with mem := d.mem.fillFrame (stackOf a) (frameOf a) } : Dev) else d).mem := by
    split
    · exact .fillFrame _ _ _
    · exact .refl _
  refine h.trans ?_
  have u' := h.1 u
  generalize (if (d.mem.frame (stackOf a) (frameOf a)).zero then ({ d with mem := d.mem.fillFrame (stackOf a) (frameOf a) } : Dev) else d) = e at u' ⊢
  dsimp only
  split
  · exact ((Mem.Gated.clearUpset _ _).trans (.setPoison _ _ _)).trans (.putBytes _ _ _)
  · refine (e.readAtom_tame a w u').1.trans (Mem.Gated.trans ?_ (.putBytes _ _ _))
    split
    · exact .refl _
    · exact (Mem.Gated.clearUpset _ _).trans (.putBytes _ _ _)

theorem Dev.Tame.memWrite (d : Dev) (t a : Nat) (bs : List Byte) (p : Bool) : d.Tame (d.memWrite t a bs p) := by
  unfold Dev.memWrite
  split
  · exact .of rfl
  · split
    · dsimp only; split
      · exact (Tame.writeAtom d a bs _).trans fun _ => .setPoison _ _ _
      · exact .writeAtom _ _ _ _
    · exact .of rfl

theorem Dev.Tame.updLine (d : Dev) (k t a : Nat) (f : Line → Line) : d.Tame (d.updLine k t a f) := .of rfl

theorem Dev.Tame.dropLines (d : Dev) (p : Line → Bool) : d.Tame (d.dropLines p) := .of rfl

theorem Dev.Tame.transfer (d : Dev) (g : Agent) (w : Bool) (l : List (Nat × Nat)) : d.Tame (d.transfer g w l) := .of rfl

theorem Dev.Tame.transferAtoms (d : Dev) (g : Agent) (w : Bool) (l : List Nat) : d.Tame (d.transferAtoms g w l) :=
  Tame.foldl (fun d _ => .transfer d _ _ _) _ _

theorem Dev.Tame.hold (d : Dev) (h : HeldReq) : d.Tame (d.hold h) := .updStack _ _ _ fun _ => rfl

theorem Dev.Tame.writeBack (d : Dev) (l : Line) : d.Tame (d.writeBack l) := by
  unfold Dev.writeBack; dsimp only
  split
  · exact .of rfl
  · refine Tame.trans (Tame.of (e := d.transfer ⟨l.tag % 1024, l.stack, .loose⟩ true [(64 * l.atom, 64)]) rfl) ?_
    split
    · exact .hold _ _
    · exact .memWrite _ _ _ _ _

theorem Dev.Tame.allocate (d : Dev) (l : Line) : d.Tame (d.allocate l) := by
  unfold Dev.allocate; dsimp only
  split
  · exact .of rfl
  · exact (Tame.writeBack _ _).trans (.of rfl)

theorem Dev.Tame.flushLines (d : Dev) (p : Line → Bool) : d.Tame (d.flushLines p) :=
  (Tame.foldl Tame.writeBack _ d).trans (.of rfl)

theorem Dev.mem_hitLine (d : Dev) (l : Line) (h : Hint) (u : Nat) : (d.hitLine l h u).mem = d.mem := by
  unfold Dev.hitLine; dsimp only
  repeat' split
  all_goals rfl

theorem Dev.mem_allocKind (d : Dev) (k t a : Nat) (h : Hint) : (d.allocKind k t a h).1.mem = d.mem := by
  unfold Dev.allocKind; split <;> rfl

/-! ## Memory work -/

/-- Memory work from `m` to `r` that neither waited nor failed a check, and leaves every later access as it was. -/
structure Mio.Smooth (m r : Mio) : Prop where
  waits : r.waits = m.waits
  fault : r.fault = m.fault
  short : r.short = m.short
  mem : m.dev.Tame r.dev
  work : m.dev.WorkOnly r.dev

theorem Mio.Smooth.refl (m : Mio) : m.Smooth m := ⟨rfl, rfl, rfl, .of rfl, .refl _⟩

theorem Mio.Smooth.trans {a b c : Mio} (h : a.Smooth b) (g : b.Smooth c) : a.Smooth c :=
  ⟨g.waits.trans h.waits, g.fault.trans h.fault, g.short.trans h.short, h.mem.trans g.mem, h.work.trans g.work⟩

theorem Mio.Smooth.calm {m r : Mio} (h : m.Smooth r) (c : m.dev.Calm) : r.dev.Calm :=
  ⟨(h.mem c.1).1 c.1, fun a => ((h.mem c.1).blocked a).trans (c.2 a)⟩

theorem Mio.Smooth.foldl {α : Type} {f : Mio → α → Mio} (m₀ : Mio) (hf : ∀ r a, m₀.Smooth r → Mio.Smooth r (f r a)) :
    ∀ (l : List α) (m : Mio), m₀.Smooth m → m.Smooth (l.foldl f m)
  | [], m, _ => .refl m
  | a :: t, m, c => (hf m a c).trans (foldl m₀ hf t _ (c.trans (hf m a c)))

theorem Mio.touch_smooth (m : Mio) (a : Nat) : m.Smooth (m.touch a) := ⟨rfl, rfl, rfl, .of rfl, .refl _⟩

theorem Mio.reach_smooth (m : Mio) (a : Nat) (c : m.dev.Calm) : m.Smooth (m.reach a) := by
  unfold Mio.reach; dsimp only
  have h : (m.touch a).dev = m.dev := rfl
  rw [h, c.2 a]
  exact m.touch_smooth a

theorem Mio.setDev_smooth (m : Mio) (e : Dev) (h : m.dev.Tame e) (w : m.dev.WorkOnly e) : m.Smooth { m with dev := e } := ⟨rfl, rfl, rfl, h, w⟩

theorem Mio.allocate_smooth (m : Mio) (l : Line) : m.Smooth (m.allocate l) := by
  unfold Mio.allocate; dsimp only
  split
  · split
    · exact (m.touch_smooth _).trans (Mio.setDev_smooth _ _ (.allocate _ _) (.allocate _ _))
    · exact Mio.setDev_smooth _ _ (.allocate _ _) (.allocate _ _)
  · exact Mio.setDev_smooth _ _ (.allocate _ _) (.allocate _ _)

theorem Mio.allocated_smooth (m : Mio) (k t a : Nat) (h : Hint) (l : LineKind → Line) :
    m.Smooth (({ m with dev := (m.dev.allocKind k t a h).1 } : Mio).allocate (l (m.dev.allocKind k t a h).2)) :=
  (m.setDev_smooth _ (.of (Dev.mem_allocKind _ _ _ _ _)) (.allocKind _ _ _ _ _)).trans (Mio.allocate_smooth _ _)

/-- A request of a context at an atom is admitted (R384). -/
def Dev.Open (d : Dev) (x a : Nat) : Prop := (d.mem.frame (stackOf a) (frameOf a)).admits (tagOf x) = true

theorem Mio.Smooth.open {m r : Mio} (h : m.Smooth r) (c : m.dev.Calm) {x a : Nat} (o : m.dev.Open x a) : r.dev.Open x a := by
  unfold Dev.Open; rw [(h.mem c.1).admits]; exact o

theorem Mio.readMem_smooth (m : Mio) (g : Agent) (a : Nat) (c : m.dev.Calm) (w : m.waits = false) (o : m.dev.Open g.ctx a) :
    m.Smooth (m.readMem g a).1 := by
  have h := m.reach_smooth a c
  have o' := h.open c o
  have hw := h.waits.trans w
  unfold Mio.readMem; dsimp only
  unfold Dev.Open at o'
  rw [if_neg (by simp [hw]), o', if_neg (by simp)]
  split
  · exact h
  · exact h.trans ⟨rfl, rfl, rfl, fun u => (Dev.readAtom_tame _ _ _ u).1, ((Dev.MemOnly.refl _).readAtom _ _ _).work⟩

theorem stack64 (a : Nat) : stackOf (64 * (a / 64)) = stackOf a := by unfold stackOf; omega

theorem frame64 (a : Nat) : frameOf (64 * (a / 64)) = frameOf a := by unfold frameOf offsetOf; omega

theorem Dev.Open.atom {d : Dev} {x a : Nat} (o : d.Open x a) : d.Open x (64 * (a / 64)) := by
  unfold Dev.Open; rw [stack64, frame64]; exact o

theorem Mio.readAtom_smooth (m : Mio) (g : Agent) (a : Nat) (h : Hint) (b : Bool) (c : m.dev.Calm) (w : m.waits = false)
    (o : m.dev.Open g.ctx a) : m.Smooth (m.readAtom g a h b).1 := by
  unfold Mio.readAtom; dsimp only
  split
  · exact m.setDev_smooth _ (.of (Dev.mem_hitLine _ _ _ _)) (.hitLine _ _ _ _)
  · have k := m.readMem_smooth g (64 * (a / 64)) c w o.atom
    split
    · exact k
    · exact k.trans (Mio.allocated_smooth _ _ _ _ _ fun q => ⟨g.stack, tagOf g.ctx, a / 64, (m.readMem g (64 * (a / 64))).2.1, false, (m.readMem g (64 * (a / 64))).2.2, q, 0, none⟩)

theorem Mio.writeMem_smooth (m : Mio) (g : Agent) (a : Nat) (bs : List Byte) (p : Bool) (c : m.dev.Calm) (w : m.waits = false)
    (o : m.dev.Open g.ctx a) : m.Smooth (m.writeMem g a bs p) := by
  have h := m.reach_smooth a c
  have o' := h.open c o
  unfold Mio.writeMem; dsimp only
  rw [if_neg (by simp [h.waits, w])]
  unfold Dev.Open at o'
  have k : m.dev = (m.reach a).dev := (m.reach_dev a).symm
  refine ⟨h.waits, by simp [o', h.fault], h.short, ?_, ?_⟩
  · exact h.mem.trans ((Dev.Tame.of (e := (m.reach a).dev.transfer g true [(a, bs.length)]) rfl).trans (.memWrite _ _ _ _ _))
  · exact h.work.trans ((Dev.WorkOnly.transfer _ _ _ _).trans (.memWrite _ _ _ _ _))

/-- The fill of a partial DETECT write, merged and written (R339). -/
theorem Mio.merged_smooth (m : Mio) (g : Agent) (a : Nat) (data : List Byte) (p : Bool) (h : Hint) (b : Bool) (q : Line → Bool) (c : m.dev.Calm)
    (w : m.waits = false) (o : m.dev.Open g.ctx (64 * a)) :
    let n : Mio := { m with dev := m.dev.transfer g false [(64 * a, 64)] }
    m.Smooth (if b then n.writeMem g (64 * a) data p
      else
        let r := ({ n with dev := (n.dev.allocKind g.stack (tagOf g.ctx) a h).1 } : Mio).allocate
          ⟨g.stack, tagOf g.ctx, a, data, true, p, (n.dev.allocKind g.stack (tagOf g.ctx) a h).2, 0, none⟩
        if h = .stream then (r.writeMem g (64 * a) data p).dropping q else r) := by
  intro n
  have k1 : m.Smooth n := m.setDev_smooth _ (.transfer _ _ _ _) (.transfer _ _ _ _)
  split
  · exact k1.trans (n.writeMem_smooth _ _ _ _ (k1.calm c) (k1.waits.trans w) (k1.open c o))
  · have k3 := k1.trans (n.allocated_smooth g.stack (tagOf g.ctx) a h fun k => ⟨g.stack, tagOf g.ctx, a, data, true, p, k, 0, none⟩)
    dsimp only at k3 ⊢
    split
    · exact (k3.trans (Mio.writeMem_smooth _ _ _ _ _ (k3.calm c) (k3.waits.trans w) (k3.open c o))).trans
        (Mio.setDev_smooth _ _ (.dropLines _ _) (.dropLines _ _))
    · exact k3

theorem Mio.writeAtom_smooth (m : Mio) (g : Agent) (a : Nat) (bs : List Byte) (p : Bool) (h : Hint) (b t : Bool) (c : m.dev.Calm)
    (w : m.waits = false) (o : m.dev.Open g.ctx a) : m.Smooth (m.writeAtom g a bs p h b t) := by
  unfold Mio.writeAtom; dsimp only
  split
  · split
    · have k := m.reach_smooth a c
      rw [if_neg (by simp [k.waits, w])]
      refine k.trans (Mio.setDev_smooth _ _ ?_ ?_)
      · split
        · exact ((Dev.Tame.updLine _ _ _ _ _).trans (.writeBack _ _)).trans (.dropLines _ _)
        · exact ((Dev.Tame.updLine _ _ _ _ _).trans (.writeBack _ _)).trans (.updLine _ _ _ _ _)
      · split
        · exact ((Dev.WorkOnly.updLine _ _ _ _ _).trans (.writeBack _ _)).trans (.dropLines _ _)
        · exact ((Dev.WorkOnly.updLine _ _ _ _ _).trans (.writeBack _ _)).trans (.updLine _ _ _ _ _)
    · exact m.setDev_smooth _ (.of (Dev.mem_hitLine _ _ _ _)) ((Dev.WorkOnly.hitLine _ _ _ _).trans (.updLine _ _ _ _ _))
  · split
    · split
      · exact m.writeMem_smooth _ _ _ _ c w o
      · exact m.allocated_smooth _ _ _ _ fun k => ⟨g.stack, tagOf g.ctx, a / 64, bs, true, p, k, 0, none⟩
    · split
      · have k := m.readMem_smooth g (64 * (a / 64)) c w o.atom
        split
        · exact k
        · exact k.trans (Mio.merged_smooth _ _ _ _ _ _ _ _ (k.calm c) (k.waits.trans w) (k.open c o.atom))
      · exact m.writeMem_smooth _ _ _ _ c w o

/-! ## Ranges -/

theorem Dev.WorkOnly.segs {d e : Dev} (h : d.WorkOnly e) (x : Nat) : (e.ctx x).segs = (d.ctx x).segs := by
  obtain ⟨_, _, _, _, h⟩ := h.ctx x; rw [h]

theorem Dev.WorkOnly.translate {d e : Dev} (h : d.WorkOnly e) (x a n : Nat) (r w : Bool) : e.translate x a n r w = d.translate x a n r w := by
  unfold Dev.translate Ctx.covering; rw [h.segs]

theorem atomPieces_mem {p : Nat × Nat} : ∀ (f a n : Nat), p ∈ atomPieces f a n → a ≤ p.1 ∧ p.1 < a + n
  | 0, _, _, h => absurd h List.not_mem_nil
  | f + 1, a, n, h => by
    unfold atomPieces at h
    split at h
    · simp at h
    · dsimp only at h
      rcases List.mem_cons.1 h with rfl | h
      · omega
      · have := atomPieces_mem f _ _ h; omega

theorem Mio.Smooth.admitted {m r : Mio} (h : m.Smooth r) (c : m.dev.Calm) {x a n : Nat} (o : m.dev.Admitted x a n) : r.dev.Admitted x a n :=
  fun b h1 h2 => h.open c (o b h1 h2)

theorem Mio.Smooth.reads {m r : Mio} (h : m.Smooth r) (c : m.dev.Calm) {x a n : Nat} (o : m.dev.Reads x a n) : r.dev.Reads x a n := by
  obtain ⟨pa, i, t, o⟩ := o
  exact ⟨pa, i, by rw [h.work.translate, t], h.admitted c o⟩

theorem Mio.Smooth.writes {m r : Mio} (h : m.Smooth r) (c : m.dev.Calm) {x a n : Nat} (o : m.dev.Writes x a n) : r.dev.Writes x a n := by
  obtain ⟨pa, i, t, o⟩ := o
  exact ⟨pa, i, by rw [h.work.translate, t], h.admitted c o⟩

theorem Mio.Smooth.feeds {m r : Mio} (h : m.Smooth r) (c : m.dev.Calm) {p : Place} {w a n : Nat} (o : m.dev.Feeds p w a n) : r.dev.Feeds p w a n :=
  o.imp id fun o => ⟨o.1, h.reads c o.2⟩

/-- Folds over work paired with what it collects. -/
theorem smooth_foldl {α β : Type} {f : Mio × β → α → Mio × β} (m₀ : Mio) (P : α → Prop)
    (hf : ∀ q a, P a → m₀.Smooth q.1 → Mio.Smooth q.1 (f q a).1) :
    ∀ (l : List α) (q : Mio × β), (∀ a ∈ l, P a) → m₀.Smooth q.1 → q.1.Smooth (l.foldl f q).1
  | [], q, _, _ => .refl q.1
  | a :: t, q, hp, c =>
    have h := hf q a (hp a (.head _)) c
    h.trans (smooth_foldl m₀ P hf t _ (fun b hb => hp b (.tail _ hb)) (c.trans h))

theorem smooth_fold {α : Type} {f : Mio → α → Mio} (m₀ : Mio) (P : α → Prop) (hf : ∀ r a, P a → m₀.Smooth r → Mio.Smooth r (f r a)) :
    ∀ (l : List α) (m : Mio), (∀ a ∈ l, P a) → m₀.Smooth m → m.Smooth (l.foldl f m)
  | [], m, _, _ => .refl m
  | a :: t, m, hp, c =>
    have h := hf m a (hp a (.head _)) c
    h.trans (smooth_fold m₀ P hf t _ (fun b hb => hp b (.tail _ hb)) (c.trans h))

theorem Mio.read_smooth (m : Mio) (g : Agent) (o : Opref) (a n : Nat) (c : m.dev.Calm) (w : m.waits = false) (h : m.dev.Reads g.ctx a n) :
    m.Smooth (m.read g o a n).1 := by
  obtain ⟨pa, s, t, h⟩ := h
  unfold Mio.read; dsimp only
  split
  · exact .refl _
  · rw [t]; dsimp only
    have k0 : ∀ l, m.Smooth { m with dev := m.dev.transferAtoms g false l } :=
      fun l => m.setDev_smooth _ (.transferAtoms _ _ _ _) (.transferAtoms _ _ _ _)
    have k1 : ∀ (l : List Nat) (h : Hint), m.Smooth ((atomPieces (n + 1) pa n).foldl (Mio.readPiece g a pa h)
        (({ m with dev := m.dev.transferAtoms g false l } : Mio), [], [])).1 := fun l h' => (k0 l).trans ?_
    · exact k1 _ _
    refine smooth_foldl (f := Mio.readPiece g a pa h') m (fun p : Nat × Nat => m.dev.Open g.ctx p.1) (fun q p hp k => ?_) (atomPieces (n + 1) pa n)
      (({ m with dev := m.dev.transferAtoms g false l } : Mio), [], []) (fun p hp => ?_) ?_
    · unfold Mio.readPiece; dsimp only
      split
      · exact .refl _
      · exact q.1.readAtom_smooth _ _ _ _ (k.calm c) (k.waits.trans w) (k.open c hp)
    · have := atomPieces_mem _ _ _ hp
      exact h _ this.1 this.2
    · exact k0 _

theorem Mio.write_smooth (m : Mio) (g : Agent) (o : Opref) (a : Nat) (bs : List Byte) (po : List Bool) (c : m.dev.Calm) (w : m.waits = false)
    (h : bs = [] ∨ m.dev.Writes g.ctx a bs.length) : m.Smooth (m.write g o a bs po) := by
  unfold Mio.write; dsimp only
  split
  · exact .refl _
  · rename_i e
    rcases h with rfl | ⟨pa, s, t, h⟩
    · simp at e
    · rw [t]; dsimp only
      refine smooth_fold m (fun p => m.dev.Open g.ctx p.1) (fun r p hp k => ?_) _ _ (fun p hp => ?_) (.refl _)
      · unfold Mio.writePiece; dsimp only
        split
        · exact .refl _
        · exact r.writeAtom_smooth _ _ _ _ _ _ _ (k.calm c) (k.waits.trans w) (k.open c hp)
      · have := atomPieces_mem _ _ _ hp
        exact h _ this.1 this.2

theorem Mio.readOperand_smooth (m : Mio) (g : Agent) (p : Place) (w off n : Nat) (hg : g.ctx = p.ctxIx) (c : m.dev.Calm) (ws : m.waits = false)
    (sh : m.short = false) (h : m.dev.Feeds p w off n) : m.Smooth (m.readOperand g p w off n).1 := by
  unfold Mio.readOperand; dsimp only
  rcases h with ⟨y, hy, hw, hn⟩ | ⟨hp, hr⟩
  · rw [hy]; simp only [Option.filter, hw, beq_self_eq_true, if_true]
    exact ⟨rfl, rfl, by simp [sh]; omega, .of rfl, .refl _⟩
  · have : p.payload.filter (·.word == w) = none := by
      unfold paysFor at hp
      cases hq : p.payload with
      | none => rfl
      | some q => rw [hq] at hp; simp_all [Option.filter]
    rw [this]
    exact m.read_smooth _ _ _ _ c ws (hg ▸ hr)

theorem Mio.readMat_smooth (m : Mio) (g : Agent) (p : Place) (w s r k f : Nat) (hg : g.ctx = p.ctxIx) (c : m.dev.Calm) (ws : m.waits = false)
    (sh : m.short = false) (h : ∀ i, i < r → m.dev.Feeds p w (i * s) (rowBytes f k)) : m.Smooth (m.readMat g p w s r k f).1 := by
  unfold Mio.readMat; dsimp only
  refine smooth_foldl m (fun i => i < r) (fun q i hi e => ?_) _ (m, []) (fun i hi => List.mem_range.1 hi) (.refl m)
  exact q.1.readOperand_smooth _ _ _ _ _ hg (e.calm c) (e.waits.trans ws) (e.short.trans sh) (e.feeds c (h i hi))

theorem Mio.flush_smooth (m : Mio) (p : Line → Bool) : m.Smooth (m.flush p) := by
  unfold Mio.flush; dsimp only
  have h : ∀ l : List Nat, m.Smooth (l.foldl Mio.touch m) :=
    fun l => smooth_fold m (fun _ => True) (fun r a _ _ => r.touch_smooth a) l m (fun _ _ => trivial) (.refl m)
  have k : ∀ r : Mio, m.Smooth r → m.Smooth { r with dev := r.dev.flushLines p } :=
    fun r e => e.trans (r.setDev_smooth _ (.flushLines _ _) (.flushLines _ _))
  exact k _ (h _)

theorem Mio.acquire_smooth (m : Mio) (x a n : Nat) : m.Smooth (m.acquire x a n) := by
  unfold Mio.acquire Mio.invalidate; dsimp only
  exact (m.flush_smooth _).trans (Mio.setDev_smooth _ _ (.dropLines _ _) (.dropLines _ _))

/-- Nothing that an operation acquires waits or fails (R97, R122). -/
theorem Dev.io_smooth (d : Dev) (p : Place) : Mio.Smooth { dev := d } (d.io p) := by
  unfold Dev.io
  refine smooth_fold { dev := d } (fun _ => True) (fun m f _ _ => ?_) _ _ (fun _ _ => trivial) (.refl _)
  split
  · refine smooth_fold m (fun _ => True) (fun m r _ _ => ?_) _ _ (fun _ _ => trivial) (.refl _)
    unfold Mio.acquireRef; split
    · exact m.acquire_smooth _ _ _
    · exact .refl _
  · exact .refl _

theorem Dev.io_done (d : Dev) (p : Place) : (d.io p).waits = false ∧ (d.io p).fault = false ∧ (d.io p).short = false :=
  have h := d.io_smooth p
  ⟨h.waits, h.fault, h.short⟩

/-! ## Operands and results of operations -/

/-- Memory work that began at `d` and has neither waited nor failed; where `d` serves everything, it still can read and write all that `d` could. -/
structure Mio.From (d : Dev) (m : Mio) : Prop where
  done : m.done
  calm : d.Calm → m.dev.Calm
  reads : ∀ {x a n : Nat}, d.Calm → d.Reads x a n → m.dev.Reads x a n
  writes : ∀ {x a n : Nat}, d.Calm → d.Writes x a n → m.dev.Writes x a n

theorem Mio.From.feeds {d : Dev} {m : Mio} (h : m.From d) (c : d.Calm) {p : Place} {w a n : Nat} (o : d.Feeds p w a n) : m.dev.Feeds p w a n :=
  o.imp id fun o => ⟨o.1, h.reads c o.2⟩

theorem Mio.Smooth.from {d : Dev} {m : Mio} (h : Mio.Smooth { dev := d } m) : m.From d :=
  ⟨⟨h.waits, h.fault, h.short⟩, h.calm, fun c o => h.reads c o, fun c o => h.writes c o⟩

theorem Mio.From.smooth {d : Dev} {m r : Mio} (h : m.From d) (k : m.Smooth r) : r.From d :=
  ⟨⟨k.waits.trans h.done.1, k.fault.trans h.done.2.1, k.short.trans h.done.2.2⟩, fun c => k.calm (h.calm c),
    fun c o => k.reads (h.calm c) (h.reads c o), fun c o => k.writes (h.calm c) (h.writes c o)⟩

theorem Dev.from (d : Dev) : Mio.From d { dev := d } := Mio.Smooth.from (.refl _)

theorem Dev.io_from (d : Dev) (p : Place) : (d.io p).From d := (d.io_smooth p).from

/-- Work goes on from a device with the same memory and the same contexts. -/
theorem Mio.From.setDev {d : Dev} {m : Mio} (h : m.From d) {e : Dev} (hm : e.mem = m.dev.mem) (hc : e.ctxs = m.dev.ctxs) :
    Mio.From d { m with dev := e } := by
  have hf : ∀ x a n, m.dev.Admitted x a n → e.Admitted x a n := fun x a n o => by unfold Dev.Admitted; rw [hm]; exact o
  have ht : ∀ x a n r w, e.translate x a n r w = m.dev.translate x a n r w := fun x a n r w => by
    unfold Dev.translate Dev.ctx; rw [hc]
  refine ⟨h.done, fun c => ?_, fun c o => ?_, fun c o => ?_⟩
  · have k := h.calm c
    exact ⟨hm ▸ k.1, fun a => (Mem.Gated.blocked (d := m.dev) (e := e) (hm ▸ .refl _) a).trans (k.2 a)⟩
  · obtain ⟨pa, i, t, o⟩ := h.reads c o
    exact ⟨pa, i, by rw [ht, t], hf _ _ _ o⟩
  · obtain ⟨pa, i, t, o⟩ := h.writes c o
    exact ⟨pa, i, by rw [ht, t], hf _ _ _ o⟩

theorem Mio.From.source {d : Dev} {m : Mio} (h : m.From d) {g : Agent} {p : Place} {w : Nat} (k : Nat → Nat → Nat) (hg : g.ctx = p.ctxIx)
    (s : d.Supplies p w) : (m.source g p w k).1.From d := by
  unfold Mio.source; dsimp only
  split
  · exact h
  · split
    · exact h
    · rename_i h1 h2
      rcases s with s | s | ⟨c, s⟩
      · exact absurd s h1
      · simp [s.1, s.2] at h2
      · exact h.smooth (m.readMat_smooth _ _ _ _ _ _ _ hg (h.calm c) h.done.1 h.done.2.2 fun i hi => h.feeds c (s i hi))

theorem Mio.From.sourceBy {d : Dev} {m : Mio} (h : m.From d) {g : Agent} {p : Place} {w : Nat} (hg : g.ctx = p.ctxIx)
    (s : d.Supplies p w) : (m.sourceBy g p w).1.From d := by
  unfold Mio.sourceBy; split
  · exact h
  · exact h.source _ hg s

theorem iter_from {d : Dev} {f : Mio → Mio} (hf : ∀ m, m.From d → (f m).From d) : ∀ (n : Nat) (m : Mio), m.From d → (iter f n m).From d
  | 0, _, h => h
  | n + 1, m, h => iter_from hf n _ (hf m h)

theorem length_leBytes : ∀ (w n : Nat), (leBytes w n).length = w
  | 0, _ => rfl
  | w + 1, n => by simp [leBytes, length_leBytes w]

theorem length_flatMap_const {α : Type} (f : α → List Byte) (n : Nat) (hf : ∀ a, (f a).length = n) : ∀ l : List α, (l.flatMap f).length = l.length * n
  | [] => by simp
  | a :: t => by rw [List.flatMap_cons, List.length_append, length_flatMap_const f n hf t, hf]; simp; ring

/-- A row takes whole 32-bit words (R85). -/
theorem length_codesRow (fmt : Nat) (cs : List Nat) : (codesRow fmt cs).length = rowBytes fmt cs.length := by
  unfold codesRow rowBytes
  have h : formatBits fmt = 4 ∨ formatBits fmt = 8 ∨ formatBits fmt = 16 ∨ formatBits fmt = 32 := by
    unfold formatBits; split <;> simp
  split
  · rename_i e
    rw [e]; unfold padTo
    rw [List.length_append, length_flatMap_const _ 1 (fun _ => length_leBytes _ _)]
    simp only [List.length_range, List.length_replicate, ceilDiv]; omega
  · rename_i w e
    unfold padTo
    rw [List.length_append, length_flatMap_const _ _ (fun _ => length_leBytes _ _)]
    simp only [List.length_replicate, ceilDiv]
    rcases h with h | h | h | h <;> rw [h] <;> first | exact absurd h e | omega

/-- Every row of a matrix has as many codes as it has columns. -/
def Mat.Full (x : Mat) : Prop := ∀ r, r < x.rows → (x.codes.getD r []).length = x.cols

theorem Mat.length_rowOut {x : Mat} (h : x.Full) {r : Nat} (hr : r < x.rows) : (x.rowOut r).1.length = rowBytes x.fmt x.cols := by
  unfold Mat.rowOut; dsimp only
  rw [length_codesRow]; congr 1
  unfold zeroBlocks; simp [List.length_map, List.length_zipIdx]
  have := h r hr
  simpa using this

theorem Mio.From.written {d : Dev} {m : Mio} (h : m.From d) {g : Agent} {o : Opref} {s n : Nat} {x : Mat} (hf : x.Full) (hn : rowBytes x.fmt x.cols = n)
    (c : d.Calm) (w : ∀ i, i < x.rows → d.Writes g.ctx (o.addr + i * s) n) : (m.writeMat g o s x).From d := by
  refine h.smooth ?_
  unfold Mio.writeMat; dsimp only
  refine smooth_fold m (fun i => i < x.rows) (fun r i hi e => ?_) _ _ (fun i hi => List.mem_range.1 hi) (.refl _)
  refine r.write_smooth _ _ _ _ _ (e.calm (h.calm c)) (e.waits.trans h.done.1) (.inr ?_)
  rw [Mat.length_rowOut hf hi, hn]; exact e.writes (h.calm c) (h.writes c (w i hi))

/-- A result whose rows its destination can take is delivered. -/
theorem Mio.From.delivers {d : Dev} {m : Mio} (h : m.From d) {p : Place} {w : Nat} {x : Mat} (hf : x.Full)
    (t : d.Takes p w x.rows (rowBytes x.fmt x.cols) (rowBytes x.fmt x.cols)) : m.delivers (p.op.ref w) (m.written d p w x) := by
  refine ⟨h.done, fun h1 h2 => ?_⟩
  rcases t with t | t | ⟨c, t⟩
  · exact absurd t h1
  · exact absurd t h2
  · exact (h.written hf rfl c t).done

end Sys2Proof.Machine
end

