-- ==== Sys2Proof/Laws/Deliver.lean ====
section
/-! SUPPORT. What the delivery of a result does: sending tiles under credits, and the result of an operation at its destination. -/

namespace Sys2Proof.Machine

/-- A tile stands in the queue of a route. -/
def Dev.Queued (d : Dev) (t : Tile) : Prop := ∃ r ∈ d.routes, ∃ y ∈ r.queue, y.tile = t

/-- A tile that is sent stands in the queue of its route, and tiles in queues stay. -/
theorem Dev.sendOn_queued {d : Dev} {i : Nat} {r : Route} (p : Place) (t : Tile) (h : d.routes[i]? = some r) :
    (d.sendOn i p t).Queued t ∧ ∀ u, d.Queued u → (d.sendOn i p t).Queued u := by
  obtain ⟨hi, hr⟩ := List.getElem?_eq_some_iff.1 h
  have hm : ∀ j (hj : j < (d.sendOn i p t).routes.length), (d.sendOn i p t).routes[j] ∈ (d.sendOn i p t).routes :=
    fun j hj => List.getElem_mem hj
  have hl : (d.sendOn i p t).routes.length = d.routes.length := by simp [Dev.sendOn]
  refine ⟨⟨_, hm i (by omega), ⟨t, if p.op.widens then p.partner else none⟩, by simp [Dev.sendOn], rfl⟩, ?_⟩
  rintro u ⟨q, hq, y, hy, hu⟩
  obtain ⟨j, hj, rfl⟩ := List.getElem_of_mem hq
  refine ⟨_, hm j (by omega), y, ?_, hu⟩
  simp only [Dev.sendOn, List.getElem_modify]
  split
  · exact List.mem_append.2 (.inl hy)
  · exact hy

/-- A fold of sends: each tile is on a route or kept, and only routes change. -/
theorem sends_spec {f : Dev × List Tile × List Nat → Tile → Dev × List Tile × List Nat} (p : Place)
    (hf : ∀ a t, (f a t).1 = a.1 ∧ (f a t).2.1 = a.2.1 ++ [t] ∨
      ∃ i r, a.1.routes[i]? = some r ∧ f a t = (a.1.sendOn i p t, a.2)) : ∀ (ts : List Tile) (a : Dev × List Tile × List Nat),
    (∀ t ∈ ts, t ∈ (ts.foldl f a).2.1 ∨ (ts.foldl f a).1.Queued t) ∧
      (∀ t ∈ a.2.1, t ∈ (ts.foldl f a).2.1) ∧
      (∀ u, a.1.Queued u → (ts.foldl f a).1.Queued u) ∧
      (ts.foldl f a).1 = { a.1 with routes := (ts.foldl f a).1.routes }
  | [], a => ⟨by simp, fun _ h => h, fun _ h => h, rfl⟩
  | t :: ts, a => by
    rw [List.foldl_cons]
    obtain ⟨h1, h2, h3, h4⟩ := sends_spec p hf ts (f a t)
    rcases hf a t with ⟨ha, hb⟩ | ⟨i, r, hr, h⟩
    · rw [ha] at h3 h4
      refine ⟨fun u hu => ?_, fun u hu => h2 u (by simp [hb, hu]), h3, h4⟩
      rcases List.mem_cons.1 hu with rfl | hu
      · exact .inl (h2 u (by simp [hb]))
      · exact h1 u hu
    · obtain ⟨g1, g2⟩ := Dev.sendOn_queued p t hr
      rw [h] at h1 h2 h3 h4 ⊢
      refine ⟨fun u hu => ?_, h2, fun u hu => h3 u (g2 u hu), h4⟩
      rcases List.mem_cons.1 hu with rfl | hu
      · exact .inr (h3 u g1)
      · exact h1 u hu

/-- Sending the tiles of an operation: each is on a route or stays, and only routes change. -/
theorem Dev.sendAll_spec (d : Dev) (p : Place) (ts : List Tile) :
    (∀ t ∈ ts, t ∈ (d.sendAll p ts).2.1 ∨ (d.sendAll p ts).1.Queued t) ∧
      (d.sendAll p ts).1 = { d with routes := (d.sendAll p ts).1.routes } := by
  unfold Dev.sendAll
  refine (fun h => ⟨h.1, h.2.2.2⟩) (sends_spec p (fun a t => ?_) ts (d, [], []))
  cases a.1.routeOf p t with
  | none => exact .inl ⟨rfl, rfl⟩
  | some i =>
    dsimp only
    cases hr : a.1.routes[i]? with
    | none => rw [if_pos (by simp)]; exact .inl ⟨rfl, rfl⟩
    | some r =>
      split
      · exact .inl ⟨rfl, rfl⟩
      · exact .inr ⟨i, r, hr, rfl⟩

/-- Sending tiles: each is on a route or waits with the place; the place changes in its unsent tiles, stall and excursions. -/
theorem Dev.sendTiles_spec {d : Dev} {p q : Place} (ts : List Tile) (hq : d.place p.id = some q) :
    ∃ e q', d.sendTiles p ts = e ∧ e.place p.id = some q' ∧ q' = { q with unsent := q'.unsent, stall := q'.stall, excursions := q'.excursions } ∧
      (∀ t ∈ ts, t ∈ q'.unsent ∨ e.Queued t) ∧ (q'.unsent ≠ [] → q'.stall = .routeCredit) ∧
      (∀ j, j ≠ p.id → e.place j = d.place j) ∧
      ∃ x, e = { d with board := e.board, routes := e.routes, qlk := x } := by
  unfold Dev.sendTiles
  dsimp only
  obtain ⟨h1, h4⟩ := d.sendAll_spec p ts
  generalize d.sendAll p ts = r at *
  have hb : r.1.board = d.board := by rw [h4]
  have hp1 := Dev.place_upd_of (e := r.1) (fun q => { q with unsent := r.2.1 }) hb hq (fun _ => rfl)
  have ho1 : ∀ j, j ≠ p.id → (r.1.updPlace p.id fun q => { q with unsent := r.2.1 }).place j = d.place j := by
    intro j hj
    rw [Dev.place_updPlace_other (by intro q h; exact h) hj]; unfold Dev.place; rw [hb]
  split
  · rename_i hemp
    have hp2 := Dev.place_upd_again (fun q => { q with stall := .none }) hp1 (fun _ => rfl)
    refine ⟨_, _, rfl, hp2, rfl, h1, fun h => absurd (by simpa using hemp) h, fun j hj => ?_, d.qlk, ?_⟩
    · rw [Dev.place_updPlace_other (by intro q h; exact h) hj, ho1 j hj]
    · have : ∀ (A : Dev) f g, ((A.updPlace p.id f).updPlace p.id g) = { A with board := ((A.updPlace p.id f).updPlace p.id g).board } := fun _ _ _ => rfl
      rw [this, h4]
  · obtain ⟨hp2, x, h5⟩ := Dev.stallPlace_spec _ p .routeCredit _ hp1
    refine ⟨_, _, rfl, hp2, rfl, fun t ht => ?_, fun _ => rfl, fun j hj => ?_, x, ?_⟩
    · rcases h1 t ht with h | ⟨g, hg, hu⟩
      · exact .inl h
      · refine .inr ⟨g, ?_, hu⟩
        rw [h5]; exact hg
    · rw [Dev.stallPlace_other _ _ _ hj, ho1 j hj]
    · have : ∀ (A : Dev) f, A.updPlace p.id f = { A with board := (A.updPlace p.id f).board } := fun _ _ => rfl
      rw [h5, this, h4]

/-- A place that memory work has noted. -/
@[simp] theorem Place.noted_status (q : Place) (m : Mio) : (q.noted m).status = q.status := rfl
@[simp] theorem Place.noted_flags (q : Place) (m : Mio) : (q.noted m).flags = q.flags := rfl
@[simp] theorem Place.noted_phase (q : Place) (m : Mio) : (q.noted m).phase = q.phase := rfl
@[simp] theorem Place.noted_id (q : Place) (m : Mio) : (q.noted m).id = q.id := rfl
@[simp] theorem Place.noted_epoch (q : Place) (m : Mio) : (q.noted m).epoch = q.epoch := rfl

/-- The fields of a scratchpad read back by bytes. -/
theorem Dev.padRead_of {e : Dev} {k : Core} {c a : Nat} {bs : List Byte} {po : List Bool} (h : (e.core c).SamePad (k.padWrite a bs po))
    (hl : po.length = bs.length) : e.padRead c a bs.length = bs ∧ e.padBad c a bs.length = po := by
  constructor
  · unfold Dev.padRead
    apply List.ext_getElem
    · simp
    · intro n h8 h9
      simp only [List.getElem_map, List.getElem_range]
      rw [h.1, Core.padByte_padWrite, if_pos ⟨by omega, by omega⟩]
      simp [List.getD_eq_getElem?_getD, h9]
  · unfold Dev.padBad
    apply List.ext_getElem
    · simp [hl]
    · intro n h8 h9
      simp only [List.getElem_map, List.getElem_range]
      rw [h.2, Core.padPoison_padWrite, if_pos ⟨by omega, by omega⟩]
      simp [List.getD_eq_getElem?_getD, h9]

/-- A row goes out with its poison byte by byte. -/
theorem Mat.rowOuts_length (x : Mat) : ∀ (l : List Nat),
    ((l.map x.rowOut).flatMap (·.2)).length = ((l.map x.rowOut).flatMap (·.1)).length
  | [] => rfl
  | r :: l => by
    have := Mat.rowOuts_length x l
    simp only [List.map_cons, List.flatMap_cons, List.length_append, this]
    simp [Mat.rowOut]

/-- How the place of a delivery is finished: `f` on top of the common end, with the poison of the result. -/
def deliverEnd (f : Place → Place) (x : Mat) (q : Place) : Place :=
  f { q.finish with flags := { q.flags with poisoned := q.flags.poisoned || x.anyPoison } }

/-- A change of a finished place that leaves what a delivery says of it. -/
def Keeps (f : Place → Place) : Prop :=
  ∀ a, (f a).id = a.id ∧ (f a).phase = a.phase ∧ (f a).status = a.status ∧ (f a).flags.poisoned = a.flags.poisoned

theorem Keeps.id : Keeps fun a => a := fun _ => ⟨rfl, rfl, rfl, rfl⟩

theorem deliverEnd_id {f : Place → Place} (hf : Keeps f) (x : Mat) (a : Place) : (deliverEnd f x a).id = a.id := (hf _).1
theorem deliverEnd_phase {f : Place → Place} (hf : Keeps f) (x : Mat) (a : Place) : (deliverEnd f x a).phase = .finished := (hf _).2.1
theorem deliverEnd_status {f : Place → Place} (hf : Keeps f) (x : Mat) (a : Place) : (deliverEnd f x a).status = a.status := (hf _).2.2.1
theorem deliverEnd_poisoned {f : Place → Place} (hf : Keeps f) (x : Mat) (a : Place) :
    (deliverEnd f x a).flags.poisoned = (a.flags.poisoned || x.anyPoison) := (hf _).2.2.2

/-- What a delivery leaves: the device and the place, and how the place came about. -/
def DeliverDone (d : Dev) (p q : Place) (m : Mio) (w : Nat) (x : Mat) (f : Place → Place) : Prop :=
  ∃ e q' n, d.deliver p m w x f = e ∧ Delivered m p w x (m.written d p w x) e q' ∧
    q' = { deliverEnd f x (q.noted n) with unsent := q'.unsent, stall := q'.stall, excursions := q'.excursions }

theorem Dev.updPlace_other' {A : Dev} {i j : Nat} (g : Place → Place) (hg : ∀ q, (g q).id = q.id) (hj : j ≠ i) :
    (A.updPlace i g).place j = A.place j := Dev.place_updPlace_other (fun q h => (hg q).trans h) hj

theorem Dev.deliver_stream {d : Dev} {p q : Place} {m : Mio} {w : Nat} {x : Mat} {f : Place → Place} (hp : m.dev.place p.id = some q)
    (hs : q.status = p.status) (hpo : q.flags.poisoned = p.flags.poisoned) (hdone : m.done) (hf : Keeps f) (h1 : (p.op.ref w).kind = 1) :
    DeliverDone d p q m w x f := by
  have e0 : d.deliver p m w x f = d.conclude p m fun d => (d.updPlace p.id (deliverEnd f x)).produce p (x.tiles (p.op.ref w).addr p.op.seqBase 0) := by
    unfold Dev.deliver; dsimp only; rw [h1]; rfl
  obtain ⟨e', h2', h3', h4', h5'⟩ := Dev.conclude_done (d := d) (fun d => (d.updPlace p.id (deliverEnd f x)).produce p (x.tiles (p.op.ref w).addr p.op.seqBase 0)) hp hdone
  rw [h2'] at e0
  have h6 := Dev.place_upd_again (deliverEnd f x) h4' (deliverEnd_id hf x)
  have h6' : ((e'.updPlace p.id (deliverEnd f x)).countTiles p (x.tiles (p.op.ref w).addr p.op.seqBase 0).length).place p.id = some (deliverEnd f x (q.noted m)) := h6
  obtain ⟨g, q', k1, k2, k3, k4, k4s, k5, x', k7⟩ := Dev.sendTiles_spec (p := p) (x.tiles (p.op.ref w).addr p.op.seqBase 0) h6'
  refine ⟨g, q', m, e0.trans k1, ⟨k2, ?_, ?_, ?_, fun _ ts hts => ⟨?_, ?_, k4s⟩, fun h => absurd (h1.symm.trans h) (by decide), fun h => absurd h1 h, ?_, ?_, ?_, fun j hj => ?_⟩, k3⟩
  · rw [k3]; exact deliverEnd_phase hf x _
  · rw [k3]; exact (deliverEnd_status hf x _).trans hs
  · rw [k3]; refine (deliverEnd_poisoned hf x _).trans ?_; rw [← hpo]; rfl
  · subst hts; rw [k7]
    have := Dev.slot_updSlot (e'.updPlace p.id (deliverEnd f x)) p.slot p.slot fun k => { k with tiles := add64 k.tiles (x.tiles (p.op.ref w).addr p.op.seqBase 0).length }
    rw [if_pos rfl] at this
    refine (congrArg Slot.tiles this).trans ?_
    have h8 : (e'.updPlace p.id (deliverEnd f x)).slot p.slot = m.dev.slot p.slot := by rw [h3']; rfl
    rw [h8]; rfl
  · subst hts; exact k4
  · rw [k7]; show e'.rings = _; rw [h3']
  · rw [k7]; show e'.layout = _; rw [h3']
  · rw [k7]; show e'.trk = _; rw [h3']
  · rw [k5 j hj]; exact (Dev.updPlace_other' _ (deliverEnd_id hf x) hj).trans (h5' j hj)

/-- Writing the scratchpads of an operation changes the cores only. -/
theorem Dev.padWriteOp_rest (d : Dev) (p : Place) (a : Nat) (bs : List Byte) (po : List Bool) :
    ∃ c, d.padWriteOp p a bs po = { d with cores := c } := by
  unfold Dev.padWriteOp; split
  · exact ⟨_, rfl⟩
  · exact Dev.padWrites_rest _ _ _ _ _

/-- What is written to the scratchpads of an operation reads back there. -/
theorem Dev.padWriteOp_read {d : Dev} {p : Place} (hop : p.op.opcode ≠ 0x12) (a : Nat) {bs : List Byte} {po : List Bool}
    (hl : po.length = bs.length) {c : Nat} (hc : c ∈ d.opCores p) :
    (d.padWriteOp p a bs po).padRead c a bs.length = bs ∧ (d.padWriteOp p a bs po).padBad c a bs.length = po := by
  have h7 := Dev.core_padWrites a bs po (d.opCores p) d c
  rw [if_pos hc] at h7
  unfold Dev.padWriteOp
  rw [if_neg hop]
  exact Dev.padRead_of h7 hl

theorem Dev.deliver_pads {d : Dev} {p q : Place} {m : Mio} {w : Nat} {x : Mat} {f : Place → Place} (hp : m.dev.place p.id = some q)
    (hs : q.status = p.status) (hpo : q.flags.poisoned = p.flags.poisoned) (hdone : m.done) (hf : Keeps f) (h2 : (p.op.ref w).kind = 2) :
    DeliverDone d p q m w x f := by
  have h1 : (p.op.ref w).kind ≠ 1 := by omega
  have hlen := x.rowOuts_length (List.range x.rows)
  generalize hbs : ((List.range x.rows).map x.rowOut).flatMap (·.1) = bs at hlen
  generalize hpos : ((List.range x.rows).map x.rowOut).flatMap (·.2) = po at hlen
  have e0 : d.deliver p m w x f = d.conclude p m fun d => (d.padWriteOp p (p.op.ref w).addr bs po).updPlace p.id (deliverEnd f x) := by
    unfold Dev.deliver; dsimp only; rw [h2, hbs, hpos]; rfl
  obtain ⟨e', h2', h3', h4', h5'⟩ := Dev.conclude_done (d := d) (fun d => (d.padWriteOp p (p.op.ref w).addr bs po).updPlace p.id (deliverEnd f x)) hp hdone
  rw [h2'] at e0
  obtain ⟨cs, hcs⟩ := e'.padWriteOp_rest p (p.op.ref w).addr bs po
  have hcores : e'.opCores p = m.dev.opCores p := by unfold Dev.opCores; rw [h3']
  have hread := fun (hop : p.op.opcode ≠ 0x12) (c : Nat) (hc : c ∈ m.dev.opCores p) =>
    Dev.padWriteOp_read (d := e') hop (p.op.ref w).addr hlen (hcores ▸ hc)
  have hupd : ∀ (A : Dev) (g : Place → Place) (c n : Nat), (A.updPlace p.id g).padRead c (p.op.ref w).addr n = A.padRead c (p.op.ref w).addr n ∧
      (A.updPlace p.id g).padBad c (p.op.ref w).addr n = A.padBad c (p.op.ref w).addr n := fun _ _ _ _ => ⟨rfl, rfl⟩
  have hplace : (e'.padWriteOp p (p.op.ref w).addr bs po).place p.id = some (q.noted m) := by rw [hcs]; exact h4'
  have hoth : ∀ j, j ≠ p.id → (e'.padWriteOp p (p.op.ref w).addr bs po).place j = m.dev.place j := by
    intro j hj; rw [hcs]; exact h5' j hj
  have hr : (e'.padWriteOp p (p.op.ref w).addr bs po).rings = m.dev.rings ∧ (e'.padWriteOp p (p.op.ref w).addr bs po).layout = m.dev.layout ∧
      (e'.padWriteOp p (p.op.ref w).addr bs po).trk = m.dev.trk := by rw [hcs, h3']; exact ⟨rfl, rfl, rfl⟩
  generalize e'.padWriteOp p (p.op.ref w).addr bs po = A at *
  refine ⟨A.updPlace p.id (deliverEnd f x), deliverEnd f x (q.noted m), m, e0, ⟨?_, ?_, ?_, ?_, ?_, ?_, ?_, hr.1, hr.2.1, hr.2.2, ?_⟩, rfl⟩
  · exact Dev.place_upd_again (deliverEnd f x) hplace (deliverEnd_id hf x)
  · exact deliverEnd_phase hf x _
  · exact (deliverEnd_status hf x _).trans hs
  · refine (deliverEnd_poisoned hf x _).trans ?_; rw [← hpo]; rfl
  · exact fun h => absurd h h1
  · intro _ hop rs hrs c hc
    rw [hrs, hbs, hpos, (hupd _ _ _ _).1, (hupd _ _ _ _).2]
    exact hread hop c hc
  · exact fun _ h => absurd h2 h
  · exact fun j hj => (Dev.updPlace_other' _ (deliverEnd_id hf x) hj).trans (hoth j hj)

theorem Dev.deliver_mem {d : Dev} {p q : Place} {m : Mio} {w : Nat} {x : Mat} {f : Place → Place} (hp : m.dev.place p.id = some q)
    (hs : q.status = p.status) (hpo : q.flags.poisoned = p.flags.poisoned) (hn : (m.written d p w x).done) (hf : Keeps f)
    (h1 : (p.op.ref w).kind ≠ 1) (h2 : (p.op.ref w).kind ≠ 2) : DeliverDone d p q m w x f := by
  have e0 : d.deliver p m w x f = d.conclude p (m.written d p w x) fun d => d.updPlace p.id (deliverEnd f x) := by
    unfold Dev.deliver; dsimp only
    split
    · rename_i h; exact absurd h h1
    · rename_i h; exact absurd h h2
    · rfl
  have hwo : m.dev.WorkOnly (m.written d p w x).dev := m.work_writeMat (d.agent p) (p.op.ref w) (rowBytes x.fmt x.cols) x
  unfold DeliverDone
  generalize m.written d p w x = n at *
  have hp' : n.dev.place p.id = some q := (hwo.place _).trans hp
  obtain ⟨e', h2', h3', h4', h5'⟩ := Dev.conclude_done (d := d) (fun d => d.updPlace p.id (deliverEnd f x)) hp' hn
  rw [h2'] at e0
  refine ⟨_, deliverEnd f x (q.noted n), n, e0, ⟨?_, ?_, ?_, ?_, fun h => absurd h h1, fun h => absurd h h2, fun _ _ => ⟨?_, ?_⟩, ?_, ?_, ?_, fun j hj => ?_⟩, rfl⟩
  · exact Dev.place_upd_again (deliverEnd f x) h4' (deliverEnd_id hf x)
  · exact deliverEnd_phase hf x _
  · exact (deliverEnd_status hf x _).trans hs
  · refine (deliverEnd_poisoned hf x _).trans ?_; rw [← hpo]; rfl
  · show e'.mem = _; rw [h3']
  · show e'.cache = _; rw [h3']
  · show e'.rings = _; rw [h3']; exact hwo.rings
  · show e'.layout = _; rw [h3']; exact hwo.layout
  · show e'.trk = _; rw [h3']; exact hwo.trk
  · exact ((Dev.updPlace_other' _ (deliverEnd_id hf x) hj).trans (h5' j hj)).trans (hwo.place j)

/-- The outcome of a delivery whose work and writes are done. -/
theorem Dev.deliver_done {d : Dev} {p q : Place} {m : Mio} {w : Nat} {x : Mat} {f : Place → Place} (hp : m.dev.place p.id = some q)
    (hs : q.status = p.status) (hpo : q.flags.poisoned = p.flags.poisoned) (hd : m.delivers (p.op.ref w) (m.written d p w x))
    (hf : Keeps f) : DeliverDone d p q m w x f := by
  by_cases h1 : (p.op.ref w).kind = 1
  · exact Dev.deliver_stream hp hs hpo hd.1 hf h1
  · by_cases h2 : (p.op.ref w).kind = 2
    · exact Dev.deliver_pads hp hs hpo hd.1 hf h2
    · exact Dev.deliver_mem hp hs hpo (hd.2 h1 h2) hf h1 h2

end Sys2Proof.Machine
end

