-- ==== Sys2Proof/Laws/Gather.lean ====
section
/-! SUPPORT. What the reads and charges of gathers change: memory work, and nothing else. -/

namespace Sys2Proof.Machine

theorem Dev.WorkOnly.countBytes (d : Dev) (k n : Nat) : d.WorkOnly (d.updSlot k fun s => { s with bytes := add64 s.bytes n }) := by
  refine ⟨⟨_, _, _, _, _, _, _, _, _, rfl⟩, ⟨_, _, _, rfl⟩, fun j => ?_, fun _ => ⟨_, _, _, _, rfl⟩, fun _ => ⟨_, _, _, _, _, rfl⟩⟩
  rw [Dev.slot_updSlot]; split
  · rename_i h; subst h; exact ⟨_, rfl⟩
  · exact ⟨_, rfl⟩

theorem Mio.work_gatherCharge (m : Mio) (p : Place) (l : List Nat) : m.dev.WorkOnly (m.gatherCharge p l).dev :=
  (Dev.WorkOnly.chargeAtoms m.dev _ _).trans (.countBytes _ _ _)

theorem Dev.WorkOnly.countRows (d : Dev) (p : Place) (n : Nat) : d.WorkOnly (d.countRows p n) :=
  .meter _ _ _ fun _ => ⟨_, _, _, _, rfl⟩

theorem Dev.WorkOnly.chargePartials (d : Dev) (p : Place) (g : List (List RowVal)) (b : Nat → Nat) : d.WorkOnly (d.chargePartials p g b) := by
  unfold Dev.chargePartials; dsimp only
  refine Dev.WorkOnly.foldl (fun d s => ?_) _ _
  split
  · exact .refl _
  · exact .chargeRemote _ _ _ _

theorem Dev.WorkOnly.shipResult (d : Dev) (p : Place) (t : TableRec) (x n : Nat) : d.WorkOnly (d.shipResult p t x n) :=
  (Dev.WorkOnly.meter _ _ _ fun _ => ⟨_, _, _, _, rfl⟩).trans (.post _ _)

theorem Dev.WorkOnly.chargeResults (d : Dev) (p : Place) (t : TableRec) (x : Mat) (w : Bool) (s : List (List Nat)) :
    d.WorkOnly (d.chargeResults p t x w s) :=
  Dev.WorkOnly.foldl (fun _ _ => Dev.WorkOnly.foldl (fun d _ => .shipResult d _ _ _ _) _ _) _ _

theorem Dev.WorkOnly.noteParity (d : Dev) (u : Nat) (n : Option Nat) : d.WorkOnly (d.noteParity u n) :=
  ⟨⟨_, _, _, _, _, _, _, _, _, rfl⟩, ⟨_, _, _, rfl⟩, fun _ => ⟨_, rfl⟩, fun _ => ⟨_, _, _, _, rfl⟩, fun _ => ⟨_, _, _, _, _, rfl⟩⟩

theorem Mio.work_noteMismatch (m : Mio) (p : Place) (l : List Nat) : m.dev.WorkOnly (m.noteMismatch p l).dev :=
  Dev.WorkOnly.foldl (fun d _ => .noteParity d _ _) _ _

theorem Mio.work_tableAtoms (m : Mio) (p : Place) (l : List Nat) : m.dev.WorkOnly (m.tableAtoms p l).1.dev := by
  unfold Mio.tableAtoms
  refine work_foldl (fun q : Mio × List (List Byte × Bool) => q.1.dev) (fun r a => ?_) _ _ (.refl _)
  split
  · exact .refl _
  · exact r.1.work_readMem _ _

theorem Mio.work_stagedAtoms (m : Mio) (p : Place) (l : List Nat) : m.dev.WorkOnly (m.stagedAtoms p l).1.dev := by
  unfold Mio.stagedAtoms
  refine work_foldl (fun q : Mio × List (List Byte × Bool) => q.1.dev) (fun r a => ?_) _ _ (.refl _)
  have h := r.1.reach_dev (64 * a)
  dsimp only
  split
  · exact h ▸ .refl _
  · dsimp only; rw [h]; exact ((Dev.MemOnly.refl _).readAtom _ _ _).work

theorem Mio.lookup_dev (m : Mio) (t : TableRec) (r : Nat) : (m.lookup t r).dev = m.dev := by unfold Mio.lookup; split <;> rfl

theorem Mio.work_rowAtoms (m : Mio) (p : Place) (t : TableRec) (w r e : Nat) : m.dev.WorkOnly (m.rowAtoms p t w r e).1.dev := by
  unfold Mio.rowAtoms; dsimp only
  have h := m.lookup_dev t r
  split
  · exact h ▸ .refl _
  · split
    · exact h ▸ Mio.work_stagedAtoms _ _ _
    · exact h ▸ Mio.work_tableAtoms _ _ _

theorem Dev.WorkOnly.dropStaleRow (d : Dev) (p : Place) (t : TableRec) (r e : Nat) : d.WorkOnly (d.dropStaleRow p t r e) := by
  unfold Dev.dropStaleRow; dsimp only
  split
  · exact (Dev.WorkOnly.dropLines _ _).trans (.dropLines _ _)
  · exact .dropLines _ _

theorem Mio.work_readRow (m : Mio) (p : Place) (t : TableRec) (w r e c : Nat) : m.dev.WorkOnly (m.readRow p t w r e c).1.dev := by
  unfold Mio.readRow; dsimp only
  split
  · exact .refl _
  · split
    · exact .refl _
    · split
      · exact Dev.WorkOnly.foldl (fun d l => .hitLine d l _ _) _ _
      · exact ((Dev.WorkOnly.dropStaleRow _ _ _ _ _).trans (Mio.work_rowAtoms { m with dev := _ } _ _ _ _ _)).trans (Mio.work_gatherCharge _ _ _)

theorem Mio.work_readDefault (m : Mio) (p : Place) (t : TableRec) : m.dev.WorkOnly (m.readDefault p t).1.dev := by
  unfold Mio.readDefault
  split
  · exact .refl _
  · exact (m.work_tableAtoms _ _).trans (Mio.work_gatherCharge _ _ _)

theorem Mio.work_readWindow (m : Mio) (p : Place) (t : TableRec) (e i : Nat) (w : List (Option Nat)) : m.dev.WorkOnly (m.readWindow p t e i w).1.dev := by
  unfold Mio.readWindow; dsimp only
  refine work_foldl (fun q : Mio × List (Option Nat × RowVal) => q.1.dev) (fun a k => ?_) _ _ (.refl _)
  split
  · exact .refl _
  · dsimp only; split
    · exact a.1.work_readRow _ _ _ _ _ _
    · exact a.1.work_readDefault _ _

theorem Mio.work_readRows (m : Mio) (p : Place) (t : TableRec) (e : Nat) (rows : List (Option Nat)) : m.dev.WorkOnly (m.readRows p t e rows).1.dev := by
  unfold Mio.readRows
  refine work_foldl (fun q : Mio × List RowVal => q.1.dev) (fun a w => ?_) _ _ (.refl _)
  exact a.1.work_readWindow _ _ _ _ _

theorem Place.work_gathered (p : Place) (t : TableRec) (m : Mio) (es : List (List OutElem)) (bad : List Bool) (f : Bool) (s : List (List Nat)) :
    m.dev.WorkOnly (p.gathered t m es bad f s).work.dev := .chargeResults _ _ _ _ _ _

/-- Rows, partial results and mismatches are counted after the rows have been read. -/
theorem Mio.work_counted (m : Mio) (p : Place) (n : Nat) (g : List (List RowVal)) (b : Nat → Nat) (l : List Nat) :
    m.dev.WorkOnly (({ m with dev := (m.dev.countRows p n).chargePartials p g b } : Mio).noteMismatch p l).dev :=
  ((Dev.WorkOnly.countRows m.dev _ _).trans (.chargePartials _ _ _ _)).trans (Mio.work_noteMismatch { m with dev := _ } _ _)

theorem Dev.work_gatherResult (d : Dev) (p : Place) (l : List Nat) : d.WorkOnly (d.gatherResult p l).work.dev := by
  unfold Dev.gatherResult; dsimp only
  exact (((d.work_io p).trans (Mio.work_readOperand _ _ _ _ _ _)).trans (Mio.work_readRows _ _ _ _ _)).trans
    ((Mio.work_counted _ _ _ _ _ _).trans (Place.work_gathered _ _ _ _ _ _ _))

/-- A read of a list that may be empty. -/
theorem Mio.work_readList (m : Mio) (g : Agent) (p : Place) (w n : Nat) {c : Prop} [Decidable c] (e : List Byte × List Bool) :
    m.dev.WorkOnly (if c then (m, e) else m.readOperand g p w 0 n).1.dev := by
  split
  · exact .refl _
  · exact m.work_readOperand _ _ _ _ _

theorem Dev.work_poolBags (d : Dev) (p : Place) (t : TableRec) (m : Mio) (ns l : List Nat) : m.dev.WorkOnly (d.poolBags p t m ns l).work.dev := by
  unfold Dev.poolBags; dsimp only
  refine Dev.WorkOnly.trans ?_ (Place.work_gathered _ _ _ _ _ _ _)
  refine Dev.WorkOnly.trans ?_ (Mio.work_counted _ _ _ _ _ _)
  refine Dev.WorkOnly.trans ?_ (Mio.work_readRows _ _ _ _ _)
  refine Dev.WorkOnly.trans ?_ (Mio.work_readList _ _ _ _ _ _)
  refine Dev.WorkOnly.trans ?_ (Mio.work_readList _ _ _ _ _ _)
  exact (m.work_acquireRef p 0 0 _).trans (Mio.work_acquireRef _ p 5 0 _)

theorem Mio.work_writeOut (m : Mio) (x a n : Nat) : m.dev.WorkOnly (m.writeOut x a n).dev := by
  unfold Mio.writeOut
  split
  · exact .refl _
  · split
    · rename_i l _; exact (m.reach_dev (64 * l.atom)) ▸ .refl _
    · exact m.work_flush _

end Sys2Proof.Machine
end

