-- ==== Sys2Proof/Laws/Trk.lean ====
section
/-! SUPPORT. What taking up a new trick state does beside it: the records that are new or changed are written to memory, and nothing else
of the device changes. The record of decisions touches the commit log alone (R226, R233, R247). -/

namespace Sys2Proof.Machine

theorem Dev.MemOnly.foldl {α : Type} {f : Dev → α → Dev} (hf : ∀ {a b : Dev} (x : α), a.MemOnly b → a.MemOnly (f b x)) :
    ∀ (l : List α) {a b : Dev}, a.MemOnly b → a.MemOnly (l.foldl f b)
  | [], _, _, h => h
  | x :: t, _, _, h => foldl hf t (hf x h)

theorem Dev.MemOnly.putAtom {a b : Dev} (h : a.MemOnly b) (x : Nat) (bs : List Byte) (p : Bool) : a.MemOnly (b.putAtom x bs p) := by
  unfold Dev.putAtom
  split
  · exact h.updStack _ _
  · dsimp only
    split
    · exact (h.writeAtom x bs _).setMem _
    · exact h.writeAtom x bs _

theorem Dev.MemOnly.writeStaged {a b : Dev} (h : a.MemOnly b) (old : List Staged) (r : Staged) : a.MemOnly (b.writeStaged old r) := by
  unfold Dev.writeStaged; dsimp only
  split
  · exact h.putAtom _ _ _
  · exact foldl (fun _ g => g.putAtom _ _ _) _ (h.putAtom _ _ _)

/-- The device takes up the trick state, and memory changes; nothing else does. -/
theorem Dev.setTrk_memOnly (d : Dev) (k : Trk) : ({ d with trk := k } : Dev).MemOnly (d.setTrk k) := by
  unfold Dev.setTrk
  exact .foldl (fun _ g => g.putAtom _ _ _) _ (.foldl (fun _ g => g.writeStaged _ _) _ (.refl _))

@[simp] theorem Dev.setTrk_trk (d : Dev) (k : Trk) : (d.setTrk k).trk = k := by
  obtain ⟨m, l, r, h⟩ := d.setTrk_memOnly k; rw [h]

@[simp] theorem Trk.recordDecision_tricks (k : Trk) (b : Bool) (h v st e : Nat) : (k.recordDecision b h v st e).tricks = k.tricks := by
  unfold Trk.recordDecision; dsimp only; repeat' split
  all_goals rfl

/-- The records of decisions change the commit log and memory; the tricks stay. -/
theorem Dev.recordDecisions_spec (d : Dev) (b : Bool) (ds : List (Nat × Nat)) (st e : Nat) :
    ∃ k, k.tricks = d.trk.tricks ∧ (d.recordDecisions b ds st e).trk = k ∧ ({ d with trk := k } : Dev).MemOnly (d.recordDecisions b ds st e) := by
  refine ⟨_, ?_, Dev.setTrk_trk d _, d.setTrk_memOnly _⟩
  have : ∀ (l : List (Nat × Nat)) (k : Trk), (l.foldl (fun (k : Trk) r => k.recordDecision b r.1 r.2 st e) k).tricks = k.tricks := by
    intro l
    induction l with
    | nil => exact fun _ => rfl
    | cons r t ih => intro k; rw [List.foldl_cons, ih, Trk.recordDecision_tricks]
  exact this ds d.trk

end Sys2Proof.Machine
end

