-- ==== Sys2Proof/WellFormed.lean ====
section
/-! DEFINITION. When a command is well formed: every index lies in the range the manual gives the thing it names, a
value fits its register, an offset its BAR (R9 to R14, R16, R18, R415). A command outside this names nothing. -/

namespace Sys2Proof

open Machine

/-- The bytes of BAR0 of a function (R415). -/
def Machine.Fn.barSize : Fn → Nat
  | .pf => 0x4000000
  | .vf _ => 0x10000

/-- The function exists: there are 64 virtual functions (R415). -/
def Machine.Fn.ok : Fn → Bool
  | .pf => true
  | .vf n => decide (n < 64)

/-- A request lies within one atom of the 40-bit address space (R16, R30). -/
def Machine.MemReq.inAtom (r : MemReq) : Bool :=
  decide (r.addr < 2 ^ 40) &&
  match r.write with
  | none => true
  | some bs => decide (0 < bs.length ∧ r.addr % 64 + bs.length ≤ 64)

/-- The symbols of an upset are those of the 72-symbol codeword (R349), and no error value is 0; so too of what a re-read finds. -/
def Machine.Upset.wf (u : Upset) : Bool := (u.symbols ++ u.reread).all fun p => decide (p.1 < 72 ∧ p.2 ≠ 0)

/-- A well-formed command (log 126). -/
def Instr.wf : Instr → Bool
  | .registerWrite fn off wide v => decide (fn.ok = true ∧ off < fn.barSize ∧ v < (if wide then 2 ^ 64 else 2 ^ 32))
  | .badAccess fn off _ _ => decide (fn.ok = true ∧ off < fn.barSize)
  | .latchingLoRead fn off => decide (fn.ok = true ∧ off < fn.barSize)
  | .leafClear fn off v => decide (fn.ok = true ∧ off < fn.barSize ∧ v < 2 ^ 32)
  | .layLoad => true
  | .layoutCopyDone bytes => decide (bytes.length < 2 ^ 25)
  | .layValidate => true
  | .layoutValidationDone => true
  | .laySwap => true
  | .layDiscard => true
  | .swapPoint => true
  | .layKeyEnroll slot => decide (slot < 4)
  | .layKeyClear slot => decide (slot < 4)
  | .domainPowerUpDone domain => decide (domain < 20)
  | .clusterClockStartDone cluster => decide (cluster < 1280)
  | .submissionDoorbell seat localIx v => decide (seat < 64 ∧ localIx < 64 ∧ v < 2 ^ 64)
  | .completionDoorbell seat localIx v => decide (seat < 64 ∧ localIx < 64 ∧ v < 2 ^ 64)
  | .mailboxWrite seat off bytes => decide (seat < 64 ∧ off + bytes.length ≤ 4096)
  | .fetchRound slot fc _ => decide (slot < 128 ∧ fc < 16)
  | .slotIdle slot => decide (slot < 128)
  | .staleReread ring fc => decide (ring < 4096 ∧ fc < 16)
  | .slotRecheck slot fc => decide (slot < 128 ∧ fc < 16)
  | .sltRecheckWrite slot v => decide (slot < 128 ∧ v < 2 ^ 32)
  | .ringStop ring => decide (ring < 4096)
  | .ringStart ring => decide (ring < 4096)
  | .ringReset ring => decide (ring < 4096)
  | .ringZeroingDone ring => decide (ring < 4096)
  | .ringModeWrite ring v => decide (ring < 4096 ∧ v < 2 ^ 32)
  | .skippedOperation _ => true
  | .operationRetire _ fc => decide (fc < 16)
  | .completionEntryWrite ring => decide (ring < 4096)
  | .excRecordClear ring => decide (ring < 4096)
  | .mark _ => true
  | .wait _ => true
  | .waitSatisfied _ => true
  | .acquireInvalidate _ => true
  | .acquireBypass _ => true
  | .acquireRestore _ => true
  | .flush _ => true
  | .fence _ => true
  | .tileLoad _ => true
  | .tileStore _ => true
  | .copy _ => true
  | .tileArrival _ _ _ => true
  | .routeCreditReturn _ => true
  | .gather _ => true
  | .gatherPool _ => true
  | .prefetchRows _ => true
  | .prefetchLineLand _ => true
  | .trickOpen _ => true
  | .trickAdmit _ => true
  | .trickPut _ _ _ => true
  | .trickCommit _ => true
  | .trickAbort _ => true
  | .trickPrepared trick _ => decide (trick < 1024)
  | .dieEpochAck trick stack => decide (trick < 1024 ∧ stack < 12)
  | .settlingStart trick => decide (trick < 1024)
  | .settleDone stack granule => decide (stack < 12 ∧ granule < 2 ^ 26)
  | .overlaySpaceFreed _ => true
  | .epochPin _ => true
  | .rowMigrateMove _ => true
  | .rowMigrateReplicate _ => true
  | .rowMigrateDropReplica _ => true
  | .migrateCommitCheck _ => true
  | .matmul _ => true
  | .gemv _ => true
  | .combineBufferSpaceFreed _ => true
  | .vector _ => true
  | .reduce _ => true
  | .quantize _ => true
  | .wideningRerun _ => true
  | .dequantize _ => true
  | .summary _ => true
  | .skipIf _ => true
  | .launchGraphLaunch _ => true
  | .launchGraphPublish _ => true
  | .launchGraphRetire _ => true
  | .runCmdbuf _ => true
  | .cmdbufTranslated _ => true
  | .check _ => true
  | .egress _ _ => true
  | .exchange _ => true
  | .allToAll _ => true
  | .stepTokenIssue _ => true
  | .stepTokenAwait _ => true
  | .stepTokenRespond _ => true
  | .memoryRequest request upset _ => decide (request.inAtom = true ∧ upset.wf = true)
  | .rowRepairDone stack => decide (stack < 12)
  | .zeroFillDone stack frame => decide (stack < 12 ∧ frame < 1048576)
  | .requestIssue _ => true
  | .patrolScrub stack index _ => decide (stack < 12 ∧ index < 2 ^ 30)
  | .temperatureSample stack celsius => decide (stack < 12 ∧ celsius < 256)
  | .memClearTempMax stack => decide (stack < 12)
  | .memSpareBaseWrite stack v => decide (stack < 12 ∧ v < 2 ^ 32)
  | .frameRemapWrite stack entry v => decide (stack < 12 ∧ entry < 8192 ∧ v < 2 ^ 32)
  | .frameCopyDone stack entry => decide (stack < 12 ∧ entry < 8192)
  | .segEnable ctx seg v => decide (ctx < 1024 ∧ seg < 8 ∧ v < 2 ^ 32)
  | .segDisable ctx seg v => decide (ctx < 1024 ∧ seg < 8 ∧ v < 2 ^ 32)
  | .segDropDone ctx seg => decide (ctx < 1024 ∧ seg < 8)
  | .seatSave seat ctx => decide (seat < 64 ∧ ctx < 16)
  | .seatRestore seat ctx => decide (seat < 64 ∧ ctx < 16)
  | .seatResetContext seat ctx => decide (seat < 64 ∧ ctx < 16)
  | .seatReset seat => decide (seat < 64)
  | .vfFlr seat => decide (seat < 64)
  | .seatDrained seat => decide (seat < 64)
  | .scrubDone seat => decide (seat < 64)
  | .sliceExpiry seat => decide (seat < 64)
  | .contextQuiescent seat => decide (seat < 64)
  | .saveDone seat => decide (seat < 64)
  | .restoreDone seat => decide (seat < 64)
  | .windowEnable window v => decide (window < 1024 ∧ v < 2 ^ 32)
  | .windowDisable window v => decide (window < 1024 ∧ v < 2 ^ 32)
  | .hostClassWrite _ addr _ => decide (addr < 2 ^ 64)
  | .hostClassRead _ addr _ => decide (addr < 2 ^ 64)
  | .linkTrained speed width _ _ => decide (1 ≤ speed ∧ speed ≤ 6 ∧ (width = 4 ∨ width = 8 ∨ width = 16))
  | .decoderCommit _ => true
  | .vfEnable busMaster => decide (busMaster < 2 ^ 64)
  | .msixEnable fn _ _ => decide (fn.ok = true)
  | .perstAssert => true
  | .hotReset => true
  | .pfFlr => true
  | .dataLinkDown => true
  | .linkUp => true
  | .logSlotRead fn slot => decide (fn.ok = true ∧ slot < 256)
  | .identifyMemoryDevice => true
  | .getSupportedLogs => true
  | .getLog => true
  | .getEventRecords => true
  | .cdatDoeRequest => true
  | .cableInsert port => decide (port < 8)
  | .cableRemove port => decide (port < 8)
  | .cableIdentityRead port _ => decide (port < 8)
  | .laneLock port => decide (port < 8)
  | .trainingTimeout port => decide (port < 8)
  | .lockLost port => decide (port < 8)
  | .retrainTimeout port => decide (port < 8)
  | .qlkRetrain port => decide (port < 8)
  | .cageOvercurrent port => decide (port < 8)
  | .ident port seq cascade module => decide (port < 8 ∧ seq < 4096 ∧ cascade < 65536 ∧ module < 65536)
  | .nak port ack => decide (port < 8 ∧ ack < 4096)
  | .credit port seq dataCredits controlCredits => decide (port < 8 ∧ seq < 4096 ∧ dataCredits < 65536 ∧ controlCredits < 65536)
  | .creditReturnTimer port => decide (port < 8)
  | .exchangeMessage port _ => decide (port < 8)
  | .a2aBlock port _ => decide (port < 8)
  | .token port _ => decide (port < 8)
  | .response port _ => decide (port < 8)
  | .status port _ => decide (port < 8)
  | .xack port _ => decide (port < 8)
  | .xnak port _ => decide (port < 8)
  | .statusTimer => true
  | .a2aResendTimer => true
  | .qlkRouteWrite module v => decide (module < 1024 ∧ v < 2 ^ 32)
  | .qlkExcludeWrite word v => decide (word < 32 ∧ v < 2 ^ 32)
  | .coreFault _ core => decide (core < 81920)
  | .sramDoubleBitError stack _ _ => decide (stack < 12)
  | .chkStart unit v => decide (unit < 24 ∧ v < 2 ^ 32)
  | .chkRunningWrite unit _ v => decide (unit < 24 ∧ v < 2 ^ 32)
  | .chkCommandDone unit => decide (unit < 24)
  | .tstLoad => true
  | .packCopyDone bytes => decide (bytes.length < 2 ^ 25)
  | .tstValidate => true
  | .packValidationDone => true
  | .tstStart => true
  | .tstStop => true
  | .tstDiscard => true
  | .tstCtrlWrite v => decide (v < 2 ^ 32)
  | .testStart core => decide (core < 81920)
  | .testDone core _ => decide (core < 81920)
  | .arbitrationDone core _ => decide (core < 81920)
  | .testAbandon cluster => decide (cluster < 1280)
  | .budgetWindow => true
  | .powerSample _ _ temps => decide (temps.length = 4)
  | .supplyRecovery => true
  | .pwrLimitWrite v => decide (v < 2 ^ 32)
  | .pwrPeakClear => true
  | .pwrResetWarm v => decide (v < 2 ^ 32)
  | .pwrResetCold v => decide (v < 2 ^ 32)
  | .warmReset => true
  | .coldReset => true
  | .overlayRebuildDone => true
  | .pwrEnAssert slotId => decide (slotId < 8)
  | .pwrEnDeassert => true
  | .firmwareBoot => true
  | .selftestDone failed => decide ((∀ c ∈ failed, c < 81920))
  | .thermalTrip _ _ => true
  | .clkQuarantine v => decide (v < 2 ^ 32)
  | .quarantineApply => true
  | .meshClockStop stack => decide (stack < 4)
  | .selfRefreshEntry group => decide (group < 4)
  | .fwStage => true
  | .fwClear => true
  | .fwStageCopyDone bytes => decide (bytes.length < 2 ^ 25)
  | .fwVerifyDone => true
  | .fwFlashWriteDone _ => true
  | .pldmRequestUpdate => true
  | .pldmPassComponentTable _ => true
  | .pldmUpdateComponent _ => true
  | .pldmActivateFirmware => true
  | .pldmGetStatus => true
  | .pldmCancelUpdate => true
  | .pldmPlatformMonitoring => true
  | .getVersion _ => true
  | .getCapabilities _ => true
  | .negotiateAlgorithms _ => true
  | .getDigests _ => true
  | .getCertificate _ _ _ => true
  | .challenge _ _ => true
  | .getMeasurements _ _ _ => true
  | .spdmUnsupportedRequest _ _ => true
  | .attentionTick => true
  | .atnRearm => true
  | .seatAtnRearm seat => decide (seat < 64)
  | .jtagTrst _ => true
  | .jtagBypass => true
  | .jtagIdcode => true
  | .jtagSamplePreload => true
  | .jtagExtest => true
  | .jtagClamp => true
  | .jtagHighz => true
  | .flitDiscard port _ => decide (port < 8)
  | .idle port ack => decide (port < 8 ∧ ack < 4096)
  | .selfRefreshExit group => decide (group < 4)
  | .meshClockStart stack => decide (stack < 4)
  | .domainPowerDownDone domain => decide (domain < 20)

end Sys2Proof
end

