-- ==== Sys2Proof/Tests/Slice0.lean ====
section
/-! SUPPORT. Tests. First, for every statement with hypotheses, concrete states and operands that meet them (test_met_<statement>), clause
by clause and at the bounds of their ranges; then the smoke test of well-formedness; then single steps whose expected results
the manual gives. -/

namespace Sys2Proof.Tests

set_option Elab.async false

open Machine

/-! ## Small states -/

/-- The device answers and is HELD. -/
def up : State := { State.reset with pwr := { boot := .ready } }

/-- The device answers, with a device state. -/
def withDev (d : Dev) : State := { up with dev := d }

/-- A running operation in place 0 of ring, slot, seat and context 0. -/
def job (o : OpWord) : Place := { id := 0, ring := 0, slot := 0, seat := 0, ctx := 0, seq := 0, op := o, phase := .running }

/-- An image in which seat S0 is dedicated and owns cluster 0, ring 0 and slot 0 of context 0; routes take
stream 5 from its core stations to EGRESS. -/
def image : Layout :=
  { seats := [{ kind := 1, contexts := 1, clusters := 1 }], clusters := [0],
    rings := [{ seat := 0, log2Size := 2, submitBase := 0x100000, completeBase := 0x200000 }], slots := [0],
    routes := [2, 3, 4].map fun k => { src := k, dst := 6, stream := 5, credits := 2 } }

/-- Seat S0 in service under that image, with VF Enable set. -/
def base : Dev :=
  { layout := some image, seats := [(0, { state := .inService })], rings := [(0, { state := .running })],
    glb := { vfEnable := true, dlUp := true }, domainOn := 0xFFFFF }

/-- One operation in the scoreboard of that device. -/
def one (p : Place) : Dev := { base with board := [p] }

/-- Zeros as a payload for a descriptor word. -/
def zeros (word n : Nat) : Option Payload := some ⟨word, List.replicate n 0⟩

/-! ## Hypotheses met: the step, power and resets, JTAG, attention -/

theorem test_met_StepRunsFrontCommand : State.reset.pending = [] := by decide

theorem test_met_ExecKeepsQueue : Machine.exec .pwrPeakClear up = .next up := rfl

theorem test_met_EveryCommandAnswers :
    12 ≤ 12 * 2 ^ 36 / 2 ^ 36 % 16 ∧ (MemReq.mk (.tagged (5 + 16 * 3)) (15 * 2 ^ 36) none).source = .tagged 53 ∧ 53 / 16 % 64 = 3 ∧
      (MemReq.mk .internal (12 * 2 ^ 36) none).source = .internal := by decide

theorem test_met_PowerPins :
    ({ up with pwr := { pwrEn := false } } : State).pwr.pwrEn = false ∧ State.reset.pwr.pwrEn = true ∧
      State.reset.pwr.boot ≠ .off ∧ 110 < 111 ∧ 115 < 116 ∧
      ({ up with pwr := { boot := .supplyFault } } : State).pwr.boot = .supplyFault := by decide

theorem test_met_GovernorFollowsTheTable :
    up.pwr.boot ≠ .off ∧ 3100 < 3101 ∧ totalOf [3000] > up.pwr.limit * 1 ∧ (∃ c ∈ [0, 106], c > 105) ∧ totalOf [2500] + 100 * 1 ≤ up.pwr.limit * 1 ∧
      100 ≤ ({ up with pwr := { sinceChange := 100 } } : State).pwr.sinceChange ∧
      10 ≤ ({ up with pwr := { boot := .ready, badSamples := 10 } } : State).pwr.badSamples := by decide

theorem test_met_PowerRegisters :
    up.mgtReady = true ∧ 1000 ≤ 1000 % 4096 ∧ 2600 % 4096 ≤ 2600 ∧ 999 % 4096 < 1000 ∧ 2600 < 2601 % 4096 ∧
      0xA5C30001 / 2 ^ 16 = 0xA5C3 ∧ 0xA5C30001 % 4 = 1 ∧ 0xA5C30002 % 4 = 2 ∧ 0xA5C20001 / 2 ^ 16 ≠ 0xA5C3 ∧
      0xA5C30003 % 4 ≠ 1 ∧ 0xA5C30003 % 4 ≠ 2 := by decide

/-- A state in which the flash is written while the input has been out of range for nine samples. -/
def writing : State := { up with mgt := { up.mgt with state := .writing }, pwr := { up.pwr with badSamples := 9 } }

theorem test_met_PowerRegisters_writing :
    writing.mgt.state = .writing ∧ writing.pwr.pwrEn = true ∧ 39999 < 40000 ∧ 9 ≤ writing.pwr.badSamples ∧ writing.pwr.boot = .ready := by
  decide

theorem test_met_ResetsKeepWhatTheTableKeeps :
    ({ up with pwr := { requested := some 5 } } : State).pwr.requested = some 5 ∧ up.mgt.state ≠ .writing ∧
      ({ up with pwr := { requested := some 8 } } : State).pwr.requested = some 8 := ⟨rfl, by decide, rfl⟩

/-- An image that the boot ROM accepts, of the version in SECURITY_FLOOR. -/
def firm : FwImage := ⟨1, 0, 1, [], 0⟩

theorem test_met_StartUp :
    State.reset.pwr.boot = .rom ∧ ({ up with mgt := { up.mgt with flash := some firm } } : State).mgt.flash = some firm ∧ firm.code = 0 ∧
      0 ≤ firm.security ∧ (∀ i, (none : Option FwImage) = some i → i.code ≠ 0) ∧
      ({ up with pwr := { boot := .selftest } } : State).pwr.boot = .selftest :=
  ⟨rfl, rfl, rfl, by decide, nofun, rfl⟩

theorem test_met_Quarantine :
    up.mgtReady = true ∧ 0x80013FFF / 2 ^ 31 % 2 = 1 ∧ 0x80013FFF % 2 ^ 17 = 81919 ∧ up.dev.chk.pending = none ∧ 81919 < 0x80014000 % 2 ^ 17 ∧
      base.clusterOwner (0 / 64) = some 0 ∧ (base.seat 0).state = .inService ∧
      (withDev { base with chk := { pending := some 5 } }).dev.chk.pending = some 5 ∧ base.coreBusy 5 = false ∧
      (one (job {})).coreBusy 5 = true := by decide

theorem test_met_ClocksAndDomains :
    (∀ n, n < 64 → (up.dev.seat n).state = .unused) ∧ 3 < 4 ∧ (∀ x, x / 3 = 3 → (up.dev.mem.stack x).held = []) ∧
      5 ∈ (withDev { base with domainRising := [5] }).dev.domainRising ∧ 5 ∈ (withDev { base with domainFalling := [5] }).dev.domainFalling :=
  ⟨fun _ _ => rfl, by decide, fun _ _ => rfl, by decide, by decide⟩

theorem test_met_JtagPort :
    ({ up with jtag := { held := false } } : State).jtag.held = false ∧ up.pwr.boot ≠ .off ∧ up.dev.layout = none ∧ base.layout ≠ none ∧
      up.jtag.held = true := by decide

theorem test_met_AttentionTree : up.pwr.boot ≠ .off := by decide

/-- A function whose vector has something to report. -/
def raised (f : FnCfg) : State := withDev { base with glb := { base.glb with fns := [(0, { f with summary := 1 }), (1, { f with summary := 1 })] } }

theorem test_met_VectorsFireAndPend :
    (raised {}).mgtReady = true ∧ bitClear ((raised {}).dev.fn 0).summary ((raised {}).dev.fn 0).mask ≠ 0 ∧
      ((raised { msixEnable := true, masked := false }).dev.fn 0).open_ = true ∧ ((raised {}).dev.fn 0).open_ = false ∧
      bitClear (up.dev.fn 1).summary (up.dev.fn 1).mask = 0 ∧ (raised {}).dev.vfOpen 0 = true ∧
      ((raised { msixEnable := true, masked := false }).dev.fn 1).open_ = true ∧
      bitClear ((raised {}).dev.fn 1).summary ((raised {}).dev.fn 1).mask ≠ 0 ∧ (base.fn 1).summary = 0 ∧
      ((raised { pending := true }).dev.fn 0).pending = true ∧ ((raised {}).dev.fn 0).pending = false ∧
      bitClear (base.fn 0).summary (base.fn 0).mask = 0 ∧ base.glb.dlUp = true := by decide

/-! ## Hypotheses met: firmware, management, packs, check units -/

/-- The management block in a state of a firmware update. -/
def mgtIn (m : FwState) (k : Mgt → Mgt := id) : State := { up with mgt := k { up.mgt with state := m } }

theorem test_met_FirmwareUpdate :
    up.mgtReady = true ∧ (mgtIn .failed).mgt.state.stageable = true ∧ up.lay.shadow = .empty ∧
      ({ up with lay := { shadow := .loaded } } : State).lay.shadow ≠ .empty ∧ (mgtIn .writing).mgt.state.stageable = false ∧
      up.mgt.state ≠ .failed ∧ (mgtIn .staging).mgt.state = .staging ∧ (mgtIn .staging).mgt.pldm = false ∧
      (mgtIn .verifying fun m => { m with staged := some firm }).mgt.staged = some firm ∧
      (mgtIn .writing fun m => { m with staged := some firm }).mgt.state = .writing ∧ up.pwr.boot ≠ .recovery ∧
      field [0x18, 0, 0, 0, 0, 0, 0, 0] 0 8 = 24 ∧ field (List.replicate 16 0 ++ [0x18, 0, 0, 0, 0, 0, 0, 0]) 0x10 8 = 24 := by decide

theorem test_met_PldmCommands :
    (mgtIn .idle fun m => { m with session := true }).mgt.session = true ∧ (mgtIn .idle).mgt.state.stageable = true ∧
      (mgtIn .verifying).mgt.state.stageable = false ∧ up.lay.shadowFree = true ∧
      (mgtIn .pending fun m => { m with session := true }).mgt.state = .pending ∧
      (mgtIn .staging fun m => { m with session := true, pldm := true }).mgt.pldm = true := by decide

theorem test_met_SpdmResponder :
    up.mgtReady = true ∧ (mgtIn .idle fun m => { m with mctp := ⟨true, true, true⟩ }).mgt.mctp.algorithms = true ∧
      up.mgt.mctp.algorithms = false ∧ (mgtIn .idle fun m => { m with spdmBusy := true }).mgt.spdmBusy = true ∧ up.mgt.spdmBusy = false ∧
      up.dev.layout = none ∧ base.layout = some image ∧ (up.dev.seat 63).state = .unused ∧ (base.seat 0).state ≠ .unused :=
  ⟨rfl, rfl, rfl, rfl, rfl, rfl, rfl, rfl, by decide⟩

theorem test_met_SpdmResponder_measured : up.measurement 3 = some (List.replicate 64 0) ∧ (3 : Nat) ≠ 0 ∧ (3 : Nat) ≠ 255 ∧
    (∀ k, ({ up with tst := { state := .ready, pack := some ⟨[1], [], [], []⟩ } } : State).tst.pack = some k → k.digest = [1]) :=
  ⟨rfl, by decide, by decide, by rintro _ ⟨⟩; rfl⟩

theorem test_met_LinkQueries :
    (withDev base).ready = true ∧ base.glb.dlUp = true ∧ base.logLost (some base.glb.logSelect) 255 = false ∧ base.vfOpen 0 = true ∧
      base.ringOf 0 (base.seat 0).logSelect = some 0 ∧ base.logLost (some 0) 0 = false := by decide

/-- The pack block in a state. -/
def packIn (x : PackState) (k : Tst → Tst := id) : State := { withDev base with tst := k { state := x } }

theorem test_met_PackCommands :
    up.ready = true ∧ (packIn .done).tst.state = .done ∧ (packIn .running).tst.state = .running ∧ (packIn .running).tst.running = [] ∧
      (packIn .loaded).tst.state = .loaded ∧ (packIn .loading).tst.state = .loading ∧ (packIn .validating).tst.state = .validating ∧
      (validatePack [] 0 0 []).isSome = true := by decide

/-- A pack of one test without generators, whose one operation is a MATMUL. -/
def pack1 : Pack := { digest := [], gens := [], ops := [{ opcode := 0x40 }], tests := [⟨0, 0, 1, [], 0, 0, 4, 0, false⟩] }

/-- A pass on the cores of cluster 0, whose seat is idle. -/
def passing (rs : List Running) : State := packIn .running fun t => { t with pack := some pack1, running := rs, passed := [(64, 0)] }

theorem test_met_TestOutcomes_start :
    (passing []).tst.state = .running ∧ (passing []).tst.pack = some pack1 ∧ base.partner 0 = some 1 ∧ ((passing []).tst.todo 0).head? = some 0 ∧
      (passing []).mayTest 0 = true ∧ (passing []).inTurn 0 = true := by decide +kernel

theorem test_met_TestOutcomes_done :
    (passing [⟨0, 1, 0, 0, false, false, false⟩]).tst.running.find? (fun q => q.core == 0 && !q.arbitrating) = some ⟨0, 1, 0, 0, false, false, false⟩ ∧
      (pack1.tests[0]?.map (·.expect)) = some false ∧ (1 : Nat) ≠ 0 ∧
      (passing [⟨0, 1, 0, 1, false, false, false⟩]).tst.running.find? (fun q => q.core == 0 && !q.arbitrating) = some ⟨0, 1, 0, 1, false, false, false⟩ ∧
      (passing [⟨0, 1, 0, 1, false, false, true⟩]).tst.running.find? (fun q => q.core == 0 && q.arbitrating) = some ⟨0, 1, 0, 1, false, false, true⟩ ∧
      (passing []).needs 0 = false ∧ (withDev (one (job {}))).needs 0 = true := by decide +kernel

theorem test_met_TestOutcomes_arbiter : ((passing [⟨0, 1, 0, 1, false, false, true⟩]).arbiter ⟨0, 1, 0, 1, false, false, true⟩).isSome = true := by decide +kernel

theorem test_met_CheckUnits :
    up.ready = true ∧ 23 < 24 ∧ (up.dev.unit 23).busy = false ∧ 0x100 / 2 ^ 8 % 2 = 1 ∧
      ((withDev { base with chk := { units := [(23, { busy := true, compare := true, len := 64 })] } }).dev.unit 23).busy = true ∧
      (∀ p ∈ atomPieces 65 0 64, up.dev.blocked p.1 = false) ∧ (up.dev.physBytes 0 0).2.1 = [] := by decide

/-- A running SUMMARY over the seat's cluster. -/
def summing : OpWord := { opcode := 0x50 }

theorem test_met_IntegrityEvents :
    (one (job summing)).place 0 = some (job summing) ∧ isCoreOp summing.opcode = true ∧ 0 ∈ (one (job summing)).opCores (job summing) ∧
      0 ∉ (one (job summing)).chk.fenced ∧ 0 ∉ (job summing).reruns ∧ 0 ∈ ({ job summing with reruns := [0] } : Place).reruns ∧ 11 < 12 := by
  decide

/-! ## Hypotheses met: memory base dies and the regulator -/

/-- Memory whose frames 0 to 47 of M0 are in use and filled with zeros; `k` changes the stack. -/
def mem1 (k : Stack → Stack := id) : Mem :=
  { dies := [(0, k { pins := [⟨0, 2 ^ 20, 0⟩], frames := (List.range 48).map fun f => (f, { zero := false }), covers := [⟨0, 48, .context, 0⟩] })] }

/-- The device with that memory. -/
def dram (k : Stack → Stack := id) (m : Mem → Mem := id) : Dev := { base with mem := m (mem1 k) }

theorem test_met_MemoryRequests :
    11 * 2 ^ 36 / 2 ^ 36 % 16 < 12 ∧ (dram).blocked 0 = false ∧ (dram).admits (.tagged 0) 0 = true ∧ ((dram).mem.frame 0 0).zero = false ∧
      (dram).mem.upsets.get [] ((dram).mem.locate 0 / 64) = [] ∧ 63 % 64 + 1 ≤ 64 ∧ (dram).mem.isPoison 0 = false ∧
      (dram id fun m => { m with poison := [0] }).mem.isPoison 0 = true ∧ ((dram).mem.frame 1 0).zero = true ∧
      (dram fun k => { k with covers := [⟨0, 48, .device, 0⟩] }).admits .internal 0 = true ∧ (dram).admits (.tagged 1) 0 = false ∧ tagSeat 1 = 0 ∧ (1 : Nat) < 2 ^ 16 ∧
      (dram fun k => { k with selfRefresh := true }).blocked 0 = true := by decide

theorem test_met_MemoryStaysCanonical : (withDev (dram)).dev.mem.wf = true ∧ State.reset.dev.mem.wf = true := by decide

theorem test_met_DieWorkEnds :
    ((dram fun k => { k with repairing := [(2 ^ 26 - 1, 3)] }).mem.stack 0).repairing = [(2 ^ 26 - 1, 3)] ∧
      2 ^ 20 - 1 ∈ ((dram fun k => { k with filling := [2 ^ 20 - 1] }).mem.stack 0).filling ∧ (dram).mem.spareBase 0 + 8191 < 2 ^ 20 ∧
      ((dram fun k => { k with remap := [(8191, ⟨5, .copy⟩)] }).mem.stack 0).remap.get {} 8191 = ⟨5, .copy⟩ ∧
      (dram).blocked (11 * 2 ^ 36 + 64 * (2 ^ 30 - 1)) = false ∧ ((dram).mem.frame 11 ((2 ^ 30 - 1) / 1024)).zero = true := by decide

theorem test_met_StackTemperature :
    11 < 12 ∧ (up.dev.mem.stack 11).held = [] ∧ up.ready = true ∧ Thermal.next .normal 101 = .capped ∧ Thermal.next .normal 106 = .protect := by
  decide

theorem test_met_RetirementRegisters :
    up.ready = true ∧ up.dev.layout = none ∧ base.layout ≠ none ∧ (∀ e ∈ (up.dev.mem.stack 0).remap, e.2.state = .free) ∧
      (1048576 - 8192) % 2 ^ 20 + 8192 ≤ 1048576 ∧ ((up.dev.mem.stack 0).remap.get {} 8191).state = .free ∧ 0x10000000 / 2 ^ 28 % 4 = 1 ∧
      (((dram fun k => { k with remap := [(0, ⟨5, .dead⟩)] }).mem.stack 0).remap.get {} 0).state ≠ .free ∧ 0 < up.dev.mem.spareBase 0 ∧
      (up.dev.mem.stack 0).pinOf 0 = none ∧ (up.dev.mem.stack 0).remap = [] := by decide

theorem test_met_BucketGains : up.dev.reg.queue = [] := by decide

/-! ## Hypotheses met: rings, doorbells, fetch, completion, registers, layout -/

/-- Ring 0 in a state. -/
def ringIn (f : Ring → Ring) : Dev := { base with rings := [(0, f { state := .running })] }

theorem test_met_RingCommands :
    (withDev base).ready = true ∧ (base.ring 0).state = .running ∧ ((ringIn fun r => { r with state := .stopped }).ring 0).state = .stopped ∧
      ((ringIn fun r => { r with state := .hostLost }).ring 0).state = .hostLost ∧ (∀ p ∈ base.board, p.ring ≠ 0) ∧
      (base.ring 4095).state ≠ .running ∧ (∃ p ∈ (one (job {})).board, p.ring = 0) ∧ (base.ringRec 0).seat < 64 ∧
      base.vfOpen (base.ringRec 0).seat = true ∧ ((ringIn fun r => { r with zeroing := true }).ring 0).zeroing = true ∧
      (dram).rangeBlocked ((dram).ringRec 0).completeBase (2 ^ ((dram).ringRec 0).log2Size * 32) = false ∧
      (dram fun k => { k with selfRefresh := true }).rangeBlocked ((dram).ringRec 0).completeBase (2 ^ ((dram).ringRec 0).log2Size * 32) = true ∧
      (∀ i ∈ (ringIn fun r => { r with zeroing := true }).slotRings 0, ((ringIn fun r => { r with zeroing := true }).ring i).zeroing = true) ∧
      ¬ (base.ringRec 1).seat < 64 := by decide

theorem test_met_SlotAndMailboxRegisters :
    up.ready = true ∧ 256 ≤ 256 % 2 ^ 17 ∧ 65536 % 2 ^ 17 ≤ 65536 ∧ 255 % 2 ^ 17 < 256 ∧ 65536 < 65537 % 2 ^ 17 ∧ base.vfOpen 0 = true ∧
      ([1, 2, 3, 4, 5, 6, 7, 8] : List Byte).length = 8 ∧ 4088 % 8 = 0 ∧ 4088 + 8 ≤ 4096 ∧ base.slotSeat 0 = some 0 ∧
      (∀ r ∈ base.slotRings 0, base.tailAhead r = false) ∧
      (∃ r ∈ (ringIn fun r => { r with tail := 1 }).slotRings 0, (ringIn fun r => { r with tail := 1 }).tailAhead r = true) := by decide

theorem test_met_Doorbells :
    (withDev base).ready = true ∧ base.vfOpen 0 = true ∧ base.ringOf 0 0 = some 0 ∧ base.ringOf 0 63 = none ∧
      (2 ^ 32) / 2 ^ 32 % 4096 ≠ 0 ∧ 2 ^ 44 / 2 ^ 44 ≠ 0 ∧ 4 / 2 ^ 32 % 4096 = 0 ∧ (base.ring 0).append = false ∧ ((ringIn fun r => { r with append := true }).ring 0).append = true ∧ (base.ring 0).tail < 2 ^ 32 ∧
      2 ^ 31 ≤ (2 ^ 31 % 2 ^ 32 + 2 ^ 32 - (base.ring 0).tail) % 2 ^ 32 ∧ 2 ^ (base.ringRec 0).log2Size < (5 % 2 ^ 32 + 2 ^ 32 - (base.ring 0).fetched) % 2 ^ 32 ∧
      (4 % 2 ^ 32 + 2 ^ 32 - (base.ring 0).fetched) % 2 ^ 32 ≤ 2 ^ (base.ringRec 0).log2Size ∧ (base.ring 0).staleReads ≠ 3 ∧
      ((base.ring 0).completed + 2 ^ 32 - (base.ring 0).consumed) % 2 ^ 32 < (1 % 2 ^ 32 + 2 ^ 32 - (base.ring 0).consumed) % 2 ^ 32 ∧
      1 ≤ (((ringIn fun r => { r with completed := 1 }).ring 0).completed + 2 ^ 32 - 0) % 2 ^ 32 := by decide

/-- The 64 bytes of an entry with SEQUENCE 0 for ring 0 in generation 0: opcode `o` and nothing else but its CHECK (R127, R134). -/
def entryOf (o : Byte) : List Byte :=
  let e := o :: List.replicate 63 0
  slice e 0 8 ++ leBytes 4 (crc32c 0 e) ++ e.drop 12

/-- That entry announced on ring 0. -/
def announced (k : Nat) : Dev :=
  { dram id (fun m => m.putBytes 0x100000 (entryOf 1)) with rings := [(0, { state := .running, tail := 1, staleReads := k })] }

theorem test_met_FetchTakes :
    ((announced 0).slotSeat 0).isSome = true ∧ ((announced 0).ring 0).append = false ∧ ((announced 0).ringRec 0).slot = 0 ∧
      (announced 0).pending 0 = true ∧ (announced 0).slotRings 0 = [0] ∧ (announced 0).fetchStall 0 = none ∧
      ((announced 2).ring 0).staleReads = 2 ∧ ((announced 3).ring 0).staleReads ≠ 0 ∧ (announced 2).fetchStall 0 = none ∧
      (announced 3).fetchStall 0 = none ∧ ((announced 2).ring 0).staleAt = ((announced 2).ring 0).fetched ∧
      ((announced 0).ring 0).available ((announced 0).ringRec 0).log2Size = 1 ∧ ((announced 0).ring 0).skip = 0 ∧
      (entryOf 1).length = 64 ∧ field (entryOf 1) 2 1 = 0 ∧ (ringOp [entryOf 1] false (base.seat 0)).op.widens = false := by decide +kernel

theorem test_met_FetchTakes_frame :
    ((announced 0).readEntry 0 0 1).2 = .frame [entryOf 1] ∧ ((ringIn fun r => { r with tail := 1 }).readEntry 0 0 1).2 = .stale 0 := by decide +kernel

theorem test_met_FetchTakes_read :
    ((announced 0).ringRec 0).slotAddr 0 = 0x100000 ∧ 0x100000 % 64 = 0 ∧ (announced 0).blocked 0x100000 = false ∧
      ((announced 0).mem.frame 0 16).zero = false ∧ ((announced 0).mem.frame 0 16).admits (tagOf 0) = true ∧
      (announced 0).mem.isPoison 0x100000 = false ∧ (announced 0).mem.upsets.get [] ((announced 0).mem.locate 0x100000 / 64) = [] ∧
      (announced 0).cache.line 0 (tagOf 0) (0x100000 / 64) = none ∧ (announced 0).mem.bytes 0x100000 64 = entryOf 1 ∧
      field (entryOf 1) 4 4 = 0 ∧ field (entryOf 1) 8 4 = crc32c (foldOf 0 0) (slice (entryOf 1) 0 8 ++ List.replicate 4 0 ++ (entryOf 1).drop 12) ∧
      ({ announced 0 with mem := mem1 fun k => { k with selfRefresh := true } } : Dev).blocked 0x100000 = true := by decide +kernel

/-- One place in the scoreboard of the device with memory. -/
def dramJob (p : Place) : Dev := { dram with board := [p] }

theorem test_met_CompletionEntries :
    ((dramJob (job {})).ringPlaces 0).find? (·.parent.isNone) = some (job {}) ∧ (job {}).phase ≠ .retired ∧
      ((dramJob { job {} with phase := .retired }).ringPlaces 0).find? (·.parent.isNone) = some { job {} with phase := .retired } ∧
      0x200000 % 32 = 0 ∧ stackOf 0x200000 < 12 ∧ (dram).blocked 0x200000 = false ∧ (dram).sramLost .completionLog 0 = false ∧
      ((dram).wcet 0).isNone = true ∧ (dram).cache.line 0 (tagOf 0) (0x200000 / 64) = none ∧
      (dram).admits (.tagged (tagOf 0)) 0x200000 = true ∧ ((dram).mem.frame 0 32).zero = false ∧
      (∀ q ∈ (dramJob (job {})).board, q.op.launches = false) ∧ (job {}).flags.invalid = false ∧ ((dram).ring 0).notify = 0 := by decide

/-- A finished operation, one that waits and failed a check, and one that waits and is skipped. -/
def finished (o : OpWord) : Place := { job o with phase := .finished }
def waiting (o : OpWord) : Place := { job o with phase := .waiting }

theorem test_met_Retirement :
    (one (finished { opcode := 0x04 })).place 0 = some (finished { opcode := 0x04 }) ∧
      (∀ q ∈ (one (finished { opcode := 0x04 })).board, q.op.launches = false) ∧ (base.wcet 0).isNone = true ∧ base.reg.waits (.work 0) = false ∧ 0x04 ∉ [0x32, 0x33, 0x61, 0x62, 0x7F] ∧
      isCoreOp 0x04 = false ∧ (one (finished { opcode := 0x04 })).tilesInFlight (finished { opcode := 0x04 }) = false ∧
      base.qlk.resend = [] ∧ (base.collector.get (0, 0) 0).2 < 8 ∧
      (({ base with collector := [(0, (0, 8))] } : Dev).collector.get (0, 0) 0).1 = ({ base with collector := [(0, (0, 8))] } : Dev).now 0 ∧
      8 ≤ (({ base with collector := [(0, (0, 8))] } : Dev).collector.get (0, 0) 0).2 ∧
      (one { waiting {} with bad := true }).canStart { waiting {} with bad := true } = true ∧
      (∀ q ∈ (one { waiting {} with skipped := true }).ahead { waiting {} with skipped := true }, q.begun = true) := by decide

theorem test_met_RegisterAccess :
    up.present .pf = true ∧ 2 % 4 ≠ 0 ∧ 4 % 8 ≠ 0 ∧ (0x8000 ≤ 0x8FC8 ∧ 0x8FC8 < 0x9000 ∧ 0x8FC8 % 64 = 8) ∧ (withDev base).present (.vf 0) = true ∧
      0 % 8 = 0 ∧ up.ready = true ∧ 0x2000000 % 4 = 0 ∧ 0x3FFFFFC % 4 = 0 ∧ base.glb.vfEnable = true ∧ (base.seat 63).state = .unused ∧
      0x7FFC % 4 = 0 ∧ (3 ≠ 4 ∧ 3 ≠ 8) ∧ 6 % 4 ≠ 0 := by decide

theorem test_met_LeavesAndLatches :
    up.ready = true ∧ leafAt .pf 0x20100 = some (.lay, 0x3D) ∧ leafAt (.vf 0) 0x1460 = some (.vfChk 0, 1) ∧ base.glb.vfEnable = true ∧
      (base.seat 0).state ≠ .unused ∧ up.reaches .pf 0x1F04008 = true ∧ up.reaches .pf 0x1F0400C = true ∧
      latchesHi .pf 0x1F04008 = true ∧ (withDev base).reaches (.vf 0) 0x1514 = true ∧ latchesHi (.vf 0) 0x1514 = true := by decide

/-- The layout block in a state. -/
def layIn (x : Shadow) (k : Lay → Lay := id) : State := { withDev base with lay := k { shadow := x } }

theorem test_met_LayoutCommands :
    up.ready = true ∧ up.mgt.state ≠ .staging ∧ up.mgt.state ≠ .verifying ∧ up.mgt.state ≠ .writing ∧ (layIn .loading).lay.shadow = .loading ∧
      (layIn .validating).lay.shadow = .validating ∧ (validate [] up.against).isSome = true ∧
      ((layIn .retired).lay.shadow = .retired ∧ (layIn .retired).lay.swapAt ≠ some (layIn .retired).dev.slow) ∧
      (layIn .swapPending).lay.shadow = .swapPending ∧ (∀ new, (layIn .swapPending).lay.staged = some new → (layIn .swapPending).swapDue new = false) ∧
      up.lay.shadow = .empty ∧ 3 < 4 ∧ up.lay.keys.getD 3 none = none :=
  ⟨rfl, by decide, by decide, by decide, rfl, rfl, by decide, ⟨rfl, by decide⟩, rfl, nofun, rfl, by decide, rfl⟩

/-- The same image, staged: no seat changes. -/
def swapping (x : Shadow) (d : Dev := base) : State := { withDev d with lay := { shadow := x, staged := some image } }

theorem test_met_TheSwap :
    (swapping .valid).ready = true ∧ (swapping .valid).lay.shadow = .valid ∧ (swapping .valid).dev.layout ≠ none ∧
      (swapping .valid { base with layout := none }).dev.layout = none ∧ up.lay.shadow ≠ .valid ∧
      (swapping .swapPending).lay.shadow = .swapPending ∧ (swapping .swapPending).swapDue image = true ∧
      (swapping .swapPending).recheck image = none ∧
      ({ swapping .swapPending (one (job {})) with lay := { shadow := .swapPending, staged := some {} } } : State).swapDue {} = false := by
  decide +kernel

theorem test_met_TheSwap_rings : base.ringRec 0 = image.rings.getD 0 {} ∧ image.uses (base.ringRec 0).seat = true ∧ 4095 < 4096 ∧
    base.ringRec 0 ≠ ({} : Layout).rings.getD 0 {} ∧ 64 ≤ (({} : Layout).rings.getD 0 {}).seat ∧ (image.rings.getD 0 {}).seat < 64 ∧
    ({} : Dev).ringRec 0 ≠ image.rings.getD 0 {} := by decide

/-! ## Hypotheses met: operations in the scoreboard, moves, tiles -/

theorem test_met_OperationsStart :
    (one (job {})).place 0 = some (job {}) ∧ (job {}).bad = false ∧ (job {}).skipped = false ∧ (job {}).phase = .running ∧
      (one (waiting {})).place 0 = some (waiting {}) ∧ (one (waiting {})).canStart (waiting {}) = true ∧
      ({ one (waiting {}) with seats := [] } : Dev).canStart (waiting {}) = false ∧
      job { opcode := 0x51 } ∈ ({ base with board := [job { opcode := 0x51 }, { waiting {} with id := 1 }] } : Dev).ahead { waiting {} with id := 1 } ∧
      (one (job { opcode := 2 })).enters 0 (·.opcode == 0x01) = none := by decide

theorem test_met_OrderingOperations_mark :
    (one (job { opcode := 0x01 })).enters 0 (·.opcode == 0x01) = some (one (job { opcode := 0x01 }), job { opcode := 0x01 }) := rfl

/-- A WAIT for sequence 0 of its own ring. -/
def waitOp : OpWord := { opcode := 0x02, d0 := 0xFFFF }

/-- The device whose ring 0 has completed one operation. -/
def completed1 (p : Place) : Dev :=
  { one p with rings := [(0, { state := .running, fetched := 1, completed := 1, log := [(0, List.replicate 32 0)] })] }

theorem test_met_OrderingOperations_wait :
    (completed1 (job waitOp)).enters 0 (·.opcode == 0x02) = some (completed1 (job waitOp), job waitOp) ∧
      (completed1 (job waitOp)).place 0 = some (job waitOp) ∧ (job waitOp).phase = .running ∧ (job waitOp).op.fld 0 0 2 = 0xFFFF ∧
      SMap.find ((completed1 (job waitOp)).ring 0).log ((((completed1 (job waitOp)).ring 0).completed + 2 ^ 32 - 1) % 256) = some (List.replicate 32 0) ∧
      (field (List.replicate 32 0) 4 4 + 2 ^ 32 - (job waitOp).op.fld 0 4 4) % 2 ^ 32 < 2 ^ 31 ∧
      (∀ e, SMap.find ((one (job waitOp)).ring 0).log 255 = some e → 2 ^ 31 ≤ (field e 4 4 + 2 ^ 32 - 0) % 2 ^ 32) :=
  ⟨rfl, rfl, rfl, by decide, by decide, by decide, nofun⟩

/-- A FENCE, VISIBLE where `v` is 1. -/
def fenceOp (v : Nat) : OpWord := { opcode := 0x05, d0 := v }

/-- A device whose seat may write to the host, or whose host is gone. -/
def fenced1 (p : Place) (lost : Bool) : Dev :=
  { one p with glb := { base.glb with fns := [(1, { busMaster := true })], hostLost := lost } }

theorem test_met_OrderingOperations_fence :
    (fenced1 (job (fenceOp 1)) false).enters 0 (·.opcode == 0x05) = some (fenced1 (job (fenceOp 1)) false, job (fenceOp 1)) ∧
      (∀ q ∈ (fenced1 (job (fenceOp 1)) false).ahead (job (fenceOp 1)), q.phase = .retired) ∧ (job (fenceOp 0)).op.fld 0 0 1 = 0 ∧
      (job (fenceOp 1)).op.fld 0 0 1 ≠ 0 ∧ (fenced1 (job (fenceOp 1)) false).writesHeld 0 = false ∧
      ((fenced1 (job (fenceOp 1)) false).fn 1).busMaster = true ∧ (fenced1 (job (fenceOp 1)) true).glb.hostLost = true ∧
      (∃ q ∈ ({ base with board := [job {}, { job (fenceOp 0) with id := 1 }] } : Dev).ahead { job (fenceOp 0) with id := 1 }, q.phase ≠ .retired) ∧
      ({ base with board := [job {}, { job (fenceOp 0) with id := 1 }] } : Dev).enters 1 (·.opcode == 0x05) =
        some ({ base with board := [job {}, { job (fenceOp 0) with id := 1 }] }, { job (fenceOp 0) with id := 1 }) := by
  refine ⟨rfl, ?_⟩; decide

/-- A SKIP_IF that skips one operation while SUM0 equals 0, or while it differs from 0. -/
def skipOp (cmp : Nat) : OpWord := { opcode := 0x51, d1 := 256 * cmp + 65536 }

theorem test_met_OrderingOperations_skip :
    (one (job (skipOp 0))).enters 0 (·.opcode == 0x51) = some (one (job (skipOp 0)), job (skipOp 0)) ∧ (job (skipOp 0)).parent = none ∧
      skipTest ((job (skipOp 1)).op.fld 1 1 1) 0 0 = false ∧ skipTest ((job (skipOp 0)).op.fld 1 1 1) 0 0 = true ∧
      (job (skipOp 0)).op.fld 1 2 2 = 1 ∧ (fp32.decode (0x7FC00000 % 2 ^ 32)).isNan = true := by decide

/-- The device with memory, whose context 0 has the segment [0, 2^16) over frame 0, and cache lines. -/
def segd (p : Place) (ls : List Line) : Dev :=
  { dramJob p with
    ctxs := [(0, { segs := [(0, { length := 1, enable := true, read := true, write := true })] })], cache := { lines := ls } }

/-- A dirty line of atom 0. -/
def line0 : Line := ⟨0, 0, 0, List.replicate 64 1, true, false, .normal, 0, none⟩

/-- A FENCE VISIBLE whose context holds that line, whose die can be written or is in self-refresh; or whose host read has returned. -/
def visible (p : Place) (k : Stack → Stack := id) : Dev :=
  { segd p [line0] with mem := mem1 k, glb := { base.glb with fns := [(1, { busMaster := true })] } }

theorem test_met_OrderingOperations_visible :
    (visible (job (fenceOp 1))).enters 0 (·.opcode == 0x05) = some (visible (job (fenceOp 1)), job (fenceOp 1)) ∧
      (visible { job (fenceOp 1) with hostRead := true }).enters 0 (·.opcode == 0x05) =
        some (visible { job (fenceOp 1) with hostRead := true }, { job (fenceOp 1) with hostRead := true }) ∧
      (visible (job (fenceOp 1))).ahead (job (fenceOp 1)) = [] ∧ (visible (job (fenceOp 1))).glb.hostLost = false ∧
      (visible (job (fenceOp 1))).writesHeld 0 = false ∧
      (∀ l ∈ (visible (job (fenceOp 1))).cache.lines, l.dirty = true → l.tag = tagOf 0 → (visible (job (fenceOp 1))).blocked (64 * l.atom) = false ∧
        l.data.length = 64 ∧ ((visible (job (fenceOp 1))).mem.frame (stackOf (64 * l.atom)) (frameOf (64 * l.atom))).zero = false) ∧
      (∃ l ∈ (visible (job (fenceOp 1)) fun k => { k with selfRefresh := true }).cache.lines, l.dirty = true ∧ l.tag = tagOf 0 ∧
        (visible (job (fenceOp 1)) fun k => { k with selfRefresh := true }).blocked (64 * l.atom) = true) := by
  refine ⟨rfl, rfl, ?_⟩; decide +kernel

/-- ACQUIRE of 64 bytes at address `a` with a mode, and FLUSH of them. -/
def acq (mode a : Nat) : OpWord := { opcode := 0x03, d0 := a, d1 := 64, d2 := mode }
def flushOp (a : Nat) : OpWord := { opcode := 0x04, d0 := a, d1 := 64 }

theorem test_met_CacheOperations_fault :
    (segd (job (acq 0 0x10000)) []).enters 0 (fun o => o.opcode == 0x03 && o.fld 2 0 1 == 0) =
        some (segd (job (acq 0 0x10000)) [], job (acq 0 0x10000)) ∧
      (segd (job (acq 1 0x10000)) []).enters 0 (fun o => o.opcode == 0x03 && o.fld 2 0 1 == 1) =
        some (segd (job (acq 1 0x10000)) [], job (acq 1 0x10000)) ∧
      (segd (job (acq 2 0x10000)) []).enters 0 (fun o => o.opcode == 0x03 && o.fld 2 0 1 == 2) =
        some (segd (job (acq 2 0x10000)) [], job (acq 2 0x10000)) ∧
      (segd (job (flushOp 0x10000)) []).enters 0 (·.opcode == 0x04) = some (segd (job (flushOp 0x10000)) [], job (flushOp 0x10000)) ∧
      (job (flushOp 0x10000)).op.word 1 ≠ 0 ∧ ((segd (job (acq 0 0x10000)) []).ctx 0).covers 0x10000 64 = false := by
  refine ⟨rfl, rfl, rfl, rfl, ?_⟩; decide

theorem test_met_CacheOperations_done :
    (segd (job (acq 0 0)) [line0]).enters 0 (fun o => o.opcode == 0x03 && o.fld 2 0 1 == 0) = some (segd (job (acq 0 0)) [line0], job (acq 0 0)) ∧
      ((segd (job (acq 0 0)) [line0]).ctx 0).covers 0 64 = true ∧ (segd (job (acq 0 0)) [line0]).place 0 = some (job (acq 0 0)) ∧
      ((segd (job (acq 0 0)) [line0]).cache.lines.filter fun l => (segd (job (acq 0 0)) [line0]).rangeLines 0 0 64 l) = [line0] ∧
      line0.dirty = true ∧ line0.data.length = 64 ∧ line0.atom < 12 * 2 ^ 30 ∧ (segd (job (acq 0 0)) [line0]).blocked 0 = false ∧
      (segd (job (acq 0 0)) [line0]).admits (.tagged line0.tag) 0 = true ∧ ((segd (job (acq 0 0)) [line0]).mem.frame 0 0).zero = false ∧
      ((segd (job (acq 1 0)) []).ctx 0).bypass.length < 4 ∧ 4 ≤ [Bypass.mk 0 0, ⟨0, 0⟩, ⟨0, 0⟩, ⟨0, 0⟩].length ∧
      (segd (job (flushOp 0)) [line0]).flushPick (job (flushOp 0)) line0 = true ∧ (job { opcode := 0x04 : OpWord }).op.word 1 = 0 := by
  refine ⟨rfl, ?_⟩; decide

/-! ## Hypotheses met: tiles, copies, gathers -/

/-- Stream 5, and address 64 of the scratchpads, as operand words. -/
def stream5 : Nat := 2 ^ 48 + 5
def pad64 : Nat := 2 ^ 49 + 64

/-- A TILE_LOAD of a 1 × 4 INT8 matrix from its payload to stream 5. -/
def loadJob : Place := { job { opcode := 0x10, d1 := stream5, d2 := 2 ^ 34 + 1, d4 := 6 * 2 ^ 32 } with payload := zeros 0 4 }

/-- A TILE_STORE of that matrix from the scratchpad to the first bytes of segment 0. -/
def storeJob : Place := job { opcode := 0x11, d0 := pad64, d2 := 2 ^ 34 + 1, d3 := 4, d4 := 6 * 2 ^ 32 }

/-- A COPY of 64 bytes from address 0 to address 128, each with hint STREAM. -/
def copyJob : Place := job { opcode := 0x12, d0 := 2 ^ 50, d1 := 2 ^ 50 + 128, d2 := 64 }

/-- What the load, the store and the copy read. -/
def loaded0 : Mio × Mat :=
  ((one loadJob).io loadJob).readMat ((one loadJob).agent loadJob) loadJob 0 (loadJob.op.word 3) (loadJob.op.shape 0).1 (loadJob.op.shape 0).2.1
    (loadJob.op.shape 0).2.2
def stored0 : Mio × Mat :=
  ((segd storeJob []).io storeJob).source ((segd storeJob []).agent storeJob) storeJob 0 ((segd storeJob []).elementCore storeJob)
def copied0 : Mio × List Byte × List Bool :=
  ((segd copyJob []).io copyJob).flat ((segd copyJob []).agent copyJob) copyJob 0 (copyJob.op.word 2)

theorem test_met_TileMoves_load :
    (one loadJob).enters 0 (·.opcode == 0x10) = some (one loadJob, loadJob) ∧
      loaded0.1.delivers (loadJob.op.ref 1) (loaded0.1.written (one loadJob) loadJob 1 loaded0.2) ∧ loadJob.payload = some ⟨0, [0, 0, 0, 0]⟩ ∧
      (loadJob.op.ref 1).kind = 1 ∧
      ∀ r < (loadJob.op.shape 0).1, r * loadJob.op.word 3 + rowBytes (loadJob.op.shape 0).2.2 (loadJob.op.shape 0).2.1 ≤ 4 := by
  refine ⟨rfl, ?_⟩; unfold Mio.delivers Mio.done; decide +kernel

theorem test_met_TileMoves_store :
    (segd storeJob []).enters 0 (·.opcode == 0x11) = some (segd storeJob [], storeJob) ∧ storeJob.inputsReady = true ∧
      (stored0.1.writeMat ((segd storeJob []).agent storeJob) (storeJob.op.ref 1) (storeJob.op.word 3)
        { stored0.2 with codes := stored0.2.stored.map fun e => e.map (·.code) }).done := by
  refine ⟨rfl, ?_⟩; unfold Mio.done; decide +kernel

theorem test_met_TileMoves_copy :
    (segd copyJob []).enters 0 (·.opcode == 0x12) = some (segd copyJob [], copyJob) ∧ (copyJob.op.ref 1).kind ≠ 2 ∧ copied0.1.short = false ∧
      (copied0.1.write ((segd copyJob []).agent copyJob) (copyJob.op.ref 1) (copyJob.op.ref 1).addr copied0.2.1 copied0.2.2).done := by
  refine ⟨rfl, ?_⟩; unfold Mio.done; decide +kernel

theorem test_met_TileMoves_conclude (m : Mio) : (one loadJob).place loadJob.id = some loadJob ∧ (one loadJob).WorkOnly (one loadJob) ∧
    ({ m with waits := true } : Mio).waits = true ∧ ({ m with waits := false, fault := true } : Mio).fault = true ∧
    ({ m with waits := false, fault := false, short := true } : Mio).short = true ∧ 0 < ceilDiv 1 64 ∧ (1 : Int) ≠ 0 ∧ floatFmt 4 = some bf16 :=
  ⟨rfl, ⟨⟨_, _, _, _, _, _, _, _, _, rfl⟩, ⟨_, _, _, rfl⟩, fun _ => ⟨_, rfl⟩, fun _ => ⟨_, _, _, _, rfl⟩, fun _ => ⟨_, _, _, _, _, rfl⟩⟩,
    rfl, rfl, rfl, by decide, by decide, rfl⟩

/-- Devices that serve everything, and ranges that context 0 may read and write there. -/
theorem test_met_calm (p : Place) : (one p).Calm ∧ (segd p []).Calm := by
  refine ⟨⟨rfl, fun _ => rfl⟩, rfl, fun a => ?_⟩
  unfold Dev.blocked; rcases stackOf a with _ | n <;> rfl

theorem test_met_ranges (p : Place) : (segd p []).Reads 0 0 64 ∧ (segd p []).Writes 0 64 64 := by
  have h : ∀ b, b < 128 → stackOf b = 0 ∧ frameOf b = 0 := fun b hb => ⟨by unfold stackOf; omega, by unfold frameOf offsetOf; omega⟩
  refine ⟨⟨0, 0, rfl, fun b _ hb => ?_⟩, 64, 0, rfl, fun b _ hb => ?_⟩
  · rw [(h b (by omega)).1, (h b (by omega)).2]; rfl
  · rw [(h b (by omega)).1, (h b (by omega)).2]; rfl

theorem test_met_CopyMovesAnAtom :
    (segd copyJob []).enters 0 (·.opcode == 0x12) = some (segd copyJob [], copyJob) ∧ copyJob.payload = none ∧ copyJob.op.acquires = false ∧
      copyJob.op.word 2 = 64 ∧ (copyJob.op.ref 0).kind = 0 ∧ (copyJob.op.ref 1).kind = 0 ∧ (copyJob.op.ref 0).hint = 1 ∧
      (copyJob.op.ref 1).hint = 1 ∧ (copyJob.op.ref 0).addr = 0 ∧ (copyJob.op.ref 1).addr = 128 ∧
      ((segd copyJob []).ctx copyJob.ctxIx).covering 0 = some (0, { length := 1, enable := true, read := true, write := true }) ∧
      ((segd copyJob []).ctx copyJob.ctxIx).covering 128 = some (0, { length := 1, enable := true, read := true, write := true }) ∧
      128 + 64 ≤ 0 + 1 * 65536 ∧ (segd copyJob []).blocked 128 = false ∧
      (segd copyJob []).admits (.tagged (tagOf copyJob.ctxIx)) 0 = true ∧ (segd copyJob []).admits (.tagged (tagOf copyJob.ctxIx)) 128 = true ∧
      ((segd copyJob []).mem.frame 0 0).zero = false ∧ (segd copyJob []).mem.isPoison 0 = false ∧
      (segd copyJob []).mem.upsets.get [] ((segd copyJob []).mem.locate 0 / 64) = [] := by
  refine ⟨rfl, ?_⟩; decide

/-- A TILE_STORE that expects one INT8 tile of 1 × 4 on stream 5, a good tile for it, and a route from a gather station to the matrix station that
carries a tile. -/
def storeStream : Place := job { opcode := 0x11, d0 := stream5, d2 := 2 ^ 34 + 1, d3 := 4, d4 := 6 * 2 ^ 32 }
def tile5 : Tile := Tile.sealed { format := 6, rows := 1, cols := 4, stream := 5, payload := List.replicate 64 0 }
def route5 (t : Tile) : Route := { spec := { seat := 0, src := 0, dst := 2, stream := 5, credits := 2 }, credits := 1, queue := [⟨t, none⟩] }
def arriving (t : Tile) : Dev := { one storeStream with routes := [route5 t] }

theorem test_met_TileArrivals :
    (arriving tile5).routes[0]? = some (route5 tile5) ∧ (route5 tile5).queue = ⟨tile5, none⟩ :: [] ∧
      (∀ b : Bool, (arriving tile5).consumer (route5 tile5) ⟨tile5, none⟩ b = some (storeStream, 0, 1)) ∧
      (arriving tile5).place storeStream.id = some storeStream ∧ tile5.shiftMode ≠ 2 ∧ (storeStream.stream 0).draining = false ∧
      tile5.check = tile5.checkAs (storeStream.op.ref 0).addr tile5.sequence ∧ (tile5.sequence + 2 ^ 32 - storeStream.op.seqBase) % 2 ^ 32 < 1 ∧
      storeStream.tileAt 0 tile5.sequence = none ∧ (storeStream.stream 0).received < 1 ∧
      1 ≤ ((Tile.sealed { tile5 with sequence := 1 }).sequence + 2 ^ 32 - storeStream.op.seqBase) % 2 ^ 32 ∧ storeStream.status = .ok ∧
      (Tile.sealed { tile5 with stream := 6 }).check ≠ (Tile.sealed { tile5 with stream := 6 }).checkAs 5 0 ∧
      (Tile.sealed { tile5 with stream := 6 }).check = (Tile.sealed { tile5 with stream := 6 }).checkAs 6 0 ∧
      ({ route5 tile5 with unread := 1 } : Route).unread ≠ 0 ∧ (∀ q ∈ (arriving tile5).board, q.unsent = []) := by decide +kernel

/-- Table 7: four BF16 rows of 32 elements, one atom each, on M0 at frame 0, for seat S0. -/
def table7 : TableRec :=
  { table := 7, seat := 0, rowFormat := 3, dimension := 32, slotAtoms := 1, rows := 4, stackMask := 1, interleave := 0, pcMask := 1,
    base := 0, lengthPerStack := 65536 }

/-- The device with memory whose image places that table. -/
def tabled (p : Place) : Dev := { dramJob p with layout := some { image with tables := [table7] } }

/-- GATHER of one row by a one-byte index from the payload, to stream 5; PREFETCH_ROWS of it; GATHER_POOL of one bag. -/
def gatherJob : Place := { job { opcode := 0x20, d1 := stream5, d2 := 1 + 7 * 2 ^ 32 + 1 * 2 ^ 48 + 4 * 2 ^ 56 } with payload := zeros 0 1 }
def prefetchJob : Place := { job { opcode := 0x22, d2 := 1 + 7 * 2 ^ 32 + 1 * 2 ^ 48 } with payload := zeros 0 1 }
def poolJob (bags : List Byte) : Place :=
  { job { opcode := 0x21, d1 := stream5, d2 := 1 + 7 * 2 ^ 32 + 1 * 2 ^ 48 + 4 * 2 ^ 56 } with payload := some ⟨4, bags⟩ }

/-- What the GATHER delivers. -/
def gathered0 : Gathered := ((tabled gatherJob).gatherPin gatherJob).gatherResult gatherJob []

theorem test_met_Gathers_gather :
    (tabled gatherJob).enters 0 (·.opcode == 0x20) = some (tabled gatherJob, gatherJob) ∧ (tabled gatherJob).place 0 = some gatherJob ∧
      gathered0.work.waits = false ∧ gathered0.work.fault = false ∧ gathered0.work.short = false ∧ (gatherJob.op.ref 1).kind = 1 := by
  refine ⟨rfl, ?_⟩; decide +kernel

/-- The bags of a GATHER_POOL, and what it delivers. -/
def bagsOf (p : Place) : Mio × List Byte × List Bool :=
  (((tabled p).gatherPin p).io p).readOperand p.frontEnd p 4 0 (4 * p.op.fld 2 0 4)
def pooled (p : Place) : Gathered := ((tabled p).gatherPin p).poolBags p table7 (bagsOf p).1 [0] []

theorem test_met_Gathers_pool :
    (tabled (poolJob [0, 0, 0, 0])).enters 0 (·.opcode == 0x21) = some (tabled (poolJob [0, 0, 0, 0]), poolJob [0, 0, 0, 0]) ∧
      (bagsOf (poolJob [0, 0, 0, 0])).1.waits = false ∧ (bagsOf (poolJob [0, 0, 0, 0])).1.fault = false ∧
      (bagsOf (poolJob [0, 0, 0, 0])).1.short = false ∧ true ∉ (bagsOf (poolJob [0, 0, 0, 0])).2.2 ∧
      ((List.range 1).map fun k => field (bagsOf (poolJob [0, 0, 0, 0])).2.1 (4 * k) 4).foldl (· + ·) 0 ≤ 16777216 ∧
      16777216 < ((List.range 1).map fun k => field (bagsOf (poolJob [1, 0, 0, 1])).2.1 (4 * k) 4).foldl (· + ·) 0 ∧
      table7.defaultKind = 0 := by
  refine ⟨rfl, ?_⟩; decide +kernel

theorem test_met_Gathers_pool_work :
    (pooled (poolJob [0, 0, 0, 0])).work.delivers ((poolJob [0, 0, 0, 0]).op.ref 1) ((pooled (poolJob [0, 0, 0, 0])).out (poolJob [0, 0, 0, 0])) := by
  unfold Mio.delivers Mio.done; decide +kernel

/-- The rows of table 7 lie in frame 0, which admits context 0. -/
theorem test_met_Gathers_reads :
    (tabled gatherJob).opTable gatherJob = table7 ∧ table7.dimension % 2 = 0 ∧ (tabled gatherJob).TableReads gatherJob table7 ∧
      (tabled gatherJob).Takes gatherJob 1 1 64 64 ∧ (tabled gatherJob).Feeds gatherJob 0 0 1 ∧
      (tabled (poolJob [0, 0, 0, 0])).Feeds (poolJob [0, 0, 0, 0]) 4 0 4 := by
  have h : ∀ b, b < 65536 → stackOf b = 0 ∧ frameOf b = 0 := fun b hb => ⟨by unfold stackOf; omega, by unfold frameOf offsetOf; omega⟩
  refine ⟨by decide, rfl, ⟨fun row hr => ?_, .inl rfl⟩, .inl (by decide), .inl ⟨_, rfl, rfl, by decide⟩, .inl ⟨_, rfl, rfl, by decide⟩⟩
  have k : ∀ r < 4, (tabled gatherJob).prefetching gatherJob.frontEnd 7 r = false ∧ (tabled gatherJob).rowSram (table7.place r).stack 7 r = false ∧
    ∀ a ∈ table7.slotOf r, a < 1000 := by decide +kernel
  obtain ⟨k1, k2, k3⟩ := k row hr
  refine ⟨k1, k2, fun a ha b h1 h2 => ?_⟩
  have := k3 a ha
  rw [(h b (by omega)).1, (h b (by omega)).2]; decide +kernel

theorem test_met_Gathers_prefetch :
    (tabled prefetchJob).enters 0 (·.opcode == 0x22) = some (tabled prefetchJob, prefetchJob) ∧
      ((((tabled prefetchJob).gatherPin prefetchJob).io prefetchJob).readOperand prefetchJob.frontEnd prefetchJob 0 0
        (prefetchJob.op.fld 2 0 4 * prefetchJob.op.fld 2 6 1)).1.waits = false ∧ paysFor prefetchJob.payload 0 = true := by
  refine ⟨rfl, ?_⟩; decide +kernel

/-- A PREFETCH_ROWS whose row 0 has not landed, and what its gather unit reads. -/
def flying : Place := { prefetchJob with phase := .finished, prefetch := [(0, 1)] }
def landing : Mio × List (List Byte × Bool) := ({ dev := tabled flying } : Mio).rowAtoms flying ((tabled flying).opTable flying) 0 0 0

theorem test_met_Gathers_land :
    (tabled flying).place 0 = some flying ∧ flying.prefetch = (0, 1) :: [] ∧ flying.cancelled = false ∧
      (tabled flying).reg.waits (.row flying.id 0) = false ∧ (tabled flying).prefetched flying ((tabled flying).opTable flying) 0 0 = none ∧
      landing.1.waits = false ∧ landing.1.fault = false ∧ landing.2.length = 1 ∧
      ((tabled flying).lineAtoms flying ((tabled flying).opTable flying) 0 0).length = 1 := by decide +kernel

/-! ## Hypotheses met: tricks and migrations -/

/-- A TRICK_OPEN of handle 9 with ROWS_MAX 1. -/
def openJob : Place := job { opcode := 0x30, d0 := 9 + 2 ^ 32 }

/-- Trick 0 with that handle, in a state. -/
def trick0 (x : TrickState) (k : Trick → Trick := id) : Trick :=
  k { entry := 0, handle := 9, seat := 0, ring := 0, rowsMax := 1, cascade := false, state := x, handleInUse := true }

/-- A device with tricks, for table 7. -/
def tricked (p : Place) (k : Trk) : Dev := { tabled p with trk := k }

theorem test_met_Tricks_open :
    (one openJob).enters 0 (·.opcode == 0x30) = some (one openJob, openJob) ∧ openJob.op.opcode = 0x30 ∧ openJob.phase = .running ∧
      (one openJob).trk.byHandle 0 (openJob.op.fld 0 0 4) = none ∧ (one openJob).trk.admission 0 (openJob.op.fld 0 4 4) = some 0 ∧
      (one openJob).sramLost .trickTable 0 = false ∧ (one openJob).place 0 = some openJob ∧
      ({ tricks := [trick0 .open_] } : Trk).byHandle 0 9 = some (trick0 .open_) ∧
      ({ tricks := [trick0 .open_ fun t => { t with rowsMax := 1973790 }] } : Trk).admission 0 1 = none ∧
      ({ tricks := [trick0 .open_ fun t => { t with rowsMax := 1973789 }] } : Trk).admission 0 1 = some 1 := by
  refine ⟨rfl, ?_⟩; decide +kernel

/-- TRICK_PUT of one row, with its index in the payload and its BF16 elements at address 0; TRICK_COMMIT; TRICK_ABORT. -/
def putJob : Place := { job { opcode := 0x31, d2 := 1 + 7 * 2 ^ 32 + 2 ^ 48 + 4 * 2 ^ 56, d3 := 9 } with payload := zeros 0 1 }
def commitJob : Place := job { opcode := 0x32, d0 := 9 }
def abortJob : Place := job { opcode := 0x33, d0 := 9 }

/-- The segment of the device with memory, and trick 0. -/
def putting (p : Place) (x : TrickState) (rows : Nat := 1) : Dev :=
  { segd p [] with layout := some { image with tables := [table7] }, trk := { tricks := [trick0 x fun t => { t with rowsMax := rows }] } }

theorem test_met_Tricks_handle :
    (putting putJob .open_).enters 0 (·.opcode == 0x31) = some (putting putJob .open_, putJob) ∧ putJob.op.fld 3 0 4 = 9 ∧
      (putting commitJob .aborted).enters 0 (·.opcode == 0x32) = some (putting commitJob .aborted, commitJob) ∧ commitJob.op.fld 0 0 4 = 9 ∧
      (putting abortJob .commit).enters 0 (·.opcode == 0x33) = some (putting abortJob .commit, abortJob) ∧
      (one putJob).trk.byHandle 0 9 = none ∧ (putting putJob .aborted).trk.byHandle 0 9 = some (trick0 .aborted) ∧
      (trick0 .aborted).ring = putJob.ring ∧ (trick0 .aborted).commit ≠ some 0 ∧ (putting putJob .aborted).sramLost .trickTable 0 = false := by
  refine ⟨rfl, by decide, rfl, by decide, rfl, ?_⟩; decide

/-- TRICK_COMMIT and TRICK_ABORT of an open trick, the first with all PUTs staged or behind one that runs. -/
theorem test_met_Tricks_end :
    (putting commitJob .open_).enters 0 (·.opcode == 0x32) = some (putting commitJob .open_, commitJob) ∧
      (putting abortJob .open_).enters 0 (·.opcode == 0x33) = some (putting abortJob .open_, abortJob) ∧
      (putting abortJob .open_).place 0 = some abortJob ∧ (putting commitJob .open_).trk.byHandle 0 9 = some (trick0 .open_) ∧
      (trick0 .open_).ring = 0 ∧ (trick0 .open_).commit = none ∧ (putting commitJob .open_).putsDone (trick0 .open_) commitJob = true ∧
      ({ putting commitJob .open_ with board := [putJob, { commitJob with id := 1 }] } : Dev).putsDone (trick0 .open_)
        { commitJob with id := 1 } = false := by
  refine ⟨rfl, rfl, ?_⟩; decide

/-- The indices of that PUT, and its elements. -/
def putIx (rows : Nat) : Mio × List Byte × List Bool := ((putting putJob .open_ rows).io putJob).readOperand putJob.frontEnd putJob 0 0 1
def putSrc (rows : Nat) : Mio × List Byte × List Bool := (putIx rows).1.readOperand putJob.frontEnd putJob 1 0 64

theorem test_met_Tricks_put :
    (putting putJob .open_).opTable putJob = table7 ∧ putJob.op.fld 2 0 4 * putJob.op.fld 2 6 1 = 1 ∧
      putJob.op.fld 2 0 4 * rowBytes (putJob.op.fld 2 7 1) table7.dimension = 64 ∧ (putSrc 1).1.waits = false ∧ (putSrc 1).1.fault = false ∧
      (putSrc 1).1.short = false ∧ true ∉ (putIx 1).2.2 ∧ true ∉ (putSrc 1).2.2 ∧ listRows table7 1 1 (putIx 1).2.1 = [some 0] ∧
      (trick0 .open_).staged + 1 ≤ (trick0 .open_).rowsMax ∧ (trick0 .open_ fun t => { t with rowsMax := 0 }).rowsMax < 0 + 1 := by decide +kernel

/-- Rows were staged. -/
def stagedOk (r : Except Nat Trk) : Bool := match r with
  | .ok _ => true
  | .error _ => false

/-- The row of zeros as the codec makes it. -/
def row0 : Coded := ⟨[], List.replicate 64 0⟩

theorem test_met_Tricks_put_good :
    encodeRows table7 4 [] [(0, 0, List.replicate 32 0)] = .good [(0, row0)] ∧
      stagedOk ((putSrc 1).1.dev.trk.stageAll [stagedRow table7 (trick0 .open_) 0 0 row0]) = true := by decide +kernel

/-- The record of row 0 of table 7 by trick 0. -/
def rec0 (e : Option Nat := none) : Staged :=
  { stack := 0, granule := 4096, table := 7, row := 0, kind := 1, trick := 0, handle := 9, seat := 0, pc := 0, bytes := List.replicate 64 1,
    header := [], poison := false, epoch := e, order := 0 }

theorem test_met_CommitsAndSettling_commit :
    ({ tricks := [trick0 .commit], staged := [rec0] } : Trk).trick 0 = some (trick0 .commit) ∧ (trick0 .commit).migrate = none ∧
      (tricked (job {}) { tricks := [trick0 .commit], staged := [rec0] }).logBlocked = false ∧
      (tricked (job {}) { tricks := [trick0 .commit], staged := [rec0] }).sramLost .trickTable 0 = false ∧ (trick0 .commit).cascade = false ∧
      ({ tricks := [trick0 .commit], staged := [rec0] } : Trk).stacksOf (trick0 .commit) ≠ [] ∧
      (trick0 .commit fun t => { t with cascade := true }).cascade = true ∧
      (tricked commitJob {}).place 0 = some commitJob ∧ (tricked (job {}) {}).blocked (rec0).addr = false ∧
      ({ tricks := [trick0 .committing fun t => { t with epoch := some 1, unacked := [0] }], staged := [rec0] } : Trk).trick 0 =
        some (trick0 .committing fun t => { t with epoch := some 1, unacked := [0] }) ∧ 0 ∈ [0] ∧ ([0] : List Nat).filter (· ≠ 0) = [] ∧
      ([0, 11] : List Nat).filter (· ≠ 0) ≠ [] ∧ (1 : Nat) = ({} : Trk).lce + 1 ∧ (rec0).kind = 1 ∧ (rec0).epoch = none ∧
      (∀ u ∈ ({ tricks := [trick0 .committing fun t => { t with epoch := some 1, unacked := [0] }], staged := [rec0] } : Trk).tricks,
        u.entry = 0 → u = trick0 .committing fun t => { t with epoch := some 1, unacked := [0] }) := by decide

/-- The same trick committed at epoch 1, which LCE has reached. -/
def settling0 (p : Place := job {}) (st : List Nat := [0]) : Dev :=
  tricked p { lce := 1, lastEpoch := 1, tricks := [trick0 .committed fun t => { t with epoch := some 1 }], staged := [rec0 (some 1)], settling := st }

/-- EPOCH_PIN of LCE, and of epoch `e`. -/
def pinJob (which e : Nat) : Place := job { opcode := 0x34, d0 := e, d1 := which }

theorem test_met_CommitsAndSettling_settle :
    (settling0).trk.trick 0 = some (trick0 .committed fun t => { t with epoch := some 1 }) ∧
      (settling0 (job {}) []).maySettle (trick0 .committed fun t => { t with epoch := some 1 }) = true ∧
      ({ base with rings := [(0, { pin := some 0 })] } : Dev).rings ≠ [] ∧ (({ base with rings := [(0, { pin := some 0 })] } : Dev).ring 0).pin = some 0 ∧
      (settling0).trk.staged.find? (fun r => r.stack == 0 && r.granule == 4096 && r.kind == 1 && r.epoch.isSome) = some (rec0 (some 1)) ∧
      (settling0).table 7 = some table7 ∧ 0 ∈ (settling0).trk.settling ∧ (settling0).trk.olderPending (rec0 (some 1)) = false ∧
      (∀ a ∈ (settling0).settleRanges table7 (rec0 (some 1)), (settling0).rangeBlocked a.1 a.2 = false) ∧
      (settling0).trk.copiesOf (rec0 (some 1)) = [] ∧ (rec0 (some 1)).bytes.length = 64 ∧ (settling0).rowSram (table7.place 0).stack 7 0 = false ∧
      table7.isSplit = false ∧ table7.slotAtoms = 1 ∧ (table7.place 0).addr % 64 = 0 ∧ (pinJob 0 0).op.fld 1 0 1 = 0 ∧
      (pinJob 1 1).op.fld 1 0 1 ≠ 0 ∧ (settling0 (pinJob 1 1)).trk.floor ≤ 1 ∧ 1 ≤ (settling0 (pinJob 1 1)).trk.lce ∧
      (settling0 (pinJob 1 2)).trk.lce < 2 ∧ (settling0 (pinJob 1 1)).enters 0 (·.opcode == 0x34) = some (settling0 (pinJob 1 1), pinJob 1 1) ∧
      (tricked (job {}) { rebuilding := true, tricks := [trick0 .committed] }).trk.rebuilding = true ∧
      (∀ k ∈ ({ rebuilding := true, tricks := [trick0 .committed] } : Trk).tricks, k.state ≠ .prepared) := by decide

/-- ROW_MIGRATE of row `r` of table 7 to stack 0, pseudo-channel 1 by a mode. -/
def moveJob (mode : Nat) (r : Nat := 0) : Place := job { opcode := 0x35, d0 := r, d1 := 7 + mode * 2 ^ 16, d2 := 2 }

/-- The migration trick of such an operation. -/
def moving0 : Migration := { table := 7, row := 0, mode := 0, stack := 0, pcs := [1], er := 0 }
def movingTrick (x : TrickState) (m : Migration := moving0) : Trick :=
  { entry := 0, handle := 0, seat := 0, ring := 0, rowsMax := 1, cascade := false, state := x, handleInUse := false, commit := some 0, migrate := some m }

theorem test_met_RowMigration :
    (tabled (moveJob 0)).enters 0 (fun o => o.opcode == 0x35 && o.fld 1 2 1 == 0) = some (tabled (moveJob 0), moveJob 0) ∧
      (tabled (moveJob 1)).enters 0 (fun o => o.opcode == 0x35 && o.fld 1 2 1 == 1) = some (tabled (moveJob 1), moveJob 1) ∧
      (tabled (moveJob 2)).enters 0 (fun o => o.opcode == 0x35 && o.fld 1 2 1 == 2) = some (tabled (moveJob 2), moveJob 2) ∧
      (tabled (moveJob 0)).place 0 = some (moveJob 0) ∧ (∀ t ∈ (tabled (moveJob 0)).trk.tricks, t.commit ≠ some (moveJob 0).id) ∧
      (tabled (moveJob 0 4)).migrateOk table7 4 0 0 [1] = false ∧ (tabled (moveJob 0 3)).migrateOk table7 3 0 0 [1] = true ∧
      ((tabled (moveJob 0)).table ((moveJob 0).op.fld 1 0 2)).getD {} = table7 ∧ setBits 64 ((moveJob 0).op.word 2) = [1] ∧
      (tabled (moveJob 0)).trk.admission 0 1 = some 0 := by
  refine ⟨rfl, rfl, rfl, rfl, ?_⟩; decide +kernel

/-- The device in which the migration has its trick. -/
def migrating (x : TrickState) (m : Migration := moving0) : Dev := tricked (moveJob 0) { tricks := [movingTrick x m] }

/-- The row as the migration reads it. -/
def movedRow : Mio × List (List Byte × Bool) := ((migrating .open_).io (moveJob 0)).rowAtoms (moveJob 0) table7 0 0 0

theorem test_met_RowMigration_read :
    movedRow.1.waits = false ∧ movedRow.1.fault = false ∧ table7.isSplit = false ∧ (migrating .open_).table 7 = some table7 ∧
      stagedOk (movedRow.1.dev.trk.stageAll (migrationCopies (movingTrick .open_) moving0 [] (List.replicate 64 0) [] false)) = true := by
  decide +kernel

theorem test_met_RowMigration_reach :
    ∀ trk, movedRow.1.dev.trk.stageAll (migrationCopies (movingTrick .open_) moving0 [] (List.replicate 64 0) [] false) = .ok trk →
      (movedRow.1.reachRecords (trk.staged.drop movedRow.1.dev.trk.staged.length)).waits = false := by
  intro trk h
  have : (match movedRow.1.dev.trk.stageAll (migrationCopies (movingTrick .open_) moving0 [] (List.replicate 64 0) [] false) with
    | .ok k => (movedRow.1.reachRecords (k.staged.drop movedRow.1.dev.trk.staged.length)).waits
    | .error _ => false) = false := by decide +kernel
  rw [h] at this; exact this

theorem test_met_RowMigration_check :
    (migrating .commit).trk.tricks.find? (fun t => t.commit == some 0 && t.state == .commit) = some (movingTrick .commit) ∧
      moving0.conflict = false ∧ (migrating .commit).migrationOk moving0 = true ∧
      (migrating .commit { moving0 with row := 4 }).migrationOk { moving0 with row := 4 } = false ∧ (migrating .commit).logBlocked = false ∧
      (∀ r ∈ (migrating .commit).trk.recordsOf (movingTrick .commit), (migrating .commit).blocked r.addr = false) ∧ (migrating .commit { moving0 with conflict := true, retries := 15 }).trk.tricks.find?
        (fun t => t.commit == some 0 && t.state == .commit) = some (movingTrick .commit { moving0 with conflict := true, retries := 15 }) ∧
      15 ≤ 15 ∧ (moveJob 0).op.opcode = 0x35 ∧ (moveJob 0).phase = .running ∧ ({ putJob with stall := .trickBackpressure } : Place).op.opcode = 0x31 ∧
      (∀ r ∈ (migrating .commit).trk.log, r.committed = true → r.epoch ≤ (migrating .commit).trk.lastEpoch) ∧
      (migrating .commit).trk.lastEpoch < 2 ^ 64 - 2 := by
  decide

/-! ## Hypotheses met: core operations, quantisation -/

/-- MATMUL and GEMV of a 1 × 4 INT8 payload and a 4 × 1 INT8 matrix in the scratchpad to BF16 on stream 5. -/
def productOf (o : Nat) : Place :=
  { job { opcode := o, d1 := pad64, d2 := stream5, d3 := 1 + 4 * 2 ^ 32, d4 := 1 + 6 * 2 ^ 32 + 6 * 2 ^ 40 + 4 * 2 ^ 48 } with payload := zeros 0 4 }

/-- The work of reading such operands, and what it leaves of the checks. -/
def sound (m : Mio) : Bool := !m.waits && !m.fault && !m.short
def aOf (p : Place) : Mio × Mat := ((one p).io p).source ((one p).agent p) p 0 ((one p).elementCore p)
def bOf (p : Place) : Mio × (Nat → Mat) := (aOf p).1.sourceBy ((one p).agent p) p 1

theorem sound_done {m : Mio} (h : sound m = true) : m.done := by
  simpa [sound, Mio.done, and_assoc] using h

theorem sound_delivers {m out : Mio} {o : Opref} (h : sound m = true) (k : o.kind = 1) : m.delivers o out := ⟨sound_done h, fun g => absurd k g⟩

/-- A MATMUL of 128 K-blocks of one output block, two in each core of the cluster. -/
def wideJob : Place := job { opcode := 0x40, d1 := pad64, d2 := stream5, d3 := 1 + 8192 * 2 ^ 32, d4 := 1 + 6 * 2 ^ 32 + 6 * 2 ^ 40 + 4 * 2 ^ 48 }

theorem test_met_CoreOperations_product :
    (withDev (one (productOf 0x40))).Enters (.matmul 0) (one (productOf 0x40)) (productOf 0x40) ∧
      (withDev (one (productOf 0x41))).Enters (.gemv 0) (one (productOf 0x41)) (productOf 0x41) ∧ (productOf 0x40).partner = none ∧
      sound ((one (productOf 0x40)).readFactors (productOf 0x40)).1 = true ∧ sound ((one (productOf 0x41)).readFactors (productOf 0x41)).1 = true ∧
      ((productOf 0x40).op.ref 2).kind = 1 ∧ ((productOf 0x41).op.ref 2).kind = 1 ∧ ((one wideJob).opCores wideJob)[0]? = some 0 ∧
      ((one wideJob).opCores wideJob).Nodup ∧ ((one wideJob).unitsOf wideJob 0).getLast? = some 1 := by
  refine ⟨⟨by decide, .inl ⟨.inl ⟨rfl, rfl⟩, .inr ⟨rfl, by decide +kernel⟩⟩⟩, ⟨by decide, .inl ⟨.inr ⟨rfl, rfl⟩, .inr ⟨rfl, by decide +kernel⟩⟩⟩, ?_⟩
  decide +kernel

theorem test_met_CoreOperations_supplied :
    (one (productOf 0x40)).Supplies (productOf 0x40) 0 ∧ (one (productOf 0x40)).Supplies (productOf 0x40) 1 ∧
      (one (productOf 0x40)).Accepts (productOf 0x40) 2 :=
  ⟨.inr (.inr ⟨⟨rfl, fun a => by simp [Dev.blocked, one, base, Mem.stack, SMap.get]⟩, fun r h => .inl ⟨⟨0, List.replicate 4 0⟩, rfl, rfl, by
      have : r = 0 := by have : r < 1 := h; omega
      subst this; decide⟩⟩), .inl (by decide), .inl (by decide)⟩

theorem test_met_CoreOperations_full :
    (one wideJob).enters 0 (·.opcode == 0x40) = some (one wideJob, wideJob) ∧ wideJob.inputsReady = true ∧ wideJob.combineFreed = false ∧
      wideJob.combineHeld = false ∧ (one wideJob).fullBuffers wideJob ≠ [] ∧
      (one { wideJob with combineHeld := true }).place 0 = some { wideJob with combineHeld := true } := by
  refine ⟨rfl, ?_⟩; decide +kernel

/-- VECTOR of a 1 × 4 BF16 payload to stream 5 with FUNC `f`; SRC2 in the scratchpad. -/
def vecJob (f : Nat) : Place :=
  { job { opcode := 0x48, d1 := if f = 1 then pad64 else 0, d2 := stream5, d3 := 1 + 4 * 2 ^ 32, d4 := f * 2 ^ 32 + 4 * 2 ^ 40 + 4 * 2 ^ 48 } with payload := zeros 0 8 }

/-- REDUCE and SUMMARY of the same payload. -/
def redJob (axis : Nat) : Place :=
  { job { opcode := 0x49, d2 := stream5, d3 := 1 + 4 * 2 ^ 32, d4 := axis * 2 ^ 8 + 4 * 2 ^ 16 + 4 * 2 ^ 24 } with payload := zeros 0 8 }
def sumJob : Place := { job { opcode := 0x50, d3 := 1 + 4 * 2 ^ 32, d4 := 4 * 2 ^ 8 } with payload := zeros 0 8 }

theorem test_met_CoreOperations_vector :
    (withDev (one (vecJob 1))).Enters (.vector 0) (one (vecJob 1)) (vecJob 1) ∧ vecBinary ((vecJob 1).op.fld 4 4 1 % 64) = true ∧
      vecBinary ((vecJob 0x10).op.fld 4 4 1 % 64) = false ∧ sound (bOf (vecJob 1)).1 = true ∧ sound (aOf (vecJob 0x10)).1 = true ∧
      ((vecJob 1).op.ref 2).kind = 1 ∧ (vecJob 0x10).inPads 1 = false := by
  refine ⟨⟨by decide, .inr (.inl ⟨rfl, rfl⟩)⟩, ?_⟩; decide +kernel

theorem test_met_CoreOperations_reduce :
    (withDev (one (redJob 0))).Enters (.reduce 0) (one (redJob 0)) (redJob 0) ∧ (redJob 0).op.fld 4 1 1 = 0 ∧ (redJob 1).op.fld 4 1 1 ≠ 0 ∧
      (withDev (one (redJob 1))).Enters (.reduce 0) (one (redJob 1)) (redJob 1) ∧ sound (aOf (redJob 0)).1 = true ∧ sound (aOf (redJob 1)).1 = true ∧
      (withDev (one sumJob)).Enters (.summary 0) (one sumJob) sumJob ∧ sumJob.failed = [] ∧ sound (aOf sumJob).1 = true ∧
      ((redJob 0).op.ref 2).kind = 1 ∧ (Mat.lost 4 1 64).anyPoison = true := by
  refine ⟨⟨by decide, .inr (.inr (.inl ⟨rfl, rfl⟩))⟩, by decide, by decide, ⟨by decide, .inr (.inr (.inl ⟨rfl, rfl⟩))⟩, by decide +kernel,
    by decide +kernel, ⟨by decide, .inr (.inr (.inr (.inr (.inr ⟨rfl, rfl⟩))))⟩, by decide +kernel⟩

theorem test_met_CoreOperations_sums : ([] : List (Elem × Elem)).length % 64 = 0 ∧ [((⟨.zero, 0⟩, ⟨.zero, 0⟩) : Elem × Elem)] ≠ [] ∧
    (List.replicate 64 ((⟨.zero, 0⟩, ⟨.zero, 0⟩) : Elem × Elem)).length ≤ 64 ∧ (∃ p ∈ [((.zero, .inf false) : Machine.Num × Machine.Num)],
      p.1.isZero = true ∧ p.2.isInf = true) ∧ 0x10 ≤ 0x15 ∧ 0 < 1 := by decide

/-- QUANTIZE of a 1 × 64 BF16 payload to INT8 on stream 5, or, with `w`, as the first of a widening pair; its partner. -/
def quantJob (w : Bool) : Place :=
  { job { opcode := 0x4A, d2 := stream5, d3 := 1 + 64 * 2 ^ 32, d4 := (if w then 2 ^ 8 else 0) + 4 * 2 ^ 16 + 6 * 2 ^ 24 } with
    payload := zeros 0 128, partner := if w then some 1 else none }
def rerunJob : Place := { productOf 0x40 with id := 1, partner := some 0, exceeded := 1, payload := none }

/-- DEQUANTIZE of a 1 × 64 INT8 payload with its shift array. -/
def dequantJob : Place :=
  { job { opcode := 0x4B, d2 := stream5, d3 := 1 + 64 * 2 ^ 32, d4 := 6 * 2 ^ 16 + 4 * 2 ^ 24 } with payload := zeros 0 65 }

theorem test_met_Quantisation :
    (one (quantJob false)).enters 0 (·.opcode == 0x4A) = some (one (quantJob false), quantJob false) ∧ (quantJob false).inputsReady = true ∧
      (quantJob false).failed = [] ∧ ((quantJob false).op.ref 2).kind = 1 ∧ sound (aOf (quantJob false)).1 = true ∧ (quantJob true).partner = some 1 ∧
      (quantJob true).op.widens = true ∧ ({ base with board := [quantJob true, rerunJob] } : Dev).place 1 = some rerunJob ∧
      (withDev (one dequantJob)).Enters (.dequantize 0) (one dequantJob) dequantJob ∧
      sound (((one dequantJob).io dequantJob).readQuantised ((one dequantJob).agent dequantJob) dequantJob).1 = true ∧
      (dequantJob.op.ref 2).kind = 1 := by
  refine ⟨rfl, by decide, rfl, by decide, by decide +kernel, rfl, by decide, rfl,
    ⟨by decide, .inr (.inr (.inr (.inr (.inl ⟨rfl, rfl⟩))))⟩, ?_⟩
  decide +kernel

/-- The pair with its QUANTIZE retired, or still running; its partner has or has not kept a result. -/
def paired (x : Phase) (p : Place) : Dev := { base with board := [{ quantJob true with phase := x }, p] }
def keeper (x : Nat) : Place := { rerunJob with exceeded := x, result := some ⟨[[0]], []⟩ }
def firstPass : Place := { rerunJob with payload := zeros 0 4, exceeded := 0 }

theorem test_met_Quantisation_pair :
    (withDev (paired .running firstPass)).Enters (.matmul 1) (paired .running firstPass) firstPass ∧ firstPass.partner ≠ none ∧ firstPass.result = none ∧
      sound ((paired .running firstPass).readFactors firstPass).1 = true ∧
      (withDev (paired .running (keeper 0))).Enters (.matmul 1) (paired .running (keeper 0)) (keeper 0) ∧ (keeper 0).result = some ⟨[[0]], []⟩ ∧
      (paired .running (keeper 0)).pairOpen (keeper 0) = true ∧ (paired .retired (keeper 0)).pairOpen (keeper 0) = false ∧ (keeper 0).exceeded = 0 ∧
      ((keeper 0).op.ref 2).kind = 1 ∧
      (paired .retired (keeper 1)).enters 1 (fun o => o.opcode == 0x40 || o.opcode == 0x41) = some (paired .retired (keeper 1), keeper 1) ∧
      (keeper 1).inputsReady = true ∧ (paired .retired (keeper 1)).pairOpen (keeper 1) = false ∧ (keeper 1).exceeded ≠ 0 ∧ (keeper 1).result ≠ none ∧
      sound (({ dev := paired .retired (keeper 1) } : Mio).readB ((paired .retired (keeper 1)).agent (keeper 1)) (keeper 1)).1 = true := by
  refine ⟨⟨by decide, .inl ⟨.inl ⟨rfl, rfl⟩, .inr ⟨rfl, by decide +kernel⟩⟩⟩, by decide, rfl, by decide +kernel,
    ⟨by decide, .inl ⟨.inl ⟨rfl, rfl⟩, .inr ⟨rfl, by decide +kernel⟩⟩⟩, rfl, by decide, by decide, rfl, by decide, rfl, ?_⟩
  decide +kernel

theorem test_met_Quantisation_shift :
    (quantMax 6 [.fin false 1 0]).isZero = false ∧ 0 < 1 ∧ 127 < leastShift (.fin false 1 140) (quantBound 6) ∧
      leastShift (.fin false 254 0) (quantBound 6) = 1 := by decide

/-! ## Hypotheses met: graphs, command buffers, CHECK and EGRESS -/

/-- LAUNCH_GRAPH in a mode for graph 3: a body of one entry, or no argument. -/
def graphJob (mode n : Nat) : Place := job { opcode := 0x7F, d0 := 3 + mode * 2 ^ 16, d2 := n }

/-- The entry of a MARK without DEST, a PUBLISH of it, and the version that it makes. -/
def publishJob : Place := { graphJob 1 1 with payload := some ⟨1, 1 :: List.replicate 63 0⟩ }
def graph3 : Graph := ⟨3, 1, [({ opcode := 0x01 }, none)], 1, true, 0⟩

/-- A device in slow cycle 1 whose seat S0 has 128 bytes of graph store and perhaps that version. -/
def stored (p : Place) (gs : List Graph) : Dev :=
  { one p with slow := 1, layout := some { image with seats := [{ kind := 1, contexts := 0, clusters := 1, saveLength := 128 }] },
               seats := [(0, { state := .inService, graphs := gs, graphCount := if gs = [] then [] else [(3, 1)] })] }

/-- The body that the PUBLISH reads. -/
def published : Mio × List Byte × List Bool :=
  (((stored publishJob []).pruneGraphs 0).io publishJob).readOperand ((stored publishJob []).agent publishJob) publishJob 1 0 64

theorem test_met_Graphs_publish :
    (stored publishJob []).enters 0 (fun o => o.opcode == 0x7F && o.fld 0 2 1 == 1) = some (stored publishJob [], publishJob) ∧
      publishJob.op.fld 2 0 4 = 1 ∧ sound published.1 = true ∧
      bodyOps 1 (entriesOf published.2.1) = ([({ opcode := 0x01 }, none)], true) ∧
      bodyGood ((stored publishJob []).layout.getD {}) 0 0 [({ opcode := 0x01 }, none)] = true ∧ (bodyOps 1 (entriesOf (List.replicate 64 0))).2 = false ∧
      published.1.dev.storeUsed 0 + 64 * 2 ≤ ((stored publishJob []).seatRec 0).store ∧
      ((stored publishJob []).seatRec 0).store < published.1.dev.storeUsed 0 + 64 * 3 ∧
      (∀ h ∈ ((stored publishJob [graph3]).seat 0).graphs, h.graph = 3 → h.version < ((stored publishJob [graph3]).seat 0).graphCount.get 0 3 + 1) := by
  refine ⟨rfl, ?_⟩; decide +kernel

theorem test_met_Graphs_launch :
    (stored (graphJob 0 0) []).enters 0 (fun o => o.opcode == 0x7F && o.fld 0 2 1 == 0) = some (stored (graphJob 0 0) [], graphJob 0 0) ∧
      (graphJob 0 0).body = [] ∧ (graphJob 0 0).bodyNext = 0 ∧ (graphJob 0 0).pinned = none ∧ (graphJob 0 0).phase = .running ∧
      ((stored (graphJob 0 0) []).pruneGraphs 0).findVersion 0 3 0 = none ∧ ((stored (graphJob 0 0) [graph3]).pruneGraphs 0).findVersion 0 3 0 = some graph3 ∧
      (stored (graphJob 0 0) [graph3]).findVersion 0 3 1 = some graph3 ∧ (∀ o ∈ graph3.body, ∀ w ∈ o.1.argRefs o.2, (o.1.ref w).addr < 0) ∧
      (∃ o ∈ [(({ opcode := 0x01, d1 := 3 * 2 ^ 48 } : OpWord), (none : Option Payload))], ∃ w ∈ o.1.argRefs o.2, 0 ≤ (o.1.ref w).addr) ∧
      (stored (graphJob 2 0) []).enters 0 (fun o => o.opcode == 0x7F && o.fld 0 2 1 == 2) = some (stored (graphJob 2 0) [], graphJob 2 0) := by
  refine ⟨rfl, ?_⟩; decide +kernel

/-- A command buffer of one zero record, as the payload of a RUN_CMDBUF. -/
def buffer1 : List Byte :=
  leBytes 4 0x2200 ++ leBytes 2 3 ++ leBytes 2 0 ++ leBytes 4 1 ++ leBytes 4 0 ++ leBytes 4 (crc32c 0 (List.replicate 32 0)) ++ List.replicate 44 0
    ++ List.replicate 32 0
def cmdbufJob (b : List Byte) : Place := { job { opcode := 0x7E, d1 := b.length } with payload := some ⟨0, b⟩ }

theorem test_met_Graphs_cmdbuf :
    (one (cmdbufJob buffer1)).enters 0 (·.opcode == 0x7E) = some (one (cmdbufJob buffer1), cmdbufJob buffer1) ∧ (cmdbufJob buffer1).body = [] ∧
      sound (((one (cmdbufJob buffer1)).io (cmdbufJob buffer1)).readOperand ((one (cmdbufJob buffer1)).agent (cmdbufJob buffer1))
        (cmdbufJob buffer1) 0 0 ((cmdbufJob buffer1).op.word 1)).1 = true ∧ (cmdbufJob buffer1).phase = .running ∧ paysFor (cmdbufJob buffer1).payload 0 = true ∧ cmdbufHeader buffer1 = true ∧
      cmdbufHeader [] = false ∧ cmdbufHeader (buffer1.set 64 1) = false := by
  refine ⟨rfl, ?_⟩; decide +kernel

/-- What a record translates to is the implementation's, so a buffer is translated under a premise on it alone. -/
theorem test_met_Graphs_translated (h : Config.translate (List.replicate 32 0) = some []) : cmdbufOps buffer1 = .ok [] := by
  have a : cmdbufHeader buffer1 = true := by decide +kernel
  have b : (List.range (field buffer1 8 4)).map (fun i => slice buffer1 (64 + 32 * i) 32) = [List.replicate 32 0] := by decide +kernel
  have c : dependsOk 0 (field (List.replicate 32 0) 2 2) = true := by decide +kernel
  simp only [cmdbufOps, a, b, translateAll, translateRecord, c, h]; rfl

/-- CHECK of 64 bytes of zeros from the payload with a DEST, compared or not; EGRESS of 8 bytes from the payload to a host address. -/
def checkJob (cmp : Nat) : Place := { job { opcode := 0x70, d1 := 64, d2 := 0xFFFFFFFF, d4 := cmp * 2 ^ 8, d5 := 64 } with payload := zeros 0 64 }
def egressJob (a : Nat) : Place := { job { opcode := 0x80, d1 := a, d2 := 8 } with payload := zeros 0 8 }

/-- The same, with a dirty line in a die in self-refresh. -/
def stuckCheck : Place := job { opcode := 0x70, d1 := 64 }
def stuckDev : Dev := { segd stuckCheck [line0] with mem := mem1 fun k => { k with selfRefresh := true } }

theorem test_met_ChecksAndEgress_check :
    (one (checkJob 1)).enters 0 (·.opcode == 0x70) = some (one (checkJob 1), checkJob 1) ∧
      (one (checkJob 1)).stuckLine (fun l => !paysFor (checkJob 1).payload 0 && (one (checkJob 1)).rangeLines 0 0 64 l) = none ∧
      sound (((((one (checkJob 1)).io (checkJob 1)).flush fun l => !paysFor (checkJob 1).payload 0 && (one (checkJob 1)).rangeLines 0 0 64 l).unitRead
        ((one (checkJob 1)).agent (checkJob 1)) (checkJob 1) 64)).1 = true ∧
      ((checkJob 1).op.fld 4 1 1).testBit 0 = true ∧ ((checkJob 0).op.fld 4 1 1).testBit 0 = false ∧
      (crcKind 0).value 0xFFFFFFFF 0 (List.replicate 64 0) ≠ (checkJob 1).op.word 3 ∧
      stuckDev.stuckLine (fun l => !paysFor stuckCheck.payload 0 && stuckDev.rangeLines 0 0 64 l) = some line0 := by
  refine ⟨rfl, ?_⟩; decide +kernel

/-- A device whose VF may write to the host, with the BAR0 of that VF at 0x10000. -/
def hosted (p : Place) (lost : Bool := false) : Dev :=
  { one p with glb := { base.glb with fns := [(1, { busMaster := true })], bars := [(2, 0x10000)], hostLost := lost } }

theorem test_met_ChecksAndEgress_egress :
    (hosted (egressJob 0)).enters 0 (·.opcode == 0x80) = some (hosted (egressJob 0), egressJob 0) ∧ (hosted (egressJob 0)).inBars 0 8 = false ∧
      (hosted (egressJob 0)).hostGone 0 = false ∧ ((hosted (egressJob 0)).ring 0).state ≠ .hostLost ∧
      sound (((hosted (egressJob 0)).io (egressJob 0)).flat ((hosted (egressJob 0)).agent (egressJob 0)) (egressJob 0) 0 8).1 = true ∧
      (hosted (egressJob 0) true).hostGone 0 = true ∧ (hosted (egressJob 0x10000)).inBars 0x10000 8 = true ∧
      (hosted (egressJob 0x10000)).ownPage 0 0x10000 8 = none ∧ (hosted (egressJob 0x19FF8)).inBars 0x19FF8 8 = true ∧
      (hosted (egressJob 0x19FF8)).ownPage 0 0x19FF8 8 = some 0x9FF8 ∧ 0x9000 ≤ 0x9FF8 ∧ 0x9FF8 % 8 = 0 := by
  refine ⟨rfl, ?_⟩; decide +kernel

/-! ## Hypotheses met: the cascade and the Quinay ports -/

/-- Module 0 of cascade 5 with `n` modules, its dealer or not; module 1 is behind port 0 when `r` holds. -/
def cast (n dealer : Nat) (r : Bool) (b : List Place) : Dev :=
  { base with
    board := b,
    layout := some { image with cascade := { role := 1, dealer := dealer, cascadeId := 5, members := n, dealerIndex := 1 - dealer } },
    qlk := { ports := [(0, { state := .up })], route := if r then [(1, 128)] else [], members := [(0, { step := some 0 })] } }

/-- EXCHANGE of 64 bytes of the payload to module 1; ALL_TO_ALL of 64 bytes in the group of modules 0 and 1; STEP_TOKEN in a mode for a step. -/
def exchangeJob : Place := { job { opcode := 0x60, d2 := 64, d3 := 1 } with payload := zeros 0 64 }
def allToAllJob : Place := { job { opcode := 0x61, d2 := 64, d3 := 2 * 2 ^ 16 } with payload := zeros 0 128 }
def tokenJob (mode step : Nat) : Place := job { opcode := 0x62, d0 := step, d1 := mode }

/-- Another operation, whose four messages to module 1 are unanswered. -/
def crowd : Place := { exchangeJob with id := 1, phase := .finished, unacked := [(1, 0), (1, 1), (1, 2), (1, 3)] }

/-- The EXCHANGE once its message stands to be sent. -/
def sender : Place := { exchangeJob.finish with unsentMsgs := [(1, 0)] }
def sent : Mio × QMessage := ({ dev := cast 2 1 true [sender] } : Mio).entryMessage ((cast 2 1 true [sender]).agent sender) sender (1, 0)

theorem test_met_CascadeOperations_message :
    (cast 2 1 true [sender]).place 0 = some sender ∧ (1, 0) ∈ sender.unsentMsgs ∧ (cast 2 1 true [sender]).reaches 1 = some 0 ∧
      (cast 2 1 true [sender]).pairBusy 1 < 4 ∧ sent.1.waits = false ∧ sent.1.fault = false ∧
      ((cast 2 1 true [sender]).port 0).takes sent.2 = true ∧ dataClass sent.2.kind = true ∧ (cast 2 1 false [sender]).reaches 1 = none ∧
      sender.op.opcode ≠ 0x62 := by
  refine ⟨rfl, ?_⟩; decide +kernel

/-- The device as the EXCHANGE has its message to send, as the meaning makes it. -/
def toSend : Dev :=
  ((cast 2 1 true [exchangeJob]).updPlace 0 fun q => { q.finish with unsentMsgs := [(1, 0)] }).stallPlace exchangeJob .peer
def toSendJob : Place := (toSend.place 0).getD exchangeJob
def toSent : Mio × QMessage := ({ dev := toSend } : Mio).entryMessage (toSend.agent toSendJob) toSendJob (1, 0)

theorem test_met_CascadeOperations_exchange :
    (cast 2 1 false [exchangeJob]).enters 0 (·.opcode == 0x60) = some (cast 2 1 false [exchangeJob], exchangeJob) ∧
      exchangeJob.inputsReady = true ∧ ceilDiv (exchangeJob.op.word 2) 65536 = 1 ∧ exchangeJob.op.fld 3 0 2 = 1 ∧
      (cast 2 1 false [exchangeJob]).reaches 1 = none ∧ exchangeJob.status = .ok ∧
      (cast 2 1 true [exchangeJob, crowd]).enters 0 (·.opcode == 0x60) = some (cast 2 1 true [exchangeJob, crowd], exchangeJob) ∧
      (cast 2 1 true [exchangeJob, crowd]).reaches 1 = some 0 ∧ 4 ≤ (cast 2 1 true [exchangeJob, crowd]).pairBusy 1 ∧
      (cast 2 1 true [exchangeJob]).enters 0 (·.opcode == 0x60) = some (cast 2 1 true [exchangeJob], exchangeJob) ∧
      (cast 2 1 true [exchangeJob]).reaches 1 = some 0 ∧ (cast 2 1 true [exchangeJob]).pairBusy 1 < 4 ∧ toSend.place 0 = some toSendJob ∧
      toSent.1.waits = false ∧ toSent.1.fault = false ∧ ((cast 2 1 true [exchangeJob]).port 0).takes toSent.2 = true := by
  refine ⟨rfl, ?_⟩; decide +kernel

/-- The own block of the ALL_TO_ALL as it is copied to address 0 of segment 0. -/
def a2aDev (b : List Place) : Dev := { cast 2 1 true b with mem := mem1, ctxs := (segd exchangeJob []).ctxs }
def a2aRead : Mio × List Byte × List Bool :=
  ({ dev := (a2aDev [allToAllJob, crowd]).numberCollective allToAllJob } : Mio).readOperand
    ((a2aDev [allToAllJob, crowd]).agent allToAllJob) allToAllJob 0 (0 * 64) 64
def a2aWrite : Mio :=
  a2aRead.1.write ((a2aDev [allToAllJob, crowd]).agent allToAllJob) (allToAllJob.op.ref 1) ((allToAllJob.op.ref 1).addr + 0 * 64) a2aRead.2.1 a2aRead.2.2

theorem test_met_CascadeOperations_allToAll :
    (a2aDev [allToAllJob, crowd]).enters 0 (·.opcode == 0x61) = some (a2aDev [allToAllJob, crowd], allToAllJob) ∧ allToAllJob.coll = none ∧
      allToAllJob.op.word 2 = 64 ∧ (a2aDev [allToAllJob, crowd]).cascade.moduleIndex - allToAllJob.op.fld 3 0 2 = 0 ∧ a2aWrite.done ∧
      (∀ k ∈ ((List.range (allToAllJob.op.fld 3 2 2)).filter (· ≠ 0)).map (fun j => (allToAllJob.op.fld 3 0 2 + j, j)),
        (a2aDev [allToAllJob, crowd]).reaches k.1 ≠ none ∧ 4 ≤ (a2aDev [allToAllJob, crowd]).pairBusy k.1) := by
  refine ⟨rfl, ?_⟩; unfold Mio.done; decide +kernel

theorem test_met_CascadeOperations_issue :
    (cast 1 1 true [tokenJob 0 2]).enters 0 (fun o => o.opcode == 0x62 && o.fld 1 0 1 == 0) =
        some (cast 1 1 true [tokenJob 0 2], tokenJob 0 2) ∧ (∀ q ∈ (cast 1 1 true [tokenJob 0 2]).board, q.op.opcode = 0x62 → q.id = 0) ∧
      (tokenJob 0 2).op.word 0 ≠ (cast 1 1 true [tokenJob 0 2]).qlk.step + 1 ∧
      (cast 2 1 true [tokenJob 0 1]).enters 0 (fun o => o.opcode == 0x62 && o.fld 1 0 1 == 0) =
        some (cast 2 1 true [tokenJob 0 1], tokenJob 0 1) ∧ (tokenJob 0 1).op.word 0 = (cast 2 1 true [tokenJob 0 1]).qlk.step + 1 ∧
      (∃ m ∈ (cast 2 1 true [tokenJob 0 1]).included, ((cast 2 1 true [tokenJob 0 1]).member m).step ≠ some 0) ∧ (tokenJob 0 1).phase = .running ∧
      (∀ m ∈ (cast 1 1 true [tokenJob 0 1]).included, ((cast 1 1 true [tokenJob 0 1]).member m).step = some 0) ∧
      (cast 1 1 true [tokenJob 0 1]).included.filter (· ≠ (cast 1 1 true [tokenJob 0 1]).cascade.moduleIndex) = [] := by
  refine ⟨rfl, ?_⟩; decide +kernel

/-- The same, with the token of step 0, or with step 1 reached. -/
def tokenHeld (p : Place) (dealer : Nat) : Dev :=
  { cast 2 dealer false [p] with qlk := { (cast 2 dealer false [p]).qlk with tokens := [⟨0, 7, 6, [(1, 2)], false⟩] } }

theorem test_met_CascadeOperations_await :
    (cast 2 0 true [tokenJob 1 2]).enters 0 (fun o => o.opcode == 0x62 && o.fld 1 0 1 == 1) = some (cast 2 0 true [tokenJob 1 2], tokenJob 1 2) ∧
      (cast 2 0 true [tokenJob 1 2]).tokenOf 2 = none ∧ 2 ≠ (cast 2 0 true [tokenJob 1 2]).qlk.step + 1 ∧ (tokenJob 1 2).op.word 0 = 2 ∧
      (cast 2 0 true [tokenJob 1 1]).tokenOf 1 = none ∧ (tokenJob 1 1).op.word 0 = (cast 2 0 true [tokenJob 1 1]).qlk.step + 1 ∧
      (tokenHeld (tokenJob 1 0) 0).tokenOf ((tokenJob 1 0).op.word 0) = some ⟨0, 7, 6, [(1, 2)], false⟩ ∧
      (∀ u ∈ (tokenHeld (tokenJob 1 0) 0).trk.tricks, u.handle ≠ 1) ∧ (∀ r ∈ [(1, 2)], r.2 ≠ 1) := by
  refine ⟨rfl, ?_⟩; decide +kernel

theorem test_met_CascadeOperations_respond :
    (cast 2 1 true [tokenJob 2 0]).enters 0 (fun o => o.opcode == 0x62 && o.fld 1 0 1 == 2) = some (cast 2 1 true [tokenJob 2 0], tokenJob 2 0) ∧
      (cast 2 1 true [tokenJob 2 0]).qlk.step < (tokenJob 2 1).op.word 0 ∧ (tokenJob 2 0).op.word 0 ≤ (cast 2 1 true [tokenJob 2 0]).qlk.step ∧
      (cast 2 1 true [tokenJob 2 0]).cascade.dealer = 1 ∧ (tokenJob 2 0).op.fld 1 0 1 = 2 ∧ (cast 2 0 false [tokenJob 2 0]).cascade.dealer ≠ 1 ∧
      (cast 2 0 false [tokenJob 2 0]).reaches (cast 2 0 false [tokenJob 2 0]).cascade.dealerIndex = none ∧ (tokenJob 2 0).status = .ok := by
  refine ⟨rfl, ?_⟩; decide +kernel

/-- Handle 1 is reported by every member, committing or with one that aborted, or not by all; a decision may be owed, or found in the
commit log after a restart. -/
def reported (rs : List (Nat × Nat)) (restarted : Bool := false) : Dev :=
  { cast 2 1 true [] with
    qlk := { (cast 2 1 true []).qlk with members := [(0, { reports := [(1, 1)] }), (1, { reports := rs })], owed := [(7, 1)], restarted := restarted },
    trk := { log := [{ trick := 1, handle := 7, epoch := 2, cascade := true, seat := 0, decision := 1, dies := [], rows := 0 }] } }

theorem test_met_CascadeOperations_decisions :
    (∀ m ∈ (reported [(1, 1)]).included, ((reported [(1, 1)]).member m).report 1 = some 1) ∧
      (∀ m ∈ (reported [(1, 2)]).included, ((reported [(1, 2)]).member m).report 1 ≠ none) ∧
      (∃ m ∈ (reported [(1, 2)]).included, ((reported [(1, 2)]).member m).report 1 ≠ some 1) ∧
      (∃ m ∈ (reported []).included, ((reported []).member m).report 1 = none) ∧ (reported []).waitingDecisions.length ≤ 16 ∧
      (7, 1) ∈ (reported [] true).trk.loggedDecisions ∧ (∀ r ∈ (reported [] true).trk.loggedDecisions, r.1 ≠ 1) ∧
      (∃ m ∈ (reported [] true).included, ((reported [] true).member m).report 1 = some 1) ∧ (7, 1) ∈ (reported [(1, 1)]).qlk.owed ∧
      (∀ r ∈ (reported [(1, 1)]).qlk.owed, r.1 ≠ 1) ∧ (reported [(1, 1)]).decisionFor 1 = some (1, 1) ∧ (reported []).decisions ≠ [] ∧
      (reported []).logBlocked = false ∧ ({ reported [] with mem := mem1 fun k => { k with selfRefresh := true } } : Dev).logBlocked = true := by
  decide +kernel

theorem test_met_CascadeOperations_held :
    (cast 2 0 true []).qlk.heldEpoch = 0 ∧ ((⟨1, 5, 0, [], false⟩ : TokenRec).prev) = 0 ∧ ((⟨1, 5, 4, [], false⟩ : TokenRec).prev) ≠ 0 ∧
      (tokenHeld (tokenJob 1 0) 0).qlk.tokens ≠ [] ∧ (∃ r ∈ [((1 : Nat), (1 : Nat))], r.2 = 1) := by decide +kernel

/-- A device with port 0 in a state. -/
def ported (k : Port) : State := withDev { cast 2 1 true [] with qlk := { (cast 2 1 true []).qlk with ports := [(0, k)] } }
def cable : CableId := ⟨true, true, 48, 2, 8, [], []⟩

theorem test_met_Ports :
    ((ported { state := .empty }).dev.port 0).cable = false ∧ ((ported { state := .empty }).dev.port 0).state ≠ .identifying ∧ ((ported { state := .identifying }).dev.port 0).state = .identifying ∧
      cable.refusal = 0 ∧ ({ cable with checksumOk := false } : CableId).refusal = 1 ∧ ({ cable with maxPower := 49 } : CableId).refusal = 2 ∧
      ({ cable with lanes := 7 } : CableId).refusal = 3 ∧ ((ported { state := .training }).dev.port 0).locked = false ∧
      (ported { state := .up }).dev.board = [] ∧ ((ported { state := .up }).dev.port 0).outbox = [] ∧
      2 ≤ ((ported { state := .retraining, retrainFails := 2 }).dev.port 0).retrainFails ∧
      ((ported { state := .retraining, retrainFails := 1 }).dev.port 0).retrainFails < 2 ∧ (ported { state := .down }).ready = true ∧
      ((ported { state := .up, cable := true }).dev.port 0).cable = true ∧ (ported {}).dev.domainOn.testBit 2 = true ∧
      ((ported { state := .training, locked := true }).dev.port 0).rxSeq = 0 ∧ 5 = (ported {}).dev.cascade.cascadeId ∧
      0 = (ported {}).dev.cascade.moduleIndex ∧ (0xFFFF : Nat) ≠ 1 := by decide +kernel

theorem test_met_Ports_quiet : (ported { state := .retraining }).dev.Quiet :=
  ⟨by decide +kernel, by decide +kernel⟩

/-- An operation whose message to module 1 awaits its XACK. -/
def unanswered (o : OpWord) : Place := { job o with phase := .finished, unacked := [(1, 0)] }

theorem test_met_Ports_route :
    (∃ q ∈ (cast 2 1 true [unanswered exchangeJob.op]).board, ∃ u ∈ q.unacked, u.1 = 1) ∧
      (∀ q ∈ (cast 2 1 true [unanswered exchangeJob.op]).board, ∀ u ∈ q.unacked, u.1 ≠ 2) ∧
      (unanswered exchangeJob.op).status = .ok ∧ (∃ u ∈ (unanswered exchangeJob.op).unacked, u.1 ∈ (cast 2 1 true []).routed 0) ∧
      (∀ q ∈ (cast 2 1 true [unanswered exchangeJob.op]).board, q.op.opcode ≠ 0x62) := by decide +kernel

/-- A message of module 1 to this one, with a body and its CHECK. -/
def letter (kind : Nat) (b : List Byte) (dest : Nat := 0) (seat : Nat := 0) : QMessage :=
  let m : QMessage := { src := 1, dst := 0, cascade := 5, kind := kind, seat := seat, context := 0, reason := 0, xseq := 0, coll := 0, dest := dest,
                        check := 0, poison := [], body := b }
  { m with check := m.checkOf }

/-- The device and the state that get it. -/
def desk : Dev := cast 2 1 true []
def desked (d : Dev) : State := withDev d

theorem test_met_MessagesAccepted :
    (desk.port 0).freedData + flitsOf (letter 3 []).body.length < 64 ∧ (desk.port 0).freedControl + flitsOf (letter 3 []).body.length < 64 ∧
      ({ letter 3 [] with cascade := 6 } : QMessage).cascade ≠ desk.cascade.cascadeId ∧ (letter 3 []).cascade = desk.cascade.cascadeId ∧
      (letter 3 []).dst = desk.cascade.moduleIndex ∧ ({ letter 3 [] with xseq := 1 } : QMessage).xseq ≠ desk.qlk.xrecv.get 0 1 ∧
      (letter 3 []).xseq = desk.qlk.xrecv.get 0 (letter 3 []).src ∧ desk.reaches (letter 3 []).src = some 0 ∧ (desk.port 0).outbox = [] ∧
      (desk.port 0).room 1 = true ∧ 0 < (desk.port 0).creditControl ∧ ((desked desk).dev.port 0).state = .up ∧
      (desk.acceptMessage 0 (letter 3 [])).2 = true ∧ ({ letter 3 [] with check := 1 } : QMessage).check ≠ (letter 3 []).checkOf := by
  decide +kernel

/-- The device once it accepted a message. -/
def took (d : Dev) (m : QMessage) : Dev := (d.acceptMessage 0 m).1

theorem test_met_QuinayMessages_control :
    desk.Accepted 0 (letter 3 (1 :: List.replicate 23 0)) (took desk (letter 3 (1 :: List.replicate 23 0))) ∧
      (letter 3 (1 :: List.replicate 23 0)).check = (letter 3 (1 :: List.replicate 23 0)).checkOf ∧
      field (letter 3 (1 :: List.replicate 23 0)).body 0 8 = (took desk (letter 3 (1 :: List.replicate 23 0))).qlk.step + 1 ∧
      field (letter 3 []).body 0 8 ≠ (took desk (letter 3 [])).qlk.step + 1 ∧ (∀ q ∈ (took desk (letter 3 [])).board, q.op.opcode ≠ 0x62) ∧
      desk.Accepted 0 (letter 4 (List.replicate 24 0)) (took desk (letter 4 (List.replicate 24 0))) ∧
      (took desk (letter 4 (List.replicate 24 0))).cascade.dealer = 1 ∧ (took (cast 2 0 true []) (letter 5 [])).cascade.dealer ≠ 1 ∧
      field (letter 5 (List.replicate 8 0 ++ [4])).body 8 1 = 4 := by
  refine ⟨⟨rfl, rfl, rfl, rfl⟩, by decide +kernel, by decide +kernel, by decide +kernel, by decide +kernel, ⟨rfl, rfl, rfl, rfl⟩, ?_⟩; decide +kernel

def waits1 (o : OpWord) : Dev := cast 2 1 true [unanswered o]

theorem test_met_QuinayMessages_answers :
    (waits1 exchangeJob.op).Accepted 0 (letter 6 []) (took (waits1 exchangeJob.op) (letter 6 [])) ∧
      (took (waits1 exchangeJob.op) (letter 6 [])).awaiting (letter 6 []) = some (unanswered exchangeJob.op) ∧
      (took (waits1 exchangeJob.op) (letter 6 [])).place 0 = some (unanswered exchangeJob.op) ∧
      (took (waits1 allToAllJob.op) { letter 7 [] with reason := 3 }).awaiting { letter 7 [] with reason := 3 } = some (unanswered allToAllJob.op) ∧
      (unanswered allToAllJob.op).op.opcode = 0x61 ∧ (letter 7 []).reason ≠ 3 ∧ (unanswered exchangeJob.op).status = .ok := by
  refine ⟨⟨rfl, rfl, rfl, rfl⟩, ?_⟩; decide +kernel

theorem test_met_QuinayMessages_quiet : (took (waits1 exchangeJob.op) (letter 6 [])).Quiet :=
  ⟨by decide +kernel, by decide +kernel⟩

/-- The same with memory and segment 0 of context 0, perhaps in self-refresh, and a route that carries stream 5 from port 0. -/
def holding (f : Stack → Stack) (credits : Nat) : Dev :=
  { desk with mem := mem1 f, ctxs := (segd exchangeJob []).ctxs, routes := [{ spec := { seat := 0, src := 5, srcPlace := 0, stream := 5 }, credits := credits }] }
def body64 : List Byte := List.replicate 64 1

theorem test_met_QuinayMessages_data :
    (holding id 1).Accepted 0 (letter 1 body64) (took (holding id 1) (letter 1 body64)) ∧
      ((took (holding id 1) (letter 1 body64)).seat 1).serves = false ∧ ((took (holding id 1) (letter 1 body64)).seat 0).serves = true ∧
      (took (holding id 1) { letter 2 body64 with coll := 8 }).laterCollective 0 8 = true ∧
      (took (holding id 1) (letter 2 body64)).laterCollective 0 0 = false ∧ (Opref.ofNat (letter 1 body64).dest).kind ≠ 1 ∧
      (took (holding (fun k => { k with selfRefresh := true }) 1) (letter 1 body64)).bodyHeld (letter 1 body64) = true ∧
      (took (holding id 1) (letter 1 body64)).bodyHeld (letter 1 body64) = false ∧ (letter 1 body64).ctxIx < 1024 ∧
      ((took (holding id 1) (letter 1 body64)).writeBody (letter 1 body64)).2.2 = false ∧
      ((took (holding id 1) (letter 1 body64 0x10000)).writeBody (letter 1 body64 0x10000)).2.2 = true ∧
      (letter 1 body64).check = (letter 1 body64).checkOf ∧ ({ letter 1 body64 with check := 1 } : QMessage).check ≠ (letter 1 body64).checkOf ∧
      0 ∈ (took (holding id 1) (letter 2 body64)).openCollectives 0 ∧ (Opref.ofNat (letter 1 body64 (5 + 2 ^ 48)).dest).kind = 1 ∧
      (took (holding id 1) (letter 1 body64)).exchangeRoute 0 0 5 = some 0 ∧
      ((took (holding id 1) (letter 1 body64)).routes[0]?.map (·.credits)) = some 1 ∧
      ({ letter 1 body64 with poison := [0] } : QMessage).check = ({ letter 1 body64 with poison := [0] } : QMessage).checkOf ∧
      ({ letter 1 body64 with poison := [0] } : QMessage).poison ≠ [] ∧
      ((took (holding id 0) (letter 1 body64)).routes[0]?.map (·.credits)) = some 0 := by
  refine ⟨⟨rfl, rfl, rfl, rfl⟩, ?_⟩; decide +kernel

/-- A block of the ALL_TO_ALL in place 0 stands to be sent again. -/
def again (r : Bool) (b : List Place) : Dev :=
  { cast 2 1 r b with qlk := { (cast 2 1 r b).qlk with resend := [(0, 1, 1)] } }

theorem test_met_QuinayMessages_timers :
    desk.reports = false ∧ (cast 2 1 true [tokenJob 1 1]).reports = true ∧ (cast 2 1 true [tokenJob 1 1]).cascade.dealer = 1 ∧
      (cast 2 0 true [tokenJob 1 1]).reports = true ∧ (cast 2 0 true [tokenJob 1 1]).reaches 1 = some 0 ∧
      (again false [allToAllJob]).place 0 = some allToAllJob ∧ allToAllJob.status = .ok ∧ (again false [allToAllJob]).reaches 1 = none ∧
      (again true [allToAllJob, crowd]).reaches 1 ≠ none ∧ 4 ≤ (again true [allToAllJob, crowd]).pairBusy 1 ∧
      ((ported { state := .up, freedData := 1 }).dev.port 0).freedData + ((ported { state := .up, freedData := 1 }).dev.port 0).freedControl ≠ 0 ∧
      ((ported { state := .up, nakRun := some (3, 7) }).dev.port 0).nakRun = some (3, 7) ∧ (1 : Nat) < 8 ∧ 8 ≤ 7 + 1 := by
  decide +kernel

/-! ## Hypotheses met: segments, seats, the host, reset and the invariant -/

/-- Seat S0 with one context, dedicated (1) or time-shared (2), with or without cluster 0, ring 0 and memory. -/
def housed (kind : Nat) (cs : List Nat := [0]) (f : Seat → Seat := id) (c : Ctx := {}) : Dev :=
  { base with
    board := [], mem := mem1, ctxs := [(0, c)], seats := [(0, f { state := .inService })],
    layout := some { image with seats := [{ kind := kind, contexts := 2, clusters := cs.length, saveBase := 0x100000, saveLength := 0x10000 }], clusters := cs } }
def housedS (kind : Nat) (cs : List Nat := [0]) (f : Seat → Seat := id) (c : Ctx := {}) : State := withDev (housed kind cs f c)

/-- Segment 0 written for frame 0, enabled or not. -/
def plot (on : Bool) (dropping : Bool := false) : Ctx :=
  { segs := [(0, { length := 1, enable := on, read := true, write := true, dropping := dropping })] }

theorem test_met_Segments_enable :
    (housedS 1 [0] id (plot false)).ready = true ∧ (housed 1 [0] id (plot false)).ctxExists 0 = true ∧
      ((housed 1 [0] id (plot false)).seg 0 0).enable = false ∧ (housed 1 [0] id (plot false)).segCheck 0 0 (1023 ||| 1) = 0 ∧
      (housed 1 [0] id (plot false)).segCheck 0 0 (1024 ||| 1) = 1 ∧ (housed 1 [0] id {}).segCheck 0 0 1 = 1 ∧
      ((housed 1 [0] id (plot true)).seg 0 0).enable = true ∧ 15 ||| 1 ≠ ((housed 1 [0] id (plot true)).seg 0 0).attr ∧
      6 ||| 1 = ((housed 1 [0] id (plot true)).seg 0 0).attr := by decide +kernel

theorem test_met_Segments_disable :
    (∀ r ∈ ({ housed 1 [0] id (plot true) with rings := [(0, { state := .stopped })] } : Dev).ctxRings 0,
        ((({ housed 1 [0] id (plot true) with rings := [(0, { state := .stopped })] } : Dev).ring r).state = .stopped ∨
          (({ housed 1 [0] id (plot true) with rings := [(0, { state := .stopped })] } : Dev).ring r).state = .inactive)) ∧
      (housed 1 [0] id (plot true)).ctxPlaces 0 = [] ∧
      (∃ r ∈ (housed 1 [0] id (plot true)).ctxRings 0, ((housed 1 [0] id (plot true)).ring r).state ≠ .stopped ∧
        ((housed 1 [0] id (plot true)).ring r).state ≠ .inactive) ∧
      ((housed 1 [0] id (plot true true)).seg 0 0).dropping = true ∧ ((housed 1 [0] id (plot true true)).seg 0 0).enable = true := by decide +kernel

theorem test_met_Segments_access :
    ((housed 1 [0] id (plot true)).ctx 0).covering 0xFFFF = some (0, { length := 1, enable := true, read := true, write := true }) ∧
      0xFFC0 + 64 ≤ 0 + 1 * 65536 ∧ 0 + 1 * 65536 < 0xFFC1 + 64 ∧ ((housed 1 [0] id (plot true)).ctx 0).covering 0x10000 = none ∧
      (housed 1 [0] id (plot true)).translate 0 0x10000 64 true false = .uncovered ∧
      (housed 1 [0] id (plot true)).translate 0 0xFFC1 64 true true = .denied 0 ∧ ({ dev := housed 1 } : Mio).fault = false ∧
      ({ dev := housed 1 } : Mio).waits = false ∧ stackOf (11 * 2 ^ 36) < 12 ∧ (housed 1).admits (.tagged 3) 0 = false := by decide +kernel

/-- A range of memory whose bytes are zeros, without poison and symbol errors, reads as zeros. -/
theorem readRange_blank (d : Dev) (w : Who) (a n : Nat) (b : ∀ x k, d.mem.bytes x k = List.replicate k 0) (p : d.mem.poison = [])
    (u : d.mem.upsets = []) : (d.readRange w a n).2.1 = List.replicate n 0 := by
  have one (x : Nat) : d.readAtom x none w = (d, List.replicate 64 0, false, false) := by
    simp [Dev.readAtom, b, Mem.isPoison, p, u, SMap.get]
  have all (l : List Nat) : ∀ k, (l.foldl (fun (q : Dev × List Byte × List Bool) i =>
      let u := q.1.readAtom (64 * (a / 64 + i)) none w
      (u.1, q.2.1 ++ u.2.1, q.2.2 ++ List.replicate 64 u.2.2.1)) (d, List.replicate k 0, List.replicate k false)).2.1 =
        List.replicate (k + 64 * l.length) 0 := by
    induction l with
    | nil => intro k; rfl
    | cons i l ih =>
      intro k; rw [List.foldl_cons]; simp only [one, List.replicate_append_replicate]; rw [ih]; congr 1; simp only [List.length_cons]; omega
  have e := all (List.range (ceilDiv (a % 64 + n) 64)) 0
  simp only [Dev.readRange]
  erw [e]
  simp [slice, List.take_replicate]

/-- What a map answers is the default or a value that it lists. -/
theorem get_or {α : Type} (e : α) (k : Nat) : ∀ s : SMap α, s.get e k = e ∨ ∃ q ∈ s, q.2 = s.get e k
  | [] => .inl rfl
  | q :: s => by
    by_cases h : q.1 = k
    · exact .inr ⟨q, by simp, by simp [SMap.get, h]⟩
    · rcases get_or e k s with h' | ⟨q', m', h'⟩
      · exact .inl (by simpa [SMap.get, h] using h')
      · exact .inr ⟨q', by simp [m'], by simpa [SMap.get, h] using h'⟩

/-- Memory that lists no byte, with no frame that lost its contents, holds zeros. -/
theorem bytes_blank (m : Mem) (c : m.cells = []) (l : ∀ e ∈ m.dies, ∀ f ∈ e.2.frames, f.2.lost = 0) (a n : Nat) :
    m.bytes a n = List.replicate n 0 := by
  have z (x f : Nat) : ((m.stack x).frames.get {} f).lost = 0 := by
    rcases get_or {} f (m.stack x).frames with h | ⟨q, i, h⟩
    · rw [h]
    · rw [← h]
      rcases get_or {} x m.dies with g | ⟨p, j, g⟩
      · have g : m.stack x = {} := g
        rw [g] at i; cases i
      · have g : p.2 = m.stack x := g
        exact l p j q (g ▸ i)
  simp [Mem.bytes, Mem.byte, Mem.rawByte, Mem.dflt, c, z, SMap.find, List.map_const']

/-- A field of zeros is 0. -/
theorem field_blank (n off w : Nat) : field (List.replicate n 0) off w = 0 := by
  have z (k : Nat) : leNat (List.replicate k 0) = 0 := by
    induction k with
    | zero => rfl
    | succ k ih => rw [List.replicate_succ, leNat, ih]; rfl
  simp only [field, slice, List.drop_replicate, List.take_replicate, List.replicate_append_replicate, z]

/-- The first of the values that a fold collects. -/
theorem foldl_first {D X P : Type} (f : D → P → D) (g : D → P → X) (p : P) (l : List P) (d : D) :
    ∃ t, ((p :: l).foldl (fun q p => (f q.1 p, q.2 ++ [g q.1 p])) (d, [])).2 = g d p :: t := by
  have grow (l : List P) : ∀ q : D × List X, ∃ t, (l.foldl (fun q p => (f q.1 p, q.2 ++ [g q.1 p])) q).2 = q.2 ++ t := by
    induction l with
    | nil => exact fun q => ⟨[], by simp⟩
    | cons x l ih => intro q; obtain ⟨t, e⟩ := ih (f q.1 x, q.2 ++ [g q.1 x]); exact ⟨g q.1 x :: t, by simp [e]⟩
  exact grow l (f d p, [g d p])

/-- A slot whose first record is blank fails the checks of a restore. -/
theorem slotOk_blank (d : Dev) (n c j : Nat) (r : List Nat) (h : d.seatCores n = j :: r) (b : ∀ x k, d.mem.bytes x k = List.replicate k 0)
    (p : d.mem.poison = []) (u : d.mem.upsets = []) : d.slotOk n c = false := by
  obtain ⟨t, e⟩ := foldl_first (fun (e : Dev) (p : Nat × Nat) => ((e.readRange { host := true } (e.recordBase n c p.2) saveBytes).1.transferRange
    (d.slotAgent n c) false (e.recordBase n c p.2) saveBytes)) (fun d p => SlotRecord.mk p.1 p.2
    (d.readRange { host := true } (d.recordBase n c p.2) saveBytes).2.1 (d.readRange { host := true } (d.recordBase n c p.2) saveBytes).2.2)
    (j, 0) (r.zipIdx (0 + 1)) d
  have e : d.slotRecords n c = ⟨j, 0, (d.readRange { host := true } (d.recordBase n c 0) saveBytes).2.1,
      (d.readRange { host := true } (d.recordBase n c 0) saveBytes).2.2⟩ :: t := by
    simp only [Dev.slotRecords, Dev.readSlot, h, List.zipIdx_cons]; simp only at e; rw [e]
  have m : field (d.readRange { host := true } (d.recordBase n c 0) saveBytes).2.1 0x10FC0 4 = 0 := by
    rw [readRange_blank d _ _ _ b p u]; exact field_blank _ _ _
  simp only [Dev.slotOk, e, List.all_cons, SlotRecord.ok, trailerOk, m]
  simp

theorem test_met_SeatCommands_commands :
    (housedS 1).ready = true ∧ (housed 1).seatCmdOk 0 2 = false ∧ (housed 1).seatCmdOk 0 1 = true ∧ (housed 1).shared 0 = false ∧
      (housed 2).shared 0 = true ∧ (housed 2).seatCmdOk 0 0 = true ∧ (housed 2 []).slotOk 0 0 = true ∧ (housed 2).slotOk 0 0 = false :=
  ⟨by decide +kernel, by decide +kernel, by decide +kernel, by decide +kernel, by decide +kernel, by decide +kernel,
    by decide +kernel, slotOk_blank _ 0 0 _ _ rfl (bytes_blank _ rfl (by decide +kernel)) rfl rfl⟩

theorem test_met_SeatCommands_reset :
    ((housed 1).seat 0).state = .inService ∧ ((housed 1).seat 1).state = .unused ∧ (housed 1).glb.vfEnable = true ∧
      ((housed 1 [0] fun k => { k with state := .resetting }).seat 0).state = .resetting ∧
      (housed 1 [0] fun k => { k with state := .resetting }).seatBusy 0 = false ∧ ({ housed 1 with board := [job {}] } : Dev).seatBusy 0 = true ∧
      ((housed 1 [0] fun k => { k with state := .scrubbing }).seat 0).state = .scrubbing ∧ ((housed 1).seatRec 0).kind ≠ 0 ∧
      (List.replicate 0x10FC0 (0 : Byte)).length = 0x10FC0 := by
  refine ⟨by decide +kernel, by decide +kernel, by decide +kernel, by decide +kernel, by decide +kernel, by decide +kernel, by decide +kernel,
    by decide +kernel, List.length_replicate ..⟩

/-- A seat in a save or a restore of context 1, and one whose slice of context 0 ended at slow cycle 0. -/
def shifting (r : Bool) (k : Seat) : Seat := { k with moving := some (1, r) }
def spent (k : Seat) : Seat := { k with loaded := some 0, expired := some 0 }
def loaded (t : Nat) (k : Seat) : Seat := { k with loaded := some 0, sliceEnd := t }

theorem test_met_SeatCommands_moves :
    ((housed 1 [0] (shifting false)).seat 0).moving = some (1, false) ∧ ((housed 1 [] (shifting true)).seat 0).moving = some (1, true) ∧
      (housed 1 [] (shifting true)).shared 0 = false ∧ (housed 1 [] (shifting true)).slotOk 0 1 = true ∧
      (housed 2 [0] (shifting true)).shared 0 = true ∧ ((housed 2 [0] (shifting true)).ctx 1).save ≠ .saved ∧
      (housed 1 [0] (shifting true)).slotOk 0 1 = false :=
  ⟨by decide +kernel, by decide +kernel, by decide +kernel, by decide +kernel, by decide +kernel, by decide +kernel,
    slotOk_blank _ 0 1 _ _ rfl (bytes_blank _ rfl (by decide +kernel)) rfl rfl⟩

theorem test_met_SeatCommands_slices :
    (housed 2).shared 0 = true ∧ ((housed 2).seat 0).moving = none ∧ ((housed 2).seat 0).expired = none ∧ ((housed 2).seat 0).loaded = none ∧
      ((housed 2 [0] (loaded 1)).seat 0).loaded = some 0 ∧ (housed 2 [0] (loaded 1)).slow < 1 ∧ 0 ≤ (housed 2 [0] (loaded 0)).slow ∧
      ({ housed 2 with board := [job {}], layout := some { image with seats := [{ kind := 2, contexts := 1, slice := 5 }] } } : Dev).chooseCtx 0 [0] =
        ({ housed 2 with board := [job {}], layout := some { image with seats := [{ kind := 2, contexts := 1, slice := 5 }] } }, some 0) ∧
      ((housed 2 [0] spent).seat 0).expired = some 0 ∧ ((housed 2 [0] spent).seat 0).loaded = some 0 ∧
      (∀ p ∈ (housed 2 [0] spent).ctxPlaces 0, p.op.opcode ≠ 0x22 → (housed 2 [0] spent).hasStarted p = false) := by decide +kernel

/-- Window 0 over frame 0, for context 0 and requester 7; the decoder is committed at 0. -/
def windowed (on check : Bool) (c : Ctx := plot true) (f : Stack → Stack := id) : Dev :=
  { housed 1 [0] id c with
    mem := mem1 f, glb := { base.glb with committed := true, cxlMem := true, windows := [(0, { length := 1, enable := on, reqCheck := check, requester := 7 })] } }

theorem test_met_HostAccess_windows :
    ((windowed false false).window 0).enable = false ∧ ((windowed false false).writeWindow 0 0).windowOk 0 = true ∧
      ((windowed false false).writeWindow 1 0).windowOk 1 = false ∧ ((windowed true false).window 0).enable = true := by decide +kernel

/-- The same, its frame 0 ZERO_PENDING. -/
def pendingFrame : Dev := windowed true true (plot true) fun k => { k with frames := SMap.upd {} k.frames 0 fun e => { e with zero := true } }

theorem test_met_HostAccess_accesses :
    ((windowed false false).ingress .mem 0 64).map (fun i => (windowed false false).ingressCheck i 64 true) = some 1 ∧
      ((windowed true true).ingress (.uio 6) 0 64).map (fun i => (windowed true true).ingressCheck i 64 true) = some 2 ∧
      ((windowed true false {}).ingress .mem 0 64).map (fun i => (windowed true false {}).ingressCheck i 64 false) = some 3 ∧
      ((windowed true false (plot true) fun k => { k with covers := [] }).ingress .mem 0 64).map
        (fun i => (windowed true false (plot true) fun k => { k with covers := [] }).ingressCheck i 64 true) = some 4 ∧
      ((windowed true true).ingress (.uio 7) 0 64).map (fun i => ((windowed true true).ingressCheck i 64 true, i.addr)) = some (0, 0) ∧
      (windowed true true).blocked 0 = false ∧ ((windowed true true).mem.frame 0 0).zero = false ∧
      (windowed true true).mem.upsets.get [] ((windowed true true).mem.locate 0 / 64) = [] ∧ (windowed true true).mem.isPoison 0 = false ∧
      ({ windowed true true with mem := { mem1 with poison := [0] } } : Dev).mem.isPoison 0 = true ∧
      pendingFrame.blocked 0 = false ∧
      (pendingFrame.mem.frame 0 0).zero = true ∧
      (pendingFrame.ingress (.uio 7) 0 64).map (fun i =>
        pendingFrame.ingressCheck i 64 true) = some 0 := by decide +kernel

theorem test_met_HostAccess_link :
    up.pwr.boot = .ready ∧ (withDev (windowed true true)).ready = true ∧ (windowed true true).glb.dlUp = true ∧ (windowed true true).glb.cxlMem = true ∧
      State.reset.pwr.boot ≠ .off ∧ State.reset.dev.glb.dlUp = false ∧
      ({ up with lay := { up.lay with shadow := .loading }, mgt := { up.mgt with state := .staging } } : State).lay.shadow = .loading := by decide +kernel

theorem test_met_ResetState : ∃ s, s = State.reset := ⟨_, rfl⟩

/-- A command that changes the governor's limit steps from a state of the invariant. -/
theorem test_met_InvariantKept :
    Inv State.reset ∧ step { State.reset with pending := [.pwrLimitWrite 1000] } = Machine.exec (.pwrLimitWrite 1000) State.reset :=
  ⟨⟨by decide, by decide, by decide, by decide, by decide, by decide⟩, rfl⟩

/-! ## Ill-formed commands are refused, at the first value past each range -/

theorem test_ill_formed_1 : ∀ c ∈ ([.registerWrite (.vf 64) 0 false 0, .registerWrite .pf 0x4000000 false 0, .registerWrite (.vf 63) 0x10000 false 0, .registerWrite .pf 0 false (2 ^ 32), .registerWrite .pf 0 true (2 ^ 64), .badAccess (.vf 64) 0 4 true, .latchingLoRead (.vf 0) 0x10000, .leafClear .pf 0 (2 ^ 32), .layKeyEnroll 4, .layKeyClear 4, .domainPowerUpDone 20, .clusterClockStartDone 1280] : List Instr), c.wf = false := by decide

theorem test_ill_formed_2 : ∀ c ∈ ([.submissionDoorbell 64 0 0, .submissionDoorbell 0 64 0, .submissionDoorbell 0 0 (2 ^ 64), .completionDoorbell 64 0 0, .completionDoorbell 0 64 0, .completionDoorbell 0 0 (2 ^ 64), .mailboxWrite 64 0 [], .mailboxWrite 0 4096 [0], .slotIdle 128, .staleReread 4096 0, .staleReread 0 16, .slotRecheck 128 0] : List Instr), c.wf = false := by decide

theorem test_ill_formed_3 : ∀ c ∈ ([.slotRecheck 0 16, .sltRecheckWrite 128 0, .sltRecheckWrite 0 (2 ^ 32), .ringStop 4096, .ringStart 4096, .ringReset 4096, .ringZeroingDone 4096, .ringModeWrite 4096 0, .ringModeWrite 0 (2 ^ 32), .operationRetire 0 16, .completionEntryWrite 4096, .excRecordClear 4096] : List Instr), c.wf = false := by decide

theorem test_ill_formed_4 : ∀ c ∈ ([.dieEpochAck 1024 0, .dieEpochAck 0 12, .settlingStart 1024, .settleDone 12 0, .settleDone 0 (2 ^ 26), .rowRepairDone 12, .zeroFillDone 12 0, .zeroFillDone 0 1048576, .temperatureSample 12 0, .temperatureSample 0 256, .memClearTempMax 12, .memSpareBaseWrite 12 0] : List Instr), c.wf = false := by decide

theorem test_ill_formed_5 : ∀ c ∈ ([.memSpareBaseWrite 0 (2 ^ 32), .frameRemapWrite 12 0 0, .frameRemapWrite 0 8192 0, .frameRemapWrite 0 0 (2 ^ 32), .frameCopyDone 12 0, .frameCopyDone 0 8192, .segEnable 1024 0 0, .segEnable 0 8 0, .segEnable 0 0 (2 ^ 32), .segDisable 1024 0 0, .segDisable 0 8 0, .segDisable 0 0 (2 ^ 32)] : List Instr), c.wf = false := by decide

theorem test_ill_formed_6 : ∀ c ∈ ([.segDropDone 1024 0, .segDropDone 0 8, .seatSave 64 0, .seatSave 0 16, .seatRestore 64 0, .seatRestore 0 16, .seatResetContext 64 0, .seatResetContext 0 16, .seatReset 64, .vfFlr 64, .seatDrained 64, .scrubDone 64] : List Instr), c.wf = false := by decide

theorem test_ill_formed_7 : ∀ c ∈ ([.sliceExpiry 64, .contextQuiescent 64, .saveDone 64, .restoreDone 64, .windowEnable 1024 0, .windowEnable 0 (2 ^ 32), .windowDisable 1024 0, .windowDisable 0 (2 ^ 32), .hostClassWrite .mem (2 ^ 64) [], .hostClassRead .mem (2 ^ 64) 4, .linkTrained 0 16 true true, .linkTrained 7 16 true true] : List Instr), c.wf = false := by decide

theorem test_ill_formed_8 : ∀ c ∈ ([.linkTrained 5 3 true true, .vfEnable (2 ^ 64), .logSlotRead (.vf 64) 0, .logSlotRead .pf 256, .cableInsert 8, .cableRemove 8, .cableIdentityRead 8 cable, .laneLock 8, .trainingTimeout 8, .lockLost 8, .retrainTimeout 8, .qlkRetrain 8] : List Instr), c.wf = false := by decide

theorem test_ill_formed_9 : ∀ c ∈ ([.cageOvercurrent 8, .ident 8 0 0 0, .ident 0 4096 0 0, .ident 0 0 65536 0, .ident 0 0 0 65536, .nak 8 0, .nak 0 4096, .credit 8 0 0 0, .credit 0 4096 0 0, .credit 0 0 65536 0, .credit 0 0 0 65536, .creditReturnTimer 8] : List Instr), c.wf = false := by decide

theorem test_ill_formed_10 : ∀ c ∈ ([.exchangeMessage 8 (letter 1 []), .a2aBlock 8 (letter 2 []), .token 8 (letter 3 []), .response 8 (letter 4 []), .status 8 (letter 5 []), .xack 8 (letter 6 []), .xnak 8 (letter 7 []), .qlkRouteWrite 1024 0, .qlkRouteWrite 0 (2 ^ 32), .qlkExcludeWrite 32 0, .qlkExcludeWrite 0 (2 ^ 32), .chkStart 24 0] : List Instr), c.wf = false := by decide

theorem test_ill_formed_11 : ∀ c ∈ ([.chkStart 0 (2 ^ 32), .chkCommandDone 24, .tstCtrlWrite (2 ^ 32), .testStart 81920, .testAbandon 1280, .pwrLimitWrite (2 ^ 32), .pwrResetWarm (2 ^ 32), .pwrResetCold (2 ^ 32), .pwrEnAssert 8, .selftestDone [81920], .clkQuarantine (2 ^ 32), .meshClockStop 4] : List Instr), c.wf = false := by decide

theorem test_ill_formed_12 : ∀ c ∈ ([.meshClockStart 4, .selfRefreshEntry 4, .selfRefreshExit 4, .seatAtnRearm 64, .flitDiscard 8 true, .idle 8 0, .idle 0 4096, .domainPowerDownDone 20, .msixEnable (.vf 64) true false] : List Instr), c.wf = false := by decide

theorem test_ill_formed_requests :
    (∀ c ∈ ([.memoryRequest ⟨.tagged 0, 2 ^ 40, none⟩ {} false, .memoryRequest ⟨.tagged 0, 0, some []⟩ {} false,
        .memoryRequest ⟨.tagged 0, 63, some [0, 0]⟩ {} false, .memoryRequest ⟨.tagged 0, 0, none⟩ { symbols := [(72, 1)] } false, .memoryRequest ⟨.tagged 0, 0, none⟩ { reread := [(72, 1)] } false,
        .memoryRequest ⟨.tagged 0, 0, none⟩ { symbols := [(0, 0)] } false] : List Instr), c.wf = false) := by decide

/-! ## Examples of the manual -/

/-- The nine bytes of R489. -/
def digits : List Byte := [0x31, 0x32, 0x33, 0x34, 0x35, 0x36, 0x37, 0x38, 0x39]

/-- R489: the four selectors on "123456789". -/
theorem test_crc32c : (crcKind 0).value 0xFFFFFFFF 0 digits = 0xE3069283 := by decide +kernel
theorem test_crc32 : (crcKind 1).value 0xFFFFFFFF 0 digits = 0xCBF43926 := by decide +kernel
theorem test_crc64 : (crcKind 2).value 0 0 digits = 0x6C40DF5F0B497347 := by decide +kernel
theorem test_crc16 : (crcKind 3).value 0xFFFF 0 digits = 0x29B1 := by decide +kernel

/-- R494, R495: the first two calls from SEED 1, and the first eight bytes under each mask. -/
theorem test_generator_calls :
    xorshift 1 = (0x2000001, 0x47E4CE4B896CDD1D) ∧ (xorshift (xorshift 1).1).1 = 0x4004000802801 := by decide +kernel
theorem test_generator_bytes :
    (Gen.buffer ⟨1, 8, 6, 0xFF, 0⟩).map BitVec.toNat = [0x1D, 0xDD, 0x6C, 0x89, 0x4B, 0xCE, 0xE4, 0x47] ∧
      (Gen.buffer ⟨1, 8, 1, 0xF7, 0⟩).map BitVec.toNat = [0x15, 0xD5, 0x64, 0x81, 0x43, 0xC6, 0xE4, 0x47] := by decide +kernel

/-- R495: the E4M3 values of those bytes. −13 is 0xD5, 2.75 is 0x43 and 3.75 is 0x47. -/
theorem test_e4m3_values :
    Machine.Num.cmp (elemValue 1 0xD5) (.fin true 13 0) = 0 ∧ Machine.Num.cmp (elemValue 1 0x43) (.fin false 11 (-2)) = 0 ∧
      Machine.Num.cmp (elemValue 1 0x81) (.fin true 1 (-9)) = 0 ∧ Machine.Num.cmp (elemValue 1 0x47) (.fin false 15 (-2)) = 0 := by decide +kernel

/-- R83, R84: the initial value of the tile of STREAM 0x0005_0021 and SEQUENCE 7. -/
theorem test_tile_check_start : (crcKind 0).init 0xFFFFFFFF (foldOf 0x00050021 7) = 0xFFFDFFDE := by decide +kernel

/-- R88: C tiles of a 2,048 × 1,024 result from SEQ_BASE 0x4000 are 0x4000 + i × 16 + n; R85: 64 rows of 32 BF16 elements. -/
theorem test_payload : payloadLen 4 64 32 = 4096 := by decide

/-- R176: the row 12,345,678 of table 33. -/
def table33 : TableRec :=
  { table := 33, rowFormat := 1, dimension := 96, slotAtoms := 2, rows := 50000000, stackMask := 0x10, interleave := 1, pcMask := 2 ^ 64 - 1,
    base := 0x100000000, lengthPerStack := 6400507904 }
theorem test_row_place :
    (table33.place 12345678).stack = 4 ∧ (table33.place 12345678).pc = 14 ∧ (table33.place 12345678).addr = 0x4154ECC280 ∧
      table33.rowsPerPart = 781250 ∧ table33.part = 100007936 := by decide +kernel

/-- R185: code 200 of a row with header bytes 0x1F, 0x1C, 0xCD, 0xB8 decodes to 53,688 × 2^−18. -/
theorem test_row_decode :
    Machine.Num.cmp ((table33.decode [0x1F, 0x1C, 0xCD, 0xB8] (List.replicate 96 200)).headD .nan) (.fin false 53688 (-18)) = 0 := by decide +kernel

/-- R207: the header and codes of a row between −0.6 (0xBF19_999A) and 0.42 (0x3ED7_0A3D) in FP32. -/
theorem test_row_encode :
    encodeCoded 8 [fp32.decode 0xBF19999A, .zero, fp32.decode 0x3ED70A3D] = .ok ⟨[0x19, 0x1C, 0xCD, 0xB8], [0, 150, 255]⟩ := by decide +kernel

/-- R263: the pieces of the FP32 value nearest 1/3. -/
theorem test_pieces :
    ((Elem.pieces ⟨fp32.decode 0x3EAAAAAB, 0⟩).zip [(.fin false 170 (-9)), (.fin false 170 (-17)), (.fin false 171 (-25))]).map
      (fun p => Machine.Num.cmp p.1 p.2) = [0, 0, 0] := by decide +kernel

/-- R267: a BF16 group with three guard bits. -/
theorem test_group_sum :
    Machine.Num.cmp (groupSum 18 [.fin false 256 0, .fin false 13 (-12), .fin true 3 (-12), .zero]) (.fin false 262147 (-10)) = 0 := by decide +kernel

/-- R313 to R317: the segment of eight FP32 elements, and the same without its large one. -/
def quantised (big : Machine.Num) : SegOut :=
  quantSegment 6 127 ([.fin false 3 0, .fin true 3 (-2), fp32.decode 0x3DCCCCCD, big, fp32.decode 0x3A83126F, .zero, .fin true 11 (-1), .fin false 1 0])
theorem test_quantise :
    (quantised (.fin false 200 0)).shift = 1 ∧ (quantised (.fin false 200 0)).codes = [2, 0, 0, 100, 0, 0, 0xFD, 0] ∧
      (quantised (.fin false 200 0)).crushed = 4 := by decide +kernel
theorem test_quantise_narrow :
    (quantised .zero).shift = -4 ∧ (quantised .zero).codes = [48, 256 - 12, 2, 0, 0, 0, 256 - 88, 16] ∧ (quantised .zero).crushed = 1 := by
  decide +kernel

/-- R382, R386: the tag of context 0 of S5, and the frame of its address. -/
theorem test_tag : tagOf 80 = 0x1450 ∧ frameOf (0x3080000000 + 0xC40) = 0x8000 ∧ stackOf (0x3080000000 + 0xC40) = 3 := by decide

/-- R138: the doorbell value 0x0000_0143_0000_0800 announces tail 0x800 on ring 323. -/
theorem test_doorbell :
    (({ base with rings := [(323, { state := .running, tail := 0x7FE, fetched := 0x7FE })],
                  layout := some { image with rings := List.replicate 323 { seat := 64 } ++ [{ seat := 5, localIx := 3, log2Size := 10 }] } } : Dev).submit
        323 0x14300000800).ring 323 = { state := .running, tail := 0x800, fetched := 0x7FE, dbSubmit := 0x14300000800 } := by decide +kernel

/-- R355, R356: a stack that passes 100 °C is CAPPED and sets THERMAL_CAP; past 105 °C it is in PROTECT as well. -/
theorem test_thermal_cap :
    (up.dev.sampleStack 4 101).leaf (.mem 4) = 0x10 ∧ ((up.dev.sampleStack 4 101).mem.stack 4).thermal = .capped ∧
      ((up.dev.sampleStack 4 101).sampleStack 4 106).leaf (.mem 4) = 0x30 := by decide +kernel

/-- R9, R10: core 17 of cluster 45 of C1 is core 23,377, in cluster 365, in domain D7. -/
theorem test_numbering : 365 * 64 + 17 = 23377 ∧ clusterStack 365 = 1 ∧ halfDomain 365 = 7 := by decide

/-- R398: a slot of S9 is 89,128,960 bytes; R400: its save is charged 91,914,240. -/
theorem test_save_sizes : 1280 * saveBytes = 89128960 ∧ 1280 * 17 * transferCharge 4096 = 91914240 := by decide +kernel

end Sys2Proof.Tests
end

section
/-! SUPPORT. The Quinay ports: what each change of a port's state does and leaves, what a Quiet device does not send, and the states of a
port (R443 to R448, R456, R474 to R477, R582, R583). -/

namespace Sys2Proof.Machine

/-! ## A port read back, and what a change of a port leaves of the cascade block -/

@[simp] theorem Dev.port_updPort_same (d : Dev) (p : Nat) (f : Port → Port) : (d.updPort p f).port p = f (d.port p) := by
  simp [Dev.port_updPort]

theorem Dev.port_updPort_other (d : Dev) {p j : Nat} (f : Port → Port) (h : j ≠ p) : (d.updPort p f).port j = d.port j := by
  simp [Dev.port_updPort, h]

@[simp] theorem Dev.updPort_xsend (d : Dev) (p : Nat) (f : Port → Port) : (d.updPort p f).qlk.xsend = d.qlk.xsend := rfl
@[simp] theorem Dev.updPort_xrecv (d : Dev) (p : Nat) (f : Port → Port) : (d.updPort p f).qlk.xrecv = d.qlk.xrecv := rfl
@[simp] theorem Dev.updPort_cascade (d : Dev) (p : Nat) (f : Port → Port) : (d.updPort p f).cascade = d.cascade := rfl
@[simp] theorem Dev.updPort_routed (d : Dev) (p j : Nat) (f : Port → Port) : (d.updPort p f).routed j = d.routed j := rfl

/-! ## The leaf events of the cascade (R476, R477) -/

@[simp] theorem Dev.port_qlkLeaf (d : Dev) (b p m j : Nat) : (d.qlkLeaf b p m).port j = d.port j := rfl
@[simp] theorem Dev.qlkLeaf_board (d : Dev) (b p m : Nat) : (d.qlkLeaf b p m).board = d.board := rfl
@[simp] theorem Dev.qlkLeaf_mem (d : Dev) (b p m : Nat) : (d.qlkLeaf b p m).mem = d.mem := rfl
@[simp] theorem Dev.qlkLeaf_route (d : Dev) (b p m : Nat) : (d.qlkLeaf b p m).qlk.route = d.qlk.route := rfl
@[simp] theorem Dev.qlkLeaf_infoPort (d : Dev) (b p m : Nat) : (d.qlkLeaf b p m).qlk.infoPort = p := rfl

@[simp] theorem Dev.testBit_qlkLeaf (d : Dev) (b p m : Nat) : ((d.qlkLeaf b p m).leaf .qlk).testBit b = true :=
  Dev.testBit_leaf_setLeaf _ _ _

/-! ## Ports that enter REFUSED, UP, DOWN and RETRAINING -/

theorem Dev.port_refusePort (d : Dev) (p r : Nat) :
    (d.refusePort p r).port p =
      { d.port p with state := .refused, refuse := r, lowPower := true, locked := false, replay := [], outbox := [] } := by
  simp [Dev.refusePort]

theorem Dev.testBit_refusePort (d : Dev) (p r : Nat) : ((d.refusePort p r).leaf .qlk).testBit 0 = true :=
  Dev.testBit_qlkLeaf _ _ _ _

@[simp] theorem Dev.refusePort_infoPort (d : Dev) (p r : Nat) : (d.refusePort p r).qlk.infoPort = p := rfl

theorem Dev.port_linkUp (d : Dev) (p : Nat) :
    (d.linkUp p).port p =
      { d.port p with state := .up, refuse := 0, retrainFails := 0, nakRun := none, nakSent := false, replay := [], outbox := [],
                      creditData := 1024, creditControl := 64, freedData := 0, freedControl := 0 } :=
  Dev.port_updPort_same _ _ _

/-- The counts of the pairs that a port carries start at 0 as it enters UP (R455). -/
theorem Dev.linkUp_restarts (d : Dev) {p x : Nat} (h : x ∈ d.routed p) :
    (d.linkUp p).qlk.xsend.get 0 x = 0 ∧ (d.linkUp p).qlk.xrecv.get 0 x = 0 := by
  have cleared (m : SMap Nat) : SMap.get 0 (m.filter fun e => !(d.routed p).contains e.1) x = 0 := by
    rw [SMap.get_filter fun k => !(d.routed p).contains k]; simp [h]
  exact ⟨cleared _, cleared _⟩

theorem Dev.port_linkDown (d : Dev) (p : Nat) (b : Bool) :
    (d.linkDown p b).port p =
      { d.port p with state := .down, locked := false, replay := [], outbox := [], nakRun := none, retrainFails := 0 } := by
  cases b <;> simp [Dev.linkDown, Dev.port, Dev.updPort, Dev.qlkLeaf, Dev.setLeaf]

@[simp] theorem Dev.linkDown_mem (d : Dev) (p : Nat) (b : Bool) : (d.linkDown p b).mem = d.mem := by cases b <;> rfl

@[simp] theorem Dev.linkDown_leaves (d : Dev) (p : Nat) : (d.linkDown p false).leaves = d.leaves := rfl

@[simp] theorem Dev.testBit_linkDown (d : Dev) (p : Nat) : ((d.linkDown p true).leaf .qlk).testBit 1 = true :=
  Dev.testBit_qlkLeaf _ _ _ _

/-- Which places end is decided by the scoreboard and the routes, which the port's own change leaves. -/
theorem Dev.linkDown_board (d : Dev) (p : Nat) (b : Bool) :
    (d.linkDown p b).board = d.board.map fun q => if d.lostBy (d.routed p) q then q.peerError else q := by cases b <;> rfl

/-- An operation that runs or has finished is lost with a module that owes it an XACK (R474). -/
theorem Dev.lostBy_of_unacked (d : Dev) {ms : List Nat} {q : Place} (hq : q.phase = .running ∨ q.phase = .finished)
    (hu : ∃ u ∈ q.unacked, u.1 ∈ ms) : d.lostBy ms q = true := by
  have owed : (q.unacked.any fun u => ms.contains u.1) = true := by simpa using hu
  unfold Dev.lostBy
  rw [owed]
  rcases hq with h | h <;> simp [h]

/-- A port that goes DOWN ends with PEER_ERROR what awaits an XACK of its modules (R474). -/
theorem Dev.linkDown_ends (d : Dev) (p : Nat) (b : Bool) {q : Place} (hm : q ∈ d.board) (hs : q.status = .ok)
    (hq : q.phase = .running ∨ q.phase = .finished) (hu : ∃ u ∈ q.unacked, u.1 ∈ d.routed p) :
    ∃ r ∈ (d.linkDown p b).board, r.id = q.id ∧ r.phase = .finished ∧ r.status = .peerError ∧ r.unacked = [] ∧ r.unsentMsgs = [] := by
  have hl := d.lostBy_of_unacked hq hu
  have live : q.phase ≠ .retired := by rcases hq with h | h <;> simp [h]
  refine ⟨q.peerError, ?_, rfl, if_neg live, if_pos hs, rfl, rfl⟩
  rw [Dev.linkDown_board]
  exact List.mem_map.2 ⟨q, hm, if_pos hl⟩

theorem Dev.port_retrain (d : Dev) (p : Nat) :
    (d.retrain p).port p =
      { d.port p with state := .retraining, retrains := satInc32 (d.port p).retrains 1, retrainFails := 0, nakRun := none } := by
  simp [Dev.retrain]

@[simp] theorem Dev.retrain_board (d : Dev) (p : Nat) : (d.retrain p).board = d.board := rfl

@[simp] theorem Dev.testBit_retrain (d : Dev) (p : Nat) : ((d.retrain p).leaf .qlk).testBit 2 = true :=
  Dev.testBit_qlkLeaf _ _ _ _

theorem Dev.port_discardFlit (d : Dev) (p : Nat) (b : Bool) :
    (d.discardFlit p b).port p =
      { d.port p with crcErrors := if b then satInc32 (d.port p).crcErrors 1 else (d.port p).crcErrors, nakSent := true } := by
  unfold Dev.discardFlit
  dsimp only
  split <;> simp

/-! ## Nothing to send, nothing to wake -/

/-- A Quiet device sends nothing when everything that waits is tried again. -/
theorem Dev.Quiet.pumpAll {d : Dev} (h : d.Quiet) : d.pumpAll = d := by
  obtain ⟨hboard, hports⟩ := h
  have flushed : (List.range 8).foldl (fun d p => if (d.port p).state = .up then Dev.flushOutbox p (d.port p).outbox.length d else d) d = d := by
    refine List.foldlRecOn (motive := fun e => e = d) _ _ rfl ?_
    rintro e rfl k hk
    split
    · rename_i hup; rw [hports k (List.mem_range.1 hk) hup]; rfl
    · rfl
  have unsent : (d.board.filter fun p => !p.unsentMsgs.isEmpty) = [] := by
    rw [List.filter_eq_nil_iff]
    intro q hq
    simp [hboard q hq]
  unfold Dev.pumpAll
  rw [flushed]; dsimp only; rw [unsent]; rfl

/-- A port without an outbox may change its state on a Quiet device. -/
theorem Dev.Quiet.updPort {d : Dev} (h : d.Quiet) (p : Nat) {f : Port → Port} (hf : (f (d.port p)).outbox = []) : (d.updPort p f).Quiet := by
  refine ⟨h.1, fun k hk hup => ?_⟩
  by_cases hkp : k = p
  · subst hkp; rw [Dev.port_updPort_same]; exact hf
  · rw [Dev.port_updPort_other _ _ hkp] at hup ⊢; exact h.2 k hk hup

/-- Without a STEP_TOKEN in the scoreboard no exclusion wakes one. -/
theorem Dev.wakeTokens_of_none {d : Dev} (h : ∀ q ∈ d.board, q.op.opcode ≠ 0x62) : d.wakeTokens = d := by
  have noToken : (d.board.filter fun p => p.op.opcode == 0x62 && p.phase == .running) = [] := by
    rw [List.filter_eq_nil_iff]
    intro q hq
    simp [h q hq]
  have once : d.retryTokens = d := by unfold Dev.retryTokens; rw [noToken]; rfl
  unfold Dev.wakeTokens
  rw [once, once]

/-! ## The cable's identity (R445) -/

/-- The refusals of R445 in their order, of which the first that holds is given. -/
theorem CableId.refusal_spec (id : CableId) :
    (id.refusal = 1 ↔ id.readOk = false ∨ id.checksumOk = false) ∧
      (id.refusal = 2 ↔ id.readOk = true ∧ id.checksumOk = true ∧ 48 < id.maxPower) ∧
      (id.refusal = 3 ↔ id.readOk = true ∧ id.checksumOk = true ∧ id.maxPower ≤ 48 ∧ id.lanes < 8) ∧ id.refusal ≤ 3 := by
  unfold CableId.refusal
  cases id.readOk <;> cases id.checksumOk
  case true.true =>
    by_cases hp : 48 < id.maxPower
    · simp [hp]
    · by_cases hl : id.lanes < 8
      · simp [hp, hl, Nat.not_lt.1 hp]
      · simp [hp, hl]
  all_goals simp

/-- A cable that R445 passes has been read. -/
theorem CableId.readOk_of_passes {id : CableId} (h : id.refusal = 0) : id.readOk = true := by
  have h1 := id.refusal_spec.1
  cases hr : id.readOk with
  | true => rfl
  | false => rw [h1.2 (.inl hr)] at h; cases h

/-! ## The commands of a port -/

/-- A cable's identity is read (R444, R445): a refused cable stays in low-power mode, another one starts the training. -/
theorem exec_cableIdentityRead (s : State) (p : Nat) (id : CableId) (h : (s.dev.port p).state = .identifying) :
    ∃ t k, exec (.cableIdentityRead p id) s = .next t ∧ k = t.dev.port p ∧
      (id.refusal = 0 → k.state = .training ∧ k.refuse = 0 ∧ k.lowPower = false ∧ k.lanes = id.lanes ∧ k.maxPower = id.maxPower ∧
        k.length = id.length ∧ t.dev.leaves = s.dev.leaves) ∧
      (id.refusal ≠ 0 → k.state = .refused ∧ k.refuse = id.refusal ∧ k.lowPower = true ∧ (t.dev.leaf .qlk).testBit 0 = true ∧
        t.dev.qlk.infoPort = p) := by
  refine ⟨_, _, congrArg Host.Outcome.next (if_neg (not_not_intro h)), rfl, fun hp => ?_, fun hr => ?_⟩
  · simp [hp, CableId.readOk_of_passes hp]
  · dsimp only
    rw [if_pos hr, Dev.port_refusePort]
    exact ⟨rfl, rfl, rfl, Dev.testBit_refusePort _ _ _, rfl⟩

/-- Lock while training: this end sends its IDENT, which takes a sequence, and goes on training (R448). -/
theorem exec_laneLock_training (s : State) (p : Nat) (h : (s.dev.port p).state = .training) (hl : (s.dev.port p).locked = false) :
    ∃ t, exec (.laneLock p) s = .next t ∧ (t.dev.port p).locked = true ∧ (t.dev.port p).state = .training ∧
      t.dev.out = s.dev.out ++ [.flit p 4 (s.dev.port p).ack s.dev.cascade.ident] ∧
      (t.dev.port p).txSeq = ((s.dev.port p).txSeq + 1) % 4096 := by
  refine ⟨_, congrArg Host.Outcome.next (if_pos ⟨h, hl⟩), ?_, ?_, rfl, ?_⟩ <;> simp [Port.sendFlits, h]

/-- Lock while retraining: the port is UP again, and a Quiet device has nothing to send on it but the replay (R447, R451). -/
theorem exec_laneLock_retraining (s : State) (p : Nat) (h : (s.dev.port p).state = .retraining) (hq : s.dev.Quiet)
    (ho : (s.dev.port p).outbox = []) :
    ∃ t, exec (.laneLock p) s = .next t ∧ (t.dev.port p).state = .up ∧ (t.dev.port p).retrainFails = 0 ∧
      (t.dev.port p).replays = (if (s.dev.port p).replay = [] then (s.dev.port p).replays else satInc32 (s.dev.port p).replays 1) ∧
      t.dev.out = s.dev.out := by
  have notTraining : ¬((s.dev.port p).state = .training ∧ (s.dev.port p).locked = false) := by simp [h]
  refine ⟨_, congrArg Host.Outcome.next ((if_neg notTraining).trans (if_pos h)), ?_⟩
  dsimp only
  rw [(hq.updPort p ho).pumpAll]
  simp

/-- The port goes DOWN: training that meets no lock, or the third retraining attempt in a row (R447). Only the latter sets a leaf. -/
theorem exec_timeout_down (s : State) (p : Nat) (c : Instr)
    (h : (c = .trainingTimeout p ∧ (s.dev.port p).state = .training ∧ (s.dev.port p).locked = false) ∨
      (c = .retrainTimeout p ∧ (s.dev.port p).state = .retraining ∧ 2 ≤ (s.dev.port p).retrainFails)) :
    ∃ b, exec c s = .next { s with dev := s.dev.linkDown p b } ∧ (c = .retrainTimeout p → b = true) ∧ (c = .trainingTimeout p → b = false) := by
  rcases h with ⟨rfl, ht⟩ | ⟨rfl, hr, hf⟩
  · exact ⟨false, congrArg Host.Outcome.next (if_pos ht), nofun, fun _ => rfl⟩
  · refine ⟨true, congrArg Host.Outcome.next ((if_neg (not_not_intro hr)).trans ?_), fun _ => rfl, nofun⟩
    rw [if_pos hf]

/-- An IDENT out of sequence is discarded and answered by a NAK (R451). -/
theorem exec_ident_discarded (s : State) (p seq c m : Nat) (h : (s.dev.port p).state = .training) (hl : (s.dev.port p).locked = true)
    (hs : seq ≠ (s.dev.port p).rxSeq) : exec (.ident p seq c m) s = .next { s with dev := s.dev.discardFlit p false } :=
  congrArg Host.Outcome.next ((if_neg (by simp [h, hl])).trans (if_pos hs))

/-- The port that an accepted IDENT leaves before its sender is judged. -/
def Port.identified (k : Port) (m : Nat) : Port :=
  { k.takeFlits 1 with switch := m == 0xFFFF, farModule := if m == 0xFFFF then k.farModule else m % 1024 }

@[simp] theorem Port.identified_rxSeq (k : Port) (m : Nat) : (k.identified m).rxSeq = (k.rxSeq + 1) % 4096 := rfl

theorem Port.identified_farModule (k : Port) {m : Nat} (h : m ≠ 0xFFFF) : (k.identified m).farModule = m % 1024 :=
  if_neg (by simpa using h)

/-- What an accepted IDENT of module `m` of cascade `c` makes of the device (R448). -/
def Dev.judgeIdent (d : Dev) (p c m : Nat) : Dev :=
  let e := d.updPort p (·.identified m)
  if m = 0xFFFF then e.linkUp p
  else if c ≠ d.cascade.cascadeId then e.refusePort p 4
  else if m = d.cascade.moduleIndex then e.refusePort p 5
  else e.linkUp p

/-- An IDENT in sequence is accepted, and who sent it decides. -/
theorem exec_ident_accepted (s : State) (p c m : Nat) (h : (s.dev.port p).state = .training) (hl : (s.dev.port p).locked = true) :
    exec (.ident p (s.dev.port p).rxSeq c m) s = .next { s with dev := s.dev.judgeIdent p c m } := by
  refine congrArg Host.Outcome.next ((if_neg (by simp [h, hl])).trans ((if_neg (not_not_intro rfl)).trans ?_))
  simp [Dev.judgeIdent, Port.identified]

theorem Dev.judgeIdent_switch (d : Dev) (p c : Nat) {m : Nat} (hm : m = 0xFFFF) :
    d.judgeIdent p c m = (d.updPort p (·.identified m)).linkUp p := if_pos hm

theorem Dev.judgeIdent_foreign (d : Dev) (p : Nat) {c m : Nat} (hm : m ≠ 0xFFFF) (hc : c ≠ d.cascade.cascadeId) :
    d.judgeIdent p c m = (d.updPort p (·.identified m)).refusePort p 4 := (if_neg hm).trans (if_pos hc)

theorem Dev.judgeIdent_self (d : Dev) (p : Nat) {c m : Nat} (hm : m ≠ 0xFFFF) (hc : c = d.cascade.cascadeId)
    (hs : m = d.cascade.moduleIndex) : d.judgeIdent p c m = (d.updPort p (·.identified m)).refusePort p 5 :=
  (if_neg hm).trans ((if_neg (not_not_intro hc)).trans (if_pos hs))

theorem Dev.judgeIdent_peer (d : Dev) (p : Nat) {c m : Nat} (hm : m ≠ 0xFFFF) (hc : c = d.cascade.cascadeId)
    (hs : m ≠ d.cascade.moduleIndex) : d.judgeIdent p c m = (d.updPort p (·.identified m)).linkUp p :=
  (if_neg hm).trans ((if_neg (not_not_intro hc)).trans (if_neg hs))

/-- Whoever sent it, the IDENT flit counts as accepted (R451). -/
theorem Dev.judgeIdent_rxSeq (d : Dev) (p c m : Nat) : ((d.judgeIdent p c m).port p).rxSeq = ((d.port p).rxSeq + 1) % 4096 := by
  have up : (((d.updPort p (·.identified m)).linkUp p).port p).rxSeq = ((d.port p).rxSeq + 1) % 4096 := by simp [Dev.port_linkUp]
  have refused (r : Nat) : (((d.updPort p (·.identified m)).refusePort p r).port p).rxSeq = ((d.port p).rxSeq + 1) % 4096 := by
    simp [Dev.port_refusePort]
  unfold Dev.judgeIdent
  dsimp only
  split_ifs
  · exact up
  · exact refused 4
  · exact refused 5
  · exact up

/-! ## Routes and exclusions (R456, R475) -/

/-- A message of the pair awaits its XACK, as QLK_ROUTE_WRITE tests it. -/
theorem awaitsXack_iff (b : List Place) (m : Nat) :
    (b.any fun q => q.unacked.any (·.1 == m)) = true ↔ ∃ q ∈ b, ∃ u ∈ q.unacked, u.1 = m := by
  simp only [List.any_eq_true, beq_iff_eq]

/-- The entry that routes to a module, as QLK_ROUTE shows it (R477). -/
theorem routeEntry_eq (v : Nat) : v % 8 + 128 * (v.testBit 7).toNat = v % 8 + (if v.testBit 7 then 128 else 0) := by
  cases v.testBit 7 <;> rfl

/-- An exclusion changes its word alone where no STEP_TOKEN waits. -/
theorem exec_qlkExcludeWrite (s : State) (w v : Nat) (h : s.ready = true) (ht : ∀ q ∈ s.dev.board, q.op.opcode ≠ 0x62) :
    exec (.qlkExcludeWrite w v) s = .next { s with
      dev := { s.dev with qlk := { s.dev.qlk with exclude := s.dev.qlk.exclude.put 0 w (v % 2 ^ 32) } } } := by
  refine congrArg Host.Outcome.next ((if_neg (by simp [h])).trans ?_)
  exact congrArg (fun d => ({ s with dev := d } : State)) (Dev.wakeTokens_of_none ht)

/-- A word of QLK_EXCLUDE excludes the modules whose bits it sets (R475). -/
theorem Dev.excluded_of_word {d : Dev} {w v m : Nat} (h : d.qlk.exclude.get 0 w = v % 2 ^ 32) (hm : m / 32 = w) :
    d.excluded m = v.testBit (m % 32) := by
  unfold Dev.excluded
  rw [hm, h, Nat.testBit_mod_two_pow, decide_eq_true (Nat.mod_lt m (by decide)), Bool.true_and]

/-! ## The obligation -/

/-- Settles O53: each clause is the command's own case on the port, read back through what the change of the port's state does; a port that
goes DOWN ends what its modules owe, and neither a Quiet device nor one without a STEP_TOKEN does anything beside. -/
theorem ports : Obligations.Ports := by
  unfold Obligations.Ports
  refine ⟨?insertPresent, ?insert, ?remove, ?identity, CableId.refusal_spec, ?lock, ?down, ?again, ?lost, ?retrain, ?cage, ?ident,
    ?route, ?exclude⟩
  case insertPresent => exact fun s p h => congrArg Host.Outcome.next (if_pos h)
  case insert =>
    intro s p h
    refine ⟨_, _, congrArg Host.Outcome.next (if_neg (by simp [h])), rfl, ?_⟩
    simp +contextual [Dev.port_updPort_other]
  case remove =>
    intro s p
    refine ⟨_, _, rfl, rfl, ?_⟩
    by_cases h : (s.dev.port p).state = .disabled <;> simp +contextual [h, Dev.port_updPort_other]
  case identity =>
    exact fun s p id => ⟨fun h => congrArg Host.Outcome.next (if_pos h), exec_cableIdentityRead s p id⟩
  case lock =>
    rintro s p k rfl
    exact ⟨exec_laneLock_training s p, exec_laneLock_retraining s p, fun ht hr =>
      congrArg Host.Outcome.next ((if_neg fun h => ht h.1).trans (if_neg hr))⟩
  case down =>
    rintro s p c k rfl h
    obtain ⟨b, he, hretrain, htrain⟩ := exec_timeout_down s p c h
    refine ⟨_, he, ?_⟩
    rw [Dev.port_linkDown]
    refine ⟨rfl, rfl, rfl, fun hc => ?_, fun hc => ?_, Dev.linkDown_mem _ _ _, fun q hm hs hq hu => s.dev.linkDown_ends p b hm hs hq hu⟩
    · rw [hretrain hc]; exact Dev.testBit_linkDown _ _
    · rw [htrain hc]; exact Dev.linkDown_leaves _ _
  case again =>
    rintro s p k rfl hr hf
    have notThird : ¬2 ≤ (s.dev.port p).retrainFails := Nat.not_le.2 hf
    refine ⟨_, congrArg Host.Outcome.next (if_neg (not_not_intro hr)), ?_⟩
    rw [if_neg notThird]
    exact ⟨Dev.port_updPort_same _ _ _, rfl⟩
  case lost =>
    intro s p h
    refine ⟨_, congrArg Host.Outcome.next (if_pos h), ?_⟩
    rw [Dev.port_retrain]
    exact ⟨rfl, rfl, rfl, Dev.testBit_retrain _ _, rfl, rfl⟩
  case retrain =>
    intro s p hready h
    refine ⟨_, congrArg Host.Outcome.next (if_pos (by simpa [hready] using h)), ?_⟩
    simp
  case cage =>
    intro s p hc hd hs
    refine ⟨_, congrArg Host.Outcome.next (if_pos (by simp [hc, hd])), ?_⟩
    dsimp only
    rw [if_neg hs, Dev.port_refusePort]
    exact ⟨rfl, rfl, by simp, Dev.testBit_refusePort _ _ _⟩
  case ident =>
    rintro s p seq c m k rfl ht hl
    refine ⟨fun hseq => ⟨_, exec_ident_discarded s p seq c m ht hl hseq, ?_⟩, ?_⟩
    · rw [Dev.port_discardFlit]; exact ⟨ht, rfl, rfl⟩
    · rintro rfl
      refine ⟨_, exec_ident_accepted s p c m ht hl, Dev.judgeIdent_rxSeq _ _ _ _, fun hm => ?_, fun hm hc => ?_, fun hm hc hs => ?_,
        fun hm hc hs => ?_⟩
      · rw [Dev.judgeIdent_switch _ _ _ hm, Dev.port_linkUp, Dev.port_updPort_same, hm]
        exact ⟨rfl, rfl⟩
      · simp [Dev.judgeIdent_foreign _ _ hm hc, Dev.port_refusePort]
      · simp [Dev.judgeIdent_self _ _ hm hc hs, Dev.port_refusePort]
      · dsimp only
        rw [Dev.judgeIdent_peer _ _ hm hc hs, Dev.port_linkUp, Dev.port_updPort_same]
        exact ⟨rfl, Port.identified_farModule _ hm, rfl, rfl, fun x hx => Dev.linkUp_restarts _ hx⟩
  case route =>
    intro s m v hready
    have notHeld : ¬(!s.ready) = true := by simp [hready]
    refine ⟨fun h => ?_, fun h => ?_⟩
    · exact ⟨_, congrArg Host.Outcome.next ((if_neg notHeld).trans (if_pos ((awaitsXack_iff _ _).2 h))), rfl, Dev.testBit_qlkLeaf _ _ _ _⟩
    · have free : ¬(s.dev.board.any fun q => q.unacked.any (·.1 == m)) = true := fun hb =>
        let ⟨q, hq, u, hu, e⟩ := (awaitsXack_iff _ _).1 hb
        h q hq u hu e
      exact ⟨_, congrArg Host.Outcome.next ((if_neg notHeld).trans (if_neg free)), SMap.get_put_same.trans (routeEntry_eq v),
        fun j hj => SMap.get_put_other hj _⟩
  case exclude =>
    intro s w v hready htoken
    exact ⟨_, exec_qlkExcludeWrite s w v hready htoken, SMap.get_put_same, fun j hj => SMap.get_put_other hj _,
      fun m => Dev.excluded_of_word SMap.get_put_same⟩

end Sys2Proof.Machine
end

section
/-! SUPPORT. The registers of the PWR block: what each write does while they answer, and what holds a reset or a loss of supply up
(R519, R534, R539, R551). -/

namespace Sys2Proof.Machine

/-! ## Writes while the registers of PWR answer (R543, R551) -/

/-- While the registers of ATN, PWR, CLK and MGT answer, a command guarded by them takes its other branch. -/
theorem State.if_not_mgtReady {s : State} (h : s.mgtReady = true) {α : Sort*} (a b : α) : (if !s.mgtReady then a else b) = b :=
  if_neg (by simp [h])

theorem exec_pwrLimitWrite_taken (s : State) (v : Nat) (h : s.mgtReady = true) (hl : 1000 ≤ v % 4096) (hu : v % 4096 ≤ 2600) :
    exec (.pwrLimitWrite v) s = .next { s with pwr := { s.pwr with limit := v % 4096 } } :=
  congrArg Host.Outcome.next ((State.if_not_mgtReady h _ _).trans (if_pos ⟨hl, hu⟩))

theorem exec_pwrLimitWrite_bad (s : State) (v : Nat) (h : s.mgtReady = true) (hv : v % 4096 < 1000 ∨ 2600 < v % 4096) :
    exec (.pwrLimitWrite v) s = .next (s.setLeaf .pwr 3) := by
  have outside : ¬(1000 ≤ v % 4096 ∧ v % 4096 ≤ 2600) := by omega
  exact congrArg Host.Outcome.next ((State.if_not_mgtReady h _ _).trans (if_neg outside))

theorem exec_pwrPeakClear (s : State) (h : s.mgtReady = true) :
    exec .pwrPeakClear s = .next { s with pwr := { s.pwr with peak := 0 } } :=
  congrArg Host.Outcome.next (if_pos h)

/-! ## Requests for resets (R534) -/

/-- With the KEY and TYPE 1 or 2 a reset is requested, warm for 1 and cold for 2. -/
theorem State.resetWrite_requests {s : State} {v : Nat} (h : s.mgtReady = true) (hk : v / 2 ^ 16 = 0xA5C3) (ht : v % 4 = 1 ∨ v % 4 = 2) :
    s.resetWrite v = { s with pwr := { s.pwr with requested := some (if v % 4 = 1 then 6 else 5) } } :=
  (State.if_not_mgtReady h _ _).trans (if_pos ⟨hk, ht⟩)

theorem State.resetWrite_warm {s : State} {v : Nat} (h : s.mgtReady = true) (hk : v / 2 ^ 16 = 0xA5C3) (ht : v % 4 = 1) :
    s.resetWrite v = { s with pwr := { s.pwr with requested := some 6 } } := by
  rw [State.resetWrite_requests h hk (.inl ht), if_pos ht]

theorem State.resetWrite_cold {s : State} {v : Nat} (h : s.mgtReady = true) (hk : v / 2 ^ 16 = 0xA5C3) (ht : v % 4 = 2) :
    s.resetWrite v = { s with pwr := { s.pwr with requested := some 5 } } := by
  have notWarm : v % 4 ≠ 1 := by omega
  rw [State.resetWrite_requests h hk (.inr ht), if_neg notWarm]

/-- Another KEY or another TYPE is a bad command. -/
theorem State.resetWrite_bad {s : State} {v : Nat} (h : s.mgtReady = true) (hv : v / 2 ^ 16 ≠ 0xA5C3 ∨ (v % 4 ≠ 1 ∧ v % 4 ≠ 2)) :
    s.resetWrite v = s.setLeaf .pwr 3 := by
  have refused : ¬(v / 2 ^ 16 = 0xA5C3 ∧ (v % 4 = 1 ∨ v % 4 = 2)) := by
    rintro ⟨hk, ht⟩
    rcases hv with hv | ⟨h1, h2⟩
    · exact hv hk
    · exact ht.elim h1 h2
  exact (State.if_not_mgtReady h _ _).trans (if_neg refused)

/-- Either name of the command is the same write of PWR_RESET_CTRL. -/
theorem exec_pwrResetWarm (s : State) (v : Nat) : exec (.pwrResetWarm v) s = .next (s.resetWrite v) := rfl

theorem exec_pwrResetCold (s : State) (v : Nat) : exec (.pwrResetCold v) s = .next (s.resetWrite v) := rfl

/-! ## While the flash is written (R534) -/

/-- No requested reset is due while the flash is written, whatever its cause. -/
theorem State.resetDue_writing {s : State} (h : s.mgt.state = .writing) (causes : List Nat) : s.resetDue causes = none := by
  unfold State.resetDue
  cases s.pwr.requested with
  | none => rfl
  | some c => simp [h]

theorem exec_coldReset_writing {s : State} (h : s.mgt.state = .writing) : exec .coldReset s = .next s := by
  change execColdReset s = .next s
  rw [execColdReset, State.resetDue_writing h]

theorem exec_warmReset_writing {s : State} (h : s.mgt.state = .writing) : exec .warmReset s = .next s := by
  change execWarmReset s = .next s
  rw [execWarmReset, State.resetDue_writing h]

/-! ## Losses of PWR_EN and of the input (R519, R539) -/

/-- With PWR_EN gone the device is off and PWR_GOOD is low; no firmware update holds that up. -/
theorem exec_pwrEnDeassert_off (s : State) (h : s.pwr.pwrEn = true) :
    ∃ t, exec .pwrEnDeassert s = .next t ∧ t.pwr.boot = .off ∧ t.pwr.good = false :=
  ⟨_, congrArg Host.Outcome.next (if_neg (by simp [h])), rfl, rfl⟩

theorem Pwr.sample_badSamples_low (p : Pwr) {mv : Nat} (watts : Nat) (temps : List Nat) (h : mv < 40000) :
    (p.sample mv watts temps).badSamples = p.badSamples + 1 :=
  if_pos (.inl h)

@[simp] theorem Pwr.sample_boot (p : Pwr) (mv watts : Nat) (temps : List Nat) : (p.sample mv watts temps).boot = p.boot := rfl

/-- The tenth sample in a row below the input's range is a supply fault: PWR_GOOD falls; no firmware update holds that up. -/
theorem exec_powerSample_supplyFault (s : State) (mv watts : Nat) (temps : List Nat) (hmv : mv < 40000) (hn : 9 ≤ s.pwr.badSamples)
    (hb : s.pwr.boot = .ready) :
    ∃ t, exec (.powerSample mv watts temps) s = .next t ∧ t.pwr.boot = .supplyFault ∧ t.pwr.good = false := by
  have on : ¬(!(s.pwr.boot != .off)) = true := by simp [hb]
  have tenth : 10 ≤ (s.pwr.sample mv watts temps).badSamples := by
    rw [Pwr.sample_badSamples_low _ _ _ hmv]
    omega
  have noFaultYet : (s.pwr.sample mv watts temps).boot ≠ .supplyFault := by simp [hb]
  have notTripped : (s.pwr.sample mv watts temps).boot ≠ .tripped := by simp [hb]
  exact ⟨_, congrArg Host.Outcome.next ((if_neg on).trans (if_pos ⟨tenth, noFaultYet⟩)), if_neg notTripped, rfl⟩

/-! ## The obligation -/

/-- Settles O6: each clause is one branch of its command; the flash being written holds up what `State.resetDue` decides, and neither
a loss of PWR_EN nor a supply fault asks it. -/
theorem powerRegisters : Obligations.PowerRegisters := by
  unfold Obligations.PowerRegisters
  refine ⟨exec_pwrLimitWrite_taken, exec_pwrLimitWrite_bad, exec_pwrPeakClear, ?warm, ?cold, ?bad, ?writing⟩
  case warm =>
    intro s v h hk ht
    rw [exec_pwrResetWarm, State.resetWrite_warm h hk ht]
  case cold =>
    intro s v h hk ht
    rw [exec_pwrResetCold, State.resetWrite_cold h hk ht]
  case bad =>
    intro s v h hv
    rw [exec_pwrResetWarm, exec_pwrResetCold, State.resetWrite_bad h hv]
    exact ⟨rfl, rfl⟩
  case writing =>
    exact fun s h => ⟨exec_coldReset_writing h, exec_warmReset_writing h, exec_pwrEnDeassert_off s, exec_powerSample_supplyFault s⟩

end Sys2Proof.Machine
end

section
/-! SUPPORT. The JTAG port: which register an instruction selects while the port is open and while it is closed, and the fields of
IDCODE (R577 to R579). -/

namespace Sys2Proof.Machine

/-! ## What selects a register -/

/-- The port is open while JTAG_TRST_N does not hold it and D0 is on (R577). -/
theorem State.jtagOpen_iff (s : State) : s.jtagOpen = true ↔ s.jtag.held = false ∧ s.pwr.boot ≠ .off := by
  simp [State.jtagOpen]

theorem State.jtagSelect_open {s : State} (h : s.jtagOpen = true) (ir dr : Nat) :
    s.jtagSelect ir dr = { s with jtag := { s.jtag with ir := ir, dr := dr } } := if_pos h

theorem State.jtagSelect_closed {s : State} (h : ¬s.jtagOpen = true) (ir dr : Nat) : s.jtagSelect ir dr = s := if_neg h

/-- While the device is HELD, an instruction that drives the pins takes effect (R579). -/
theorem State.jtagDrive_held {s : State} (h : s.dev.layout = none) (ir dr : Nat) : s.jtagDrive ir dr = s.jtagSelect ir dr :=
  if_pos (Option.isNone_iff_eq_none.mpr h)

/-- While an image is active, an instruction that drives the pins selects what BYPASS selects (R579). -/
theorem State.jtagDrive_active {s : State} (h : s.dev.layout ≠ none) (ir dr : Nat) : s.jtagDrive ir dr = s.jtagSelect 1 0 :=
  if_neg (mt Option.isNone_iff_eq_none.mp h)

/-- With the port closed it makes no difference whether an image is active. -/
theorem State.jtagDrive_closed {s : State} (h : ¬s.jtagOpen = true) (ir dr : Nat) : s.jtagDrive ir dr = s := by
  by_cases hl : s.dev.layout = none
  · rw [State.jtagDrive_held hl, State.jtagSelect_closed h]
  · rw [State.jtagDrive_active hl, State.jtagSelect_closed h]

/-! ## What each instruction selects -/

theorem exec_jtagTrst_low (s : State) : exec (.jtagTrst true) s = .next { s with jtag := { ir := 0, held := true, dr := 0 } } := rfl

theorem exec_jtagTrst_high (s : State) : exec (.jtagTrst false) s = .next { s with jtag := { s.jtag with held := false } } := rfl

theorem exec_jtagBypass (s : State) : exec .jtagBypass s = .next (s.jtagSelect 1 0) := rfl

theorem exec_jtagIdcode (s : State) : exec .jtagIdcode s = .next (s.jtagSelect 2 (idcodeOf Config.stepping)) := rfl

theorem exec_jtagSamplePreload (s : State) : exec .jtagSamplePreload s = .next (s.jtagSelect 3 s.pins) := rfl

theorem exec_jtagExtest (s : State) : exec .jtagExtest s = .next (s.jtagDrive 4 s.pins) := rfl

theorem exec_jtagClamp (s : State) : exec .jtagClamp s = .next (s.jtagDrive 5 0) := rfl

theorem exec_jtagHighz (s : State) : exec .jtagHighz s = .next (s.jtagDrive 6 0) := rfl

/-! ## IDCODE (R578) -/

/-- The four fields of IDCODE do not overlap, so each is read back at its place, for every stepping. -/
theorem idcodeOf_fields (stepping : Nat) :
    idcodeOf stepping / 2 ^ 12 % 2 ^ 16 = 0x4880 ∧ idcodeOf stepping / 2 % 2 ^ 11 = 0x617 ∧ idcodeOf stepping % 2 = 1 ∧
      idcodeOf stepping / 2 ^ 28 = stepping % 16 := by
  unfold idcodeOf
  omega

/-! ## The open port and the closed one -/

/-- An instruction that drives the pins is BYPASS while an image is active, whether or not the port is open. -/
theorem exec_jtagDrive_active {s : State} (h : s.dev.layout ≠ none) :
    exec .jtagExtest s = exec .jtagBypass s ∧ exec .jtagClamp s = exec .jtagBypass s ∧ exec .jtagHighz s = exec .jtagBypass s := by
  simp only [exec_jtagBypass, exec_jtagExtest, exec_jtagClamp, exec_jtagHighz, State.jtagDrive_active h, and_self]

/-- A closed port takes no instruction: nothing changes. -/
theorem exec_jtag_closed {s : State} (h : ¬s.jtagOpen = true) :
    exec .jtagBypass s = .next s ∧ exec .jtagIdcode s = .next s ∧ exec .jtagSamplePreload s = .next s ∧
      exec .jtagExtest s = .next s ∧ exec .jtagClamp s = .next s ∧ exec .jtagHighz s = .next s := by
  simp only [exec_jtagBypass, exec_jtagIdcode, exec_jtagSamplePreload, exec_jtagExtest, exec_jtagClamp, exec_jtagHighz,
    State.jtagSelect_closed h, State.jtagDrive_closed h, and_self]

/-! ## The obligation -/

/-- Settles O11: an open port selects the instruction's register and captures its value, a closed one stays; the instructions that
drive the pins select their own register while the device is HELD and that of BYPASS while an image is active. -/
theorem jtagPort : Obligations.JtagPort := by
  unfold Obligations.JtagPort
  refine ⟨fun s => ⟨exec_jtagTrst_low s, exec_jtagTrst_high s⟩, ?taken, ?closed⟩
  case taken =>
    intro s notHeld on
    have isOpen := s.jtagOpen_iff.mpr ⟨notHeld, on⟩
    refine ⟨?bypass, ⟨idcodeOf Config.stepping, ?idcode, idcodeOf_fields _⟩, ⟨s.pins, ?sample⟩, ?held, exec_jtagDrive_active⟩
    case bypass => rw [exec_jtagBypass, State.jtagSelect_open isOpen]
    case idcode => rw [exec_jtagIdcode, State.jtagSelect_open isOpen]
    case sample => rw [exec_jtagSamplePreload, State.jtagSelect_open isOpen]
    case held =>
      intro hl
      refine ⟨⟨s.pins, ?extest⟩, ?clamp, ?highz⟩
      case extest => rw [exec_jtagExtest, State.jtagDrive_held hl, State.jtagSelect_open isOpen]
      case clamp => rw [exec_jtagClamp, State.jtagDrive_held hl, State.jtagSelect_open isOpen]
      case highz => rw [exec_jtagHighz, State.jtagDrive_held hl, State.jtagSelect_open isOpen]
  case closed =>
    intro s shut
    refine exec_jtag_closed fun isOpen => ?_
    obtain ⟨notHeld, on⟩ := s.jtagOpen_iff.mp isOpen
    rcases shut with held | off
    · exact Bool.false_ne_true (notHeld.symm.trans held)
    · exact on off

end Sys2Proof.Machine
end

section
/-! SUPPORT. What every command keeps: the queue of those that wait, and the invariant of the model. Most commands change the device
alone; the others change one block of registers, and the lemmas below say once for each shared operation that it keeps both. -/

namespace Sys2Proof.Machine

/-! ## The parts of the invariant -/

/-- The layout block's part of the invariant (R42, R62). -/
structure Lay.Sound (l : Lay) : Prop where
  buffer : l.activeBuffer ≤ 1
  shadow : l.shadow = .valid ∨ l.shadow = .swapPending → l.staged.isSome = true

/-- The power block's part of the invariant (R520, R521, R551). -/
structure Pwr.Sound (p : Pwr) : Prop where
  limit : 1000 ≤ p.limit ∧ p.limit ≤ 2600
  level : p.level ≤ 15
  window : p.samples.length ≤ 100

/-- The invariant, block by block. -/
theorem inv_iff (s : State) : Inv s ↔ s.lay.Sound ∧ s.tst.budget ≤ 5 ∧ s.pwr.Sound :=
  ⟨fun h => ⟨⟨h.buffer, h.shadow⟩, h.budget, ⟨h.limit, h.level, h.window⟩⟩,
    fun ⟨l, b, p⟩ => ⟨p.limit, p.level, b, p.window, l.buffer, l.shadow⟩⟩

/-- From `s` to `t` the queue stays as it was, and every block keeps its part of the invariant. -/
structure State.Keeps (s t : State) : Prop where
  pending : t.pending = s.pending
  lay : s.lay.Sound → t.lay.Sound
  budget : s.tst.budget ≤ 5 → t.tst.budget ≤ 5
  pwr : s.pwr.Sound → t.pwr.Sound

theorem State.Keeps.inv {s t : State} (h : s.Keeps t) (hs : Inv s) : Inv t := by
  obtain ⟨l, b, p⟩ := (inv_iff s).1 hs
  exact (inv_iff t).2 ⟨h.lay l, h.budget b, h.pwr p⟩

theorem State.Keeps.refl (s : State) : s.Keeps s := ⟨rfl, id, id, id⟩

theorem State.Keeps.trans {s t u : State} (h : s.Keeps t) (k : t.Keeps u) : s.Keeps u :=
  ⟨k.pending.trans h.pending, k.lay ∘ h.lay, k.budget ∘ h.budget, k.pwr ∘ h.pwr⟩

/-- A change of the device, the management block, the attention block or the JTAG port touches nothing of it. -/
theorem State.Keeps.aside (s : State) (d : Dev) (m : Mgt) (a : Atn) (j : Jtag) :
    s.Keeps { s with dev := d, mgt := m, atn := a, jtag := j } := ⟨rfl, id, id, id⟩

theorem State.Keeps.dev (s : State) (d : Dev) : s.Keeps { s with dev := d } := ⟨rfl, id, id, id⟩

theorem State.Keeps.ite {s a b : State} {c : Prop} [Decidable c] (ha : c → s.Keeps a) (hb : ¬c → s.Keeps b) :
    s.Keeps (if c then a else b) := by
  split
  · exact ha ‹_›
  · exact hb ‹_›

/-- Each command answers a next state that keeps both. -/
def State.Answers (s : State) (o : Host.Outcome State Fault Refusal) : Prop := ∃ t, o = .next t ∧ s.Keeps t

theorem State.Answers.after {s : State} {o : Host.Outcome State Fault Refusal} (h : s.Answers o) : s.Keeps (s.after o) := by
  obtain ⟨t, rfl, k⟩ := h
  exact k

/-! ## The blocks -/

/-- A shadow state that waits for no swap asks for no decoded image. -/
theorem Lay.Sound.idle {l : Lay} (b : l.activeBuffer ≤ 1) (hv : l.shadow ≠ .valid) (hp : l.shadow ≠ .swapPending) : l.Sound :=
  ⟨b, fun h => h.elim (absurd · hv) (absurd · hp)⟩

theorem Lay.Sound.emptied (keys : List (Option (List Byte))) : Lay.Sound { keys := keys } :=
  .idle (Nat.zero_le 1) (by simp) (by simp)

theorem Pwr.nextLevel_le (p : Pwr) (w : Nat) (samples temps : List Nat) (h : p.level ≤ 15) : p.nextLevel w samples temps ≤ 15 := by
  unfold Pwr.nextLevel
  split_ifs <;> omega

theorem Pwr.Sound.sample {p : Pwr} (h : p.Sound) (mv w : Nat) (temps : List Nat) : (p.sample mv w temps).Sound :=
  ⟨h.limit, p.nextLevel_le w _ temps h.level, List.length_take_le ..⟩

/-- Every register of the power block that a reset restores lies in its range. -/
theorem Pwr.Sound.initial (p : Pwr) (hl : p.limit = 2600) (hv : p.level = 0) (hs : p.samples = []) : p.Sound :=
  ⟨by omega, by omega, by simp [hs]⟩

theorem Lay.warm_sound (l : Lay) (active : Bool) : (l.warm active).Sound := by
  cases active
  · exact .idle (Nat.zero_le 1) (by simp [Lay.warm]) (by simp [Lay.warm])
  · exact .idle (Nat.sub_le 1 _) (by simp [Lay.warm]) (by simp [Lay.warm])

/-! ## Shared operations -/

theorem State.keeps_refuseLayout (s : State) (c x e : Nat) (leaf : Bool) : s.Keeps (s.refuseLayout c x e leaf) := by
  cases leaf <;> exact ⟨rfl, fun h => .idle h.buffer (by simp [State.refuseLayout, State.setLeaf]) (by simp [State.refuseLayout, State.setLeaf]), id, id⟩

theorem State.keeps_swapNow (s : State) (new : Layout) : s.Keeps (s.swapNow new) := by
  unfold State.swapNow
  split
  · exact s.keeps_refuseLayout ..
  · exact ⟨rfl, fun _ => .idle (Nat.sub_le 1 _) (by simp [State.setLeaf]) (by simp [State.setLeaf]), id, id⟩

theorem State.keeps_trySwap (s : State) : s.Keeps s.trySwap := by
  unfold State.trySwap
  split
  · exact .ite (fun _ => s.keeps_swapNow _) fun _ => .refl s
  · exact .refl s

theorem State.keeps_hostLoss (s : State) (f : Glb → Glb) : s.Keeps (s.hostLoss f) := by
  have layout (t : State) : t.Keeps (if t.lay.shadow = .loading then t.refuseLayout 1 0 0 true else t) :=
    .ite (fun _ => t.keeps_refuseLayout ..) fun _ => .refl t
  have pack (t : State) : t.Keeps (if t.tst.state = .loading then
      ({ t with tst := { t.tst with state := .refused, code := 1, section_ := 0, entry := 0 } } : State).setLeaf .tst 0 else t) :=
    .ite (fun _ => ⟨rfl, id, id, id⟩) fun _ => .refl t
  have update (t : State) : t.Keeps (if t.mgt.state = .staging then
      ({ t with mgt := { t.mgt with state := .failed, error := 1 } } : State).setLeaf .mgt 1 else t) :=
    .ite (fun _ => ⟨rfl, id, id, id⟩) fun _ => .refl t
  exact (State.Keeps.dev s _).trans ((layout _).trans ((pack _).trans (update _)))

theorem State.keeps_dropPower (s : State) (b : Boot) : s.Keeps (s.dropPower b) :=
  ⟨rfl, fun _ => .emptied _, fun _ => Nat.le_refl 5, fun h => ⟨h.limit, h.level, h.window⟩⟩

theorem State.keeps_coldReset (s : State) (cause : Nat) : s.Keeps (s.coldReset cause) :=
  ⟨rfl, fun _ => .emptied _, fun _ => Nat.le_refl 5, fun _ => .initial _ rfl rfl rfl⟩

theorem State.keeps_warmReset (s : State) (cause : Nat) : s.Keeps (s.warmReset cause) :=
  ⟨rfl, fun _ => Lay.warm_sound _ _, fun _ => Nat.le_refl 5, fun _ => .initial _ rfl rfl rfl⟩

theorem State.keeps_resetWrite (s : State) (v : Nat) : s.Keeps (s.resetWrite v) :=
  .ite (fun _ => .refl s) fun _ => .ite (fun _ => ⟨rfl, id, id, fun h => ⟨h.limit, h.level, h.window⟩⟩) fun _ => .dev s _

theorem State.keeps_stage (s : State) (pldm : Bool) : s.Keeps (s.stage pldm) := by
  refine (State.Keeps.aside s s.dev { s.mgt with pldm := pldm, written := 0 } s.atn s.jtag).trans (.ite (fun _ => ?_) fun _ => ⟨rfl, id, id, id⟩)
  exact ⟨rfl, fun h => .idle h.buffer (by simp) (by simp), id, id⟩

theorem State.keeps_respond (s : State) (p : SpdmPort) (bytes : List Byte) : s.Keeps (s.respond p bytes) := by
  cases p <;> exact ⟨rfl, id, id, id⟩

theorem State.keeps_signedAnswer (s : State) (p : SpdmPort) (k : Nat) (nonce body : List Byte) : s.Keeps (s.signedAnswer p k nonce body) :=
  (State.Keeps.dev s _).trans (State.keeps_respond _ _ _)

theorem State.keeps_attest {s : State} {p : SpdmPort} {f : State → State} (h : s.Keeps (f s)) : s.Keeps (s.attest p f) :=
  .ite (fun _ => .refl s) fun _ => .ite (fun _ => s.keeps_respond _ _) fun _ => h

theorem State.keeps_fdSends (s : State) (k : Nat) (ok : Bool) : s.Keeps (s.fdSends k ok) := .ite (fun _ => .dev s _) fun _ => .refl s

theorem State.Keeps.respond {s t : State} (h : s.Keeps t) (p : SpdmPort) (bytes : List Byte) : s.Keeps (t.respond p bytes) :=
  h.trans (t.keeps_respond p bytes)

theorem State.Keeps.fdSends {s t : State} (h : s.Keeps t) (k : Nat) (ok : Bool) : s.Keeps (t.fdSends k ok) := h.trans (t.keeps_fdSends k ok)

theorem State.keeps_tick (s : State) : s.Keeps s.tick := .aside s _ _ _ _

theorem State.keeps_jtagSelect (s : State) (ir dr : Nat) : s.Keeps (s.jtagSelect ir dr) := .ite (fun _ => ⟨rfl, id, id, id⟩) fun _ => .refl s

theorem State.keeps_jtagDrive (s : State) (ir dr : Nat) : s.Keeps (s.jtagDrive ir dr) :=
  .ite (fun _ => s.keeps_jtagSelect _ _) fun _ => s.keeps_jtagSelect _ _

theorem State.keeps_fenceSeat (s : State) (core : Nat) : s.Keeps (s.fenceSeat core) := by
  unfold State.fenceSeat
  split
  · exact .ite (fun _ => ⟨rfl, fun h => ⟨h.buffer, h.shadow⟩, id, id⟩) fun _ => .refl s
  · exact .refl s

/-! ## Tests of core pairs -/

theorem State.keeps_fenceCore (test : Nat) (s : State) (core : Nat) : s.Keeps (State.fenceCore test s core) := by
  dsimp only [State.fenceCore]
  refine .trans ?_ (State.keeps_fenceSeat _ _)
  exact ⟨rfl, id, id, id⟩

theorem State.keeps_passProgress (s : State) (cores : List Nat) : s.Keeps (s.passProgress cores) := by
  dsimp only [State.passProgress]
  refine .ite (fun _ => ⟨rfl, id, fun b => ?_, id⟩) fun _ => ⟨rfl, id, id, id⟩
  dsimp only [State.setLeaf]
  split <;> exact b

theorem State.keeps_testRun (s : State) (r : Running) : s.Keeps (s.testRun r) := by
  dsimp only [State.testRun]
  refine .trans ?_ (State.keeps_passProgress _ _)
  exact ⟨rfl, id, id, id⟩

theorem State.Keeps.emit {s t : State} (h : s.Keeps t) (o : Out) : s.Keeps (t.emit o) := h.trans (.dev t _)

theorem State.Keeps.setLeaf {s t : State} (h : s.Keeps t) (r : LeafReg) (bit : Nat) : s.Keeps (t.setLeaf r bit) := h.trans (.dev t _)

theorem State.keeps_charge (s : State) (cluster cost : Nat) : s.Keeps (s.charge cluster cost) := ⟨rfl, id, id, id⟩

theorem State.keeps_testAgain (s : State) (r : Running) : s.Keeps (s.testAgain r) := ⟨rfl, id, id, id⟩

theorem State.keeps_fencePair (s : State) (r : Running) (test : Nat) (cores : List Nat) (expect : Bool) :
    s.Keeps (s.fencePair r test cores expect) := by
  have fences (l : List Nat) : ∀ t : State, t.Keeps (l.foldl (State.fenceCore test) t) := by
    induction l with
    | nil => exact .refl
    | cons c l ih => exact fun t => (t.keeps_fenceCore test c).trans (ih _)
  dsimp only [State.fencePair]
  refine (fences cores s).trans (.trans ?_ (State.keeps_testRun _ r))
  exact .ite (fun _ => ⟨rfl, id, id, id⟩) fun _ => .refl _

theorem State.Keeps.fencePair {s t : State} (h : s.Keeps t) (r : Running) (test : Nat) (cores : List Nat) (expect : Bool) :
    s.Keeps (t.fencePair r test cores expect) := h.trans (t.keeps_fencePair r test cores expect)

theorem State.keeps_testOutcome (s : State) (r : Running) (t : Test) (sound : Nat × Nat) (v : TestDeviation) :
    s.Keeps (s.testOutcome r t sound v) := by
  dsimp only [State.testOutcome]
  refine .ite (fun _ => .ite (fun _ => s.keeps_testRun r) fun _ => ?transient) fun _ => .ite (fun _ => s.keeps_testAgain _) fun _ => ?repeats
  case transient =>
    refine .trans ?_ (State.keeps_testRun _ r)
    exact ⟨rfl, id, id, id⟩
  case repeats =>
    refine .ite (fun _ => .trans ?_ (State.keeps_fencePair _ _ _ _ _)) fun _ => .trans ?_ (State.keeps_testAgain _ _)
    all_goals exact ⟨rfl, id, id, id⟩

/-! ## Commands that change more than the device -/

theorem State.Answers.next {s t : State} (h : s.Keeps t) : s.Answers (.next t) := ⟨t, rfl, h⟩

/-- A command that waits for the registers to respond, or for another condition, and else leaves the state. -/
theorem State.Keeps.unless {s a : State} {c : Prop} [Decidable c] (h : ¬c → s.Keeps a) : s.Keeps (if c then s else a) :=
  .ite (fun _ => .refl s) h

theorem State.Keeps.when {s a : State} {c : Prop} [Decidable c] (h : c → s.Keeps a) : s.Keeps (if c then a else s) :=
  .ite h fun _ => .refl s

theorem State.keeps_read32 (s : State) (fn : Fn) (o : Nat) : s.Keeps (s.read32 fn o).1 := .when fun _ => .dev s _

/-- A change of the layout block that leaves the buffer in use, the shadow state and the decoded image. -/
theorem State.Keeps.layRegister {s : State} {l : Lay} (hb : l.activeBuffer = s.lay.activeBuffer) (hs : l.shadow = s.lay.shadow)
    (hi : l.staged = s.lay.staged) : s.Keeps { s with lay := l } :=
  ⟨rfl, fun h => ⟨hb ▸ h.buffer, by simpa only [hs, hi] using h.shadow⟩, id, id⟩

theorem execLeafClear_answers (fn : Fn) (off v : Nat) (s : State) : s.Answers (execLeafClear fn off v s) := by
  refine ⟨_, rfl, ?_⟩
  split
  · exact .when fun _ => .dev s _
  · exact .refl s

/-- The commands of the layout block (R62 to R80). -/
theorem execLayLoad_answers (s : State) : s.Answers (execLayLoad s) := by
  refine .next (.unless fun _ => .ite (fun _ => .dev s _) fun _ => ?_)
  split
  case h_6 => exact .dev s _
  all_goals exact ⟨rfl, fun h => .idle h.buffer (by simp) (by simp), id, id⟩

theorem execLayoutCopyDone_answers (bytes : List Byte) (s : State) : s.Answers (execLayoutCopyDone bytes s) := by
  refine .next (.unless fun h => ?_)
  have loading : s.lay.shadow = .loading := by simpa using fun e => h (.inl e)
  have filled : s.Keeps { s.fillShadow (bytes.take 0x2000000) with lay := { s.lay with loaded := bytes.length % 2 ^ 25, image := bytes } } :=
    ⟨rfl, fun k => .idle k.buffer (by simp [loading]) (by simp [loading]), id, id⟩
  exact filled.trans (.ite (fun _ => ⟨rfl, fun k => .idle k.buffer (by simp) (by simp), id, id⟩) fun _ => State.keeps_refuseLayout ..)

theorem execLayValidate_answers (s : State) : s.Answers (execLayValidate s) :=
  .next (.unless fun _ => .ite (fun _ => ⟨rfl, fun h => .idle h.buffer (by simp) (by simp), id, id⟩) fun _ => .dev s _)

/-- An image becomes VALID with what validation decoded. -/
theorem execLayoutValidationDone_answers (s : State) : s.Answers (execLayoutValidationDone s) := by
  refine .next (.unless fun _ => ?_)
  split
  · exact ⟨rfl, fun h => ⟨h.buffer, fun _ => rfl⟩, id, id⟩
  · exact s.keeps_refuseLayout ..

/-- A VALID image that waits for its swap point is still the decoded one. -/
theorem execLaySwap_answers (s : State) : s.Answers (execLaySwap s) := by
  refine .next (.unless fun _ => ?_)
  split
  case h_1 new _ staged =>
    have pending : s.Keeps { s with lay := { s.lay with shadow := .swapPending },
                                    dev := { s.dev with swapStop := changedSeats s.dev.layout new } } :=
      ⟨rfl, fun h => ⟨h.buffer, fun _ => by simp [staged]⟩, id, id⟩
    exact pending.trans (.ite (fun _ => State.keeps_trySwap _) fun _ => .refl _)
  case h_2 => exact .dev s _

theorem execLayDiscard_answers (s : State) : s.Answers (execLayDiscard s) := by
  refine .next (.unless fun _ => ?_)
  split
  case h_1 => exact .ite (fun _ => s.keeps_trySwap) fun _ => s.keeps_refuseLayout ..
  case h_2 => exact .unless fun _ => ⟨rfl, fun h => .idle h.buffer (by simp) (by simp), id, id⟩
  case h_7 => exact .dev s _
  all_goals exact ⟨rfl, fun h => .idle h.buffer (by simp) (by simp), id, id⟩

theorem execLayKeyEnroll_answers (slot : Nat) (s : State) : s.Answers (execLayKeyEnroll slot s) :=
  .next (.unless fun _ => .ite (fun _ => ⟨rfl, fun h => ⟨h.buffer, h.shadow⟩, id, id⟩) fun _ => .dev s _)

theorem execLayKeyClear_answers (slot : Nat) (s : State) : s.Answers (execLayKeyClear slot s) :=
  .next (.unless fun _ => .ite (fun _ => ⟨rfl, fun h => ⟨h.buffer, h.shadow⟩, id, id⟩) fun _ => .dev s _)

/-- The commands of the power block (R518 to R540). -/
theorem execWarmReset_answers (s : State) : s.Answers (execWarmReset s) := by
  refine ⟨_, rfl, ?_⟩
  split
  · exact s.keeps_warmReset _
  · exact .refl s

theorem execColdReset_answers (s : State) : s.Answers (execColdReset s) := by
  refine ⟨_, rfl, ?_⟩
  split
  · exact s.keeps_coldReset _
  · exact .refl s

theorem State.sampleLeaves_eq (s : State) (p : Pwr) (mv : Nat) : s.sampleLeaves p mv = { s with dev := (s.sampleLeaves p mv).dev } := by
  dsimp only [State.sampleLeaves]
  split_ifs <;> rfl

theorem execPowerSample_answers (mv watts : Nat) (temps : List Nat) (s : State) : s.Answers (execPowerSample mv watts temps s) := by
  refine .next (.unless fun _ => ?_)
  have sampled : s.Keeps { s.sampleLeaves (s.pwr.sample mv watts temps) mv with pwr := s.pwr.sample mv watts temps } := by
    rw [State.sampleLeaves_eq]
    exact ⟨rfl, id, id, fun h => h.sample mv watts temps⟩
  exact sampled.trans (.when fun _ => ⟨rfl, fun _ => .emptied _, fun _ => Nat.le_refl 5, fun h => ⟨h.limit, h.level, h.window⟩⟩)

theorem execPwrLimitWrite_answers (v : Nat) (s : State) : s.Answers (execPwrLimitWrite v s) :=
  .next (.unless fun _ => .ite (fun range => ⟨rfl, id, id, fun h => ⟨range, h.level, h.window⟩⟩) fun _ => .dev s _)

theorem execPwrEnAssert_answers (slotId : Nat) (s : State) : s.Answers (execPwrEnAssert slotId s) := by
  exact .next (.unless fun _ => (State.keeps_coldReset s (if s.pwr.tripLatched then 4 else 2)).trans
    ⟨rfl, id, id, fun h => ⟨h.limit, h.level, h.window⟩⟩)

theorem execPwrEnDeassert_answers (s : State) : s.Answers (execPwrEnDeassert s) := by
  exact .next (.unless fun _ => (State.keeps_dropPower s .off).trans ⟨rfl, id, id, fun h => ⟨h.limit, h.level, h.window⟩⟩)

theorem execThermalTrip_answers (memory : Bool) (celsius : Nat) (s : State) : s.Answers (execThermalTrip memory celsius s) := by
  exact .next (.when fun _ => (State.keeps_dropPower s .tripped).trans ⟨rfl, id, id, fun h => ⟨h.limit, h.level, h.window⟩⟩)

theorem execFirmwareBoot_answers (s : State) : s.Answers (execFirmwareBoot s) :=
  .next (.unless fun _ => .ite (fun _ => ⟨rfl, id, id, fun h => ⟨h.limit, h.level, h.window⟩⟩)
    fun _ => ⟨rfl, id, id, fun h => ⟨h.limit, h.level, h.window⟩⟩)

theorem execSelftestDone_answers (failed : List Nat) (s : State) : s.Answers (execSelftestDone failed s) := by
  refine .next (.unless fun _ => ?_)
  split
  · exact ⟨rfl, id, id, fun h => ⟨h.limit, h.level, h.window⟩⟩
  · exact ⟨rfl, id, id, fun h => ⟨h.limit, h.level, h.window⟩⟩

theorem execClkQuarantine_answers (v : Nat) (s : State) : s.Answers (execClkQuarantine v s) := by
  refine .next (.unless fun _ => .ite (fun _ => .dev s _) fun _ => ?_)
  have fenced := (State.Keeps.dev s { s.dev with chk := s.dev.chk.fence [v % 2 ^ 17] }).trans (State.keeps_fenceSeat _ (v % 2 ^ 17))
  exact fenced.trans (.ite (fun _ => .dev _ _) fun _ => ⟨rfl, id, id, id⟩)

theorem execQuarantineApply_answers (s : State) : s.Answers (execQuarantineApply s) := by
  refine ⟨_, rfl, ?_⟩
  split
  · exact .refl s
  · exact .unless fun _ => ⟨rfl, id, id, id⟩

/-- The firmware update, PLDM and SPDM (R544 to R550). -/
theorem execFwStage_answers (s : State) : s.Answers (execFwStage s) :=
  .next (.unless fun _ => .ite (fun _ => s.keeps_stage false) fun _ => .dev s _)

theorem execFwStageCopyDone_answers (bytes : List Byte) (s : State) : s.Answers (execFwStageCopyDone bytes s) := by
  refine .next (.unless fun _ => (State.Keeps.dev s (s.fillShadow (bytes.take 0x1000000)).dev).trans ?_)
  exact .ite (fun _ => .fdSends (.aside _ _ _ _ _) 16 true) fun _ => .fdSends (.aside _ _ _ _ _) 16 false

theorem execFwVerifyDone_answers (s : State) : s.Answers (execFwVerifyDone s) := by
  refine ⟨_, rfl, ?_⟩
  split
  · exact .ite (fun _ => .fdSends (.aside s _ _ _ _) 17 true) fun _ => .fdSends (.aside s _ _ _ _) 17 false
  · exact .refl s

theorem execFwFlashWriteDone_answers (ok : Bool) (s : State) : s.Answers (execFwFlashWriteDone ok s) := by
  refine ⟨_, rfl, ?_⟩
  split
  case h_1 image _ _ =>
    refine .ite (fun _ => .fdSends ?_ 18 true) fun _ => .fdSends (.aside s _ _ _ _) 18 false
    have written : s.Keeps { s with mgt := { s.mgt with state := .pending, error := 0, flash := some image, written := s.mgt.stagedLen } } :=
      .aside s ..
    refine written.trans (.setLeaf ?_ _ _)
    exact .when fun _ => ⟨rfl, id, id, fun h => ⟨h.limit, h.level, h.window⟩⟩
  case h_2 => exact .refl s

theorem execPldmUpdateComponent_answers (component : Nat) (s : State) : s.Answers (execPldmUpdateComponent component s) := by
  refine .next (.unless fun _ => .ite (fun _ => .dev s _) fun _ => .ite (fun _ => .dev s _) fun _ => .ite (fun _ => .dev s _) fun _ => ?_)
  exact (s.keeps_stage true).trans (.ite (fun _ => .dev _ _) fun _ => .dev _ _)

theorem execPldmActivateFirmware_answers (s : State) : s.Answers (execPldmActivateFirmware s) :=
  .next (.unless fun _ => .ite (fun _ => .dev s _) fun _ => ⟨rfl, id, id, fun h => ⟨h.limit, h.level, h.window⟩⟩)

theorem execGetVersion_answers (port : SpdmPort) (s : State) : s.Answers (execGetVersion port s) :=
  .next (.unless fun _ => .respond (.aside s _ _ _ _) _ _)

theorem execGetCapabilities_answers (port : SpdmPort) (s : State) : s.Answers (execGetCapabilities port s) :=
  .next (.unless fun _ => .ite (fun _ => s.keeps_respond _ _) fun _ => .respond (.aside s _ _ _ _) _ _)

theorem execNegotiateAlgorithms_answers (port : SpdmPort) (s : State) : s.Answers (execNegotiateAlgorithms port s) :=
  .next (.unless fun _ => .ite (fun _ => s.keeps_respond _ _) fun _ => .respond (.aside s _ _ _ _) _ _)

theorem execGetMeasurements_answers (port : SpdmPort) (nonce : List Byte) (index : Nat) (s : State) :
    s.Answers (execGetMeasurements port nonce index s) := by
  refine .next (State.keeps_attest (.ite (fun _ => s.keeps_signedAnswer ..) fun _ => .ite (fun _ => s.keeps_signedAnswer ..) fun _ => ?_))
  split
  · exact s.keeps_signedAnswer ..
  · exact s.keeps_respond _ _

/-- The commands of a pack and the tests of core pairs (R503 to R512). -/
theorem execPackCopyDone_answers (bytes : List Byte) (s : State) : s.Answers (execPackCopyDone bytes s) := by
  refine .next (.unless fun _ => (State.Keeps.dev s (s.dev.writeInternal packBuffer (bytes.take 0x1000000))).trans ?_)
  exact .ite (fun _ => ⟨rfl, id, id, id⟩) fun _ => ⟨rfl, id, id, id⟩

theorem execTstCtrlWrite_answers (v : Nat) (s : State) : s.Answers (execTstCtrlWrite v s) := by
  refine .next (.unless fun _ => ⟨rfl, id, fun h => ?_, id⟩)
  dsimp only
  split
  · assumption
  · exact h

theorem execTestDone_answers (core : Nat) (deviation : TestDeviation) (s : State) : s.Answers (execTestDone core deviation s) := by
  refine .next (.ite (fun _ => ⟨rfl, id, id, id⟩) fun _ => ?_)
  split
  · split
    · exact s.keeps_testOutcome _ _ _ _
    · exact .refl s
  · exact .refl s

theorem execArbitrationDone_answers (core : Nat) (deviation : TestDeviation) (s : State) : s.Answers (execArbitrationDone core deviation s) := by
  refine .next (.ite (fun _ => ⟨rfl, id, id, id⟩) fun _ => ?_)
  split
  · split
    · exact .when fun _ => .fencePair (s.keeps_charge _ _) _ _ _ _
    · exact .refl s
  · exact .refl s

/-! ## Every command but the register write -/

/-- Every command but a register write, whose own meaning runs others, answers and keeps both. -/
theorem exec_answers_of_ne_write (c : Instr) (s : State) (hc : ∀ fn off wide v, c ≠ .registerWrite fn off wide v) : s.Answers (exec c s) := by
  cases c
  case registerWrite fn off wide v => exact absurd rfl (hc fn off wide v)
  -- Commands whose one answer differs from the state in its device alone.
  case clusterClockStartDone | completionEntryWrite | mark | wait | acquireInvalidate | acquireBypass | acquireRestore | flush | fence |
    tileLoad | tileStore | copy | tileArrival | routeCreditReturn | gather | gatherPool | prefetchRows | trickOpen | trickPut |
    trickCommit | trickAbort | settleDone | epochPin | rowMigrateMove | rowMigrateReplicate | rowMigrateDropReplica | matmul | gemv |
    vector | reduce | quantize | wideningRerun | dequantize | summary | skipIf | launchGraphLaunch | launchGraphPublish |
    launchGraphRetire | runCmdbuf | check | egress | exchange | allToAll | stepTokenIssue | stepTokenAwait | stepTokenRespond |
    requestIssue | cableRemove | creditReturnTimer | exchangeMessage | a2aBlock | token | response | status | xack | xnak |
    statusTimer | a2aResendTimer | coreFault | selfRefreshExit | meshClockStart =>
    exact .next (.dev s _)
  -- Commands whose every branch leaves the state or differs from it in its device alone.
  case domainPowerUpDone | submissionDoorbell | completionDoorbell | mailboxWrite | fetchRound | slotIdle | staleReread | slotRecheck |
    sltRecheckWrite | ringStop | ringStart | ringReset | ringZeroingDone | ringModeWrite | skippedOperation | operationRetire |
    excRecordClear | waitSatisfied | prefetchLineLand | trickAdmit | trickPrepared | dieEpochAck | settlingStart | overlaySpaceFreed |
    migrateCommitCheck | combineBufferSpaceFreed | cmdbufTranslated | memoryRequest | rowRepairDone | zeroFillDone | patrolScrub |
    temperatureSample | memClearTempMax | memSpareBaseWrite | frameRemapWrite | frameCopyDone | segDisable | segDropDone | seatSave |
    seatRestore | seatResetContext | seatReset | vfFlr | seatDrained | sliceExpiry | saveDone | restoreDone | windowEnable |
    windowDisable | hostClassWrite | hostClassRead | linkTrained | decoderCommit | vfEnable | msixEnable | linkUp | logSlotRead |
    cableInsert | cableIdentityRead | laneLock | trainingTimeout | lockLost | retrainTimeout | qlkRetrain | cageOvercurrent | ident |
    nak | credit | qlkRouteWrite | qlkExcludeWrite | sramDoubleBitError | chkStart | chkRunningWrite | chkCommandDone |
    overlayRebuildDone | meshClockStop | selfRefreshEntry | atnRearm | seatAtnRearm | flitDiscard | idle | domainPowerDownDone =>
    refine ⟨_, rfl, ?_⟩
    (repeat' split) <;> exact ⟨rfl, id, id, id⟩
  case scrubDone seat =>
    refine .next (.unless fun _ => .ite (fun _ => .setLeaf ?_ _ _) fun _ => .dev s _)
    exact ⟨rfl, fun h => ⟨h.buffer, h.shadow⟩, id, id⟩
  case segEnable | contextQuiescent =>
    refine ⟨_, rfl, ?_⟩
    dsimp only
    (repeat' split) <;> exact ⟨rfl, id, id, id⟩
  case latchingLoRead fn off => exact .next (.when fun _ => .emit (s.keeps_read32 fn off) _)
  case badAccess => exact .next (.unless fun _ => .ite (fun _ => .emit (.dev s _) _) fun _ => .dev s _)
  case leafClear => exact execLeafClear_answers _ _ _ s
  case attentionTick => exact .next (.when fun _ => s.keeps_tick)
  case layLoad => exact execLayLoad_answers s
  case layoutCopyDone bytes => exact execLayoutCopyDone_answers bytes s
  case layValidate => exact execLayValidate_answers s
  case layoutValidationDone => exact execLayoutValidationDone_answers s
  case laySwap => exact execLaySwap_answers s
  case layDiscard => exact execLayDiscard_answers s
  case swapPoint => exact .next s.keeps_trySwap
  case layKeyEnroll slot => exact execLayKeyEnroll_answers slot s
  case layKeyClear slot => exact execLayKeyClear_answers slot s
  case perstAssert | hotReset | pfFlr | dataLinkDown => exact .next (.when fun _ => s.keeps_hostLoss _)
  case identifyMemoryDevice | getSupportedLogs | getLog | getEventRecords | cdatDoeRequest => exact .next (.when fun _ => .dev s _)
  case pwrResetWarm v | pwrResetCold v => exact .next (s.keeps_resetWrite v)
  case warmReset => exact execWarmReset_answers s
  case coldReset => exact execColdReset_answers s
  case powerSample mv watts temps => exact execPowerSample_answers mv watts temps s
  case supplyRecovery => exact .next (.when fun _ => s.keeps_coldReset 3)
  case pwrLimitWrite v => exact execPwrLimitWrite_answers v s
  case pwrPeakClear => exact .next (.when fun _ => ⟨rfl, id, id, fun h => ⟨h.limit, h.level, h.window⟩⟩)
  case pwrEnAssert slotId => exact execPwrEnAssert_answers slotId s
  case pwrEnDeassert => exact execPwrEnDeassert_answers s
  case thermalTrip memory celsius => exact execThermalTrip_answers memory celsius s
  case firmwareBoot => exact execFirmwareBoot_answers s
  case selftestDone failed => exact execSelftestDone_answers failed s
  case clkQuarantine v => exact execClkQuarantine_answers v s
  case quarantineApply => exact execQuarantineApply_answers s
  case fwStage => exact execFwStage_answers s
  case fwClear => exact .next (.unless fun _ => .ite (fun _ => ⟨rfl, id, id, id⟩) fun _ => .dev s _)
  case fwStageCopyDone bytes => exact execFwStageCopyDone_answers bytes s
  case fwVerifyDone => exact execFwVerifyDone_answers s
  case fwFlashWriteDone ok => exact execFwFlashWriteDone_answers ok s
  case pldmUpdateComponent component => exact execPldmUpdateComponent_answers component s
  case pldmActivateFirmware => exact execPldmActivateFirmware_answers s
  case pldmRequestUpdate | pldmPassComponentTable | pldmGetStatus | pldmCancelUpdate | pldmPlatformMonitoring =>
    refine ⟨_, rfl, ?_⟩
    (repeat' split) <;> exact ⟨rfl, id, id, id⟩
  case getVersion port => exact execGetVersion_answers port s
  case getCapabilities port => exact execGetCapabilities_answers port s
  case negotiateAlgorithms port => exact execNegotiateAlgorithms_answers port s
  case getDigests port | getCertificate port _ _ => exact .next (State.keeps_attest (s.keeps_respond _ _))
  case challenge port nonce => exact .next (State.keeps_attest (s.keeps_signedAnswer ..))
  case getMeasurements port nonce index => exact execGetMeasurements_answers port nonce index s
  case spdmUnsupportedRequest port code => exact .next (.unless fun _ => s.keeps_respond _ _)
  case jtagTrst low => exact .next ⟨rfl, id, id, id⟩
  case jtagBypass | jtagIdcode | jtagSamplePreload => exact .next (s.keeps_jtagSelect _ _)
  case jtagExtest | jtagClamp | jtagHighz => exact .next (s.keeps_jtagDrive _ _)
  case packCopyDone bytes => exact execPackCopyDone_answers bytes s
  case tstCtrlWrite v => exact execTstCtrlWrite_answers v s
  case testDone core deviation => exact execTestDone_answers core deviation s
  case arbitrationDone core deviation => exact execArbitrationDone_answers core deviation s
  case budgetWindow => exact .next ⟨rfl, id, id, id⟩
  case tstLoad | tstValidate | packValidationDone | tstStart | tstStop | tstDiscard | testStart | testAbandon =>
    refine ⟨_, rfl, ?_⟩
    (repeat' split) <;> exact ⟨rfl, id, id, id⟩

/-! ## Register writes (R18 to R21) -/

theorem State.keeps_run (s : State) (c : Instr) (hc : ∀ fn off wide v, c ≠ .registerWrite fn off wide v := by nofun) :
    s.Keeps (s.after (exec c s)) := (exec_answers_of_ne_write c s hc).after

theorem State.keeps_writeGlb (s : State) (o v : Nat) : s.Keeps (s.writeGlb o v) := by
  refine .ite (fun _ => .dev s _) fun _ => .ite (fun _ => .dev s _) fun _ => .when fun _ => .ite (fun _ => ?window) fun _ => ?field
  case window =>
    split
    · exact s.keeps_run (.windowEnable _ v)
    · exact s.keeps_run (.windowDisable _ v)
  case field => exact .ite (fun _ => .dev s _) fun _ => .dev s _

theorem State.keeps_writeAtn (s : State) (o v : Nat) : s.Keeps (s.writeAtn o v) :=
  .ite (fun _ => .aside s ..) fun _ => .ite (fun _ => .dev s _) fun _ => .ite (fun _ => .when fun _ => s.keeps_run .atnRearm) fun _ =>
    .ite (fun _ => .aside s ..) fun _ => .ite (fun _ => .when fun _ => .dev s _) fun _ => .when fun _ => .dev s _

theorem State.keeps_writeLay (s : State) (o v : Nat) : s.Keeps (s.writeLay o v) := by
  refine .ite (fun _ => ?command) fun _ => .ite (fun _ => .layRegister rfl rfl rfl) fun _ => .ite (fun _ => .layRegister rfl rfl rfl) fun _ =>
    .ite (fun _ => .layRegister rfl rfl rfl) fun _ => .ite (fun _ => .layRegister rfl rfl rfl) fun _ =>
    .ite (fun _ => .layRegister rfl rfl rfl) fun _ => .ite (fun _ => ?key) fun _ => .when fun _ => .layRegister rfl rfl rfl
  case command =>
    split
    · exact .refl s
    · exact s.keeps_run .layLoad
    · exact s.keeps_run .layValidate
    · exact s.keeps_run .laySwap
    · exact s.keeps_run .layDiscard
    · exact .dev s _
  case key =>
    split
    · exact .refl s
    · exact s.keeps_run (.layKeyEnroll _)
    · exact s.keeps_run (.layKeyClear _)
    · exact .dev s _

theorem State.keeps_writeRingCtrl (s : State) (i v : Nat) : s.Keeps (s.writeRingCtrl i v) := by
  unfold State.writeRingCtrl
  split
  · exact .refl s
  · exact s.keeps_run (.ringStop i)
  · exact s.keeps_run (.ringStart i)
  · exact s.keeps_run (.ringReset i)

theorem State.keeps_writeSeatCmd (s : State) (n v : Nat) : s.Keeps (s.writeSeatCmd n v) := by
  unfold State.writeSeatCmd
  split
  · exact .refl s
  · exact s.keeps_run (.seatSave n _)
  · exact s.keeps_run (.seatRestore n _)
  · exact s.keeps_run (.seatResetContext n _)
  · exact s.keeps_run (.seatReset n)
  · exact .dev s _

theorem State.keeps_writeSeg (s : State) (x i o v : Nat) : s.Keeps (s.writeSeg x i o v) := by
  refine .unless fun _ => .ite (fun _ => ?attr) fun _ => .unless fun _ => .ite (fun _ => .dev s _) fun _ => .dev s _
  split
  · exact s.keeps_run (.segEnable x i v)
  · exact s.keeps_run (.segDisable x i v)

theorem State.keeps_writeMem (s : State) (x o v : Nat) : s.Keeps (s.writeMem x o v) :=
  .ite (fun _ => .when fun _ => s.keeps_run (.memClearTempMax x)) fun _ => .ite (fun _ => s.keeps_run (.memSpareBaseWrite x v)) fun _ =>
    .when fun _ => s.keeps_run (.frameRemapWrite x _ v)

theorem State.keeps_writeQlk (s : State) (o v : Nat) : s.Keeps (s.writeQlk o v) := by
  refine .ite (fun _ => .when fun _ => ?ctrl) fun _ => .ite (fun _ => .dev s _) fun _ => .ite (fun _ => s.keeps_run (.qlkExcludeWrite _ v)) fun _ =>
    .when fun _ => s.keeps_run (.qlkRouteWrite _ v)
  split
  · exact .refl s
  · exact s.keeps_run (.qlkRetrain _)
  · exact .dev s _

theorem State.keeps_writeUnit (s : State) (u o v : Nat) : s.Keeps (s.writeUnit u o v) :=
  .ite (fun _ => s.keeps_run (.chkStart u v)) fun _ => .ite (fun _ => .dev s _) fun _ => .ite (fun _ => .dev s _) fun _ =>
    .ite (fun _ => .dev s _) fun _ => .ite (fun _ => .dev s _) fun _ => .ite (fun _ => .dev s _) fun _ => .ite (fun _ => .dev s _) fun _ =>
    .ite (fun _ => .dev s _) fun _ => .ite (fun _ => .dev s _) fun _ => .ite (fun _ => .dev s _) fun _ =>
    .ite (fun _ => s.keeps_run (.chkRunningWrite u false v)) fun _ => .when fun _ => s.keeps_run (.chkRunningWrite u true v)

/-- A change of the test block that leaves BUDGET. -/
theorem State.Keeps.tstRegister {s : State} {t : Tst} (h : t.budget = s.tst.budget) : s.Keeps { s with tst := t } :=
  ⟨rfl, id, fun b => h ▸ b, id⟩

theorem State.keeps_writeTst (s : State) (o v : Nat) : s.Keeps (s.writeTst o v) := by
  refine .ite (fun _ => ?command) fun _ => .ite (fun _ => .tstRegister rfl) fun _ => .ite (fun _ => .tstRegister rfl) fun _ =>
    .ite (fun _ => .tstRegister rfl) fun _ => .ite (fun _ => s.keeps_run (.tstCtrlWrite v)) fun _ => .when fun _ => .tstRegister rfl
  split
  · exact .refl s
  · exact s.keeps_run .tstLoad
  · exact s.keeps_run .tstValidate
  · exact s.keeps_run .tstStart
  · exact s.keeps_run .tstStop
  · exact s.keeps_run .tstDiscard
  · exact .dev s _

theorem State.keeps_writePwr (s : State) (o v : Nat) : s.Keeps (s.writePwr o v) :=
  .ite (fun _ => .when fun _ => s.keeps_run .pwrPeakClear) fun _ => .ite (fun _ => s.keeps_run (.pwrLimitWrite v)) fun _ =>
    .ite (fun _ => s.keeps_resetWrite v) fun _ => .ite (fun _ => ⟨rfl, id, id, fun h => ⟨h.limit, h.level, h.window⟩⟩) fun _ =>
    .when fun _ => s.keeps_run (.clkQuarantine v)

theorem State.keeps_writeSpdm (s : State) (v : Nat) : s.Keeps (s.writeSpdm v) := by
  have taken : s.Keeps { s with mgt := { s.mgt with spdmLength := v % 2 ^ 13 } } := .aside s ..
  exact taken.trans (.unless fun _ => .ite (fun _ => .dev _ _) fun _ => ⟨rfl, id, id, id⟩)

theorem State.keeps_writeMgt (s : State) (o v : Nat) : s.Keeps (s.writeMgt o v) := by
  refine .ite (fun _ => ?command) fun _ => .ite (fun _ => .aside s ..) fun _ => .ite (fun _ => .aside s ..) fun _ =>
    .ite (fun _ => .aside s ..) fun _ => .ite (fun _ => s.keeps_writeSpdm v) fun _ => .when fun _ => .aside s ..
  split
  · exact .refl s
  · exact s.keeps_run .fwStage
  · exact s.keeps_run .fwClear
  · exact .dev s _

theorem State.keeps_writePf (s : State) (o v : Nat) : s.Keeps (s.writePf o v) := by
  unfold State.writePf
  split
  case h_1 => exact .dev s _
  case h_2 => exact .dev s _
  case h_3 =>
    exact .ite (fun _ => s.keeps_writeGlb o v) fun _ => .ite (fun _ => s.keeps_writeAtn _ v) fun _ => .ite (fun _ => s.keeps_writeLay _ v) fun _ =>
      .ite (fun _ => .when fun _ => s.keeps_writeRingCtrl _ v) fun _ => .ite (fun _ => .when fun _ => s.keeps_run (.sltRecheckWrite _ v)) fun _ =>
      .ite (fun _ => .when fun _ => s.keeps_writeSeatCmd _ v) fun _ => .ite (fun _ => s.keeps_writeSeg _ _ _ v) fun _ =>
      .ite (fun _ => s.keeps_writeMem _ _ v) fun _ => .ite (fun _ => s.keeps_writeQlk _ v) fun _ => .ite (fun _ => s.keeps_writeUnit _ _ v) fun _ =>
      .ite (fun _ => s.keeps_writeTst _ v) fun _ => .ite (fun _ => s.keeps_writePwr _ v) fun _ => .when fun _ => s.keeps_writeMgt _ v

theorem State.keeps_onRing {s : State} (n k : Nat) {f : Nat → State} (h : ∀ i, s.Keeps (f i)) : s.Keeps (s.onRing n k f) := by
  unfold State.onRing
  split
  · exact h _
  · exact .refl s

theorem State.keeps_writeVf (s : State) (n o v : Nat) : s.Keeps (s.writeVf n o v) := by
  unfold State.writeVf
  split
  case h_1 => exact .dev s _
  case h_2 => exact .dev s _
  case h_3 =>
    exact .ite (fun _ => .when fun _ => State.keeps_onRing _ _ fun i => s.keeps_run (.excRecordClear i)) fun _ =>
      .ite (fun _ => .ite (fun _ => State.keeps_onRing _ _ fun i => s.keeps_run (.ringModeWrite i v)) fun _ =>
        .when fun _ => State.keeps_onRing _ _ fun i => s.keeps_writeRingCtrl i v) fun _ =>
      .ite (fun _ => .dev s _) fun _ => .ite (fun _ => .dev s _) fun _ => .ite (fun _ => .dev s _) fun _ =>
      .ite (fun _ => .when fun _ => s.keeps_run (.seatAtnRearm n)) fun _ => .ite (fun _ => .when fun _ => .dev s _) fun _ =>
      .ite (fun _ => .dev s _) fun _ => .ite (fun _ => .dev s _) fun _ => .when fun _ => s.keeps_run (.mailboxWrite n _ _)

theorem State.keeps_writeDoorbell (s : State) (n o v : Nat) : s.Keeps (s.writeDoorbell n o v) :=
  .ite (fun _ => s.keeps_run (.submissionDoorbell n _ v)) fun _ => .when fun _ => s.keeps_run (.completionDoorbell n _ v)

theorem State.keeps_write32 (s : State) (fn : Fn) (o v : Nat) : s.Keeps (s.write32 fn o v) := by
  refine .unless fun _ => ?_
  cases fn with
  | pf => exact s.keeps_writePf o v
  | vf n => exact .unless fun _ => s.keeps_writeVf n o v

/-! ## Every command -/

/-- Every command answers a next state, with the queue as it was and the invariant kept. -/
theorem exec_answers (c : Instr) (s : State) : s.Answers (exec c s) := by
  by_cases write : ∃ fn off wide v, c = .registerWrite fn off wide v
  case neg => exact exec_answers_of_ne_write c s fun fn off wide v e => write ⟨fn, off, wide, v, e⟩
  case pos =>
    obtain ⟨fn, off, wide, v, rfl⟩ := write
    refine .next (.unless fun _ => .ite (fun _ => .dev s _) fun _ => .ite (fun _ => s.keeps_write32 fn off _) fun _ => ?_)
    have halves : s.Keeps ((s.write32 fn off (v % 2 ^ 32)).write32 fn (off + 4) (v / 2 ^ 32 % 2 ^ 32)) :=
      (s.keeps_write32 fn off _).trans (State.keeps_write32 _ fn _ _)
    cases fn with
    | pf => exact halves
    | vf n => exact .ite (fun _ => s.keeps_writeDoorbell n _ _) fun _ => halves

theorem exec_keeps {c : Instr} {s t : State} (h : exec c s = .next t) : s.Keeps t := by
  obtain ⟨u, hu, keeps⟩ := exec_answers c s
  obtain rfl := Host.Outcome.next.inj (h.symm.trans hu)
  exact keeps

/-! ## The obligations -/

/-- Settles O1: the step is defined by the queue's front. -/
theorem stepRunsFrontCommand : Obligations.StepRunsFrontCommand := by
  unfold Obligations.StepRunsFrontCommand
  refine ⟨fun s c rest => rfl, fun s h => ?_⟩
  unfold step
  rw [h]

/-- Settles O2. -/
theorem execKeepsQueue : Obligations.ExecKeepsQueue := by
  unfold Obligations.ExecKeepsQueue
  exact fun _ _ _ h => (exec_keeps h).pending

/-- Settles O60: on an empty queue the state stays, and the command at the front of another keeps every block's part. -/
theorem invariantKept : Obligations.InvariantKept := by
  unfold Obligations.InvariantKept
  intro s t hs ht
  cases hq : s.pending with
  | nil =>
    obtain rfl := Host.Outcome.next.inj ((stepRunsFrontCommand.2 s hq).symm.trans ht)
    exact hs
  | cons c rest =>
    have ran : exec c { s with pending := rest } = .next t := by
      rw [← ht, step, hq]
    exact (exec_keeps ran).inv ⟨hs.limit, hs.level, hs.budget, hs.window, hs.buffer, hs.shadow⟩

end Sys2Proof.Machine
end

section
/-! SUPPORT. Power, resets, quarantine and clocks (16): what each reset loses and keeps, and what each event of power and clocks does. -/

namespace Sys2Proof.Machine

/-! ## Losses of power (R519, R535, R539, R540) -/

/-- After D1 to D19 went off, whatever became of the power block, the attention block and the domains that are on. -/
theorem State.dropPower_lost (s : State) (b : Boot) (on : Nat) (p : Pwr) (a : Atn) :
    AfterPowerLoss s { s.dropPower b with dev := { (s.dropPower b).dev with domainOn := on }, pwr := p, atn := a } :=
  ⟨rfl, rfl, rfl, rfl, rfl, rfl, rfl, rfl, rfl, ⟨rfl, rfl⟩, rfl⟩

theorem State.coldReset_after (s : State) (cause : Nat) (k : Nat) :
    AfterColdReset s { s.coldReset cause with pwr := { (s.coldReset cause).pwr with slotId := k } } cause :=
  ⟨⟨rfl, rfl, rfl, rfl, rfl, rfl, rfl, rfl, rfl, ⟨rfl, rfl⟩, rfl⟩, rfl, rfl, rfl, rfl⟩

/-- Settles O4: each event drops the power of D1 to D19, or is a cold reset. -/
theorem powerPins : Obligations.PowerPins := by
  unfold Obligations.PowerPins
  refine ⟨fun s k off => ?assert, fun s on => ?deassert, fun s memory celsius on hot => ?trip, fun s fault on => ?recovery⟩
  case assert =>
    exact ⟨_, congrArg Host.Outcome.next (if_neg (by simp [off])), s.coldReset_after _ k, rfl⟩
  case deassert =>
    exact ⟨_, congrArg Host.Outcome.next (if_neg (by simp [on])), s.dropPower_lost .off 0 _ _, rfl, rfl, rfl, rfl, rfl, rfl, rfl, rfl⟩
  case trip =>
    exact ⟨_, congrArg Host.Outcome.next (if_pos ⟨on, hot⟩), s.dropPower_lost .tripped _ _ _, rfl, rfl, rfl⟩
  case recovery =>
    exact ⟨_, congrArg Host.Outcome.next (if_pos ⟨fault, on⟩), s.coldReset_after 3 s.pwr.slotId, rfl⟩

/-! ## The governor (R519, R521, R551) -/

theorem Pwr.sample_level (p : Pwr) (mv watts : Nat) (temps : List Nat) :
    (p.sample mv watts temps).level = p.nextLevel watts (p.sample mv watts temps).samples temps := rfl

/-- The table of R521, its temperatures read as statements on each die. -/
theorem Pwr.nextLevel_eq (p : Pwr) (watts : Nat) (samples temps : List Nat) :
    p.nextLevel watts samples temps =
      if watts > 3100 then min (p.level + 4) 15
      else if totalOf samples > p.limit * samples.length then min (p.level + 1) 15
      else if ∃ c ∈ temps, c > 105 then min (p.level + 1) 15
      else if totalOf samples + 100 * samples.length ≤ p.limit * samples.length ∧ (∀ c ∈ temps, c ≤ 100) ∧ 100 ≤ p.sinceChange then p.level - 1
      else p.level := by
  simp [Pwr.nextLevel]

/-- A sample inside the warning range that starts no throttling and finds no die hot sets no leaf. -/
theorem State.sampleLeaves_quiet (s : State) (p : Pwr) (mv : Nat) (hv : 42000 ≤ mv ∧ mv ≤ 58000) (hl : s.pwr.level ≠ 0 ∨ p.level = 0)
    (hc : ∀ c ∈ p.dieTemp, c ≤ 105) : s.sampleLeaves p mv = s := by
  have throttle : ¬(s.pwr.level = 0 ∧ 0 < p.level) := by omega
  have hot : ((p.dieTemp.zip s.pwr.dieTemp).any fun t => decide (105 < t.1 ∧ t.2 ≤ 105)) = false := by
    simp only [List.any_eq_false, decide_eq_true_eq, not_and]
    intro t ht
    have := hc t.1 (List.of_mem_zip ht).1
    omega
  have warn : ¬(mv < 42000 ∨ 58000 < mv) := by omega
  dsimp only [State.sampleLeaves]
  rw [if_neg throttle, hot, if_neg Bool.false_ne_true, if_neg warn]

theorem State.sampleLeaves_dev (s : State) (p : Pwr) (mv : Nat) :
    (s.sampleLeaves p mv).dev = { s.dev with leaves := (s.sampleLeaves p mv).dev.leaves, recent := (s.sampleLeaves p mv).dev.recent } := by
  dsimp only [State.sampleLeaves]
  split_ifs <;> rfl

/-- A sample that is no supply fault. -/
theorem exec_powerSample_taken {s : State} {mv watts : Nat} {temps : List Nat} (on : s.pwr.boot ≠ .off)
    (sound : ¬(10 ≤ (s.pwr.sample mv watts temps).badSamples ∧ s.pwr.boot ≠ .supplyFault)) :
    exec (.powerSample mv watts temps) s =
      .next { s with dev := (s.sampleLeaves (s.pwr.sample mv watts temps) mv).dev, pwr := s.pwr.sample mv watts temps } := by
  have run : ¬(!(s.pwr.boot != .off)) = true := by simp [on]
  refine congrArg Host.Outcome.next ((if_neg run).trans ((if_neg sound).trans ?_))
  rw [State.sampleLeaves_eq]

/-- A sample that is the tenth in a row out of range: PWR_GOOD falls, and D1 to D19 lose power. -/
theorem exec_powerSample_fault {s : State} {mv watts : Nat} {temps : List Nat} (on : s.pwr.boot ≠ .off)
    (fault : 10 ≤ (s.pwr.sample mv watts temps).badSamples ∧ s.pwr.boot ≠ .supplyFault) :
    exec (.powerSample mv watts temps) s =
      .next { ({ s with dev := (s.sampleLeaves (s.pwr.sample mv watts temps) mv).dev } : State).dropPower .off with
        pwr := { s.pwr.sample mv watts temps with boot := if s.pwr.boot = .tripped then .tripped else .supplyFault, good := false } } := by
  have run : ¬(!(s.pwr.boot != .off)) = true := by simp [on]
  refine congrArg Host.Outcome.next ((if_neg run).trans ((if_pos fault).trans ?_))
  rw [State.sampleLeaves_eq]
  rfl

/-- Settles O5: the sample is taken in every case; the tenth out of range drops the power, any other touches leaves alone. -/
theorem governorFollowsTheTable : Obligations.GovernorFollowsTheTable := by
  unfold Obligations.GovernorFollowsTheTable
  intro s mv watts temps on
  have table := Pwr.nextLevel_eq s.pwr watts (s.pwr.sample mv watts temps).samples temps
  by_cases fault : 10 ≤ (s.pwr.sample mv watts temps).badSamples ∧ s.pwr.boot ≠ .supplyFault
  case pos =>
    refine ⟨_, exec_powerSample_fault on fault, rfl, table, rfl, rfl, rfl, rfl, rfl, rfl, rfl, rfl, rfl, rfl, (if_pos fault).mpr ?_⟩
    exact ⟨fun untripped => if_neg untripped, rfl, rfl, rfl, rfl, rfl, rfl, rfl, rfl, rfl, rfl, ⟨rfl, rfl⟩, rfl⟩
  case neg =>
    refine ⟨_, exec_powerSample_taken on fault, rfl, table, rfl, rfl, rfl, rfl, rfl, rfl, rfl, rfl, rfl, rfl, (if_neg fault).mpr ?_⟩
    refine ⟨rfl, rfl, rfl, rfl, s.sampleLeaves_dev _ mv, ?_⟩
    rintro ⟨low, high, level, cool⟩
    change (s.sampleLeaves (s.pwr.sample mv watts temps) mv).dev = s.dev
    exact congrArg State.dev (s.sampleLeaves_quiet (s.pwr.sample mv watts temps) mv ⟨low, high⟩ level cool)

/-! ## What a warm reset keeps (R537) -/

theorem Mem.stack_warm (m : Mem) (x : Nat) : m.warm.stack x = if x < 12 then (m.stack x).warm else m.stack x := by
  simp [Mem.warm, Mem.stack, SMap.get_foldl_put {} (fun x => Stack.warm (m.dies.get {} x))]

/-- Repair, remap and frame tables outlive a warm reset. -/
theorem Mem.stack_warm_tables (m : Mem) (x : Nat) : (m.warm.stack x).repair = (m.stack x).repair ∧ (m.warm.stack x).remap = (m.stack x).remap ∧
    (m.warm.stack x).frames = (m.stack x).frames := by
  rw [Mem.stack_warm]
  split
  · exact ⟨rfl, rfl, rfl⟩
  · exact ⟨rfl, rfl, rfl⟩

theorem Dev.ctx_warm (d : Dev) (x : Nat) : d.warm.ctx x = { meter := (d.ctx x).meter } :=
  SMap.get_foldr_put ({} : Ctx) ({} : Ctx) (fun c : Ctx => { meter := c.meter }) rfl x d.ctxs

/-- MEM_ATN outlives a warm reset. -/
theorem Dev.leaf_warm_mem (d : Dev) (x : Nat) : d.warm.leaf (.mem x) = d.leaf (.mem x) := by
  have kept : decide (16 ≤ (LeafReg.mem x).key ∧ (LeafReg.mem x).key < 32) = true := by
    have := Nat.mod_lt x (show 0 < 16 by decide)
    exact decide_eq_true ⟨Nat.le_add_right 16 _, Nat.add_lt_add_left this 16⟩
  have other : (LeafReg.mem x).key ≠ LeafReg.trk.key := by
    simp only [LeafReg.key]
    omega
  have read : SMap.get 0 (keptLeaves d.leaves) (LeafReg.mem x).key = d.leaf (.mem x) := by
    rw [keptLeaves, SMap.get_filter fun k => decide (16 ≤ k ∧ k < 32), if_pos kept]
    rfl
  simp only [Dev.leaf, Dev.warm]
  split
  · exact read
  · rw [SMap.get_put_other other, read, Dev.leaf]

/-- A committed trick outlives a warm reset, under its entry number. -/
theorem Trk.committed_warm {k : Trick} (t : Trk) (h : k ∈ t.tricks) (hk : k.state = .committed) :
    ∃ k' ∈ t.warm.tricks, k'.entry = k.entry ∧ k'.state = .committed := by
  have survives : k ∈ t.tricks.filter (·.survivesWarm t.log) := List.mem_filter.2 ⟨h, by simp [Trick.survivesWarm, hk]⟩
  exact ⟨_, List.mem_map_of_mem survives, rfl, hk⟩

/-- Settles O7. -/
theorem resetsKeepWhatTheTableKeeps : Obligations.ResetsKeepWhatTheTableKeeps := by
  unfold Obligations.ResetsKeepWhatTheTableKeeps
  refine ⟨fun s requested idle => ?cold, fun s c requested low high idle => ?warm⟩
  case cold =>
    have due : s.resetDue [5] = some 5 := by simp [State.resetDue, requested, idle]
    exact ⟨s.coldReset 5, by simp [exec, execColdReset, due], s.coldReset_after 5 s.pwr.slotId, rfl⟩
  case warm =>
    have due : s.resetDue [6, 7, 8] = some c := by
      simp [State.resetDue, requested, idle]
      omega
    refine ⟨s.warmReset c, by simp [exec, execWarmReset, due], rfl, rfl, rfl, rfl, rfl, s.dev.mem.stack_warm_tables,
      fun k hk committed => s.dev.trk.committed_warm hk committed, rfl, rfl, fun x => by rw [show (s.warmReset c).dev = s.dev.warm from rfl, Dev.ctx_warm], rfl, rfl,
      fun x _ => s.dev.leaf_warm_mem x, rfl, fun active => ?_, fun i => rfl, rfl, rfl, rfl⟩
    simp [State.warmReset, Lay.warm, active]

/-! ## Start-up (R531, R532, R542, R543) -/

theorem Mem.stack_wake (m : Mem) (x : Nat) : m.wake.stack x = { m.stack x with selfRefresh := false } :=
  SMap.get_foldr_put ({} : Stack) ({} : Stack) (fun k : Stack => { k with selfRefresh := false }) rfl x m.dies

theorem Mgt.bootCode_accepted {m : Mgt} {i : FwImage} (h : m.flash = some i) (hc : i.code = 0) (hs : m.floor ≤ i.security) : m.bootCode = 0 := by
  have above : ¬i.security < m.floor := by omega
  simp [Mgt.bootCode, h, hc, above]

theorem Mgt.bootCode_refused {m : Mgt} (h : ∀ i, m.flash = some i → i.code ≠ 0 ∨ i.security < m.floor) : m.bootCode ≠ 0 := by
  unfold Mgt.bootCode
  split
  case h_1 => decide
  case h_2 i hi =>
    have := h i hi
    split_ifs
    · assumption
    · decide
    · omega

theorem mem_fence (c : Chk) (k : Nat) : ∀ cores : List Nat, k ∈ (c.fence cores).fenced ↔ k ∈ c.fenced ∨ k ∈ cores := by
  have all (l : List Nat) : ∀ f : List Nat, k ∈ l.foldl (fun f k => insertAsc k f) f ↔ k ∈ f ∨ k ∈ l := by
    induction l with
    | nil => simp
    | cons j l ih =>
      intro f
      rw [List.foldl_cons, ih, mem_insertAsc, List.mem_cons]
      tauto
  exact fun cores => all cores c.fenced

/-- Settles O8. -/
theorem startUp : Obligations.StartUp := by
  unfold Obligations.StartUp
  refine ⟨fun s i rom flash code floor => ?runs, fun s rom refused => ?recovery, fun s failed self => ?done⟩
  case runs =>
    refine ⟨_, congrArg Host.Outcome.next ((if_neg (not_not_intro rom)).trans (if_pos (Mgt.bootCode_accepted flash code floor))), rfl, rfl, rfl,
      fun x => congrArg Stack.selfRefresh (s.dev.mem.stack_wake x), ?_, rfl, rfl, rfl, rfl⟩
    simp [flash]
  case recovery =>
    refine ⟨_, congrArg Host.Outcome.next ((if_neg (not_not_intro rom)).trans (if_neg (Mgt.bootCode_refused refused))), rfl, rfl, rfl,
      ?_, fun x hx => ?_, rfl, Mgt.bootCode_refused refused, rfl, rfl, rfl, rfl⟩
    · exact congrArg Stack.selfRefresh ((Dev.stack_updStack s.dev 0 0 _).trans (if_pos rfl))
    · exact (Dev.stack_updStack s.dev 0 x _).trans (if_neg hx)
  case done =>
    have fenced (c : Nat) := mem_fence s.dev.chk c failed
    cases last : failed.getLast? with
    | none =>
      refine ⟨_, congrArg Host.Outcome.next (if_neg (not_not_intro self)), ?_⟩
      rw [last]
      exact ⟨rfl, fenced, rfl, rfl, rfl, rfl, rfl, rfl⟩
    | some c =>
      refine ⟨_, congrArg Host.Outcome.next (if_neg (not_not_intro self)), ?_⟩
      rw [last]
      exact ⟨rfl, fenced, rfl, rfl, rfl, rfl, rfl, rfl⟩

/-! ## Quarantine (R538) -/

theorem Dev.core_zeroCore (d : Dev) (c k : Nat) : (d.zeroCore c).core k = if k = c then {} else d.core k := by
  simp only [Dev.core, Dev.zeroCore, SMap.get_eq_find, SMap.find_del]
  split <;> rfl

/-- Fencing a seat changes its state and the leaves of the device, and the fenced set of the layout block. -/
theorem State.fenceSeat_rest (s : State) (c : Nat) : ∃ seats leaves recent fenced, s.fenceSeat c =
    { s with dev := { s.dev with seats := seats, leaves := leaves, recent := recent }, lay := { s.lay with fencedSeats := fenced } } := by
  unfold State.fenceSeat
  split
  · split
    · exact ⟨_, _, _, _, rfl⟩
    · exact ⟨_, _, _, _, rfl⟩
  · exact ⟨_, _, _, _, rfl⟩

/-- A seat in service that owns the core's cluster becomes FENCED (R81). -/
theorem State.fenceSeat_fences {s : State} {c n : Nat} (owner : s.dev.clusterOwner (c / 64) = some n) (serves : (s.dev.seat n).state = .inService) :
    ((s.fenceSeat c).dev.seat n).state = .fenced ∧ (s.fenceSeat c).lay.fencedSeats = s.lay.fencedSeats ||| 2 ^ n := by
  have eq : s.fenceSeat c = State.setLeaf { s with
      dev := s.dev.updSeat n fun k => { k with state := .fenced }
      lay := { s.lay with fencedSeats := s.lay.fencedSeats ||| 2 ^ n } } .lay 4 := by
    simp [State.fenceSeat, owner, Seat.serves, serves]
  rw [eq]
  exact ⟨by simp [State.setLeaf, Dev.seat_updSeat], rfl⟩

/-- The quarantine in effect or pending, after the core was fenced. -/
def State.quarantineFrom (s : State) (c : Nat) : State :=
  if s.dev.coreBusy c then { s with dev := { s.dev with chk := { s.dev.chk with pending := some c } } } else s.quarantine c

theorem exec_clkQuarantine_taken {s : State} {v : Nat} (ready : s.mgtReady = true) (go : v / 2 ^ 31 % 2 = 1) (core : v % 2 ^ 17 ≤ 81919)
    (free : s.dev.chk.pending = none) :
    exec (.clkQuarantine v) s = .next ((({ s with dev := { s.dev with chk := s.dev.chk.fence [v % 2 ^ 17] } } : State).fenceSeat (v % 2 ^ 17)).quarantineFrom
      (v % 2 ^ 17)) := by
  have answers : ¬((!s.mgtReady) = true ∨ v / 2 ^ 31 % 2 = 0) := not_or.2 ⟨by simp [ready], by omega⟩
  have ok : ¬(81919 < v % 2 ^ 17 ∨ s.dev.chk.pending.isSome = true) := by
    simp only [free, Option.isSome_none, Bool.false_eq_true, or_false]
    omega
  exact congrArg Host.Outcome.next ((if_neg answers).trans (if_neg ok))

/-- Settles O9. -/
theorem quarantine : Obligations.Quarantine := by
  unfold Obligations.Quarantine
  refine ⟨fun s v ready go core free => ?taken, fun s v ready go bad => ?bad, fun s c pending idle => ?apply, fun s c pending busy => ?waits⟩
  case taken =>
    generalize hc : v % 2 ^ 17 = c at core
    have run := exec_clkQuarantine_taken ready go (hc ▸ core) free
    rw [hc] at run
    set f : State := { s with dev := { s.dev with chk := s.dev.chk.fence [c] } }
    have fences {n : Nat} := State.fenceSeat_fences (s := f) (c := c) (n := n)
    obtain ⟨seats, leaves, recent, fenced, rest⟩ := f.fenceSeat_rest c
    have fencedSet (k : Nat) : k ∈ (s.dev.chk.fence [c]).fenced ↔ k ∈ s.dev.chk.fenced ∨ k = c := by simp [mem_fence]
    refine ⟨_, run, ?_⟩
    cases busy : s.dev.coreBusy c with
    | true =>
      have waits : (f.fenceSeat c).quarantineFrom c =
          { f.fenceSeat c with dev := { (f.fenceSeat c).dev with chk := { (f.fenceSeat c).dev.chk with pending := some c } } } := by
        rw [State.quarantineFrom, if_pos]
        rw [rest]; exact busy
      rw [waits]
      refine ⟨rfl, ?_, ?_, by simp, ?_, ?_, ?_, fun n owner serves => fences owner serves⟩
      all_goals rw [rest]
      · exact fencedSet
      · exact fun k => (if_neg (by simp)).symm
    | false =>
      have acts : (f.fenceSeat c).quarantineFrom c = (f.fenceSeat c).quarantine c := by
        rw [State.quarantineFrom, if_neg]
        rw [rest]; exact Bool.not_eq_true _ ▸ busy
      rw [acts]
      refine ⟨?_, ?_, fun k => ?_, fun _ => ?_, ?_, ?_, ?_, fun n owner serves => fences owner serves⟩
      · rw [rest]; exact free
      · rw [rest]; exact fencedSet
      · rw [rest]; simp only [true_and]; exact Dev.core_zeroCore s.dev c k
      · intro r hr
        simpa using (List.mem_filter.1 hr).2
      all_goals rw [rest]; rfl
  case bad =>
    have answers : ¬((!s.mgtReady) = true ∨ v / 2 ^ 31 % 2 = 0) := not_or.2 ⟨by simp [ready], by omega⟩
    exact congrArg Host.Outcome.next ((if_neg answers).trans (if_pos (bad.imp id fun h => Option.isSome_iff_ne_none.2 h)))
  case apply =>
    have run : exec .quarantineApply s =
        .next (({ s with dev := { s.dev with chk := { s.dev.chk with pending := none } } } : State).quarantine c) := by
      simp [exec, execQuarantineApply, pending, idle]
    exact ⟨_, run, (Dev.core_zeroCore _ c c).trans (if_pos rfl), fun k hk => (Dev.core_zeroCore _ c k).trans (if_neg hk), rfl, rfl, rfl⟩
  case waits =>
    simp [exec, execQuarantineApply, pending, busy]

/-! ## Clocks and domains (R526, R529, R530) -/

theorem Dev.noSeat_of {d : Dev} (h : ∀ n, n < 64 → (d.seat n).state = .unused) : d.noSeat = true := by
  simpa [Dev.noSeat] using h

/-- From `d` to `e` memory alone changed, at the stacks that `p` picks, by `f`; no byte did. -/
structure Dev.StacksTo (p : Nat → Prop) [DecidablePred p] (f : Stack → Stack) (d e : Dev) : Prop where
  stack : ∀ x, e.mem.stack x = if p x then f (d.mem.stack x) else d.mem.stack x
  cells : e.mem.cells = d.mem.cells
  rest : e = { d with mem := e.mem }

theorem Dev.StacksTo.updStack (d : Dev) (x : Nat) (f : Stack → Stack) : Dev.StacksTo (· = x) f d (d.updStack x f) :=
  ⟨fun y => by rw [Dev.stack_updStack]; split <;> simp_all, rfl, rfl⟩

/-- What one step does at its stack, where the stack meets `P`, a fold does at the stacks of its list. -/
theorem Dev.StacksTo.foldl {step : Dev → Nat → Dev} {f : Stack → Stack} {P : Stack → Prop} (hf : ∀ k, P k → P (f k)) (twice : ∀ k, f (f k) = f k)
    (one : ∀ d x, P (d.mem.stack x) → Dev.StacksTo (· = x) f d (step d x)) :
    ∀ (l : List Nat) (d : Dev), (∀ x ∈ l, P (d.mem.stack x)) → Dev.StacksTo (· ∈ l) f d (l.foldl step d)
  | [], d, _ => ⟨fun x => by simp, rfl, rfl⟩
  | y :: l, d, h => by
    have first := one d y (h y (by simp))
    have later (x : Nat) (hx : x ∈ l) : P ((step d y).mem.stack x) := by
      rw [first.stack]
      split
      · exact hf _ (h x (List.mem_cons_of_mem y hx))
      · exact h x (List.mem_cons_of_mem y hx)
    have rest := StacksTo.foldl hf twice one l (step d y) later
    refine ⟨fun x => ?_, rest.cells.trans first.cells, ?_⟩
    · rw [List.foldl_cons, rest.stack, first.stack]
      by_cases hy : x = y <;> by_cases hl : x ∈ l <;> simp [hy, hl, twice]
    · rw [List.foldl_cons, rest.rest, first.rest]

/-- A stack that holds no request leaves self-refresh, and serves nothing. -/
theorem Dev.StacksTo.leaveSelfRefresh (d : Dev) (x : Nat) (h : (d.mem.stack x).held = []) :
    Dev.StacksTo (· = x) (fun k => { k with selfRefresh := false }) d
      (if (d.mem.stack x).selfRefresh then (d.updStack x fun k => { k with selfRefresh := false }).release x else d) := by
  split
  case isTrue =>
    have nothing : ((d.updStack x fun k => { k with selfRefresh := false }).mem.stack x).held = [] := by rw [Dev.stack_updStack, if_pos rfl, h]
    rw [Dev.release, nothing]
    refine ⟨fun y => ?_, rfl, rfl⟩
    rw [List.foldl_nil, Dev.stack_updStack, Dev.stack_updStack, Dev.stack_updStack]
    by_cases hy : y = x <;> simp [hy, h]
  case isFalse off =>
    refine ⟨fun y => ?_, rfl, rfl⟩
    by_cases hy : y = x
    · have : (d.mem.stack x).selfRefresh = false := by simpa using off
      rw [if_pos hy, hy, ← this]
    · rw [if_neg hy]

theorem mem_groupStacks (g x : Nat) : x ∈ groupStacks g ↔ x / 3 = g := by
  simp only [groupStacks, List.mem_cons, List.not_mem_nil, or_false]
  omega

theorem Dev.settlePorts_qlk (d : Dev) : d.settlePorts = { d with qlk := d.settlePorts.qlk } := by
  unfold Dev.settlePorts
  exact foldl_keeps (P := fun e : Dev => e = { d with qlk := e.qlk }) (fun e p h => by rw [Dev.updPort, h]) _ d rfl

/-- Settles O10. -/
theorem clocksAndDomains : Obligations.ClocksAndDomains := by
  unfold Obligations.ClocksAndDomains
  refine ⟨fun s k none hk => ?stop, fun s k => rfl, fun s g none hg => ?enter, fun s g idle => ?leave, fun s c => rfl, fun s k rising => ?up,
    fun s k falling => ?down⟩
  case stop => exact congrArg Host.Outcome.next (if_pos ⟨Dev.noSeat_of none, hk⟩)
  case enter =>
    have set := Dev.StacksTo.foldl (f := fun k => { k with selfRefresh := true }) (P := fun _ => True) (fun _ h => h) (fun _ => rfl)
      (fun d x _ => .updStack d x _) (groupStacks g) s.dev fun _ _ => trivial
    refine ⟨_, congrArg Host.Outcome.next (if_pos ⟨Dev.noSeat_of none, hg⟩), fun x => ?_, set.cells, congrArg (fun d => { s with dev := d }) set.rest⟩
    exact (set.stack x).trans (by simp only [mem_groupStacks])
  case leave =>
    have set := Dev.StacksTo.foldl (f := fun k => { k with selfRefresh := false }) (P := fun k => k.held = []) (fun _ h => h) (fun _ => rfl)
      Dev.StacksTo.leaveSelfRefresh (groupStacks g) s.dev fun x hx => idle x ((mem_groupStacks g x).1 hx)
    refine ⟨_, rfl, fun x => ?_, set.cells, congrArg (fun d => { s with dev := d }) set.rest⟩
    exact (set.stack x).trans (by simp only [mem_groupStacks])
  case up =>
    have listed : s.dev.domainRising.contains k = true := by simpa using rising
    refine ⟨_, congrArg Host.Outcome.next (if_pos listed), ?_⟩
    dsimp only
    rw [Dev.settlePorts_qlk]
    refine ⟨rfl, rfl, fun c => ?_, rfl⟩
    refine (SMap.get_filter (fun c => halfDomain (c / 64) != k) s.dev.cores).trans ?_
    by_cases h : halfDomain (c / 64) = k <;> simp [h, Dev.core]
  case down =>
    have listed : s.dev.domainFalling.contains k = true := by simpa using falling
    exact congrArg Host.Outcome.next (if_pos listed)

/-! ## Reset (R531) -/

/-- Settles O59: the state of reset is plain data, and each clause reads it. -/
theorem resetState : Obligations.ResetState := by
  unfold Obligations.ResetState
  rintro s rfl
  have register : State.reset.pfValue 0x1F00008 = 2600 ∧ State.reset.pfValue 0x1F0000C = 0 ∧ State.reset.pfValue 0x20004 % 8 = 0 ∧
      State.reset.pfValue 0x1C00004 = 0 := by decide
  refine ⟨rfl, rfl, rfl, fun _ => rfl, fun _ => rfl, ?_, ?_, fun _ _ => rfl, ?_, fun _ _ => rfl, fun _ => rfl, rfl, rfl, rfl, rfl, rfl, rfl, rfl,
    rfl, rfl, rfl, rfl, rfl, rfl, register.1, register.2.1, register.2.2.1, register.2.2.2, ?_⟩
  · rintro i k rfl; exact ⟨rfl, rfl, rfl, rfl, rfl, rfl, rfl, rfl, rfl, rfl, rfl, rfl⟩
  · rintro n k rfl; exact ⟨rfl, rfl, rfl, rfl⟩
  · rintro p k rfl; exact ⟨rfl, rfl, rfl, rfl, rfl⟩
  · exact (inv_iff _).2 ⟨.idle (by decide) (by decide) (by decide), by decide, by decide, by decide, by decide⟩

end Sys2Proof.Machine
end

section
/-! SUPPORT. A request to a stack that does not exist (R31, R385). -/

namespace Sys2Proof.Machine

theorem exec_memoryRequest_noStack {s : State} {r : MemReq} (h : 12 ≤ r.addr / 2 ^ 36 % 16) (u : Upset) (parity : Bool) :
    exec (.memoryRequest r u parity) s = .next { s with dev := s.dev.noStack r } := congrArg Host.Outcome.next (if_pos h)

/-- A failed segment check sets the seat's leaves and its fault record, and touches no other seat. -/
theorem Dev.segFault_spec (d : Dev) (x a kind seg : Nat) :
    ((d.segFault x a kind seg).leaf (.seat (x / 16))).testBit 0 = true ∧ ((d.segFault x a kind seg).leaf (.vfSeg (x / 16))).testBit 0 = true ∧
      (∀ k, (d.segFault x a kind seg).seat k =
        if k = x / 16 then { d.seat k with faultCtx := x % 16, faultKind := kind, faultSeg := seg, faultAddr := a } else d.seat k) ∧
      (d.segFault x a kind seg).mem = d.mem ∧ (d.segFault x a kind seg).out = d.out := by
  have other : (LeafReg.seat (x / 16)).key ≠ (LeafReg.vfSeg (x / 16)).key := by
    simp only [LeafReg.key]
    omega
  unfold Dev.segFault
  refine ⟨?_, Dev.testBit_leaf_setLeaf _ _ _, fun k => ?_, rfl, rfl⟩
  · rw [Dev.leaf_setLeaf_other _ 0 other]
    exact Dev.testBit_leaf_setLeaf _ _ _
  · by_cases hk : k = x / 16 <;> simp [Dev.seat_updSeat, hk]

/-- Settles O3: every command's meaning is one next state, and the seat of a tag is that of its context. -/
theorem everyCommandAnswers : Obligations.EveryCommandAnswers := by
  unfold Obligations.EveryCommandAnswers
  refine ⟨fun c s => (exec_answers c s).imp fun t h => h.1, fun s r u parity tag n far source seat => ?tagged, fun s r u parity far source => ?internal⟩
  case tagged =>
    have of : tag % 1024 / 16 = n := by omega
    have ctx : tag % 1024 % 16 = tag % 16 := by omega
    have fault := s.dev.segFault_spec (tag % 1024) r.addr 1 0
    rw [of, ctx] at fault
    obtain ⟨leaf, vf, seats, mem, out⟩ := fault
    have record : s.dev.noStack r = s.dev.segFault (tag % 1024) r.addr 1 0 := by rw [Dev.noStack, source]
    refine ⟨_, exec_memoryRequest_noStack far u parity, ?_⟩
    rw [record]
    exact ⟨leaf, vf, (seats n).trans (if_pos rfl), mem, out, fun k hk => (seats k).trans (if_neg hk)⟩
  case internal =>
    rw [exec_memoryRequest_noStack far, Dev.noStack, source]

end Sys2Proof.Machine
end

section
/-! SUPPORT. The MSI-X vectors, firmware update, PLDM, SPDM and the queries over the link: the branch that each command takes. -/

namespace Sys2Proof.Machine

/-! ## Writing a record twice -/

theorem SMap.ins_ins {α : Type} {k : Nat} {v w : α} : ∀ m : SMap α, (m.ins k v).ins k w = m.ins k w
  | [] => by simp [SMap.ins]
  | (j, u) :: t => by
    by_cases lt : k < j
    · simp [SMap.ins, lt]
    · by_cases eq : k = j
      · simp [SMap.ins, eq]
      · simp [SMap.ins, lt, eq, ins_ins t]

theorem SMap.del_ins {α : Type} {k : Nat} {v : α} : ∀ m : SMap α, (m.ins k v).del k = m.del k
  | [] => by simp [SMap.ins, SMap.del]
  | (j, u) :: t => by
    by_cases lt : k < j
    · simp [SMap.ins, SMap.del, lt]
    · by_cases eq : k = j
      · simp [SMap.ins, SMap.del, eq]
      · simp [SMap.ins, SMap.del, lt, eq, Ne.symm eq, del_ins t]

/-- The second write counts, where the first left the record listed. -/
theorem SMap.put_put {α : Type} [DecidableEq α] {d v w : α} {k : Nat} (m : SMap α) (h : v ≠ d) :
    SMap.put d (SMap.put d m k v) k w = SMap.put d m k w := by
  simp only [SMap.put, if_neg h, SMap.ins_ins, SMap.del_ins]

theorem Dev.updFn_updFn (d : Dev) (i : Nat) (f g : FnCfg → FnCfg) (h : f (d.fn i) ≠ {}) :
    (d.updFn i f).updFn i g = d.updFn i fun k => g (f k) := by
  have same : (d.updFn i f).fn i = f (d.fn i) := (Dev.fn_updFn d i i f).trans (if_pos rfl)
  simp only [Dev.updFn] at same ⊢
  simp only [same, SMap.put_put _ h]

/-! ## The vectors (R564, R565, R569) -/

/-- The vector of function `i` after a REARM. -/
def Dev.rearm (d : Dev) (i : Nat) : Dev := (d.updFn i fun f => { f with armed := true }).fireMsix i

theorem Dev.fn_rearming (d : Dev) (i : Nat) : (d.updFn i fun f => { f with armed := true }).fn i = { d.fn i with armed := true } :=
  (Dev.fn_updFn d i i _).trans (if_pos rfl)

/-- A vector with a request is listed: the summary of an unlisted one is 0. -/
theorem FnCfg.ne_default {f : FnCfg} (h : bitClear f.summary f.mask ≠ 0) : f ≠ {} := by
  rintro rfl
  exact h (by decide)

theorem Dev.disarmed (d : Dev) (i : Nat) (h : bitClear (d.fn i).summary (d.fn i).mask ≠ 0) :
    d.rearm i = (d.updFn i fun f => { f with armed := false }).sendMsix i := by
  have listed : ({ d.fn i with armed := true } : FnCfg) ≠ {} := FnCfg.ne_default h
  have fires : (({ d.fn i with armed := true } : FnCfg).armed && bitClear ({ d.fn i with armed := true } : FnCfg).summary
      ({ d.fn i with armed := true } : FnCfg).mask != 0) = true := by simpa using h
  rw [Dev.rearm, Dev.fireMsix, Dev.fn_rearming, if_pos fires, Dev.updFn_updFn _ _ _ _ listed]

theorem Dev.rearm_sends {d : Dev} {i : Nat} (h : bitClear (d.fn i).summary (d.fn i).mask ≠ 0) (o : (d.fn i).open_ = true) :
    d.rearm i = (d.updFn i fun f => { f with armed := false }).emit (.msix i (d.fn i).addr (d.fn i).data) := by
  have same : (d.updFn i fun f => { f with armed := false }).fn i = { d.fn i with armed := false } := (Dev.fn_updFn d i i _).trans (if_pos rfl)
  have isOpen : ({ d.fn i with armed := false } : FnCfg).open_ = true := o
  rw [Dev.disarmed d i h, Dev.sendMsix, same, if_pos isOpen]

theorem Dev.rearm_pends {d : Dev} {i : Nat} (h : bitClear (d.fn i).summary (d.fn i).mask ≠ 0) (o : (d.fn i).open_ = false) :
    d.rearm i = d.updFn i fun f => { f with armed := false, pending := true } := by
  have same : (d.updFn i fun f => { f with armed := false }).fn i = { d.fn i with armed := false } := (Dev.fn_updFn d i i _).trans (if_pos rfl)
  have shut : ¬({ d.fn i with armed := false } : FnCfg).open_ = true := by simpa [FnCfg.open_] using o
  have listed : ({ d.fn i with armed := false } : FnCfg) ≠ {} := fun e => by simpa using congrArg FnCfg.armed e
  rw [Dev.disarmed d i h, Dev.sendMsix, same, if_neg shut, Dev.updFn_updFn _ _ _ _ listed]

theorem Dev.rearm_arms {d : Dev} {i : Nat} (h : bitClear (d.fn i).summary (d.fn i).mask = 0) :
    d.rearm i = d.updFn i fun f => { f with armed := true } := by
  rw [Dev.rearm, Dev.fireMsix, Dev.fn_rearming, if_neg (by simp [h])]

theorem exec_atnRearm {s : State} (h : s.mgtReady = true) : exec .atnRearm s = .next { s with dev := s.dev.rearm 0 } :=
  congrArg Host.Outcome.next (if_pos h)

theorem exec_seatAtnRearm {s : State} {n : Nat} (h : s.ready = true) (o : s.dev.vfOpen n = true) :
    exec (.seatAtnRearm n) s = .next { s with dev := s.dev.rearm (n + 1) } :=
  congrArg Host.Outcome.next (if_pos (by simp [h, o]))

/-- A write of the MSI-X enables of function `i`, and the flush that follows. -/
def Dev.enableMsix (d : Dev) (i : Nat) (fnMask unmask : Bool) : Dev :=
  (d.updFn i fun f => { f with msixEnable := true, fnMask := fnMask, masked := f.masked && !unmask }).flushMsix i

theorem exec_msixEnable {s : State} (h : s.mgtReady = true) (fnMask unmask : Bool) :
    exec (.msixEnable .pf fnMask unmask) s = .next { s with dev := s.dev.enableMsix 0 fnMask unmask } :=
  congrArg Host.Outcome.next (if_pos (by simp [h]))

theorem Dev.fn_enabling (d : Dev) (i : Nat) (fnMask unmask : Bool) :
    (d.updFn i fun f => { f with msixEnable := true, fnMask := fnMask, masked := f.masked && !unmask }).fn i =
      { d.fn i with msixEnable := true, fnMask := fnMask, masked := (d.fn i).masked && !unmask } :=
  (Dev.fn_updFn d i i _).trans (if_pos rfl)

theorem Dev.enableMsix_sends {d : Dev} {i : Nat} (h : (d.fn i).pending = true) :
    d.enableMsix i false true = (d.updFn i fun f => { f with msixEnable := true, fnMask := false, masked := false, pending := false }).emit
      (.msix i (d.fn i).addr (d.fn i).data) := by
  have listed : ({ d.fn i with msixEnable := true, fnMask := false, masked := (d.fn i).masked && !true } : FnCfg) ≠ {} :=
    fun e => by simpa using congrArg FnCfg.msixEnable e
  rw [Dev.enableMsix, Dev.flushMsix, Dev.fn_enabling, if_pos (by simp [h, FnCfg.open_]), Dev.updFn_updFn _ _ _ _ listed]
  simp

theorem Dev.enableMsix_idle {d : Dev} {i : Nat} (h : (d.fn i).pending = false) (fnMask unmask : Bool) :
    d.enableMsix i fnMask unmask = d.updFn i fun f => { f with msixEnable := true, fnMask := fnMask, masked := f.masked && !unmask } := by
  rw [Dev.enableMsix, Dev.flushMsix, Dev.fn_enabling, if_neg (by simp [h])]

/-! ## VF Enable (R415, R431) -/

@[simp] theorem Dev.fn_emit (d : Dev) (o : Out) (j : Nat) : (d.emit o).fn j = d.fn j := rfl

/-- A function's message changes its own vector and the outputs; its bus master bit and the other functions stay. -/
theorem Dev.fireMsix_rest (d : Dev) (i : Nat) :
    (∀ j, ((d.fireMsix i).fn j).busMaster = (d.fn j).busMaster) ∧ (∀ j, j ≠ i → (d.fireMsix i).fn j = d.fn j) ∧
      (d.fireMsix i).glb.vfEnable = d.glb.vfEnable ∧ d.fireMsix i = { d with glb := (d.fireMsix i).glb, out := (d.fireMsix i).out } := by
  unfold Dev.fireMsix Dev.sendMsix
  dsimp only
  split_ifs
  · refine ⟨fun j => ?_, fun j hj => ?_, rfl, rfl⟩
    · by_cases h : j = i <;> simp [Dev.fn_updFn, h]
    · simp [Dev.fn_updFn, hj]
  · refine ⟨fun j => ?_, fun j hj => ?_, rfl, rfl⟩
    · by_cases h : j = i <;> simp [Dev.fn_updFn, h]
    · simp [Dev.fn_updFn, hj]
  · exact ⟨fun _ => rfl, fun _ _ => rfl, rfl, rfl⟩

/-- VF Enable gives VF `n` its bus master bit. -/
def Dev.enableVf (busMaster : Nat) (d : Dev) (n : Nat) : Dev :=
  (d.updFn (n + 1) fun f => { f with busMaster := busMaster.testBit n }).fireMsix (n + 1)

theorem Dev.enableVf_spec (busMaster : Nat) (d : Dev) (n : Nat) :
    (∀ j, ((d.enableVf busMaster n).fn (j + 1)).busMaster = if j = n then busMaster.testBit n else (d.fn (j + 1)).busMaster) ∧
      (d.enableVf busMaster n).fn 0 = d.fn 0 ∧ (d.enableVf busMaster n).glb.vfEnable = d.glb.vfEnable ∧
      d.enableVf busMaster n = { d with glb := (d.enableVf busMaster n).glb, out := (d.enableVf busMaster n).out } := by
  obtain ⟨master, others, enable, rest⟩ := Dev.fireMsix_rest (d.updFn (n + 1) fun f => { f with busMaster := busMaster.testBit n }) (n + 1)
  refine ⟨fun j => ?_, ?_, enable, rest⟩
  · refine (master (j + 1)).trans ?_
    by_cases h : j = n <;> simp [Dev.fn_updFn, h]
  · refine (others 0 (by omega)).trans ?_
    simp [Dev.fn_updFn]

theorem Dev.foldl_enableVf (busMaster : Nat) : ∀ (l : List Nat) (d : Dev),
    (∀ j, ((l.foldl (Dev.enableVf busMaster) d).fn (j + 1)).busMaster = if j ∈ l then busMaster.testBit j else (d.fn (j + 1)).busMaster) ∧
      (l.foldl (Dev.enableVf busMaster) d).fn 0 = d.fn 0 ∧ (l.foldl (Dev.enableVf busMaster) d).glb.vfEnable = d.glb.vfEnable ∧
      l.foldl (Dev.enableVf busMaster) d =
        { d with glb := (l.foldl (Dev.enableVf busMaster) d).glb, out := (l.foldl (Dev.enableVf busMaster) d).out }
  | [], d => ⟨fun j => by simp, rfl, rfl, rfl⟩
  | n :: l, d => by
    obtain ⟨master, pf, enable, rest⟩ := Dev.enableVf_spec busMaster d n
    obtain ⟨masters, pfs, enables, rests⟩ := foldl_enableVf busMaster l (d.enableVf busMaster n)
    refine ⟨fun j => ?_, pfs.trans pf, enables.trans enable, ?_⟩
    · rw [List.foldl_cons, masters, master]
      by_cases hn : j = n <;> by_cases hl : j ∈ l <;> simp [hn, hl]
    · rw [List.foldl_cons, rests, rest]

theorem exec_vfEnable {s : State} {busMaster : Nat} (ready : s.ready = true) (up : s.dev.glb.dlUp = true) :
    exec (.vfEnable busMaster) s = .next { s with
      dev := (List.range 64).foldl (Dev.enableVf busMaster) { s.dev with glb := { s.dev.glb with vfEnable := true } } } := by
  refine congrArg Host.Outcome.next ((if_pos ?_).trans rfl)
  rw [ready, up]
  rfl

/-- Settles O13. -/
theorem vectorsFireAndPend : Obligations.VectorsFireAndPend := by
  unfold Obligations.VectorsFireAndPend
  refine ⟨fun s ready asks o => ?_, fun s ready asks o => ?_, fun s ready none => ?_, fun s n ready vf asks o => ?_, fun s n ready vf none => ?_,
    fun s ready pending => ?_, fun s fnMask unmask ready idle => ?_, fun s busMaster ready up => ?vf⟩
  · rw [exec_atnRearm ready, Dev.rearm_sends asks o]
  · rw [exec_atnRearm ready, Dev.rearm_pends asks o]
  · rw [exec_atnRearm ready, Dev.rearm_arms none]
  · rw [exec_seatAtnRearm ready vf, Dev.rearm_sends asks o]
  · rw [exec_seatAtnRearm ready vf, Dev.rearm_arms none]
  · rw [exec_msixEnable ready, Dev.enableMsix_sends pending]
  · rw [exec_msixEnable ready, Dev.enableMsix_idle idle]
  case vf =>
    have run := exec_vfEnable (busMaster := busMaster) ready up
    have spec := Dev.foldl_enableVf busMaster (List.range 64) { s.dev with glb := { s.dev.glb with vfEnable := true } }
    generalize (List.range 64).foldl (Dev.enableVf busMaster) { s.dev with glb := { s.dev.glb with vfEnable := true } } = e at run spec
    obtain ⟨masters, pf, enable, rest⟩ := spec
    exact ⟨_, run, enable, fun n hn => (masters n).trans (if_pos (List.mem_range.2 hn)), pf, congrArg (fun d => { s with dev := d }) rest⟩

end Sys2Proof.Machine
end

section
/-! SUPPORT. Firmware update, PLDM, SPDM and the queries over the link (16, 12): the branch that each command takes. -/

namespace Sys2Proof.Machine

/-! ## Firmware update (R544, R545) -/

theorem Lay.shadowFree_of {l : Lay} (h : l.shadow = .empty ∨ l.shadow = .refused ∨ l.shadow = .retired) : l.shadowFree = true := by
  rcases h with h | h | h <;> simp [Lay.shadowFree, h]

theorem State.stage_free {s : State} (pldm : Bool) (h : s.lay.shadowFree = true) :
    s.stage pldm = { s with
      lay := { s.lay with shadow := .empty, image := [], staged := none },
      mgt := { s.mgt with pldm := pldm, written := 0, state := .staging, error := 0, staged := none, stagedLen := 0 } } :=
  if_pos h

theorem State.stage_used {s : State} (pldm : Bool) (h : s.lay.shadowFree = false) :
    s.stage pldm = ({ s with mgt := { s.mgt with pldm := pldm, written := 0, state := .failed, error := 0x0D, staged := none } } : State).setLeaf .mgt 1 :=
  if_neg (by simpa [Lay.shadowFree] using h)

theorem exec_fwStage {s : State} (ready : s.mgtReady = true) :
    exec .fwStage s = .next (if s.mgt.state.stageable then s.stage false else s.setLeaf .mgt 5) :=
  congrArg Host.Outcome.next (State.if_not_mgtReady ready _ _)

theorem exec_fwClear {s : State} (ready : s.mgtReady = true) :
    exec .fwClear s = .next (if s.mgt.state = .failed then { s with mgt := { s.mgt with state := .idle, error := 0 } } else s.setLeaf .mgt 5) :=
  congrArg Host.Outcome.next (State.if_not_mgtReady ready _ _)

/-- An update of the driver sends nothing to a PLDM session. -/
theorem State.fdSends_driver {s : State} (h : s.mgt.pldm = false) (k : Nat) (ok : Bool) : s.fdSends k ok = s := if_neg (by simp [h])

theorem exec_fwStageCopyDone_waits {s : State} {bytes : List Byte}
    (blocked : s.dev.rangeBlocked (layoutBuffer (1 - s.lay.activeBuffer)) bytes.length = true) : exec (.fwStageCopyDone bytes) s = .next s :=
  congrArg Host.Outcome.next (if_pos (.inr (by simp [State.shadowOpen, blocked])))

theorem exec_fwStageCopyDone_taken {s : State} {bytes : List Byte} (staging : s.mgt.state = .staging) (driver : s.mgt.pldm = false)
    (free : s.dev.rangeBlocked (layoutBuffer (1 - s.lay.activeBuffer)) bytes.length = false) {u : State}
    (hu : u = { s with dev := s.dev.writeInternal (layoutBuffer (1 - s.lay.activeBuffer)) (bytes.take (16 * 2 ^ 20)) }) :
    exec (.fwStageCopyDone bytes) s = .next
      (if field bytes 0x10 8 = bytes.length ∧ bytes.length = s.mgt.srcLen then
        { u with mgt := { s.mgt with state := .verifying, staged := some (FwImage.ofBytes bytes), stagedLen := bytes.length } }
      else ({ u with mgt := { s.mgt with state := .failed, error := 1, staged := none } } : State).setLeaf .mgt 1) := by
  subst hu
  have taken : ¬(s.mgt.state ≠ .staging ∨ s.shadowOpen bytes.length = false) := by simp [staging, State.shadowOpen, free]
  refine congrArg Host.Outcome.next ((if_neg taken).trans ?_)
  have ours : (field bytes 0x10 8 = bytes.length ∧ (s.mgt.pldm = true ∨ bytes.length = s.mgt.srcLen)) ↔
      field bytes 0x10 8 = bytes.length ∧ bytes.length = s.mgt.srcLen := by simp [driver]
  by_cases whole : field bytes 0x10 8 = bytes.length ∧ bytes.length = s.mgt.srcLen
  · rw [if_pos whole]
    exact (if_pos (ours.2 whole)).trans (State.fdSends_driver (by exact driver) 16 true)
  · rw [if_neg whole]
    exact (if_neg (mt ours.1 whole)).trans (State.fdSends_driver (by exact driver) 16 false)

theorem exec_fwVerifyDone_driver {s : State} {i : FwImage} (state : s.mgt.state = .verifying) (staged : s.mgt.staged = some i)
    (driver : s.mgt.pldm = false) :
    exec .fwVerifyDone s = .next
      (if i.code = 0 ∧ s.mgt.floor ≤ i.security then { s with mgt := { s.mgt with state := .writing, flash := none } }
      else ({ s with mgt := { s.mgt with state := .failed, error := if i.code = 0 then 0x0A else i.code, staged := none } }
        : State).setLeaf .mgt 1) := by
  have run : exec .fwVerifyDone s = .next (if i.verdict s.mgt.floor = 0 then
      ({ s with mgt := { s.mgt with state := .writing, flash := none } } : State).fdSends 17 true
      else (s.fwFails (i.verdict s.mgt.floor)).fdSends 17 false) := by
    change execFwVerifyDone s = _
    rw [execFwVerifyDone, state, staged]
  rw [run, State.fdSends_driver (by exact driver), State.fdSends_driver (by exact driver)]
  by_cases code : i.code = 0
  · by_cases floor : i.security < s.mgt.floor
    · simp [FwImage.verdict, code, floor, State.fwFails, Nat.not_le.2 floor]
    · simp [FwImage.verdict, code, floor, Nat.not_lt.1 floor]
  · simp [FwImage.verdict, code, State.fwFails]

theorem exec_fwFlashWriteDone_driver {s : State} {i : FwImage} (state : s.mgt.state = .writing) (staged : s.mgt.staged = some i)
    (driver : s.mgt.pldm = false) (running : s.pwr.boot ≠ .recovery) :
    exec (.fwFlashWriteDone true) s =
        .next (({ s with mgt := { s.mgt with state := .pending, error := 0, flash := some i, written := s.mgt.stagedLen } } : State).setLeaf .mgt 0) ∧
      exec (.fwFlashWriteDone false) s =
        .next ((({ s with mgt := { s.mgt with state := .failed, error := 0x0E, flash := none, staged := none } } : State).setLeaf .mgt 1).setLeaf .mgt 2) := by
  constructor
  · change execFwFlashWriteDone true s = _
    simp only [execFwFlashWriteDone, state, staged, if_true, if_neg running]
    rw [State.fdSends_driver (by exact driver)]
  · change execFwFlashWriteDone false s = _
    simp only [execFwFlashWriteDone, state, staged, Bool.false_eq_true, if_false]
    rw [State.fdSends_driver (by exact driver)]
    rfl

/-- Settles O14. -/
theorem firmwareUpdate : Obligations.FirmwareUpdate := by
  unfold Obligations.FirmwareUpdate
  refine ⟨fun s ready stage free => ?_, fun s ready stage ne nr nt => ?_, fun s ready failed => ?_, fun s ready => ⟨fun stage => ?_, fun failed => ?_⟩,
    fun s u bytes staging driver => ⟨exec_fwStageCopyDone_waits, fun free hu => exec_fwStageCopyDone_taken staging driver free hu⟩,
    fun s i => exec_fwVerifyDone_driver, fun s i => exec_fwFlashWriteDone_driver⟩
  · rw [exec_fwStage ready, if_pos stage, State.stage_free false (Lay.shadowFree_of free)]
  · have used : s.lay.shadowFree = false := by simp [Lay.shadowFree, ne, nr, nt]
    rw [exec_fwStage ready, if_pos stage, State.stage_used false used]
  · rw [exec_fwClear ready, if_pos failed]
  · rw [exec_fwStage ready, if_neg (by simp [stage])]
  · rw [exec_fwClear ready, if_neg failed]

/-! ## PLDM (R546) -/

/-- Settles O15. -/
theorem pldmCommands : Obligations.PldmCommands := by
  unfold Obligations.PldmCommands
  refine ⟨fun s ready stage => ?request, fun s ready stage => ?busy, fun s ready session => ?table, fun s ready session stage free => ?update,
    fun s ready session pending => ?activate, fun s ready => ⟨?status, ?monitor⟩, fun s ready session pldm open_ => ?cancel⟩
  all_goals refine congrArg Host.Outcome.next ((State.if_not_mgtReady ready _ _).trans ?_)
  case request => exact if_neg (by simp [FwState.underWay, stage])
  case busy => exact if_pos (by simp [FwState.underWay, stage])
  case table => exact (if_neg (by simp [session])).trans (if_neg (by simp))
  case update =>
    refine (if_neg (by simp [session])).trans ((if_neg (by simp [FwState.underWay, stage])).trans ((if_neg (by simp)).trans ?_))
    rw [State.stage_free true free]
    rfl
  case activate => exact if_neg (by simp [session, pending])
  case status => rfl
  case monitor => rfl
  case cancel =>
    refine (if_neg (by simp [session])).trans ?_
    have updating : (s.mgt.pldm && (s.mgt.state == .staging || s.mgt.state == .verifying)) = true := by
      rcases open_ with h | h <;> simp [pldm, h]
    simp only [updating, if_true]
    rfl

/-! ## SPDM (R547 to R552) -/

theorem State.spdmOpen_mctp {s : State} (ready : s.mgtReady = true) : s.spdmOpen .mctp = true := by simp [State.spdmOpen, ready]

theorem State.attest_mctp {s : State} (ready : s.mgtReady = true) (negotiated : s.mgt.mctp.algorithms = true) (f : State → State) :
    s.attest .mctp f = f s :=
  (if_neg (by simp [State.spdmOpen_mctp ready])).trans (if_neg (by simp [Mgt.spdm, negotiated]))

theorem State.measurement_seat (s : State) {n : Nat} (h : n < 64) : s.measurement (16 + n) =
    s.dev.layout.bind fun l => if (s.dev.seat n).state = .unused then none else some (sha512 (s.seatMeasured l n)) := by
  have seat : 16 + n - 16 = n := by omega
  unfold State.measurement
  rw [if_neg (by omega), if_neg (by omega), if_neg (by omega), if_neg (by omega), if_pos (by omega), seat]
  cases s.dev.layout <;> rfl

/-- The connection is set up request by request. -/
theorem spdm_connection {s : State} (ready : s.mgtReady = true) :
    exec (.getVersion .mctp) s = .next (({ s with mgt := { s.mgt with mctp := { version := true } } } : State).emit
      (.response (Config.answer 30 ++ []))) ∧
    (s.mgt.mctp.version = true → exec (.getCapabilities .mctp) s =
      .next (({ s with mgt := { s.mgt with mctp := { s.mgt.mctp with capabilities := true } } } : State).emit (.response (Config.answer 31 ++ [])))) ∧
    (s.mgt.mctp.capabilities = true → exec (.negotiateAlgorithms .mctp) s =
      .next (({ s with mgt := { s.mgt with mctp := { s.mgt.mctp with algorithms := true } } } : State).emit (.response (Config.answer 32 ++ [])))) ∧
    (∀ code, exec (.spdmUnsupportedRequest .mctp code) s = .next (s.emit (.response (Config.answer 37 ++ leBytes 1 code)))) := by
  have isOpen : ¬(!s.spdmOpen .mctp) = true := by simp [State.spdmOpen_mctp ready]
  refine ⟨congrArg Host.Outcome.next (if_neg isOpen), fun version => ?_, fun capabilities => ?_, fun code => congrArg Host.Outcome.next (if_neg isOpen)⟩
  · exact congrArg Host.Outcome.next ((if_neg isOpen).trans (if_neg (by simp [Mgt.spdm, version])))
  · exact congrArg Host.Outcome.next ((if_neg isOpen).trans (if_neg (by simp [Mgt.spdm, capabilities])))

/-- Once algorithms are negotiated each request is served. -/
theorem spdm_served {s : State} (ready : s.mgtReady = true) (negotiated : s.mgt.mctp.algorithms = true) :
    exec (.getDigests .mctp) s = .next (s.emit (.response (Config.answer 33 ++ Config.sha384 s.mgt.chain))) ∧
    (∀ offset length, exec (.getCertificate .mctp offset length) s = .next (s.emit (.response (Config.answer 34 ++
      (s.mgt.chain.drop offset).take length)))) ∧
    (∀ nonce, exec (.challenge .mctp nonce) s = .next (s.signedAnswer .mctp 35 nonce (Config.sha384 s.mgt.chain))) ∧
    (∀ nonce i v, i ≠ 0 → i ≠ 255 → s.measurement i = some v →
      exec (.getMeasurements .mctp nonce i) s = .next (s.signedAnswer .mctp 36 nonce (measurementBlock i v))) := by
  refine ⟨?_, fun offset length => ?_, fun nonce => ?_, fun nonce i v h0 h255 present => ?_⟩
  · exact congrArg Host.Outcome.next (State.attest_mctp ready negotiated _)
  · exact congrArg Host.Outcome.next (State.attest_mctp ready negotiated _)
  · exact congrArg Host.Outcome.next (State.attest_mctp ready negotiated _)
  · refine congrArg Host.Outcome.next ((State.attest_mctp ready negotiated _).trans ?_)
    rw [if_neg h0, if_neg h255, present]

/-- The blocks of R549 and R550. -/
theorem spdm_measurements (s : State) :
    s.measurement 2 = some s.mgt.running.digest ∧
    (s.dev.layout = none → s.measurement 3 = some (List.replicate 64 0)) ∧
    (∀ l, s.dev.layout = some l → s.measurement 3 = some l.digest) ∧
    (∀ k, s.tst.pack = some k → s.tst.state = .ready ∨ s.tst.state = .running ∨ s.tst.state = .done → s.measurement 4 = some k.digest) ∧
    (s.tst.state ≠ .ready → s.tst.state ≠ .running → s.tst.state ≠ .done → s.measurement 4 = some (List.replicate 64 0)) ∧
    (∀ n, n < 64 → (s.dev.seat n).state = .unused → s.measurement (16 + n) = none) ∧
    (∀ n l, n < 64 → s.dev.layout = some l → (s.dev.seat n).state ≠ .unused → s.measurement (16 + n) = some (sha512 (s.seatMeasured l n))) := by
  have three : s.measurement 3 = some s.layoutDigest := rfl
  have four : s.measurement 4 = some s.tst.digest := rfl
  refine ⟨rfl, fun held => ?_, fun l active => ?_, fun k pack state => ?_, fun ready running done => ?_, fun n hn unused => ?_, fun n l hn active used => ?_⟩
  · rw [three, State.layoutDigest, held]; rfl
  · rw [three, State.layoutDigest, active]; rfl
  · rw [four, Tst.digest, pack]
    rcases state with h | h | h <;> rw [h]
  · rw [four, Tst.digest]
    split
    · exact absurd ‹_› ready
    · exact absurd ‹_› running
    · exact absurd ‹_› done
    · rfl
  · rw [s.measurement_seat hn]
    cases s.dev.layout <;> simp [unused]
  · rw [s.measurement_seat hn, active]
    exact if_neg used

/-- Settles O16. -/
theorem spdmResponder : Obligations.SpdmResponder := by
  unfold Obligations.SpdmResponder
  refine ⟨fun s ready => spdm_connection ready, fun s ready negotiated => ?served, fun s ready negotiated => ?early, fun s ready busy => ?mailbox,
    fun s ready idle => ?unasked, spdm_measurements⟩
  case served =>
    obtain ⟨digests, certificate, challenge, measurements⟩ := spdm_served ready negotiated
    exact ⟨digests, certificate, fun nonce => ⟨_, rfl, challenge nonce⟩, fun nonce i v h0 h255 present => ⟨_, rfl, measurements nonce i v h0 h255 present⟩⟩
  case early =>
    exact congrArg Host.Outcome.next ((if_neg (by simp [State.spdmOpen_mctp ready])).trans (if_pos (by simp [Mgt.spdm, negotiated])))
  case mailbox =>
    refine ⟨_, congrArg Host.Outcome.next (if_neg (by simp [State.spdmOpen, ready, busy])), rfl, ?_, rfl, rfl, rfl⟩
    simp [State.spdmAnswers, State.respond, State.setLeaf]
  case unasked => exact congrArg Host.Outcome.next (if_pos (by simp [State.spdmOpen, idle]))

/-! ## Queries over the link (R412, R439) -/

theorem State.cxlAnswer_up {s : State} (ready : s.ready = true) (up : s.dev.glb.dlUp = true) (k : Nat) :
    s.cxlAnswer k = s.emit (.response (Config.answer k)) := if_pos (by simp [ready, up])

/-- The 32 bytes of a log slot: those written, and zeros past them. -/
theorem slice_zero_32 (bs : List Byte) : slice bs 0 32 = bs.take 32 ++ List.replicate (32 - bs.length) 0 := by
  have len : 32 - (bs.take 32).length = 32 - bs.length := by
    rw [List.length_take]
    omega
  rw [slice, List.drop_zero, len]

/-- Settles O17. -/
theorem linkQueries : Obligations.LinkQueries := by
  unfold Obligations.LinkQueries
  refine ⟨fun s ready up => ?commands, fun s slot ready kept => ?pf, fun s n slot ring ready vf hring kept => ?vf⟩
  case commands =>
    exact ⟨congrArg Host.Outcome.next (State.cxlAnswer_up ready up 1), congrArg Host.Outcome.next (State.cxlAnswer_up ready up 2),
      congrArg Host.Outcome.next (State.cxlAnswer_up ready up 3), congrArg Host.Outcome.next (State.cxlAnswer_up ready up 4),
      congrArg Host.Outcome.next (State.cxlAnswer_up ready up 5)⟩
  case pf =>
    refine ⟨_, rfl, ?_⟩
    rw [← slice_zero_32]
    exact congrArg Host.Outcome.next (if_neg (by simp [ready, kept]))
  case vf =>
    refine ⟨_, rfl, ?_⟩
    rw [← slice_zero_32]
    refine congrArg Host.Outcome.next ((if_neg (by simp [ready, vf, hring, kept])).trans ?_)
    simp only [hring]
    rfl

end Sys2Proof.Machine
end

section
/-! SUPPORT. Sage packs, check-value units and integrity events (15). -/

namespace Sys2Proof.Machine

/-! ## Commands of the pack (R503, R504) -/

theorem State.if_not_ready {α : Type} {s : State} (ready : s.ready = true) (a b : α) : (if !s.ready then a else b) = b := if_neg (by simp [ready])

theorem exec_tstLoad {s : State} (ready : s.ready = true) : exec .tstLoad s = .next (match s.tst.state with
    | .empty | .loaded | .ready | .done | .refused => { s with tst := { s.tst with state := .loading, image := [], pack := none } }
    | _ => s.setLeaf .tst 5) := congrArg Host.Outcome.next (State.if_not_ready ready _ _)

theorem exec_tstValidate {s : State} (ready : s.ready = true) : exec .tstValidate s = .next
    (if s.tst.state = .loaded then { s with tst := { s.tst with state := .validating } } else s.setLeaf .tst 5) :=
  congrArg Host.Outcome.next (State.if_not_ready ready _ _)

theorem exec_tstStart {s : State} (ready : s.ready = true) : exec .tstStart s = .next (match s.tst.state with
    | .ready | .done => { s with tst := s.tst.newPass }
    | _ => s.setLeaf .tst 5) := congrArg Host.Outcome.next (State.if_not_ready ready _ _)

theorem exec_tstStop_running {s : State} (ready : s.ready = true) (running : s.tst.state = .running) (idle : s.tst.running = []) :
    exec .tstStop s = .next { s with tst := { s.tst with state := .ready } } := by
  refine congrArg Host.Outcome.next ((State.if_not_ready ready _ _).trans ((if_pos running).trans ?_))
  simp [State.abandon, idle]

theorem exec_tstStop_other {s : State} (ready : s.ready = true) (other : s.tst.state ≠ .running) :
    exec .tstStop s = .next (s.setLeaf .tst 5) :=
  congrArg Host.Outcome.next ((State.if_not_ready ready _ _).trans (if_neg other))

theorem exec_tstDiscard {s : State} (ready : s.ready = true) : exec .tstDiscard s = .next (match s.tst.state with
    | .loading | .running => s.setLeaf .tst 5
    | _ => { s with tst := { s.tst with state := .empty, image := [], pack := none } }) :=
  congrArg Host.Outcome.next (State.if_not_ready ready _ _)

theorem exec_tstCtrlWrite {s : State} (ready : s.ready = true) (v : Nat) : exec (.tstCtrlWrite v) s = .next { s with tst := { s.tst with
    repeat_ := v.testBit 0, budget := if v / 2 ^ 8 % 8 ≤ 5 then v / 2 ^ 8 % 8 else s.tst.budget } } := by
  have budget : bitsAt v 8 3 = v / 2 ^ 8 % 8 := by simp [bitsAt, Nat.shiftRight_eq_div_pow]
  change execTstCtrlWrite v s = _
  rw [execTstCtrlWrite, State.if_not_ready ready, budget]

/-- Each state's row of R503. -/
theorem tst_rows {s : State} (ready : s.ready = true) :
    (s.tst.state = .empty ∨ s.tst.state = .loaded ∨ s.tst.state = .ready ∨ s.tst.state = .done ∨ s.tst.state = .refused →
      exec .tstLoad s = .next { s with tst := { s.tst with state := .loading, image := [], pack := none } }) ∧
    (s.tst.state = .loading ∨ s.tst.state = .validating ∨ s.tst.state = .running → exec .tstLoad s = .next (s.setLeaf .tst 5)) ∧
    (s.tst.state = .ready ∨ s.tst.state = .done →
      exec .tstStart s = .next { s with tst := { s.tst with state := .running, covered := [], passed := [], running := [] } }) ∧
    (s.tst.state ≠ .ready → s.tst.state ≠ .done → exec .tstStart s = .next (s.setLeaf .tst 5)) ∧
    (s.tst.state ≠ .loading → s.tst.state ≠ .running →
      exec .tstDiscard s = .next { s with tst := { s.tst with state := .empty, image := [], pack := none } }) ∧
    (s.tst.state = .loading ∨ s.tst.state = .running → exec .tstDiscard s = .next (s.setLeaf .tst 5)) := by
  rw [exec_tstLoad ready, exec_tstStart ready, exec_tstDiscard ready]
  cases s.tst.state <;> simp [Tst.newPass]

theorem exec_packCopyDone_waits {s : State} {bytes : List Byte} (blocked : s.dev.rangeBlocked packBuffer bytes.length = true) :
    exec (.packCopyDone bytes) s = .next s := congrArg Host.Outcome.next (if_pos (.inr blocked))

theorem exec_packCopyDone_taken {s : State} {bytes : List Byte} (loading : s.tst.state = .loading)
    (free : s.dev.rangeBlocked packBuffer bytes.length = false) {u : State}
    (hu : u = { s with dev := s.dev.writeInternal packBuffer (bytes.take (16 * 2 ^ 20)) }) :
    exec (.packCopyDone bytes) s = .next (if bytes.length = s.tst.srcLen ∧ field bytes 0x10 8 = bytes.length then
        { u with tst := { s.tst with state := .loaded, image := bytes } }
      else ({ u with tst := { s.tst with state := .refused, code := 1, section_ := 0, entry := 0, pack := none } } : State).setLeaf .tst 0) := by
  subst hu
  exact congrArg Host.Outcome.next (if_neg (by simp [loading, free]))

theorem exec_packValidationDone {s : State} (validating : s.tst.state = .validating) : exec .packValidationDone s = .next
    (match validatePack s.lay.keys s.mgt.running.version s.mgt.running.arithRev s.tst.image with
      | some (c, h) => s.refusePack c h.1 h.2
      | none => { s with tst := { s.tst with state := .ready, pack := some (Pack.ofBytes s.tst.image), code := 0, section_ := 0, entry := 0 } }) :=
  congrArg Host.Outcome.next (if_neg (by simp [validating]))

/-- Settles O18. -/
theorem packCommands : Obligations.PackCommands := by
  unfold Obligations.PackCommands
  refine ⟨fun s ready => ?rows, fun s u bytes loading => ⟨exec_packCopyDone_waits, fun free hu => exec_packCopyDone_taken loading free hu⟩,
    fun s validating => ⟨fun c x e refused => ?_, fun passed => ?_⟩, fun s => rfl⟩
  case rows =>
    obtain ⟨load, noLoad, start, noStart, discard, noDiscard⟩ := tst_rows ready
    refine ⟨load, noLoad, fun loaded => ?_, fun other => ?_, start, noStart, exec_tstStop_running ready, exec_tstStop_other ready, discard,
      noDiscard, exec_tstCtrlWrite ready⟩
    · rw [exec_tstValidate ready, if_pos loaded]
    · rw [exec_tstValidate ready, if_neg other]
  · rw [exec_packValidationDone validating, refused]
    rfl
  · rw [exec_packValidationDone validating, passed]

/-! ## Tests of a pass (R506 to R511) -/

theorem exec_testStart {s : State} {core q i : Nat} {p : Pack} (running : s.tst.state = .running) (may : s.mayTest core = true)
    (turn : s.inTurn core = true) (pack : s.tst.pack = some p) (partner : s.dev.partner core = some q) (next : (s.tst.todo core).head? = some i) :
    exec (.testStart core) s = .next { s with tst := { s.tst with
      running := s.tst.running ++ [{ core := core, partner := q, test := i }]
      used := s.tst.used.put 0 (core / 64)
        (s.tst.used.get 0 (core / 64) + s.testCost core (((p.tests[i]?).map p.duration).getD 0)) } } := by
  refine congrArg Host.Outcome.next ((if_neg (by simp [running])).trans ((if_neg (by simp [may, turn])).trans ?_))
  rw [pack, partner, next]

theorem exec_testDone {s : State} {p : Pack} {r : Running} {x : Test} (v : TestDeviation) (pack : s.tst.pack = some p)
    (led : s.tst.running.find? (fun q => q.core == r.core && !q.arbitrating) = some r) (test : p.tests[r.test]? = some x)
    (unneeded : s.needs (r.core / 64) = false) :
    exec (.testDone r.core v) s = .next (s.testOutcome r x (p.result s.dev r.core x) v) := by
  refine congrArg Host.Outcome.next ((if_neg (by simp [unneeded])).trans ?_)
  rw [pack, led]
  simp only [test]

/-- What counting tests leaves: nothing but the pass's own lists, its count and its leaf. -/
theorem State.passProgress_rest (s : State) (cores : List Nat) : ∃ leaves recent state covered passed running passes,
    s.passProgress cores = { s with
      dev := { s.dev with leaves := leaves, recent := recent }
      tst := { s.tst with state := state, covered := covered, passed := passed, running := running, passes := passes } } ∧
    (∀ k ∈ running, k ∈ s.tst.running) ∧ (passed = s.tst.passed ∨ passes = satInc32 s.tst.passes 1) ∧
    ∀ b, (s.dev.leaf .tst).testBit b = true → (SMap.get 0 leaves LeafReg.tst.key).testBit b = true := by
  have set (b : Nat) (h : (s.dev.leaf .tst).testBit b = true) : ((s.dev.setLeaf .tst 1).leaf .tst).testBit b = true := by
    simp only [Dev.leaf_setLeaf_same, Nat.testBit_or, h, Bool.true_or]
  unfold State.passProgress
  dsimp only
  split
  · cases s.tst.repeat_
    · exact ⟨_, _, _, _, _, _, _, rfl, fun k h => h, .inl rfl, set⟩
    · exact ⟨_, _, _, _, _, _, _, rfl, fun k h => absurd h List.not_mem_nil, .inr rfl, set⟩
  · exact ⟨_, _, _, _, _, _, _, rfl, fun k h => h, .inl rfl, fun b h => h⟩

/-- A counted test: the pair's entry is gone, and the core has passed the test, or the pass has ended. -/
theorem State.testRun_spec (s : State) (r : Running) : ∃ leaves recent state covered passed running passes,
    s.testRun r = { s with
      dev := { s.dev with leaves := leaves, recent := recent }
      tst := { s.tst with state := state, covered := covered, passed := passed, running := running, passes := passes } } ∧
    (∀ k ∈ running, ¬(k.core = r.core ∧ k.test = r.test)) ∧ ((r.core, r.test) ∈ passed ∨ passes = satInc32 s.tst.passes 1) ∧
    ∀ b, (s.dev.leaf .tst).testBit b = true → (SMap.get 0 leaves LeafReg.tst.key).testBit b = true := by
  obtain ⟨leaves, recent, state, covered, passed, running, passes, e, run, pass, set⟩ := State.passProgress_rest
    { s with tst := { s.tst with
      running := s.tst.running.filter fun q => !(q.core == r.core && q.test == r.test)
      passed := s.tst.passed ++ ([r.core] ++ (if s.dev.partner r.partner = some r.core then [r.partner] else [])).map fun c => (c, r.test) } }
    ([r.core] ++ (if s.dev.partner r.partner = some r.core then [r.partner] else []))
  refine ⟨leaves, recent, state, covered, passed, running, passes, e, fun k h => ?_, pass.imp (fun same => ?_) id, set⟩
  · have kept := (List.mem_filter.1 (run k h)).2
    simpa [imp_iff_not_or] using kept
  · rw [same]
    simp

/-! ## Fencing after a test (R511, R512) -/

/-- Fencing a seat sets leaves of the layout block only. -/
theorem State.fenceSeat_leaf (s : State) (c : Nat) {q : LeafReg} (h : q.key ≠ LeafReg.lay.key) : (s.fenceSeat c).dev.leaf q = s.dev.leaf q := by
  unfold State.fenceSeat
  split
  · split
    · exact Dev.leaf_setLeaf_other _ 4 h
    · rfl
  · rfl

/-- A core that a test fences (R512). -/
theorem State.fenceCore_spec (s : State) (test core : Nat) :
    (∀ c, c ∈ (s.fenceCore test core).dev.chk.fenced ↔ c ∈ s.dev.chk.fenced ∨ c = core) ∧ (s.fenceCore test core).tst.fenceLast = some core ∧
    ((s.fenceCore test core).dev.leaf .tst).testBit 3 = true ∧ (s.fenceCore test core).dev.core core = {} ∧
    (s.fenceCore test core).dev.mem = s.dev.mem ∧ (s.fenceCore test core).mgt = s.mgt ∧ (s.fenceCore test core).pwr = s.pwr := by
  have leaf : ((s.fenceCore test core).dev.leaf .tst).testBit 3 = true := by
    unfold State.fenceCore
    rw [State.fenceSeat_leaf _ _ (by decide)]
    exact Dev.testBit_leaf_setLeaf _ _ _
  have zero : (s.dev.zeroCore core).core core = {} := by rw [Dev.core_zeroCore, if_pos rfl]
  have fenced (c : Nat) : c ∈ (s.dev.chk.fence [core]).fenced ↔ c ∈ s.dev.chk.fenced ∨ c = core := by
    rw [mem_fence, List.mem_singleton]
  unfold State.fenceCore at leaf ⊢
  obtain ⟨seats, leaves, recent, set, e⟩ := State.fenceSeat_rest (State.testLeaf
    { s with
      dev := { s.dev.zeroCore core with
        chk := { s.dev.chk.fence [core] with suspects := s.dev.chk.suspects.filter (· ≠ core) } }
      tst := { s.tst with fenceLast := some core } } 3 core test) core
  dsimp only at leaf ⊢
  refine ⟨fun c => ?_, ?_, leaf, ?_, ?_, ?_, ?_⟩
  all_goals erw [e]
  · exact fenced c
  · rfl
  · exact zero
  all_goals rfl

/-- The pair's first core is fenced after arbitration, and the test counts. -/
theorem State.fencePair_first (s : State) (r : Running) (test : Nat) :
    (∀ c, c ∈ (s.fencePair r test [r.core] false).dev.chk.fenced ↔ c ∈ s.dev.chk.fenced ∨ c = r.core) ∧
    (s.fencePair r test [r.core] false).tst.fenceLast = some r.core ∧
    ((s.fencePair r test [r.core] false).dev.leaf .tst).testBit 3 = true ∧ (s.fencePair r test [r.core] false).dev.core r.core = {} ∧
    (s.fencePair r test [r.core] false).dev.mem = s.dev.mem ∧ (s.fencePair r test [r.core] false).mgt = s.mgt ∧
    (s.fencePair r test [r.core] false).pwr = s.pwr := by
  obtain ⟨fenced, last, leaf, zero, mem, mgt, pwr⟩ := s.fenceCore_spec test r.core
  obtain ⟨leaves, recent, state, covered, passed, running, passes, e, -, -, set⟩ := (s.fenceCore test r.core).testRun_spec r
  have pair : s.fencePair r test [r.core] false = (s.fenceCore test r.core).testRun r := rfl
  rw [pair, e]
  exact ⟨fenced, last, set 3 leaf, zero, mem, mgt, pwr⟩

theorem exec_arbitrationDone {s : State} {p : Pack} {r : Running} {x : Test} {a : Nat} {v : TestDeviation} (pack : s.tst.pack = some p)
    (led : s.tst.running.find? (fun q => q.core == r.core && q.arbitrating) = some r) (test : p.tests[r.test]? = some x)
    (arbiter : s.arbiter r = some a) (badA : v.flagsA ≠ 0) (valueB : v.valueB = 0) (flagsB : v.flagsB = 0)
    (unneeded : s.needs (r.core / 64) = false) :
    exec (.arbitrationDone r.core v) s = .next ((s.charge (a / 64) (s.runCost r)).fencePair r x.id [r.core] false) := by
  refine congrArg Host.Outcome.next ((if_neg (by simp [unneeded])).trans ?_)
  rw [pack, led]
  simp [test, arbiter, badA, valueB, flagsB]

/-! ## Abandoned tests (R508) -/

/-- Zeroing the working areas of some cores touches no other core, and nothing but cores. -/
theorem zeroWorks_spec (d : Dev) (l : List Nat) : ∃ cores, l.foldl Dev.zeroWork d = { d with cores := cores } ∧
    ∀ c, c ∉ l → (SMap.get {} cores c) = d.core c := by
  induction l generalizing d with
  | nil => exact ⟨d.cores, rfl, fun c _ => rfl⟩
  | cons k l ih =>
    obtain ⟨cores, e, other⟩ := ih (d.zeroWork k)
    refine ⟨cores, e, fun c hc => ?_⟩
    obtain ⟨ne, rest⟩ := not_or.1 (mt List.mem_cons.2 hc)
    rw [other c rest]
    exact (Dev.core_updCore _ _ _ _).trans (if_neg ne)

theorem State.abandon_spec (s : State) (pick : Running → Bool) : ∃ cores,
    s.abandon pick = { s with
      dev := { s.dev with cores := cores }
      tst := { s.tst with running := s.tst.running.filter fun r => !pick r } } ∧
    ∀ c, (∀ r ∈ s.tst.running, pick r = true → r.core ≠ c ∧ r.partner ≠ c) → SMap.get {} cores c = s.dev.core c := by
  obtain ⟨cores, e, other⟩ := zeroWorks_spec s.dev ((s.tst.running.filter pick).flatMap fun r => [r.core, r.partner])
  refine ⟨cores, by rw [State.abandon, e], fun c untouched => other c ?_⟩
  simp only [List.mem_flatMap, List.mem_filter, List.mem_cons, List.not_mem_nil, or_false, not_exists, not_and, not_or, and_imp]
  exact fun r running picked => ⟨(untouched r running picked).1.symm, (untouched r running picked).2.symm⟩

/-- While the seat needs the cluster, each event of a test there abandons the cluster's tests. -/
theorem exec_needed {s : State} {cluster : Nat} {c : Instr} {v : TestDeviation} (needed : s.needs cluster = true)
    (command : c = .testAbandon cluster ∨ ∃ x, x / 64 = cluster ∧ (c = .testDone x v ∨ c = .arbitrationDone x v)) :
    exec c s = .next (s.abandon fun r => r.core / 64 == cluster) := by
  rcases command with rfl | ⟨x, rfl, rfl | rfl⟩
  · exact congrArg Host.Outcome.next (if_pos needed)
  · exact congrArg Host.Outcome.next (if_pos needed)
  · exact congrArg Host.Outcome.next (if_pos needed)

/-- Equal results that meet EXPECTED count. -/
theorem State.testOutcome_equal (s : State) {r : Running} {x : Test} {sound : Nat × Nat} (first : r.tries = 0)
    (meets : x.expect = true → sound.1 = x.expected) : s.testOutcome r x sound ⟨0, 0, 0, 0⟩ = s.testRun r := by
  have met : (x.expect && sound.1 != x.expected) = false := by
    cases h : x.expect
    · rfl
    · simp [meets h]
  have zero : (0 : BitVec 64).toNat % 2 ^ (crcKind x.selector).width = 0 := by simp
  simp [State.testOutcome, first, met]

/-- Results that differ, without EXPECT: the test is repeated, and then waits for an arbiter. -/
theorem State.testOutcome_differs (s : State) {r : Running} {x : Test} (sound : Nat × Nat) {v : TestDeviation} (expect : x.expect = false)
    (differs : v.flagsA ≠ v.flagsB) : s.testOutcome r x sound v =
      if r.tries = 0 then s.testAgain { r with tries := 1, missA := false, missB := false }
      else ({ s with tst := { s.tst with mismatches := satInc32 s.tst.mismatches 1 } } : State).testAgain { r with arbitrating := true } := by
  have flags : sound.2 ^^^ v.flagsA ≠ sound.2 ^^^ v.flagsB := fun h => differs (Nat.xor_right_injective h)
  simp [State.testOutcome, expect, flags]

/-- Settles O19. -/
theorem testOutcomes : Obligations.TestOutcomes := by
  unfold Obligations.TestOutcomes
  refine ⟨fun s core q i p running may turn pack partner next => ⟨_, exec_testStart running may turn pack partner next, rfl, rfl⟩,
    fun s p r x pack led test first unneeded meets => ?equal, fun s p r x v pack led test expect differs unneeded => ?differ,
    fun s p r x a v pack led test arbiter badA valueB flagsB unneeded => ?arbitrate, fun s cluster c v needed command => ?abandon⟩
  case equal =>
    obtain ⟨leaves, recent, state, covered, passed, running, passes, e, gone, counted, -⟩ := s.testRun_spec r
    refine ⟨_, (exec_testDone _ pack led test unneeded).trans (congrArg Host.Outcome.next ((s.testOutcome_equal first meets).trans e)),
      gone, counted, rfl, rfl, rfl, rfl, rfl⟩
  case differ =>
    have run := exec_testDone v pack led test unneeded
    rw [s.testOutcome_differs _ expect differs] at run
    constructor
    · intro first
      rw [if_pos first] at run
      exact ⟨_, run, rfl, rfl⟩
    · intro again
      rw [if_neg again] at run
      exact ⟨_, run, rfl, rfl⟩
  case arbitrate =>
    exact ⟨_, exec_arbitrationDone pack led test arbiter badA valueB flagsB unneeded, State.fencePair_first _ r x.id⟩
  case abandon =>
    obtain ⟨cores, e, other⟩ := s.abandon_spec fun r => r.core / 64 == cluster
    refine ⟨_, (exec_needed needed command).trans (congrArg Host.Outcome.next e), rfl, rfl, fun c untouched => other c ?_⟩
    exact fun r running picked => untouched r running (by simpa using picked)

/-! ## Check-value units (R490, R493) -/

theorem Dev.if_unit {α : Type} {s : State} {u : Nat} (ready : s.ready = true) (unit : u < 24) (a b : α) :
    (if !s.ready || decide (24 ≤ u) then a else b) = b := if_neg (by simp [ready, unit])

theorem exec_chkStart_start {s : State} {u v : Nat} (ready : s.ready = true) (unit : u < 24) (idle : (s.dev.unit u).busy = false)
    (start : v.testBit 8 = true) : exec (.chkStart u v) s = .next { s with dev := s.dev.updUnit u fun k =>
      { k with
        selector := v % 4, fold := v.testBit 2, compare := v.testBit 3, init := v.testBit 4
        busy := true, done := false, matched := false, poisoned := false } } := by
  refine congrArg Host.Outcome.next ((Dev.if_unit ready unit _ _).trans ((if_neg (by simp [idle])).trans ?_))
  simp only [start, if_true]
  rfl

theorem exec_chkStart_busy {s : State} {u v : Nat} (ready : s.ready = true) (unit : u < 24) (busy : (s.dev.unit u).busy = true)
    (start : v.testBit 8 = true) : exec (.chkStart u v) s = .next { s with dev := s.dev.integrity 8 u none } :=
  congrArg Host.Outcome.next ((Dev.if_unit ready unit _ _).trans (if_pos (by rw [start, busy]; rfl)))

theorem exec_chkRunningWrite_busy {s : State} {u : Nat} (ready : s.ready = true) (unit : u < 24) (busy : (s.dev.unit u).busy = true)
    (hi : Bool) (v : Nat) : exec (.chkRunningWrite u hi v) s = .next { s with dev := s.dev.integrity 8 u none } :=
  congrArg Host.Outcome.next ((Dev.if_unit ready unit _ _).trans (if_pos busy))

theorem exec_chkRunningWrite_idle {s : State} {u : Nat} (ready : s.ready = true) (unit : u < 24) (idle : (s.dev.unit u).busy = false)
    (hi : Bool) (v : Nat) : exec (.chkRunningWrite u hi v) s = .next { s with dev := s.dev.updUnit u fun k =>
      { k with running := if hi then k.running % 2 ^ 32 + v % 2 ^ 32 * 2 ^ 32 else k.running / 2 ^ 32 * 2 ^ 32 + v % 2 ^ 32 } } :=
  congrArg Host.Outcome.next ((Dev.if_unit ready unit _ _).trans (if_neg (by simp [idle])))

/-- Reading a range changes memory and leaves only. -/
theorem Dev.MemOnly.readRange (d : Dev) (w : Who) (a n : Nat) : d.MemOnly (d.readRange w a n).1 :=
  foldl_keeps (P := fun q : Dev × List Byte × List Bool => d.MemOnly q.1) (fun _ _ h => h.readAtom _ _ _) _ _ (Dev.MemOnly.refl d)

/-- Where a command's running value starts (R490). -/
def ChkUnit.start (k : ChkUnit) : Nat :=
  if k.init then (crcKind k.selector).init k.seed (if k.fold then foldOf (k.addr / 64) k.seq else 0)
  else k.running % 2 ^ (crcKind k.selector).width

/-- The unit after its command (R493), with the bytes that it read. -/
def ChkUnit.ended (k : ChkUnit) (bytes : List Byte) (poisoned : Bool) : ChkUnit :=
  { k with
    busy := false, done := true, running := (crcKind k.selector).run k.start bytes
    result := (crcKind k.selector).run k.start bytes ^^^ (crcKind k.selector).final
    matched := (crcKind k.selector).run k.start bytes ^^^ (crcKind k.selector).final == k.expect, poisoned := poisoned }

theorem Dev.unit_integrity_if (c : Prop) [Decidable c] (d : Dev) (leaf at_ u : Nat) :
    (if c then d.integrity leaf at_ none else d).unit u = d.unit u := by
  split <;> rfl

theorem Dev.unitDone_unit (d : Dev) (u : Nat) :
    ((d.unitDone u).unit u) = (d.unit u).ended (d.physBytes (d.unit u).addr (d.unit u).len).2.1 (d.physBytes (d.unit u).addr (d.unit u).len).2.2 := by
  obtain ⟨m, l, r, e⟩ := Dev.MemOnly.readRange d { host := true } (d.unit u).addr (d.unit u).len
  have same : (d.physBytes (d.unit u).addr (d.unit u).len).1.unit u = d.unit u := by
    rw [show (d.physBytes (d.unit u).addr (d.unit u).len).1 = _ from e]
    rfl
  refine (Dev.unit_integrity_if _ _ 6 u u).trans ((Dev.unit_updUnit _ u u _).trans ((if_pos rfl).trans ?_))
  rw [same]
  rfl

/-- A comparison that fails sets the MISMATCH leaf (R493). -/
theorem Dev.unitDone_mismatch {d : Dev} {u : Nat} (compare : (d.unit u).compare = true) (differs : ((d.unitDone u).unit u).result ≠ (d.unit u).expect) :
    ((d.unitDone u).leaf .chk).testBit 6 = true := by
  rw [Dev.unitDone_unit] at differs
  unfold Dev.unitDone
  dsimp only
  rw [if_pos]
  · exact Dev.testBit_leaf_setLeaf _ _ _
  · rw [compare, Bool.true_and, bne_iff_ne]
    exact differs

/-- Settles O20. -/
theorem checkUnits : Obligations.CheckUnits := by
  unfold Obligations.CheckUnits
  refine ⟨fun s u v ready unit idle start => exec_chkStart_start ready unit idle start,
    fun s u v ready unit busy => ⟨exec_chkStart_busy ready unit busy, fun hi => exec_chkRunningWrite_busy ready unit busy hi v⟩,
    fun s u v ready unit idle => ⟨exec_chkRunningWrite_idle ready unit idle false v, exec_chkRunningWrite_idle ready unit idle true v⟩,
    fun s u bytes busy free read => ?_⟩
  refine ⟨{ s with dev := s.dev.unitDone u }, (s.dev.unit u).start, congrArg Host.Outcome.next (if_pos (by simp [busy, free])), rfl, ?_⟩
  have ended := Dev.unitDone_unit s.dev u
  rw [read] at ended
  refine ⟨?_, ?_, ?_, ?_, ?_, Dev.unitDone_mismatch, rfl⟩
  all_goals dsimp only; rw [ended]
  all_goals simp [ChkUnit.ended]

/-! ## Core faults and double-bit errors (R482 to R487) -/

/-- A command of an operation that runs does its work on it. -/
theorem Dev.runOp_running {d : Dev} {i : Nat} {p : Place} {sel : OpWord → Bool} (work : Dev → Place → Dev) (place : d.place i = some p)
    (running : p.phase = .running) (good : p.bad = false) (unskipped : p.skipped = false) (op : sel p.op = true) :
    d.runOp i sel work = work d p := by
  have entered : d.enters i sel = some (d, p) := by simp [Dev.enters, place, running, good, unskipped, op]
  rw [Dev.runOp, entered]

theorem Dev.workFault_first {core : Nat} {d : Dev} {p : Place} (mine : core ∈ d.opCores p) (unfenced : core ∉ d.chk.fenced)
    (first : core ∉ p.reruns) : Dev.workFault core d p =
      ({ d.noteCoreFault core (some p.seat) with
        chk := { (d.noteCoreFault core (some p.seat)).chk with reruns := satInc32 d.chk.reruns 1 } } : Dev).updPlace p.id fun q =>
          { q with reruns := q.reruns ++ [core], excursions := q.excursions.or { rerun := true } } :=
  (if_neg (by simp [mine, unfenced])).trans (if_neg (by simp [first]))

theorem Dev.workFault_second {core : Nat} {d : Dev} {p : Place} (mine : core ∈ d.opCores p) (unfenced : core ∉ d.chk.fenced)
    (second : core ∈ p.reruns) : Dev.workFault core d p =
      (((d.noteCoreFault core (some p.seat)).updPlace p.id fun q =>
        { q with failed := q.failed ++ [(core, d.free)], flags := q.flags.or { poisoned := true } }).tickFree).integrity
        2 (clusterStack (core / 64)) (some p.seat) :=
  (if_neg (by simp [mine, unfenced])).trans (if_pos (by simp [second]))

theorem Dev.leaf_noteCoreFault (d : Dev) (core : Nat) (seat : Option Nat) : ((d.noteCoreFault core seat).leaf .chk).testBit 1 = true :=
  Dev.testBit_leaf_setLeaf _ _ _

theorem exec_sramDoubleBitError {s : State} {stack : Nat} (h : stack < 12) (table : SramTable) (index : Nat) :
    exec (.sramDoubleBitError stack table index) s = .next { s with dev := (s.dev.updStack stack fun k =>
      { k with sramBad := if k.sramBad.contains (table, index) then k.sramBad else k.sramBad ++ [(table, index)] }).integrity 7 stack none } :=
  congrArg Host.Outcome.next (if_neg (Nat.not_le.2 h))

/-- Settles O21. -/
theorem integrityEvents : Obligations.IntegrityEvents := by
  unfold Obligations.IntegrityEvents
  refine ⟨fun s place core p here running good unskipped op mine unfenced => ?fault, fun s stack index table h => ?sram⟩
  case fault =>
    have run : exec (.coreFault place core) s = .next { s with dev := Dev.workFault core s.dev p } := by
      change execCoreFault place core s = _
      rw [execCoreFault, Dev.runOp_running _ here running good unskipped op]
    refine ⟨_, run, rfl, ?_⟩
    by_cases again : core ∈ p.reruns
    · rw [Dev.workFault_second mine unfenced again]
      have leaf : (((s.dev.noteCoreFault core (some p.seat)).leaf .chk ||| 2 ^ 2).testBit 1) = true := by
        rw [Nat.testBit_or, Dev.leaf_noteCoreFault, Bool.true_or]
      refine ⟨rfl, rfl, rfl, ?_, rfl, rfl, fun first => absurd again first, fun _ => ⟨Dev.testBit_leaf_setLeaf _ _ _, rfl, rfl⟩⟩
      exact (congrArg (fun n => Nat.testBit n 1) (Dev.leaf_setLeaf_same _ _ _)).trans leaf
    · rw [Dev.workFault_first mine unfenced again]
      exact ⟨rfl, rfl, rfl, Dev.leaf_noteCoreFault _ _ _, rfl, rfl, fun _ => ⟨rfl, rfl⟩, fun second => absurd second again⟩
  case sram =>
    refine ⟨_, exec_sramDoubleBitError h table index, ?_⟩
    have kept : (((s.dev.updStack stack fun k =>
        { k with sramBad := if k.sramBad.contains (table, index) then k.sramBad else k.sramBad ++ [(table, index)] }).integrity 7 stack none).mem.stack
        stack).sramBad = if (s.dev.mem.stack stack).sramBad.contains (table, index) then (s.dev.mem.stack stack).sramBad
          else (s.dev.mem.stack stack).sramBad ++ [(table, index)] :=
      congrArg Stack.sramBad ((Mem.stack_updStack _ _ _ _).trans (if_pos rfl))
    refine ⟨?_, fun e he => ?_, Dev.testBit_leaf_setLeaf _ _ _, rfl, rfl, fun x ne => (Mem.stack_updStack _ _ _ _).trans (if_neg ne), rfl⟩
    · dsimp only
      rw [kept]
      split
      · rename_i known
        exact List.contains_iff_mem.1 known
      · simp
    · dsimp only
      rw [kept]
      split
      · exact he
      · exact List.mem_append_left _ he

end Sys2Proof.Machine
end

section
/-! SUPPORT. Memory base dies (10, 11): requests, the canonical form, the work that ends at a die, temperature and retirement. -/

namespace Sys2Proof.Machine

/-! ## Requests (R384 to R386) -/

theorem Mem.upset_none (m : Mem) (a : Nat) {u : Upset} (h : u.symbols = []) : m.upset a u = m := if_pos (by simp [h])

/-- A request of a stack that exists, without symbol errors or a parity mismatch, reaches its die. -/
theorem exec_memoryRequest {s : State} {r : MemReq} {u : Upset} (stack : r.addr / 2 ^ 36 % 16 < 12) (symbols : u.symbols = []) :
    exec (.memoryRequest r u false) s = .next { s with dev := s.dev.take { req := r, again := u.again } } := by
  have run : exec (.memoryRequest r u false) s =
      .next { s with dev := ({ s.dev with mem := s.dev.mem.upset r.addr u } : Dev).request r u.again false } :=
    congrArg Host.Outcome.next (if_neg (Nat.not_le.2 stack))
  rw [run, Mem.upset_none _ _ symbols]
  rfl

theorem Dev.take_blocked {d : Dev} {h : HeldReq} (blocked : d.blocked h.req.addr = true) : d.take h = d.hold h := if_pos blocked

theorem Dev.take_fills {d : Dev} {h : HeldReq} (free : d.blocked h.req.addr = false) (fills : d.needsFill h.req = true) :
    d.take h = (d.updStack (stackOf h.req.addr) fun k => { k with filling := insertAsc (frameOf h.req.addr) k.filling }).hold h :=
  (if_neg (by simp [free])).trans (if_pos fills)

theorem Dev.take_served {d : Dev} {r : MemReq} (again : Option (List (Nat × Byte))) (free : d.blocked r.addr = false)
    (ready : d.needsFill r = false) : d.take { req := r, again := again } = d.serve r again false :=
  (if_neg (by simp [free])).trans (if_neg (by simp [ready]))

/-- What a request held at its die changes. -/
theorem Dev.hold_spec (d : Dev) (h : HeldReq) : d.hold h = { d with mem := (d.hold h).mem } ∧ (d.hold h).mem.cells = d.mem.cells ∧
    ((d.hold h).mem.stack (stackOf h.req.addr)).held = (d.mem.stack (stackOf h.req.addr)).held ++ [h] := by
  have stack : (d.hold h).mem.stack (stackOf h.req.addr) =
      { d.mem.stack (stackOf h.req.addr) with held := (d.mem.stack (stackOf h.req.addr)).held ++ [h] } :=
    (Mem.stack_updStack _ _ _ _).trans (if_pos rfl)
  exact ⟨rfl, rfl, congrArg Stack.held stack⟩

/-- A write that starts a zero fill waits for it (R386). -/
theorem Dev.take_fills_spec {d : Dev} {h : HeldReq} (free : d.blocked h.req.addr = false) (fills : d.needsFill h.req = true) :
    ((d.take h).mem.stack (stackOf h.req.addr)).held = (d.mem.stack (stackOf h.req.addr)).held ++ [h] ∧
    frameOf h.req.addr ∈ ((d.take h).mem.stack (stackOf h.req.addr)).filling ∧ (d.take h).mem.cells = d.mem.cells ∧
    d.take h = { d with mem := (d.take h).mem } := by
  rw [Dev.take_fills free fills]
  refine ⟨?_, ?_, rfl, rfl⟩
  · simp [Dev.hold, Dev.stack_updStack]
  · simp [Dev.hold, Dev.stack_updStack, mem_insertAsc]

/-! ## Reads -/

theorem Dev.serve_reads {d : Dev} {r : MemReq} (again : Option (List (Nat × Byte))) (admits : d.admits r.source r.addr = true)
    (read : r.write = none) : d.serve r again false =
      (d.readAtom r.addr again r.source.who).1.emit
        (.readData (d.readAtom r.addr again r.source.who).2.1 ((d.readAtom r.addr again r.source.who).2.2.1 || false)) := by
  refine (if_neg (by simp [admits])).trans ?_
  rw [read]

/-- A ZERO_PENDING frame reads zeros (R386). -/
theorem Dev.readAtom_zero {d : Dev} {a : Nat} (again : Option (List (Nat × Byte))) (w : Who)
    (zero : (d.mem.frame (stackOf a) (frameOf a)).zero = true) : d.readAtom a again w = (d, List.replicate 64 0, false, false) := if_pos zero

/-- A clean atom reads as stored (R350). -/
theorem Dev.readAtom_clean {d : Dev} {a : Nat} (again : Option (List (Nat × Byte))) (w : Who)
    (filled : (d.mem.frame (stackOf a) (frameOf a)).zero = false) (pure : d.mem.isPoison a = false)
    (symbols : d.mem.upsets.get [] (d.mem.locate a / 64) = []) :
    d.readAtom a again w = (d, d.mem.bytes (a / 64 * 64) 64, false, false) :=
  (if_neg (by simp [filled])).trans ((if_neg (by simp [pure])).trans (if_pos (by simp [symbols])))

/-- Stored poison reads as poison, and is counted (R350, R351). -/
theorem Dev.readAtom_poison {d : Dev} {a : Nat} (again : Option (List (Nat × Byte))) (w : Who)
    (filled : (d.mem.frame (stackOf a) (frameOf a)).zero = false) (poison : d.mem.isPoison a = true) :
    d.readAtom a again w = (d.readPoison (a / 64 * 64) w, d.mem.bytes (a / 64 * 64) 64, true, false) :=
  (if_neg (by simp [filled])).trans (if_pos poison)

theorem stackOf_atom (a : Nat) : stackOf (a / 64 * 64) = stackOf a := by
  unfold stackOf
  omega

theorem Dev.poisonReads_readPoison (d : Dev) (a : Nat) (w : Who) :
    ((d.readPoison a w).mem.stack (stackOf a)).poisonReads = satInc32 (d.mem.stack (stackOf a)).poisonReads 1 := by
  simp [Dev.readPoison, Dev.recordFault, Dev.recordAt, Dev.bump, Dev.stack_updStack]

/-! ## Writes -/

theorem Mem.poison_putBytes : ∀ (bs : List Byte) (m : Mem) (a : Nat), (m.putBytes a bs).poison = m.poison
  | [], _, _ => rfl
  | b :: bs, m, a => Mem.poison_putBytes bs (m.putByte a b) (a + 1)

theorem Mem.isPoison_putBytes (bs : List Byte) (m : Mem) (a b : Nat) : (m.putBytes a bs).isPoison b = m.isPoison b := by
  rw [Mem.isPoison, Mem.isPoison, Mem.poison_putBytes, Mem.locate_of_remap (Mem.dies_putBytes bs m a).1]

theorem Mem.isPoison_setPoison_false (m : Mem) (a : Nat) : (m.setPoison a false).isPoison a = false := by
  have same : (m.setPoison a false).locate a = m.locate a := rfl
  rw [Mem.isPoison, same]
  simp [Mem.setPoison]

theorem Mem.upsets_readPoison (d : Dev) (a : Nat) (w : Who) : (d.readPoison a w).mem.upsets = d.mem.upsets := rfl

/-- A write into an atom without symbol errors puts its bytes in place; a whole atom is no longer poison (R339, R351). -/
theorem Dev.writeAtom_clean {d : Dev} {a : Nat} (bs : List Byte) (w : Who) (filled : (d.mem.frame (stackOf a) (frameOf a)).zero = false)
    (symbols : d.mem.upsets.get [] (d.mem.locate a / 64) = []) :
    ∃ m, Mem.Same d.mem m ∧ d.writeAtom a bs w = { d with mem := m.putBytes a bs } ∧ (bs.length = 64 → m.isPoison a = false) := by
  have read : ∃ m, Mem.Same d.mem m ∧ (d.readAtom a none w).1 = { d with mem := m } ∧ m.upsets = d.mem.upsets := by
    cases poison : d.mem.isPoison a
    · exact ⟨d.mem, Mem.Same.refl _, by rw [Dev.readAtom_clean none w filled poison symbols], rfl⟩
    · have kept := (Mem.Same.refl d.mem).readPoison (a / 64 * 64) w
      exact ⟨_, kept, by rw [Dev.readAtom_poison none w filled poison]; rfl, rfl⟩
  unfold Dev.writeAtom
  simp only [filled, Bool.false_eq_true, if_false]
  by_cases whole : bs.length = 64
  · rw [if_pos whole]
    exact ⟨_, ((Mem.Same.refl d.mem).clearUpset a).setPoison a false, rfl, fun _ => Mem.isPoison_setPoison_false _ a⟩
  · obtain ⟨m, same, e, upsets⟩ := read
    refine ⟨m, same, ?_, fun h => absurd h whole⟩
    rw [if_neg whole, e]
    dsimp only
    rw [upsets, same.locate, symbols]
    rfl

theorem Dev.serve_writes {d : Dev} {r : MemReq} {bs : List Byte} (again : Option (List (Nat × Byte))) (admits : d.admits r.source r.addr = true)
    (write : r.write = some bs) : d.serve r again false = d.writeAtom r.addr bs r.source.who := by
  refine (if_neg (by simp [admits])).trans ?_
  rw [write]
  rfl

/-- Bytes written within an atom read back, and every address that goes elsewhere keeps its byte. -/
theorem Mem.byte_putAtom {m k : Mem} (same : Mem.Same m k) {a : Nat} {bs : List Byte} (fits : a % 64 + bs.length ≤ 64) :
    (∀ i (h : i < bs.length), (k.putBytes a bs).byte (a + i) = bs[i]) ∧
    ∀ b, (∀ i, i < bs.length → m.locate b ≠ m.locate (a + i)) → (k.putBytes a bs).byte b = m.byte b := by
  refine ⟨fun i h => Mem.byte_putBytes (by omega) i h, fun b apart => ?_⟩
  rw [Mem.byte_putBytes_other fun i h => ?_, same.byte]
  rw [same.locate, same.locate]
  exact apart i h

/-! ## Rejected requests (R385) -/

/-- A request that fails the tag check touches no memory. -/
theorem Dev.serve_rejects {d : Dev} {r : MemReq} {tag : Nat} (again : Option (List (Nat × Byte))) (source : r.source = .tagged tag)
    (range : tag < 2 ^ 16) (fails : d.admits r.source r.addr = false) :
    (d.serve r again false).mem = d.mem ∧
    (d.serve r again false).out = d.out ++ (if r.write = none then [.readData (List.replicate 64 0) true] else []) ∧
    ((d.serve r again false).seat (tagSeat tag)).tagRejects = satInc32 (d.seat (tagSeat tag)).tagRejects 1 ∧
    ((d.serve r again false).leaf (.seat (tagSeat tag))).testBit 1 = true := by
  have seat : tagSeat tag % 64 = tagSeat tag := Nat.mod_eq_of_lt (by unfold tagSeat; omega)
  have run : d.serve r again false = match r.write with
      | some _ => d.rejectTag tag r.addr
      | none => (d.rejectTag tag r.addr).emit (.readData (List.replicate 64 0) true) := by
    refine (if_pos (by simp [fails])).trans ?_
    rw [source] <;> rfl
  have rejects : ((d.rejectTag tag r.addr).seat (tagSeat tag)).tagRejects = satInc32 (d.seat (tagSeat tag)).tagRejects 1 := by
    simp [Dev.rejectTag, seat, Dev.seat_updSeat]
  have leaf : ((d.rejectTag tag r.addr).leaf (.seat (tagSeat tag))).testBit 1 = true := by
    rw [Dev.rejectTag, seat]
    exact Dev.testBit_leaf_setLeaf _ _ _
  rw [run]
  cases r.write
  · exact ⟨rfl, rfl, rejects, leaf⟩
  · exact ⟨rfl, (List.append_nil _).symm, rejects, leaf⟩

/-- Settles O22. -/
theorem memoryRequests : Obligations.MemoryRequests := by
  unfold Obligations.MemoryRequests
  intro s r u stack symbols
  rw [exec_memoryRequest stack symbols]
  refine ⟨fun free admits filled clean => ?filled, fun free admits zero => ?zero, fun tag free source range fails => ?rejected,
    fun blocked => ?blocked⟩
  case filled =>
    have ready : s.dev.needsFill r = false := by simp [Dev.needsFill, filled]
    rw [Dev.take_served _ free ready]
    refine ⟨fun bs write fits => ?_, fun read pure => ?_, fun read poison => ?_⟩
    · obtain ⟨m, same, e, pure⟩ := Dev.writeAtom_clean bs r.source.who filled clean
      obtain ⟨written, kept⟩ := Mem.byte_putAtom same fits
      rw [Dev.serve_writes _ admits write, e]
      exact ⟨_, rfl, rfl, written, kept, fun whole => (Mem.isPoison_putBytes bs m _ _).trans (pure whole)⟩
    · rw [Dev.serve_reads _ admits read, Dev.readAtom_clean _ _ filled pure clean]
      rfl
    · rw [Dev.serve_reads _ admits read, Dev.readAtom_poison _ _ filled poison]
      refine ⟨_, rfl, rfl, rfl, ?_⟩
      have counted := Dev.poisonReads_readPoison s.dev (r.addr / 64 * 64) r.source.who
      rwa [stackOf_atom] at counted
  case zero =>
    constructor
    · intro read
      have ready : s.dev.needsFill r = false := by simp [Dev.needsFill, read]
      rw [Dev.take_served _ free ready, Dev.serve_reads _ admits read, Dev.readAtom_zero _ _ zero]
      rfl
    · intro write
      have fills : s.dev.needsFill r = true := by simp [Dev.needsFill, admits, zero, Option.isSome_iff_ne_none.2 write]
      obtain ⟨held, filling, cells, rest⟩ := Dev.take_fills_spec (h := { req := r, again := u.again }) free fills
      exact ⟨_, rfl, held, filling, cells, congrArg (fun d => { s with dev := d }) rest⟩
  case rejected =>
    have ready : s.dev.needsFill r = false := by simp [Dev.needsFill, fails]
    rw [Dev.take_served _ free ready]
    exact ⟨_, rfl, Dev.serve_rejects _ source range fails⟩
  case blocked =>
    obtain ⟨rest, cells, held⟩ := Dev.hold_spec s.dev { req := r, again := u.again }
    rw [Dev.take_blocked (h := { req := r, again := u.again }) blocked]
    exact ⟨_, rfl, held, cells, congrArg (fun d => { s with dev := d }) rest⟩

/-! ## The canonical form (R332, R386) -/

theorem Dev.wf_selfRefreshExit {d : Dev} (h : d.mem.wf = true) (xs : List Nat) : (xs.foldl (fun d x =>
    if (d.mem.stack x).selfRefresh then (d.updStack x fun k => { k with selfRefresh := false }).release x else d) d).mem.wf = true := by
  refine foldl_keeps (P := fun d : Dev => d.mem.wf = true) (fun d x hd => ?_) xs d h
  split
  · refine Dev.wf_release (Dev.wf_updStack hd x ?_) x
    intro k
    rfl
  · exact hd

theorem Dev.mem_noStack (d : Dev) (r : MemReq) : (d.noStack r).mem = d.mem := by
  unfold Dev.noStack
  split <;> rfl

theorem Dev.sendControl_keeps (d : Dev) (m : QMessage) : (d.sendControl m).mem = d.mem ∧ (d.sendControl m).seats = d.seats ∧
    (d.sendControl m).board = d.board ∧ (d.sendControl m).leaves = d.leaves := by
  unfold Dev.sendControl
  split
  · exact ⟨rfl, rfl, rfl, rfl⟩
  · split <;> exact ⟨rfl, rfl, rfl, rfl⟩

theorem Dev.recordStatus_keeps (d : Dev) (port m thermal progress : Nat) : (d.recordStatus port m thermal progress).mem = d.mem ∧
    (d.recordStatus port m thermal progress).seats = d.seats ∧ (d.recordStatus port m thermal progress).board = d.board ∧
    ∀ q : LeafReg, q.key ≠ LeafReg.qlk.key → (d.recordStatus port m thermal progress).leaf q = d.leaf q := by
  unfold Dev.recordStatus
  split
  · exact ⟨rfl, rfl, rfl, fun q _ => rfl⟩
  · dsimp only
    split
    · exact ⟨rfl, rfl, rfl, fun q ne => Dev.leaf_setLeaf_other _ 4 ne⟩
    · exact ⟨rfl, rfl, rfl, fun q _ => rfl⟩

/-- Reporting STATUS touches the cascade's state, the outputs and the leaves of the cascade. -/
theorem Dev.sendStatus_keeps (d : Dev) : d.sendStatus.mem = d.mem ∧ d.sendStatus.seats = d.seats ∧ d.sendStatus.board = d.board ∧
    ∀ q : LeafReg, q.key ≠ LeafReg.qlk.key → d.sendStatus.leaf q = d.leaf q := by
  unfold Dev.sendStatus
  split
  · exact Dev.recordStatus_keeps d _ _ _ _
  · obtain ⟨mem, seats, board, leaves⟩ := Dev.sendControl_keeps d _
    exact ⟨mem, seats, board, fun q _ => congrArg (SMap.get 0 · q.key) leaves⟩

/-- The device after the zero fill of frame f of stack x, before what waits is served (R386). -/
def Dev.endFill (d : Dev) (x f : Nat) : Dev :=
  ({ d with mem := d.mem.fillFrame x f } : Dev).updStack x fun k => { k with filling := k.filling.filter (· ≠ f) }

theorem Dev.wf_endFill {d : Dev} (h : d.mem.wf = true) (x f : Nat) : (d.endFill x f).mem.wf = true :=
  Dev.wf_updStack (d := { d with mem := d.mem.fillFrame x f }) (Mem.wf_fillFrame h) x fun _ => rfl

theorem exec_zeroFillDone {s : State} {k f : Nat} (filling : f ∈ (s.dev.mem.stack k).filling) :
    exec (.zeroFillDone k f) s = .next { s with dev := (s.dev.endFill k f).release k } :=
  congrArg Host.Outcome.next (if_pos (by simp [filling]))

theorem exec_zeroFillDone_other {s : State} {k f : Nat} (idle : f ∉ (s.dev.mem.stack k).filling) : exec (.zeroFillDone k f) s = .next s :=
  congrArg Host.Outcome.next (if_neg (by simp [idle]))

theorem exec_rowRepairDone {s : State} {k c spare : Nat} {rest : List (Nat × Nat)} (repairing : (s.dev.mem.stack k).repairing = (c, spare) :: rest) :
    exec (.rowRepairDone k) s = .next { s with dev := (s.dev.endRepair k c spare rest).release k } := by
  change execRowRepairDone k s = _
  rw [execRowRepairDone, repairing]

theorem exec_rowRepairDone_idle {s : State} {k : Nat} (repairing : (s.dev.mem.stack k).repairing = []) : exec (.rowRepairDone k) s = .next s := by
  change execRowRepairDone k s = _
  rw [execRowRepairDone, repairing]

theorem exec_frameCopyDone {s : State} {k e : Nat} (copying : ((s.dev.mem.stack k).remap.get {} e).state = .copy) : exec (.frameCopyDone k e) s =
    .next { s with dev := (s.dev.endCopy k e ((s.dev.mem.stack k).remap.get {} e).frame).release k } :=
  congrArg Host.Outcome.next (if_neg (not_not_intro copying))

theorem exec_frameCopyDone_other {s : State} {k e : Nat} (other : ((s.dev.mem.stack k).remap.get {} e).state ≠ .copy) :
    exec (.frameCopyDone k e) s = .next s := congrArg Host.Outcome.next (if_pos other)

/-- Settles O23. -/
theorem memoryStaysCanonical : Obligations.MemoryStaysCanonical := by
  unfold Obligations.MemoryStaysCanonical
  rintro c s t command wf run
  rcases command with ⟨r, u, p, rfl⟩ | ⟨k, rfl⟩ | ⟨k, f, rfl⟩ | ⟨k, i, u, rfl⟩ | ⟨k, x, rfl⟩ | ⟨g, rfl⟩ | ⟨k, e, rfl⟩
  · change execMemoryRequest r u p s = _ at run
    unfold execMemoryRequest at run
    split at run <;> cases run
    · exact (congrArg Mem.wf (Dev.mem_noStack s.dev r)).trans wf
    · refine Dev.wf_request (Mem.wf_upset ?_) r u.again p
      cases p <;> exact wf
  · cases repairing : (s.dev.mem.stack k).repairing with
    | nil =>
      cases (exec_rowRepairDone_idle repairing).symm.trans run
      exact wf
    | cons p rest =>
      have kept := Dev.wf_release (Dev.wf_endRepair wf k p.1 p.2 rest) k
      rwa [← Host.Outcome.next.inj ((exec_rowRepairDone repairing).symm.trans run)]
  · by_cases filling : f ∈ (s.dev.mem.stack k).filling
    · have kept := Dev.wf_release (Dev.wf_endFill wf k f) k
      rwa [← Host.Outcome.next.inj ((exec_zeroFillDone filling).symm.trans run)]
    · cases (exec_zeroFillDone_other filling).symm.trans run
      exact wf
  · change execPatrolScrub k i u s = _ at run
    unfold execPatrolScrub at run
    dsimp only at run
    split at run <;> cases run
    · exact wf
    · exact Dev.wf_readAtom (d := { s.dev with mem := s.dev.mem.upset _ u }) (Mem.wf_upset wf) _ _ _
  · change execTemperatureSample k x s = _ at run
    unfold execTemperatureSample at run
    have sampled := Dev.wf_sampleStack wf k x
    split at run
    · cases run
      exact wf
    · dsimp only at run
      cases run
      dsimp only
      split
      · rwa [(Dev.sendStatus_keeps _).1]
      · exact sampled
  · cases run
    exact Dev.wf_selfRefreshExit wf _
  · by_cases copying : ((s.dev.mem.stack k).remap.get {} e).state = .copy
    · have kept := Dev.wf_release (Dev.wf_endCopy wf k e ((s.dev.mem.stack k).remap.get {} e).frame) k
      rwa [← Host.Outcome.next.inj ((exec_frameCopyDone copying).symm.trans run)]
    · cases (exec_frameCopyDone_other copying).symm.trans run
      exact wf

/-! ## What a repair records (R360, R361) -/

theorem Dev.dies_scrubAtom (d : Dev) (b : Nat) : (d.scrubAtom b).mem.dies = d.mem.dies := by
  unfold Dev.scrubAtom
  dsimp only
  split <;> rfl

/-- The record of a repair goes to the stack of the address whose accesses reach the row: where a remap entry names a frame outside its
stack, that is another stack. -/
theorem Dev.endRepair_recorded (d : Dev) (x c spare : Nat) (rest : List (Nat × Nat)) {y : Nat}
    (recorded : stackOf (d.mem.unlocate ((x * 2 ^ 36 + c * 1024) % 2 ^ 40)) = y) (other : y ≠ x) :
    ((d.endRepair x c spare rest).mem.stack y).faultKind = 5 ∧
    ((d.endRepair x c spare rest).mem.stack x).held = (d.mem.stack x).held := by
  unfold Dev.endRepair
  dsimp only
  generalize (x * 2 ^ 36 + c * 1024) % 2 ^ 40 = a at *
  have dies : ((List.range 16).foldl (fun d i => d.scrubAtom (a + 64 * i)) d).mem.dies = d.mem.dies :=
    foldl_leaves (fun d : Dev => d.mem.dies) (fun d i => Dev.dies_scrubAtom d _) _ d
  generalize (List.range 16).foldl (fun d i => d.scrubAtom (a + 64 * i)) d = e at *
  have stacks_ (y : Nat) : e.mem.stack y = d.mem.stack y := by
    unfold Mem.stack
    rw [dies]
  have unlocate : e.mem.unlocate a = d.mem.unlocate a := by simp only [Mem.unlocate, Mem.spareBase, stacks_]
  constructor
  · simp [Dev.recordAt, Dev.stack_updStack, unlocate, recorded, other]
  · simp [Dev.recordAt, Dev.stack_updStack, unlocate, recorded, Ne.symm other, stacks_]

theorem Dev.release_idle {d : Dev} {x : Nat} (idle : (d.mem.stack x).held = []) :
    d.release x = d.updStack x fun k => { k with held := [] } := by
  unfold Dev.release
  rw [idle]
  rfl

theorem Dev.stack_release_other {d : Dev} {x y : Nat} (idle : (d.mem.stack x).held = []) (other : y ≠ x) :
    (d.release x).mem.stack y = d.mem.stack y := by
  rw [Dev.release_idle idle, Dev.stack_updStack, if_neg other]

theorem State.dev_eq_of_next {s : State} {d e : Dev}
    (h : (.next { s with dev := d } : Host.Outcome State Fault Refusal) = .next { s with dev := e }) : d = e :=
  congrArg State.dev (Host.Outcome.next.inj h)

theorem State.released_eq {s : State} {d : Dev} {k c spare : Nat} {rest : List (Nat × Nat)} (repairing : (s.dev.mem.stack k).repairing = (c, spare) :: rest)
    (run : exec (.rowRepairDone k) s = .next { s with dev := d.release k }) : (s.dev.endRepair k c spare rest).release k = d.release k :=
  State.dev_eq_of_next ((exec_rowRepairDone repairing).symm.trans run)

/-- A state whose stack 0 repairs row 62,324,736, the first of its spare pool, while remap entry 0, ACTIVE, names frame 2^20: a number of
21 bits, which no write of MEM_FRAME_REMAP stores. -/
def wideRemap : State := { State.reset with dev := { State.reset.dev with mem := { dies :=
  [(0, { repairing := [(62324736, 0)], remap := [(0, ⟨2 ^ 20, .active⟩)] })] } } }

/-- Refutes O24: a repair of the row in `wideRemap` is recorded in stack 1, since frame 2^20 of stack 0 lies there, although the first clause
leaves every stack but 0 as it was. -/
theorem not_dieWorkEnds : ¬Obligations.DieWorkEnds := by
  unfold Obligations.DieWorkEnds
  rintro ⟨repair, -⟩
  have repairing : (wideRemap.dev.mem.stack 0).repairing = [(62324736, 0)] := rfl
  obtain ⟨d, run, -, -, -, -, -, held, -, others⟩ := repair wideRemap 0 62324736 0 [] (by decide) (by decide) repairing
  obtain ⟨recorded, ended⟩ := Dev.endRepair_recorded wideRemap.dev 0 62324736 0 [] (y := 1) (by decide) (by decide)
  have same := State.released_eq repairing run
  have stack := congrArg (fun d : Dev => (d.mem.stack 1).faultKind) same
  rw [Dev.stack_release_other ended (by decide), Dev.stack_release_other held (by decide), others 1 (by decide), recorded] at stack
  exact absurd stack (by decide)

/-! ## Temperature (R355, R356) -/

/-- The table of R355, read in order. -/
theorem Thermal.next_eq (old : Thermal) (c : Nat) : old.next c =
    if 105 < c then .protect else if old = .protect ∧ 100 ≤ c then .protect
    else if 100 < c then .capped else if old = .capped ∧ 98 < c then .capped
    else if 95 < c then .refresh4x else if old = .refresh4x ∧ 93 < c then .refresh4x
    else if 85 < c then .refresh2x else if old = .refresh2x ∧ 83 < c then .refresh2x else .normal := by
  cases old
  all_goals grind [Thermal.next, Thermal.entered, Thermal.code, Thermal.keeps]

/-- The device after a sample, before the requests that waited for PROTECT to end are served (R355). -/
def Dev.sampled (d : Dev) (x c : Nat) : Dev :=
  let old := (d.mem.stack x).thermal
  let new := old.next c
  let d := d.updStack x fun k =>
    { k with thermal := new, temp := c, tempMax := max k.tempMax c, cooled := if old ≠ .normal ∧ new = .normal then some d.slow else k.cooled }
  let d := if new = .capped ∧ old ≠ .capped then d.setLeaf (.mem x) 4 else d
  let d := if new = .protect ∧ old ≠ .protect then d.setLeaf (.mem x) 5 else d
  if new ≠ .normal then { d with qlk := { d.qlk with stepThermal := true } } else d

theorem Dev.sampleStack_eq (d : Dev) (x c : Nat) : d.sampleStack x c =
    if (d.mem.stack x).thermal = .protect ∧ (d.mem.stack x).thermal.next c ≠ .protect then (d.sampled x c).release x else d.sampled x c := rfl

theorem Dev.sampled_mem (d : Dev) (x c : Nat) : (d.sampled x c).mem = d.mem.updStack x fun k => { k with
    thermal := (d.mem.stack x).thermal.next c, temp := c, tempMax := max k.tempMax c
    cooled := if (d.mem.stack x).thermal ≠ .normal ∧ (d.mem.stack x).thermal.next c = .normal then some d.slow else k.cooled } := by
  simp only [Dev.sampled, apply_ite Dev.mem, ite_self, Dev.setLeaf, Dev.updStack]

theorem Dev.sampled_rest (d : Dev) (x c : Nat) : (d.sampled x c).seats = d.seats ∧ (d.sampled x c).board = d.board := by
  constructor
  · simp only [Dev.sampled, apply_ite Dev.seats, ite_self, Dev.setLeaf, Dev.updStack]
  · simp only [Dev.sampled, apply_ite Dev.board, ite_self, Dev.setLeaf, Dev.updStack]

theorem Dev.leaf_qlk_if (c : Prop) [Decidable c] (d : Dev) (q : Qlk) (r : LeafReg) : (if c then { d with qlk := q } else d).leaf r = d.leaf r := by
  split <;> rfl

/-- Entering CAPPED or PROTECT sets its leaf (R356). -/
theorem Dev.sampled_leaf (d : Dev) (x c : Nat) :
    ((d.mem.stack x).thermal.next c = .capped → (d.mem.stack x).thermal ≠ .capped → ((d.sampled x c).leaf (.mem x)).testBit 4 = true) ∧
    ((d.mem.stack x).thermal.next c = .protect → (d.mem.stack x).thermal ≠ .protect → ((d.sampled x c).leaf (.mem x)).testBit 5 = true) := by
  unfold Dev.sampled
  simp only [Dev.leaf_qlk_if]
  constructor
  · intro new old
    rw [if_neg (by simp [new]), if_pos ⟨new, old⟩]
    exact Dev.testBit_leaf_setLeaf _ _ _
  · intro new old
    rw [if_pos ⟨new, old⟩]
    exact Dev.testBit_leaf_setLeaf _ _ _

/-- What a sample does to a stack that holds nothing (R355, R356): serving what waited then changes nothing more. -/
theorem Dev.sampleStack_spec {d : Dev} {x : Nat} (c : Nat) (idle : (d.mem.stack x).held = []) :
    ((d.sampleStack x c).mem.stack x).thermal = (d.mem.stack x).thermal.next c ∧
    ((d.sampleStack x c).mem.stack x).temp = c ∧ ((d.sampleStack x c).mem.stack x).tempMax = max (d.mem.stack x).tempMax c ∧
    (∀ r, (d.sampleStack x c).leaf r = (d.sampled x c).leaf r) ∧
    (d.sampleStack x c).mem.cells = d.mem.cells ∧ (∀ y, y ≠ x → (d.sampleStack x c).mem.stack y = d.mem.stack y) ∧
    (d.sampleStack x c).seats = d.seats ∧ (d.sampleStack x c).board = d.board := by
  obtain ⟨seats, board⟩ := d.sampled_rest x c
  have mem := d.sampled_mem x c
  have stack (y : Nat) := (congrArg (fun m : Mem => m.stack y) mem).trans (Mem.stack_updStack _ _ _ _)
  have cells : (d.sampled x c).mem.cells = d.mem.cells := by rw [mem, Mem.cells_updStack]
  have held : ((d.sampled x c).mem.stack x).held = [] := by rw [stack, if_pos rfl, idle]
  rw [Dev.sampleStack_eq]
  split
  · rw [Dev.release_idle held]
    refine ⟨?_, ?_, ?_, fun r => rfl, cells, fun y other => ?_, seats, board⟩
    · rw [Dev.stack_updStack, if_pos rfl, stack, if_pos rfl]
    · rw [Dev.stack_updStack, if_pos rfl, stack, if_pos rfl]
    · rw [Dev.stack_updStack, if_pos rfl, stack, if_pos rfl]
    · rw [Dev.stack_updStack, if_neg other, stack, if_neg other]
  · refine ⟨?_, ?_, ?_, fun r => rfl, cells, fun y other => ?_, seats, board⟩
    · rw [stack, if_pos rfl]
    · rw [stack, if_pos rfl]
    · rw [stack, if_pos rfl]
    · rw [stack, if_neg other]

/-- Reporting a change of CAPPED or PROTECT (R472) touches no stack. -/
theorem exec_temperatureSample {s : State} {x : Nat} (stack : x < 12) (c : Nat) : ∃ d, exec (.temperatureSample x c) s = .next { s with dev := d } ∧
    d.mem = (s.dev.sampleStack x c).mem ∧ d.seats = (s.dev.sampleStack x c).seats ∧ d.board = (s.dev.sampleStack x c).board ∧
    d.leaf (.mem x) = (s.dev.sampleStack x c).leaf (.mem x) := by
  refine ⟨_, congrArg Host.Outcome.next (if_neg (Nat.not_le.2 stack)), ?_⟩
  split
  · obtain ⟨mem, seats, board, leaf⟩ := Dev.sendStatus_keeps (s.dev.sampleStack x c)
    exact ⟨mem, seats, board, leaf _ (by simp [LeafReg.key]; omega)⟩
  · exact ⟨rfl, rfl, rfl, rfl⟩

/-- Settles O25. -/
theorem stackTemperature : Obligations.StackTemperature := by
  unfold Obligations.StackTemperature
  refine ⟨fun s k c stack idle => ?_, fun s k ready => congrArg Host.Outcome.next (if_pos ready)⟩
  obtain ⟨d, run, mem, seats, board, leaf⟩ := exec_temperatureSample stack c
  obtain ⟨thermal, temp, tempMax, leaves, cells, others, seats', board'⟩ := Dev.sampleStack_spec c idle
  obtain ⟨capped, protect⟩ := Dev.sampled_leaf s.dev k c
  refine ⟨_, run, ?_⟩
  dsimp only
  rw [mem, seats, board, leaf, leaves, thermal]
  exact ⟨Thermal.next_eq _ _, temp, tempMax, capped, protect, cells, others, seats', board', rfl⟩

/-! ## Retirement (R364, R365) -/

theorem exec_memSpareBaseWrite {s : State} {k v : Nat} (ready : s.ready = true) (held : s.dev.layout = none) :
    exec (.memSpareBaseWrite k v) s = .next
      (if (∀ e ∈ (s.dev.mem.stack k).remap, e.2.state = .free) ∧ v % 2 ^ 20 + 8192 ≤ 1048576 then
        { s with dev := s.dev.updStack k fun x => { x with spareBase := some (v % 2 ^ 20) } }
      else s.setLeaf (.mem k) 8) := by
  have taken : ((s.dev.mem.stack k).remap.all (fun e => e.2.state == .free) && decide (v % 2 ^ 20 + 8192 ≤ 1048576)) = true ↔
      (∀ e ∈ (s.dev.mem.stack k).remap, e.2.state = .free) ∧ v % 2 ^ 20 + 8192 ≤ 1048576 := by
    simp [List.all_eq_true]
  refine congrArg Host.Outcome.next ((State.if_not_ready ready _ _).trans ((if_neg (by simp [Dev.held, held])).trans ?_))
  by_cases h : (∀ e ∈ (s.dev.mem.stack k).remap, e.2.state = .free) ∧ v % 2 ^ 20 + 8192 ≤ 1048576
  · rw [if_pos h]
    exact if_pos (taken.2 h)
  · rw [if_neg h]
    exact if_neg (mt taken.1 h)

theorem exec_frameRemapWrite_copy {s : State} {k e v : Nat} (ready : s.ready = true) (free : ((s.dev.mem.stack k).remap.get {} e).state = .free)
    (copy : v / 2 ^ 28 % 4 = 1) : exec (.frameRemapWrite k e v) s = .next
      (if s.dev.mem.remapOk k e (v % 2 ^ 20) then
        { s with dev := s.dev.updStack k fun x => { x with remap := SMap.put {} x.remap e ⟨v % 2 ^ 20, .copy⟩ } }
      else s.setLeaf (.mem k) 8) :=
  congrArg Host.Outcome.next ((State.if_not_ready ready _ _).trans ((if_neg (not_not_intro free)).trans (if_neg (not_not_intro copy))))

theorem exec_frameRemapWrite_used {s : State} {k e v : Nat} (ready : s.ready = true) (used : ((s.dev.mem.stack k).remap.get {} e).state ≠ .free) :
    exec (.frameRemapWrite k e v) s = .next (s.setLeaf (.mem k) 8) :=
  congrArg Host.Outcome.next ((State.if_not_ready ready _ _).trans (if_pos used))

/-- A frame below the spare pool, not pinned and in no other copy, passes the checks of R365. -/
theorem Mem.remapOk_of {m : Mem} {k e f : Nat} (below : f < m.spareBase k) (unpinned : (m.stack k).pinOf f = none)
    (single : ∀ x ∈ (m.stack k).remap, x.1 ≠ e → x.2.state = .copy → x.2.frame ≠ f) : m.remapOk k e f = true := by
  have outside : (decide (m.spareBase k ≤ f) && decide (f < m.spareBase k + 8192)) = false := by simp [below]
  have alone : ((m.stack k).remap.any fun x => x.1 != e && x.2.state == .copy && x.2.frame == f) = false := by
    simpa [List.any_eq_false] using single
  unfold Mem.remapOk
  dsimp only
  rw [outside, unpinned, alone]
  rfl

/-- Settles O26. -/
theorem retirementRegisters : Obligations.RetirementRegisters := by
  unfold Obligations.RetirementRegisters
  refine ⟨fun s k v ready held => exec_memSpareBaseWrite ready held, fun s k v ready active => ?_,
    fun s k e v ready free copy => exec_frameRemapWrite_copy ready free copy, fun s k e v ready used => exec_frameRemapWrite_used ready used,
    fun s k e f below unpinned single => Mem.remapOk_of below unpinned single⟩
  have active : (!s.dev.held) = true := by simpa [Dev.held, Option.isSome_iff_ne_none] using active
  exact congrArg Host.Outcome.next ((State.if_not_ready ready _ _).trans (if_pos active))

/-! ## The regulator (R343, R355) -/

/-- A table rebuilt from its own entries, front entry last, by a function of key and value that keeps the default. -/
theorem SMap.get_foldr_put_key {α : Type} [DecidableEq α] (d : α) (g : Nat → α → α) (hg : ∀ k, g k d = d) (k : Nat) :
    ∀ m : SMap α, SMap.get d (m.foldr (fun p t => SMap.put d t p.1 (g p.1 p.2)) []) k = g k (SMap.get d m k)
  | [] => (hg k).symm
  | (j, v) :: t => by
    simp only [List.foldr_cons, SMap.get_put, SMap.get]
    by_cases h : k = j
    · simp [h]
    · simp [h, Ne.symm h, SMap.get_foldr_put_key d g hg k t]

theorem Dev.issueReady_idle {d : Dev} (idle : d.reg.queue = []) : d.issueReady = d := by
  unfold Dev.issueReady
  rw [idle]
  dsimp only [List.foldl_nil]
  rw [← idle]

/-- A bucket gains, and none rises above its cap. -/
theorem Dev.level_gainAll (d : Dev) (level cycles k : Nat) : (d.gainAll level cycles).reg.level k =
    min bucketCap (d.reg.level k + (cycles * d.gain level k : Nat)) := by
  have gained := SMap.get_foldr_put_key (0 : Int) (fun k v => min 0 (v + (cycles * d.gain level k : Nat))) (fun k => by omega) k d.reg.buckets
  have level_ : (d.gainAll level cycles).reg.level k = bucketCap + min 0 (d.reg.buckets.get 0 k + (cycles * d.gain level k : Nat)) :=
    congrArg (bucketCap + ·) gained
  rw [level_, Regulator.level]
  omega

/-- Settles O27. -/
theorem bucketGains : Obligations.BucketGains := by
  unfold Obligations.BucketGains
  intro s cycles idle
  have run : exec (.requestIssue cycles) s = .next { s with dev := s.dev.gainAll s.pwr.level cycles } := by
    change execRequestIssue cycles s = _
    rw [execRequestIssue, Dev.issueReady_idle (by exact idle)]
  exact ⟨_, run, fun k => Dev.level_gainAll s.dev s.pwr.level cycles k, rfl, rfl, rfl, rfl⟩

end Sys2Proof.Machine
end

section
/-! SUPPORT. Ring commands, slot and mailbox registers, doorbells (04). -/

namespace Sys2Proof.Machine

/-! ## Ring commands (R129 to R131) -/

/-- An event of a leaf register clears no leaf. -/
theorem Dev.testBit_leaf_setLeaf_mono {d : Dev} {q : LeafReg} {b : Nat} (r : LeafReg) (k : Nat) (h : (d.leaf q).testBit b = true) :
    ((d.setLeaf r k).leaf q).testBit b = true := by
  by_cases same : q.key = r.key
  · have leaf : (d.setLeaf r k).leaf q = d.leaf q ||| 2 ^ k := by
      simp [Dev.leaf, Dev.setLeaf, same]
    rw [leaf, Nat.testBit_or, h, Bool.true_or]
  · rwa [Dev.leaf_setLeaf_other d k same]

/-- The leaves of a ring's event (R168). -/
theorem Dev.ringLeaf_spec (d : Dev) (r b : Nat) : ((d.ringLeaf r b).leaf .rng).testBit b = true ∧
    ((d.ringRec r).seat < 64 → ((d.ringLeaf r b).leaf (.vfRing (d.ringRec r).seat)).testBit (b + 1) = true) ∧
    (d.ringLeaf r b).ringInfo = r ∧ (d.ringLeaf r b).rings = d.rings ∧ (d.ringLeaf r b).board = d.board ∧
    d.ringLeaf r b = { d with ringInfo := r, leaves := (d.ringLeaf r b).leaves, recent := (d.ringLeaf r b).recent } := by
  have rec_ : (({ d with ringInfo := r } : Dev).setLeaf .rng b).ringRec r = d.ringRec r := rfl
  unfold Dev.ringLeaf
  dsimp only
  rw [rec_]
  by_cases assigned : (d.ringRec r).assigned = true
  · rw [if_pos assigned]
    exact ⟨Dev.testBit_leaf_setLeaf_mono _ _ (Dev.testBit_leaf_setLeaf _ _ _), fun _ => Dev.testBit_leaf_setLeaf _ _ _, rfl, rfl, rfl, rfl⟩
  · rw [if_neg assigned]
    exact ⟨Dev.testBit_leaf_setLeaf _ _ _, fun h => absurd (decide_eq_true h) assigned, rfl, rfl, rfl, rfl⟩

theorem Dev.ringBusy_iff (d : Dev) (i : Nat) : d.ringBusy i = true ↔ ∃ p ∈ d.board, p.ring = i := by
  have places : d.ringBusy i = !(d.board.filter fun p => p.ring == i).isEmpty := rfl
  rw [places]
  simp [List.filter_eq_nil_iff]

theorem Dev.ringBusy_eq_false {d : Dev} {i : Nat} (idle : ∀ p ∈ d.board, p.ring ≠ i) : d.ringBusy i = false :=
  Bool.eq_false_iff.2 fun busy => by
    obtain ⟨p, here, same⟩ := (d.ringBusy_iff i).1 busy
    exact idle p here same

theorem exec_ringStop {s : State} (ready : s.ready = true) (i : Nat) : exec (.ringStop i) s = .next { s with
    dev := if (s.dev.ring i).state = .running then s.dev.setRing i { s.dev.ring i with state := .stopped } else s.dev.badRing i } :=
  congrArg Host.Outcome.next (State.if_not_ready ready _ _)

theorem exec_ringStart {s : State} (ready : s.ready = true) (i : Nat) : exec (.ringStart i) s = .next { s with
    dev := if (s.dev.ring i).state = .stopped ∨ (s.dev.ring i).state = .hostLost then s.dev.setRing i { s.dev.ring i with state := .running }
      else s.dev.badRing i } :=
  congrArg Host.Outcome.next (State.if_not_ready ready _ _)

theorem exec_ringReset {s : State} (ready : s.ready = true) (i : Nat) : exec (.ringReset i) s = .next { s with
    dev := if (s.dev.ring i).state = .stopped ∧ s.dev.ringBusy i = false then s.dev.setRing i ((s.dev.ring i).startEmpty .stopped)
      else s.dev.badRing i } :=
  congrArg Host.Outcome.next (State.if_not_ready ready _ _)

/-- A command without its row of R129 is ignored and sets BAD_COMMAND. -/
theorem exec_badRing {s : State} {i : Nat} {c : Instr} (ready : s.ready = true)
    (bad : (c = .ringStop i ∧ (s.dev.ring i).state ≠ .running) ∨
      (c = .ringStart i ∧ (s.dev.ring i).state ≠ .stopped ∧ (s.dev.ring i).state ≠ .hostLost) ∨
      (c = .ringReset i ∧ ((s.dev.ring i).state ≠ .stopped ∨ ∃ p ∈ s.dev.board, p.ring = i))) :
    exec c s = .next { s with dev := s.dev.badRing i } := by
  rcases bad with ⟨rfl, other⟩ | ⟨rfl, stopped, lost⟩ | ⟨rfl, blocked⟩
  · rw [exec_ringStop ready, if_neg other]
  · rw [exec_ringStart ready, if_neg (not_or.2 ⟨stopped, lost⟩)]
  · rw [exec_ringReset ready, if_neg]
    rintro ⟨stopped, idle⟩
    rcases blocked with other | busy
    · exact other stopped
    · exact absurd ((s.dev.ringBusy_iff i).2 busy) (by simp [idle])

theorem exec_ringModeWrite {s : State} {i : Nat} (ready : s.ready = true) (assigned : (s.dev.ringRec i).seat < 64)
    (vf : s.dev.vfOpen (s.dev.ringRec i).seat = true) (v : Nat) : exec (.ringModeWrite i v) s = .next { s with
      dev := if (s.dev.ring i).state = .stopped ∧ s.dev.ringBusy i = false then
          s.dev.setRing i { s.dev.ring i with smallPath := v.testBit 0, notify := v / 2 % 4, append := v.testBit 3 }
        else s.dev.badRing i } :=
  congrArg Host.Outcome.next (if_neg (by simp [ready, vf, RingRec.assigned, assigned]))

/-! ## Zeroing (R130, log 139) -/

/-- The old lines of a ring's completion ring (log 139). -/
def RingRec.holds (r : RingRec) (l : Line) : Bool :=
  l.tag == tagOf r.ctxIx && decide (r.completeBase ≤ 64 * l.atom) && decide (64 * l.atom < r.completeBase + r.completeBytes)

theorem RingRec.holds_iff (r : RingRec) (l : Line) : r.holds l = true ↔
    l.tag = tagOf r.ctxIx ∧ r.completeBase ≤ 64 * l.atom ∧ 64 * l.atom < r.completeBase + r.completeBytes := by
  simp [RingRec.holds, and_assoc]

theorem Dev.mem_dropLines (d : Dev) (p : Line → Bool) (l : Line) : l ∈ (d.dropLines p).cache.lines ↔ l ∈ d.cache.lines ∧ p l = false := by
  simp [Dev.dropLines, Cache.drop]

theorem exec_ringZeroingDone_waits {s : State} {i : Nat} (assigned : (s.dev.ringRec i).seat < 64)
    (blocked : s.dev.rangeBlocked (s.dev.ringRec i).completeBase (s.dev.ringRec i).completeBytes = true) :
    exec (.ringZeroingDone i) s = .next s :=
  congrArg Host.Outcome.next (if_pos (by simp [RingRec.assigned, assigned, blocked]))

theorem exec_ringZeroingDone {s : State} {i : Nat} (zeroing : (s.dev.ring i).zeroing = true)
    (free : (s.dev.ringRec i).seat < 64 → s.dev.rangeBlocked (s.dev.ringRec i).completeBase (s.dev.ringRec i).completeBytes = false) :
    exec (.ringZeroingDone i) s = .next { s with
      dev := (s.dev.setRing i { s.dev.ring i with zeroing := false }).zeroRing (s.dev.ringRec i) } := by
  refine congrArg Host.Outcome.next (if_neg ?_)
  by_cases assigned : (s.dev.ringRec i).seat < 64 <;> simp [RingRec.assigned, zeroing, assigned, free]

/-- A ring that is zeroed has nothing to take (R130). -/
theorem Dev.toVisit_zeroing {d : Dev} {i : Nat} (zeroing : (d.ring i).zeroing = true) : d.toVisit i = false := by
  have none_ : d.pending i = false := by simp [Dev.pending, zeroing]
  unfold Dev.toVisit
  split
  · simp [Dev.takeable, none_]
  · exact none_

theorem exec_fetchRound_zeroing {s : State} {slot : Nat} (fc : Nat) (par : List Nat)
    (zeroing : ∀ i ∈ s.dev.slotRings slot, (s.dev.ring i).zeroing = true) : exec (.fetchRound slot fc par) s = .next s := by
  have round : ∀ l : List Nat, (∀ i ∈ l, (s.dev.ring i).zeroing = true) → l.foldl (Dev.fetchRing slot par) s.dev = s.dev := by
    intro l
    induction l with
    | nil => exact fun _ => rfl
    | cons i l ih =>
      intro h
      have skip : Dev.fetchRing slot par s.dev i = s.dev := if_pos (by rw [Dev.toVisit_zeroing (h i (by simp))]; rfl)
      rw [List.foldl_cons, skip, ih fun j hj => h j (List.mem_cons_of_mem _ hj)]
  change execFetchRound slot fc par s = _
  rw [execFetchRound, round _ zeroing, ite_self]

/-- Settles O28. -/
theorem ringCommands : Obligations.RingCommands := by
  unfold Obligations.RingCommands
  refine ⟨fun s i ready => ⟨fun running => ?_, fun idle => ?_, fun stopped idle => ?_, fun c bad => ?_⟩,
    fun s i v ready assigned vf => ⟨fun stopped idle => ?_, fun bad => ?_, ?_⟩,
    fun s i zeroing => ⟨fun assigned blocked => exec_ringZeroingDone_waits assigned blocked, fun assigned free => ?_, fun unassigned => ?_⟩,
    fun s slot fc par zeroing => exec_fetchRound_zeroing fc par zeroing⟩
  · rw [exec_ringStop ready, if_pos running]
  · rw [exec_ringStart ready, if_pos idle]
  · refine ⟨(s.dev.ring i).startEmpty .stopped, ?_, rfl, rfl, rfl, rfl, rfl, rfl, rfl, rfl, rfl, rfl⟩
    rw [exec_ringReset ready, if_pos ⟨stopped, Dev.ringBusy_eq_false idle⟩]
  · obtain ⟨leaf, vfLeaf, info, rings, -, rest⟩ := s.dev.ringLeaf_spec i 2
    exact ⟨_, exec_badRing ready bad, leaf, info, rings, vfLeaf, congrArg (fun d => { s with dev := d }) rest⟩
  · refine ⟨_, ?_, rfl⟩
    rw [exec_ringModeWrite ready assigned vf, if_pos ⟨stopped, Dev.ringBusy_eq_false idle⟩]
  · obtain ⟨-, vfLeaf, -, rings, -, -⟩ := s.dev.ringLeaf_spec i 2
    have blocked : ¬((s.dev.ring i).state = .stopped ∧ s.dev.ringBusy i = false) := by
      rintro ⟨stopped, idle⟩
      rcases bad with other | busy
      · exact other stopped
      · exact absurd ((s.dev.ringBusy_iff i).2 busy) (by simp [idle])
    refine ⟨{ s with dev := s.dev.badRing i }, ?_, vfLeaf assigned, rings⟩
    rw [exec_ringModeWrite ready assigned vf, if_neg blocked]
  · exact congrArg Host.Outcome.next (if_pos (by simp [ready, vf, RingRec.assigned, assigned]))
  · refine ⟨(s.dev.setRing i { s.dev.ring i with zeroing := false }).dropLines (s.dev.ringRec i).holds, _, exec_ringZeroingDone zeroing fun _ => free,
      if_pos (decide_eq_true assigned), ⟨_, rfl⟩, fun l => ?_⟩
    refine (Dev.mem_dropLines _ _ l).trans (and_congr Iff.rfl ?_)
    rw [← Bool.not_eq_true, RingRec.holds_iff]
    rfl
  · rw [exec_ringZeroingDone zeroing fun assigned => absurd assigned unassigned, Dev.zeroRing, if_neg (by simp [RingRec.assigned, unassigned])]

/-! ## Slot and mailbox registers (R147, R151, R169) -/

theorem exec_mailboxWrite {s : State} {n off : Nat} {bs : List Byte} (ready : s.ready = true) (vf : s.dev.vfOpen n = true)
    (size : bs.length = 4 ∨ bs.length = 8) (aligned : off % bs.length = 0) (inside : off + bs.length ≤ 4096) :
    exec (.mailboxWrite n off bs) s = .next { s with dev := s.dev.updSeat n fun k =>
      { k with mailbox := bs.zipIdx.foldl (fun m p => SMap.put 0 m (off + p.2) p.1) k.mailbox } } := by
  have size : (bs.length == 4 || bs.length == 8) = true := by simpa using size
  have aligned : (off % bs.length == 0) = true := beq_iff_eq.2 aligned
  exact congrArg Host.Outcome.next (if_pos (by rw [ready, vf, size, aligned, decide_eq_true inside]; rfl))

theorem exec_slotIdle {s : State} {i n : Nat} (seat : s.dev.slotSeat i = some n) : exec (.slotIdle i) s = .next { s with
    dev := if (s.dev.slotRings i).any s.dev.tailAhead then s.dev.updSlot i fun k => { k with idle := !(s.dev.slotRings i).any s.dev.tailAhead }
      else (s.dev.updSlot i fun k => { k with idle := !(s.dev.slotRings i).any s.dev.tailAhead }).showStall i .idle 0 } :=
  congrArg Host.Outcome.next (if_neg (by simp [seat]))

/-- Settles O29. -/
theorem slotAndMailboxRegisters : Obligations.SlotAndMailboxRegisters := by
  unfold Obligations.SlotAndMailboxRegisters
  refine ⟨fun s i v ready low high => congrArg Host.Outcome.next (if_pos ⟨ready, low, high⟩),
    fun s i v outside => congrArg Host.Outcome.next (if_neg ?_), fun s n off bs ready vf size aligned inside => ?mailbox,
    fun s i n seat => ⟨fun quiet => ?_, fun busy => ?_⟩⟩
  case mailbox =>
    have box (k : Nat) : SMap.get 0 ((s.dev.updSeat n fun k =>
        { k with mailbox := bs.zipIdx.foldl (fun m p => SMap.put 0 m (off + p.2) p.1) k.mailbox }).seat n).mailbox k =
        if off ≤ k ∧ k < off + bs.length then bs.getD (k - off) 0 else SMap.get 0 (s.dev.seat n).mailbox k := by
      rw [Dev.seat_updSeat, if_pos rfl]
      exact SMap.get_foldl_zipIdx off bs 0 _ k
    refine ⟨_, exec_mailboxWrite ready vf size aligned inside, fun i h => ?_, fun k outside => ?_, ?_⟩
    · refine (box _).trans ((if_pos ⟨by omega, by omega⟩).trans ?_)
      simp [h]
    · exact (box k).trans (if_neg (by omega))
    · dsimp only
      rw [Dev.seat_updSeat, if_pos rfl]
      rfl
  · rintro ⟨-, low, high⟩
    omega
  · have none_ : (s.dev.slotRings i).any s.dev.tailAhead = false := by simpa using quiet
    refine ⟨_, exec_slotIdle seat, ?_⟩
    rw [none_]
    simp [Dev.showStall, Dev.slot_updSlot]
  · have some_ : (s.dev.slotRings i).any s.dev.tailAhead = true := by simpa using busy
    rw [exec_slotIdle seat, some_]
    rfl

/-! ## Doorbells (R137 to R139, R148) -/

theorem exec_submissionDoorbell {s : State} {n k i : Nat} (ready : s.ready = true) (vf : s.dev.vfOpen n = true) (ring : s.dev.ringOf n k = some i)
    (v : Nat) : exec (.submissionDoorbell n k v) s = .next { s with dev := s.dev.submit i v } := by
  refine congrArg Host.Outcome.next ((if_neg (by simp [ready, vf])).trans ?_)
  rw [ring]

theorem exec_completionDoorbell {s : State} {n k i : Nat} (ready : s.ready = true) (vf : s.dev.vfOpen n = true) (ring : s.dev.ringOf n k = some i)
    (v : Nat) : exec (.completionDoorbell n k v) s = .next { s with dev := s.dev.consume i v } := by
  refine congrArg Host.Outcome.next ((if_neg (by simp [ready, vf])).trans ?_)
  rw [ring]

theorem exec_lostDoorbell {s : State} {n k v : Nat} {c : Instr} (ready : s.ready = true) (vf : s.dev.vfOpen n = true)
    (ring : s.dev.ringOf n k = none) (command : c = .submissionDoorbell n k v ∨ c = .completionDoorbell n k v) :
    exec c s = .next { s with dev := s.dev.lostDoorbell n v } := by
  rcases command with rfl | rfl
  all_goals
    refine congrArg Host.Outcome.next ((if_neg (by simp [ready, vf])).trans ?_)
    rw [ring]

/-- A doorbell that is ignored with an error is counted, sets DOORBELL_BAD and touches no other ring (R138). -/
theorem Dev.badDoorbell_spec (d : Dev) (i : Nat) : ((d.badDoorbell i).leaf .rng).testBit 0 = true ∧
    (d.badDoorbell i).ring i = { d.ring i with dbErr := satInc32 (d.ring i).dbErr 1 } ∧
    (∀ j, j ≠ i → (d.badDoorbell i).ring j = d.ring j) ∧ (d.badDoorbell i).board = d.board := by
  obtain ⟨leaf, -, -, rings, board, -⟩ := Dev.ringLeaf_spec (d.updRing i fun r => { r with dbErr := satInc32 r.dbErr 1 }) i 0
  have ring (j : Nat) : (d.badDoorbell i).ring j = (d.updRing i fun r => { r with dbErr := satInc32 r.dbErr 1 }).ring j := by
    unfold Dev.ring Dev.badDoorbell
    rw [rings]
  refine ⟨leaf, ?_, fun j other => ?_, board⟩
  · rw [ring, Dev.ring_updRing, if_pos rfl]
  · rw [ring, Dev.ring_updRing, if_neg other]

theorem doorbellOk_iff (i v : Nat) : doorbellOk i v = true ↔ v / 2 ^ 32 % 4096 = i ∧ v / 2 ^ 44 = 0 := by simp [doorbellOk]

theorem doorbellOk_false {i v : Nat} (wrong : v / 2 ^ 32 % 4096 ≠ i ∨ v / 2 ^ 44 ≠ 0) : doorbellOk i v = false :=
  Bool.eq_false_iff.2 fun ok => by
    obtain ⟨ring, high⟩ := (doorbellOk_iff i v).1 ok
    rcases wrong with h | h
    · exact h ring
    · exact h high

theorem Dev.submit_append {d : Dev} {i : Nat} (append : (d.ring i).append = true) (v : Nat) : d.submit i v = d.probe i := if_pos append

theorem Dev.submit_wrong {d : Dev} {i v : Nat} (append : (d.ring i).append = false) (wrong : doorbellOk i v = false) :
    d.submit i v = d.badDoorbell i := (if_neg (by simp [append])).trans (if_pos (by simp [wrong]))

/-- The rows of R138 for a submission doorbell whose value names its ring. -/
theorem Dev.submit_named {d : Dev} {i v : Nat} (append : (d.ring i).append = false) (named : doorbellOk i v = true) : d.submit i v =
    if v % 2 ^ 32 = (d.ring i).tail ∨ 2 ^ 31 ≤ (v % 2 ^ 32 + 2 ^ 32 - (d.ring i).tail) % 2 ^ 32 then d
    else if 2 ^ (d.ringRec i).log2Size < (v % 2 ^ 32 + 2 ^ 32 - (d.ring i).fetched) % 2 ^ 32 then d.badDoorbell i
    else d.acceptTail i v := (if_neg (by simp [append])).trans (if_neg (by simp [named]))

theorem Dev.acceptTail_eq {d : Dev} {i v : Nat} (fresh : (d.ring i).staleReads ≠ 3) : d.acceptTail i v =
    (d.setRing i { d.ring i with tail := v % 2 ^ 32, dbSubmit := v }).updSlot (d.ringRec i).slot fun k => { k with idle := false } := by
  have ring : (((d.updRing i fun r => { r with tail := v % 2 ^ 32, dbSubmit := v }).updSlot (d.ringRec i).slot fun k =>
      { k with idle := false }).ring i).staleReads = (d.ring i).staleReads := by simp [Dev.ring_updRing]
  exact if_neg (by exact (congrArg (· ≠ 3) ring).mpr fresh)

theorem Dev.consume_wrong {d : Dev} {i v : Nat} (wrong : doorbellOk i v = false) : d.consume i v = d.badDoorbell i := if_pos (by simp [wrong])

/-- The rows of R138 for a completion doorbell whose value names its ring. -/
theorem Dev.consume_named {d : Dev} {i v : Nat} (named : doorbellOk i v = true) : d.consume i v =
    if v % 2 ^ 32 = (d.ring i).consumed ∨ 2 ^ 31 ≤ (v % 2 ^ 32 + 2 ^ 32 - (d.ring i).consumed) % 2 ^ 32 then d
    else if ((d.ring i).completed + 2 ^ 32 - (d.ring i).consumed) % 2 ^ 32 < (v % 2 ^ 32 + 2 ^ 32 - (d.ring i).consumed) % 2 ^ 32 then d.badDoorbell i
    else d.setRing i { d.ring i with consumed := v % 2 ^ 32, dbComplete := v } := if_neg (by simp [named])

/-- A count is old (R138): no step on, or 2^31 or more. -/
theorem old_count {t old : Nat} (ht : t < 2 ^ 32) (range : old < 2 ^ 32)
    (h : (t + 2 ^ 32 - old) % 2 ^ 32 = 0 ∨ 2 ^ 31 ≤ (t + 2 ^ 32 - old) % 2 ^ 32) : t = old ∨ 2 ^ 31 ≤ (t + 2 ^ 32 - old) % 2 ^ 32 :=
  h.imp_left fun zero => by omega

theorem new_count {t old : Nat} (moves : (t + 2 ^ 32 - old) % 2 ^ 32 ≠ 0) (near : (t + 2 ^ 32 - old) % 2 ^ 32 < 2 ^ 31) :
    ¬(t = old ∨ 2 ^ 31 ≤ (t + 2 ^ 32 - old) % 2 ^ 32) := by omega

/-- Settles O30. -/
theorem doorbells : Obligations.Doorbells := by
  unfold Obligations.Doorbells
  refine ⟨fun s n k i v ready vf ring => ?_, fun s n k v ready vf ring c command => ?lost⟩
  case lost =>
    exact ⟨_, exec_lostDoorbell ready vf ring command, rfl, rfl, rfl,
      Dev.testBit_leaf_setLeaf_mono _ _ (Dev.testBit_leaf_setLeaf _ _ _), Dev.testBit_leaf_setLeaf _ _ _⟩
  obtain ⟨leaf, counted, others, board⟩ := s.dev.badDoorbell_spec i
  have small : v % 2 ^ 32 < 2 ^ 32 := Nat.mod_lt _ (by decide)
  rw [exec_submissionDoorbell ready vf ring, exec_completionDoorbell ready vf ring]
  refine ⟨fun append => ?_, fun wrong c command => ?wrong, fun name high => ?named⟩
  · rw [Dev.submit_append append]
  case wrong =>
    refine ⟨{ s with dev := s.dev.badDoorbell i }, ?_, counted, leaf, others, board⟩
    have bad := doorbellOk_false wrong
    rcases command with ⟨rfl, append⟩ | rfl
    · rw [exec_submissionDoorbell ready vf ring, Dev.submit_wrong append bad]
    · rw [exec_completionDoorbell ready vf ring, Dev.consume_wrong bad]
  case named =>
    have named := (doorbellOk_iff i v).2 ⟨name, high⟩
    rw [Dev.consume_named named]
    refine ⟨fun append => ?_, fun old range => ?_, fun moves near => ⟨fun past => ?_, fun within => ?_⟩⟩
    · rw [Dev.submit_named append named]
      refine ⟨fun old range => ?_, fun moves near => ⟨fun past => ?_, fun within fresh => ?_⟩⟩
      · rw [if_pos (old_count small range old)]
      · rw [if_neg (new_count moves near), if_pos past]
        exact ⟨_, rfl, leaf, counted⟩
      · rw [if_neg (new_count moves near), if_neg (Nat.not_lt.2 within)]
        exact ⟨_, rfl, Dev.acceptTail_eq fresh⟩
    · rw [if_pos (old_count small range old)]
    · rw [if_neg (new_count moves near), if_pos past]
      exact ⟨_, rfl, leaf, counted⟩
    · rw [if_neg (new_count moves near), if_neg (Nat.not_lt.2 within)]
      exact ⟨_, rfl, rfl⟩

end Sys2Proof.Machine
end

section
/-! SUPPORT. Fetching and taking entries, completion entries and retirement (04). -/

namespace Sys2Proof.Machine

/-! ## Reading an entry (R135, R144, log 139) -/

/-- What reading entries of ring r leaves: the scoreboard, the image, every other ring, and of the ring and the slots all but the stacks
touched and the bytes read. -/
structure Dev.Fetches (r : Nat) (d e : Dev) : Prop where
  board : e.board = d.board
  nextPlace : e.nextPlace = d.nextPlace
  layout : e.layout = d.layout
  ring : ∃ t, e.ring r = { d.ring r with touched := t }
  other : ∀ j, j ≠ r → e.ring j = d.ring j
  slot : ∀ n, ∃ b, e.slot n = { d.slot n with bytes := b }

theorem Dev.WorkOnly.fetches {d e : Dev} (h : d.WorkOnly e) (r : Nat) : Dev.Fetches r d e where
  board := h.board
  nextPlace := by
    obtain ⟨m, l, k, x, s, c, n, g, q, rfl⟩ := h.rest
    rfl
  layout := h.layout
  ring := ⟨(d.ring r).touched, by unfold Dev.ring; rw [h.rings]⟩
  other j _ := by unfold Dev.ring; rw [h.rings]
  slot := h.slot

theorem Dev.Fetches.trans {r : Nat} {a b c : Dev} (h : Dev.Fetches r a b) (g : Dev.Fetches r b c) : Dev.Fetches r a c where
  board := g.board.trans h.board
  nextPlace := g.nextPlace.trans h.nextPlace
  layout := g.layout.trans h.layout
  ring := by
    obtain ⟨t, ht⟩ := h.ring
    obtain ⟨u, hu⟩ := g.ring
    exact ⟨u, by rw [hu, ht]⟩
  other j hj := (g.other j hj).trans (h.other j hj)
  slot n := by
    obtain ⟨b, hb⟩ := h.slot n
    obtain ⟨c, hc⟩ := g.slot n
    exact ⟨c, by rw [hc, hb]⟩

theorem Dev.fetches_touched (d : Dev) (r : Nat) (f : Ring → List Nat) : Dev.Fetches r d (d.updRing r fun k => { k with touched := f k }) where
  board := rfl
  nextPlace := rfl
  layout := rfl
  ring := ⟨f (d.ring r), by rw [Dev.ring_updRing, if_pos rfl]⟩
  other j hj := by rw [Dev.ring_updRing, if_neg hj]
  slot n := ⟨(d.slot n).bytes, rfl⟩

theorem Dev.fetches_readBurst (d : Dev) (r count avail : Nat) : Dev.Fetches r d (d.readBurst r count avail) := by
  unfold Dev.readBurst
  refine (Dev.fetches_touched d r fun k => insertAsc (stackOf (d.ringRec r).submitBase) k.touched).trans ?_
  exact (work_foldl (fun e : Dev => e) (fun e a => Mio.work_readAtom { dev := e } _ _ _ _) _ _ (Dev.WorkOnly.transferAtoms _ _ _ _)).fetches r

theorem Dev.work_dropOld (d : Dev) (r count : Nat) : d.WorkOnly (d.dropOld r count) := by
  unfold Dev.dropOld
  split
  · split
    · exact .refl d
    · exact .setCache d _
  · exact .refl d

theorem Dev.fetches_readEntry (d : Dev) (r count avail : Nat) : Dev.Fetches r d (d.readEntry r count avail).1 := by
  have old := (d.work_dropOld r count).fetches r
  unfold Dev.readEntry
  dsimp only
  generalize d.dropOld r count = e at old ⊢
  split
  · exact old
  · cases hit : (e.entryLine r count).isSome
    · have burst := old.trans (e.fetches_readBurst r count avail)
      simp only [Bool.false_eq_true, if_false]
      split <;> exact burst
    · simp only [if_true]
      split
      · exact old
      · exact old.trans ((Dev.WorkOnly.hitLine _ _ _ _).fetches r)

theorem Dev.generation_fetches {r : Nat} {d e : Dev} (h : Dev.Fetches r d e) : (e.ring r).generation = (d.ring r).generation := by
  obtain ⟨t, ht⟩ := h.ring
  rw [ht]

/-- A dirty line is the entry (log 139). -/
theorem Dev.readEntry_dirty {d : Dev} {r count : Nat} (avail : Nat) {l : Line} (line : d.entryLine r count = some l) (dirty : l.dirty = true) :
    (d.readEntry r count avail).2 = if l.poison = false ∧ entryFresh l.data r (d.ring r).generation count = true then .frame [l.data]
      else .stale count := by
  have kept : d.dropOld r count = d := by
    rw [Dev.dropOld, line]
    exact if_pos (by simp [Dev.lineServes, dirty])
  have gen := Dev.generation_fetches ((Dev.WorkOnly.hitLine d l .normal 1).fetches r)
  unfold Dev.readEntry
  simp only [kept, line, Option.isSome_some, Bool.not_true, Bool.false_and, Bool.false_eq_true, if_false, if_true, gen]
  cases l.poison <;> cases entryFresh l.data r (d.ring r).generation count <;> rfl

/-- Without a line, an entry whose die serves nothing is not there yet. -/
theorem Dev.readEntry_blocked {d : Dev} {r count : Nat} (avail : Nat) (line : d.entryLine r count = none)
    (blocked : d.blocked ((d.ringRec r).slotAddr count) = true) : d.readEntry r count avail = (d, .notYet) := by
  have kept : d.dropOld r count = d := by rw [Dev.dropOld, line]
  unfold Dev.readEntry
  simp only [kept, line, blocked, Option.isSome_none, Bool.not_false, Bool.true_and, if_true]

/-! ## An entry of memory (R144, R335) -/

theorem Dev.transferAtoms_keeps (d : Dev) (g : Agent) (w : Bool) (l : List Nat) :
    (d.transferAtoms g w l).mem = d.mem ∧ (d.transferAtoms g w l).cache = d.cache :=
  ⟨foldl_leaves Dev.mem (by intro b a; rfl) _ d, foldl_leaves Dev.cache (by intro b a; rfl) _ d⟩

theorem Dev.blocked_of_mem {d e : Dev} (h : e.mem = d.mem) (a : Nat) : e.blocked a = d.blocked a := by
  unfold Dev.blocked
  rw [h]

/-- An atom that no line holds, of a frame that holds data and admits the tag, clean and served, reads from memory as stored. -/
theorem Mio.readMem_clean {m : Mio} {g : Agent} {a : Nat} (going : m.waits = false) (free : m.dev.blocked a = false)
    (admits : (m.dev.mem.frame (stackOf a) (frameOf a)).admits (tagOf g.ctx) = true) (filled : (m.dev.mem.frame (stackOf a) (frameOf a)).zero = false)
    (pure : m.dev.mem.isPoison a = false) (symbols : m.dev.mem.upsets.get [] (m.dev.mem.locate a / 64) = []) :
    (m.readMem g a).2 = (m.dev.mem.bytes (a / 64 * 64) 64, false) ∧ (m.readMem g a).1.dev = m.dev ∧
    (m.readMem g a).1.fault = m.fault ∧ (m.readMem g a).1.waits = false := by
  have reach : m.reach a = m.touch a := if_neg (by simp [Mio.touch, free])
  unfold Mio.readMem
  dsimp only
  rw [reach]
  simp [Mio.touch, going, admits, filled, Dev.readAtom_clean none { seat := g.seat } filled pure symbols]

/-- An allocated line is found, with the stamp that it takes. -/
theorem Dev.line_allocate_stamp {d : Dev} {l : Line} (absent : d.cache.line l.stack l.tag l.atom = none) :
    ∃ k, (d.allocate l).cache.line l.stack l.tag l.atom = some { l with stamp := k } := by
  have found (c : Cache) (h : c.line l.stack l.tag l.atom = none) (k : Nat) :
      ({ c with lines := c.lines ++ [{ l with stamp := k }], clock := k + 1 } : Cache).line l.stack l.tag l.atom = some { l with stamp := k } := by
    unfold Cache.line at h ⊢
    rw [List.find?_append, h]
    simp
  have dropped (c : Cache) (h : c.line l.stack l.tag l.atom = none) (p : Line → Bool) : (c.drop p).line l.stack l.tag l.atom = none := by
    unfold Cache.line Cache.drop at *
    rw [List.find?_eq_none] at h ⊢
    exact fun x hx => h x (List.mem_filter.1 hx).1
  unfold Dev.allocate
  dsimp only
  split
  · exact ⟨_, found _ absent _⟩
  · refine ⟨_, found _ (dropped _ ?_ _) _⟩
    rw [Dev.writeBack_cache]
    exact absent

/-- An allocated line is found. -/
theorem Dev.line_allocate {d : Dev} {l : Line} (absent : d.cache.line l.stack l.tag l.atom = none) : ∃ m, (d.allocate l).cache.line l.stack l.tag l.atom =
    some m ∧ m.data = l.data ∧ m.poison = l.poison := by
  obtain ⟨k, found⟩ := Dev.line_allocate_stamp absent
  exact ⟨_, found, rfl, rfl⟩

theorem Mio.dev_allocate (m : Mio) (l : Line) : (m.allocate l).dev = m.dev.allocate l := by
  unfold Mio.allocate
  dsimp only
  split
  · split <;> rfl
  · rfl

theorem Dev.allocKind_normal (d : Dev) (k tag atom : Nat) : d.allocKind k tag atom .normal = (d, .normal) := if_neg (by simp)

/-- A clean atom read through the cache as NORMAL leaves its line there. -/
theorem Mio.line_readAtom {m : Mio} {g : Agent} {a : Nat} (aligned : a % 64 = 0) (going : m.waits = false) (sound : m.fault = false)
    (absent : m.dev.cache.line g.stack (tagOf g.ctx) (a / 64) = none) (free : m.dev.blocked a = false)
    (admits : (m.dev.mem.frame (stackOf a) (frameOf a)).admits (tagOf g.ctx) = true) (filled : (m.dev.mem.frame (stackOf a) (frameOf a)).zero = false)
    (pure : m.dev.mem.isPoison a = false) (symbols : m.dev.mem.upsets.get [] (m.dev.mem.locate a / 64) = []) :
    ∃ l, (m.readAtom g a .normal false).1.dev.cache.line g.stack (tagOf g.ctx) (a / 64) = some l ∧ l.data = m.dev.mem.bytes a 64 ∧
      l.poison = false := by
  have atom : 64 * (a / 64) = a := by omega
  have base : a / 64 * 64 = a := by omega
  obtain ⟨value, dev, fault, waits⟩ := Mio.readMem_clean going free admits filled pure symbols
  rw [base] at value
  unfold Mio.readAtom
  dsimp only
  rw [if_neg (by simp), absent]
  dsimp only
  rw [atom, value, fault, waits, sound, dev]
  rw [if_neg (by decide), Dev.allocKind_normal, Mio.dev_allocate]
  exact Dev.line_allocate (l := ⟨g.stack, tagOf g.ctx, a / 64, m.dev.mem.bytes a 64, false, false, .normal, 0, none⟩) absent

/-- The burst of one entry (R144). -/
theorem RingRec.burst_one (r : RingRec) (count : Nat) : r.burst count 1 = [r.slotAddr count / 64] := by
  have pos : count % 2 ^ r.log2Size < 2 ^ r.log2Size := Nat.mod_lt _ (Nat.two_pow_pos _)
  have one : min (min 64 1) (2 ^ r.log2Size - count % 2 ^ r.log2Size) = 1 := by omega
  rw [RingRec.burst, one]
  rfl

/-- The conditions under which the entry at a count is read from memory as it stands there. -/
structure Dev.EntryClean (d : Dev) (r count : Nat) : Prop where
  aligned : (d.ringRec r).slotAddr count % 64 = 0
  absent : d.entryLine r count = none
  free : d.blocked ((d.ringRec r).slotAddr count) = false
  filled : (d.mem.frame (stackOf ((d.ringRec r).slotAddr count)) (frameOf ((d.ringRec r).slotAddr count))).zero = false
  admits : (d.mem.frame (stackOf ((d.ringRec r).slotAddr count)) (frameOf ((d.ringRec r).slotAddr count))).admits (tagOf (d.ringRec r).ctxIx) = true
  pure : d.mem.isPoison ((d.ringRec r).slotAddr count) = false
  symbols : d.mem.upsets.get [] (d.mem.locate ((d.ringRec r).slotAddr count) / 64) = []

theorem Dev.EntryClean.line {d : Dev} {r count : Nat} (h : d.EntryClean r count) :
    ∃ l, (d.readBurst r count 1).entryLine r count = some l ∧ l.data = d.mem.bytes ((d.ringRec r).slotAddr count) 64 ∧ l.poison = false := by
  obtain ⟨aligned, absent, free, filled, admits, pure, symbols⟩ := h
  have atom : 64 * ((d.ringRec r).slotAddr count / 64) = (d.ringRec r).slotAddr count := by omega
  have atoms : (((d.ringRec r).burst count 1).takeWhile fun a => !d.blocked (64 * a)).filter (fun a => d.misses (d.ringRec r).agent (64 * a) false) =
      [(d.ringRec r).slotAddr count / 64] := by
    have miss : d.misses (d.ringRec r).agent ((d.ringRec r).slotAddr count) false = true := by
      simpa [Dev.misses, Dev.entryLine, RingRec.agent] using absent
    rw [RingRec.burst_one]
    simp [miss, atom, free]
  have layout := (d.fetches_readBurst r count 1).layout
  unfold Dev.readBurst at layout ⊢
  dsimp only at layout ⊢
  rw [atoms, List.foldl_cons, List.foldl_nil, atom] at *
  have rec_ : ∀ e : Dev, e.layout = d.layout → e.ringRec r = d.ringRec r := fun e he => by unfold Dev.ringRec; rw [he]
  obtain ⟨mem, cache⟩ := Dev.transferAtoms_keeps (d.updRing r fun k => { k with touched := insertAsc (stackOf (d.ringRec r).submitBase) k.touched })
    (d.ringRec r).agent false [(d.ringRec r).slotAddr count / 64]
  rw [Dev.entryLine, rec_ _ layout]
  generalize (d.updRing r fun k => { k with touched := insertAsc (stackOf (d.ringRec r).submitBase) k.touched }).transferAtoms
    (d.ringRec r).agent false [(d.ringRec r).slotAddr count / 64] = e at mem cache ⊢
  have found := Mio.line_readAtom (m := { dev := e }) (g := (d.ringRec r).agent) aligned rfl rfl (by rw [cache]; exact absent)
    (by rw [Dev.blocked_of_mem mem]; exact free) (by rw [mem]; exact admits) (by rw [mem]; exact filled) (by rw [mem]; exact pure)
    (by rw [mem]; exact symbols)
  rw [mem] at found
  exact found

/-- An entry of memory (R135). -/
theorem Dev.readEntry_memory {d : Dev} {r count : Nat} (h : d.EntryClean r count) : (d.readEntry r count 1).2 =
    if entryFresh (d.mem.bytes ((d.ringRec r).slotAddr count) 64) r (d.ring r).generation count = true
    then .frame [d.mem.bytes ((d.ringRec r).slotAddr count) 64] else .stale count := by
  have kept : d.dropOld r count = d := by rw [Dev.dropOld, h.absent]
  obtain ⟨l, line, data, poison⟩ := h.line
  have gen := Dev.generation_fetches (d.fetches_readBurst r count 1)
  unfold Dev.readEntry
  simp only [kept, h.absent, Option.isSome_none, Bool.not_false, Bool.true_and, h.free, Bool.false_eq_true, if_false, line, data, poison,
    gen, Bool.false_or]
  cases entryFresh (d.mem.bytes ((d.ringRec r).slotAddr count) 64) r (d.ring r).generation count <;> rfl

theorem entryFresh_iff (e : List Byte) (r gen count : Nat) : entryFresh e r gen count = true ↔ field e 4 4 = count ∧
    field e 8 4 = crc32c (foldOf (gen * 65536 + r) count) (slice e 0 8 ++ List.replicate 4 0 ++ e.drop 12) := by
  simp [entryFresh]

/-! ## Taking (R135, R141, R142) -/

theorem Dev.ringRec_of_layout {d e : Dev} (h : e.layout = d.layout) (r : Nat) : e.ringRec r = d.ringRec r := by
  unfold Dev.ringRec
  rw [h]

/-- Reading entries leaves the room of a ring's slot as it was. -/
theorem Dev.Fetches.full {r : Nat} {d e : Dev} (h : Dev.Fetches r d e) (k : Nat) : e.full r k = d.full r k := by
  obtain ⟨t, ring⟩ := h.ring
  have placesHeld (i : Nat) : e.placesHeld i = d.placesHeld i := by unfold Dev.placesHeld; rw [h.board]
  have slotSeat (i : Nat) : e.slotSeat i = d.slotSeat i := by unfold Dev.slotSeat; rw [h.layout]
  have room (i : Nat) : e.room i k = d.room i k := by
    simp only [Dev.room, Dev.poolUsed, Dev.slotsInUse, placesHeld, slotSeat, h.board]
    rfl
  simp only [Dev.full, ring, Dev.ringRec_of_layout h.layout, room]

/-- Where nothing holds the slot, it has room for the operation. -/
theorem Dev.full_of_fetchStall {d : Dev} {r : Nat} (h : d.fetchStall r = none) : d.full r 1 = none := by
  unfold Dev.fetchStall at h
  dsimp only at h
  split_ifs at h
  exact h

/-- An operation that a ring carries alone takes its place (R142). -/
theorem Dev.takeSingle_spec {r : Nat} {d e : Dev} (h : Dev.Fetches r d e) (f : RingOp) (n : Nat) : ∃ p,
    (e.takeSingle r f n).board = d.board ++ [p] ∧
    p = { id := d.nextPlace, ring := r, slot := (d.ringRec r).slot, seat := (d.ringRec r).seat, ctx := (d.ringRec r).context
          seq := (d.ring r).fetched, op := f.op, payload := f.payload
          bad := !d.frameOk r (d.ring r).fetched f && !decide (0 < (d.ring r).skip), skipped := decide (0 < (d.ring r).skip) } ∧
    ((e.takeSingle r f n).ring r).fetched = ((d.ring r).fetched + n) % 2 ^ 32 ∧ ((e.takeSingle r f n).ring r).staleReads = 0 ∧
    ((e.takeSingle r f n).ring r).append = (d.ring r).append ∧ (∀ j, j ≠ r → (e.takeSingle r f n).ring j = d.ring j) ∧
    ((e.takeSingle r f n).slot (d.ringRec r).slot).opsFetched = add64 (d.slot (d.ringRec r).slot).opsFetched 1 ∧
    (e.takeSingle r f n).mem = e.mem ∧ (e.takeSingle r f n).cache = e.cache := by
  obtain ⟨t, ring⟩ := h.ring
  obtain ⟨b, slot⟩ := h.slot (d.ringRec r).slot
  have fetched : (e.ring r).fetched = (d.ring r).fetched := by rw [ring]
  have append : (e.ring r).append = (d.ring r).append := by rw [ring]
  have opsFetched : (e.slot (d.ringRec r).slot).opsFetched = (d.slot (d.ringRec r).slot).opsFetched := by rw [slot]
  have rec_ := Dev.ringRec_of_layout h.layout r
  have frame : e.frameOk r (d.ring r).fetched f = d.frameOk r (d.ring r).fetched f := by
    unfold Dev.frameOk
    rw [h.layout, rec_]
  refine ⟨_, ?_, rfl, ?_, ?_, ?_, fun j other => ?_, ?_, rfl, rfl⟩
  · simp only [Dev.takeSingle, Dev.enter, Dev.newPlace, ring, rec_, h.nextPlace, frame, ← h.board]
    rfl
  · simp only [Dev.takeSingle, Dev.enter, Dev.newPlace, ring, Dev.ring_updSlot_keep, Dev.ring_updRing, if_true]
    exact congrArg (fun k : Nat => (k + n) % 2 ^ 32) fetched
  · simp only [Dev.takeSingle, Dev.enter, Dev.newPlace, ring, Dev.ring_updSlot_keep, Dev.ring_updRing, if_true]
  · simp only [Dev.takeSingle, Dev.enter, Dev.newPlace, ring, Dev.ring_updSlot_keep, Dev.ring_updRing, if_true]
    exact append
  · simp only [Dev.takeSingle, Dev.enter, Dev.newPlace, Dev.ring_updSlot_keep, Dev.ring_updRing, if_neg other]
    exact h.other j other
  · simp only [Dev.takeSingle, Dev.enter, Dev.newPlace, rec_, Dev.slot_updSlot, if_true]
    exact congrArg (fun k : Nat => add64 k 1) opsFetched

theorem Dev.available_pos {d : Dev} {r : Nat} (h : d.pending r = true) : (d.ring r).available (d.ringRec r).log2Size ≠ 0 := by
  unfold Dev.pending at h
  simp only [Bool.and_eq_true, decide_eq_true_eq] at h
  exact Nat.pos_iff_ne_zero.1 h.2

/-- An entry without a continuation is its frame (R136). -/
theorem Dev.readFrame_single {d e : Dev} {r count avail : Nat} {x : List Byte} (room : avail ≠ 0)
    (read : d.readEntry r count avail = (e, .frame [x])) (single : field x 2 1 = 0) : d.readFrame r count avail false = (e, .frame [x]) := by
  unfold Dev.readFrame
  rw [if_neg room, read]
  simp only [List.headD_cons, single, Bool.false_eq_true, if_false]
  exact if_neg (by omega)

theorem Dev.readFrame_stale {d e : Dev} {r count avail c : Nat} (room : avail ≠ 0) (read : d.readEntry r count avail = (e, .stale c)) :
    d.readFrame r count avail false = (e, .stale c) := by
  unfold Dev.readFrame
  rw [if_neg room, read]

theorem Dev.takeOne_single {d e : Dev} {r : Nat} {x : List Byte} (timed : Bool) (pending : d.pending r = true) (free : d.fetchStall r = none)
    (read : d.readEntry r (d.ring r).fetched ((d.ring r).available (d.ringRec r).log2Size) = (e, .frame [x])) (single : field x 2 1 = 0)
    (alone : (ringOp [x] (d.ring r).smallPath (d.seat (d.ringRec r).seat)).op.widens = false) :
    d.takeOne r false timed = e.takeSingle r (ringOp [x] (d.ring r).smallPath (d.seat (d.ringRec r).seat)) 1 := by
  have fetches := d.fetches_readEntry r (d.ring r).fetched ((d.ring r).available (d.ringRec r).log2Size)
  rw [read] at fetches
  have room := (fetches.full 1).trans (Dev.full_of_fetchStall free)
  unfold Dev.takeOne
  simp only [Dev.readFrame_single (Dev.available_pos pending) read single, alone, Bool.false_eq_true, if_false, room, List.length_singleton]

theorem Dev.takeOne_stale {d e : Dev} {r c : Nat} (timed : Bool) (pending : d.pending r = true) (carried : (d.ring r).append = false)
    (read : d.readEntry r (d.ring r).fetched ((d.ring r).available (d.ringRec r).log2Size) = (e, .stale c)) :
    d.takeOne r false timed = e.foundStale r c timed := by
  unfold Dev.takeOne
  simp only [Dev.readFrame_stale (Dev.available_pos pending) read, carried, Bool.false_eq_true, if_false]

theorem Dev.ringLeaf_if (c : Prop) [Decidable c] (d : Dev) (r b : Nat) : ∃ i l k,
    (if c then d.ringLeaf r b else d) = { d with ringInfo := i, leaves := l, recent := k } := by
  split
  · exact ⟨_, _, _, (Dev.ringLeaf_spec d r b).2.2.2.2.2⟩
  · exact ⟨_, _, _, rfl⟩

/-- A stale entry is counted; the third timed reading sets STALE_ENTRY (R145). -/
theorem Dev.foundStale_spec {r : Nat} {d e : Dev} (h : Dev.Fetches r d e) (count : Nat) (timed : Bool) :
    (e.foundStale r count timed).board = d.board ∧
    (((e.foundStale r count timed).ring r).fetched = (d.ring r).fetched ∧ ((e.foundStale r count timed).ring r).append = (d.ring r).append ∧
      ((e.foundStale r count timed).ring r).stale = satInc32 (d.ring r).stale 1 ∧
      ((e.foundStale r count timed).ring r).staleReads = (d.ring r).staleCount count timed) ∧
    ((e.foundStale r count timed).slot (d.ringRec r).slot).stall = .staleEntry ∧
    ((d.ring r).staleCount count timed = 3 → (d.ring r).staleReads ≠ 3 → ((e.foundStale r count timed).leaf .rng).testBit 1 = true) := by
  obtain ⟨t, ring⟩ := h.ring
  have layout := h.layout
  have staleCount : (e.ring r).staleCount count timed = (d.ring r).staleCount count timed := by rw [ring]; rfl
  have staleReads : (e.ring r).staleReads = (d.ring r).staleReads := by rw [ring]
  have counted : ((e.updRing r fun k => { k with
      stale := satInc32 k.stale 1, staleReads := (d.ring r).staleCount count timed, staleAt := count }).ring r) =
      { d.ring r with stale := satInc32 (d.ring r).stale 1, staleReads := (d.ring r).staleCount count timed, staleAt := count, touched := t } := by
    rw [Dev.ring_updRing, if_pos rfl, ring]
  unfold Dev.foundStale
  dsimp only
  rw [staleCount, staleReads]
  have leaf := (Dev.ringLeaf_spec (e.updRing r fun k => { k with
    stale := satInc32 k.stale 1, staleReads := (d.ring r).staleCount count timed, staleAt := count }) r 1).1
  obtain ⟨i, l, k, rest⟩ := Dev.ringLeaf_if ((d.ring r).staleCount count timed = 3 ∧ ((d.ring r).staleReads == 3 && (e.ring r).staleAt == count) = false)
    (e.updRing r fun k => { k with stale := satInc32 k.stale 1, staleReads := (d.ring r).staleCount count timed, staleAt := count }) r 1
  have board := h.board
  have same : (e.updRing r fun k => { k with
    stale := satInc32 k.stale 1, staleReads := (d.ring r).staleCount count timed, staleAt := count }).board = e.board := rfl
  have image : (e.updRing r fun k => { k with
    stale := satInc32 k.stale 1, staleReads := (d.ring r).staleCount count timed, staleAt := count }).layout = e.layout := rfl
  generalize (e.updRing r fun k => { k with
    stale := satInc32 k.stale 1, staleReads := (d.ring r).staleCount count timed, staleAt := count }) = u at *
  refine ⟨?_, ?_, ?_, fun third first => ?_⟩
  · rw [rest]
    exact same.trans board
  · have ring_ (n : Nat) : (({ u with ringInfo := i, leaves := l, recent := k } : Dev).showStall n .staleEntry r).ring r = u.ring r := rfl
    rw [rest, ring_, counted]
    exact ⟨rfl, rfl, rfl, rfl⟩
  · rw [rest, ← Dev.ringRec_of_layout (image.trans layout) r]
    exact congrArg Slot.stall ((Dev.slot_updSlot _ _ _ _).trans (if_pos rfl))
  · rw [if_pos ⟨third, by simp [first]⟩]
    exact leaf

/-! ## The commands that take (R141, R145, R146) -/

/-- The slot wakes. -/
def Dev.wakeIf (b : Bool) (slot : Nat) (d : Dev) : Dev := if b then d.updSlot slot fun k => { k with idle := false } else d

/-- The fetch round, the timed re-read and the re-check take from a ring that has an entry to look at and nothing to hold its slot. -/
theorem exec_takes {s : State} {slot r fc : Nat} {c : Instr} (seat : (s.dev.slotSeat slot).isSome = true) (carried : (s.dev.ring r).append = false)
    (pending : s.dev.pending r = true) (free : s.dev.fetchStall r = none)
    (command : (c = .fetchRound slot fc [] ∧ s.dev.slotRings slot = [r] ∧ (s.dev.ring r).staleReads = 0) ∨
      (c = .staleReread r fc ∧ ((s.dev.ring r).staleReads = 1 ∨ (s.dev.ring r).staleReads = 2)) ∨
      (c = .slotRecheck slot fc ∧ s.dev.slotRings slot = [r] ∧ (s.dev.ring r).staleReads ≠ 0))
    (keeps : ∀ timed, ((s.dev.takeOne r false timed).ring r).append = false) :
    ∃ b timed, exec c s = .next { s with dev := (s.dev.takeOne r false timed).wakeIf b slot } ∧ (c = .staleReread r fc → timed = true) := by
  rcases command with ⟨rfl, rings, fresh⟩ | ⟨rfl, waits⟩ | ⟨rfl, rings, waits⟩
  · refine ⟨false, false, ?_, fun h => by cases h⟩
    have visit : s.dev.toVisit r = true := by simp [Dev.toVisit, carried, pending]
    have ready : (s.dev.ring r).waitsStale = false := by simp [Ring.waitsStale, fresh]
    change execFetchRound slot fc [] s = _
    rw [execFetchRound, if_pos seat, rings, List.foldl_cons, List.foldl_nil, Dev.fetchRing, visit, free]
    simp [ready, Dev.wakeIf]
  · refine ⟨false, true, ?_, fun _ => rfl⟩
    have stale : (s.dev.ring r).waitsStale = true := by rcases waits with h | h <;> simp [Ring.waitsStale, carried, h]
    change execStaleReread r fc s = _
    rw [execStaleReread, if_pos waits, Dev.reread, stale, pending, free]
    rfl
  · have stale : (s.dev.ring r).waitsStale = true := by simp [Ring.waitsStale, carried, waits]
    have reread : s.dev.reread r false = s.dev.takeOne r false false := if_pos (by rw [stale, pending, free]; rfl)
    have probe : (s.dev.takeOne r false false).probe r = s.dev.takeOne r false false := if_neg (by simp [keeps])
    refine ⟨[r].any (s.dev.takeOne r false false).tailAhead, false, ?_, fun h => by cases h⟩
    change execSlotRecheck slot fc s = _
    rw [execSlotRecheck, if_neg (by rw [Option.isNone_iff_eq_none]; exact Option.isSome_iff_ne_none.1 seat), rings]
    simp only [List.foldl_cons, List.foldl_nil, reread, probe, Dev.wakeIf]

theorem Dev.wakeIf_keeps (b : Bool) (slot : Nat) (d : Dev) : (d.wakeIf b slot).board = d.board ∧ (∀ j, (d.wakeIf b slot).ring j = d.ring j) ∧
    (∀ j, ((d.wakeIf b slot).slot j).opsFetched = (d.slot j).opsFetched ∧ ((d.wakeIf b slot).slot j).stall = (d.slot j).stall) ∧
    (d.wakeIf b slot).mem = d.mem ∧ (d.wakeIf b slot).cache = d.cache ∧ ∀ q, (d.wakeIf b slot).leaf q = d.leaf q := by
  cases b
  · exact ⟨rfl, fun j => rfl, fun j => ⟨rfl, rfl⟩, rfl, rfl, fun q => rfl⟩
  · refine ⟨rfl, fun j => rfl, fun j => ?_, rfl, rfl, fun q => rfl⟩
    have slot_ : ((d.wakeIf true slot).slot j) = if j = slot then { d.slot slot with idle := false } else d.slot j :=
      Dev.slot_updSlot d slot j fun k => { k with idle := false }
    rw [slot_]
    split
    · rename_i same
      rw [same]
      exact ⟨rfl, rfl⟩
    · exact ⟨rfl, rfl⟩

/-- A ring that has an entry to look at and nothing to hold its slot, and a command that takes from it. -/
structure State.Takes (s : State) (slot r fc : Nat) (c : Instr) : Prop where
  seat : (s.dev.slotSeat slot).isSome = true
  carried : (s.dev.ring r).append = false
  served : (s.dev.ringRec r).slot = slot
  pending : s.dev.pending r = true
  free : s.dev.fetchStall r = none
  command : (c = .fetchRound slot fc [] ∧ s.dev.slotRings slot = [r] ∧ (s.dev.ring r).staleReads = 0) ∨
    (c = .staleReread r fc ∧ ((s.dev.ring r).staleReads = 1 ∨ (s.dev.ring r).staleReads = 2)) ∨
    (c = .slotRecheck slot fc ∧ s.dev.slotRings slot = [r] ∧ (s.dev.ring r).staleReads ≠ 0)

/-- The operation of an entry that passes is taken. -/
theorem State.Takes.single {s : State} {slot r fc : Nat} {c : Instr} (h : s.Takes slot r fc c) {x : List Byte} {e : Dev}
    (read : s.dev.readEntry r (s.dev.ring r).fetched ((s.dev.ring r).available (s.dev.ringRec r).log2Size) = (e, .frame [x]))
    (single : field x 2 1 = 0) (alone : (ringOp [x] (s.dev.ring r).smallPath (s.dev.seat (s.dev.ringRec r).seat)).op.widens = false) :
    ∃ t p, exec c s = .next t ∧ t.dev.board = s.dev.board ++ [p] ∧ p.id = s.dev.nextPlace ∧ p.ring = r ∧ p.slot = slot ∧
      p.seat = (s.dev.ringRec r).seat ∧ p.ctx = (s.dev.ringRec r).context ∧ p.seq = (s.dev.ring r).fetched ∧ p.phase = .waiting ∧
      p.op = (ringOp [x] (s.dev.ring r).smallPath (s.dev.seat p.seat)).op ∧
      ((s.dev.ring r).skip = 0 → p.skipped = false ∧
        p.bad = !s.dev.frameOk r (s.dev.ring r).fetched (ringOp [x] (s.dev.ring r).smallPath (s.dev.seat p.seat))) ∧
      ((s.dev.ring r).skip ≠ 0 → p.skipped = true ∧ p.bad = false) ∧
      (t.dev.ring r).fetched = ((s.dev.ring r).fetched + 1) % 2 ^ 32 ∧ (t.dev.ring r).staleReads = 0 ∧
      (∀ j, j ≠ r → t.dev.ring j = s.dev.ring j) ∧
      (t.dev.slot slot).opsFetched = add64 (s.dev.slot slot).opsFetched 1 ∧ t.dev.mem = e.mem ∧ t.dev.cache = e.cache := by
  obtain ⟨seat, carried, rfl, pending, free, command⟩ := h
  have fetches := s.dev.fetches_readEntry r (s.dev.ring r).fetched ((s.dev.ring r).available (s.dev.ringRec r).log2Size)
  rw [read] at fetches
  have taken (timed : Bool) := Dev.takeOne_single timed pending free read single alone
  obtain ⟨p, board, hp, fetched, stale, append, others, ops, mem, cache⟩ :=
    Dev.takeSingle_spec fetches (ringOp [x] (s.dev.ring r).smallPath (s.dev.seat (s.dev.ringRec r).seat)) 1
  obtain ⟨b, timed, run, -⟩ := exec_takes seat carried pending free command (fun timed => by rw [taken, append]; exact carried)
  rw [taken] at run
  obtain ⟨wBoard, wRing, wSlot, wMem, wCache, -⟩ := Dev.wakeIf_keeps b (s.dev.ringRec r).slot
    (e.takeSingle r (ringOp [x] (s.dev.ring r).smallPath (s.dev.seat (s.dev.ringRec r).seat)) 1)
  refine ⟨_, p, run, wBoard.trans board, ?_⟩
  dsimp only
  rw [wRing, (wSlot _).1, wMem, wCache]
  refine ⟨?_, ?_, ?_, ?_, ?_, ?_, ?_, ?_, fun none_ => ?_, fun some_ => ?_, fetched, stale, fun j other => (wRing j).trans (others j other), ops, mem, cache⟩
  all_goals rw [hp]
  · simp [none_]
  · simp [Nat.pos_iff_ne_zero.2 some_]

/-- An entry that fails is counted and never taken. -/
theorem State.Takes.stale {s : State} {slot r fc : Nat} {c : Instr} (h : s.Takes slot r fc c) {e : Dev}
    (read : s.dev.readEntry r (s.dev.ring r).fetched ((s.dev.ring r).available (s.dev.ringRec r).log2Size) = (e, .stale (s.dev.ring r).fetched)) :
    ∃ t, exec c s = .next t ∧ t.dev.board = s.dev.board ∧ (t.dev.ring r).fetched = (s.dev.ring r).fetched ∧
      (t.dev.ring r).stale = satInc32 (s.dev.ring r).stale 1 ∧ (t.dev.slot slot).stall = .staleEntry ∧
      ((s.dev.ring r).staleReads = 0 ∨ (s.dev.ring r).staleAt ≠ (s.dev.ring r).fetched → (t.dev.ring r).staleReads = 1) ∧
      (c = .staleReread r fc → (s.dev.ring r).staleAt = (s.dev.ring r).fetched →
        (t.dev.ring r).staleReads = (s.dev.ring r).staleReads + 1 ∧
        ((s.dev.ring r).staleReads = 2 → (t.dev.leaf .rng).testBit 1 = true)) := by
  obtain ⟨seat, carried, rfl, pending, free, command⟩ := h
  have fetches := s.dev.fetches_readEntry r (s.dev.ring r).fetched ((s.dev.ring r).available (s.dev.ringRec r).log2Size)
  rw [read] at fetches
  have found (timed : Bool) := Dev.takeOne_stale timed pending carried read
  have spec (timed : Bool) := Dev.foundStale_spec fetches (s.dev.ring r).fetched timed
  obtain ⟨b, timed, run, isTimed⟩ := exec_takes seat carried pending free command (fun timed => by rw [found, (spec timed).2.1.2.1]; exact carried)
  rw [found] at run
  obtain ⟨wBoard, wRing, wSlot, -, -, wLeaf⟩ := Dev.wakeIf_keeps b (s.dev.ringRec r).slot (e.foundStale r (s.dev.ring r).fetched timed)
  obtain ⟨board, ⟨fetched, -, stale, reads⟩, stall, leaf⟩ := spec timed
  refine ⟨_, run, wBoard.trans board, ?_⟩
  dsimp only
  rw [wRing, (wSlot _).2, wLeaf, fetched, stale, reads]
  refine ⟨rfl, rfl, stall, fun fresh => if_pos fresh, fun again same => ?_⟩
  have waits : (s.dev.ring r).staleReads = 1 ∨ (s.dev.ring r).staleReads = 2 := by
    rcases command with ⟨h, -⟩ | ⟨-, h⟩ | ⟨h, -⟩
    · rw [again] at h
      cases h
    · exact h
    · rw [again] at h
      cases h
  have count : (s.dev.ring r).staleCount (s.dev.ring r).fetched timed = (s.dev.ring r).staleReads + 1 := by
    rw [Ring.staleCount, if_neg (by rw [same]; omega), if_pos (isTimed again)]
    omega
  exact ⟨count, fun second => leaf (by rw [count, second]) (by rw [second]; decide)⟩

/-- Settles O31. -/
theorem fetchTakes : Obligations.FetchTakes := by
  unfold Obligations.FetchTakes
  refine ⟨fun s slot r fc c seat carried hslot pending free command => ?_,
    fun d r count avail l line dirty => Dev.readEntry_dirty avail line dirty, fun d r count a ha aligned line free filled admits pure symbols => ?_,
    fun d r count avail line blocked => Dev.readEntry_blocked avail line blocked⟩
  · have takes : s.Takes slot r fc c := ⟨seat, carried, hslot, pending, free, command⟩
    refine ⟨fun x e read single alone => takes.single read single alone, ?_, fun e read => takes.stale read⟩
    intro n a x hn ha aligned one line hfree filled admits pure symbols hx named checked single alone
    subst hn ha
    have clean : s.dev.EntryClean r (s.dev.ring r).fetched := ⟨aligned, line, hfree, filled, admits, pure, symbols⟩
    have value := Dev.readEntry_memory clean
    rw [← hx, if_pos ((entryFresh_iff x r _ _).2 ⟨named, checked⟩), ← one] at value
    obtain ⟨t, p, run, board, -, ring, -, -, -, seq, phase, op, -, -, fetched, -⟩ := takes.single (Prod.ext rfl value) single alone
    exact ⟨t, p, run, board, ring, seq, phase, op, fetched⟩
  · subst ha
    rw [Dev.readEntry_memory ⟨aligned, line, free, filled, admits, pure, symbols⟩]
    simp only [entryFresh_iff]

end Sys2Proof.Machine
end

section
/-! SUPPORT. Completion entries and retirement (04). -/

namespace Sys2Proof.Machine

/-! ## Fields of bytes (R15) -/

theorem leNat_leBytes : ∀ w n : Nat, leNat (leBytes w n) = n % 256 ^ w
  | 0, n => by
    rw [Nat.pow_zero, Nat.mod_one]
    rfl
  | w + 1, n => by
    have split_ : n % 256 ^ (w + 1) = n % 256 + 256 * (n / 256 % 256 ^ w) := by
      rw [Nat.pow_succ, Nat.mul_comm, Nat.mod_mul]
    have byte : (BitVec.ofNat 8 n).toNat = n % 256 := BitVec.toNat_ofNat n 8
    rw [leBytes, leNat, leNat_leBytes w, byte, split_]

/-- A field in its place among others. -/
theorem field_append {pre : List Byte} {off : Nat} (h : pre.length = off) (w n : Nat) (post : List Byte) :
    field (pre ++ leBytes w n ++ post) off w = n % 256 ^ w := by
  have taken : ((pre ++ leBytes w n ++ post).drop off).take w = leBytes w n := by
    rw [List.append_assoc, ← h, List.drop_left]
    exact List.take_left' (length_leBytes w n)
  rw [field, slice, taken, length_leBytes, Nat.sub_self]
  simp [leNat_leBytes]

theorem Status.code_lt (s : Status) : s.code < 256 := by cases s <;> decide

/-! ## Completion entries (R152, R155) -/

/-- The 32 bytes of an entry that ends no step. -/
theorem Place.entry_spec (p : Place) (ring c log2Size : Nat) : (p.entry ring c log2Size false 0).length = 32 ∧
    field (p.entry ring c log2Size false 0) 0 2 = ring % 65536 ∧ field (p.entry ring c log2Size false 0) 2 1 = p.status.code ∧
    field (p.entry ring c log2Size false 0) 3 1 = 1 - c / 2 ^ log2Size % 2 ∧ field (p.entry ring c log2Size false 0) 4 4 = p.seq % 2 ^ 32 ∧
    field (p.entry ring c log2Size false 0) 10 6 = p.start / 16 % 2 ^ 48 ∧
    field (p.entry ring c log2Size false 0) 24 4 = min ((p.stop + 2 ^ 52 - p.start) % 2 ^ 52) 0xFFFFFFFF := by
  have phase : phaseBit c log2Size = 1 - c / 2 ^ log2Size % 2 := by rw [phaseBit, Nat.shiftRight_eq_div_pow]
  have fields (off w n : Nat) (pre post : List Byte) (e : p.entry ring c log2Size false 0 = pre ++ leBytes w n ++ post) (h : pre.length = off) :
      field (p.entry ring c log2Size false 0) off w = n % 256 ^ w := by rw [e, field_append h]
  refine ⟨?_, ?_, ?_, ?_, ?_, ?_, ?_⟩
  · simp [Place.entry, length_leBytes]
  · exact fields 0 2 ring [] _ (by simp only [Place.entry, List.nil_append, List.append_assoc]; rfl) rfl
  · refine (fields 2 1 p.status.code (leBytes 2 ring) _ (by simp only [Place.entry, List.append_assoc]; rfl) (length_leBytes _ _)).trans ?_
    exact Nat.mod_eq_of_lt p.status.code_lt
  · refine (fields 3 1 (phaseBit c log2Size) (leBytes 2 ring ++ leBytes 1 p.status.code) _
      (by simp only [Place.entry, List.append_assoc]; rfl) (by simp [length_leBytes])).trans ?_
    rw [phase]
    omega
  · exact fields 4 4 p.seq (leBytes 2 ring ++ leBytes 1 p.status.code ++ leBytes 1 (phaseBit c log2Size + 0)) _
      (by simp only [Place.entry, List.append_assoc]; rfl) (by simp [length_leBytes])
  · exact fields 10 6 (p.start / 16) (leBytes 2 ring ++ leBytes 1 p.status.code ++ leBytes 1 (phaseBit c log2Size + 0) ++ leBytes 4 p.seq
      ++ leBytes 2 p.flags.code) _ (by simp only [Place.entry, List.append_assoc]; rfl) (by simp [length_leBytes])
  · refine (fields 24 4 (min (spanOf p.start p.stop) 0xFFFFFFFF) (leBytes 2 ring ++ leBytes 1 p.status.code ++ leBytes 1 (phaseBit c log2Size + 0)
      ++ leBytes 4 p.seq ++ leBytes 2 p.flags.code ++ leBytes 6 (p.start / 16) ++ leBytes 8 (p.epoch.getD (2 ^ 64 - 1))) _
      (by simp only [Place.entry, List.append_assoc]; rfl) (by simp [length_leBytes])).trans ?_
    unfold spanOf
    omega

/-! ## The write of an entry (R157, R159) -/

theorem Dev.writeAtom_puts (d : Dev) (a : Nat) (bs : List Byte) (w : Who) : ∃ m : Mem, (d.writeAtom a bs w).mem = m.putBytes a bs := by
  unfold Dev.writeAtom
  dsimp only
  split
  · split
    · exact ⟨_, rfl⟩
    · exact ⟨_, rfl⟩
  · split
    · exact ⟨_, rfl⟩
    · exact ⟨_, rfl⟩

theorem Mem.bytes_putBytes {m : Mem} {a : Nat} {bs : List Byte} (fits : a % 65536 + bs.length ≤ 65536) : (m.putBytes a bs).bytes a bs.length = bs := by
  refine List.ext_getElem (by simp [Mem.bytes]) fun i _ h => ?_
  simp only [Mem.bytes, List.getElem_map, List.getElem_range]
  exact Mem.byte_putBytes fits i h

theorem Dev.memWrite_puts {d : Dev} {tag a : Nat} (bs : List Byte) (stack : stackOf a < 12)
    (admits : (d.mem.frame (stackOf a) (frameOf a)).admits tag = true) : ∃ m : Mem, (d.memWrite tag a bs false).mem = m.putBytes a bs := by
  obtain ⟨m, e⟩ := d.writeAtom_puts a bs { seat := tagSeat tag }
  refine ⟨m, ?_⟩
  rw [Dev.memWrite, if_neg (Nat.not_le.2 stack), if_pos admits]
  exact e

/-- A part of an atom that no line holds goes to memory (R339). -/
theorem Mio.writeAtom_memory {m : Mio} {g : Agent} {a : Nat} {bs : List Byte} (part : bs.length ≠ 64)
    (absent : m.dev.cache.line g.stack (tagOf g.ctx) (a / 64) = none) (h : Hint) : m.writeAtom g a bs false h false false = m.writeMem g a bs false := by
  unfold Mio.writeAtom
  dsimp only
  rw [if_neg (by simp), absent]
  exact (if_neg (by simp [part])).trans (if_neg (by simp))

theorem Mio.writeMem_puts {m : Mio} {g : Agent} {a : Nat} (bs : List Byte) (going : m.waits = false) (free : m.dev.blocked a = false)
    (stack : stackOf a < 12) (admits : (m.dev.mem.frame (stackOf a) (frameOf a)).admits (tagOf g.ctx) = true) :
    (m.writeMem g a bs false).waits = false ∧ ∃ k : Mem, (m.writeMem g a bs false).dev.mem = k.putBytes a bs := by
  have reach : m.reach a = m.touch a := if_neg (by simp [Mio.touch, free])
  unfold Mio.writeMem
  dsimp only
  rw [reach, if_neg (by simp [Mio.touch, going])]
  exact ⟨going, Dev.memWrite_puts bs stack admits⟩

/-! ## Without launches (R112) -/

theorem Dev.fillBodies_none {d : Dev} (h : ∀ q ∈ d.board, q.op.launches = false) : d.fillBodies = d := by
  have none_ : (d.board.filter fun p => p.op.launches && p.phase == .running && !p.body.isEmpty) = [] := by
    rw [List.filter_eq_nil_iff]
    intro q hq
    simp [h q hq]
  rw [Dev.fillBodies, none_]
  rfl

/-- The completion of an operation whose ring sends no notification and whose flags show no INVALID. -/
theorem Dev.completed_spec {d : Dev} {p : Place} (e : List Byte) (ex : Excursions) (quiet : (d.ring p.ring).notify = 0) (valid : p.flags.invalid = false) :
    (d.completed p e ex).board = d.board.filter (·.id != p.id) ∧ (d.completed p e ex).mem = d.mem ∧
    ((d.completed p e ex).ring p.ring).completed = ((d.ring p.ring).completed + 1) % 2 ^ 32 ∧
    ∀ j, j ≠ p.ring → (d.completed p e ex).ring j = d.ring j := by
  have silent {u : Dev} (h : (u.ring p.ring).notify = 0) : (u.notify p.ring p.status).recordInvalid p = u := by
    have same : u.notify p.ring p.status = u := if_neg (by simp [h])
    rw [same]
    exact if_pos (by simp [valid])
  unfold Dev.completed
  dsimp only
  rw [silent]
  · refine ⟨rfl, rfl, ?_, fun j other => ?_⟩
    · rw [Dev.ring_updRing, if_pos rfl]
      rfl
    · rw [Dev.ring_updRing, if_neg other]
      rfl
  · rw [Dev.ring_updRing, if_pos rfl]
    exact quiet

theorem Dev.ringPlaces_ring {d : Dev} {i : Nat} {p : Place} (h : (d.ringPlaces i).find? (·.parent.isNone) = some p) : p.ring = i ∧ p ∈ d.board := by
  have mem := List.mem_filter.1 (List.mem_of_find?_eq_some h)
  exact ⟨by simpa using mem.2, mem.1⟩

theorem Dev.stepEnd_none {d : Dev} {p : Place} (h : (d.wcet p.ring).isNone = true) : d.stepEnd p = false := by
  simp only [Option.isNone_iff_eq_none] at h
  simp [Dev.stepEnd, h]

theorem Dev.complete_waits {d : Dev} {i : Nat} {p : Place} (first : (d.ringPlaces i).find? (·.parent.isNone) = some p) (going : p.phase ≠ .retired) :
    d.complete i = d := by
  unfold Dev.complete
  rw [first]
  exact if_pos (by simp [Place.gone, going])

theorem Dev.complete_writes {d : Dev} {i : Nat} {p : Place} (first : (d.ringPlaces i).find? (·.parent.isNone) = some p) (retired : p.phase = .retired)
    (kept : d.sramLost .completionLog (i * 256 + (d.ring i).completed % 256) = false) {m : Mio}
    (hm : m = ({ dev := d } : Mio).writeAtom (d.ringRec i).collector ((d.ringRec i).completeBase + (d.ring i).completed % 2 ^ (d.ringRec i).log2Size * 32)
      (d.entryOf p) false .normal false false) (going : m.waits = false) :
    d.complete i = (m.dev.completed p (d.entryOf p) (d.stepExcursions p)).fillBodies := by
  subst hm
  unfold Dev.complete
  rw [first]
  exact (if_neg (by simp [Place.gone, retired, kept])).trans (if_neg (by simp [going]))

/-- Settles O32. -/
theorem completionEntries : Obligations.CompletionEntries := by
  unfold Obligations.CompletionEntries
  refine ⟨fun s i p first going => ?_, fun s i p a first retired ha aligned stack free kept unstepped admits filled absent launches valid quiet => ?_⟩
  · exact congrArg (fun d => Host.Outcome.next { s with dev := d }) (Dev.complete_waits first going)
  obtain ⟨rfl, here⟩ := Dev.ringPlaces_ring first
  obtain ⟨length, ring, status, phase, seq, start, span⟩ := p.entry_spec p.ring (s.dev.ring p.ring).completed (s.dev.ringRec p.ring).log2Size
  have entry : s.dev.entryOf p = p.entry p.ring (s.dev.ring p.ring).completed (s.dev.ringRec p.ring).log2Size false 0 := by
    simp [Dev.entryOf, Dev.stepEnd_none unstepped]
  have size : (s.dev.entryOf p).length = 32 := by rw [entry, length]
  have write : ({ dev := s.dev } : Mio).writeAtom (s.dev.ringRec p.ring).collector a (s.dev.entryOf p) false .normal false false =
      ({ dev := s.dev } : Mio).writeMem (s.dev.ringRec p.ring).collector a (s.dev.entryOf p) false :=
    Mio.writeAtom_memory (by rw [size]; decide) absent _
  obtain ⟨going, k, mem⟩ := Mio.writeMem_puts (m := { dev := s.dev }) (g := (s.dev.ringRec p.ring).collector) (s.dev.entryOf p) rfl free stack admits
  have work := Mio.work_writeAtom { dev := s.dev } (s.dev.ringRec p.ring).collector a (s.dev.entryOf p) false .normal false false
  rw [write] at work
  rw [← write] at going
  have run := Dev.complete_writes first retired kept rfl (by rw [← ha]; exact going)
  rw [← ha, write] at run
  generalize ({ dev := s.dev } : Mio).writeMem (s.dev.ringRec p.ring).collector a (s.dev.entryOf p) false = m at mem work run
  have ringOf_ (j : Nat) : m.dev.ring j = s.dev.ring j := by
    unfold Dev.ring
    rw [work.rings]
  obtain ⟨board, kept_, completed, others⟩ := Dev.completed_spec (d := m.dev) (p := p) (s.dev.entryOf p) (s.dev.stepExcursions p)
    (by rw [ringOf_]; exact quiet) valid
  rw [Dev.fillBodies_none fun q hq => launches q ?_] at run
  · refine ⟨{ s with dev := s.dev.complete p.ring }, _, rfl, rfl, length, ring, status, phase, seq, start, span, ?_, ?_, ?_, fun j other => ?_, rfl⟩
    all_goals dsimp only; rw [run]
    · rw [kept_, mem, ← entry]
      have fits : a % 65536 + (s.dev.entryOf p).length ≤ 65536 := by
        rw [size]
        omega
      have put := Mem.bytes_putBytes (m := k) fits
      rwa [size] at put
    · rw [board, work.board]
    · rw [completed, ringOf_]
    · rw [others j other, ringOf_]
  · rw [board, work.board] at hq
    exact (List.mem_filter.1 hq).1

/-! ## Retirement (R106, R159, R160) -/

/-- The collector of the place's stack accepts it in the fast cycle `fc`. -/
def Dev.collects (d : Dev) (p : Place) (fc : Nat) : Prop :=
  (d.collector.get (0, 0) (p.slot / 32)).1 ≠ d.now fc ∨ (d.collector.get (0, 0) (p.slot / 32)).2 < 8

theorem Dev.collect_accepts {d : Dev} {p : Place} {fc : Nat} (h : d.collects p fc) : ∃ c, d.collect p fc = some { d with collector := c } := by
  refine ⟨_, if_pos ?_⟩
  split
  · exact h.resolve_left (not_not_intro ‹_›)
  · decide

theorem Dev.collect_full {d : Dev} {p : Place} {fc : Nat} (same : (d.collector.get (0, 0) (p.slot / 32)).1 = d.now fc)
    (full : 8 ≤ (d.collector.get (0, 0) (p.slot / 32)).2) : d.collect p fc = none := by
  refine if_neg (Nat.not_lt.2 (le_of_le_of_eq full ?_))
  exact (if_pos same).symm

/-- An operation that retires alone: no launch, of no launch, on a ring without a WCET, with nothing to write and no effect of its own. -/
structure Dev.Plain (d : Dev) (p : Place) : Prop where
  alone : p.parent = none
  unsummed : p.summary = none
  launches : ∀ q ∈ d.board, q.op.launches = false
  unstepped : (d.wcet p.ring).isNone = true
  opcode : p.op.opcode ∉ [0x32, 0x33, 0x61, 0x62, 0x7F]
  noCore : isCoreOp p.op.opcode = false
  single : p.op.launches = false
  unwritten : p.dest = none

/-- The place as it stands once it has retired. -/
def Place.left (p : Place) (t : Nat) : Place := { p with phase := .retired, stop := t, stall := .none, arrived := [], kept := [], pinned := none }

theorem Dev.leave_plain {d : Dev} {p : Place} (h : d.Plain p) (t : Nat) : d.leave p t =
    (d.updSlot p.slot fun k => { k with opsRetired := add64 k.opsRetired 1 }).updPlace p.id fun _ => p.left t := by
  obtain ⟨alone, unsummed, launches, unstepped, opcode, noCore, single, -⟩ := h
  simp only [List.mem_cons, List.not_mem_nil, or_false, not_or] at opcode
  obtain ⟨no32, no33, no61, no62, no7F⟩ := opcode
  have effect : d.retireEffect p = d := by simp [Dev.retireEffect, unsummed, no32, no33, no61, no62, no7F]
  have cycles : d.countCycles p = d := if_neg (by simp [noCore])
  have step : (d.updSlot p.slot fun k => { k with opsRetired := add64 k.opsRetired 1 }).stepEnd p = false := Dev.stepEnd_none unstepped
  unfold Dev.leave
  rw [effect, cycles]
  simp only [step, alone, single, Bool.false_eq_true, if_false]
  have same : p.left t = { p.left t with parent := none } := by simp [Place.left, alone]
  rw [same]
  refine Dev.fillBodies_none (d := (d.updSlot p.slot fun k => { k with opsRetired := add64 k.opsRetired 1 }).updPlace p.id fun _ => { p.left t with parent := none }) fun q hq => ?_
  obtain ⟨x, hx, rfl⟩ := List.mem_map.1 hq
  split
  · exact single
  · exact launches x hx

/-- The collector accepts a plain operation: it is retired. -/
theorem Dev.retire_plain {d : Dev} {p : Place} (h : d.Plain p) {fc : Nat} (collects : d.collects p fc) : ∃ c, d.retire p fc =
    (({ d with collector := c } : Dev).updSlot p.slot fun k => { k with opsRetired := add64 k.opsRetired 1 }).updPlace p.id fun _ => p.left (d.now fc) := by
  obtain ⟨c, accepts⟩ := Dev.collect_accepts collects
  have opcode : p.op.opcode ≠ 0x7F := by
    have none_ := h.opcode
    simp only [List.mem_cons, not_or] at none_
    exact none_.2.2.2.2.1
  have dest : d.destBytes p = none := (if_neg (by simp [opcode])).trans h.unwritten
  have plain : ({ d with collector := c } : Dev).Plain p :=
    ⟨h.alone, h.unsummed, h.launches, h.unstepped, h.opcode, h.noCore, h.single, h.unwritten⟩
  refine ⟨c, ?_⟩
  unfold Dev.retire
  rw [accepts]
  dsimp only
  rw [dest]
  exact Dev.leave_plain plain _

/-- What the retirement of a plain operation shows. -/
theorem Dev.retire_spec {d : Dev} {p x : Place} (h : d.Plain p) (here : d.place p.id = some x) {fc : Nat} (collects : d.collects p fc) :
    (d.retire p fc).place p.id = some (p.left (d.now fc)) ∧
    ((d.retire p fc).slot p.slot).opsRetired = add64 (d.slot p.slot).opsRetired 1 ∧ (d.retire p fc).mem = d.mem ∧
    (d.retire p fc).rings = d.rings ∧ (d.retire p fc).seats = d.seats ∧ (d.retire p fc).ctxs = d.ctxs := by
  obtain ⟨c, e⟩ := Dev.retire_plain h collects
  rw [e]
  refine ⟨?_, ?_, rfl, rfl, rfl, rfl⟩
  · rw [Dev.place_updPlace (i := p.id) (f := fun _ => p.left (d.now fc)) fun _ _ => rfl]
    exact congrArg (Option.map fun _ => p.left (d.now fc)) here
  · have slot := Dev.slot_updSlot { d with collector := c } p.slot p.slot fun k => { k with opsRetired := add64 k.opsRetired 1 }
    rw [if_pos rfl] at slot
    exact congrArg Slot.opsRetired slot

theorem Dev.retire_full {d : Dev} {p : Place} {fc : Nat} (same : (d.collector.get (0, 0) (p.slot / 32)).1 = d.now fc)
    (full : 8 ≤ (d.collector.get (0, 0) (p.slot / 32)).2) : d.retire p fc = d.stallPlace p .collector := by
  rw [Dev.retire, Dev.collect_full same full]

/-- A place that retires without having run (R101, R106). -/
theorem Dev.retireUnrun_spec {d : Dev} {p : Place} (h : d.Plain p) (here : d.place p.id = some p) (st : Status) {fc : Nat} (collects : d.collects p fc) :
    ∃ q, (d.retireUnrun p st fc).place p.id = some q ∧ q.phase = .retired ∧ q.status = st ∧ q.flags = p.flags ∧
      (d.retireUnrun p st fc).mem = d.mem := by
  have step : d.noteStep p (d.now fc) = d := by
    have unstepped := h.unstepped
    simp only [Option.isNone_iff_eq_none] at unstepped
    exact if_neg (by simp [unstepped])
  have plain : d.Plain { p with status := st, start := d.now fc, epoch := (d.ring p.ring).pin } :=
    ⟨h.alone, h.unsummed, h.launches, h.unstepped, h.opcode, h.noCore, h.single, h.unwritten⟩
  have run : d.retireUnrun p st fc = d.retire { p with status := st, start := d.now fc, epoch := (d.ring p.ring).pin } fc := by
    unfold Dev.retireUnrun
    dsimp only
    rw [step]
  obtain ⟨place, -, mem, -⟩ := Dev.retire_spec plain here collects
  rw [run]
  exact ⟨_, place, rfl, rfl, rfl, mem⟩

theorem exec_operationRetire_done {s : State} {p : Place} (here : s.dev.place p.id = some p) (fc : Nat) (done : s.dev.canRetire p = true) :
    exec (.operationRetire p.id fc) s = .next { s with dev := s.dev.retire p fc } := by
  change execOperationRetire p.id fc s = _
  rw [execOperationRetire, here]
  exact congrArg Host.Outcome.next (if_pos done)

theorem exec_operationRetire_bad {s : State} {p : Place} (here : s.dev.place p.id = some p) (fc : Nat) (going : s.dev.canRetire p = false)
    (waiting : p.phase = .waiting) (bad : p.bad = true) (starts : s.dev.canStart p = true) :
    exec (.operationRetire p.id fc) s = .next { s with dev := s.dev.retireUnrun p .badDescriptor fc } := by
  change execOperationRetire p.id fc s = _
  rw [execOperationRetire, here]
  exact congrArg Host.Outcome.next ((if_neg (by simp [going])).trans (if_pos ⟨waiting, bad, starts⟩))

theorem exec_skippedOperation {s : State} {p : Place} (here : s.dev.place p.id = some p) (waiting : p.phase = .waiting) (skipped : p.skipped = true)
    (begun : ∀ q ∈ s.dev.ahead p, q.begun = true) :
    exec (.skippedOperation p.id) s = .next { s with dev := s.dev.retireUnrun p .skipped 0 } := by
  change execSkippedOperation p.id s = _
  rw [execSkippedOperation, here]
  exact congrArg Host.Outcome.next (if_pos ⟨waiting, skipped, List.all_eq_true.2 begun⟩)

/-- Settles O33. -/
theorem retirement : Obligations.Retirement := by
  unfold Obligations.Retirement
  intro s p fc here alone unsummed launches unstepped opcode noCore issued
  have single : p.op.launches = false := launches p (Dev.place_mem here)
  have plain (unwritten : p.dest = none) : s.dev.Plain p := ⟨alone, unsummed, launches, unstepped, opcode, noCore, single, unwritten⟩
  refine ⟨fun finished unwritten unsent unacked unsentMsgs prefetch landed settled => ?finished, fun waiting unwritten collects => ?waiting⟩
  case finished =>
    have noBlocks : s.dev.awaitsBlocks p = false := by
      simp only [List.mem_cons, not_or] at opcode
      simp [Dev.awaitsBlocks, opcode.2.2.1]
    have resend : (s.dev.qlk.resend.any fun e => e.1 == p.id) = false := by
      simpa [List.any_eq_false] using fun a b c h => settled (a, b, c) h
    have done : s.dev.canRetire p = true := by
      simp [Dev.canRetire, issued, finished, unsent, unacked, unsentMsgs, prefetch, landed, noBlocks, resend]
    rw [exec_operationRetire_done here fc done]
    refine ⟨fun collects => ?_, fun same full => ?_⟩
    · obtain ⟨place, retired, mem, rings, seats, ctxs⟩ := Dev.retire_spec (plain unwritten) here collects
      exact ⟨_, _, rfl, place, rfl, rfl, rfl, rfl, rfl, retired, mem, rings, seats, ctxs, rfl⟩
    · obtain ⟨place, x, rest⟩ := s.dev.stallPlace_spec p .collector p here
      have mem : (s.dev.stallPlace p .collector).mem = s.dev.mem := by rw [rest]
      have rings : (s.dev.stallPlace p .collector).rings = s.dev.rings := by rw [rest]
      rw [Dev.retire_full same full]
      exact ⟨_, _, rfl, place, finished, mem, rings⟩
  case waiting =>
    refine ⟨fun bad starts h0 => ?_, fun skipped begun => ?_⟩
    · subst h0
      have going : s.dev.canRetire p = false := by simp [Dev.canRetire, Dev.bodyDone, waiting]
      obtain ⟨q, place, spec⟩ := Dev.retireUnrun_spec (plain unwritten) here .badDescriptor collects
      exact ⟨_, q, exec_operationRetire_bad here 0 going waiting bad starts, place, spec⟩
    · obtain ⟨q, place, spec⟩ := Dev.retireUnrun_spec (plain unwritten) here .skipped collects
      exact ⟨_, q, exec_skippedOperation here waiting skipped begun, place, spec⟩

end Sys2Proof.Machine
end

section
/-! SUPPORT. Register accesses (O34, O35): which accesses reach a register, what a write to a plain field reads back, and what the
_LO registers latch. -/

namespace Sys2Proof.Machine

/-! ## O34: sizes, alignment and plain fields -/

theorem State.write32_absent {s : State} {fn : Fn} (absent : s.present fn = false) (o v : Nat) : s.write32 fn o v = s := by
  have unreached : s.reaches fn o = false := by
    cases fn with
    | pf =>
      have neither : s.ready = false ∧ (s.pwr.boot == .recovery) = false := Bool.or_eq_false_iff.1 absent
      change (s.ready || s.mgtReady && inRecovery o) = false
      rw [neither.1, show s.mgtReady = false from absent]
      rfl
    | vf n => exact absent
  exact if_pos (by simp [unreached])

theorem exec_registerWrite_bad {s : State} {fn : Fn} {off : Nat} {wide : Bool} (there : s.present fn = true)
    (bad : accessOk fn off (if wide then 8 else 4) false = false) (v : Nat) : exec (.registerWrite fn off wide v) s = .next (s.setLeaf .host 0) :=
  congrArg Host.Outcome.next ((if_neg (by simp [there])).trans (if_pos (by simp [bad])))

theorem exec_badAccess_bad {s : State} {fn : Fn} {off size : Nat} {isRead : Bool} (there : s.present fn = true)
    (bad : accessOk fn off size isRead = false) : exec (.badAccess fn off size isRead) s =
      .next (if isRead then (s.setLeaf .host 0).emit (.readData (leBytes 4 0xFFFFFFFF) false) else s.setLeaf .host 0) :=
  congrArg Host.Outcome.next (if_neg (by simp [there, bad]))

/-- An aligned 32-bit write, but of a doorbell. -/
theorem exec_registerWrite_narrow (s : State) {fn : Fn} {off : Nat} (ok : accessOk fn off 4 false = true) (v : Nat) :
    exec (.registerWrite fn off false v) s = .next (s.write32 fn off (v % 2 ^ 32)) := by
  by_cases there : s.present fn = true
  · exact congrArg Host.Outcome.next ((if_neg (by simp [there])).trans ((if_neg (by simp [ok])).trans (if_pos rfl)))
  · rw [State.write32_absent (by simpa using there)]
    exact congrArg Host.Outcome.next (if_pos (by simp [there]))

theorem accessOk_pf {off : Nat} (aligned : off % 4 = 0) : accessOk .pf off 4 false = true := by
  simp [accessOk, isDoorbell, inDoorbells, aligned]

theorem exec_registerWrite_wide {s : State} {off : Nat} (there : s.present .pf = true) (aligned : off % 8 = 0) (v : Nat) :
    exec (.registerWrite .pf off true v) s =
      .next ((s.write32 .pf off (v % 2 ^ 32)).write32 .pf (off + 4) (v / 2 ^ 32 % 2 ^ 32)) := by
  have ok : accessOk .pf off 8 false = true := by simp [accessOk, aligned]
  exact congrArg Host.Outcome.next ((if_neg (by simp [there])).trans ((if_neg (by simp [ok])).trans (if_neg (by simp))))

theorem State.write32_pf {s : State} (h : s.ready = true) (o v : Nat) : s.write32 .pf o v = s.writePf o v :=
  if_neg (by simp [State.reaches, h])

/-- The low 6 bits of a 32-bit value are dropped by a division and a multiplication. -/
theorem and_aligned (v : Nat) : v % 2 ^ 32 &&& 0xFFFFFFC0 = v % 2 ^ 32 / 64 * 64 := by
  refine Nat.eq_of_testBit_eq fun i => ?_
  rw [Nat.testBit_and, show (0xFFFFFFC0 : Nat) = (2 ^ 26 - 1) <<< 6 from rfl, Nat.testBit_shiftLeft, Nat.testBit_two_pow_sub_one,
    show (64 : Nat) = 2 ^ 6 from rfl, Nat.testBit_mul_two_pow, Nat.testBit_div_two_pow, Nat.testBit_mod_two_pow]
  by_cases low : 6 ≤ i
  · rw [show i - 6 + 6 = i by omega, Nat.testBit_mod_two_pow]
    by_cases high : i < 32
    · simp [high, low, show i - 6 < 26 by omega]
    · simp [high]
  · simp [low]

theorem lo32_setLo (x : Nat) {v : Nat} (h : v < 2 ^ 32) : lo32 (setLo x v) = v := by
  unfold lo32 setLo
  omega

theorem hi32_setHi (x : Nat) {v : Nat} (h : v < 2 ^ 32) : hi32 (setHi x v) = v := by
  unfold hi32 setHi
  omega

/-- A register whose write only puts a value in a field of the state, and whose read shows it. -/
def State.Plain (s t : State) (o x : Nat) : Prop :=
  t.pfValue o = x ∧ latchesHi .pf (o - 4) = false ∧ t.pending = s.pending ∧ t.pwr.boot = s.pwr.boot ∧ t.dev.mem = s.dev.mem ∧
    t.dev.rings = s.dev.rings ∧ t.dev.layout = s.dev.layout

theorem exec_registerWrite_plain {s : State} {o v x : Nat} (h : s.ready = true) (aligned : o % 4 = 0)
    (plain : s.Plain (s.writePf o (v % 2 ^ 32)) o x) :
    ∃ t, exec (.registerWrite .pf o false v) s = .next t ∧ t.readValue .pf o = x ∧ t.pending = s.pending ∧
      t.dev.mem = s.dev.mem ∧ t.dev.rings = s.dev.rings ∧ t.dev.layout = s.dev.layout := by
  obtain ⟨value, unlatched, pending, boot, frame⟩ := plain
  have ready : (s.writePf o (v % 2 ^ 32)).ready = true := by rw [State.ready, boot]; exact h
  refine ⟨_, (exec_registerWrite_narrow s (accessOk_pf aligned) v).trans (by rw [State.write32_pf h]), ?_, pending, frame⟩
  have read := (if_neg (by simp [unlatched]) : (s.writePf o (v % 2 ^ 32)).readValue .pf o = _)
  have reach : (s.writePf o (v % 2 ^ 32)).reaches .pf o = true := by simp only [State.reaches, ready, Bool.true_or]
  exact read.trans ((if_pos reach).trans value)

/-- The two words of a source address. -/
theorem State.plain_src (s : State) (x : Nat) :
    s.Plain { s with lay := { s.lay with src := x } } 0x20010 (lo32 x) ∧ s.Plain { s with lay := { s.lay with src := x } } 0x20014 (hi32 x) ∧
    s.Plain { s with tst := { s.tst with src := x } } 0x1E00010 (lo32 x) ∧ s.Plain { s with tst := { s.tst with src := x } } 0x1E00014 (hi32 x) ∧
    s.Plain { s with mgt := { s.mgt with src := x } } 0x1F80028 (lo32 x) ∧ s.Plain { s with mgt := { s.mgt with src := x } } 0x1F8002C (hi32 x) :=
  ⟨⟨rfl, rfl, rfl, rfl, rfl, rfl, rfl⟩, ⟨rfl, rfl, rfl, rfl, rfl, rfl, rfl⟩, ⟨rfl, rfl, rfl, rfl, rfl, rfl, rfl⟩,
    ⟨rfl, rfl, rfl, rfl, rfl, rfl, rfl⟩, ⟨rfl, rfl, rfl, rfl, rfl, rfl, rfl⟩, ⟨rfl, rfl, rfl, rfl, rfl, rfl, rfl⟩⟩

/-- Fields of a whole word, of its low bits, and of an aligned address. -/
theorem State.plain_fields (s : State) (v : Nat) : ∀ r ∈ [(0x330, 0xFFF), (0x10004, 0xFFF), (0x10008, 0xFFF), (0x20010, 0xFFFFFFC0),
      (0x20014, 0xFFFFFFFF), (0x20018, 0x1FFFFFF), (0x1808010, 0x3FF), (0x1E00010, 0xFFFFFFC0), (0x1E00014, 0xFFFFFFFF),
      (0x1E00018, 0x1FFFFFF), (0x1E0003C, 0xFFF), (0x1F04010, 0x3F), (0x1F80028, 0xFFFFFFC0), (0x1F8002C, 0xFFFFFFFF), (0x1F80030, 0x1FFFFFF)],
    r.1 % 4 = 0 ∧ s.Plain (s.writePf r.1 (v % 2 ^ 32)) r.1 (v % 2 ^ 32 &&& r.2) := by
  have low (n : Nat) : v % 2 ^ 32 % 2 ^ n = v % 2 ^ 32 &&& 2 ^ n - 1 := (Nat.and_two_pow_sub_one_eq_mod _ n).symm
  have lower (x : Nat) : v % 2 ^ 32 &&& 0xFFFFFFC0 = lo32 (setLo x (v % 2 ^ 32 / 64 * 64)) :=
    (and_aligned v).trans (lo32_setLo x (by omega)).symm
  have upper (x : Nat) : v % 2 ^ 32 &&& 0xFFFFFFFF = hi32 (setHi x (v % 2 ^ 32)) :=
    ((Nat.and_two_pow_sub_one_eq_mod _ 32).trans (Nat.mod_mod _ _)).trans (hi32_setHi x (Nat.mod_lt _ (by decide))).symm
  obtain ⟨layLo, -, -, -, -, -⟩ := s.plain_src (setLo s.lay.src (v % 2 ^ 32 / 64 * 64))
  obtain ⟨-, layHi, -, -, -, -⟩ := s.plain_src (setHi s.lay.src (v % 2 ^ 32))
  obtain ⟨-, -, tstLo, -, -, -⟩ := s.plain_src (setLo s.tst.src (v % 2 ^ 32 / 64 * 64))
  obtain ⟨-, -, -, tstHi, -, -⟩ := s.plain_src (setHi s.tst.src (v % 2 ^ 32))
  obtain ⟨-, -, -, -, mgtLo, -⟩ := s.plain_src (setLo s.mgt.src (v % 2 ^ 32 / 64 * 64))
  obtain ⟨-, -, -, -, -, mgtHi⟩ := s.plain_src (setHi s.mgt.src (v % 2 ^ 32))
  rw [← lower] at layLo tstLo mgtLo
  rw [← upper] at layHi tstHi mgtHi
  have fn := Dev.fn_updFn s.dev 0 0 fun f => { f with mask := v % 2 ^ 32 % 4096 }
  rw [if_pos rfl] at fn
  simp only [List.forall_mem_cons]
  exact ⟨⟨trivial, low 12, rfl, rfl, rfl, rfl, rfl, rfl⟩, ⟨trivial, low 12, rfl, rfl, rfl, rfl, rfl, rfl⟩,
    ⟨trivial, (congrArg FnCfg.mask fn).trans (low 12), rfl, rfl, rfl, rfl, rfl, rfl⟩, ⟨trivial, layLo⟩, ⟨trivial, layHi⟩,
    ⟨trivial, low 25, rfl, rfl, rfl, rfl, rfl, rfl⟩, ⟨trivial, low 10, rfl, rfl, rfl, rfl, rfl, rfl⟩, ⟨trivial, tstLo⟩, ⟨trivial, tstHi⟩,
    ⟨trivial, low 25, rfl, rfl, rfl, rfl, rfl, rfl⟩, ⟨trivial, low 12, rfl, rfl, rfl, rfl, rfl, rfl⟩,
    ⟨trivial, low 6, rfl, rfl, rfl, rfl, rfl, rfl⟩, ⟨trivial, mgtLo⟩, ⟨trivial, mgtHi⟩,
    ⟨trivial, low 25, rfl, rfl, rfl, rfl, rfl, rfl⟩, fun _ h => absurd h List.not_mem_nil⟩

/-- Past the last block no register lies (R554). -/
theorem State.writePf_past (s : State) {o : Nat} (h : 0x2000000 ≤ o) (v : Nat) : s.writePf o v = s := by
  have leaf (p : Nat) (hp : 0x1FFFFFC ≤ p) : leafAt .pf p = none := by
    unfold leafAt
    simp only [show p ≠ 0x200 by omega, show p ≠ 0x310 by omega, show p ≠ 0x20100 by omega, show p ≠ 0x140000 by omega,
      show p ≠ 0x1400100 by omega, show p ≠ 0x1808100 by omega, show p ≠ 0x1C04000 by omega, show p ≠ 0x1E00100 by omega,
      show p ≠ 0x1F00100 by omega, show p ≠ 0x1F80100 by omega, if_false]
    rw [if_neg (by omega), if_neg (by omega)]
  have mask : maskAt .pf o = none := by
    rw [maskAt, leaf (o - 4) (by omega)]
    exact if_neg (by omega)
  have none_ (lo hi : Nat) (hi_ : hi ≤ 0x2000000) : ¬ (lo ≤ o ∧ o < hi) := by omega
  unfold State.writePf
  rw [leaf o (by omega), mask]
  simp only [none_, Nat.not_lt.2 (Nat.le_trans (by decide : 0x10000 ≤ 0x2000000) h), Nat.not_lt.2 (Nat.le_trans (by decide : 0x20000 ≤ 0x2000000) h),
    Nat.not_lt.2 (Nat.le_trans (by decide : 0x21000 ≤ 0x2000000) h), if_false, Nat.reduceLeDiff]

/-- Settles O34. -/
theorem registerAccess : Obligations.RegisterAccess := by
  unfold Obligations.RegisterAccess
  refine ⟨fun s fn off v wide there bad => exec_registerWrite_bad there ?_ v, fun s fn off size there bad => ?_,
    fun s off v there aligned => ?_, fun s r v ready hr => ?_, fun s off v ready aligned past => ?_,
    fun s n off v ready vf hn unused aligned out => ?_⟩
  · cases bad with
    | inl misaligned => simp [accessOk, misaligned]
    | inr doorbell =>
      obtain ⟨rfl, n, rfl, lo, hi, at_⟩ := doorbell
      rcases at_ with at_ | at_ <;> simp [accessOk, isDoorbell, inDoorbells, lo, hi, at_]
  · have no (isRead : Bool) : accessOk fn off size isRead = false := by
      rcases bad with ⟨no4, no8⟩ | misaligned
      · simp [accessOk, no4, no8]
      · simp [accessOk, misaligned]
    exact ⟨exec_badAccess_bad there (no false), exec_badAccess_bad there (no true)⟩
  · exact ⟨_, _, (exec_registerWrite_narrow s (accessOk_pf (by omega)) _).trans (by rw [Nat.mod_mod]),
      (exec_registerWrite_narrow _ (accessOk_pf (by omega)) _).trans (by rw [Nat.mod_mod]), exec_registerWrite_wide there aligned v⟩
  · obtain ⟨aligned, plain⟩ := State.plain_fields s v r hr
    exact exec_registerWrite_plain ready aligned plain
  · rw [exec_registerWrite_narrow s (accessOk_pf aligned), State.write32_pf ready, State.writePf_past s past]
  · have ok : accessOk (.vf n) off 4 false = true := by
      simp [accessOk, isDoorbell, inDoorbells, aligned]
      omega
    rw [exec_registerWrite_narrow s ok]
    exact congrArg Host.Outcome.next ((if_neg (by simp [State.reaches, ready, vf, hn])).trans (if_pos unused))

/-! ## O35: leaves and latches -/

theorem testBit_bitClear (x m b : Nat) : (bitClear x m).testBit b = (x.testBit b && !m.testBit b) := by
  rw [bitClear, Nat.testBit_xor, Nat.testBit_and]
  cases x.testBit b <;> cases m.testBit b <;> rfl

/-- What a write of 1s to a leaf register leaves set (R560). -/
theorem Dev.testBit_leaf_clearLeaf (d : Dev) (r : LeafReg) (v b : Nat) :
    ((d.clearLeaf r v).leaf r).testBit b = ((d.leaf r).testBit b && !(v.testBit b && !(d.recent.get 0 r.key).testBit b)) := by
  have leaf : (d.clearLeaf r v).leaf r = bitClear (d.leaf r) (bitClear v (d.recent.get 0 r.key)) :=
    (SMap.get_put _).trans (if_pos rfl)
  rw [leaf, testBit_bitClear, testBit_bitClear]

theorem Dev.leaf_clearLeaf_ne (d : Dev) {r q : LeafReg} (v : Nat) (ne : q.key ≠ r.key) : (d.clearLeaf r v).leaf q = d.leaf q :=
  (SMap.get_put _).trans (if_neg ne)

theorem State.writeLeaf_testBit (s : State) (r : LeafReg) (w v b : Nat) : ((s.writeLeaf (r, w) v).dev.leaf r).testBit b =
    ((s.dev.leaf r).testBit b && !(v.testBit b && w.testBit b && !(s.dev.recent.get 0 r.key).testBit b)) :=
  (Dev.testBit_leaf_clearLeaf s.dev r (v &&& w) b).trans (by rw [Nat.testBit_and])

theorem exec_leafClear_pf {s : State} {off : Nat} {r : LeafReg} {w : Nat} (ready : s.ready = true) (here : leafAt .pf off = some (r, w)) (v : Nat) :
    exec (.leafClear .pf off v) s = .next (s.writeLeaf (r, w) v) := by
  change execLeafClear .pf off v s = _
  rw [execLeafClear, here]
  exact congrArg Host.Outcome.next (if_pos (by simp [State.reaches, ready]))

theorem exec_leafClear_vf {s : State} {n off : Nat} {r : LeafReg} {w : Nat} (reaches : s.reaches (.vf n) off = true)
    (used : (s.dev.seat n).state ≠ .unused) (here : leafAt (.vf n) off = some (r, w)) (v : Nat) :
    exec (.leafClear (.vf n) off v) s = .next (s.writeLeaf (r, w) v) := by
  change execLeafClear (.vf n) off v s = _
  rw [execLeafClear, here]
  exact congrArg Host.Outcome.next (if_pos (by simp [reaches, used]))

/-- Where the _LO registers of PF BAR0 lie that latch. -/
theorem latchesHi_pf {o : Nat} (h : latchesHi .pf o = true) :
    o = 0x10024 ∨ (0x200000 ≤ o ∧ o < 0x208000 ∧ o % 8 = 0) ∨
    (0x300000 ≤ o ∧ o < 0x340000 ∧ (o % 0x1000 = 0x1C ∨ 0x100 ≤ o % 0x1000 ∧ o % 8 = 0)) ∨
    (0x1400000 ≤ o ∧ o < 0x1808000 ∧ o % 8 = 0) ∨ (0x1808000 ≤ o ∧ o < 0x1809000 ∧ o % 8 = 0) ∨
    (0x1C00000 ≤ o ∧ o < 0x1C01800 ∧ o % 8 = 4) ∨ o = 0x1F04008 := by
  simp only [latchesHi] at h
  split_ifs at h with glb slots seats trk ports qlk units
  · exact .inl (eq_of_beq h)
  all_goals
    simp at h
    omega

/-- No _HI register latches another. -/
theorem latchesHi_next {fn : Fn} {o : Nat} (h : latchesHi fn (o + 4) = true) : latchesHi fn o = false := by
  rw [Bool.eq_false_iff]
  intro both
  cases fn with
  | vf n =>
    have upper := eq_of_beq h
    have lower := eq_of_beq both
    omega
  | pf =>
    have upper := latchesHi_pf h
    have lower := latchesHi_pf both
    omega

theorem State.readValue_lo {s : State} {fn : Fn} {o : Nat} (h : latchesHi fn o = true) : s.readValue fn o = s.liveValue fn o := by
  refine if_neg fun ⟨above, latched, _⟩ => ?_
  have none_ := latchesHi_next (o := o - 4) (by rwa [Nat.sub_add_cancel above])
  rw [none_] at latched
  cases latched

/-- The device once the register at `o` has latched the one above it. -/
def Dev.latched (d : Dev) (fn : Fn) (o x : Nat) : Dev := { d with latches := d.latches.put 0 (latchKey fn (o + 4)) x }

theorem State.readValue_latched {s : State} {fn : Fn} {o : Nat} (reaches : s.reaches fn (o + 4) = true) (h : latchesHi fn o = true) (x : Nat) (out : List Out) :
    State.readValue { s with dev := { s.dev.latched fn o x with out := out } } fn (o + 4) = x := by
  have reach : ({ s with dev := { s.dev.latched fn o x with out := out } } : State).reaches fn (o + 4) = true := reaches
  exact (if_pos ⟨Nat.le_add_left _ _, by simpa using h, reach⟩).trans ((SMap.get_put _).trans (if_pos rfl))

theorem State.read32_latches {s : State} {fn : Fn} {o : Nat} (reaches : s.reaches fn o = true) (h : latchesHi fn o = true) :
    s.read32 fn o = ({ s with dev := s.dev.latched fn o (s.liveValue fn (o + 4)) }, s.liveValue fn o) := by
  unfold State.read32
  rw [if_pos (by simp [reaches, h]), State.readValue_lo h]
  rfl

theorem exec_latchingLoRead {s : State} {fn : Fn} {o : Nat} (reaches : s.reaches fn o = true) (h : latchesHi fn o = true) :
    exec (.latchingLoRead fn o) s = .next (State.emit { s with dev := s.dev.latched fn o (s.liveValue fn (o + 4)) }
      (.readData (leBytes 4 (s.liveValue fn o)) false)) :=
  congrArg Host.Outcome.next ((if_pos (by simp [reaches, h])).trans (by rw [State.read32_latches reaches h]))

/-- Settles O35. -/
theorem leavesAndLatches : Obligations.LeavesAndLatches := by
  unfold Obligations.LeavesAndLatches
  refine ⟨fun s off v r w ready here => ?_, fun s n off v r w ready vf hn used here => ?_, fun s fn off lo hi latch => ?_⟩
  · exact ⟨_, exec_leafClear_pf ready here v, State.writeLeaf_testBit s r w v, fun q ne => Dev.leaf_clearLeaf_ne _ _ ne, rfl⟩
  · exact ⟨_, exec_leafClear_vf (by simp [State.reaches, ready, vf, hn]) used here v, State.writeLeaf_testBit s r w v⟩
  · refine ⟨_, exec_latchingLoRead lo latch, rfl, State.readValue_latched hi latch _ _, ?_, rfl⟩
    have second := State.readValue_latched hi latch (s.liveValue fn (off + 4)) s.dev.out
    unfold State.read64
    rw [State.read32_latches lo latch]
    exact congrArg (fun x => s.liveValue fn off + 2 ^ 32 * x) second

end Sys2Proof.Machine
end

section
/-! SUPPORT. The layout block's commands and the swap (O36, O37): what each row of R64 does, and what a swap point keeps of the rings. -/

namespace Sys2Proof.Machine

/-! ## O36: the commands of the layout block -/

theorem exec_layLoad {s : State} (ready : s.ready = true) (staging : s.mgt.state ≠ .staging) (verifying : s.mgt.state ≠ .verifying)
    (writing : s.mgt.state ≠ .writing) : exec .layLoad s = .next
      (if s.lay.shadow ∈ [.empty, .loaded, .valid, .refused, .retired] then
        { s with lay := { s.lay with shadow := .loading, loaded := 0, image := [], staged := none } }
      else s.setLeaf .lay 5) := by
  change execLayLoad s = _
  rw [execLayLoad, State.if_not_ready ready, if_neg (by simp [staging, verifying, writing])]
  cases s.lay.shadow <;> rfl

theorem exec_layoutCopyDone_waits {s : State} {bytes : List Byte}
    (blocked : s.dev.rangeBlocked (layoutBuffer (1 - s.lay.activeBuffer)) bytes.length = true) : exec (.layoutCopyDone bytes) s = .next s :=
  congrArg Host.Outcome.next (if_pos (.inr (by simp [State.shadowOpen, blocked])))

/-- The state in which a copy's bytes stand in the shadow buffer. -/
def State.copied (s : State) (bytes : List Byte) : State :=
  { s.fillShadow (bytes.take 0x2000000) with lay := { s.lay with loaded := bytes.length % 2 ^ 25, image := bytes } }

theorem exec_layoutCopyDone_lands {s : State} {bytes : List Byte} (loading : s.lay.shadow = .loading)
    (free : s.dev.rangeBlocked (layoutBuffer (1 - s.lay.activeBuffer)) bytes.length = false) : exec (.layoutCopyDone bytes) s = .next
      (if bytes.length = s.lay.srcLen ∧ field bytes 0x10 8 = bytes.length then
        { s.copied bytes with lay := { (s.copied bytes).lay with shadow := .loaded } }
      else (s.copied bytes).refuseLayout 1 0 0 true) := by
  have go : ¬(s.lay.shadow ≠ .loading ∨ s.shadowOpen bytes.length = false) := by simp [loading, State.shadowOpen, free]
  exact congrArg Host.Outcome.next (if_neg go)

/-- What a refusal with the leaf REFUSED leaves (R67). -/
theorem State.refuseLayout_spec (s : State) (code sect entry : Nat) : ∃ t, s.refuseLayout code sect entry true = t ∧ t.lay.shadow = .refused ∧
    t.lay.code = code ∧ t.lay.section_ = sect ∧ t.lay.entry = entry ∧ t.lay.staged = none ∧ (t.dev.leaf .lay).testBit 0 = true ∧
    t.lay.image = s.lay.image ∧ t.lay.activeImage = s.lay.activeImage ∧ t.dev.layout = s.dev.layout ∧ t.dev.rings = s.dev.rings ∧
    t.dev.board = s.dev.board ∧ t.dev.mem = s.dev.mem ∧ t.dev.swapStop = [] :=
  ⟨_, rfl, rfl, rfl, rfl, rfl, rfl, Dev.testBit_leaf_setLeaf _ _ _, rfl, rfl, rfl, rfl, rfl, rfl, rfl⟩

theorem layoutCopy {s : State} {bytes : List Byte} (loading : s.lay.shadow = .loading)
    (free : s.dev.rangeBlocked (layoutBuffer (1 - s.lay.activeBuffer)) bytes.length = false) :
    ∃ t e, exec (.layoutCopyDone bytes) s = .next t ∧ t.lay.image = bytes ∧ t.lay.activeImage = s.lay.activeImage ∧
      e = s.dev.writeInternal (layoutBuffer (1 - s.lay.activeBuffer)) (bytes.take 0x2000000) ∧
      (if bytes.length = s.lay.srcLen ∧ field bytes 0x10 8 = bytes.length then t.lay.shadow = .loaded ∧ t.dev = e
      else t.lay.shadow = .refused ∧ t.lay.code = 1 ∧ (t.dev.leaf .lay).testBit 0 = true ∧ t.dev.mem = e.mem ∧
        t.dev.layout = e.layout) := by
  refine ⟨_, s.dev.writeInternal (layoutBuffer (1 - s.lay.activeBuffer)) (bytes.take 0x2000000), exec_layoutCopyDone_lands loading free, ?_⟩
  by_cases whole : bytes.length = s.lay.srcLen ∧ field bytes 0x10 8 = bytes.length
  · simp only [if_pos whole]
    exact ⟨rfl, rfl, trivial, trivial, rfl⟩
  · obtain ⟨t, ht, shadow, code, -, -, -, leaf, image, active, layout, -, -, mem, -⟩ := (s.copied bytes).refuseLayout_spec 1 0 0
    simp only [if_neg whole, ht]
    exact ⟨image, active, trivial, shadow, code, leaf, mem, layout⟩

theorem exec_layValidate {s : State} (ready : s.ready = true) : exec .layValidate s = .next
    (if s.lay.shadow = .loaded then { s with lay := { s.lay with shadow := .validating } } else s.setLeaf .lay 5) :=
  congrArg Host.Outcome.next (State.if_not_ready ready _ _)

theorem exec_layoutValidationDone_valid {s : State} (validating : s.lay.shadow = .validating) (passes : validate s.lay.image s.against = none) :
    exec .layoutValidationDone s = .next
      { s with lay := { s.lay with shadow := .valid, staged := some (Layout.ofBytes s.lay.image), code := 0, section_ := 0, entry := 0 } } := by
  change execLayoutValidationDone s = _
  rw [execLayoutValidationDone, if_neg (by simp [validating]), passes]

theorem exec_layoutValidationDone_refused {s : State} (validating : s.lay.shadow = .validating) {c : Nat} {h : Hit}
    (fails : validate s.lay.image s.against = some (c, h)) :
    exec .layoutValidationDone s = .next (s.refuseLayout c h.1 h.2 true) := by
  change execLayoutValidationDone s = _
  rw [execLayoutValidationDone, if_neg (by simp [validating]), fails]

theorem layoutValidation {s : State} (validating : s.lay.shadow = .validating) :
    ∃ t, exec .layoutValidationDone s = .next t ∧ t.dev.layout = s.dev.layout ∧ t.dev.rings = s.dev.rings ∧
      t.dev.board = s.dev.board ∧ t.lay.image = s.lay.image ∧ t.lay.activeImage = s.lay.activeImage ∧
      (validate s.lay.image s.against = none →
        t.lay.shadow = .valid ∧ t.lay.staged = some (Layout.ofBytes s.lay.image) ∧ t.dev = s.dev) ∧
      (∀ c h, validate s.lay.image s.against = some (c, h) →
        t.lay.shadow = .refused ∧ t.lay.code = c ∧ t.lay.section_ = h.1 ∧ t.lay.entry = h.2 ∧ t.lay.staged = none ∧
        (t.dev.leaf .lay).testBit 0 = true) := by
  cases verdict : validate s.lay.image s.against with
  | none =>
    exact ⟨_, exec_layoutValidationDone_valid validating verdict, rfl, rfl, rfl, rfl, rfl, fun _ => ⟨rfl, rfl, rfl⟩, nofun⟩
  | some r =>
    obtain ⟨c, h⟩ := r
    obtain ⟨t, ht, shadow, code, sect, entry, staged, leaf, image, active, layout, rings, board, -, -⟩ := s.refuseLayout_spec c h.1 h.2
    refine ⟨t, (exec_layoutValidationDone_refused validating verdict).trans (congrArg _ ht), layout, rings, board, image, active, nofun, ?_⟩
    intro c' h' same
    cases same
    exact ⟨shadow, code, sect, entry, staged, leaf⟩

/-- DISCARD of what no swap holds (R64). -/
theorem exec_layDiscard_empties {s : State} (ready : s.ready = true)
    (h : s.lay.shadow ∈ [.loading, .loaded, .valid, .refused] ∨ (s.lay.shadow = .retired ∧ s.lay.swapAt ≠ some s.dev.slow)) :
    exec .layDiscard s = .next { s with lay := { s.lay with shadow := .empty, image := [], staged := none } } := by
  change execLayDiscard s = _
  rw [execLayDiscard, State.if_not_ready ready]
  rcases h with held | ⟨retired, later⟩
  · simp only [List.mem_cons, List.not_mem_nil, or_false] at held
    rcases held with h | h | h | h <;> rw [h]
  · rw [retired]
    exact congrArg Host.Outcome.next (if_neg later)

theorem exec_layDiscard_cancels {s : State} (ready : s.ready = true) (pending : s.lay.shadow = .swapPending)
    (undue : ∀ new, s.lay.staged = some new → s.swapDue new = false) : exec .layDiscard s = .next (s.refuseLayout 0x0D 0 0 false) := by
  change execLayDiscard s = _
  rw [execLayDiscard, State.if_not_ready ready, pending]
  refine congrArg Host.Outcome.next (if_neg ?_)
  cases staged : s.lay.staged with
  | none => simp
  | some new => simp [undue new staged]

theorem exec_layDiscard_bad {s : State} (ready : s.ready = true) (h : s.lay.shadow = .empty ∨ s.lay.shadow = .validating) :
    exec .layDiscard s = .next (s.setLeaf .lay 5) := by
  change execLayDiscard s = _
  rw [execLayDiscard, State.if_not_ready ready]
  rcases h with h | h <;> rw [h] <;> rfl

theorem exec_layKeyEnroll {s : State} (ready : s.ready = true) (slot : Nat) : exec (.layKeyEnroll slot) s = .next
    (if s.dev.layout = none ∧ s.lay.keys.getD slot none = none then
      { s with lay := { s.lay with keys := s.lay.keys.set slot (some s.lay.keyDigest) } }
    else s.setLeaf .lay 5) := by
  refine congrArg Host.Outcome.next ((State.if_not_ready ready _ _).trans ?_)
  simp only [Dev.held, Bool.and_eq_true, Option.isNone_iff_eq_none, State.badLayout]

theorem exec_layKeyClear {s : State} (ready : s.ready = true) (slot : Nat) : exec (.layKeyClear slot) s = .next
    (if s.dev.layout = none then { s with lay := { s.lay with keys := s.lay.keys.set slot none } } else s.setLeaf .lay 5) := by
  refine congrArg Host.Outcome.next ((State.if_not_ready ready _ _).trans ?_)
  simp only [Dev.held, Option.isNone_iff_eq_none, State.badLayout]

/-- Settles O36. -/
theorem layoutCommands : Obligations.LayoutCommands := by
  unfold Obligations.LayoutCommands
  refine ⟨fun s ready staging verifying writing => exec_layLoad ready staging verifying writing,
    fun s bytes loading => ⟨exec_layoutCopyDone_waits, layoutCopy loading⟩, fun s ready => exec_layValidate ready,
    fun s validating => layoutValidation validating, fun s ready => ⟨exec_layDiscard_empties ready, fun pending undue => ?_, exec_layDiscard_bad ready⟩,
    fun s slot ready _ => ⟨exec_layKeyEnroll ready slot, exec_layKeyClear ready slot⟩⟩
  exact ⟨_, exec_layDiscard_cancels ready pending undue, rfl, rfl, rfl⟩

/-! ## O37: what each part of a swap point leaves of the image, the rings and the scoreboard -/

/-- The image, the rings and the scoreboard are as they were. -/
structure Dev.KeepsRings (d e : Dev) : Prop where
  layout : e.layout = d.layout
  rings : e.rings = d.rings
  board : e.board = d.board

theorem Dev.KeepsRings.refl (d : Dev) : d.KeepsRings d := ⟨rfl, rfl, rfl⟩

theorem Dev.KeepsRings.trans {d e f : Dev} (h : d.KeepsRings e) (k : e.KeepsRings f) : d.KeepsRings f :=
  ⟨k.layout.trans h.layout, k.rings.trans h.rings, k.board.trans h.board⟩

theorem Dev.KeepsRings.foldl {α : Type} {f : Dev → α → Dev} (step : ∀ (d : Dev) (x : α), d.KeepsRings (f d x)) (l : List α) (d : Dev) :
    d.KeepsRings (l.foldl f d) := by
  induction l generalizing d with
  | nil => exact .refl d
  | cons x l ih => exact (step d x).trans (ih _)

theorem Dev.KeepsRings.ite {d e f : Dev} {c : Prop} [Decidable c] (he : d.KeepsRings e) (hf : d.KeepsRings f) :
    d.KeepsRings (if c then e else f) := by
  split
  · exact he
  · exact hf

theorem Dev.zeroSave_keeps (d : Dev) (r : SeatRec) : d.KeepsRings (d.zeroSave r) := .ite (.refl d) ⟨rfl, rfl, rfl⟩

theorem Dev.closeSeg_keeps (d : Dev) (x g : Nat) : d.KeepsRings (d.closeSeg x g) := .ite ⟨rfl, rfl, rfl⟩ (.refl d)

theorem Dev.uncover_keeps (d : Dev) (x : Nat) (c : Cover) : d.KeepsRings (d.uncover x c) := ⟨rfl, rfl, rfl⟩

theorem Dev.closeSegs_keeps (d : Dev) (x : Nat) : d.KeepsRings (d.closeSegs x) := by
  refine Dev.KeepsRings.foldl (fun e g => ?_) _ d
  exact .ite ((e.closeSeg_keeps x g).trans (Dev.uncover_keeps _ _ _)) (.refl e)

theorem Dev.updSeat_keeps (d : Dev) (n : Nat) (f : Seat → Seat) : d.KeepsRings (d.updSeat n f) := ⟨rfl, rfl, rfl⟩

theorem Dev.freshCtx_keeps (d : Dev) (x : Nat) : d.KeepsRings (d.freshCtx x) := ⟨rfl, rfl, rfl⟩

theorem Dev.closeWindows_keeps (d : Dev) (p : Nat → Bool) : d.KeepsRings (d.closeWindows p) := ⟨rfl, rfl, rfl⟩

theorem Dev.dropLines_keeps (d : Dev) (p : Line → Bool) : d.KeepsRings (d.dropLines p) := ⟨rfl, rfl, rfl⟩

theorem Dev.freshCtxs_keeps (d : Dev) (f : Nat → Nat) (l : List Nat) : d.KeepsRings (l.foldl (fun d c => d.freshCtx (f c)) d) :=
  Dev.KeepsRings.foldl (fun e c => e.freshCtx_keeps (f c)) l d

theorem Dev.removeCtx_keeps (d : Dev) (x : Nat) : d.KeepsRings (d.removeCtx x) := by
  unfold Dev.removeCtx
  extract_lets closed dropped windows
  have closed_ : d.KeepsRings closed := Dev.KeepsRings.foldl (fun e g => e.closeSeg_keeps x g) _ d
  exact ((closed_.trans (Dev.dropLines_keeps _ _)).trans (Dev.closeWindows_keeps _ _)).trans ((Dev.freshCtx_keeps _ _).trans (Dev.updSeat_keeps _ _ _))

theorem Dev.endTricks_keeps (d : Dev) (n : Nat) : d.KeepsRings (d.endTricks n) := by
  unfold Dev.endTricks
  extract_lets decided gone lost ids tricks trk e
  exact Dev.KeepsRings.ite ⟨rfl, rfl, rfl⟩ ⟨rfl, rfl, rfl⟩

theorem Dev.startScrub_keeps (d : Dev) (n : Nat) : d.KeepsRings (d.startScrub n) := ⟨rfl, rfl, rfl⟩

theorem Dev.seatArrives_keeps (d : Dev) (n : Nat) (new : Layout) : d.KeepsRings (d.seatArrives n new) := by
  unfold Dev.seatArrives
  extract_lets fresh clocks
  have fresh_ : d.KeepsRings fresh := Dev.freshCtxs_keeps d (16 * n + ·) _
  clear_value fresh
  have clocks_ : fresh.KeepsRings clocks := ⟨rfl, rfl, rfl⟩
  exact (fresh_.trans clocks_).trans (Dev.updSeat_keeps clocks n _)

theorem Dev.seatStays_keeps (d : Dev) (n : Nat) (new : Layout) : d.KeepsRings (d.seatStays n new) := by
  unfold Dev.seatStays
  extract_lets a b was is moved zeroed clocks removed fresh lost graphs
  have clocks_ : d.KeepsRings clocks := ⟨rfl, rfl, rfl⟩
  have removed_ : clocks.KeepsRings removed := Dev.KeepsRings.foldl Dev.removeCtx_keeps _ _
  have fresh_ : removed.KeepsRings fresh := Dev.freshCtxs_keeps _ (16 * n + ·) _
  have lost_ : fresh.KeepsRings lost := by
    refine Dev.KeepsRings.foldl (fun e c => ?_) _ _
    exact .ite (.refl _) ⟨rfl, rfl, rfl⟩
  have saved : lost.KeepsRings ((lost.zeroSave a).zeroSave b) := (Dev.zeroSave_keeps _ _).trans (Dev.zeroSave_keeps _ _)
  have graphs_ : fresh.KeepsRings graphs := .ite (lost_.trans (saved.trans (Dev.updSeat_keeps _ _ _))) (.refl _)
  exact (((clocks_.trans removed_).trans fresh_).trans graphs_).trans (Dev.updSeat_keeps _ _ _)

/-- What a seat that leaves does to the rings: those of its own are cleared of their counters, and count GENERATION no further. -/
structure Dev.LeavesRings (d e : Dev) (n : Nat) : Prop where
  layout : e.layout = d.layout
  board : e.board = d.board
  generation : ∀ i, (e.ring i).generation = (d.ring i).generation
  other : ∀ i, (d.ringRec i).seat ≠ n → e.ring i = d.ring i

theorem Dev.KeepsRings.ring {d e : Dev} (h : d.KeepsRings e) (i : Nat) : e.ring i = d.ring i := by
  rw [Dev.ring, h.rings]
  rfl

theorem Dev.KeepsRings.ringRec {d e : Dev} (h : d.KeepsRings e) (i : Nat) : e.ringRec i = d.ringRec i := Dev.ringRec_of_layout h.layout i

theorem Dev.KeepsRings.leaves {d e : Dev} (h : d.KeepsRings e) (n : Nat) : d.LeavesRings e n :=
  ⟨h.layout, h.board, fun i => congrArg Ring.generation (h.ring i), fun i _ => h.ring i⟩

theorem Dev.LeavesRings.trans {d e f : Dev} {n : Nat} (h : d.LeavesRings e n) (k : e.LeavesRings f n) : d.LeavesRings f n :=
  ⟨k.layout.trans h.layout, k.board.trans h.board, fun i => (k.generation i).trans (h.generation i),
    fun i ne => (k.other i (by rwa [Dev.ringRec_of_layout h.layout])).trans (h.other i ne)⟩

theorem Dev.ringRec_of_mem_seatRings {d : Dev} {n i : Nat} (h : i ∈ d.seatRings n) : (d.ringRec i).seat = n := by
  obtain ⟨⟨j, r⟩, listed, rfl⟩ := List.mem_map.1 h
  obtain ⟨inList, seat⟩ := List.mem_filter.1 listed
  obtain ⟨⟨q, k⟩, at_, same⟩ := List.mem_map.1 (List.mem_filter.1 inList).1
  cases same
  have get := List.mem_zipIdx_iff_getElem?.1 at_
  have record : d.ringRec k = q := by
    change ((d.layout.map (·.rings)).getD []).getD k {} = q
    rw [List.getD, get]
    rfl
  rw [record]
  exact eq_of_beq seat

theorem Dev.clearCounters_leaves (n : Nat) (l : List Nat) (d : Dev) (own : ∀ r ∈ l, (d.ringRec r).seat = n) :
    d.LeavesRings (l.foldl (fun d r => d.updRing r fun g => { g with exc := {}, crushed := 0, widened := 0, clamped := 0 }) d) n := by
  induction l generalizing d with
  | nil => exact (Dev.KeepsRings.refl d).leaves n
  | cons r l ih =>
    let e := d.updRing r fun g => { g with exc := {}, crushed := 0, widened := 0, clamped := 0 }
    refine Dev.LeavesRings.trans (e := e) ⟨rfl, rfl, fun i => ?_, fun i ne => ?_⟩ (ih e fun q hq => own q (List.mem_cons_of_mem _ hq))
    · rw [Dev.ring_updRing]
      split
      next same => rw [same]
      next => rfl
    · rw [Dev.ring_updRing, if_neg fun same => ne (by rw [same]; exact own r List.mem_cons_self)]

theorem Dev.scrubSeat_leaves (d : Dev) (n : Nat) : d.LeavesRings (d.scrubSeat n) n := by
  unfold Dev.scrubSeat
  extract_lets xs closed windows fresh cleared
  have closed_ : d.KeepsRings closed := Dev.KeepsRings.foldl Dev.closeSegs_keeps xs d
  have fresh_ : d.KeepsRings fresh := (closed_.trans (Dev.closeWindows_keeps _ _)).trans (Dev.freshCtxs_keeps windows id xs)
  have cleared_ : fresh.LeavesRings cleared n := Dev.clearCounters_leaves n _ fresh fun r hr => Dev.ringRec_of_mem_seatRings hr
  exact ((fresh_.leaves n).trans cleared_).trans ((Dev.updSeat_keeps _ _ _).leaves n)

theorem Dev.seatLeaves_leaves (d : Dev) (n : Nat) : d.LeavesRings (d.seatLeaves n) n := by
  unfold Dev.seatLeaves
  extract_lets zeroed dropped saved scrubbed
  have dropped_ : d.KeepsRings dropped := ⟨rfl, rfl, rfl⟩
  have saved_ : d.LeavesRings saved n := (dropped_.trans (Dev.zeroSave_keeps _ _)).leaves n
  have ended : saved.LeavesRings scrubbed n := (Dev.scrubSeat_leaves saved n).trans ((Dev.endTricks_keeps _ n).leaves n)
  exact (saved_.trans ended).trans (((Dev.startScrub_keeps _ n).trans (Dev.updSeat_keeps _ _ _)).leaves n)

/-- The seat leaves use under a new image. -/
def Dev.seatGoes (d : Dev) (new : Layout) (n : Nat) : Prop := (d.seatRec n).kind ≠ 0 ∧ new.uses n = false

/-- What the seats' turns at the swap point do to the rings. -/
structure Dev.SwapsSeats (new : Layout) (d e : Dev) : Prop where
  layout : e.layout = d.layout
  board : e.board = d.board
  generation : ∀ i, (e.ring i).generation = (d.ring i).generation
  stays : ∀ i, ¬d.seatGoes new (d.ringRec i).seat → e.ring i = d.ring i

theorem Dev.SwapsSeats.refl (new : Layout) (d : Dev) : d.SwapsSeats new d := ⟨rfl, rfl, fun _ => rfl, fun _ _ => rfl⟩

theorem Dev.KeepsRings.swapsSeats {d e : Dev} (h : d.KeepsRings e) (new : Layout) : d.SwapsSeats new e :=
  ⟨h.layout, h.board, fun i => congrArg Ring.generation (h.ring i), fun i _ => h.ring i⟩

theorem Dev.seatRec_of_layout {d e : Dev} (h : e.layout = d.layout) (n : Nat) : e.seatRec n = d.seatRec n := by rw [Dev.seatRec, h, Dev.seatRec]

theorem Dev.SwapsSeats.trans {new : Layout} {d e f : Dev} (h : d.SwapsSeats new e) (k : e.SwapsSeats new f) : d.SwapsSeats new f :=
  ⟨k.layout.trans h.layout, k.board.trans h.board, fun i => (k.generation i).trans (h.generation i), fun i stays =>
    (k.stays i (by rwa [Dev.seatGoes, Dev.ringRec_of_layout h.layout, Dev.seatRec_of_layout h.layout])).trans (h.stays i stays)⟩

theorem Dev.swapSeat_swaps (new : Layout) (d : Dev) (n : Nat) : d.SwapsSeats new (d.swapSeat new n) := by
  unfold Dev.swapSeat
  dsimp only
  split
  next goes =>
    obtain ⟨layout, board, generation, other⟩ := d.seatLeaves_leaves n
    refine ⟨layout, board, generation, fun i stays => other i ?_⟩
    rintro rfl
    simp only [Bool.and_eq_true, bne_iff_ne, Bool.not_eq_true'] at goes
    exact stays goes
  next =>
    exact (Dev.KeepsRings.ite (d.seatArrives_keeps n new) (.ite (d.seatStays_keeps n new) (.refl d))).swapsSeats new

theorem Dev.swapSeats_swaps (new : Layout) (l : List Nat) (d : Dev) : d.SwapsSeats new (l.foldl (Dev.swapSeat new) d) := by
  induction l generalizing d with
  | nil => exact .refl new d
  | cons n l ih => exact (d.swapSeat_swaps new n).trans (ih _)

/-! ## The rings at the swap point -/

/-- A ring at the swap point, from the ring before (R129). -/
def Dev.swappedRing (d : Dev) (new : Layout) (i : Nat) : Ring :=
  if d.held = false ∧ d.ringRec i = new.rings.getD i {} then d.ring i
  else if (new.rings.getD i {}).assigned then (d.ring i).startEmpty .running else { generation := (d.ring i).generation }

theorem Dev.ring_setRing (d : Dev) (i j : Nat) (r : Ring) : (d.setRing i r).ring j = if j = i then r else d.ring j := SMap.get_put _

theorem Dev.swapRing_spec (new : Layout) (d : Dev) (i : Nat) : (d.swapRing new i).layout = d.layout ∧ (d.swapRing new i).board = d.board ∧
    ∀ j, (d.swapRing new i).ring j = if j = i then d.swappedRing new i else d.ring j := by
  by_cases same : d.held = false ∧ d.ringRec i = new.rings.getD i {}
  · have run : d.swapRing new i = d := if_pos (by simp [same.1, same.2])
    rw [run]
    refine ⟨rfl, rfl, fun j => ?_⟩
    split
    next at_ => rw [at_, Dev.swappedRing, if_pos same]
    next => rfl
  · have guard : ¬(!d.held && d.ringRec i == new.rings.getD i {}) = true := by simpa using same
    have run : d.swapRing new i = if (new.rings.getD i {}).assigned then d.updRing i fun g => g.startEmpty .running
        else d.setRing i { generation := (d.ring i).generation } := if_neg guard
    by_cases assigned : (new.rings.getD i {}).assigned = true
    · rw [run, if_pos assigned, Dev.swappedRing, if_neg same, if_pos assigned]
      exact ⟨rfl, rfl, fun j => Dev.ring_updRing _ _ _ _⟩
    · rw [run, if_neg assigned, Dev.swappedRing, if_neg same, if_neg assigned]
      exact ⟨rfl, rfl, fun j => Dev.ring_setRing _ _ _ _⟩

theorem Dev.swapRings_spec (new : Layout) (n : Nat) (d : Dev) : ((List.range n).foldl (Dev.swapRing new) d).layout = d.layout ∧
    ((List.range n).foldl (Dev.swapRing new) d).board = d.board ∧
    ∀ j, ((List.range n).foldl (Dev.swapRing new) d).ring j = if j < n then d.swappedRing new j else d.ring j := by
  induction n with
  | zero => exact ⟨rfl, rfl, fun j => (if_neg (Nat.not_lt_zero j)).symm⟩
  | succ n ih =>
    rw [List.range_succ, List.foldl_append]
    obtain ⟨layout, board, ring⟩ := ih
    obtain ⟨layout', board', ring'⟩ := Dev.swapRing_spec new ((List.range n).foldl (Dev.swapRing new) d) n
    refine ⟨layout'.trans layout, board'.trans board, fun j => (ring' j).trans ?_⟩
    by_cases last : j = n
    · subst last
      have old : ((List.range j).foldl (Dev.swapRing new) d).ring j = d.ring j := (ring j).trans (if_neg (Nat.lt_irrefl j))
      rw [if_pos rfl, if_pos (Nat.lt_succ_self j), Dev.swappedRing, old, Dev.ringRec_of_layout layout, Dev.held, layout]
      rfl
    · rw [if_neg last, ring j]
      exact if_congr ⟨fun h => Nat.lt_succ_of_lt h, fun h => by omega⟩ rfl rfl

theorem Dev.swapSlots_keeps (new : Layout) (d : Dev) : d.KeepsRings (d.swapSlots new) := by
  refine Dev.KeepsRings.foldl (fun e i => ?_) _ d
  exact .ite (.refl e) ⟨rfl, rfl, rfl⟩

theorem Dev.swapStack_keeps (new : Layout) (d : Dev) (x : Nat) : d.KeepsRings (d.swapStack new x) := by
  unfold Dev.swapStack
  extract_lets k k' lost e
  have e_ : d.KeepsRings e := ⟨rfl, rfl, rfl⟩
  refine e_.trans (Dev.KeepsRings.foldl (fun f i => ?_) lost e)
  exact ⟨rfl, rfl, rfl⟩

theorem Dev.swapStacks_keeps (new : Layout) (d : Dev) : d.KeepsRings (d.swapStacks new) :=
  Dev.KeepsRings.foldl (Dev.swapStack_keeps new) (List.range 12) d

theorem Dev.unfence_keeps (d : Dev) : d.KeepsRings d.unfence := by
  refine Dev.KeepsRings.foldl (fun e n => ?_) _ d
  exact Dev.updSeat_keeps _ _ _

theorem Dev.freeRemoved_keeps (d : Dev) (cs : List (Nat × Cover)) : d.KeepsRings (d.freeRemoved cs) := by
  refine Dev.KeepsRings.foldl (fun e c => ?_) _ d
  exact Dev.uncover_keeps _ _ _

/-- The last part of a swap point: the image, the stops and the rings that it leaves. -/
theorem Dev.finishSwap_spec (d : Dev) (new : Layout) (gone : List (Nat × Cover)) {e : Dev}
    (h : e = (((((d.freeRemoved gone).dropUnowned).setImage new).swapDomains new).settlePorts).unfence) :
    e.layout = some new ∧ e.swapStop = [] ∧ e.board = d.board ∧ e.rings = d.rings := by
  subst h
  have freed : d.KeepsRings ((d.freeRemoved gone).dropUnowned) := (d.freeRemoved_keeps gone).trans (Dev.dropLines_keeps _ _)
  generalize (d.freeRemoved gone).dropUnowned = f at freed
  have settled := Dev.settlePorts_qlk ((f.setImage new).swapDomains new)
  generalize ((f.setImage new).swapDomains new).settlePorts = g at settled
  have layout : g.layout = some new := by rw [settled]; rfl
  have stop : g.swapStop = [] := by rw [settled]; rfl
  have board : g.board = f.board := by rw [settled]; rfl
  have rings : g.rings = f.rings := by rw [settled]; rfl
  have last := Dev.unfence_keeps g
  have stop' : g.unfence.swapStop = g.swapStop := foldl_leaves Dev.swapStop (by intro b a; rfl) (List.range 64) g
  exact ⟨last.layout.trans layout, stop'.trans stop, (last.board.trans board).trans freed.board, (last.rings.trans rings).trans freed.rings⟩

/-- What the device holds once it has taken a new image (R70 to R72, R129). -/
theorem Dev.takeImage_spec (d : Dev) (new : Layout) : (d.takeImage new).layout = some new ∧ (d.takeImage new).swapStop = [] ∧
    (d.takeImage new).board = d.board ∧ ∃ e, d.SwapsSeats new e ∧ ∀ i, i < 4096 → (d.takeImage new).ring i = e.swappedRing new i := by
  obtain ⟨layout, stop, board, rings⟩ := Dev.finishSwap_spec
    ((((((d.swapTricks new).swapSeats new).swapTables new).swapRings new).swapSlots new).swapStacks new) new (d.removedCovers new)
    (e := d.takeImage new) rfl
  have tricks : d.SwapsSeats new (d.swapTricks new) :=
    (Dev.KeepsRings.mk (d := d) (e := d.swapTricks new) rfl rfl rfl).swapsSeats new
  have swapped : (d.swapTricks new).SwapsSeats new ((d.swapTricks new).swapSeats new) := Dev.swapSeats_swaps new (List.range 64) _
  generalize (d.swapTricks new).swapSeats new = seated at *
  have tables : seated.SwapsSeats new (seated.swapTables new) :=
    (Dev.KeepsRings.mk (d := seated) (e := seated.swapTables new) rfl rfl rfl).swapsSeats new
  have seats := (tricks.trans swapped).trans tables
  generalize seated.swapTables new = e at *
  obtain ⟨-, board', ring⟩ := Dev.swapRings_spec new 4096 e
  have kept := (Dev.swapSlots_keeps new (e.swapRings new)).trans (Dev.swapStacks_keeps new _)
  refine ⟨layout, stop, board.trans (kept.board.trans (board'.trans seats.board)), e, seats, fun i hi => ?_⟩
  calc (d.takeImage new).ring i = (e.swapRings new).ring i := by rw [Dev.ring, rings, ← kept.ring i]; rfl
    _ = e.swappedRing new i := (ring i).trans (if_pos hi)

theorem Dev.takeImage_same {d : Dev} {new : Layout} {i : Nat} (hi : i < 4096) (active : d.layout ≠ none)
    (same : d.ringRec i = new.rings.getD i {}) (stays : new.uses (d.ringRec i).seat = true ∨ (d.seatRec (d.ringRec i).seat).kind = 0) :
    (d.takeImage new).ring i = d.ring i := by
  obtain ⟨-, -, -, e, seats, ring⟩ := d.takeImage_spec new
  have held : e.held = false := by
    rw [Dev.held, seats.layout]
    exact Option.isNone_eq_false_iff.2 (Option.isSome_iff_ne_none.2 active)
  have keeps : ¬d.seatGoes new (d.ringRec i).seat := by
    rintro ⟨kind, unused⟩
    rcases stays with h | h
    · simp [h] at unused
    · exact kind h
  rw [ring i hi, Dev.swappedRing, if_pos ⟨held, (Dev.ringRec_of_layout seats.layout i).trans same⟩, seats.stays i keeps]

theorem Dev.takeImage_changed {d : Dev} {new : Layout} {i : Nat} (hi : i < 4096) (changed : d.ringRec i ≠ new.rings.getD i {}) :
    (d.takeImage new).ring i = if (new.rings.getD i {}).assigned then
        { state := .running, generation := ((d.ring i).generation + 1) % 65536, zeroing := true }
      else { generation := (d.ring i).generation } := by
  obtain ⟨-, -, -, e, seats, ring⟩ := d.takeImage_spec new
  rw [ring i hi, Dev.swappedRing, if_neg fun h => changed ((Dev.ringRec_of_layout seats.layout i).symm.trans h.2), Ring.startEmpty,
    seats.generation i]

/-! ## O37: the swap -/

theorem exec_swapPoint (s : State) : exec .swapPoint s = .next s.trySwap := rfl

theorem State.trySwap_pending {s : State} {new : Layout} (pending : s.lay.shadow = .swapPending) (staged : s.lay.staged = some new) :
    s.trySwap = if s.swapDue new then s.swapNow new else s := by
  rw [State.trySwap, pending, staged]

theorem exec_laySwap_valid {s : State} {new : Layout} (ready : s.ready = true) (valid : s.lay.shadow = .valid) (staged : s.lay.staged = some new)
    {u : State} (hu : u = { s with lay := { s.lay with shadow := .swapPending }, dev := { s.dev with swapStop := changedSeats s.dev.layout new } }) :
    exec .laySwap s = .next (if s.dev.held then u.trySwap else u) := by
  subst hu
  change execLaySwap s = _
  rw [execLaySwap, State.if_not_ready ready, valid, staged]

theorem exec_laySwap_bad {s : State} (ready : s.ready = true) (no : s.lay.shadow ≠ .valid) : exec .laySwap s = .next (s.setLeaf .lay 5) := by
  change execLaySwap s = _
  rw [execLaySwap, State.if_not_ready ready]
  split
  next valid _ => exact absurd valid no
  next => rfl

theorem State.swapDue_false {s : State} {new : Layout} (busy : ∃ p ∈ s.dev.board, p.seat ∈ changedSeats s.dev.layout new) :
    s.swapDue new = false := by
  obtain ⟨p, onBoard, changed⟩ := busy
  have places : s.dev.seatPlaces p.seat ≠ [] := List.ne_nil_of_mem (List.mem_filter.2 ⟨onBoard, beq_self_eq_true _⟩)
  have working : s.dev.quiescent p.seat = false := by simp [Dev.quiescent, Dev.seatBusy, places]
  have notAll : (changedSeats s.dev.layout new).all s.dev.quiescent = false := by
    rw [List.all_eq_false]
    exact ⟨p.seat, changed, by simp [working]⟩
  rw [State.swapDue, notAll, Bool.false_and]

theorem State.recheck_code {s : State} {new : Layout} {c : Nat} {h : Hit} (refused : s.recheck new = some (c, h)) : c = 0x12 ∨ c = 0x15 := by
  unfold State.recheck at refused
  split at refused
  · cases refused
    exact .inl rfl
  · obtain ⟨x, -, same⟩ := Option.map_eq_some_iff.1 refused
    cases same
    exact .inr rfl

theorem State.swapNow_refused {s : State} {new : Layout} {c : Nat} {h : Hit} (refused : s.recheck new = some (c, h)) :
    s.swapNow new = s.refuseLayout c h.1 h.2 true := by
  rw [State.swapNow, refused]

theorem State.swapNow_passes {s : State} {new : Layout} (passes : s.recheck new = none) :
    s.swapNow new = ({ s with
      dev := s.dev.takeImage new,
      lay := { s.lay with shadow := .retired, activeBuffer := 1 - s.lay.activeBuffer, activeImage := s.lay.image,
                          image := s.lay.activeImage, staged := none, swapAt := some s.dev.slow } } : State).setLeaf .lay 2 := by
  rw [State.swapNow, passes]

/-- Settles O37. -/
theorem theSwap : Obligations.TheSwap := by
  unfold Obligations.TheSwap
  refine ⟨fun s new ready valid staged active => ?_, fun s u new ready valid staged held hu => ?_, fun s ready no => exec_laySwap_bad ready no,
    fun s new pending staged => ⟨fun undue => ?_, fun busy => ?_, fun due c h refused => ?_, fun due passes => ?_⟩⟩
  · exact (exec_laySwap_valid ready valid staged rfl).trans (congrArg Host.Outcome.next (if_neg (by simpa [Dev.held] using active)))
  · rw [exec_laySwap_valid ready valid staged (hu.trans (by rw [held])), if_pos (by simp [Dev.held, held])]
    rfl
  · rw [exec_swapPoint, State.trySwap_pending pending staged, if_neg (by simp [undue])]
  · rw [exec_swapPoint, State.trySwap_pending pending staged, if_neg (by simp [State.swapDue_false busy])]
  · rw [exec_swapPoint, State.trySwap_pending pending staged, if_pos due, State.swapNow_refused refused]
    obtain ⟨t, ht, shadow, code, -, -, -, leaf, -, -, layout, rings, -, -, stop⟩ := s.refuseLayout_spec c h.1 h.2
    exact ⟨t, congrArg _ ht, shadow, code, State.recheck_code refused, layout, rings, stop, leaf⟩
  · rw [exec_swapPoint, State.trySwap_pending pending staged, if_pos due, State.swapNow_passes passes]
    obtain ⟨layout, stop, board, -⟩ := s.dev.takeImage_spec new
    have same := fun i hi active rec_ stays => Dev.takeImage_same (d := s.dev) (new := new) (i := i) hi active rec_ stays
    have changed := fun i hi rec_ => Dev.takeImage_changed (d := s.dev) (new := new) (i := i) hi rec_
    generalize s.dev.takeImage new = d at *
    refine ⟨_, rfl, layout, rfl, rfl, rfl, rfl, Dev.testBit_leaf_setLeaf _ _ _, stop, board, same, fun i hi rec_ => ⟨fun assigned => ?_, fun unassigned => ?_⟩⟩
    · have ring := changed i hi rec_
      rw [if_pos (by simpa [RingRec.assigned] using assigned)] at ring
      simp only [State.setLeaf, Dev.ring_setLeaf_keep, ring]
      exact ⟨trivial, trivial, trivial, trivial, trivial, trivial, trivial⟩
    · have ring := changed i hi rec_
      rw [if_neg (by simpa [RingRec.assigned] using unassigned)] at ring
      exact congrArg Ring.state ring

end Sys2Proof.Machine
end

section
/-! SUPPORT. Operations that start, and the ordering and cache operations (O38 to O40). -/

namespace Sys2Proof.Machine

/-! ## O38: where an operation works -/

theorem Dev.runOp_entered {d e : Dev} {i : Nat} {sel : OpWord → Bool} {p : Place} (h : d.enters i sel = some (e, p)) (work : Dev → Place → Dev) :
    d.runOp i sel work = work e p := by
  rw [Dev.runOp, h]

theorem Dev.runOp_idle {d : Dev} {i : Nat} {sel : OpWord → Bool} (h : d.enters i sel = none) (work : Dev → Place → Dev) : d.runOp i sel work = d := by
  rw [Dev.runOp, h]

theorem Dev.noteStep_spec (d : Dev) (p : Place) (t : Nat) : (d.noteStep p t).board = d.board ∧
    (∀ i, (d.noteStep p t).ring i = { d.ring i with stepStart := ((d.noteStep p t).ring i).stepStart }) ∧
    d.noteStep p t = { d with rings := (d.noteStep p t).rings } := by
  unfold Dev.noteStep
  split
  · refine ⟨rfl, fun i => ?_, rfl⟩
    rw [Dev.ring_updRing]
    split
    next same => rw [same]
    next => rfl
  · exact ⟨rfl, fun _ => rfl, rfl⟩

/-- A waiting operation as it starts. -/
def Dev.started (d : Dev) (p : Place) : Place := { p with phase := .running, start := 16 * d.slow, epoch := (d.ring p.ring).pin, stall := .none }

theorem Dev.startPlace_spec {d : Dev} {p : Place} (here : d.place p.id = some p) : (d.startPlace p).place p.id = some (d.started p) ∧
    (∀ i, i ≠ p.id → (d.startPlace p).place i = d.place i) ∧
    (∀ i, (d.startPlace p).ring i = { d.ring i with stepStart := ((d.startPlace p).ring i).stepStart }) ∧
    d.startPlace p = { d with board := (d.startPlace p).board, rings := (d.startPlace p).rings } := by
  obtain ⟨board, ring, rest⟩ := d.noteStep_spec p (d.now 0)
  have same (i : Nat) : (d.noteStep p (d.now 0)).place i = d.place i := by rw [Dev.place, board, Dev.place]
  let start : Place → Place := fun q => { q with phase := .running, start := d.now 0, epoch := (d.ring p.ring).pin, stall := .none }
  have run : d.startPlace p = (d.noteStep p (d.now 0)).updPlace p.id start := rfl
  have keeps (q : Place) (h : q.id = p.id) : (start q).id = p.id := h
  refine ⟨?_, fun i other => ?_, ring, ?_⟩
  · rw [run, Dev.place_updPlace keeps, same, here]
    rfl
  · rw [run, Dev.place_updPlace_other keeps other, same]
  · unfold Dev.startPlace
    dsimp only
    rw [rest]
    rfl

theorem Dev.enters_running {d : Dev} {p : Place} {sel : OpWord → Bool} (here : d.place p.id = some p) (op : sel p.op = true)
    (good : p.bad = false) (unskipped : p.skipped = false) (running : p.phase = .running) : d.enters p.id sel = some (d, p) := by
  simp [Dev.enters, here, running, good, unskipped, op]

theorem Dev.enters_starts {d : Dev} {p : Place} {sel : OpWord → Bool} (here : d.place p.id = some p) (op : sel p.op = true)
    (good : p.bad = false) (unskipped : p.skipped = false) (waiting : p.phase = .waiting) (starts : d.canStart p = true) :
    d.enters p.id sel = some (d.startPlace p, d.started p) := by
  simp [Dev.enters, here, waiting, good, unskipped, op, starts, (Dev.startPlace_spec here).1]

theorem Dev.enters_waits {d : Dev} {p : Place} {sel : OpWord → Bool} (here : d.place p.id = some p) (waiting : p.phase = .waiting)
    (held : d.canStart p = false) : d.enters p.id sel = none := by
  simp [Dev.enters, here, waiting, held]

theorem Dev.enters_never {d : Dev} {p : Place} {sel : OpWord → Bool} (here : d.place p.id = some p)
    (no : p.bad = true ∨ p.skipped = true ∨ sel p.op = false) : d.enters p.id sel = none := by
  have guard : (!sel p.op || p.bad || p.skipped) = true := by
    rcases no with h | h | h <;> simp [h]
  simp only [Dev.enters, here, guard, if_true]

/-- What holds an operation behind one ahead of it (R102, R104, R118, R124). -/
theorem Dev.canStart_held {d : Dev} {p q : Place} (ahead : q ∈ d.ahead p) (going : q.phase ≠ .retired)
    (holds : q.op.opcode = 0x02 ∨ q.op.opcode = 0x05 ∨ q.op.opcode = 0x51 ∨ p.op.flags.testBit 1 = true ∨ p.op.opcode = 0x51 ∨
      q.phase = .waiting) : d.canStart p = false := by
  have there : q.gone = false := by simp [Place.gone, going]
  have order : d.orderAllows p = false := by
    rw [Bool.eq_false_iff]
    intro allowed
    simp only [Dev.orderAllows, Bool.and_eq_true, List.all_eq_true] at allowed
    obtain ⟨⟨begun, free⟩, last⟩ := allowed
    have unheld := free q ahead
    have started := begun q ahead
    have waitsRing : p.op.waitsRing = false := by
      simp only [Bool.or_eq_true, Bool.not_eq_true', List.all_eq_true] at last
      rcases last with h | h
      · exact h
      · rw [h q ahead] at there
        cases there
    simp only [there, Bool.false_or, Bool.not_eq_true', OpWord.holdsRing, Bool.or_eq_false_iff, beq_eq_false_iff_ne] at unheld
    simp only [OpWord.waitsRing, OpWord.ordered, Bool.or_eq_false_iff, beq_eq_false_iff_ne] at waitsRing
    obtain ⟨⟨no2, no5⟩, no51⟩ := unheld
    obtain ⟨unordered, own⟩ := waitsRing
    rcases holds with h | h | h | h | h | h
    · exact no2 h
    · exact no5 h
    · exact no51 h
    · rw [h] at unordered
      cases unordered
    · exact own h
    · simp [Place.begun, h] at started
  simp [Dev.canStart, order]

/-- Settles O38. -/
theorem operationsStart : Obligations.OperationsStart := by
  unfold Obligations.OperationsStart
  refine ⟨fun d p sel here op good unskipped => ⟨Dev.enters_running here op good unskipped, fun waiting starts => ?_, Dev.enters_waits here⟩,
    fun d p sel here no => Dev.enters_never here no, fun d p q ahead going holds => Dev.canStart_held ahead going holds, fun s i c h => ?_⟩
  · obtain ⟨place, others, ring, rest⟩ := Dev.startPlace_spec here
    exact ⟨_, _, Dev.enters_starts here op good unskipped waiting starts, place, rfl, others, ring, rest⟩
  · rcases h with ⟨rfl, h⟩ | ⟨rfl, h⟩ | ⟨rfl, h⟩ | ⟨rfl, h⟩ | ⟨rfl, h⟩ | ⟨rfl, h⟩ | ⟨rfl, h⟩ | ⟨rfl, h⟩
    all_goals exact congrArg (fun d => Host.Outcome.next { s with dev := d }) (Dev.runOp_idle h _)

/-! ## Write-backs (R122 to R124) -/

/-- A write-back of a clean line does nothing. -/
theorem Dev.writeBack_clean (d : Dev) {l : Line} (h : l.dirty = false) : d.writeBack l = d := if_pos (by simp [h])

theorem Dev.memWrite_out (d : Dev) (t a : Nat) (bs : List Byte) (p : Bool) : (d.memWrite t a bs p).out = d.out := by
  obtain ⟨m, l, r, x, s, c, k, g, q, same⟩ := (Dev.WorkOnly.memWrite d t a bs p).rest
  rw [same]

theorem Dev.WorkOnly.out {d e : Dev} (h : d.WorkOnly e) : e.out = d.out := by
  obtain ⟨m, l, r, x, s, c, k, g, q, same⟩ := h.rest
  rw [same]

/-- A write of a whole atom to a frame that is not to be zero-filled leaves the dies as they were. -/
theorem Dev.writeAtom_dies {d : Dev} {a : Nat} {bs : List Byte} (w : Who) (whole : bs.length = 64)
    (filled : (d.mem.frame (stackOf a) (frameOf a)).zero = false) : (d.writeAtom a bs w).mem.dies = d.mem.dies := by
  have run : d.writeAtom a bs w = { d with mem := ((d.mem.clearUpset a).setPoison a false).putBytes a bs } := by
    unfold Dev.writeAtom
    simp only [filled, Bool.false_eq_true, if_false, whole, if_true]
  rw [run]
  exact (Mem.dies_putBytes _ _ _).1

theorem Dev.memWrite_dies {d : Dev} {a : Nat} {bs : List Byte} (t : Nat) (p : Bool) (whole : bs.length = 64)
    (filled : (d.mem.frame (stackOf a) (frameOf a)).zero = false) : (d.memWrite t a bs p).mem.dies = d.mem.dies := by
  have write := Dev.writeAtom_dies { seat := tagSeat t } whole filled
  unfold Dev.memWrite
  split
  · rfl
  · split
    · dsimp only
      split
      · exact write
      · exact write
    · rfl

/-- The dies are as they were, and no symbol errors have come. -/
def Dev.SameDies (d e : Dev) : Prop := e.mem.dies = d.mem.dies ∧ (d.mem.upsets = [] → e.mem.upsets = [])

theorem Dev.SameDies.refl (d : Dev) : d.SameDies d := ⟨rfl, id⟩

theorem Dev.SameDies.trans {d e f : Dev} (h : d.SameDies e) (k : e.SameDies f) : d.SameDies f := ⟨k.1.trans h.1, fun u => k.2 (h.2 u)⟩

theorem Dev.SameDies.blocked {d e : Dev} (h : d.SameDies e) (a : Nat) : e.blocked a = d.blocked a := Mem.Gated.blocked (.of h.1 h.2) a

theorem Mem.frame_of_dies {m k : Mem} (h : k.dies = m.dies) (x f : Nat) : k.frame x f = m.frame x f := by
  simp only [Mem.frame, Mem.stack, h]

theorem Dev.SameDies.writesHeld {d e : Dev} (h : d.SameDies e) (x : Nat) : e.writesHeld x = d.writesHeld x := by
  rw [Dev.writesHeld, h.1, Dev.writesHeld]

/-- A line that a write-back sends to an open die with its whole atom, into a frame that is not to be zero-filled. -/
def Dev.Writable (d : Dev) (l : Line) : Prop :=
  d.blocked (64 * l.atom) = false ∧ l.data.length = 64 ∧ (d.mem.frame (stackOf (64 * l.atom)) (frameOf (64 * l.atom))).zero = false

theorem Dev.SameDies.writable {d e : Dev} (h : d.SameDies e) {l : Line} (w : d.Writable l) : e.Writable l := by
  obtain ⟨free, whole, filled⟩ := w
  exact ⟨(h.blocked _).trans free, whole, by rw [Mem.frame_of_dies h.1]; exact filled⟩

theorem Dev.writeBack_sameDies {d : Dev} {l : Line} (w : l.dirty = true → d.Writable l) : d.SameDies (d.writeBack l) := by
  refine ⟨?_, fun u => (Dev.Tame.writeBack d l u).1 u⟩
  cases dirty : l.dirty with
  | false => rw [Dev.writeBack_clean d dirty]
  | true =>
    have moved : d.SameDies (d.transfer ⟨l.tag % 1024, l.stack, .loose⟩ true [(64 * l.atom, 64)]) := ⟨rfl, id⟩
    obtain ⟨free, whole, filled⟩ := moved.writable (w dirty)
    unfold Dev.writeBack
    simp only [dirty, Bool.not_true, Bool.false_eq_true, if_false, free]
    exact (Dev.memWrite_dies _ _ whole filled).trans moved.1

theorem Dev.writeBacks_sameDies (ls : List Line) (d : Dev) (w : ∀ l ∈ ls, l.dirty = true → d.Writable l) : d.SameDies (ls.foldl Dev.writeBack d) := by
  induction ls generalizing d with
  | nil => exact .refl d
  | cons l ls ih =>
    have first := Dev.writeBack_sameDies (w l List.mem_cons_self)
    exact first.trans (ih _ fun k hk dirty => first.writable (w k (List.mem_cons_of_mem _ hk) dirty))

theorem Dev.writeBacks_clean (ls : List Line) (d : Dev) (clean : ∀ l ∈ ls, l.dirty = false) : ls.foldl Dev.writeBack d = d := by
  induction ls with
  | nil => rfl
  | cons l ls ih =>
    rw [List.foldl_cons, Dev.writeBack_clean d (clean l List.mem_cons_self)]
    exact ih fun k hk => clean k (List.mem_cons_of_mem _ hk)

/-- What the memory work of a FLUSH leaves, and that it always ends. -/
theorem Mio.flush_spec (m : Mio) (p : Line → Bool) : (m.flush p).dev = m.dev.flushLines p ∧ (m.flush p).waits = m.waits ∧
    (m.flush p).fault = m.fault ∧ (m.flush p).short = m.short :=
  have smooth := m.flush_smooth p
  ⟨congrArg (fun d : Dev => d.flushLines p) (Mio.touches_dev _ _), smooth.waits, smooth.fault, smooth.short⟩

/-- Work over lines none of which is stuck: it goes on to its end, on a device whose place has noted it. -/
theorem Dev.overLines_done {d : Dev} {p x : Place} (here : d.place p.id = some x) {q : Line → Bool} {f : Mio → Mio} (g : Dev → Dev)
    (free : ∀ l ∈ d.cache.lines, l.dirty = true → q l = true → d.blocked (64 * l.atom) = false) (smooth : Mio.Smooth { dev := d } (f { dev := d })) :
    ∃ e, d.overLines p q f g = g e ∧ e = { (f { dev := d }).dev with board := e.board } ∧ e.place p.id = some (x.noted (f { dev := d })) := by
  have none_ : d.stuckLine q = none := by
    refine List.find?_eq_none.2 fun l hl stuck => ?_
    simp only [Bool.and_eq_true] at stuck
    obtain ⟨⟨dirty, picked⟩, blocked⟩ := stuck
    rw [free l hl dirty picked] at blocked
    cases blocked
  have there : (f { dev := d }).dev.place p.id = some x := (smooth.work.place p.id).trans here
  obtain ⟨e, run, rest, place, -⟩ := Dev.conclude_done g there ⟨smooth.waits, smooth.fault, smooth.short⟩
  refine ⟨e, ?_, rest, place⟩
  unfold Dev.overLines
  rw [none_]
  exact run

/-- Work over lines one of which is stuck waits. -/
theorem Dev.overLines_waits {d : Dev} {p x : Place} (here : d.place p.id = some x) {q : Line → Bool} (f : Mio → Mio) (g : Dev → Dev)
    (stuck : ∃ l ∈ d.cache.lines, l.dirty = true ∧ q l = true ∧ d.blocked (64 * l.atom) = true) :
    ∃ y s e, (d.overLines p q f g).place p.id = some y ∧ y = { x with stall := s, touched := y.touched, excursions := y.excursions } ∧
      d.overLines p q f g = { d with board := (d.overLines p q f g).board, qlk := e } := by
  have found : ∃ l, d.stuckLine q = some l := by
    obtain ⟨l, hl, dirty, picked, blocked⟩ := stuck
    exact Option.isSome_iff_exists.1 (List.find?_isSome.2 ⟨l, hl, by simp [dirty, picked, blocked]⟩)
  obtain ⟨l, hl⟩ := found
  have blocked : d.blocked (64 * l.atom) = true := by
    have hit := List.find?_some hl
    simp only [Bool.and_eq_true] at hit
    exact hit.2
  have waits : (({ dev := d } : Mio).reach (64 * l.atom)).waits = true := by
    have run : ({ dev := d } : Mio).reach (64 * l.atom) = _ := if_pos blocked
    rw [run]
  have run : d.overLines p q f g = d.conclude p (({ dev := d } : Mio).reach (64 * l.atom)) g := by
    unfold Dev.overLines
    rw [hl]
  obtain ⟨place, e, rest⟩ := Dev.conclude_waits (f := g) here waits
  rw [run]
  exact ⟨_, _, e, place, rfl, rest⟩

/-! ## O39: MARK, WAIT, FENCE and SKIP_IF -/

theorem Dev.waitDone_iff (d : Dev) (p : Place) : d.waitDone p = true ↔
    ∃ e, SMap.find (d.ring (p.op.waitRing p.ring)).log (((d.ring (p.op.waitRing p.ring)).completed + 2 ^ 32 - 1) % 256) = some e ∧
      (field e 4 4 + 2 ^ 32 - p.op.fld 0 4 4) % 2 ^ 32 < 2 ^ 31 := by
  unfold Dev.waitDone Dev.lastWritten
  cases SMap.find (d.ring (p.op.waitRing p.ring)).log (((d.ring (p.op.waitRing p.ring)).completed + 2 ^ 32 - 1) % 256) <;> simp

theorem Dev.workWait_waits {d : Dev} {p : Place} (here : d.place p.id = some p) (going : d.waitDone p = false) :
    ∃ q, (d.workWait p).place p.id = some q ∧ q.phase = p.phase ∧ q.stall = .wait ∧ (d.workWait p).rings = d.rings ∧ (d.workWait p).mem = d.mem := by
  have run : d.workWait p = d.stallPlace p .wait := if_neg (by simp [going])
  obtain ⟨place, x, rest⟩ := d.stallPlace_spec p .wait p here
  have rings : (d.stallPlace p .wait).rings = d.rings := by rw [rest]
  have mem : (d.stallPlace p .wait).mem = d.mem := by rw [rest]
  rw [run]
  exact ⟨_, place, rfl, rfl, rings, mem⟩

theorem Dev.loseHost_spec {d : Dev} {p : Place} (here : d.place p.id = some p) : ∃ q, (d.loseHost p).place p.id = some q ∧ q.phase = .finished ∧
    q.status = .hostLost ∧ ((d.loseHost p).ring p.ring).state = .hostLost ∧ ((d.loseHost p).leaf .rng).testBit 3 = true := by
  unfold Dev.loseHost
  have place := Dev.place_upd_again (fun q => { q.fail .hostLost with unsent := [], unsentMsgs := [] }) here fun _ => rfl
  generalize d.updPlace p.id (fun q => { q.fail .hostLost with unsent := [], unsentMsgs := [] }) = e at place
  obtain ⟨leaf, -, -, rings, board, -⟩ := Dev.ringLeaf_spec (e.updRing p.ring fun g => { g with state := .hostLost }) p.ring 3
  have ring := Dev.ring_updRing e p.ring p.ring fun g => { g with state := .hostLost }
  rw [if_pos rfl] at ring
  have kept : (e.loseRing p.ring).place p.id = e.place p.id := by
    rw [Dev.place, Dev.loseRing, board]
    rfl
  refine ⟨_, kept.trans place, rfl, rfl, ?_, leaf⟩
  · rw [Dev.ring, Dev.loseRing, rings]
    exact congrArg Ring.state ring

theorem Dev.gone_all {d : Dev} {p : Place} : (d.ahead p).all (·.gone) = true ↔ ∀ q ∈ d.ahead p, q.phase = .retired := by
  simp [Place.gone]

/-- A VISIBLE fence whose write-backs have gone out sends its read to the host (R124). -/
theorem Dev.sendFenceRead_sends {d : Dev} {p : Place} (here : d.place p.id = some p) (unheld : d.writesHeld p.ctxIx = false)
    (writable : ∀ l ∈ d.cache.lines, l.dirty = true → l.tag = tagOf p.ctxIx → d.Writable l) :
    ∃ q, (d.sendFenceRead p).place p.id = some q ∧ q.phase = p.phase ∧ q.hostRead = true ∧ (d.sendFenceRead p).out = d.out ++ [.hostRead p.seat] ∧
      (d.sendFenceRead p).cache.lines = d.cache.lines.map fun l => if l.tag == tagOf p.ctxIx then { l with dirty := false } else l := by
  let own : Line → Bool := fun l => l.tag == tagOf p.ctxIx
  let send : Dev → Dev := fun d =>
    if d.writesHeld p.ctxIx then d.stallPlace p .thermal
    else (d.emit (.hostRead p.seat)).updPlace p.id fun q => { q with hostRead := true, stall := .none }
  obtain ⟨dev, -, -, -⟩ := ({ dev := d } : Mio).flush_spec own
  obtain ⟨e, run, rest, place⟩ := Dev.overLines_done here send (q := own) (f := (·.flush own))
    (fun l hl dirty mine => (writable l hl dirty (eq_of_beq mine)).1) (({ dev := d } : Mio).flush_smooth own)
  have run : d.sendFenceRead p = send e := run
  have flushed : d.SameDies (d.flushLines own) := by
    have backs := Dev.writeBacks_sameDies (d.cache.lines.filter own) d fun l hl dirty =>
      writable l (List.mem_filter.1 hl).1 dirty (eq_of_beq (List.mem_filter.1 hl).2)
    exact backs
  have work := Dev.WorkOnly.flushLines d own
  have lines := Dev.flushLines_lines d own
  rw [dev] at rest
  have open_ : e.writesHeld p.ctxIx = false := by
    rw [rest]
    exact (flushed.writesHeld p.ctxIx).trans unheld
  have sent : send e = (e.emit (.hostRead p.seat)).updPlace p.id fun q => { q with hostRead := true, stall := .none } := if_neg (by simp [open_])
  have out : e.out = d.out := by
    rw [rest]
    exact work.out
  have cache : e.cache.lines = (d.flushLines own).cache.lines := by rw [rest]
  rw [run, sent]
  have emitted : (e.emit (.hostRead p.seat)).place p.id = some (p.noted (({ dev := d } : Mio).flush own)) := place
  have sent_ := Dev.place_upd_again (fun q => { q with hostRead := true, stall := .none }) emitted fun _ => rfl
  refine ⟨_, sent_, rfl, rfl, ?_, cache.trans lines⟩
  exact congrArg (· ++ [Out.hostRead p.seat]) out

theorem Dev.sendFenceRead_waits {d : Dev} {p : Place} (here : d.place p.id = some p)
    (stuck : ∃ l ∈ d.cache.lines, l.dirty = true ∧ l.tag = tagOf p.ctxIx ∧ d.blocked (64 * l.atom) = true) :
    ∃ q, (d.sendFenceRead p).place p.id = some q ∧ q.phase = p.phase ∧ q.hostRead = p.hostRead ∧ (d.sendFenceRead p).out = d.out ∧
      (d.sendFenceRead p).cache = d.cache ∧ (d.sendFenceRead p).mem = d.mem := by
  obtain ⟨l, hl, dirty, mine, blocked⟩ := stuck
  obtain ⟨q, s, e, place, same, rest⟩ := Dev.overLines_waits (q := fun l => l.tag == tagOf p.ctxIx) here
    (·.flush fun l => l.tag == tagOf p.ctxIx) (fun d => if d.writesHeld p.ctxIx then d.stallPlace p .thermal
      else (d.emit (.hostRead p.seat)).updPlace p.id fun q => { q with hostRead := true, stall := .none }) ⟨l, hl, dirty, by simp [mine], blocked⟩
  change (d.sendFenceRead p).place p.id = some q at place
  change d.sendFenceRead p = { d with board := (d.sendFenceRead p).board, qlk := e } at rest
  refine ⟨q, place, by rw [same], by rw [same], ?_, ?_, ?_⟩ <;> rw [rest]

/-- A change of one place does not matter to a filter that leaves it out. -/
theorem filter_updPlace {i : Nat} {f : Place → Place} {P : Place → Bool} (out : ∀ q, q.id = i → P q = false ∧ P (f q) = false) (l : List Place) :
    (l.map fun q => if q.id = i then f q else q).filter P = l.filter P := by
  induction l with
  | nil => rfl
  | cons q l ih =>
    by_cases mine : q.id = i
    · obtain ⟨before, after⟩ := out q mine
      simp [mine, before, after, ih]
    · simp [mine, List.filter_cons, ih]

theorem skipIds_single (n : Nat) (l : List Place) (single : ∀ q ∈ l, q.partner = none) :
    skipIds n l = ((l.take n).map (·.id), n - l.length) := by
  induction n generalizing l with
  | zero => simp [skipIds]
  | succ n ih =>
    cases l with
    | nil => simp [skipIds]
    | cons q l =>
      have rest := ih l fun x hx => single x (List.mem_cons_of_mem _ hx)
      simp [skipIds, single q List.mem_cons_self, rest]

/-- A SKIP_IF whose test holds marks the operations behind it (R106). -/
theorem Dev.skipNext_spec {d e : Dev} {p : Place} (n : Nat) (alone : p.parent = none) {later : List Place}
    (hl : later = d.board.filter fun q => q.ring == p.ring && decide (p.id < q.id) && q.parent == none) (single : ∀ q ∈ later, q.partner = none)
    (he : e = (d.updPlace p.id Place.finish).skipNext p n) : (e.ring p.ring).skip = n - later.length ∧
      (∀ q ∈ e.board, q.id ∈ ((later.take n).map (·.id)) → q.skipped = true) ∧ e.board.map (·.id) = d.board.map (·.id) ∧ e.mem = d.mem := by
  have marked : skipIds n (((d.updPlace p.id Place.finish).ringPlaces p.ring).filter fun q => decide (p.id < q.id) && q.parent == p.parent) =
      ((later.take n).map (·.id), n - later.length) := by
    have same : (((d.updPlace p.id Place.finish).ringPlaces p.ring).filter fun q => decide (p.id < q.id) && q.parent == p.parent) = later := by
      rw [hl, Dev.ringPlaces, List.filter_filter, alone]
      refine (filter_updPlace (fun q mine => ?_) d.board).trans (List.filter_congr fun q _ => ?_)
      · simp [mine, Place.finish]
      · cases q.ring == p.ring <;> cases decide (p.id < q.id) <;> cases q.parent == none <;> rfl
    rw [same, skipIds_single n later single]
  let mark : Place → Place := fun q => if ((later.take n).map (·.id)).contains q.id then { q with skipped := true, bad := false } else q
  have run : e = ({ d.updPlace p.id Place.finish with board := (d.updPlace p.id Place.finish).board.map mark } : Dev).updRing p.ring
      fun g => { g with skip := n - later.length } := by
    rw [alone] at marked
    rw [he]
    unfold Dev.skipNext
    simp only [alone, marked]
    rfl
  have ids (q : Place) : (mark q).id = q.id := by
    simp only [mark]
    split <;> rfl
  subst run
  refine ⟨?_, fun q hq picked => ?_, ?_, rfl⟩
  · rw [Dev.ring_updRing, if_pos rfl]
  · obtain ⟨x, -, rfl⟩ := List.mem_map.1 hq
    rw [ids] at picked
    have hit : mark x = { x with skipped := true, bad := false } := if_pos (List.contains_iff_mem.2 picked)
    rw [hit]
  · change (((d.board.map fun q => if q.id = p.id then q.finish else q).map mark).map (·.id)) = _
    rw [List.map_map, List.map_map]
    refine List.map_congr_left fun q _ => (ids _).trans ?_
    by_cases mine : q.id = p.id
    · dsimp only
      rw [if_pos mine]
      rfl
    · dsimp only
      rw [if_neg mine]

theorem skipTest_spec (x y : Nat) : skipTest 0 x y = (x == y) ∧ skipTest 1 x y = (x != y) ∧ skipTest 2 x y = decide (x < y) ∧
    skipTest 3 x y = decide (y ≤ x) ∧ ((fp32.decode (x % 2 ^ 32)).isNan = true → skipTest 4 x y = false ∧ skipTest 5 x y = false) := by
  refine ⟨rfl, rfl, rfl, rfl, fun nan => ?_⟩
  unfold skipTest
  simp only [nan, Bool.not_true, Bool.false_and, and_self]

theorem exec_waitSatisfied {s : State} {i : Nat} {p : Place} (here : s.dev.place i = some p) (op : p.op.opcode = 0x02) (running : p.phase = .running)
    (done : s.dev.waitDone p = true) : exec (.waitSatisfied i) s = .next { s with dev := s.dev.updPlace i Place.finish } := by
  change execWaitSatisfied i s = _
  rw [execWaitSatisfied, here]
  exact congrArg Host.Outcome.next (if_pos ⟨op, running, done⟩)

/-- Where a command enters, it does its work. -/
theorem exec_of_enters {s : State} {i : Nat} {sel : OpWord → Bool} {d : Dev} {p : Place} (h : s.dev.enters i sel = some (d, p)) {work : Dev → Place → Dev}
    {e : Dev} (he : work d p = e) : Host.Outcome.next ({ s with dev := s.dev.runOp i sel work } : State) =
      (Host.Outcome.next { s with dev := e } : Host.Outcome State Fault Refusal) := by
  rw [Dev.runOp_entered h, he]

/-- Settles O39. -/
theorem orderingOperations : Obligations.OrderingOperations := by
  unfold Obligations.OrderingOperations
  refine ⟨fun s i d p enters => ?mark, fun s i r d p enters hr => ?wait, fun s i r p e here op running hr found reached => ?satisfied,
    fun s i d p enters => ?fence, fun s i d p enters alone => ?skip, skipTest_spec⟩
  case mark =>
    obtain ⟨here, rfl⟩ := Dev.enters_place enters
    exact ⟨_, exec_of_enters enters rfl, rfl⟩
  case wait =>
    obtain ⟨here, rfl⟩ := Dev.enters_place enters
    have done_iff := d.waitDone_iff p
    rw [show p.op.waitRing p.ring = r from hr.symm] at done_iff
    refine ⟨fun e found reached => exec_of_enters enters (if_pos (done_iff.2 ⟨e, found, reached⟩)), fun behind => ?_⟩
    have going : d.waitDone p = false := by
      rw [Bool.eq_false_iff]
      intro done
      obtain ⟨e, found, reached⟩ := done_iff.1 done
      exact absurd reached (Nat.not_lt.2 (behind e found))
    obtain ⟨q, spec⟩ := Dev.workWait_waits here going
    exact ⟨_, q, exec_of_enters enters rfl, spec⟩
  case satisfied =>
    have done_iff := s.dev.waitDone_iff p
    rw [show p.op.waitRing p.ring = r from hr.symm] at done_iff
    exact exec_waitSatisfied here op running (done_iff.2 ⟨e, found, reached⟩)
  case fence =>
    obtain ⟨here, rfl⟩ := Dev.enters_place enters
    refine ⟨fun ⟨q, ahead, going⟩ => exec_of_enters enters (if_pos ?_), fun all => ?_⟩
    · rw [Bool.not_eq_true', Bool.eq_false_iff]
      exact fun gone => going (Dev.gone_all.1 gone q ahead)
    have past : ¬(!((d.ahead p).all (·.gone))) = true := by simp [Dev.gone_all.2 all]
    have work : d.workFence p = _ := if_neg past
    refine ⟨fun plain => exec_of_enters enters (work.trans (if_pos plain)), fun visible gone => ?_, fun visible there master => ?_⟩
    · have lost : d.hostGone p.seat = true := by
        rcases gone with h | h <;> simp [Dev.hostGone, h]
      obtain ⟨q, spec⟩ := Dev.loseHost_spec here
      exact ⟨_, q, exec_of_enters enters (work.trans ((if_neg visible).trans (if_pos lost))), spec⟩
    · have present : ¬d.hostGone p.seat = true := by simp [Dev.hostGone, there, master]
      have work : d.workFence p = _ := work.trans ((if_neg visible).trans (if_neg present))
      refine ⟨fun read => exec_of_enters enters (work.trans (if_pos read)), fun unread stuck => ?_, fun unread unheld writable => ?_⟩
      · obtain ⟨q, place, phase, hostRead, spec⟩ := Dev.sendFenceRead_waits here stuck
        exact ⟨_, q, exec_of_enters enters (work.trans (if_neg (by simp [unread]))), place, phase, hostRead.trans unread, spec⟩
      · obtain ⟨q, spec⟩ := Dev.sendFenceRead_sends here unheld writable
        exact ⟨_, q, exec_of_enters enters (work.trans (if_neg (by simp [unread]))), spec⟩
  case skip =>
    obtain ⟨here, rfl⟩ := Dev.enters_place enters
    refine ⟨fun fails => exec_of_enters enters (if_neg fun holds => ?_), fun holds later hl single => ?_⟩
    · exact Bool.noConfusion (fails.symm.trans holds)
    · refine ⟨_, exec_of_enters enters (if_pos ?_), Dev.skipNext_spec _ alone hl single rfl⟩
      exact holds

/-! ## O40: ACQUIRE and FLUSH -/

theorem Mem.isPoison_setPoison_true (m : Mem) (a : Nat) : (m.setPoison a true).isPoison a = true := by
  have same : (m.setPoison a true).locate a = m.locate a := rfl
  rw [Mem.isPoison, same]
  exact List.contains_iff_mem.2 ((mem_insertAsc _ _ _).2 (.inl rfl))

/-- What an admitted write of a whole atom leaves there (R350 to R352). -/
theorem Dev.memWrite_whole {d : Dev} {tag a : Nat} {bs : List Byte} (p : Bool) (stack : stackOf a < 12) (aligned : a % 64 = 0)
    (admits : (d.mem.frame (stackOf a) (frameOf a)).admits tag = true) (whole : bs.length = 64)
    (filled : (d.mem.frame (stackOf a) (frameOf a)).zero = false) :
    (d.memWrite tag a bs p).mem.bytes a 64 = bs ∧ (d.memWrite tag a bs p).mem.isPoison a = p := by
  let m := ((d.mem.clearUpset a).setPoison a false).putBytes a bs
  have write : d.writeAtom a bs { seat := tagSeat tag } = { d with mem := m } := by
    unfold Dev.writeAtom
    simp only [filled, Bool.false_eq_true, if_false, whole, if_true]
    rfl
  have run : (d.memWrite tag a bs p).mem = if p then m.setPoison a true else m := by
    rw [Dev.memWrite, if_neg (Nat.not_le.2 stack), if_pos admits, write]
    cases p <;> rfl
  have bytes : m.bytes a 64 = bs := by
    have put := Mem.bytes_putBytes (m := (d.mem.clearUpset a).setPoison a false) (a := a) (bs := bs) (by omega)
    rwa [whole] at put
  rw [run]
  cases p with
  | false => exact ⟨bytes, (Mem.isPoison_putBytes _ _ _ _).trans (Mem.isPoison_setPoison_false _ _)⟩
  | true => exact ⟨bytes, Mem.isPoison_setPoison_true _ _⟩

/-- The lines that stay where those picked are written back and dropped. -/
theorem lines_dropped {p : Line → Bool} (keep : ∀ l, p { l with dirty := false } = p l) (ls : List Line) :
    (ls.map fun l => if p l then { l with dirty := false } else l).filter (fun l => !p l) = ls.filter fun l => !p l := by
  induction ls with
  | nil => rfl
  | cons l ls ih =>
    cases picked : p l with
    | true => simp [picked, keep, ih]
    | false => simp [picked, ih]

/-- What the memory work of an ACQUIRE leaves (R122). -/
theorem Mio.acquire_spec (d : Dev) (x a n : Nat) :
    (({ dev := d } : Mio).acquire x a n).dev.cache.lines = (d.cache.lines.filter fun l => !d.acquireLines x a n l) ∧
    (({ dev := d } : Mio).acquire x a n).dev.mem = ((d.cache.lines.filter (d.acquireLines x a n)).foldl Dev.writeBack d).mem := by
  obtain ⟨dev, -⟩ := ({ dev := d } : Mio).flush_spec (d.acquireLines x a n)
  have run : (({ dev := d } : Mio).acquire x a n).dev = (({ dev := d } : Mio).flush (d.acquireLines x a n)).dev.dropLines (d.acquireLines x a n) := rfl
  rw [run, dev]
  refine ⟨?_, rfl⟩
  have dropped : ((d.flushLines (d.acquireLines x a n)).dropLines (d.acquireLines x a n)).cache.lines =
      (d.flushLines (d.acquireLines x a n)).cache.lines.filter fun l => !d.acquireLines x a n l := rfl
  rw [dropped, Dev.flushLines_lines]
  exact lines_dropped (fun _ => rfl) _

/-- The memory that an ACQUIRE leaves where it picks no dirty line, or one line (R122). -/
theorem Mio.acquire_mem (d : Dev) (x a n : Nat) :
    ((∀ l ∈ d.cache.lines, d.acquireLines x a n l = true → l.dirty = false) → (({ dev := d } : Mio).acquire x a n).dev.mem = d.mem) ∧
    (∀ l, (d.cache.lines.filter fun l => d.acquireLines x a n l) = [l] → l.dirty = true → d.blocked (64 * l.atom) = false →
      l.data.length = 64 → l.atom < 12 * 2 ^ 30 → (d.mem.frame (stackOf (64 * l.atom)) (frameOf (64 * l.atom))).admits l.tag = true →
      (d.mem.frame (stackOf (64 * l.atom)) (frameOf (64 * l.atom))).zero = false →
      (({ dev := d } : Mio).acquire x a n).dev.mem.bytes (64 * l.atom) 64 = l.data ∧
      (({ dev := d } : Mio).acquire x a n).dev.mem.isPoison (64 * l.atom) = l.poison) := by
  obtain ⟨-, mem⟩ := Mio.acquire_spec d x a n
  refine ⟨fun clean => ?_, fun l only dirty free whole stack admits filled => ?_⟩
  · rw [mem, Dev.writeBacks_clean _ d fun l hl => clean l (List.mem_filter.1 hl).1 (List.mem_filter.1 hl).2]
  · have low : stackOf (64 * l.atom) < 12 := by
      unfold stackOf
      omega
    rw [mem, only]
    have moved : d.SameDies (d.transfer ⟨l.tag % 1024, l.stack, .loose⟩ true [(64 * l.atom, 64)]) := ⟨rfl, id⟩
    have back : d.writeBack l = (d.transfer ⟨l.tag % 1024, l.stack, .loose⟩ true [(64 * l.atom, 64)]).memWrite l.tag (64 * l.atom) l.data l.poison :=
      (if_neg (by simp [dirty])).trans (if_neg (by rw [moved.blocked, free]; decide))
    have write := Dev.memWrite_whole (d := d.transfer ⟨l.tag % 1024, l.stack, .loose⟩ true [(64 * l.atom, 64)]) l.poison low (by omega)
      (by rw [Mem.frame_of_dies moved.1]; exact admits) whole (by rw [Mem.frame_of_dies moved.1]; exact filled)
    rw [← back] at write
    exact write

/-- The outcome of an ACQUIRE or FLUSH over a range that no enabled segments wholly cover. -/
theorem Dev.gapFault_spec {d : Dev} {p : Place} (here : d.place p.id = some p) (low : p.ctx < 16) (a n : Nat) :
    ∃ q, (d.gapFault p a n).place p.id = some q ∧ q.phase = .finished ∧ q.status = .segmentFault ∧ (d.gapFault p a n).cache = d.cache ∧
      (d.gapFault p a n).mem = d.mem ∧ ((d.gapFault p a n).seat p.seat).faultKind = 1 := by
  have seat : p.ctxIx / 16 = p.seat := by
    unfold Place.ctxIx
    omega
  obtain ⟨-, -, seats, mem, -⟩ := d.segFault_spec p.ctxIx ((d.ctx p.ctxIx).firstGap a n) 1 0
  have there : (d.segFault p.ctxIx ((d.ctx p.ctxIx).firstGap a n) 1 0).place p.id = some p := here
  have record := seats p.seat
  rw [if_pos seat.symm] at record
  exact ⟨_, Dev.place_upd_again (·.fail .segmentFault) there fun _ => rfl, rfl, rfl, rfl, mem, congrArg Seat.faultKind record⟩

/-- How an ACQUIRE ends: its place has finished, and the bypass ranges grow by `b`. -/
def Dev.Ends (p : Place) (b : List Bypass) (d e : Dev) : Prop :=
  (∀ q, d.place p.id = some q → e.place p.id = some q.finish) ∧ e.cache = d.cache ∧ e.mem = d.mem ∧
    (e.ctx p.ctxIx).bypass = (d.ctx p.ctxIx).bypass ++ b

theorem Dev.finishPlace_ends (d : Dev) (p : Place) : d.Ends p [] (d.finishPlace p) :=
  ⟨fun _ here => Dev.place_upd_again Place.finish here fun _ => rfl, rfl, rfl, (List.append_nil _).symm⟩

theorem Dev.addBypass_ends (d : Dev) (p : Place) (a n : Nat) :
    d.Ends p [⟨a, n⟩] ((d.updCtx p.ctxIx fun c => { c with bypass := c.bypass ++ [⟨a, n⟩] }).finishPlace p) := by
  have ctx := Dev.ctx_updCtx d p.ctxIx p.ctxIx fun c => { c with bypass := c.bypass ++ [⟨a, n⟩] }
  rw [if_pos rfl] at ctx
  refine ⟨fun q here => ?_, rfl, rfl, congrArg Ctx.bypass ctx⟩
  have there : (d.updCtx p.ctxIx fun c => { c with bypass := c.bypass ++ [⟨a, n⟩] }).place p.id = some q := here
  exact Dev.place_upd_again Place.finish there fun _ => rfl

/-- An ACQUIRE over its lines, none of which is stuck (R122). -/
theorem Dev.acquires {d : Dev} {p : Place} (here : d.place p.id = some p) {a n : Nat} {b : List Bypass} {g : Dev → Dev} (ends : ∀ e : Dev, e.Ends p b (g e))
    (free : ∀ l ∈ d.cache.lines, l.dirty = true → d.acquireLines p.ctxIx a n l = true → d.blocked (64 * l.atom) = false) :
    ∃ e q, d.overLines p (d.acquireLines p.ctxIx a n) (·.acquire p.ctxIx a n) g = e ∧ e.place p.id = some q ∧ q.phase = .finished ∧
      q.status = p.status ∧ e.cache.lines = (d.cache.lines.filter fun l => !d.acquireLines p.ctxIx a n l) ∧
      (e.ctx p.ctxIx).bypass = (d.ctx p.ctxIx).bypass ++ b ∧ e.mem = (({ dev := d } : Mio).acquire p.ctxIx a n).dev.mem := by
  obtain ⟨lines, -⟩ := Mio.acquire_spec d p.ctxIx a n
  have smooth := ({ dev := d } : Mio).acquire_smooth p.ctxIx a n
  have ctx : ((({ dev := d } : Mio).acquire p.ctxIx a n).dev.ctx p.ctxIx).bypass = (d.ctx p.ctxIx).bypass := by
    obtain ⟨r, w, m, k, same⟩ := smooth.work.ctx p.ctxIx
    rw [same]
  obtain ⟨e, run, rest, place⟩ := Dev.overLines_done here g (f := (·.acquire p.ctxIx a n)) free smooth
  dsimp only at rest place
  generalize ({ dev := d } : Mio).acquire p.ctxIx a n = m at *
  obtain ⟨finish, cache, mem, bypass⟩ := ends e
  refine ⟨g e, _, run, finish _ place, rfl, rfl, ?_, ?_, ?_⟩
  · rw [cache, rest]
    exact lines
  · rw [bypass, ← ctx, rest]
    rfl
  · rw [mem, rest]

theorem Dev.restores {d : Dev} {p : Place} (here : d.place p.id = some p) (covered : (d.ctx p.ctxIx).covers (p.op.ref 0).addr (p.op.word 1) = true) :
    ∃ q, (d.workRestore p).place p.id = some q ∧ q.phase = .finished ∧ (d.workRestore p).cache = d.cache ∧ (d.workRestore p).mem = d.mem ∧
      ∀ b, b ∈ ((d.workRestore p).ctx p.ctxIx).bypass ↔ b ∈ (d.ctx p.ctxIx).bypass ∧
        ¬((p.op.ref 0).addr ≤ b.addr ∧ b.addr + b.length ≤ (p.op.ref 0).addr + p.op.word 1) := by
  let drop : Ctx → Ctx := fun c => { c with
    bypass := c.bypass.filter fun b => !(decide ((p.op.ref 0).addr ≤ b.addr) && decide (b.addr + b.length ≤ (p.op.ref 0).addr + p.op.word 1)) }
  have run : d.workRestore p = (d.updCtx p.ctxIx drop).updPlace p.id Place.finish := if_neg (by simp [covered])
  have ctx := Dev.ctx_updCtx d p.ctxIx p.ctxIx drop
  rw [if_pos rfl] at ctx
  have there : (d.updCtx p.ctxIx drop).place p.id = some p := here
  have bypass : (((d.updCtx p.ctxIx drop).updPlace p.id Place.finish).ctx p.ctxIx).bypass = (drop (d.ctx p.ctxIx)).bypass := congrArg Ctx.bypass ctx
  rw [run]
  refine ⟨_, Dev.place_upd_again Place.finish there fun _ => rfl, rfl, rfl, rfl, fun b => ?_⟩
  rw [bypass, List.mem_filter, Bool.not_eq_true', Bool.and_eq_false_iff, decide_eq_false_iff_not, decide_eq_false_iff_not, not_and_or]

/-- A FLUSH whose range is covered, or which names none, over lines none of which is stuck (R123). -/
theorem Dev.flushes {d : Dev} {p : Place} (here : d.place p.id = some p)
    (covered : p.op.word 1 = 0 ∨ (d.ctx p.ctxIx).covers (p.op.ref 0).addr (p.op.word 1) = true)
    (free : ∀ l ∈ d.cache.lines, l.dirty = true → d.flushPick p l = true → d.blocked (64 * l.atom) = false) :
    ∃ q, (d.workFlush p).place p.id = some q ∧ q.phase = .finished ∧ q.status = p.status ∧
      (d.workFlush p).cache.lines = d.cache.lines.map (fun l => if d.flushPick p l then { l with dirty := false } else l) ∧
      ((∀ l ∈ d.cache.lines, d.flushPick p l = true → l.dirty = false) → (d.workFlush p).mem = d.mem) := by
  have go : ¬(p.op.word 1 ≠ 0 ∧ (d.ctx p.ctxIx).covers (p.op.ref 0).addr (p.op.word 1) = false) := by
    rintro ⟨some_, gap⟩
    rcases covered with h | h
    · exact some_ h
    · rw [h] at gap
      cases gap
  obtain ⟨e, run, rest, place⟩ := Dev.overLines_done here (·.finishPlace p) (f := (·.flush (d.flushPick p))) free
    (({ dev := d } : Mio).flush_smooth (d.flushPick p))
  obtain ⟨dev, -⟩ := ({ dev := d } : Mio).flush_spec (d.flushPick p)
  have run : d.workFlush p = e.finishPlace p := (if_neg go).trans run
  have lines := Dev.flushLines_lines d (d.flushPick p)
  dsimp only at rest place
  rw [dev] at rest
  rw [run]
  refine ⟨_, (e.finishPlace_ends p).1 _ place, rfl, rfl, ?_, fun clean => ?_⟩
  · change e.cache.lines = _
    rw [rest]
    exact lines
  · have mem : (e.finishPlace p).mem = ((d.cache.lines.filter (d.flushPick p)).foldl Dev.writeBack d).mem := by
      change e.mem = _
      rw [rest]
      rfl
    exact mem.trans (congrArg Dev.mem (Dev.writeBacks_clean _ d fun l hl => clean l (List.mem_filter.1 hl).1 (List.mem_filter.1 hl).2))

/-- Settles O40. -/
theorem cacheOperations : Obligations.CacheOperations := by
  unfold Obligations.CacheOperations
  refine ⟨fun s i c d p h gap here low => ?gap, fun s i c d p h covered here free => ?acquire, fun s i d p enters full covered => ?full,
    fun s i d p enters covered here => ?restore, fun s i d p enters here covered free => ?flush⟩
  case gap =>
    have uncovered : (!(d.ctx p.ctxIx).covers (p.op.ref 0).addr (p.op.word 1)) = true := by rw [gap]; rfl
    rcases h with ⟨rfl, enters⟩ | ⟨rfl, enters⟩ | ⟨rfl, enters⟩ | ⟨rfl, enters, some_⟩
    all_goals
      obtain ⟨-, rfl⟩ := Dev.enters_place enters
      obtain ⟨q, spec⟩ := Dev.gapFault_spec here low (p.op.ref 0).addr (p.op.word 1)
      refine ⟨_, q, exec_of_enters enters (if_pos ?_), spec⟩
    · exact uncovered
    · exact uncovered
    · exact uncovered
    · exact ⟨some_, gap⟩
  case acquire =>
    have go : ¬(!(d.ctx p.ctxIx).covers (p.op.ref 0).addr (p.op.word 1)) = true := by rw [covered]; decide
    obtain ⟨clean, single⟩ := Mio.acquire_mem d p.ctxIx (p.op.ref 0).addr (p.op.word 1)
    have only (l : Line) (h : (d.cache.lines.filter fun l => d.acquireLines p.ctxIx (p.op.ref 0).addr (p.op.word 1) l) = [l]) (dirty : l.dirty = true) :
        d.blocked (64 * l.atom) = false := by
      have picked : l ∈ d.cache.lines.filter fun l => d.acquireLines p.ctxIx (p.op.ref 0).addr (p.op.word 1) l := by rw [h]; exact List.mem_cons_self
      exact free l (List.mem_filter.1 picked).1 dirty (List.mem_filter.1 picked).2
    rcases h with ⟨rfl, enters⟩ | ⟨rfl, enters, room⟩
    all_goals obtain ⟨-, rfl⟩ := Dev.enters_place enters
    · obtain ⟨e, q, run, place, phase, status, lines, bypass, mem⟩ := Dev.acquires here (fun e => e.finishPlace_ends p) free
      refine ⟨_, q, exec_of_enters enters ((if_neg go).trans run), place, phase, status, lines, bypass, fun h => mem.trans (clean h), ?_⟩
      intro l h dirty whole low admits filled
      dsimp only
      rw [mem]
      exact single l h dirty (only l h dirty) whole low admits filled
    · obtain ⟨e, q, run, place, phase, status, lines, bypass, mem⟩ := Dev.acquires here (fun e => e.addBypass_ends p (p.op.ref 0).addr (p.op.word 1)) free
      have more : ¬4 ≤ (d.ctx p.ctxIx).bypass.length := Nat.not_le.2 room
      refine ⟨_, q, exec_of_enters enters ((if_neg go).trans ((if_neg more).trans run)), place, phase, status, lines, ?_, fun h => mem.trans (clean h), ?_⟩
      · rw [if_pos rfl]
        exact bypass
      intro l h dirty whole low admits filled
      dsimp only
      rw [mem]
      exact single l h dirty (only l h dirty) whole low admits filled
  case full =>
    obtain ⟨-, rfl⟩ := Dev.enters_place enters
    exact exec_of_enters enters ((if_neg (by simp [covered])).trans (if_pos full))
  case restore =>
    obtain ⟨-, rfl⟩ := Dev.enters_place enters
    obtain ⟨q, spec⟩ := Dev.restores here covered
    exact ⟨_, q, exec_of_enters enters rfl, spec⟩
  case flush =>
    obtain ⟨-, rfl⟩ := Dev.enters_place enters
    obtain ⟨q, spec⟩ := Dev.flushes here covered free
    exact ⟨_, q, exec_of_enters enters rfl, spec⟩

end Sys2Proof.Machine
end

section
/-! SUPPORT. One atom read and one atom written past the stream cache, and what COPY and TILE_STORE do with them (O42). -/

namespace Sys2Proof.Machine

/-! ## O42: one atom moves -/

theorem atomPieces_whole {a : Nat} (aligned : a % 64 = 0) : atomPieces 65 a 64 = [(a, 64)] := by
  simp [atomPieces, aligned]

theorem Cache.line_empty {c : Cache} (h : c.lines = []) (k tag atom : Nat) : c.line k tag atom = none := by
  rw [Cache.line, h]
  rfl

theorem Dev.translate_ok {d : Dev} {x a n i : Nat} {g : Seg} {rd wr : Bool} (covering : (d.ctx x).covering a = some (i, g))
    (reads : rd = true → g.read = true) (writes : wr = true → g.write = true) (within : a + n ≤ g.vbase + g.length * 65536) :
    d.translate x a n rd wr = .ok (g.pbase + (a - g.vbase)) i := by
  have allowed : ¬((rd && !g.read) || (wr && !g.write) || decide (g.vbase + g.length * 65536 < a + n)) = true := by
    simp only [Bool.or_eq_true, Bool.and_eq_true, Bool.not_eq_true', decide_eq_true_iff, not_or, not_and, Bool.not_eq_false]
    exact ⟨⟨reads, writes⟩, Nat.not_lt.2 within⟩
  unfold Dev.translate
  rw [covering]
  exact if_neg allowed

theorem Opref.hintOf_stream {o : Opref} (h : o.hint = 1) (g : Seg) : o.hintOf g = .stream := by
  rw [Opref.hintOf, h]
  rfl

/-- An atom in memory that a context reads as it stands there: served, admitted, clean, and not to be zero-filled. -/
structure Dev.Readable (d : Dev) (x a : Nat) : Prop where
  free : d.blocked a = false
  admits : (d.mem.frame (stackOf a) (frameOf a)).admits (tagOf x) = true
  filled : (d.mem.frame (stackOf a) (frameOf a)).zero = false
  pure : d.mem.isPoison a = false
  symbols : d.mem.upsets.get [] (d.mem.locate a / 64) = []

theorem Mio.readAtom_stream {m : Mio} {g : Agent} {a : Nat} (aligned : a % 64 = 0) (going : m.waits = false) (empty : m.dev.cache.lines = [])
    (clean : m.dev.Readable g.ctx a) (bypass : Bool) : (m.readAtom g a .stream bypass).2 = (m.dev.mem.bytes a 64, false) ∧
    (m.readAtom g a .stream bypass).1.dev = m.dev ∧ (m.readAtom g a .stream bypass).1.fault = m.fault ∧
    (m.readAtom g a .stream bypass).1.waits = false := by
  have atom : 64 * (a / 64) = a := by omega
  have base : a / 64 * 64 = a := by omega
  have value := Mio.readMem_clean going clean.free clean.admits clean.filled clean.pure clean.symbols
  rw [base] at value
  have absent : (if bypass then none else m.dev.cache.line g.stack (tagOf g.ctx) (a / 64)) = none := by
    rw [Cache.line_empty empty, ite_self]
  have run : m.readAtom g a .stream bypass = m.readMem g a := by
    unfold Mio.readAtom
    dsimp only
    rw [absent, atom]
    exact if_pos (by simp)
  rw [run]
  exact value

theorem Mio.reach_short (m : Mio) (a : Nat) : (m.reach a).short = m.short := by
  unfold Mio.reach
  dsimp only
  split <;> rfl

theorem Mio.readMem_short (m : Mio) (g : Agent) (a : Nat) : (m.readMem g a).1.short = m.short := by
  unfold Mio.readMem
  dsimp only
  split
  · exact m.reach_short a
  · split
    · exact m.reach_short a
    · split <;> exact m.reach_short a

theorem Dev.transferAtoms_one (d : Dev) (g : Agent) (w : Bool) (x : Nat) : d.transferAtoms g w [x] = d.transfer g w [(64 * x, 64)] := rfl

/-- What a transfer of one atom counts (R340, R408). -/
theorem Dev.transfer_meter (d : Dev) (g : Agent) (w : Bool) (a : Nat) : ((d.transfer g w [(a, 64)]).ctx g.ctx).meter.read =
      (if w then (d.ctx g.ctx).meter.read else ((d.ctx g.ctx).meter.read + 640) % 2 ^ 64) ∧
    ((d.transfer g w [(a, 64)]).ctx g.ctx).meter.write = (if w then ((d.ctx g.ctx).meter.write + 640) % 2 ^ 64 else (d.ctx g.ctx).meter.write) := by
  have ctx (f : Meter → Meter) : ((d.meter g.ctx f).ctx g.ctx).meter = f (d.ctx g.ctx).meter := by
    have same := Dev.ctx_updCtx d g.ctx g.ctx fun c => { c with meter := f c.meter }
    rw [if_pos rfl] at same
    exact congrArg Ctx.meter same
  let n := transferCharge ([(a, 64)].map (·.2)).sum
  let cross := memOwner (stackOf a) != g.stack
  let count : Meter → Meter := fun t =>
    { t with read := if w then t.read else add64 t.read n, write := if w then add64 t.write n else t.write,
             remote := if cross then add64 t.remote n else t.remote }
  have counted : ((d.transfer g w [(a, 64)]).ctx g.ctx).meter = count (d.ctx g.ctx).meter := ctx count
  have charge : n = 640 := by
    change transferCharge (64 + 0) = 640
    decide
  rw [counted]
  simp only [count, charge, add64, and_self]

theorem slice_whole {bs : List Byte} {n : Nat} (h : bs.length = n) : slice bs 0 n = bs := by
  unfold slice
  dsimp only
  rw [List.drop_zero, List.take_of_length_le (Nat.le_of_eq h), h, Nat.sub_self]
  exact List.append_nil _

/-- A read of one clean atom past an empty cache: its bytes, one transfer, and nothing else (R335, R340). -/
theorem Mio.read_atom {d : Dev} {g : Agent} {o : Opref} {a pa s : Nat} (translate : d.translate g.ctx a 64 true false = .ok pa s) (hint : o.hint = 1)
    (aligned : pa % 64 = 0) (empty : d.cache.lines = []) (clean : d.Readable g.ctx pa) :
    ∃ m, ({ dev := d } : Mio).read g o a 64 = (m, d.mem.bytes pa 64, List.replicate 64 false) ∧ m.waits = false ∧ m.fault = false ∧ m.short = false ∧
      m.dev = d.transfer g false [(pa, 64)] := by
  let e := d.transfer g false [(pa, 64)]
  have atom : 64 * (pa / 64) = pa := by omega
  have missed : ((atomPieces (64 + 1) pa 64).filter fun p => d.misses g p.1 ((d.ctx g.ctx).bypasses (a + (p.1 - pa)))).map (·.1 / 64) = [pa / 64] := by
    rw [atomPieces_whole aligned]
    simp [Dev.misses, Cache.line_empty empty]
  have moved : d.transferAtoms g false [pa / 64] = e := by rw [Dev.transferAtoms_one, atom]
  have clean_ : e.Readable g.ctx pa := ⟨(Dev.blocked_of_mem rfl pa).trans clean.free, clean.admits, clean.filled, clean.pure, clean.symbols⟩
  let b := (e.ctx g.ctx).bypasses (a + (pa - pa))
  obtain ⟨value, dev, fault, waits⟩ := Mio.readAtom_stream (m := { dev := e }) aligned rfl empty clean_ b
  have short : (({ dev := e } : Mio).readAtom g pa .stream b).1.short = false := by
    have run : ({ dev := e } : Mio).readAtom g pa .stream b = ({ dev := e } : Mio).readMem g pa := by
      have absent : (if b then none else e.cache.line g.stack (tagOf g.ctx) (pa / 64)) = none := by
        rw [Cache.line_empty (c := e.cache) empty, ite_self]
      unfold Mio.readAtom
      dsimp only
      rw [absent, atom]
      exact if_pos (by simp)
    rw [run]
    exact Mio.readMem_short _ _ _
  refine ⟨(({ dev := e } : Mio).readAtom g pa .stream b).1, ?_, waits, fault, short, dev⟩
  have length : (e.mem.bytes pa 64).length = 64 := by simp [Mem.bytes]
  have read : ({ dev := d } : Mio).read g o a 64 = ((({ dev := e } : Mio).readAtom g pa .stream b).1,
      slice ((((({ dev := e } : Mio).readAtom g pa .stream b).2.1).drop (pa % 64)).take 64) 0 64,
      List.replicate 64 (({ dev := e } : Mio).readAtom g pa .stream b).2.2 ++ List.replicate 0 false) := by
    unfold Mio.read
    rw [if_neg (by simp), translate]
    dsimp only
    rw [missed, moved, atomPieces_whole aligned]
    simp only [List.foldl_cons, List.foldl_nil, Opref.hintOf_stream hint, Mio.readPiece, Bool.or_self, Bool.false_eq_true, if_false, List.nil_append,
      List.length_replicate]
    rfl
  rw [read, value, aligned]
  dsimp only
  rw [List.drop_zero, List.take_of_length_le (Nat.le_of_eq length), slice_whole length]
  exact congrArg (fun x => (_, _, x)) (List.append_nil _)

/-- An admitted write of a whole atom that is not poisoned. -/
theorem Dev.memWrite_run {d : Dev} {tag a : Nat} {bs : List Byte} (stack : stackOf a < 12)
    (admits : (d.mem.frame (stackOf a) (frameOf a)).admits tag = true) (whole : bs.length = 64)
    (filled : (d.mem.frame (stackOf a) (frameOf a)).zero = false) :
    d.memWrite tag a bs false = { d with mem := ((d.mem.clearUpset a).setPoison a false).putBytes a bs } := by
  have write : d.writeAtom a bs { seat := tagSeat tag } = { d with mem := ((d.mem.clearUpset a).setPoison a false).putBytes a bs } := by
    unfold Dev.writeAtom
    simp only [filled, Bool.false_eq_true, if_false, whole, if_true]
  rw [Dev.memWrite, if_neg (Nat.not_le.2 stack), if_pos admits, write]
  rfl

/-- An atom in memory that a context may overwrite whole: served, admitted, and not to be zero-filled. -/
structure Dev.Overwritable (d : Dev) (x a : Nat) : Prop where
  free : d.blocked a = false
  admits : (d.mem.frame (stackOf a) (frameOf a)).admits (tagOf x) = true
  filled : (d.mem.frame (stackOf a) (frameOf a)).zero = false
  stack : stackOf a < 12

/-- The device once a context has written one atom past an empty cache: one transfer, and its bytes (R335, R340, R350). -/
def Dev.wroteAtom (d : Dev) (g : Agent) (a : Nat) (bs : List Byte) : Dev :=
  { d.transfer g true [(a, 64)] with mem := ((d.mem.clearUpset a).setPoison a false).putBytes a bs }

theorem Mio.writeMem_atom {m : Mio} {g : Agent} {a : Nat} {bs : List Byte} (going : m.waits = false) (sound : m.fault = false)
    (open_ : m.dev.Overwritable g.ctx a) (whole : bs.length = 64) : (m.writeMem g a bs false).dev = m.dev.wroteAtom g a bs ∧
    (m.writeMem g a bs false).waits = false ∧ (m.writeMem g a bs false).fault = false ∧ (m.writeMem g a bs false).short = m.short := by
  obtain ⟨free, admits, filled, stack⟩ := open_
  have reach : m.reach a = m.touch a := if_neg (by simp [Mio.touch, free])
  have write := Dev.memWrite_run (d := m.dev.transfer g true [(a, 64)]) (bs := bs) stack admits whole filled
  have run : m.writeMem g a bs false = { m.touch a with
      dev := (m.dev.transfer g true [(a, bs.length)]).memWrite (tagOf g.ctx) a bs false
      fault := (m.touch a).fault || !(m.dev.mem.frame (stackOf a) (frameOf a)).admits (tagOf g.ctx) } := by
    unfold Mio.writeMem
    dsimp only
    rw [reach]
    exact if_neg (by simp [Mio.touch, going])
  rw [run, whole, write, admits]
  exact ⟨rfl, going, by simp [Mio.touch, sound], rfl⟩

/-- A write of one aligned atom past an empty cache. -/
theorem Mio.write_atom {m : Mio} {g : Agent} {o : Opref} {a pa s : Nat} {bs : List Byte} {po : List Bool} (going : m.waits = false) (sound : m.fault = false)
    (translate : m.dev.translate g.ctx a 64 false true = .ok pa s) (hint : o.hint = 1) (virtual_ : a % 64 = 0) (aligned : pa % 64 = 0)
    (whole : bs.length = 64) (pure : (po.take 64).any id = false) (empty : m.dev.cache.lines = []) (open_ : m.dev.Overwritable g.ctx pa) :
    (m.write g o a bs po).dev = m.dev.wroteAtom g pa bs ∧ (m.write g o a bs po).waits = false ∧ (m.write g o a bs po).fault = false ∧
    (m.write g o a bs po).short = m.short := by
  have run : m.write g o a bs po = m.writeMem g pa bs false := by
    have some_ : bs.isEmpty = false := by
      cases bs with
      | nil => cases whole
      | cons b bs => rfl
    have all : bs.take 64 = bs := List.take_of_length_le (by omega)
    unfold Mio.write
    rw [if_neg (by simp [going, sound, some_])]
    dsimp only
    have part : (a % 64 != 0 || bs.length % 64 != 0) = false := by simp [virtual_, whole]
    rw [part, whole, translate]
    dsimp only
    rw [atomPieces_whole aligned, List.foldl_cons, List.foldl_nil, Opref.hintOf_stream hint]
    unfold Mio.writePiece
    rw [if_neg (by simp [going, sound])]
    dsimp only
    rw [Nat.sub_self, List.drop_zero, List.drop_zero, all, pure]
    unfold Mio.writeAtom
    dsimp only
    rw [Cache.line_empty empty, ite_self]
    simp [whole]
  rw [run]
  exact Mio.writeMem_atom going sound open_ whole

/-- What a write of one atom leaves in memory: its bytes at its place, and all else as it was. -/
theorem Dev.wroteAtom_mem (d : Dev) (g : Agent) {a : Nat} {bs : List Byte} (aligned : a % 64 = 0) (whole : bs.length = 64) :
    (d.wroteAtom g a bs).mem.bytes a 64 = bs ∧
    ∀ b, ¬(d.mem.locate a ≤ d.mem.locate b ∧ d.mem.locate b < d.mem.locate a + 64) → (d.wroteAtom g a bs).mem.byte b = d.mem.byte b := by
  have fits : a % 65536 + bs.length ≤ 65536 := by omega
  refine ⟨?_, fun b out => ?_⟩
  · have put := Mem.bytes_putBytes (m := (d.mem.clearUpset a).setPoison a false) fits
    rwa [whole] at put
  · refine Mem.byte_putBytes_other fun i hi same => out ?_
    have low : ((d.mem.clearUpset a).setPoison a false).locate (a + i) = ((d.mem.clearUpset a).setPoison a false).locate a + i :=
      Mem.locate_add (by omega)
    have at_ : d.mem.locate b = d.mem.locate a + i := same.trans low
    omega

theorem Dev.wroteAtom_keeps (d : Dev) (g : Agent) (a : Nat) (bs : List Byte) : (d.wroteAtom g a bs).cache = d.cache ∧
    (d.wroteAtom g a bs).rings = d.rings ∧ (d.wroteAtom g a bs).seats = d.seats ∧ (d.wroteAtom g a bs).board = d.board ∧
    ((d.wroteAtom g a bs).ctx g.ctx).meter.read = (d.ctx g.ctx).meter.read ∧
    ((d.wroteAtom g a bs).ctx g.ctx).meter.write = ((d.ctx g.ctx).meter.write + 640) % 2 ^ 64 := by
  obtain ⟨read, write⟩ := d.transfer_meter g true a
  exact ⟨rfl, rfl, rfl, rfl, read, write⟩

theorem Dev.acquiresRef_none {d : Dev} {p : Place} (own : p.op.acquires = false) (launch : p.acquire = false) (w : Nat) : d.acquiresRef p w = false := by
  simp [Dev.acquiresRef, own, launch]

/-- An operation that acquires nothing begins its memory work on the device as it stands. -/
theorem Dev.io_plain {d : Dev} {p : Place} (own : p.op.acquires = false) (launch : p.acquire = false) : d.io p = { dev := d } := by
  unfold Dev.io
  generalize (refFields p.op.opcode).filter (·.reads) = l
  induction l with
  | nil => rfl
  | cons f l ih => rwa [List.foldl_cons, if_neg (by simp [Dev.acquiresRef_none own launch])]

/-- Memory work that wrote one atom, and ends: its place has finished with the flags given. -/
theorem Dev.conclude_wrote {d e : Dev} {p : Place} {m : Mio} {g : Agent} {a : Nat} {bs : List Byte} {finish : Place → Place}
    (keeps : ∀ q, (finish q).id = q.id) (wrote : m.dev = e.wroteAtom g a bs) (board : e.board = d.board) (here : d.place p.id = some p)
    (going : m.waits = false) (sound : m.fault = false) (whole : m.short = false) :
    ∃ t, d.conclude p m (fun d => d.updPlace p.id finish) = t ∧ t.place p.id = some (finish (p.noted m)) ∧ t.mem = (e.wroteAtom g a bs).mem ∧
      t.ctxs = (e.wroteAtom g a bs).ctxs ∧ t.cache = e.cache ∧ t.rings = e.rings ∧ t.seats = e.seats := by
  have there : m.dev.place p.id = some p := by
    rw [wrote, Dev.place, (e.wroteAtom_keeps g a bs).2.2.2.1, board]
    exact here
  obtain ⟨f, run, rest, place, -⟩ := Dev.conclude_done (fun d => d.updPlace p.id finish) there ⟨going, sound, whole⟩
  refine ⟨_, run, Dev.place_upd_again finish place keeps, ?_, ?_, ?_, ?_, ?_⟩
  all_goals
    rw [rest, wrote]
    rfl

/-- A matrix without poison marks no byte of a row. -/
theorem Mat.rowOut_pure {x : Mat} (pure : x.anyPoison = false) (r : Nat) : ∀ b ∈ (x.rowOut r).2, b = false := by
  have none_ (k : Nat) : (x.poison.getD r []).getD k false = false := by
    rw [Bool.eq_false_iff]
    intro marked
    have any : x.anyPoison = true := by
      simp only [List.getD_eq_getElem?_getD] at marked
      cases row : x.poison[r]? with
      | none => simp [row] at marked
      | some l =>
        rw [row, Option.getD_some] at marked
        cases at_ : l[k]? with
        | none => simp [at_] at marked
        | some b =>
          rw [at_, Option.getD_some] at marked
          exact List.any_eq_true.2 ⟨l, List.mem_of_getElem? row, List.any_eq_true.2 ⟨b, List.mem_of_getElem? at_, marked⟩⟩
    rw [pure] at any
    cases any
  intro b hb
  obtain ⟨i, -, rfl⟩ := List.mem_map.1 hb
  exact none_ _

/-- Settles O42. -/
theorem copyMovesAnAtom : Obligations.CopyMovesAnAtom := by
  unfold Obligations.CopyMovesAnAtom
  refine ⟨fun s i d p sa sb pa pb x y g h enters unpaid own launch length kindA kindB hintA hintB addrA addrB coverA coverB reads writes withinA withinB
      atA atB alignedA alignedB virtual_ stack empty freeA freeB admitsA admitsB filledA filledB pure symbols => ?copy,
    fun s i d p sb pb y h x z enters ready unpaid stream own launch hx hz rows length pure kind hint addr cover writes within at_ aligned virtual_ stack
      empty free admits filled => ?store⟩
  case copy =>
    obtain ⟨here, rfl⟩ := Dev.enters_place enters
    have low : stackOf pb < 12 := by
      unfold stackOf
      omega
    have translateA : d.translate p.ctxIx sa 64 true false = .ok pa x :=
      (Dev.translate_ok (rd := true) (wr := false) coverA (fun _ => reads) nofun withinA).trans (by rw [atA])
    obtain ⟨m, read, going, sound, whole, dev⟩ := Mio.read_atom (g := d.agent p) (o := p.op.ref 0) translateA hintA alignedA empty
      ⟨freeA, admitsA, filledA, pure, symbols⟩
    have flat : (d.io p).flat (d.agent p) p 0 (p.op.word 2) = (m, d.mem.bytes pa 64, List.replicate 64 false) := by
      rw [Dev.io_plain own launch, length]
      unfold Mio.flat Mio.readOperand
      rw [if_neg (by simp [Place.inPads, kindA]), unpaid]
      change ({ dev := d } : Mio).read (d.agent p) (p.op.ref 0) ((p.op.ref 0).addr + 0) 64 = _
      rw [addrA]
      exact read
    have moved : d.WorkOnly m.dev := by
      rw [dev]
      exact Dev.WorkOnly.transfer d _ _ _
    have translateB : m.dev.translate p.ctxIx sb 64 false true = .ok pb y := by
      rw [moved.translate]
      exact (Dev.translate_ok (rd := false) (wr := true) coverB nofun (fun _ => writes) withinB).trans (by rw [atB])
    have size : (d.mem.bytes pa 64).length = 64 := by simp [Mem.bytes]
    have mem : m.dev.mem = d.mem := by
      rw [dev]
      rfl
    have cache : m.dev.cache = d.cache := by
      rw [dev]
      rfl
    have open_ : m.dev.Overwritable (d.agent p).ctx pb :=
      ⟨(Dev.blocked_of_mem mem pb).trans freeB, by rw [mem]; exact admitsB, by rw [mem]; exact filledB, low⟩
    obtain ⟨wrote, going', sound', whole'⟩ := Mio.write_atom (g := d.agent p) (o := p.op.ref 1) (bs := d.mem.bytes pa 64) (po := List.replicate 64 false)
      going sound translateB hintB virtual_ alignedB size (by decide) (by rw [cache]; exact empty) open_
    obtain ⟨t, run, place, memT, ctxs, cacheT, rings, seats⟩ := Dev.conclude_wrote
      (finish := fun q => { q.finish with flags := q.flags.or { poisoned := (List.replicate 64 false).any id } }) (fun _ => rfl) wrote moved.board here
      going' sound' (whole'.trans whole)
    have exec_ : d.workCopy p = t := by
      unfold Dev.workCopy
      rw [flat]
      dsimp only
      rw [if_neg (by simp [kindB]), if_neg (by simp [whole]), addrB]
      exact run
    obtain ⟨bytes, others⟩ := m.dev.wroteAtom_mem (d.agent p) (bs := d.mem.bytes pa 64) alignedB size
    obtain ⟨-, -, -, -, readB, writeB⟩ := m.dev.wroteAtom_keeps (d.agent p) pb (d.mem.bytes pa 64)
    obtain ⟨readA, writeA⟩ := d.transfer_meter (d.agent p) false pa
    rw [← dev] at readA writeA
    have ctx : t.ctx p.ctxIx = (m.dev.wroteAtom (d.agent p) pb (d.mem.bytes pa 64)).ctx (d.agent p).ctx := by
      rw [Dev.ctx, ctxs]
      rfl
    rw [mem] at others
    refine ⟨_, _, exec_of_enters enters exec_, place, rfl, rfl, ?_, ?_, fun b out => ?_, ?_, ?_, ?_, ?_, ?_⟩
    · simp [Flags.or, Place.noted]
    · dsimp only
      rw [memT, bytes]
    · dsimp only
      rw [memT]
      exact others b out
    · dsimp only
      rw [ctx, readB, readA]
      rfl
    · dsimp only
      rw [ctx, writeB, writeA]
      rfl
    · exact cacheT.trans cache
    · exact rings.trans moved.rings
    · refine seats.trans ?_
      rw [dev]
      rfl
  case store =>
    obtain ⟨here, rfl⟩ := Dev.enters_place enters
    have low : stackOf pb < 12 := by
      unfold stackOf
      omega
    have source : (d.io p).source (d.agent p) p 0 (d.elementCore p) = ({ dev := d }, x) := by
      rw [Dev.io_plain own launch, hx]
      unfold Mio.source
      dsimp only
      rw [if_neg (by simp [Place.inPads, stream]), if_pos (by simp [unpaid, paysFor, stream])]
    have one : z.rows = 1 := by
      rw [hz, ← rows, hx]
      rfl
    have translate : d.translate p.ctxIx sb 64 false true = .ok pb y :=
      (Dev.translate_ok (rd := false) (wr := true) cover nofun (fun _ => writes) within).trans (by rw [at_])
    have clean : ((z.rowOut 0).2.take 64).any id = false :=
      List.any_eq_false.2 fun b hb => by simp [Mat.rowOut_pure pure 0 b (List.mem_of_mem_take hb)]
    obtain ⟨wrote, going, sound, whole⟩ := Mio.write_atom (m := { dev := d }) (g := d.agent p) (o := p.op.ref 1) (bs := (z.rowOut 0).1) (po := (z.rowOut 0).2)
      rfl rfl translate hint virtual_ aligned length clean empty ⟨free, admits, filled, low⟩
    have write : ({ dev := d } : Mio).writeMat (d.agent p) (p.op.ref 1) (p.op.word 3) z =
        ({ dev := d } : Mio).write (d.agent p) (p.op.ref 1) sb (z.rowOut 0).1 (z.rowOut 0).2 := by
      unfold Mio.writeMat
      rw [one, List.range_one, List.foldl_cons, List.foldl_nil, addr, Nat.zero_mul]
      rfl
    obtain ⟨t, run, place, memT, ctxs, cacheT, -, -⟩ := Dev.conclude_wrote
      (finish := fun q => { (q.finish).noteElems x.stored with flags := (q.flags.or (flagsOf x.stored)).or { poisoned := z.anyPoison } })
      (fun _ => rfl) wrote rfl here going sound whole
    have exec_ : Dev.whenFed Dev.workTileStore d p = t := by
      unfold Dev.whenFed Dev.workTileStore
      rw [if_pos ready, source, ← run, ← write, hz]
    obtain ⟨bytes, others⟩ := d.wroteAtom_mem (d.agent p) (bs := (z.rowOut 0).1) aligned length
    obtain ⟨-, -, -, -, -, writeB⟩ := d.wroteAtom_keeps (d.agent p) pb (z.rowOut 0).1
    have ctx : t.ctx p.ctxIx = (d.wroteAtom (d.agent p) pb (z.rowOut 0).1).ctx (d.agent p).ctx := by
      rw [Dev.ctx, ctxs]
      rfl
    refine ⟨_, _, exec_of_enters enters exec_, place, rfl, rfl, ?_, fun b out => ?_, ?_, cacheT⟩
    · dsimp only
      rw [memT, bytes]
    · dsimp only
      rw [memT]
      exact others b out
    · dsimp only
      rw [ctx, writeB]
      rfl

/-! ## O43: tile arrivals -/

theorem Place.stream_operand (p : Place) (w : Nat) : (p.stream w).operand = w := by
  unfold Place.stream
  cases found : p.streams.find? (·.operand == w) with
  | none => rfl
  | some st =>
    have hit := List.find?_some found
    simpa using hit

theorem Place.stream_setStream {p : Place} {w : Nat} {st : StreamSt} (h : st.operand = w) : (p.setStream st).stream w = st := by
  have gone : (p.streams.filter (·.operand != st.operand)).find? (·.operand == w) = none := by
    refine List.find?_eq_none.2 fun q hq => ?_
    have ne := (List.mem_filter.1 hq).2
    simp only [bne_iff_ne, h] at ne
    simpa using ne
  change (((p.streams.filter (·.operand != st.operand)) ++ [st]).find? (·.operand == w)).getD { operand := w } = st
  rw [List.find?_append, gone]
  simp [h]

/-- Whatever a tile meets, it counts as received at its operand, and the place goes on. -/
theorem Place.receive_counts (p : Place) (w n : Nat) (t : Tile) (damaged : Bool) :
    ((p.receive w n t damaged none).1.stream w).received = (p.stream w).received + 1 ∧ (p.receive w n t damaged none).1.phase = p.phase ∧
    (p.receive w n t damaged none).1.id = p.id := by
  have uncounted (b : Bool) : ((p.uncounted w b).stream w).received = (p.stream w).received + 1 :=
    congrArg StreamSt.received (Place.stream_setStream (p := p) (st := { p.stream w with received := (p.stream w).received + 1 }) (p.stream_operand w))
  have skewed : ((p.skewed w).stream w).received = (p.stream w).received + 1 :=
    congrArg StreamSt.received (Place.stream_setStream (p := p) (st := { p.stream w with received := (p.stream w).received + 1, draining := true })
      (p.stream_operand w))
  have accepted : ((p.accept w t none).stream w).received = (p.stream w).received + 1 ∧ (p.accept w t none).phase = p.phase ∧
      (p.accept w t none).id = p.id := by
    unfold Place.accept
    extract_lets s nb k fits st u q r
    have count : (r.stream w).received = (p.stream w).received + 1 := congrArg StreamSt.received
      (Place.stream_setStream (p := q) (st := { st with received := st.received + 1, draining := st.draining || !fits }) (p.stream_operand w))
    split
    · exact ⟨count, rfl, rfl⟩
    · exact ⟨count, rfl, rfl⟩
  unfold Place.receive
  dsimp only
  split
  · exact ⟨uncounted _, rfl, rfl⟩
  · split
    · exact ⟨skewed, rfl, rfl⟩
    · exact ⟨uncounted _, rfl, rfl⟩
    · exact accepted

/-- The device whose route has been read and whose consumer holds the outcome. -/
def Dev.tookTile (d : Dev) (i : Nat) (p : Place) (q : Place) : Dev := (d.readRoutes i none).updPlace p.id fun _ => q

/-- What a mismatch on the way adds (R189, R481). -/
def Dev.metMismatch (d : Dev) (r : Route) (seq : Nat) (p : Place) : Dev := (d.poisonGather r seq).noteParity (slotStack p.slot) (some p.seat)

/-- The arrival of a tile that is not paired (R90). -/
theorem Dev.arrive_single {d : Dev} {i : Nat} {r : Route} {x : Sent} {rest : List Sent} (route : d.routes[i]? = some r) (queue : r.queue = x :: rest)
    (single : x.tile.shiftMode ≠ 2) {f : TileFault} {p : Place} {w n : Nat} (consumer : d.consumer r x (decide (f = .damaged)) = some (p, w, n))
    {q : Place × Bool} (hq : q = p.receive w n (x.tile.fault f) (decide (f = .damaged)) none) {e : Dev}
    (he : e = if f.mismatch then (d.tookTile i p q.1).metMismatch r x.tile.sequence p else d.tookTile i p q.1) :
    d.arrive i f .none = if q.2 then e.integrity 3 (slotStack p.slot) (some p.seat) else e := by
  have mode : (x.tile.fault f).shiftMode ≠ 2 := by
    cases f <;> exact single
  subst hq he
  unfold Dev.arrive
  rw [route]
  dsimp only
  rw [queue, List.head?_cons]
  dsimp only
  rw [consumer]
  dsimp only
  rw [if_neg mode, Option.bind_none, Option.bind_none, if_neg (by simp [mode])]
  cases f.mismatch <;> rfl

theorem Dev.place_map {d : Dev} {g : Place → Place} (ids : ∀ q, (g q).id = q.id) (i : Nat) :
    ({ d with board := d.board.map g } : Dev).place i = (d.place i).map g := by
  unfold Dev.place
  dsimp only
  rw [List.find?_map]
  exact congrArg (fun P => (d.board.find? P).map g) (funext fun q => by rw [Function.comp_apply, ids])

theorem Dev.poisonGather_spec (d : Dev) (r : Route) (seq : Nat) : (∀ i q, d.place i = some q → ∃ f, (d.poisonGather r seq).place i = some { q with flags := f }) ∧
    (r.spec.src ≠ 0 → d.poisonGather r seq = d) ∧ d.poisonGather r seq = { d with board := (d.poisonGather r seq).board } := by
  unfold Dev.poisonGather
  split
  · exact ⟨fun i q here => ⟨q.flags, here⟩, fun _ => rfl, rfl⟩
  next near =>
    refine ⟨fun i q here => ?_, fun far => absurd far near, rfl⟩
    let mark : Place → Place := fun p =>
      if (p.op.opcode = 0x20 ∨ p.op.opcode = 0x21) ∧ p.seat = r.spec.seat ∧ (p.op.ref 1).kind = 1 ∧ (p.op.ref 1).addr = r.spec.stream
          ∧ p.gone = false ∧ p.phase ≠ .waiting
          ∧ (seq + 2 ^ 32 - p.op.seqBase) % 2 ^ 32 < tileCount (p.op.fld 2 0 4) (((d.table (p.op.fld 2 4 2)).map (·.dimension)).getD 1) then
        { p with flags := { p.flags with poisoned := true } }
      else p
    have marked (q : Place) : mark q = { q with flags := (mark q).flags } := by
      simp only [mark]
      split <;> rfl
    have place := Dev.place_map (d := d) (g := mark) (fun q => by rw [marked]) i
    rw [here] at place
    exact ⟨_, place.trans (congrArg some (marked q))⟩

/-- What an arrival leaves: the route is read, the consumer holds the outcome, and a mismatch is counted. -/
structure Dev.Took (d e : Dev) (i : Nat) (r : Route) (rest : List Sent) (p q : Place) (f : TileFault) : Prop where
  route : e.routes[i]? = some { r with queue := rest, unread := r.unread + 1 }
  routes : ∀ j, j ≠ i → e.routes[j]? = d.routes[j]?
  mem : e.mem = d.mem
  rings : e.rings = d.rings
  others : f.mismatch = false ∨ r.spec.src ≠ 0 → ∀ j, j ≠ p.id → e.place j = d.place j
  parity : f.mismatch = true → e.chk.parity = satInc32 d.chk.parity 1
  place : ∃ g, e.place p.id = some { q with flags := g } ∧ (f.mismatch = false → g = q.flags)

theorem Dev.tookTile_took {d : Dev} {i : Nat} {r : Route} {x : Sent} {rest : List Sent} (route : d.routes[i]? = some r) (queue : r.queue = x :: rest)
    {p q : Place} (here : d.place p.id = some p) (id : q.id = p.id) {f : TileFault} (clean : f.mismatch = false) : d.Took (d.tookTile i p q) i r rest p q f where
  route := by
    have read : r.read = { r with queue := rest, unread := r.unread + 1 } := by rw [Route.read, queue]; rfl
    change (d.routes.modify i Route.read)[i]? = _
    rw [List.getElem?_modify_eq, route, ← read]
    rfl
  routes j other := List.getElem?_modify_ne _ _ (Ne.symm other)
  mem := rfl
  rings := rfl
  others _ j other := Dev.place_updPlace_other (d := d.readRoutes i none) (fun _ _ => id) other
  parity mismatch := by
    rw [clean] at mismatch
    cases mismatch
  place := ⟨q.flags, (Dev.place_updPlace (d := d.readRoutes i none) fun _ _ => id).trans (congrArg (Option.map fun _ => q) here), fun _ => rfl⟩

theorem Dev.metMismatch_took {d : Dev} {i : Nat} {r : Route} {x : Sent} {rest : List Sent} (route : d.routes[i]? = some r) (queue : r.queue = x :: rest)
    {p q : Place} (here : d.place p.id = some p) (id : q.id = p.id) {f : TileFault} (mismatch : f.mismatch = true) :
    d.Took ((d.tookTile i p q).metMismatch r x.tile.sequence p) i r rest p q f := by
  have took := Dev.tookTile_took route queue here id (f := .none) rfl
  obtain ⟨g, place, -⟩ := took.place
  obtain ⟨poisons, far, frame⟩ := (d.tookTile i p q).poisonGather_spec r x.tile.sequence
  obtain ⟨g', place'⟩ := poisons p.id _ place
  have noted : (d.tookTile i p q).metMismatch r x.tile.sequence p =
      { (d.tookTile i p q).metMismatch r x.tile.sequence p with board := ((d.tookTile i p q).poisonGather r x.tile.sequence).board } := rfl
  generalize hk : (d.tookTile i p q).poisonGather r x.tile.sequence = k at *
  have run : (d.tookTile i p q).metMismatch r x.tile.sequence p = k.noteParity (slotStack p.slot) (some p.seat) := by rw [Dev.metMismatch, hk]
  rw [run]
  exact {
    route := by
      change k.routes[i]? = _
      rw [frame]
      exact took.route
    routes := fun j other => by
      change k.routes[j]? = _
      rw [frame]
      exact took.routes j other
    mem := by
      change k.mem = _
      rw [frame]
      exact took.mem
    rings := by
      change k.rings = _
      rw [frame]
      exact took.rings
    others := fun either j other => by
      have src := either.resolve_left (by simp [mismatch])
      change k.place j = _
      rw [far src]
      exact took.others (.inl rfl) j other
    parity := fun _ => by
      change satInc32 k.chk.parity 1 = _
      rw [frame]
      rfl
    place := ⟨g', place', fun clean => by
      rw [mismatch] at clean
      cases clean⟩ }

/-- An INTEGRITY event changes leaves and the record of the last event only. -/
theorem Dev.Took.integrity {d e : Dev} {i : Nat} {r : Route} {rest : List Sent} {p q : Place} {f : TileFault} (h : d.Took e i r rest p q f) (leaf unit : Nat)
    (seat : Option Nat) : d.Took (e.integrity leaf unit seat) i r rest p q f :=
  ⟨h.route, h.routes, h.mem, h.rings, h.others, h.parity, h.place⟩

/-- A tile that is not paired arrives at its consumer: the outcome is that of `Place.receive`. -/
theorem Dev.arrive_took {d : Dev} {i : Nat} {r : Route} {x : Sent} {rest : List Sent} (route : d.routes[i]? = some r) (queue : r.queue = x :: rest)
    (single : x.tile.shiftMode ≠ 2) {f : TileFault} {p : Place} {w n : Nat} (consumer : d.consumer r x (decide (f = .damaged)) = some (p, w, n))
    (here : d.place p.id = some p) : d.Took (d.arrive i f .none) i r rest p (p.receive w n (x.tile.fault f) (decide (f = .damaged)) none).1 f ∧
      ((p.receive w n (x.tile.fault f) (decide (f = .damaged)) none).2 = true → ((d.arrive i f .none).leaf .chk).testBit 3 = true) := by
  obtain ⟨-, -, id⟩ := p.receive_counts w n (x.tile.fault f) (decide (f = .damaged))
  have run := Dev.arrive_single route queue single consumer rfl rfl
  generalize p.receive w n (x.tile.fault f) (decide (f = .damaged)) none = q at *
  have took : d.Took (if f.mismatch then (d.tookTile i p q.1).metMismatch r x.tile.sequence p else d.tookTile i p q.1) i r rest p q.1 f := by
    cases mismatch : f.mismatch with
    | false => exact Dev.tookTile_took route queue here id mismatch
    | true => exact Dev.metMismatch_took route queue here id mismatch
  rw [run]
  cases broken : q.2 with
  | false => exact ⟨took, nofun⟩
  | true => exact ⟨took.integrity _ _ _, fun _ => Dev.testBit_leaf_setLeaf _ _ _⟩

theorem Place.window_iff (p : Place) (w n seq : Nat) :
    p.window w n seq = true ↔ (seq + 2 ^ 32 - p.op.seqBase) % 2 ^ 32 < n ∧ p.tileAt w seq = none := by
  rw [Place.window, Bool.and_eq_true, decide_eq_true_iff, Option.isNone_iff_eq_none]

/-- The outcome of a tile on its way unharmed. -/
theorem Place.receive_clean {p : Place} {w n : Nat} {t : Tile} (open_ : (p.stream w).draining = false) :
    (t.check = t.checkAs (p.op.ref w).addr t.sequence → (t.sequence + 2 ^ 32 - p.op.seqBase) % 2 ^ 32 < n → p.tileAt w t.sequence = none →
      (p.stream w).received < n → (p.receive w n t false none).1 = p.accept w t none) ∧
    ((t.check = t.checkAs (p.op.ref w).addr t.sequence ∧ (n ≤ (t.sequence + 2 ^ 32 - p.op.seqBase) % 2 ^ 32 ∨
          p.tileAt w t.sequence ≠ none ∨ n ≤ (p.stream w).received) ∨
        t.check ≠ t.checkAs (p.op.ref w).addr t.sequence ∧ t.check = t.checkAs t.stream t.sequence) →
      (p.receive w n t false none).1 = p.skewed w) := by
  have drains : ¬(p.stream w).draining = true := by simp [open_]
  unfold Place.receive
  dsimp only
  rw [if_neg drains]
  refine ⟨fun own within empty room => ?_, fun skew => ?_⟩
  · have arrival : t.arrival (p.op.ref w).addr false (decide ((p.stream w).received < n) && p.window w n t.sequence) = .accepted := by
      rw [(p.window_iff w n t.sequence).2 ⟨within, empty⟩, decide_eq_true room, Tile.arrival, if_neg (by decide), if_pos own]
      rfl
    rw [arrival]
  · have arrival : t.arrival (p.op.ref w).addr false (decide ((p.stream w).received < n) && p.window w n t.sequence) = .skew := by
      rcases skew with ⟨own, out⟩ | ⟨foreign, named⟩
      · have outside : (decide ((p.stream w).received < n) && p.window w n t.sequence) = false := by
          rw [Bool.eq_false_iff]
          intro inside
          obtain ⟨room, window⟩ := Bool.and_eq_true_iff.1 inside
          obtain ⟨within, empty⟩ := (p.window_iff w n t.sequence).1 window
          rcases out with h | h | h
          · exact Nat.not_lt.2 h within
          · exact h empty
          · exact Nat.not_lt.2 h (of_decide_eq_true room)
        rw [outside, Tile.arrival, if_neg (by decide), if_pos own, if_neg (by decide)]
      · rw [Tile.arrival, if_neg (by decide), if_neg foreign, if_pos named]
    rw [arrival]

theorem Place.receive_damaged {p : Place} {w : Nat} (open_ : (p.stream w).draining = false) (n : Nat) (t : Tile) :
    p.receive w n t true none = (p.uncounted w true, true) := by
  unfold Place.receive
  dsimp only
  rw [if_neg (by simp [open_])]
  rfl

/-- An accepted tile takes its position, used as it came or with all rows poisoned (R260). -/
theorem Place.accept_spec (p : Place) (w : Nat) (t : Tile) : ∃ u, (p.accept w t none).arrived = p.arrived ++ [⟨w, t.sequence, u, none⟩] ∧
    (u = t ∧ (p.accept w t none).status = p.status ∧ (p.accept w t none).flags = p.flags ∨
      u = { t with poison := 2 ^ 64 - 1 } ∧ (p.accept w t none).flags.poisoned = true ∧ (p.accept w t none).status ≠ .ok) := by
  unfold Place.accept
  extract_lets s nb k fits st u q r
  by_cases fit : fits = true
  · have same : u = t := if_pos fit
    rw [if_pos fit]
    refine ⟨u, ?_, .inl ⟨same, rfl, rfl⟩⟩
    exact congrArg (fun x => p.arrived ++ [(⟨w, x, u, none⟩ : Arrived)]) (by rw [same])
  · have poisoned : u = { t with poison := 2 ^ 64 - 1 } := if_neg fit
    rw [if_neg fit]
    refine ⟨u, ?_, .inr ⟨poisoned, rfl, ?_⟩⟩
    · exact congrArg (fun x => p.arrived ++ [(⟨w, x, u, none⟩ : Arrived)]) (by rw [poisoned])
    · change (if r.status = .ok then Status.dataError else r.status) ≠ .ok
      split
      next => decide
      next bad => exact bad

theorem exec_routeCreditReturn {s : State} {i : Nat} {r : Route} (route : s.dev.routes[i]? = some r) (unread : r.unread ≠ 0)
    (none_ : ∀ q ∈ s.dev.board, q.unsent = []) : exec (.routeCreditReturn i) s = .next { s with dev :=
      { s.dev with routes := s.dev.routes.modify i fun g => { g with credits := g.credits + 1, unread := g.unread - 1 } } } := by
  have idle (P : Place → Tile → Bool) : (s.dev.board.find? fun p => p.unsent.any (P p)) = none :=
    List.find?_eq_none.2 fun q hq => by simp [none_ q hq]
  change Host.Outcome.next { s with dev := s.dev.returnCredit i } = _
  unfold Dev.returnCredit
  rw [route]
  dsimp only
  rw [if_neg unread, idle]

/-- Settles O43. -/
theorem tileArrivals : Obligations.TileArrivals := by
  unfold Obligations.TileArrivals
  intro s i r x0 t0 rest route queue ht single
  subst ht
  refine ⟨fun f p w n consumer here => ?_, fun p w n consumer here open_ => ⟨fun own within empty room => ?_, fun fine skew => ?_⟩,
    fun p w n consumer here open_ => ?_, fun unread none_ => exec_routeCreditReturn route unread none_⟩
  · obtain ⟨took, -⟩ := Dev.arrive_took route queue single consumer here
    obtain ⟨received, phase, -⟩ := p.receive_counts w n (x0.tile.fault f) (decide (f = .damaged))
    obtain ⟨g, place, -⟩ := took.place
    exact ⟨_, _, rfl, took.route, rfl, took.routes, took.mem, took.rings, took.others, took.parity, _, _, place, rfl, received, phase⟩
  · obtain ⟨took, -⟩ := Dev.arrive_took (f := .none) route queue single consumer here
    obtain ⟨g, place, flags⟩ := took.place
    have outcome := (Place.receive_clean (n := n) (t := x0.tile) open_).1 own within empty room
    obtain ⟨u, arrived, kept⟩ := p.accept_spec w x0.tile
    rw [flags rfl] at place
    change _ = some (p.receive w n x0.tile false none).1 at place
    rw [outcome] at place
    exact ⟨_, _, u, rfl, place, arrived, kept⟩
  · obtain ⟨took, -⟩ := Dev.arrive_took (f := .none) route queue single consumer here
    obtain ⟨g, place, flags⟩ := took.place
    have outcome := (Place.receive_clean (n := n) (t := x0.tile) open_).2 skew
    rw [flags rfl] at place
    change _ = some (p.receive w n x0.tile false none).1 at place
    rw [outcome] at place
    refine ⟨_, _, rfl, place, rfl, rfl, if_pos fine, ?_⟩
    exact congrArg StreamSt.draining (Place.stream_setStream (p := p)
      (st := { p.stream w with received := (p.stream w).received + 1, draining := true }) (p.stream_operand w))
  · obtain ⟨took, broken⟩ := Dev.arrive_took (f := .damaged) route queue single consumer here
    obtain ⟨g, place, flags⟩ := took.place
    have outcome := Place.receive_damaged open_ n x0.tile
    change _ = some { (p.receive w n x0.tile true none).1 with flags := g } at place
    change (p.receive w n x0.tile true none).2 = true → _ at broken
    have kept : g = (p.receive w n x0.tile true none).1.flags := flags rfl
    rw [kept, outcome] at place
    rw [outcome] at broken
    exact ⟨_, _, rfl, place, rfl, by simp [Place.uncounted], rfl, rfl, broken rfl⟩

end Sys2Proof.Machine
end

section
/-! SUPPORT. What an arriving message meets at its link and pair (R451, R452, R455, R457), and what answers it (R453, R459). -/

namespace Sys2Proof.Machine

/-! ## The flits of an arriving message -/

/-- The port's receive buffers of a class free again. -/
def Port.free (k : Port) (n : Nat) (control : Bool) : Port :=
  if control then { k with freedControl := k.freedControl + n } else { k with freedData := k.freedData + n }

@[simp] theorem Port.free_rxSeq (k : Port) (n : Nat) (c : Bool) : (k.free n c).rxSeq = k.rxSeq := by cases c <;> rfl
@[simp] theorem Port.free_nakSent (k : Port) (n : Nat) (c : Bool) : (k.free n c).nakSent = k.nakSent := by cases c <;> rfl
@[simp] theorem Port.free_misrouted (k : Port) (n : Nat) (c : Bool) : (k.free n c).misrouted = k.misrouted := by cases c <;> rfl

/-- The port's own part of a message that arrives where too few buffers are free to be returned. -/
def Dev.arrived (d : Dev) (p : Nat) (m : QMessage) : Dev :=
  (d.updPort p fun k => k.takeFlits (flitsOf m.body.length)).updPort p fun k => k.free (flitsOf m.body.length) (!dataClass m.kind)

theorem Dev.port_arrived (d : Dev) (p : Nat) (m : QMessage) :
    (d.arrived p m).port p = ((d.port p).takeFlits (flitsOf m.body.length)).free (flitsOf m.body.length) (!dataClass m.kind) := by
  rw [Dev.arrived, Dev.port_updPort_same, Dev.port_updPort_same]

@[simp] theorem Dev.arrived_board (d : Dev) (p : Nat) (m : QMessage) : (d.arrived p m).board = d.board := rfl
@[simp] theorem Dev.arrived_mem (d : Dev) (p : Nat) (m : QMessage) : (d.arrived p m).mem = d.mem := rfl
@[simp] theorem Dev.arrived_leaves (d : Dev) (p : Nat) (m : QMessage) : (d.arrived p m).leaves = d.leaves := rfl
@[simp] theorem Dev.arrived_out (d : Dev) (p : Nat) (m : QMessage) : (d.arrived p m).out = d.out := rfl
@[simp] theorem Dev.arrived_rings (d : Dev) (p : Nat) (m : QMessage) : (d.arrived p m).rings = d.rings := rfl
@[simp] theorem Dev.arrived_xrecv (d : Dev) (p : Nat) (m : QMessage) : (d.arrived p m).qlk.xrecv = d.qlk.xrecv := rfl
@[simp] theorem Dev.qlkLeaf_rings (d : Dev) (b p m : Nat) : (d.qlkLeaf b p m).rings = d.rings := rfl
@[simp] theorem Dev.qlkLeaf_xrecv (d : Dev) (b p m : Nat) : (d.qlkLeaf b p m).qlk.xrecv = d.qlk.xrecv := rfl

/-- Nothing is returned while fewer than 64 buffers of each class are free. -/
theorem Dev.takeFlits_freeBuffers {d : Dev} {p : Nat} {m : QMessage} (data : (d.port p).freedData + flitsOf m.body.length < 64)
    (control : (d.port p).freedControl + flitsOf m.body.length < 64) :
    (d.updPort p fun k => k.takeFlits (flitsOf m.body.length)).freeBuffers p (flitsOf m.body.length) (!dataClass m.kind) = d.arrived p m := by
  have few : ¬(64 ≤ ((d.arrived p m).port p).freedData ∨ 64 ≤ ((d.arrived p m).port p).freedControl) := by
    rw [Dev.port_arrived, Port.free]
    cases dataClass m.kind <;> simp [Port.takeFlits] <;> omega
  exact if_neg few

/-- The pair's next XSEQ is expected from the sender of `m`. -/
def Dev.expectNext (d : Dev) (m : QMessage) : Dev :=
  { d with qlk := { d.qlk with xrecv := d.qlk.xrecv.put 0 m.src ((m.xseq + 1) % 2 ^ 32) } }

@[simp] theorem Dev.expectNext_board (d : Dev) (m : QMessage) : (d.expectNext m).board = d.board := rfl
@[simp] theorem Dev.expectNext_mem (d : Dev) (m : QMessage) : (d.expectNext m).mem = d.mem := rfl
@[simp] theorem Dev.expectNext_rings (d : Dev) (m : QMessage) : (d.expectNext m).rings = d.rings := rfl
@[simp] theorem Dev.expectNext_leaves (d : Dev) (m : QMessage) : (d.expectNext m).leaves = d.leaves := rfl
@[simp] theorem Dev.expectNext_out (d : Dev) (m : QMessage) : (d.expectNext m).out = d.out := rfl

theorem Dev.acceptMessage_misrouted {d : Dev} {p : Nat} {m : QMessage} (data : (d.port p).freedData + flitsOf m.body.length < 64)
    (control : (d.port p).freedControl + flitsOf m.body.length < 64) (other : m.cascade ≠ d.cascade.cascadeId ∨ m.dst ≠ d.cascade.moduleIndex) :
    d.acceptMessage p m =
      (((d.arrived p m).updPort p fun k => { k with misrouted := satInc32 k.misrouted 1 }).qlkLeaf 3 p (m.src % 1024), false) := by
  unfold Dev.acceptMessage
  dsimp only
  rw [Dev.takeFlits_freeBuffers data control]
  exact if_pos other

theorem Dev.acceptMessage_disordered {d : Dev} {p : Nat} {m : QMessage} (data : (d.port p).freedData + flitsOf m.body.length < 64)
    (control : (d.port p).freedControl + flitsOf m.body.length < 64) (cascade : m.cascade = d.cascade.cascadeId)
    (dst : m.dst = d.cascade.moduleIndex) (order : m.xseq ≠ d.qlk.xrecv.get 0 m.src) :
    d.acceptMessage p m = (((d.arrived p m).qlkLeaf 5 p m.src).answerMessage m 4, false) := by
  unfold Dev.acceptMessage
  dsimp only
  rw [Dev.takeFlits_freeBuffers data control]
  exact (if_neg (by rintro (h | h); exacts [h cascade, h dst])).trans (if_pos order)

theorem Dev.acceptMessage_next {d : Dev} {p : Nat} {m : QMessage} (data : (d.port p).freedData + flitsOf m.body.length < 64)
    (control : (d.port p).freedControl + flitsOf m.body.length < 64) (cascade : m.cascade = d.cascade.cascadeId)
    (dst : m.dst = d.cascade.moduleIndex) (order : m.xseq = d.qlk.xrecv.get 0 m.src) :
    d.acceptMessage p m = ((d.arrived p m).expectNext m, true) := by
  unfold Dev.acceptMessage
  dsimp only
  rw [Dev.takeFlits_freeBuffers data control]
  exact (if_neg (by rintro (h | h); exacts [h cascade, h dst])).trans (if_neg (not_not_intro order))

theorem Dev.sendCredit_keeps (d : Dev) (p : Nat) :
    (d.sendCredit p).cascade = d.cascade ∧ (d.sendCredit p).qlk.xrecv = d.qlk.xrecv ∧ (d.sendCredit p).seats = d.seats := by
  unfold Dev.sendCredit
  dsimp only
  split
  · exact ⟨rfl, rfl, rfl⟩
  · exact ⟨rfl, rfl, rfl⟩

/-- Buffers that free, and are perhaps returned, leave the cascade, the pairs' counts and the seats. -/
theorem Dev.freeBuffers_keeps (d : Dev) (p n : Nat) (control : Bool) :
    (d.freeBuffers p n control).cascade = d.cascade ∧ (d.freeBuffers p n control).qlk.xrecv = d.qlk.xrecv ∧
      (d.freeBuffers p n control).seats = d.seats := by
  have freed : d.freeBuffers p n control = (d.updPort p (·.free n control)).sendCredit p ∨ d.freeBuffers p n control = d.updPort p (·.free n control) :=
    ite_eq_or_eq _ _ _
  obtain ⟨cascade, xrecv, seats⟩ := (d.updPort p (·.free n control)).sendCredit_keeps p
  rcases freed with run | run <;> rw [run]
  · exact ⟨cascade.trans (Dev.updPort_cascade _ _ _), xrecv.trans (Dev.updPort_xrecv _ _ _), seats.trans (Dev.updPort_seats _ _ _)⟩
  · exact ⟨Dev.updPort_cascade _ _ _, Dev.updPort_xrecv _ _ _, Dev.updPort_seats _ _ _⟩

/-- The next message of its pair, sent to this module, goes on to its meaning. -/
theorem Dev.Accepted.taken {d e : Dev} {p : Nat} {m : QMessage} (h : d.Accepted p m e) : d.acceptMessage p m = (e, true) := by
  obtain ⟨cascade, dst, order, rfl⟩ := h
  obtain ⟨sameCascade, sameXrecv, -⟩ := (d.updPort p fun k => k.takeFlits (flitsOf m.body.length)).freeBuffers_keeps p (flitsOf m.body.length)
    (!dataClass m.kind)
  refine Prod.ext rfl ?_
  unfold Dev.acceptMessage
  dsimp only
  rw [sameCascade, sameXrecv]
  have here : ¬(m.cascade ≠ d.cascade.cascadeId ∨ m.dst ≠ d.cascade.moduleIndex) := by
    rintro (h | h)
    exacts [h cascade, h dst]
  exact congrArg Prod.snd ((if_neg here).trans (if_neg (not_not_intro order)))

/-- An accepted message of the kind awaited goes on to its meaning, where CHECK holds or is left to it. -/
theorem Dev.onMessage_accepted {d e : Dev} {p kind : Nat} {m : QMessage} (f : Dev → Dev) (up : (d.port p).state = .up) (type : m.kind = kind)
    (h : d.Accepted p m e) (check : dataClass kind = true ∨ m.check = m.checkOf) : d.onMessage p m kind f = f e := by
  unfold Dev.onMessage
  rw [h.taken]
  rcases check with data | held
  · simp [up, type, data]
  · simp [up, type, held]

/-- A control message that fails its CHECK goes no further. -/
theorem Dev.onMessage_checkFails {d e : Dev} {p kind : Nat} {m : QMessage} (f : Dev → Dev) (up : (d.port p).state = .up) (type : m.kind = kind)
    (h : d.Accepted p m e) (control : dataClass kind = false) (check : m.check ≠ m.checkOf) : d.onMessage p m kind f = e.checkFails p m := by
  unfold Dev.onMessage
  rw [h.taken]
  simp [up, type, control, check]

/-- The commands of the control messages are each the arrival of a message of their kind. -/
theorem exec_controlMessage (s : State) (p kind : Nat) (m : QMessage) (c : Instr)
    (command : (c = .token p m ∧ kind = 3) ∨ (c = .response p m ∧ kind = 4) ∨ (c = .status p m ∧ kind = 5) ∨ (c = .xack p m ∧ kind = 6) ∨
      (c = .xnak p m ∧ kind = 7)) :
    ∃ f, exec c s = .next { s with dev := s.dev.onMessage p m kind f } ∧ dataClass kind = false := by
  rcases command with ⟨rfl, rfl⟩ | ⟨rfl, rfl⟩ | ⟨rfl, rfl⟩ | ⟨rfl, rfl⟩ | ⟨rfl, rfl⟩ <;> exact ⟨_, rfl, rfl⟩

/-! ## Control messages of the device itself -/

/-- A message is sent or queued: ports, but not what they have received, the XSEQ of pairs and the outputs change. -/
structure Dev.OnlySends (d e : Dev) : Prop where
  rest : e = { d with qlk := { d.qlk with ports := e.qlk.ports, xsend := e.qlk.xsend }, out := e.out }
  rxSeq : ∀ j, (e.port j).rxSeq = (d.port j).rxSeq
  nakSent : ∀ j, (e.port j).nakSent = (d.port j).nakSent

theorem Dev.OnlySends.refl (d : Dev) : d.OnlySends d := ⟨rfl, fun _ => rfl, fun _ => rfl⟩

theorem Dev.OnlySends.board {d e : Dev} (h : d.OnlySends e) : e.board = d.board := by rw [h.rest]
theorem Dev.OnlySends.rings {d e : Dev} (h : d.OnlySends e) : e.rings = d.rings := by rw [h.rest]
theorem Dev.OnlySends.mem {d e : Dev} (h : d.OnlySends e) : e.mem = d.mem := by rw [h.rest]
theorem Dev.OnlySends.routes {d e : Dev} (h : d.OnlySends e) : e.routes = d.routes := by rw [h.rest]
theorem Dev.OnlySends.leaves {d e : Dev} (h : d.OnlySends e) : e.leaves = d.leaves := by rw [h.rest]
theorem Dev.OnlySends.ctx {d e : Dev} (h : d.OnlySends e) (n : Nat) : e.ctx n = d.ctx n := by rw [h.rest]; rfl
theorem Dev.OnlySends.member {d e : Dev} (h : d.OnlySends e) (n : Nat) : e.member n = d.member n := by rw [h.rest]; rfl
theorem Dev.OnlySends.members {d e : Dev} (h : d.OnlySends e) : e.qlk.members = d.qlk.members := by rw [h.rest]

theorem Dev.OnlySends.updPort (d : Dev) (p : Nat) {f : Port → Port} (rx : ∀ k, (f k).rxSeq = k.rxSeq) (nak : ∀ k, (f k).nakSent = k.nakSent) :
    d.OnlySends (d.updPort p f) := by
  refine ⟨rfl, fun j => ?_, fun j => ?_⟩ <;> by_cases same : j = p
  · subst same; rw [Dev.port_updPort_same]; exact rx _
  · rw [Dev.port_updPort_other _ _ same]
  · subst same; rw [Dev.port_updPort_same]; exact nak _
  · rw [Dev.port_updPort_other _ _ same]

theorem Dev.sendMessage_onlySends (d : Dev) (p : Nat) (m : QMessage) : d.OnlySends (d.sendMessage p m) := by
  have sent := Dev.OnlySends.updPort { d with qlk := { d.qlk with xsend := d.qlk.xsend.put 0 m.dst ((d.qlk.xsend.get 0 m.dst + 1) % 2 ^ 32) } } p
    (f := fun k => if dataClass m.kind then { k.sendFlits (flitsOf m.body.length) with creditData := k.creditData - flitsOf m.body.length }
      else { k.sendFlits (flitsOf m.body.length) with creditControl := k.creditControl - flitsOf m.body.length })
    (fun k => by cases dataClass m.kind <;> rfl) (fun k => by cases dataClass m.kind <;> rfl)
  exact ⟨rfl, sent.rxSeq, sent.nakSent⟩

theorem Dev.sendControl_onlySends (d : Dev) (m : QMessage) : d.OnlySends (d.sendControl m) := by
  unfold Dev.sendControl
  split
  · exact .refl d
  · split
    · exact d.sendMessage_onlySends _ m
    · exact .updPort d _ (fun _ => rfl) fun _ => rfl

theorem Dev.answerMessage_onlySends (d : Dev) (m : QMessage) (reason : Nat) : d.OnlySends (d.answerMessage m reason) := d.sendControl_onlySends _

/-- A control message leaves at once on a port without a queue that has a credit and room. -/
theorem Dev.sendControl_sent {d : Dev} {m : QMessage} {p : Nat} (reached : d.reaches m.dst = some p) (empty : (d.port p).outbox = [])
    (takes : (d.port p).takes m = true) : d.sendControl m = d.sendMessage p m := by
  rw [Dev.sendControl, reached]
  exact if_pos (by rw [empty, takes]; rfl)

/-- A message without a body takes one control flit. -/
theorem Port.takes_control {k : Port} {m : QMessage} (short : flitsOf m.body.length = 1) (control : dataClass m.kind = false) (room : k.room 1 = true)
    (credit : 0 < k.creditControl) : k.takes m = true := by
  simp only [Port.takes, short, control, room]
  simp
  omega

/-- The message that leaves has the next XSEQ of its pair and its CHECK. -/
def Dev.sealed (d : Dev) (m : QMessage) : QMessage :=
  let m := { m with xseq := d.qlk.xsend.get 0 m.dst }
  { m with check := m.checkOf }

@[simp] theorem Dev.sealed_kind (d : Dev) (m : QMessage) : (d.sealed m).kind = m.kind := rfl
@[simp] theorem Dev.sealed_reason (d : Dev) (m : QMessage) : (d.sealed m).reason = m.reason := rfl
@[simp] theorem Dev.sealed_dst (d : Dev) (m : QMessage) : (d.sealed m).dst = m.dst := rfl
@[simp] theorem Dev.sealed_dest (d : Dev) (m : QMessage) : (d.sealed m).dest = m.dest := rfl
@[simp] theorem Dev.sealed_body (d : Dev) (m : QMessage) : (d.sealed m).body = m.body := rfl
@[simp] theorem Dev.message_kind (d : Dev) (a k b c e f g : Nat) (x : List Byte) (y : List Nat) : (d.message a k b c e f g x y).kind = k := rfl
@[simp] theorem Dev.message_reason (d : Dev) (a k b c e f g : Nat) (x : List Byte) (y : List Nat) : (d.message a k b c e f g x y).reason = e := rfl
@[simp] theorem Dev.message_dst (d : Dev) (a k b c e f g : Nat) (x : List Byte) (y : List Nat) : (d.message a k b c e f g x y).dst = a := rfl
@[simp] theorem Dev.message_dest (d : Dev) (a k b c e f g : Nat) (x : List Byte) (y : List Nat) : (d.message a k b c e f g x y).dest = g := rfl
@[simp] theorem Dev.message_body (d : Dev) (a k b c e f g : Nat) (x : List Byte) (y : List Nat) : (d.message a k b c e f g x y).body = x := rfl

theorem Dev.sealed_check (d : Dev) (m : QMessage) : (d.sealed m).check = (d.sealed m).checkOf := rfl

theorem Dev.sendMessage_out (d : Dev) (p : Nat) (m : QMessage) : (d.sendMessage p m).out = d.out ++ [.message p (d.sealed m)] := rfl

/-- Settles O54: each answer of the link is read off its own case, and an answer sent keeps what the ports have received. -/
theorem messagesAccepted : Obligations.MessagesAccepted := by
  unfold Obligations.MessagesAccepted
  refine ⟨?accepted, ?answered, ?checked⟩
  case accepted =>
    rintro d p m r n k rfl rfl rfl data control
    by_cases other : m.cascade ≠ d.cascade.cascadeId ∨ m.dst ≠ d.cascade.moduleIndex
    · rw [Dev.acceptMessage_misrouted data control other]
      dsimp only
      rw [Dev.port_qlkLeaf, Dev.port_updPort_same, Dev.port_arrived]
      exact ⟨by simp [Port.takeFlits], by simp [Port.takeFlits], by simp, by simp, by simp,
        fun _ => ⟨rfl, by simp [Port.takeFlits], Dev.testBit_qlkLeaf _ _ _ _, by simp⟩, fun c t => absurd other (by simp [c, t]),
        fun c t => absurd other (by simp [c, t])⟩
    · obtain ⟨cascade, dst⟩ : m.cascade = d.cascade.cascadeId ∧ m.dst = d.cascade.moduleIndex := by simpa using other
      by_cases order : m.xseq = d.qlk.xrecv.get 0 m.src
      · rw [Dev.acceptMessage_next data control cascade dst order]
        have port : ((d.arrived p m).expectNext m).port p = _ := Dev.port_arrived d p m
        rw [port]
        refine ⟨by simp [Port.takeFlits], by simp [Port.takeFlits], by simp, by simp, by simp, (absurd · other), fun _ _ no => absurd order no,
          fun _ _ _ => ⟨rfl, SMap.get_put_same, fun j ne => SMap.get_put_other ne _, by simp, by simp⟩⟩
      · rw [Dev.acceptMessage_disordered data control cascade dst order]
        have sent := ((d.arrived p m).qlkLeaf 5 p m.src).answerMessage_onlySends m 4
        refine ⟨?_, ?_, ?_, ?_, ?_, (absurd · other), fun _ _ _ => ⟨rfl, ?_, ?_, _, rfl⟩, fun _ _ yes => absurd yes order⟩
        · rw [sent.rxSeq, Dev.port_qlkLeaf, Dev.port_arrived]; simp [Port.takeFlits]
        · rw [sent.nakSent, Dev.port_qlkLeaf, Dev.port_arrived]; simp [Port.takeFlits]
        · rw [sent.rest]; simp
        · rw [sent.rest]; simp
        · rw [sent.rest]; simp
        · rw [sent.rest]; exact Dev.testBit_qlkLeaf _ _ _ _
        · rw [sent.rest]; simp
  case answered =>
    intro d m p reason reached empty room credit
    have control : dataClass (if reason = 0 then 6 else 7) = false := by split <;> rfl
    have short : flitsOf (d.message m.src (if reason = 0 then 6 else 7) m.seat m.context reason 0 m.xseq [] []).body.length = 1 := by
      rw [Dev.message_body]; decide
    rw [Dev.answerMessage, Dev.sendControl_sent (m := d.message _ _ _ _ _ _ _ _ _) reached empty (Port.takes_control short control room credit)]
    have sent := d.sendMessage_onlySends p (d.message m.src (if reason = 0 then 6 else 7) m.seat m.context reason 0 m.xseq [] [])
    refine ⟨_, Dev.sendMessage_out _ _ _, by simp, by simp, by simp, by simp, by simp, Dev.sealed_check _ _, ?_, ?_⟩
    all_goals rw [sent.rest]
  case checked =>
    intro s p kind m c e command type up accepted check
    obtain ⟨f, run, control⟩ := exec_controlMessage s p kind m c command
    rw [run, Dev.onMessage_checkFails f up type accepted control check]

end Sys2Proof.Machine
end

section
/-! SUPPORT. What the messages of the cascade do once they are accepted, and the link's own flits (R447, R449 to R452, R458 to R475). -/

namespace Sys2Proof.Machine

/-! ## Tokens (R247, R249, R469) -/

/-- The trick tables once the decisions of a token are recorded. -/
def Trk.decided (k : Trk) (dealer : Bool) (t : TokenRec) : Trk :=
  t.decisions.foldl (fun (k : Trk) (r : Nat × Nat) => k.recordDecision dealer r.1 r.2 t.step t.epoch) k

/-- What a module that takes a token leaves: its decisions are recorded, and the token is the last of the sixteen kept. -/
theorem Dev.takeToken_spec (d : Dev) (b : Bool) (t : TokenRec) :
    (d.takeToken b t).board = d.board ∧ (d.takeToken b t).trk = d.trk.decided b t ∧ (d.takeToken b t).trk.tricks = d.trk.tricks ∧
      (d.takeToken b t).qlk = { d.qlk with heldEpoch := d.heldAfter t, tokens := (d.qlk.tokens ++ [t]).drop (d.qlk.tokens.length - 15),
                                           step := t.step, epoch := t.epoch } := by
  obtain ⟨k, tricks, trk, m, l, r, e⟩ :=
    ({ d with qlk := { d.qlk with heldEpoch := d.heldAfter t } } : Dev).recordDecisions_spec b t.decisions t.step t.epoch
  have taken : d.takeToken b t = _ := congrArg (Dev.keepToken · t) e
  rw [taken]
  have decided : k = d.trk.decided b t := trk.symm.trans (Dev.setTrk_trk _ _)
  exact ⟨rfl, decided, tricks, rfl⟩

theorem mem_drop_append_last {α : Type} (l : List α) (x : α) : x ∈ (l ++ [x]).drop (l.length - 15) := by
  rw [List.drop_append_of_le_length (by omega)]
  exact List.mem_append_right _ (List.mem_singleton.2 rfl)

/-- A decision enters the prepared record of its handle (R247). -/
theorem Trk.mem_log_recordDecision {k : Trk} {b : Bool} {handle decision step epoch : Nat} {l : CommitRec} (listed : l ∈ k.log)
    (cascade : l.cascade = true) (same : l.handle = handle) (prepared : l.epoch = 2 ^ 64 - 1) (none : l.decision = 0) :
    { l with decision := decision, step := step, cascadeEpoch := epoch } ∈ (k.recordDecision b handle decision step epoch).log := by
  have waits : (l.cascade && l.handle == handle && l.epoch == 2 ^ 64 - 1 && l.decision == 0) = true := by
    rw [cascade, same, prepared, none]; simp
  have some : (k.log.any fun r => r.cascade && r.handle == handle && r.epoch == 2 ^ 64 - 1 && r.decision == 0) = true :=
    List.any_eq_true.2 ⟨l, listed, waits⟩
  unfold Trk.recordDecision
  dsimp only
  rw [if_pos some]
  exact List.mem_map.2 ⟨l, listed, if_pos waits⟩

/-- The token that a TOKEN message brings. -/
def Dev.tokenFrom (d : Dev) (m : QMessage) : TokenRec :=
  d.tokenRec (field m.body 0 8) (field m.body 8 8) (handleRecords (m.body.drop 24) (field m.body 16 1))

theorem exec_token_next {s : State} {p : Nat} {m : QMessage} {e : Dev} (up : (s.dev.port p).state = .up) (h : s.dev.Accepted p m e)
    (check : m.check = m.checkOf) (type : m.kind = 3) (noToken : ∀ q ∈ e.board, q.op.opcode ≠ 0x62)
    (next : field m.body 0 8 = e.qlk.step + 1) :
    exec (.token p m) s = .next { s with dev := e.takeToken false (e.tokenFrom m) } := by
  have board : (e.takeToken false (e.tokenFrom m)).board = e.board := (e.takeToken_spec _ _).1
  have idle : (e.takeToken false (e.tokenFrom m)).wakeTokens = _ := Dev.wakeTokens_of_none (by rwa [board])
  refine congrArg (fun d => Host.Outcome.next { s with dev := d }) ((Dev.onMessage_accepted _ up type h (.inr check)).trans ?_)
  exact (if_neg (not_not_intro next)).trans idle

theorem exec_token_other {s : State} {p : Nat} {m : QMessage} {e : Dev} (up : (s.dev.port p).state = .up) (h : s.dev.Accepted p m e)
    (check : m.check = m.checkOf) (type : m.kind = 3) (other : field m.body 0 8 ≠ e.qlk.step + 1) :
    exec (.token p m) s = .next { s with dev := e.qlkLeaf 5 p m.src } := by
  refine congrArg (fun d => Host.Outcome.next { s with dev := d }) ((Dev.onMessage_accepted _ up type h (.inr check)).trans ?_)
  exact if_pos other

/-! ## Responses and STATUS (R471, R472) -/

theorem Dev.member_updMember (d : Dev) (m : Nat) (f : Member → Member) :
    (d.updMember m f).member m = { f (d.member m) with seen := d.slow % 2 ^ 32 } := SMap.get_put_same

/-- The device whose dealer has recorded a RESPONSE. -/
def Dev.responded (d : Dev) (m : QMessage) : Dev :=
  if d.cascade.dealer = 1 then
    d.recordResponse m.src (field m.body 0 8) (handleRecords (m.body.drop 24) (field m.body 9 1)) (field m.body 16 8)
  else d

theorem exec_response {s : State} {p : Nat} {m : QMessage} {e : Dev} (up : (s.dev.port p).state = .up) (h : s.dev.Accepted p m e)
    (check : m.check = m.checkOf) (type : m.kind = 4) (noToken : ∀ q ∈ e.board, q.op.opcode ≠ 0x62) :
    exec (.response p m) s = .next { s with dev := (e.responded m).answerMessage m 0 } := by
  have recorded : (e.responded m).board = e.board := by unfold Dev.responded; split <;> rfl
  have board : ((e.responded m).answerMessage m 0).board = e.board := by rw [((e.responded m).answerMessage_onlySends m 0).rest, recorded]
  have idle : ((e.responded m).answerMessage m 0).wakeTokens = _ := Dev.wakeTokens_of_none (by rwa [board])
  refine congrArg (fun d => Host.Outcome.next { s with dev := d }) ((Dev.onMessage_accepted _ up type h (.inr check)).trans ?_)
  exact idle

theorem exec_status {s : State} {p : Nat} {m : QMessage} {e : Dev} (up : (s.dev.port p).state = .up) (h : s.dev.Accepted p m e)
    (check : m.check = m.checkOf) (type : m.kind = 5) :
    exec (.status p m) s = .next { s with dev := e.recordStatus p m.src (field m.body 8 1) (field m.body 16 8) } := by
  refine congrArg (fun d => Host.Outcome.next { s with dev := d }) ((Dev.onMessage_accepted _ up type h (.inr check)).trans ?_)
  rfl

/-- The dealer's row of the sender after a STATUS; SUPPLY_WARN's thermal code 4 sets a leaf. -/
theorem Dev.recordStatus_dealer {d : Dev} (p m thermal progress : Nat) (dealer : d.cascade.dealer = 1) :
    (d.recordStatus p m thermal progress).member m = { d.member m with thermal := thermal % 8, progress := progress, seen := d.slow % 2 ^ 32 } ∧
      (d.recordStatus p m thermal progress).out = d.out ∧ (thermal = 4 → ((d.recordStatus p m thermal progress).leaf .qlk).testBit 4 = true) := by
  have run : d.recordStatus p m thermal progress = _ := if_neg (not_not_intro dealer)
  rw [run]
  dsimp only
  by_cases hot : thermal = 4
  · rw [if_pos hot]
    exact ⟨d.member_updMember m fun k => { k with thermal := thermal % 8, progress := progress }, rfl, fun _ => Dev.testBit_qlkLeaf _ _ _ _⟩
  · rw [if_neg hot]
    exact ⟨d.member_updMember m fun k => { k with thermal := thermal % 8, progress := progress }, rfl, (absurd · hot)⟩

/-! ## XACK and XNAK (R459, R464, R467) -/

/-- A place may change on a Quiet device if it has still nothing to send. -/
theorem Dev.Quiet.updPlace {d : Dev} (h : d.Quiet) (i : Nat) {f : Place → Place} (hf : ∀ q, q.unsentMsgs = [] → (f q).unsentMsgs = []) :
    (d.updPlace i f).Quiet := by
  refine ⟨fun q hq => ?_, h.2⟩
  obtain ⟨r, hr, rfl⟩ := List.mem_map.1 hq
  split
  · exact hf r (h.1 r hr)
  · exact h.1 r hr

theorem exec_xack {s : State} {p : Nat} {m : QMessage} {e : Dev} {q : Place} (up : (s.dev.port p).state = .up) (h : s.dev.Accepted p m e)
    (check : m.check = m.checkOf) (type : m.kind = 6) (quiet : e.Quiet) (waits : e.awaiting m = some q) :
    exec (.xack p m) s = .next { s with dev := e.updPlace q.id fun q => { q with unacked := q.unacked.erase (m.src, m.dest % 2 ^ 32) } } := by
  refine congrArg (fun d => Host.Outcome.next { s with dev := d }) ((Dev.onMessage_accepted _ up type h (.inr check)).trans ?_)
  rw [waits]
  exact (quiet.updPlace q.id (f := fun q => { q with unacked := q.unacked.erase (m.src, m.dest % 2 ^ 32) }) fun _ h => h).pumpAll

/-- A block that found its receiver BUSY is to be sent again. -/
def Dev.busyBlock (d : Dev) (m : QMessage) (q : Place) : Dev :=
  { d.updPlace q.id (fun q => { q with unacked := q.unacked.erase (m.src, m.dest % 2 ^ 32) }) with
    qlk := { d.qlk with resend := d.qlk.resend ++ [(q.id, m.src, m.src - q.op.fld 3 0 2)] } }

theorem exec_xnak_busy {s : State} {p : Nat} {m : QMessage} {e : Dev} {q : Place} (up : (s.dev.port p).state = .up) (h : s.dev.Accepted p m e)
    (check : m.check = m.checkOf) (type : m.kind = 7) (quiet : e.Quiet) (waits : e.awaiting m = some q) (busy : m.reason = 3)
    (block : q.op.opcode = 0x61) : exec (.xnak p m) s = .next { s with dev := e.busyBlock m q } := by
  have still : (e.busyBlock m q).Quiet :=
    quiet.updPlace q.id (f := fun q => { q with unacked := q.unacked.erase (m.src, m.dest % 2 ^ 32) }) fun _ h => h
  refine congrArg (fun d => Host.Outcome.next { s with dev := d }) ((Dev.onMessage_accepted _ up type h (.inr check)).trans ?_)
  rw [waits]
  dsimp only
  rw [if_pos ⟨busy, block⟩]
  exact still.pumpAll

theorem exec_xnak_ends {s : State} {p : Nat} {m : QMessage} {e : Dev} {q : Place} (up : (s.dev.port p).state = .up) (h : s.dev.Accepted p m e)
    (check : m.check = m.checkOf) (type : m.kind = 7) (quiet : e.Quiet) (waits : e.awaiting m = some q)
    (other : m.reason ≠ 3 ∨ q.op.opcode ≠ 0x61) : exec (.xnak p m) s = .next { s with dev := e.updPlace q.id Place.peerError } := by
  refine congrArg (fun d => Host.Outcome.next { s with dev := d }) ((Dev.onMessage_accepted _ up type h (.inr check)).trans ?_)
  rw [waits]
  dsimp only
  rw [if_neg (by rintro ⟨h, h'⟩; exact other.elim (absurd h) (absurd h'))]
  exact (quiet.updPlace q.id fun _ _ => rfl).pumpAll

/-! ## Data messages (R458, R459, R464, R467) -/

/-- What a data message means to the device that has accepted it; none while it waits. -/
def Dev.dataMeaning (p : Nat) (m : QMessage) (d : Dev) : Option Dev :=
  if m.kind = 1 then
    if (Opref.ofNat m.dest).kind = 1 then d.receiveTile p m else if d.bodyHeld m then none else some (d.receiveBody p m).1
  else if d.laterCollective m.ctxIx m.coll then some (d.answerMessage m 3)
  else if d.bodyHeld m then none
  else
    let r := d.receiveBody p m
    some (if r.2 && (d.openCollectives m.ctxIx).contains m.coll then
        r.1.updCtx m.ctxIx fun c => { c with blocks := c.blocks.put 0 m.coll (c.blocks.get 0 m.coll + 1) }
      else r.1)

/-- The command of a data message. -/
def dataCommand (p : Nat) (m : QMessage) (c : Instr) : Prop := (c = .exchangeMessage p m ∧ m.kind = 1) ∨ (c = .a2aBlock p m ∧ m.kind = 2)

theorem exec_data (s : State) {p : Nat} {m : QMessage} {c : Instr} (command : dataCommand p m c) :
    exec c s = .next { s with dev := s.dev.onData p m m.kind (Dev.dataMeaning p m) } := by
  rcases command with ⟨rfl, kind⟩ | ⟨rfl, kind⟩
  · have meaning : Dev.dataMeaning p m = fun d =>
        if (Opref.ofNat m.dest).kind = 1 then d.receiveTile p m else if d.bodyHeld m then none else some (d.receiveBody p m).1 := by
      funext d
      exact if_pos kind
    rw [meaning, kind]
    rfl
  · have meaning : Dev.dataMeaning p m = fun d =>
        if d.laterCollective m.ctxIx m.coll then some (d.answerMessage m 3)
        else if d.bodyHeld m then none
        else
          let r := d.receiveBody p m
          some (if r.2 && (d.openCollectives m.ctxIx).contains m.coll then
              r.1.updCtx m.ctxIx fun c => { c with blocks := c.blocks.put 0 m.coll (c.blocks.get 0 m.coll + 1) }
            else r.1) := by
      funext d
      exact if_neg (by rw [kind]; decide)
    rw [meaning, kind]
    rfl

/-- The link and the pair take a message without a change of the seats. -/
theorem Dev.Accepted.seat {d e : Dev} {p : Nat} {m : QMessage} (h : d.Accepted p m e) (n : Nat) : e.seat n = d.seat n := by
  have taken := h.taken
  obtain ⟨cascade, dst, order, -⟩ := h
  obtain ⟨sameCascade, sameXrecv, sameSeats⟩ := (d.updPort p fun k => k.takeFlits (flitsOf m.body.length)).freeBuffers_keeps p (flitsOf m.body.length)
    (!dataClass m.kind)
  unfold Dev.acceptMessage at taken
  dsimp only at taken
  rw [sameCascade, sameXrecv] at taken
  have here : ¬(m.cascade ≠ d.cascade.cascadeId ∨ m.dst ≠ d.cascade.moduleIndex) := by
    rintro (h | h)
    exacts [h cascade, h dst]
  have run := (congrArg Prod.fst ((if_neg here).trans (if_neg (not_not_intro order)))).symm.trans (congrArg Prod.fst taken)
  exact congrArg (SMap.get {} · n) ((congrArg Dev.seats run).symm.trans sameSeats)

/-- A data message to a seat that serves is taken as it means, or waits. -/
theorem exec_data_served {s : State} {p : Nat} {m : QMessage} {c : Instr} {e : Dev} (command : dataCommand p m c)
    (up : (s.dev.port p).state = .up) (h : s.dev.Accepted p m e) (serves : (e.seat m.seat).serves = true) :
    exec c s = .next { s with dev := (Dev.dataMeaning p m e).getD s.dev } := by
  rw [exec_data s command]
  have same := (h.seat m.seat).symm
  unfold Dev.onData
  rw [h.taken, same]
  simp [up, serves]

theorem exec_data_unserved {s : State} {p : Nat} {m : QMessage} {c : Instr} {e : Dev} (command : dataCommand p m c)
    (up : (s.dev.port p).state = .up) (h : s.dev.Accepted p m e) (serves : (e.seat m.seat).serves = false) :
    exec c s = .next { s with dev := e.answerMessage m 5 } := by
  rw [exec_data s command]
  have same := (h.seat m.seat).symm
  unfold Dev.onData
  rw [h.taken, same]
  simp [up, serves]

/-! ### A body that is memory -/

theorem Dev.WorkOnly.writeBody (d : Dev) (m : QMessage) : d.WorkOnly (d.writeBody m).1 := by
  unfold Dev.writeBody
  refine List.foldlRecOn (motive := fun r : Dev × List (Nat × Nat) × Bool => d.WorkOnly r.1) _ _ (.refl d) fun r hr p _ => ?_
  dsimp only
  split
  · exact hr
  · split
    · exact hr.trans (.memWrite _ _ _ _ _)
    · exact hr.trans (.segFault _ _ _ _ _)
    · exact hr.trans (.segFault _ _ _ _ _)

theorem Dev.WorkOnly.chargeBody (d : Dev) (p : Nat) (m : QMessage) (w : List (Nat × Nat)) : d.WorkOnly (d.chargeBody p m w) := by
  unfold Dev.chargeBody
  exact Dev.WorkOnly.foldl (fun d _ => .transferAtoms d _ _ _) _ _

theorem Dev.chargeBody_mem (d : Dev) (p : Nat) (m : QMessage) (w : List (Nat × Nat)) : (d.chargeBody p m w).mem = d.mem := by
  unfold Dev.chargeBody
  exact foldl_leaves Dev.mem (fun d x => (Dev.transferAtoms_keeps d _ _ _).1) _ d

/-- The device once a body is written and charged to its seat. -/
def Dev.bodyEnds (d : Dev) (p : Nat) (m : QMessage) : Dev := (d.writeBody m).1.chargeBody p m (d.writeBody m).2.1

theorem Dev.WorkOnly.bodyEnds (d : Dev) (p : Nat) (m : QMessage) : d.WorkOnly (d.bodyEnds p m) := (Dev.WorkOnly.writeBody d m).trans (.chargeBody _ _ _ _)

theorem Dev.receiveBody_fault {d : Dev} {m : QMessage} (p : Nat) (fault : (d.writeBody m).2.2 = true) :
    d.receiveBody p m = ((d.bodyEnds p m).answerMessage m 1, false) := if_pos fault

/-- The device in which what a bad body wrote is poison (R459). -/
def Dev.poisonBody (d : Dev) (w : List (Nat × Nat)) : Dev :=
  { d with mem := w.foldl (fun (k : Mem) (p : Nat × Nat) => k.setPoison p.1 true) d.mem }

@[simp] theorem Dev.poisonBody_board (d : Dev) (w : List (Nat × Nat)) : (d.poisonBody w).board = d.board := rfl
@[simp] theorem Dev.poisonBody_rings (d : Dev) (w : List (Nat × Nat)) : (d.poisonBody w).rings = d.rings := rfl

theorem Dev.receiveBody_bad {d : Dev} {m : QMessage} (p : Nat) (fault : (d.writeBody m).2.2 = false) (check : m.check ≠ m.checkOf) :
    d.receiveBody p m = (((d.bodyEnds p m).poisonBody (d.writeBody m).2.1).checkFails p m, false) :=
  (if_neg (by simp [fault])).trans (if_pos check)

theorem Dev.receiveBody_whole {d : Dev} {m : QMessage} (p : Nat) (fault : (d.writeBody m).2.2 = false) (check : m.check = m.checkOf) :
    d.receiveBody p m = ((d.bodyEnds p m).answerMessage m 0, true) :=
  (if_neg (by simp [fault])).trans (if_neg (not_not_intro check))

theorem Mem.isPoison_setPoison_mono {m : Mem} {b : Nat} (a : Nat) (h : m.isPoison b = true) : (m.setPoison a true).isPoison b = true := by
  have same : (m.setPoison a true).locate b = m.locate b := rfl
  rw [Mem.isPoison, same]
  exact List.contains_iff_mem.2 ((mem_insertAsc _ _ _).2 (.inr (List.contains_iff_mem.1 h)))

theorem Mem.isPoison_foldl_setPoison (l : List (Nat × Nat)) {a : Nat × Nat} (listed : a ∈ l) (m : Mem) :
    (l.foldl (fun (k : Mem) (p : Nat × Nat) => k.setPoison p.1 true) m).isPoison a.1 = true := by
  have keeps (l : List (Nat × Nat)) (m : Mem) (h : m.isPoison a.1 = true) :
      (l.foldl (fun (k : Mem) (p : Nat × Nat) => k.setPoison p.1 true) m).isPoison a.1 = true :=
    List.foldlRecOn (motive := fun k => Mem.isPoison k a.1 = true) l _ h fun k hk p _ => Mem.isPoison_setPoison_mono p.1 hk
  induction l generalizing m with
  | nil => exact absurd listed List.not_mem_nil
  | cons p l ih =>
    rcases List.mem_cons.1 listed with rfl | later
    · exact keeps l _ (Mem.isPoison_setPoison_true m a.1)
    · exact ih later _

/-- A message that fails its CHECK sets MESSAGE_CHECK and is answered. -/
theorem Dev.checkFails_spec (d : Dev) (p : Nat) (m : QMessage) :
    (d.checkFails p m).mem = d.mem ∧ (d.checkFails p m).board = d.board ∧ (d.checkFails p m).rings = d.rings ∧
      (d.checkFails p m).routes = d.routes ∧ ((d.checkFails p m).leaf .chk).testBit 4 = true := by
  have sent := (d.integrity 4 (16 + p) (some m.seat)).answerMessage_onlySends m 2
  have run : d.checkFails p m = _ := sent.rest
  rw [run]
  exact ⟨rfl, rfl, rfl, rfl, Dev.testBit_leaf_setLeaf _ _ _⟩

/-- What a message body that is memory leaves, whole, faulty or bad (R458, R459). -/
theorem Dev.receiveBody_spec (d : Dev) (p : Nat) (m : QMessage) :
    (d.receiveBody p m).1.board = d.board ∧ (d.receiveBody p m).1.rings = d.rings ∧
      ((d.writeBody m).2.2 = false → m.check ≠ m.checkOf →
        ((d.receiveBody p m).1.leaf .chk).testBit 4 = true ∧ ∀ a ∈ (d.writeBody m).2.1, (d.receiveBody p m).1.mem.isPoison a.1 = true) ∧
      ((d.writeBody m).2.2 = false → m.check = m.checkOf → (d.receiveBody p m).1.mem = (d.writeBody m).1.mem ∧
        ((d.receiveBody p m).1.ctx m.ctxIx).blocks = (d.ctx m.ctxIx).blocks) := by
  obtain ⟨mem, l, r, x, st, c, k, g, q, work⟩ := (Dev.WorkOnly.bodyEnds d p m).rest
  have board : (d.bodyEnds p m).board = d.board := by rw [work]
  have rings : (d.bodyEnds p m).rings = d.rings := by rw [work]
  cases fault : (d.writeBody m).2.2 with
  | true =>
    have sent := (d.bodyEnds p m).answerMessage_onlySends m 1
    rw [Dev.receiveBody_fault p fault]
    exact ⟨sent.board.trans board, sent.rings.trans rings, nofun, nofun⟩
  | false =>
    by_cases check : m.check = m.checkOf
    · have sent := (d.bodyEnds p m).answerMessage_onlySends m 0
      obtain ⟨r, w, o, n, ctx⟩ := (Dev.WorkOnly.bodyEnds d p m).ctx m.ctxIx
      rw [Dev.receiveBody_whole p fault check]
      refine ⟨sent.board.trans board, sent.rings.trans rings, fun _ bad => absurd check bad,
        fun _ _ => ⟨sent.mem.trans (Dev.chargeBody_mem _ _ _ _), ?_⟩⟩
      have kept := congrArg Ctx.blocks ctx
      exact (congrArg Ctx.blocks (sent.ctx m.ctxIx)).trans kept
    · obtain ⟨mem, board', rings', _, leaf⟩ := ((d.bodyEnds p m).poisonBody (d.writeBody m).2.1).checkFails_spec p m
      rw [Dev.receiveBody_bad p fault check]
      refine ⟨(board'.trans (Dev.poisonBody_board _ _)).trans board, (rings'.trans (Dev.poisonBody_rings _ _)).trans rings,
        fun _ _ => ⟨leaf, fun a listed => ?_⟩, fun _ held => absurd held check⟩
      dsimp only
      rw [mem]
      exact Mem.isPoison_foldl_setPoison _ listed _

/-! ### The meanings of a data message -/

/-- What a body that is written, whole or not, comes to (R458, R459, R467). -/
theorem exec_data_written {s : State} {p : Nat} {m : QMessage} {c : Instr} {e : Dev} (command : dataCommand p m c)
    (up : (s.dev.port p).state = .up) (h : s.dev.Accepted p m e) (serves : (e.seat m.seat).serves = true)
    (tiles : m.kind = 1 → (Opref.ofNat m.dest).kind ≠ 1) (open_ : m.kind = 2 → e.laterCollective m.ctxIx m.coll = false)
    (free : e.bodyHeld m = false) :
    exec c s = .next { s with dev :=
      if m.kind = 2 ∧ (e.receiveBody p m).2 = true ∧ m.coll ∈ e.openCollectives m.ctxIx then
        (e.receiveBody p m).1.updCtx m.ctxIx fun c => { c with blocks := c.blocks.put 0 m.coll (c.blocks.get 0 m.coll + 1) }
      else (e.receiveBody p m).1 } := by
  rw [exec_data_served command up h serves]
  rcases command with ⟨-, kind⟩ | ⟨-, kind⟩
  · simp [Dev.dataMeaning, kind, tiles kind, free]
  · simp [Dev.dataMeaning, kind, open_ kind, free]

/-- A tile that arrives for a stream: how it enters its route (R459, R464). -/
def QMessage.arrivedTile (m : QMessage) : Tile :=
  if decide (m.check ≠ m.checkOf) || !m.poison.isEmpty then (Tile.ofBytes m.body).allPoison else Tile.ofBytes m.body

/-- The device in whose route `i` the tile of a message waits. -/
def Dev.tileTaken (d : Dev) (i : Nat) (m : QMessage) : Dev :=
  { d with routes := d.routes.modify i fun r => { r with credits := r.credits - 1, queue := r.queue ++ [({ tile := m.arrivedTile } : Sent)] } }

theorem Dev.receiveTile_credit {d : Dev} {p i : Nat} {m : QMessage} {r : Route}
    (route : d.exchangeRoute p m.seat (Opref.ofNat m.dest).addr = some i) (at_ : d.routes[i]? = some r) (credits : r.credits ≠ 0) :
    d.receiveTile p m =
      some (if m.check ≠ m.checkOf then (d.tileTaken i m).checkFails p m else (d.tileTaken i m).answerMessage m 0) := by
  unfold Dev.receiveTile
  rw [route]
  simp only [at_, Option.map_some, Option.getD_some, credits, if_false]
  by_cases check : m.check = m.checkOf <;> simp [check, Dev.tileTaken, QMessage.arrivedTile]

theorem Dev.receiveTile_waits {d : Dev} {p i : Nat} {m : QMessage} {r : Route}
    (route : d.exchangeRoute p m.seat (Opref.ofNat m.dest).addr = some i) (at_ : d.routes[i]? = some r) (credits : r.credits = 0) :
    d.receiveTile p m = none := by
  unfold Dev.receiveTile
  rw [route]
  simp [at_, credits]

/-! ## STATUS (R472) -/

/-- The STATUS that a member sends. -/
def Dev.statusMessage (d : Dev) : QMessage :=
  d.message d.cascade.dealerIndex 5 ((d.layout.bind Layout.cascadeSeat).getD 0) 0 0 0 0
    (leBytes 8 d.qlk.step ++ leBytes 1 d.maxThermal ++ leBytes 7 0 ++ leBytes 8 d.progress) []

theorem Dev.statusMessage_body (d : Dev) :
    d.statusMessage.body = leBytes 8 d.qlk.step ++ leBytes 1 d.maxThermal ++ leBytes 7 0 ++ leBytes 8 d.progress := rfl

theorem Dev.statusMessage_length (d : Dev) : d.statusMessage.body.length = 24 := by
  rw [Dev.statusMessage_body]; simp [length_leBytes]

theorem Dev.statusMessage_fields (d : Dev) :
    field d.statusMessage.body 0 8 = d.qlk.step % 2 ^ 64 ∧ field d.statusMessage.body 8 1 = d.maxThermal % 256 := by
  rw [Dev.statusMessage_body]
  constructor
  · have first := field_append (pre := []) (off := 0) rfl 8 d.qlk.step (leBytes 1 d.maxThermal ++ leBytes 7 0 ++ leBytes 8 d.progress)
    rw [List.append_assoc, List.append_assoc]
    exact first
  · have second := field_append (pre := leBytes 8 d.qlk.step) (off := 8) (length_leBytes _ _) 1 d.maxThermal (leBytes 7 0 ++ leBytes 8 d.progress)
    rw [List.append_assoc _ (leBytes 7 0)]
    exact second

theorem Dev.sendStatus_dealer {d : Dev} (dealer : d.cascade.dealer = 1) :
    d.sendStatus = d.recordStatus 0 d.cascade.moduleIndex d.maxThermal d.progress := if_pos dealer

/-- A member's STATUS leaves at once on a free port to the dealer. -/
theorem Dev.sendStatus_member {d : Dev} {p : Nat} (member : d.cascade.dealer ≠ 1) (reached : d.reaches d.cascade.dealerIndex = some p)
    (empty : (d.port p).outbox = []) (room : (d.port p).room 1 = true) (credit : 0 < (d.port p).creditControl) :
    d.sendStatus = d.sendMessage p d.statusMessage := by
  have run : d.sendStatus = d.sendControl d.statusMessage := if_neg member
  have short : flitsOf d.statusMessage.body.length = 1 := by rw [d.statusMessage_length]; decide
  rw [run]
  exact Dev.sendControl_sent (m := d.statusMessage) reached empty (Port.takes_control short rfl room credit)

/-! ## Blocks that are sent again (R467) -/

/-- Where no UP port has a queue, only operations are tried again. -/
theorem Dev.pumpAll_ports {d : Dev} (h : ∀ k < 8, (d.port k).state = .up → (d.port k).outbox = []) :
    d.pumpAll = (d.board.filter fun p => !p.unsentMsgs.isEmpty).foldl (fun d p => d.pump p.id) d := by
  have flushed : (List.range 8).foldl (fun d p => if (d.port p).state = .up then Dev.flushOutbox p (d.port p).outbox.length d else d) d = d := by
    refine List.foldlRecOn (motive := fun e => e = d) _ _ rfl ?_
    rintro e rfl k hk
    split
    · rename_i up; rw [h k (List.mem_range.1 hk) up]; rfl
    · rfl
  unfold Dev.pumpAll
  rw [flushed]

/-- An operation tried again and again ends as after the first try, where a second try changes nothing. -/
theorem foldl_pump_again {i : Nat} {d e : Dev} (first : d.pump i = e) (again : e.pump i = e) {l : List Place} (some : l ≠ [])
    (ids : ∀ p ∈ l, p.id = i) : l.foldl (fun d p => d.pump p.id) d = e := by
  cases l with
  | nil => exact absurd rfl some
  | cons p l =>
    rw [List.foldl_cons, ids p List.mem_cons_self, first]
    refine List.foldlRecOn (motive := fun x => x = e) _ _ rfl ?_
    rintro x rfl q hq
    rw [ids q (List.mem_cons_of_mem p hq), again]

/-- A block to be sent again waits with its operation. -/
def Place.resends (b : Nat × Nat) (q : Place) : Place := if q.status = .ok then { q with unsentMsgs := q.unsentMsgs ++ [b] } else q

/-- The device once the only block to be sent again waits with its operation. -/
def Dev.resending (d : Dev) (i : Nat) (b : Nat × Nat) : Dev := ({ d with qlk := { d.qlk with resend := [] } } : Dev).updPlace i (Place.resends b)

theorem exec_a2aResendTimer {s : State} {i m j : Nat} {e : Dev} {p : Place} (listed : s.dev.qlk.resend = [(i, m, j)]) (here : s.dev.place i = some p)
    (ok : p.status = .ok) (quiet : s.dev.Quiet) (first : (s.dev.resending i (m, j)).pump i = e) (again : e.pump i = e) :
    exec .a2aResendTimer s = .next { s with dev := e } := by
  have run : exec .a2aResendTimer s = .next { s with dev := (s.dev.resending i (m, j)).pumpAll } := by
    change execA2aResendTimer s = _
    unfold execA2aResendTimer
    rw [listed]
    rfl
  have still : ∀ k < 8, ((s.dev.resending i (m, j)).port k).state = .up → ((s.dev.resending i (m, j)).port k).outbox = [] := quiet.2
  have ids : ∀ q ∈ (s.dev.resending i (m, j)).board.filter (fun q => !q.unsentMsgs.isEmpty), q.id = i := by
    intro q hq
    obtain ⟨on, unsent⟩ := List.mem_filter.1 hq
    obtain ⟨r, hr, rfl⟩ := List.mem_map.1 on
    by_cases same : r.id = i
    · rw [if_pos same]
      unfold Place.resends
      split <;> exact same
    · rw [if_neg same, quiet.1 r hr] at unsent
      exact absurd unsent (by simp)
  have some : (s.dev.resending i (m, j)).board.filter (fun q => !q.unsentMsgs.isEmpty) ≠ [] := by
    have on := List.mem_of_find?_eq_some here
    have id : p.id = i := by simpa using List.find?_some here
    refine List.ne_nil_of_mem (a := Place.resends (m, j) p) (List.mem_filter.2 ⟨List.mem_map.2 ⟨p, on, if_pos id⟩, ?_⟩)
    simp [Place.resends, ok]
  rw [run, Dev.pumpAll_ports still, foldl_pump_again first again some ids]

theorem Dev.place_resending {d : Dev} {i : Nat} {b : Nat × Nat} {p : Place} (here : d.place i = some p) (ok : p.status = .ok)
    (unsent : p.unsentMsgs = []) : (d.resending i b).place i = some { p with unsentMsgs := [b] } := by
  have kept : ∀ q : Place, q.id = i → (Place.resends b q).id = i := fun q h => by unfold Place.resends; split <;> exact h
  have upd := Dev.place_updPlace (d := { d with qlk := { d.qlk with resend := [] } }) kept
  refine upd.trans ?_
  have same : ({ d with qlk := { d.qlk with resend := [] } } : Dev).place i = some p := here
  rw [same, Option.map_some, Place.resends, if_pos ok, unsent]
  rfl

theorem Dev.pairBusy_resending (d : Dev) (i m : Nat) (b : Nat × Nat) : (d.resending i b).pairBusy m = d.pairBusy m := by
  have board : (d.resending i b).board = d.board.map fun q => if q.id = i then q.resends b else q := rfl
  have same (q : Place) : (if q.id = i then q.resends b else q).unacked = q.unacked := by unfold Place.resends; split_ifs <;> rfl
  unfold Dev.pairBusy
  rw [board, List.flatMap_map]
  simp only [same]

theorem Dev.pump_one {d : Dev} {i : Nat} {b : Nat × Nat} {p : Place} (here : d.place i = some p) (unsent : p.unsentMsgs = [b]) :
    d.pump i = Dev.sendEntry i d b := by
  unfold Dev.pump
  rw [here]
  simp [unsent]

theorem Dev.pump_nothing {d : Dev} {i : Nat} {p : Place} (here : d.place i = some p) (unsent : p.unsentMsgs = []) : d.pump i = d := by
  unfold Dev.pump
  rw [here]
  simp [unsent]

theorem Dev.sendEntry_unreachable {d : Dev} {i : Nat} {b : Nat × Nat} {p : Place} (here : d.place i = some p) (unsent : b ∈ p.unsentMsgs)
    (unreached : d.reaches b.1 = none) (other : p.op.opcode ≠ 0x62) : Dev.sendEntry i d b = d.updPlace i Place.peerError := by
  unfold Dev.sendEntry
  rw [here]
  simp [unsent, unreached, other]

/-- A block waits while four data messages of its pair are unanswered (R460). -/
theorem Dev.sendEntry_busy {d : Dev} {i port : Nat} {b : Nat × Nat} {p : Place} (here : d.place i = some p) (reached : d.reaches b.1 = some port)
    (data : dataClass p.op.sendsKind = true) (busy : 4 ≤ d.pairBusy b.1) : Dev.sendEntry i d b = d := by
  unfold Dev.sendEntry
  rw [here]
  simp [reached, data, busy]

/-! ## The link's own flits (R447, R450 to R452) -/

/-- A port keeps a Quiet device quiet while it keeps its queue. -/
theorem Dev.Quiet.updPort_outbox {d : Dev} (h : d.Quiet) {p : Nat} (up : (d.port p).state = .up) {f : Port → Port}
    (hf : (f (d.port p)).outbox = (d.port p).outbox) : (d.updPort p f).Quiet := by
  refine ⟨h.1, fun k hk upk => ?_⟩
  by_cases same : k = p
  · subst same
    rw [Dev.port_updPort_same, hf]
    exact h.2 k hk up
  · rw [Dev.port_updPort_other _ _ same] at upk ⊢
    exact h.2 k hk upk

theorem exec_creditReturnTimer_sends {s : State} {p : Nat} (up : (s.dev.port p).state = .up) (room : (s.dev.port p).room 1 = true)
    (freed : (s.dev.port p).freedData + (s.dev.port p).freedControl ≠ 0) :
    exec (.creditReturnTimer p) s = .next { s with
      dev := (s.dev.updPort p fun k => { k.sendFlits 1 with freedData := 0, freedControl := 0 }).emit
        (.flit p 5 (s.dev.port p).ack (leBytes 2 (s.dev.port p).freedData ++ leBytes 2 (s.dev.port p).freedControl)) } := by
  refine congrArg (fun d => Host.Outcome.next { s with dev := d }) ?_
  exact if_neg (by simp [up, room]; omega)

theorem exec_creditReturnTimer_idle {s : State} {p : Nat}
    (idle : (s.dev.port p).state ≠ .up ∨ (s.dev.port p).freedData + (s.dev.port p).freedControl = 0) :
    exec (.creditReturnTimer p) s = .next s := by
  refine congrArg (fun d => Host.Outcome.next { s with dev := d }) ?_
  refine if_pos ?_
  rcases idle with down | none
  · simp [down]
  · simp [none]

/-- A port after a NAK that is the `n`-th of its run (R451). -/
def Port.naked (k : Port) (ack n : Nat) : Port :=
  { k.acked ack with nakRun := some (ack, n), replays := if (k.acked ack).replay.isEmpty then k.replays else satInc32 k.replays 1 }

theorem Port.acked_keeps (k : Port) (ack : Nat) : (k.acked ack).state = k.state ∧ (k.acked ack).outbox = k.outbox := by
  unfold Port.acked
  split <;> exact ⟨rfl, rfl⟩

/-- The length of the run of NAKs that name the same sequence, with one more. -/
def Port.nakCount (k : Port) (ack : Nat) : Nat :=
  match k.nakRun with
  | some (a, n) => if a = ack then n + 1 else 1
  | none => 1

theorem exec_nak {s : State} {p ack : Nat} (up : (s.dev.port p).state = .up) :
    exec (.nak p ack) s = .next { s with
      dev := if 8 ≤ (s.dev.port p).nakCount ack then (s.dev.updPort p fun k => k.naked ack ((s.dev.port p).nakCount ack)).retrain p
        else (s.dev.updPort p fun k => k.naked ack ((s.dev.port p).nakCount ack)).pumpAll } :=
  congrArg Host.Outcome.next (if_neg (not_not_intro up))

/-- Settles O55: what an accepted message means is a function of the device that accepted it, and each clause reads one of its cases; where
nothing waits to be sent, nothing but that case happens. -/
theorem quinayMessages : Obligations.QuinayMessages := by
  unfold Obligations.QuinayMessages
  refine ⟨?control, ?data, ?status, ?resend, ?flits⟩
  case control =>
    intro s p m e up accepted check
    refine ⟨fun type noToken => ⟨fun next => ?_, fun other => ?_⟩, fun type noToken => ?_, fun type => ?_, fun type quiet q waits here => ?_,
      fun type quiet q waits here => ?_⟩
    · obtain ⟨board, trk, tricks, qlk⟩ := e.takeToken_spec false (e.tokenFrom m)
      refine ⟨_, exec_token_next up accepted check type noToken next, congrArg (·.step) qlk, congrArg (·.epoch) qlk, tricks, ?_⟩
      rintro ds k rfl rfl
      refine ⟨?_, congrArg (·.heldEpoch) qlk, fun r l single listed cascade handle prepared none => ?_⟩
      · dsimp only
        rw [qlk]
        exact mem_drop_append_last _ _
      · dsimp only
        have one : (e.tokenFrom m).decisions = [r] := single
        rw [trk, Trk.decided, one]
        exact Trk.mem_log_recordDecision listed cascade handle prepared none
    · exact ⟨_, exec_token_other up accepted check type other, rfl, rfl, Dev.testBit_qlkLeaf _ _ _ _⟩
    · have sent := (e.responded m).answerMessage_onlySends m 0
      refine ⟨_, exec_response up accepted check type noToken, ?_, ?_, fun dealer => ?_, fun member => ?_⟩
      · refine sent.mem.trans ?_
        unfold Dev.responded; split <;> rfl
      · refine sent.board.trans ?_
        unfold Dev.responded; split <;> rfl
      · have run : e.responded m = _ := if_pos dealer
        dsimp only
        rw [sent.member, run, Dev.recordResponse, Dev.member_updMember]
        exact ⟨rfl, rfl, fun r hr => List.mem_append_right _ hr⟩
      · have run : e.responded m = e := if_neg member
        exact sent.members.trans (by rw [run])
    · refine ⟨_, exec_status up accepted check type, ?_, ?_, fun dealer => ?_, fun member => if_pos member⟩
      · exact (e.recordStatus_keeps p m.src _ _).1
      · exact (e.recordStatus_keeps p m.src _ _).2.2.1
      · obtain ⟨row, -, leaf⟩ := Dev.recordStatus_dealer (d := e) p m.src (field m.body 8 1) (field m.body 16 8) dealer
        dsimp only
        rw [row]
        exact ⟨rfl, rfl, rfl, leaf⟩
    · refine ⟨_, _, exec_xack up accepted check type quiet waits, ?_, rfl, rfl⟩
      exact Dev.place_upd_again (fun q => { q with unacked := q.unacked.erase (m.src, m.dest % 2 ^ 32) }) here fun _ => rfl
    · by_cases block : m.reason = 3 ∧ q.op.opcode = 0x61
      · refine ⟨_, { q with unacked := q.unacked.erase (m.src, m.dest % 2 ^ 32) },
          exec_xnak_busy up accepted check type quiet waits block.1 block.2, ?_, fun _ _ => ⟨rfl, rfl, ?_⟩,
          fun other => absurd block (by rintro ⟨h, h'⟩; exact other.elim (absurd h) (absurd h'))⟩
        · exact Dev.place_upd_again (fun q => { q with unacked := q.unacked.erase (m.src, m.dest % 2 ^ 32) }) here fun _ => rfl
        · exact List.mem_append_right _ (List.mem_singleton.2 rfl)
      · have other : m.reason ≠ 3 ∨ q.op.opcode ≠ 0x61 := by
          rw [← not_and_or]; exact block
        refine ⟨_, q.peerError, exec_xnak_ends up accepted check type quiet waits other, ?_, fun h h' => absurd ⟨h, h'⟩ block,
          fun _ ok => ⟨if_pos ok, rfl⟩⟩
        exact Dev.place_upd_again Place.peerError here fun _ => rfl
  case data =>
    intro s p m e c up accepted command
    refine ⟨fun serves => exec_data_unserved command up accepted serves, fun serves kind later => ?_, fun serves kind tile held => ?_,
      fun serves tiles open_ free => ?_, fun i r serves kind tile route at_ => ⟨fun credits => ?_, fun credits => ?_⟩⟩
    · rw [exec_data_served command up accepted serves]
      simp [Dev.dataMeaning, kind, later]
    · rw [exec_data_served command up accepted serves]
      simp [Dev.dataMeaning, kind, tile, held]
    · obtain ⟨board, rings, bad, whole⟩ := e.receiveBody_spec p m
      refine ⟨_, _, exec_data_written command up accepted serves tiles open_ free, rfl, ?_⟩
      dsimp only
      by_cases counts : m.kind = 2 ∧ (e.receiveBody p m).2 = true ∧ m.coll ∈ e.openCollectives m.ctxIx
      · rw [if_pos counts]
        refine ⟨board, rings, fun fault => ?_, bad, fun ok check => ⟨(whole ok check).1, fun _ _ => ?_⟩⟩
        · rw [Dev.receiveBody_fault p fault] at counts
          exact absurd counts.2.1 (by simp)
        · rw [Dev.ctx_updCtx, if_pos rfl, SMap.get_put_same, (whole ok check).2]
      · rw [if_neg counts]
        refine ⟨board, rings, fun fault => by rw [Dev.receiveBody_fault p fault]; rfl, bad,
          fun ok check => ⟨(whole ok check).1, fun kind among => absurd ⟨kind, ?_, among⟩ counts⟩⟩
        rw [Dev.receiveBody_whole p ok check]
    · rw [exec_data_served command up accepted serves]
      simp [Dev.dataMeaning, kind, tile, Dev.receiveTile_waits route at_ credits]
    · have run : exec c s = .next { s with dev := if m.check ≠ m.checkOf then (e.tileTaken i m).checkFails p m
          else (e.tileTaken i m).answerMessage m 0 } := by
        rw [exec_data_served command up accepted serves]
        simp only [Dev.dataMeaning, kind, tile, Dev.receiveTile_credit route at_ credits, if_true, Option.getD_some]
      have route : (e.tileTaken i m).routes[i]? = some { r with credits := r.credits - 1, queue := r.queue ++ [({ tile := m.arrivedTile } : Sent)] } := by
        simp [Dev.tileTaken, at_]
      refine ⟨_, { tile := m.arrivedTile }, run, ?_⟩
      by_cases check : m.check = m.checkOf
      · have sent := (e.tileTaken i m).answerMessage_onlySends m 0
        dsimp only
        rw [if_neg (not_not_intro check), sent.routes, sent.leaves]
        refine ⟨route, fun _ pure => ⟨?_, rfl⟩, fun _ poison => ⟨?_, rfl⟩, fun bad => absurd check bad⟩
        · simp [QMessage.arrivedTile, check, pure]
        · simp [QMessage.arrivedTile, check, poison]
      · obtain ⟨-, -, -, routes, leaf⟩ := (e.tileTaken i m).checkFails_spec p m
        dsimp only
        rw [if_pos check, routes]
        exact ⟨route, fun ok => absurd ok check, fun ok => absurd ok check, fun _ => ⟨by simp [QMessage.arrivedTile, check], leaf⟩⟩
  case status =>
    intro s
    refine ⟨fun idle => ?_, fun reports dealer => ?_, fun p reports member reached empty room credit => ?_⟩
    · refine congrArg (fun d => Host.Outcome.next { s with dev := d }) ?_
      exact if_neg (by rw [idle]; decide)
    · have run : exec .statusTimer s = .next { s with dev := s.dev.recordStatus 0 s.dev.cascade.moduleIndex s.dev.maxThermal s.dev.progress } := by
        refine congrArg (fun d => Host.Outcome.next { s with dev := d }) ?_
        exact (if_pos reports).trans (Dev.sendStatus_dealer dealer)
      obtain ⟨row, out, -⟩ := Dev.recordStatus_dealer (d := s.dev) 0 s.dev.cascade.moduleIndex s.dev.maxThermal s.dev.progress dealer
      refine ⟨_, _, run, rfl, ?_, ?_, out⟩ <;> dsimp only <;> rw [row]
    · have run : exec .statusTimer s = .next { s with dev := s.dev.sendMessage p s.dev.statusMessage } := by
        refine congrArg (fun d => Host.Outcome.next { s with dev := d }) ?_
        exact (if_pos reports).trans (Dev.sendStatus_member member reached empty room credit)
      exact ⟨_, _, run, Dev.sendMessage_out _ _ _, rfl, rfl, s.dev.statusMessage_fields⟩
  case resend =>
    intro s i m j p listed here ok quiet
    have unsent : p.unsentMsgs = [] := quiet.1 p (List.mem_of_find?_eq_some here)
    have waiting := Dev.place_resending (b := (m, j)) here ok unsent
    constructor
    · intro unreached block
      have first : (s.dev.resending i (m, j)).pump i = (s.dev.resending i (m, j)).updPlace i Place.peerError := by
        rw [Dev.pump_one waiting rfl]
        exact Dev.sendEntry_unreachable waiting (List.mem_singleton.2 rfl) unreached (by rw [block]; decide)
      have ended : ((s.dev.resending i (m, j)).updPlace i Place.peerError).place i = some { p with unsentMsgs := [(m, j)] }.peerError :=
        Dev.place_upd_again Place.peerError waiting fun _ => rfl
      exact ⟨_, _, exec_a2aResendTimer listed here ok quiet first (Dev.pump_nothing ended rfl), rfl, ended, if_pos ok, rfl⟩
    · intro reached busy block
      obtain ⟨port, reached⟩ := Option.ne_none_iff_exists'.1 reached
      have same : (s.dev.resending i (m, j)).pairBusy m = s.dev.pairBusy m := Dev.pairBusy_resending _ _ _ _
      have first : (s.dev.resending i (m, j)).pump i = s.dev.resending i (m, j) := by
        rw [Dev.pump_one waiting rfl]
        exact Dev.sendEntry_busy (b := (m, j)) waiting reached (by simp [OpWord.sendsKind, block, dataClass]) (by rwa [same])
      exact ⟨_, _, exec_a2aResendTimer listed here ok quiet first first, rfl, waiting, rfl⟩
  case flits =>
    rintro s p k rfl
    refine ⟨fun up room freed => ?_, exec_creditReturnTimer_idle, fun bad up => ?_, fun ack up quiet => ?_, fun seq a b up quiet => ⟨?_, ?_⟩,
      fun ack n up quiet count => ?_⟩
    · refine ⟨_, exec_creditReturnTimer_sends up room freed, rfl, ?_⟩
      simp [Port.sendFlits]
    · have run : exec (.flitDiscard p bad) s = .next { s with dev := s.dev.discardFlit p bad } := congrArg Host.Outcome.next (if_pos up)
      refine ⟨_, run, ?_⟩
      dsimp only
      rw [Dev.port_discardFlit]
      refine ⟨rfl, rfl, rfl, ?_⟩
      unfold Dev.discardFlit
      dsimp only
      split <;> rfl
    · have still : (s.dev.updPort p fun k => k.acked ack).Quiet := quiet.updPort_outbox up ((s.dev.port p).acked_keeps ack).2
      have run : exec (.idle p ack) s = .next { s with dev := s.dev.updPort p fun k => k.acked ack } := by
        refine congrArg Host.Outcome.next ((if_pos up).trans ?_)
        rw [still.pumpAll]
      refine ⟨_, run, ?_, rfl⟩
      dsimp only
      rw [Dev.port_updPort_same, Port.acked]
      by_cases held : ack ∈ (s.dev.port p).replay <;> simp [held, bne, beq_eq_decide]
    · rintro rfl
      have still := quiet.updPort_outbox (p := p) up (f := fun k =>
        { k.takeFlits 1 with creditData := min 1024 (k.creditData + a), creditControl := min 64 (k.creditControl + b) }) rfl
      have run : exec (.credit p (s.dev.port p).rxSeq a b) s = .next { s with dev := s.dev.updPort p fun k =>
          { k.takeFlits 1 with creditData := min 1024 (k.creditData + a), creditControl := min 64 (k.creditControl + b) } } := by
        refine congrArg Host.Outcome.next ((if_neg (not_not_intro up)).trans ((if_neg (not_not_intro rfl)).trans ?_))
        rw [still.pumpAll]
      refine ⟨_, run, ?_⟩
      dsimp only
      rw [Dev.port_updPort_same]
      exact ⟨rfl, rfl, rfl⟩
    · intro other
      have run : exec (.credit p seq a b) s = .next { s with dev := s.dev.discardFlit p false } :=
        congrArg Host.Outcome.next ((if_neg (not_not_intro up)).trans (if_pos other))
      refine ⟨_, run, ?_⟩
      dsimp only
      rw [Dev.port_discardFlit]
      exact ⟨rfl, rfl, rfl⟩
    · have counted : n = (s.dev.port p).nakCount ack := by rw [count]; rfl
      subst counted
      have port := s.dev.port_updPort_same p fun k => k.naked ack ((s.dev.port p).nakCount ack)
      refine ⟨fun few => ⟨_, exec_nak up, ?_⟩, fun many => ⟨_, exec_nak up, ?_⟩⟩
      · have still := quiet.updPort_outbox (p := p) up (f := fun k => k.naked ack ((s.dev.port p).nakCount ack)) ((s.dev.port p).acked_keeps ack).2
        dsimp only
        rw [if_neg (Nat.not_le.2 few), still.pumpAll, port]
        exact ⟨((s.dev.port p).acked_keeps ack).1.trans up, rfl, by simp [Port.naked], rfl⟩
      · dsimp only
        rw [if_pos many, Dev.port_retrain]
        exact ⟨rfl, Dev.testBit_retrain _ _⟩

end Sys2Proof.Machine
end

section
/-! SUPPORT. Segments: what their registers take and refuse, and how an access is translated and fails (R377 to R380, R383 to R385). -/

namespace Sys2Proof.Machine

/-! ## A segment changed -/

theorem Dev.seg_updSeg_same (d : Dev) (x i : Nat) (f : Seg → Seg) : (d.updSeg x i f).seg x i = f (d.seg x i) :=
  (Dev.seg_updSeg d x i x i f).trans (if_pos ⟨rfl, rfl⟩)

theorem Dev.seg_updSeg_other (d : Dev) {x i j : Nat} (f : Seg → Seg) (h : j ≠ i) : (d.updSeg x i f).seg x j = d.seg x j :=
  (Dev.seg_updSeg d x i x j f).trans (if_neg fun e => h e.2)

theorem Dev.segRefuse_spec (d : Dev) (x i code : Nat) :
    (d.segRefuse x i code).seg x i = { d.seg x i with err := code } ∧ ((d.segRefuse x i code).leaf (.seat (x / 16))).testBit 5 = true ∧
      (d.segRefuse x i code).mem = d.mem ∧ ∀ j, j ≠ i → (d.segRefuse x i code).seg x j = d.seg x j :=
  ⟨d.seg_updSeg_same x i fun g => { g with err := code }, Dev.testBit_leaf_setLeaf _ _ _, rfl,
    fun _ h => d.seg_updSeg_other (fun g => { g with err := code }) h⟩

/-! ## The registers -/

section
variable {s : State} {x i v : Nat} (ready : s.ready = true) (exists_ : s.dev.ctxExists x = true)
include ready exists_

theorem exec_segEnable_taken (off : (s.dev.seg x i).enable = false) (passes : s.dev.segCheck x i (v ||| 1) = 0) :
    exec (.segEnable x i v) s = .next { s with
      dev := (s.dev.updSeg x i fun _ => { (s.dev.seg x i).setAttr (v ||| 1) with enable := true, err := 0 }).addCover
        (stackOf (s.dev.seg x i).pbase) ((s.dev.seg x i).cover x) } := by
  refine congrArg Host.Outcome.next ((if_neg (by simp [ready, exists_])).trans ((if_neg (by simp [off])).trans ?_))
  exact if_neg (not_not_intro passes)

theorem exec_segEnable_refused {code : Nat} (refused : ((s.dev.seg x i).enable = false ∧ code = s.dev.segCheck x i (v ||| 1) ∧ code ≠ 0) ∨
    ((s.dev.seg x i).enable = true ∧ code = 6 ∧ v ||| 1 ≠ (s.dev.seg x i).attr)) :
    exec (.segEnable x i v) s = .next { s with dev := s.dev.segRefuse x i code } := by
  refine congrArg Host.Outcome.next ((if_neg (by simp [ready, exists_])).trans ?_)
  rcases refused with ⟨off, rfl, fails⟩ | ⟨on, rfl, other⟩
  · exact (if_neg (by simp [off])).trans (if_pos fails)
  · exact (if_pos on).trans (if_neg other)

theorem exec_segEnable_same (on : (s.dev.seg x i).enable = true) (same : v ||| 1 = (s.dev.seg x i).attr) : exec (.segEnable x i v) s = .next s :=
  congrArg Host.Outcome.next ((if_neg (by simp [ready, exists_])).trans ((if_pos on).trans (if_pos same)))

theorem exec_segDisable_off (off : (s.dev.seg x i).enable = false) :
    exec (.segDisable x i v) s = .next { s with dev := s.dev.updSeg x i fun g => g.setAttr v } :=
  congrArg Host.Outcome.next ((if_neg (by simp [ready, exists_])).trans (if_pos (by simp [off])))

/-- The context's rings stand and its operations have left the scoreboard (R380). -/
theorem exec_segDisable_drops (on : (s.dev.seg x i).enable = true)
    (rings : ∀ r ∈ s.dev.ctxRings x, (s.dev.ring r).state = .stopped ∨ (s.dev.ring r).state = .inactive) (places : s.dev.ctxPlaces x = []) :
    exec (.segDisable x i v) s = .next { s with dev := s.dev.updSeg x i fun g => { g with dropping := true, err := 0 } } := by
  refine congrArg Host.Outcome.next ((if_neg (by simp [ready, exists_])).trans ((if_neg (by simp [on])).trans (if_pos ?_)))
  simpa [places] using rings

theorem exec_segDisable_refused (on : (s.dev.seg x i).enable = true)
    (busy : (∃ r ∈ s.dev.ctxRings x, (s.dev.ring r).state ≠ .stopped ∧ (s.dev.ring r).state ≠ .inactive) ∨ s.dev.ctxPlaces x ≠ []) :
    exec (.segDisable x i v) s = .next { s with dev := s.dev.segRefuse x i 6 } := by
  refine congrArg Host.Outcome.next ((if_neg (by simp [ready, exists_])).trans ((if_neg (by simp [on])).trans (if_neg ?_)))
  rcases busy with ⟨r, member, notStopped, notInactive⟩ | some
  · simp only [Bool.and_eq_true, List.all_eq_true, Bool.or_eq_true, beq_iff_eq]
    rintro ⟨rings, -⟩
    exact (rings r member).elim notStopped notInactive
  · simp [some]

end

/-- An enabled segment that is closed gives up its cover. -/
theorem Dev.closeSeg_enabled {d : Dev} {x i : Nat} (on : (d.seg x i).enable = true) :
    d.closeSeg x i = (d.dropCover (stackOf (d.seg x i).pbase) ((d.seg x i).cover x)).updSeg x i fun g =>
      { g with enable := false, dropping := false } := if_pos on

theorem Dev.seg_addCover (d : Dev) (k : Nat) (c : Cover) (x i : Nat) : (d.addCover k c).seg x i = d.seg x i := rfl

theorem Dev.covers_addCover (d : Dev) (k : Nat) (c : Cover) : ((d.addCover k c).mem.stack k).covers = (d.mem.stack k).covers ++ [c] := by
  simp [Dev.addCover, Dev.updStack]

theorem exec_segDropDone_drops {s : State} {x i : Nat} (dropping : (s.dev.seg x i).dropping = true) :
    exec (.segDropDone x i) s = .next { s with
      dev := (s.dev.dropLines fun l => l.tag == tagOf x && decide ((s.dev.seg x i).pbase ≤ 64 * l.atom) &&
        decide (64 * l.atom < (s.dev.seg x i).pbase + (s.dev.seg x i).length * 65536)).closeSeg x i } :=
  congrArg Host.Outcome.next (if_pos dropping)

/-! ## The check of an enabling write (R379) -/

theorem Dev.segCheck_passes {d : Dev} {x i v : Nat} (h : d.segCheck x i v = 0) :
    ¬((d.seg x i).length = 0 ∨ 1048576 < (d.seg x i).length ∨ 2 ^ 48 < (d.seg x i).vbase + (d.seg x i).length * 65536 ∨ 2 ^ 10 ≤ v) ∧
    ¬(12 ≤ stackOf (d.seg x i).pbase ∨ stackOf ((d.seg x i).pbase + (d.seg x i).length * 65536 - 1) ≠ stackOf (d.seg x i).pbase ∨
      2 ^ 40 < (d.seg x i).pbase + (d.seg x i).length * 65536) ∧
    (∀ c ∈ (d.mem.stack (stackOf (d.seg x i).pbase)).covers,
      rangesMeet c.first c.count (frameOf (d.seg x i).pbase) (d.seg x i).length = true → c.kind ≠ .device ∧ tagSeat c.tag = x / 16) ∧
    (∀ e ∈ (d.ctx x).segs, e.1 ≠ i → e.2.enable = true →
      rangesMeet e.2.vbase (e.2.length * 65536) (d.seg x i).vbase ((d.seg x i).length * 65536) = false) ∧
    (v.testBit 3 = true → ∀ e ∈ (d.layout.map (·.correctOnly)).getD [],
      rangesMeet e.frames.1 e.frames.2 (d.seg x i).pbase ((d.seg x i).length * 65536) = false) := by
  unfold Dev.segCheck at h
  dsimp only at h
  split_ifs at h with size place device seat other correct
  refine ⟨size, place, fun c member meets => ⟨fun kind => device ?_, ?_⟩, fun e member ne on => ?_, fun detect e member => ?_⟩
  · exact List.any_eq_true.2 ⟨c, List.mem_filter.2 ⟨member, meets⟩, by simp [kind]⟩
  · by_contra foreign
    exact seat (List.any_eq_true.2 ⟨c, List.mem_filter.2 ⟨member, meets⟩, by simp [foreign]⟩)
  · by_contra meets
    exact other (List.any_eq_true.2 ⟨e, member, by simpa [ne, on] using meets⟩)
  · by_contra meets
    exact correct (by
      rw [detect, Bool.true_and]
      exact List.any_eq_true.2 ⟨e, member, by simpa using meets⟩)

/-! ## Translation (R378) -/

theorem Dev.translate_none {d : Dev} {x a : Nat} (n : Nat) (rd wr : Bool) (h : (d.ctx x).covering a = none) : d.translate x a n rd wr = .uncovered := by
  unfold Dev.translate; rw [h]

theorem Dev.translate_some {d : Dev} {x a i : Nat} {g : Seg} (n : Nat) (rd wr : Bool) (h : (d.ctx x).covering a = some (i, g)) :
    d.translate x a n rd wr =
      if (rd && !g.read) || (wr && !g.write) || decide (g.vbase + g.length * 65536 < a + n) then .denied i else .ok (g.pbase + (a - g.vbase)) i := by
  unfold Dev.translate; rw [h]

/-- A failed translation of an operation's access is recorded at its seat and touches no memory (R385, R409, R411). -/
theorem Mio.read_uncovered {m : Mio} {g : Agent} {o : Opref} {a n : Nat} (clean : m.fault = false) (going : m.waits = false)
    (h : m.dev.translate g.ctx a n true false = .uncovered) :
    (m.read g o a n).1 = { m with dev := m.dev.segFault g.ctx a 1 0, fault := true } := by
  unfold Mio.read
  rw [if_neg (by simp [clean, going]), h]
  rfl

theorem Mio.write_denied {m : Mio} {g : Agent} {o : Opref} {a i : Nat} {bs : List Byte} (po : List Bool) (clean : m.fault = false) (going : m.waits = false)
    (some : bs ≠ []) (h : m.dev.translate g.ctx a bs.length (a % 64 != 0 || bs.length % 64 != 0) true = .denied i) :
    m.write g o a bs po = { m with dev := m.dev.segFault g.ctx a 2 i, fault := true } := by
  unfold Mio.write
  rw [if_neg (by simp [clean, going, some])]
  dsimp only
  rw [h]
  rfl

/-! ## The obligation -/

/-- Settles O56: each register write is one of the cases of R379 and R380 on the segment as it stands, and each access one of those of
`translate`. -/
theorem segments : Obligations.Segments := by
  unfold Obligations.Segments
  refine ⟨?enable, ?check, ?disable, ?drop, ?translate, ?covering, ?fault, ?tag⟩
  case enable =>
    rintro s x i v w g ready exists_ rfl rfl
    refine ⟨fun off passes => ?_, fun k refused => ?_, exec_segEnable_same ready exists_⟩
    · have seg := s.dev.seg_updSeg_same x i fun _ => { (s.dev.seg x i).setAttr (v ||| 1) with enable := true, err := 0 }
      refine ⟨_, _, exec_segEnable_taken ready exists_ off passes, rfl, ?_⟩
      dsimp only
      rw [Dev.seg_addCover, seg, Dev.covers_addCover]
      refine ⟨rfl, rfl, rfl, rfl, rfl, rfl, rfl, rfl, rfl, rfl, fun j h => ?_, rfl, rfl⟩
      rw [Dev.seg_addCover, Dev.seg_updSeg_other _ _ h]
    · obtain ⟨seg, leaf, mem, others⟩ := s.dev.segRefuse_spec x i k
      exact ⟨_, exec_segEnable_refused ready exists_ refused, seg, leaf, mem, others⟩
  case check =>
    rintro d x i v g rfl passes
    obtain ⟨size, place, covers, others, correct⟩ := Dev.segCheck_passes passes
    simp only [not_or, not_lt, not_le] at size place
    obtain ⟨some, most, top, attr⟩ := size
    obtain ⟨stack, whole, -⟩ := place
    exact ⟨Nat.one_le_iff_ne_zero.2 some, most, top, attr, stack, not_not.1 whole, covers, others, correct⟩
  case disable =>
    rintro s x i v g ready exists_ rfl
    refine ⟨fun off => ?_, fun on rings places => ?_, fun on busy => ?_⟩
    · exact ⟨_, exec_segDisable_off ready exists_ off, s.dev.seg_updSeg_same x i _, rfl⟩
    · exact ⟨_, exec_segDisable_drops ready exists_ on rings places, s.dev.seg_updSeg_same x i _, rfl⟩
    · obtain ⟨seg, leaf, -, -⟩ := s.dev.segRefuse_spec x i 6
      exact ⟨_, exec_segDisable_refused ready exists_ on busy, seg, leaf⟩
  case drop =>
    rintro s x i g rfl dropping on
    have kept : (s.dev.dropLines fun l => l.tag == tagOf x && decide ((s.dev.seg x i).pbase ≤ 64 * l.atom) &&
        decide (64 * l.atom < (s.dev.seg x i).pbase + (s.dev.seg x i).length * 65536)).seg x i = s.dev.seg x i := rfl
    refine ⟨_, exec_segDropDone_drops dropping, ?_⟩
    dsimp only
    rw [Dev.closeSeg_enabled (kept ▸ on), Dev.seg_updSeg_same]
    refine ⟨rfl, rfl, fun l => (Dev.mem_dropLines _ _ l).trans ?_, rfl, rfl⟩
    refine and_congr_right fun _ => ?_
    simp
  case translate =>
    refine fun d x a n rd wr => ⟨fun i g h mayRead mayWrite inside => ?_, fun i g h fails => ?_, Dev.translate_none n rd wr⟩
    · rw [Dev.translate_some n rd wr h]
      refine if_neg ?_
      cases rd <;> cases wr <;> simp_all
    · rw [Dev.translate_some n rd wr h]
      refine if_pos ?_
      rcases fails with ⟨rfl, no⟩ | ⟨rfl, no⟩ | past
      · simp [no]
      · simp [no]
      · simp [past]
  case covering =>
    intro d x a i g h
    have meets := List.find?_some h
    simp only [Bool.and_eq_true, decide_eq_true_eq] at meets
    exact ⟨List.mem_of_find?_eq_some h, meets.1.1, meets.1.2, meets.2⟩
  case fault =>
    intro m g o a n k clean going small
    refine ⟨?_, fun bs po i some h => ?_⟩
    · rintro h rfl
      obtain ⟨-, -, seats, mem, -⟩ := m.dev.segFault_spec g.ctx a 1 0
      rw [Mio.read_uncovered clean going h]
      dsimp only
      rw [seats, if_pos rfl]
      exact ⟨rfl, mem, rfl, rfl, rfl⟩
    · obtain ⟨leaf, -, seats, mem, -⟩ := m.dev.segFault_spec g.ctx a 2 i
      rw [Mio.write_denied po clean going some h]
      dsimp only
      rw [seats, if_pos rfl]
      exact ⟨rfl, mem, rfl, rfl, leaf⟩
  case tag =>
    intro d tag a bs po stack refused
    have run : d.memWrite tag a bs po = d.rejectTag tag a := (if_neg (Nat.not_le.2 stack)).trans (if_neg (by
      rw [show (d.mem.frame (stackOf a) (frameOf a)).admits tag = false from refused]; decide))
    rw [run]
    refine ⟨rfl, ?_⟩
    simp [Dev.rejectTag, Dev.seat_updSeat]

end Sys2Proof.Machine
end

section
/-! SUPPORT. Windows, host-class accesses and host loss (R414, R416 to R421, R434 to R437, R440). -/

namespace Sys2Proof.Machine

/-! ## Windows (R418) -/

theorem Dev.window_updWindow_same (d : Dev) (w : Nat) (f : Window → Window) : (d.updWindow w f).window w = f (d.window w) :=
  (Dev.window_updWindow d w w f).trans (if_pos rfl)

theorem Dev.window_updWindow_other (d : Dev) {w j : Nat} (f : Window → Window) (h : j ≠ w) : (d.updWindow w f).window j = d.window j :=
  (Dev.window_updWindow d w j f).trans (if_neg h)

/-- The attributes that a write of a window's register sets; CONTEXT only while it is disabled. -/
def Window.written (w : Window) (v : Nat) : Window :=
  { w with reqCheck := v.testBit 1, requester := bitsAt v 16 16, context := if w.enable then w.context else bitsAt v 4 10 }

/-- What a write of a window's register leaves: the other windows, memory, and the leaves where the window is disabled. -/
theorem Dev.writeWindow_spec (d : Dev) (w v : Nat) :
    (d.writeWindow w v).window w = (d.window w).written v ∧ (∀ j, j ≠ w → (d.writeWindow w v).window j = d.window j) ∧
      (d.writeWindow w v).mem = d.mem ∧ ((d.window w).enable = false → (d.writeWindow w v).leaves = d.leaves) := by
  unfold Dev.writeWindow
  dsimp only
  split_ifs with other
  · exact ⟨Dev.window_updWindow_same _ w _, fun j h => Dev.window_updWindow_other _ _ h, rfl, fun off => absurd other (by simp [off])⟩
  · exact ⟨Dev.window_updWindow_same _ w _, fun j h => Dev.window_updWindow_other _ _ h, rfl, fun _ => rfl⟩

theorem exec_windowEnable_taken {s : State} {w v : Nat} (ready : s.ready = true) (off : (s.dev.window w).enable = false)
    (ok : (s.dev.writeWindow w v).windowOk w = true) :
    exec (.windowEnable w v) s = .next { s with dev := (s.dev.writeWindow w v).updWindow w fun w => { w with enable := true } } := by
  refine congrArg Host.Outcome.next ((if_neg (by simp [ready])).trans ?_)
  exact congrArg (fun d => ({ s with dev := d } : State)) ((if_neg (by simp [off])).trans (if_pos ok))

theorem exec_windowEnable_refused {s : State} {w v : Nat} (ready : s.ready = true) (off : (s.dev.window w).enable = false)
    (bad : (s.dev.writeWindow w v).windowOk w = false) :
    exec (.windowEnable w v) s = .next { s with dev := (s.dev.writeWindow w v).setLeaf .host 5 } := by
  refine congrArg Host.Outcome.next ((if_neg (by simp [ready])).trans ?_)
  exact congrArg (fun d => ({ s with dev := d } : State)) ((if_neg (by simp [off])).trans (if_neg (by simp [bad])))

theorem exec_windowDisable {s : State} {w v : Nat} (ready : s.ready = true) :
    exec (.windowDisable w v) s = .next { s with dev := (s.dev.writeWindow w v).updWindow w fun w => { w with enable := false } } :=
  congrArg Host.Outcome.next (if_neg (by simp [ready]))

theorem Dev.windowOk_passes {d : Dev} {w : Nat} (h : d.windowOk w = true) :
    (d.window w).length ≠ 0 ∧ (d.window w).base + (d.window w).length * 65536 ≤ 12 * 2 ^ 36 ∧
      ∀ o ∈ d.glb.windows, o.1 ≠ w → o.2.enable = true → (d.window w).meets o.2 = false := by
  unfold Dev.windowOk at h
  simp only [Bool.and_eq_true, bne_iff_ne, decide_eq_true_eq, List.all_eq_true, Bool.or_eq_true, beq_iff_eq, Bool.not_eq_true'] at h
  obtain ⟨⟨some, inside⟩, apart⟩ := h
  refine ⟨some, inside, fun o member ne on => ?_⟩
  rcases apart o member with (same | off) | apart
  · exact absurd same ne
  · rw [on] at off; cases off
  · exact apart

/-! ## The checks of an access (R419) -/

theorem Dev.ingressCheck_none {d : Dev} {i : Ingress} (n : Nat) (wr : Bool) (h : i.window = none) : d.ingressCheck i n wr = 1 := by
  unfold Dev.ingressCheck; rw [h]

theorem Dev.ingressCheck_some {d : Dev} {i : Ingress} {w : Window} (n : Nat) (wr : Bool) (h : i.window = some w) :
    d.ingressCheck i n wr =
      if i.io && w.reqCheck && decide (i.requester ≠ w.requester) then 2
      else if !d.physAllowed w.context i.addr n wr then 3
      else if (atomsOf i.addr n).any fun p => !(d.mem.frame (stackOf p.1) (frameOf p.1)).admits (tagOf w.context) then 4
      else 0 := by
  unfold Dev.ingressCheck; rw [h]

/-- An access that falls in a window is checked by its requester first, and passes once its segment and every atom let it. -/
theorem Dev.ingressCheck_window {d : Dev} {i : Ingress} {w : Window} (n : Nat) (wr : Bool) (h : i.window = some w) :
    d.ingressCheck i n wr ≠ 1 ∧ d.ingressCheck i n wr ≤ 4 ∧
      (d.ingressCheck i n wr = 2 ↔ i.io = true ∧ w.reqCheck = true ∧ i.requester ≠ w.requester) ∧
      (d.ingressCheck i n wr = 0 → d.physAllowed w.context i.addr n wr = true ∧
        ∀ p ∈ atomsOf i.addr n, d.admits (.tagged (tagOf w.context)) p.1 = true) := by
  rw [Dev.ingressCheck_some n wr h]
  have who : (i.io && w.reqCheck && decide (i.requester ≠ w.requester)) = true ↔ i.io = true ∧ w.reqCheck = true ∧ i.requester ≠ w.requester := by
    simp [and_assoc]
  split_ifs with requester range atoms
  · exact ⟨by decide, by decide, by simpa using who.1 requester, fun h => absurd h (by decide)⟩
  · exact ⟨by decide, by decide, by simpa using fun a b c => requester (who.2 ⟨a, b, c⟩), fun h => absurd h (by decide)⟩
  · exact ⟨by decide, by decide, by simpa using fun a b c => requester (who.2 ⟨a, b, c⟩), fun h => absurd h (by decide)⟩
  · refine ⟨by decide, by decide, by simpa using fun a b c => requester (who.2 ⟨a, b, c⟩), fun _ => ⟨by simpa using range, fun p member => ?_⟩⟩
    by_contra bad
    exact atoms (List.any_eq_true.2 ⟨p, member, by simpa [Dev.admits] using bad⟩)

/-! ## A failed access (R420) -/

/-- A failed access is recorded and touches no memory. -/
theorem Dev.ingressFail_spec (d : Dev) (i : Ingress) (row : Nat) :
    (d.ingressFail i row).mem = d.mem ∧ (d.ingressFail i row).out = d.out ∧ (d.ingressFail i row).glb.infoKind = row ∧
      (d.ingressFail i row).glb.faultAddr = i.addr % 2 ^ 40 ∧ (d.ingressFail i row).glb.ingressFaults = satInc32 d.glb.ingressFaults 1 ∧
      (row ≠ 4 → ((d.ingressFail i row).leaf .host).testBit 2 = true) := by
  unfold Dev.ingressFail
  extract_lets x seat g e
  split
  · exact ⟨rfl, rfl, rfl, rfl, rfl, fun _ => Dev.testBit_leaf_setLeaf _ _ _⟩
  · exact ⟨rfl, rfl, rfl, rfl, rfl, fun h => absurd rfl h⟩
  · obtain ⟨-, -, -, mem, out⟩ := (e.setLeaf .host 2).segFault_spec x (i.addr % 2 ^ 48) 4 0
    refine ⟨mem, out, rfl, rfl, rfl, fun _ => ?_⟩
    exact Dev.testBit_leaf_setLeaf_mono _ _ (Dev.testBit_leaf_setLeaf_mono _ _ (Dev.testBit_leaf_setLeaf _ _ _))

/-! ## Host-class writes -/

/-- How a failed host-class write ends (R420). -/
def HostPath.failedWrite : HostPath → Out
  | .uio _ => .unsupported
  | _ => .writeDone

/-- The command's own case: bytes that arrive and fail a check. -/
theorem Dev.hostWrite_fails {d : Dev} {path : HostPath} {a : Nat} {bs : List Byte} {i : Ingress} (arrives : d.ingress path a bs.length = some i)
    (fails : d.ingressCheck i bs.length true ≠ 0) :
    d.hostWrite path a bs = (d.ingressFail i (d.ingressCheck i bs.length true)).emit path.failedWrite := by
  unfold Dev.hostWrite
  rw [arrives]
  dsimp only
  rw [if_pos fails]
  cases path <;> rfl

/-- An access of one whole atom. -/
theorem atomsOf_whole {a : Nat} (aligned : a % 64 = 0) : atomsOf a 64 = [(a, 64)] := by
  have one : ceilDiv (a + 64) 64 - a / 64 = 1 := by unfold ceilDiv; omega
  have start : max a (a / 64 * 64) = a := by omega
  have stop : min (a + 64) ((a / 64 + 1) * 64) - a = 64 := by omega
  unfold atomsOf
  rw [one]
  simp [start, stop]

/-- The request as which a host-class write of one atom reaches its die. -/
def Ingress.request (i : Ingress) (bs : List Byte) : HeldReq :=
  { req := ⟨.tagged (tagOf ((i.window.map (·.context)).getD 0)), i.addr, some bs⟩, reply := true }

theorem Dev.hostWrite_atom {d : Dev} {path : HostPath} {a : Nat} {bs : List Byte} {i : Ingress} (arrives : d.ingress path a bs.length = some i)
    (passes : d.ingressCheck i bs.length true = 0) (whole : bs.length = 64) (aligned : i.addr % 64 = 0) (free : d.blocked i.addr = false) :
    d.hostWrite path a bs = d.take (i.request bs) := by
  have atoms : atomsOf i.addr bs.length = [(i.addr, 64)] := by rw [whole]; exact atomsOf_whole aligned
  have held : d.ingressHeld i bs.length = false := by simp [Dev.ingressHeld, atoms, free]
  have all : slice bs 0 64 = bs := slice_whole whole
  unfold Dev.hostWrite
  rw [arrives]
  dsimp only
  rw [if_neg (not_not_intro passes), held, atoms]
  simp [whole, all, Ingress.request]

/-- An access that passes every check has a window whose context's tag its atoms admit. -/
theorem Dev.ingress_admits {d : Dev} {i : Ingress} {n : Nat} {wr : Bool} (passes : d.ingressCheck i n wr = 0) {p : Nat × Nat}
    (member : p ∈ atomsOf i.addr n) : d.admits (.tagged (tagOf ((i.window.map (·.context)).getD 0))) p.1 = true := by
  cases window : i.window with
  | none => rw [Dev.ingressCheck_none n wr window] at passes; cases passes
  | some w => exact ((Dev.ingressCheck_window n wr window).2.2.2 passes).2 p member

/-- A whole atom written to a frame that holds data. -/
theorem Dev.take_writes {d : Dev} {i : Ingress} {bs : List Byte} (whole : bs.length = 64) (aligned : i.addr % 64 = 0) (free : d.blocked i.addr = false)
    (admits : d.admits (i.request bs).req.source i.addr = true) (filled : (d.mem.frame (stackOf i.addr) (frameOf i.addr)).zero = false)
    (symbols : d.mem.upsets.get [] (d.mem.locate i.addr / 64) = []) :
    ∃ m, d.take (i.request bs) = ({ d with mem := m } : Dev).emit .writeDone ∧ m.bytes i.addr 64 = bs ∧
      ∀ b, ¬(d.mem.locate i.addr ≤ d.mem.locate b ∧ d.mem.locate b < d.mem.locate i.addr + 64) → m.byte b = d.mem.byte b := by
  obtain ⟨k, same, write, -⟩ := Dev.writeAtom_clean bs (i.request bs).req.source.who filled symbols
  obtain ⟨-, others⟩ := Mem.byte_putAtom same (a := i.addr) (bs := bs) (by omega)
  have ready : d.needsFill (i.request bs).req = false := by simp [Dev.needsFill, Ingress.request, filled]
  have served : d.serve (i.request bs).req none false = d.writeAtom i.addr bs (i.request bs).req.source.who := Dev.serve_writes none admits rfl
  refine ⟨k.putBytes i.addr bs, ?_, ?_, fun b apart => others b fun j hj => ?_⟩
  · refine (if_neg (by simp [Ingress.request, free])).trans ((if_neg (by simp [ready])).trans ?_)
    exact congrArg (Dev.emit · .writeDone) (served.trans write)
  · have fits : i.addr % 65536 + bs.length ≤ 65536 := by omega
    rw [← whole]
    exact Mem.bytes_putBytes fits
  · rw [Mem.locate_add (by omega)]
    omega

/-! ## Host-class reads -/

theorem Dev.hostRead_fails {d : Dev} {path : HostPath} {a n : Nat} {i : Ingress} (arrives : d.ingress path a n = some i)
    (fails : d.ingressCheck i n false ≠ 0) :
    d.hostRead path a n = (d.ingressFail i (d.ingressCheck i n false)).readFails path (d.ingressCheck i n false) n := by
  unfold Dev.hostRead
  rw [arrives]
  exact if_pos fails

/-- How a failed read ends (R420). -/
theorem Dev.readFails_spec (d : Dev) (path : HostPath) (row n : Nat) :
    ∃ o, d.readFails path row n = d.emit o ∧ (row = 4 → o = .readData (List.replicate n 0) true) ∧ (row = 2 → o = .unsupported) ∧
      (row = 1 ∨ row = 3 → path = .mem → o = .readData (List.replicate n 0) true) ∧ (row = 1 ∨ row = 3 → path ≠ .mem → o = .unsupported) := by
  unfold Dev.readFails
  dsimp only
  split
  · exact ⟨_, rfl, by simp⟩
  · exact ⟨_, rfl, by simp⟩
  · rename_i notFour notTwo
    exact ⟨_, rfl, by simp_all⟩
  · rename_i notFour notTwo notMem
    refine ⟨_, rfl, fun h => absurd h notFour, fun _ => rfl, fun _ h => absurd h ?_, fun _ _ => rfl⟩
    exact fun h => notMem h

/-- Atoms stay aligned where an access goes (R364). -/
theorem Mem.locate_mod_atom (m : Mem) (k : Nat) : m.locate (64 * k) % 64 = 0 := by
  unfold Mem.locate
  dsimp only
  split
  · unfold frameAddr; omega
  · omega

/-- A read within an atom of a frame that holds data, without symbol errors, is one read of that atom. -/
theorem Dev.hostAtoms_one {d : Dev} {a n : Nat} (seat : Nat) (some : n ≠ 0) (fits : a % 64 + n ≤ 64)
    (filled : (d.mem.frame (stackOf a) (frameOf a)).zero = false) (symbols : d.mem.upsets.get [] (d.mem.locate a / 64) = []) :
    d.hostAtoms seat a n =
      (if d.mem.isPoison a then d.readPoison (a / 64 * 64) { seat := seat, host := true } else d,
        slice (d.mem.bytes (a / 64 * 64) 64) (a % 64) n, d.mem.isPoison a) := by
  have stack : stackOf (64 * (a / 64)) = stackOf a := by unfold stackOf; omega
  have frame : frameOf (64 * (a / 64)) = frameOf a := by unfold frameOf offsetOf; omega
  have base : 64 * (a / 64) / 64 * 64 = a / 64 * 64 := by omega
  have split : a = 64 * (a / 64) + a % 64 := by omega
  have place : d.mem.locate a = d.mem.locate (64 * (a / 64)) + a % 64 := by
    conv => lhs; rw [split]
    exact Mem.locate_add (by omega)
  have located : d.mem.locate (64 * (a / 64)) / 64 = d.mem.locate a / 64 := by
    have aligned := d.mem.locate_mod_atom (a / 64)
    omega
  have poison : d.mem.isPoison (64 * (a / 64)) = d.mem.isPoison a := by unfold Mem.isPoison; rw [located]
  have one : ceilDiv (a % 64 + n) 64 = 1 := by unfold ceilDiv; omega
  have filled' : (d.mem.frame (stackOf (64 * (a / 64))) (frameOf (64 * (a / 64)))).zero = false := by rw [stack, frame]; exact filled
  have read : d.readAtom (64 * (a / 64)) none { seat := seat, host := true } =
      (if d.mem.isPoison a then d.readPoison (a / 64 * 64) { seat := seat, host := true } else d, d.mem.bytes (a / 64 * 64) 64,
        d.mem.isPoison a, false) := by
    cases pure : d.mem.isPoison a with
    | true => rw [Dev.readAtom_poison none _ filled' (poison.trans pure), base]; rfl
    | false => rw [Dev.readAtom_clean none _ filled' (poison.trans pure) (by rw [located]; exact symbols), base]; rfl
  have any : ((List.replicate 64 (d.mem.isPoison a)).drop (a % 64)).take n = List.replicate n (d.mem.isPoison a) := by
    rw [List.drop_replicate, List.take_replicate]
    congr 1
    omega
  have bytes : slice ((d.mem.bytes (a / 64 * 64) 64).drop (a % 64)) 0 n = slice (d.mem.bytes (a / 64 * 64) 64) (a % 64) n := rfl
  unfold Dev.hostAtoms Dev.readRange
  rw [one]
  simp only [List.range_one, List.foldl_cons, List.foldl_nil, Nat.add_zero, read, List.nil_append, any, bytes]
  obtain ⟨k, rfl⟩ := Nat.exists_eq_succ_of_ne_zero some
  simp [List.replicate_succ]

/-- The device after a host-class read of poison is counted (R421). -/
def Dev.hostPoison (d : Dev) : Dev := ({ d with glb := { d.glb with poisonReads := satInc32 d.glb.poisonReads 1 } } : Dev).setLeaf .host 3

theorem Dev.hostRead_atom {d : Dev} {path : HostPath} {a n : Nat} {i : Ingress} (arrives : d.ingress path a n = some i)
    (passes : d.ingressCheck i n false = 0) (some : n ≠ 0) (fits : i.addr % 64 + n ≤ 64) (free : d.blocked i.addr = false)
    (filled : (d.mem.frame (stackOf i.addr) (frameOf i.addr)).zero = false) (symbols : d.mem.upsets.get [] (d.mem.locate i.addr / 64) = []) :
    ∃ e : Dev, e.mem.cells = d.mem.cells ∧ e.out = d.out ∧ e.glb = d.glb ∧
      d.hostRead path a n = (if d.mem.isPoison i.addr then e.hostPoison else e).emit
        (.readData (slice (d.mem.bytes (i.addr / 64 * 64) 64) (i.addr % 64) n) (d.mem.isPoison i.addr)) := by
  have piece : atomsOf i.addr n = [(i.addr, n)] := by
    have one : ceilDiv (i.addr + n) 64 - i.addr / 64 = 1 := by unfold ceilDiv; omega
    have start : max i.addr (i.addr / 64 * 64) = i.addr := by omega
    have stop : min (i.addr + n) ((i.addr / 64 + 1) * 64) - i.addr = n := by omega
    unfold atomsOf
    rw [one]
    simp [start, stop]
  have held : d.ingressHeld i n = false := by simp [Dev.ingressHeld, piece, free]
  refine ⟨(d.hostAtoms ((i.window.map (·.context)).getD 0 / 16) i.addr n).1, ?_, ?_, ?_, ?_⟩
  · rw [Dev.hostAtoms_one _ some fits filled symbols]; dsimp only; split <;> rfl
  · rw [Dev.hostAtoms_one _ some fits filled symbols]; dsimp only; split <;> rfl
  · rw [Dev.hostAtoms_one _ some fits filled symbols]; dsimp only; split <;> rfl
  · unfold Dev.hostRead
    rw [arrives]
    dsimp only
    rw [if_neg (not_not_intro passes), held, Dev.hostAtoms_one _ some fits filled symbols]
    rfl

/-! ## Host loss (R434 to R437) -/

theorem Dev.loseRing_rest (d : Dev) (r : Nat) : d.loseRing r = { d with
    rings := (d.updRing r fun g => { g with state := .hostLost }).rings, ringInfo := r, leaves := (d.loseRing r).leaves, recent := (d.loseRing r).recent } := by
  obtain ⟨-, -, -, -, -, rest⟩ := Dev.ringLeaf_spec (d.updRing r fun g => { g with state := .hostLost }) r 3
  exact rest

/-- An operation that a host loss event ends. -/
def Place.lost (q : Place) : Place := { q.fail .hostLost with unsent := [], unsentMsgs := [] }

@[simp] theorem Place.lost_id (q : Place) : q.lost.id = q.id := rfl
@[simp] theorem Place.lost_lost (q : Place) : q.lost.lost = q.lost := rfl

/-- What a host loss event leaves of the device: the scoreboard, rings and leaves apart, everything. -/
structure Dev.LosesHost (d e : Dev) (ids : List Nat) : Prop where
  rest : ∃ r i l c, e = { d with board := d.board.map (fun q => if q.id ∈ ids then q.lost else q), rings := r, ringInfo := i, leaves := l, recent := c }

theorem Dev.loseHost_rest (d : Dev) (p : Place) : d.loseHost p = { d with
    board := d.board.map (fun q => if q.id = p.id then q.lost else q), rings := (d.updRing p.ring fun g => { g with state := .hostLost }).rings,
    ringInfo := p.ring, leaves := (d.loseHost p).leaves, recent := (d.loseHost p).recent } :=
  Dev.loseRing_rest (d.updPlace p.id Place.lost) p.ring

theorem Dev.losesHost_step {d e : Dev} {ids : List Nat} (h : d.LosesHost e ids) (p : Place) : d.LosesHost (e.loseHost p) (p.id :: ids) := by
  obtain ⟨r, i, l, c, rest⟩ := h.rest
  have board : (d.board.map fun q => if q.id ∈ ids then q.lost else q).map (fun q => if q.id = p.id then q.lost else q) =
      d.board.map fun q => if q.id ∈ p.id :: ids then q.lost else q := by
    rw [List.map_map]
    refine List.map_congr_left fun q _ => ?_
    rw [Function.comp_apply]
    by_cases among : q.id ∈ ids
    · rw [if_pos among, if_pos (List.mem_cons_of_mem _ among), Place.lost_lost, ite_self]
    · rw [if_neg among]
      exact if_congr (by simp [among]) rfl rfl
  refine ⟨(e.updRing p.ring fun g => { g with state := .hostLost }).rings, p.ring, (e.loseHost p).leaves, (e.loseHost p).recent, ?_⟩
  rw [← board]
  refine (Dev.loseHost_rest e p).trans ?_
  generalize (e.updRing p.ring fun g => { g with state := .hostLost }).rings = r', (e.loseHost p).leaves = l', (e.loseHost p).recent = c'
  rw [rest]

theorem Dev.losesHost_foldl (l : List Place) {d e : Dev} {ids : List Nat} (h : d.LosesHost e ids) :
    d.LosesHost (l.foldl Dev.loseHost e) (l.reverse.map (·.id) ++ ids) := by
  induction l generalizing e ids with
  | nil => exact h
  | cons p l ih => simpa using ih (Dev.losesHost_step h p)

theorem Dev.loseOps_spec (d : Dev) : d.LosesHost d.loseOps ((d.board.filter Place.meetsHost).reverse.map (·.id)) := by
  have start : d.LosesHost d [] := ⟨⟨d.rings, d.ringInfo, d.leaves, d.recent, by simp⟩⟩
  have all := Dev.losesHost_foldl (d.board.filter Place.meetsHost) start
  rw [List.append_nil] at all
  exact all

/-- No operation of the scoreboard still meets the host. -/
theorem Dev.LosesHost.none_left {d e : Dev} (h : d.LosesHost e ((d.board.filter Place.meetsHost).reverse.map (·.id))) {q : Place} (on : q ∈ e.board) :
    (q.status = .hostLost ∧ q.phase = .finished) ∨ q.meetsHost = false := by
  obtain ⟨r, i, l, c, rfl⟩ := h.rest
  obtain ⟨p, hp, rfl⟩ := List.mem_map.1 on
  split
  · exact .inl ⟨rfl, rfl⟩
  · rename_i apart
    refine .inr (Bool.eq_false_iff.2 fun meets => apart ?_)
    exact List.mem_map.2 ⟨p, List.mem_reverse.2 (List.mem_filter.2 ⟨hp, meets⟩), rfl⟩

/-- A condition that a change of every function brings about holds of each one changed, and of each one that had it. -/
theorem SMap.foldl_upd {α : Type} [DecidableEq α] {d : α} {f : α → α} {Q : α → Prop} (hf : ∀ x, Q (f x)) (k : Nat) (l : List Nat) (m : SMap α)
    (h : k ∈ l ∨ Q (m.get d k)) : Q ((l.foldl (fun m i => SMap.upd d m i f) m).get d k) := by
  induction l generalizing m with
  | nil => exact h.resolve_left List.not_mem_nil
  | cons i l ih =>
    rw [List.foldl_cons]
    refine ih _ ?_
    rw [SMap.get_upd]
    by_cases same : k = i
    · rw [if_pos same]; exact .inr (hf _)
    · rw [if_neg same]
      exact h.imp (fun member => (List.mem_cons.1 member).resolve_left same) id

/-- A function can neither send messages nor be a bus master. -/
def FnCfg.silent (f : FnCfg) : Prop := f.msixEnable = false ∧ f.busMaster = false

theorem Glb.lose_silent (g : Glb) {k : Nat} (h : k ≤ 64) : (g.lose.fns.get {} k).silent := by
  have among : k ∈ List.range 65 := List.mem_range.2 (by omega)
  unfold Glb.lose
  dsimp only
  generalize List.range 65 = l at among
  exact SMap.foldl_upd (Q := FnCfg.silent) (fun _ => ⟨rfl, rfl⟩) k l g.fns (.inl among)

theorem Glb.portReset_silent (g : Glb) {k : Nat} (h : k ≤ 64) : (g.portReset.fns.get {} k).silent := by
  have among : k ∈ List.range 65 := List.mem_range.2 (by omega)
  unfold Glb.portReset
  dsimp only
  generalize List.range 65 = l at among
  exact SMap.foldl_upd (Q := FnCfg.silent) (fun _ => ⟨rfl, rfl⟩) k l g.fns (.inl among)

theorem Glb.linkDown_fns (g : Glb) : g.linkDown.fns = g.fns := rfl

/-- The link's own registers leave those of the functions. -/
theorem Glb.silent_linkDown (g : Glb) (k : Nat) (h : k ≤ 64) : (g.lose.linkDown.fns.get {} k).silent := by
  rw [Glb.linkDown_fns]
  exact g.lose_silent h

/-! ### What the host loss does beyond the device's own part -/

/-- A layout copy, a pack copy and an update that a host loss event breaks off leave leaves, and a pending swap's stop, of the device. -/
structure State.Marks (s t : State) : Prop where
  dev : ∃ l r w, t.dev = { s.dev with leaves := l, recent := r, swapStop := w }
  leaf : ∀ q b, (s.dev.leaf q).testBit b = true → (t.dev.leaf q).testBit b = true

theorem State.Marks.refl (s : State) : s.Marks s := ⟨⟨_, _, _, rfl⟩, fun _ _ h => h⟩

theorem State.Marks.trans {s t u : State} (h : s.Marks t) (g : t.Marks u) : s.Marks u := by
  obtain ⟨l, r, w, e⟩ := h.dev
  obtain ⟨l', r', w', e'⟩ := g.dev
  exact ⟨⟨l', r', w', by rw [e', e]⟩, fun q b on => g.leaf q b (h.leaf q b on)⟩

/-- A layout copy under way is refused (R435). -/
def State.loseLayout (s : State) : State := if s.lay.shadow = .loading then s.refuseLayout 1 0 0 true else s

/-- A pack copy under way is refused (R435). -/
def State.losePack (s : State) : State :=
  if s.tst.state = .loading then ({ s with tst := { s.tst with state := .refused, code := 1, section_ := 0, entry := 0 } } : State).setLeaf .tst 0 else s

/-- An update's copy under way fails (R435). -/
def State.loseUpdate (s : State) : State :=
  if s.mgt.state = .staging then ({ s with mgt := { s.mgt with state := .failed, error := 1 } } : State).setLeaf .mgt 1 else s

theorem State.loseLayout_marks (s : State) : s.Marks s.loseLayout := by
  unfold State.loseLayout
  split
  · exact ⟨⟨_, _, _, rfl⟩, fun q b h => Dev.testBit_leaf_setLeaf_mono _ _ h⟩
  · exact .refl s

theorem State.losePack_marks (s : State) : s.Marks s.losePack := by
  unfold State.losePack
  split
  · exact ⟨⟨_, _, _, rfl⟩, fun q b h => Dev.testBit_leaf_setLeaf_mono _ _ h⟩
  · exact .refl s

theorem State.loseUpdate_marks (s : State) : s.Marks s.loseUpdate := by
  unfold State.loseUpdate
  split
  · exact ⟨⟨_, _, _, rfl⟩, fun q b h => Dev.testBit_leaf_setLeaf_mono _ _ h⟩
  · exact .refl s

theorem State.losePack_lay (s : State) : s.losePack.lay = s.lay := by unfold State.losePack; split <;> rfl
theorem State.losePack_mgt (s : State) : s.losePack.mgt = s.mgt := by unfold State.losePack; split <;> rfl
theorem State.loseLayout_mgt (s : State) : s.loseLayout.mgt = s.mgt := by unfold State.loseLayout; split <;> rfl
theorem State.loseUpdate_lay (s : State) : s.loseUpdate.lay = s.lay := by unfold State.loseUpdate; split <;> rfl

/-- The state once the device has lost its host. -/
def State.losesHost (s : State) (f : Glb → Glb) : State :=
  { s with dev := (({ s.dev with glb := f s.dev.glb.lose } : Dev).loseOps).setLeaf .host 1 }

theorem State.hostLoss_eq (s : State) (f : Glb → Glb) : s.hostLoss f = (s.losesHost f).loseLayout.losePack.loseUpdate := rfl

/-- What a host loss event leaves (R434, R435, R437). -/
theorem State.hostLoss_spec (s : State) (f : Glb → Glb) :
    (s.hostLoss f).dev.glb = f s.dev.glb.lose ∧ (s.hostLoss f).dev.mem = s.dev.mem ∧ (s.hostLoss f).dev.seats = s.dev.seats ∧
      (s.hostLoss f).dev.trk = s.dev.trk ∧ ((s.hostLoss f).dev.leaf .host).testBit 1 = true ∧
      (∀ q ∈ (s.hostLoss f).dev.board, (q.status = .hostLost ∧ q.phase = .finished) ∨ q.meetsHost = false) ∧
      (s.lay.shadow = .loading → (s.hostLoss f).lay.shadow = .refused ∧ (s.hostLoss f).lay.code = 1) ∧
      (s.mgt.state = .staging → (s.hostLoss f).mgt.state = .failed ∧ (s.hostLoss f).mgt.error = 1) := by
  have ops := ({ s.dev with glb := f s.dev.glb.lose } : Dev).loseOps_spec
  have ended := fun q => ops.none_left (q := q)
  obtain ⟨r, i, l, c, lost⟩ := ops.rest
  have leaf : (((s.losesHost f).dev.leaf .host).testBit 1) = true := Dev.testBit_leaf_setLeaf _ _ _
  have dev : ∃ l' c', (s.losesHost f).dev = { ({ s.dev with glb := f s.dev.glb.lose } : Dev).loseOps with leaves := l', recent := c' } := ⟨_, _, rfl⟩
  obtain ⟨l', c', dev⟩ := dev
  have marks := ((s.losesHost f).loseLayout_marks.trans (State.losePack_marks _)).trans (State.loseUpdate_marks _)
  obtain ⟨l'', c'', w, e⟩ := marks.dev
  rw [State.hostLoss_eq]
  refine ⟨?_, ?_, ?_, ?_, marks.leaf _ _ leaf, fun q on => ?_, fun loading => ?_, fun staging => ?_⟩
  · rw [e, dev, lost]
  · rw [e, dev, lost]
  · rw [e, dev, lost]
  · rw [e, dev, lost]
  · rw [e, dev] at on
    exact ended q on
  · rw [State.loseUpdate_lay, State.losePack_lay]
    have run : (s.losesHost f).loseLayout = (s.losesHost f).refuseLayout 1 0 0 true := if_pos loading
    rw [run]
    exact ⟨rfl, rfl⟩
  · have still : (s.losesHost f).loseLayout.losePack.mgt.state = .staging := by
      rw [State.losePack_mgt, State.loseLayout_mgt]
      exact staging
    have run : (s.losesHost f).loseLayout.losePack.loseUpdate = _ := if_pos still
    rw [run]
    exact ⟨rfl, rfl⟩

/-- Which registers of the link a host loss event resets with its command. -/
def lossResets (c : Instr) (f : Glb → Glb) : Prop :=
  (c ≠ .pfFlr ∧ ((f = fun g => g.linkDown.portReset) ∨ f = Glb.linkDown)) ∨ (c = .pfFlr ∧ f = Glb.portReset)

theorem exec_hostLoss (s : State) {c : Instr} (command : (c = .perstAssert ∧ s.pwr.boot ≠ .off) ∨
    (s.dev.glb.dlUp = true ∧ (c = .hotReset ∨ c = .pfFlr ∨ c = .dataLinkDown))) : ∃ f, exec c s = .next (s.hostLoss f) ∧ lossResets c f := by
  rcases command with ⟨rfl, on⟩ | ⟨up, rfl | rfl | rfl⟩
  · exact ⟨_, congrArg Host.Outcome.next (if_pos (by simpa [State.d0On] using on)), .inl ⟨nofun, .inl rfl⟩⟩
  · exact ⟨_, congrArg Host.Outcome.next (if_pos up), .inl ⟨nofun, .inl rfl⟩⟩
  · exact ⟨_, congrArg Host.Outcome.next (if_pos up), .inr ⟨rfl, rfl⟩⟩
  · exact ⟨_, congrArg Host.Outcome.next (if_pos up), .inl ⟨nofun, .inr rfl⟩⟩

/-- What every host loss event makes of the link's registers; a function-level reset leaves the link up (R434, R435). -/
theorem Glb.loses_spec (g : Glb) {c : Instr} {f : Glb → Glb} (kinds : lossResets c f) :
    ((f g.lose).committed = false ∧ (f g.lose).vfEnable = false ∧ (f g.lose).lossCount = satInc32 g.lossCount 1 ∧
      (f g.lose).windows = g.windows ∧ (f g.lose).aperture = g.aperture) ∧
    (∀ k, k ≤ 64 → ((f g.lose).fns.get {} k).msixEnable = false ∧ ((f g.lose).fns.get {} k).busMaster = false) ∧
    (c ≠ .pfFlr → (f g.lose).dlUp = false ∧ (f g.lose).hostLost = true ∧ (f g.lose).speed = 0) ∧
    (c = .pfFlr → (f g.lose).dlUp = g.dlUp ∧ (f g.lose).hostLost = g.hostLost) := by
  rcases kinds with ⟨other, rfl | rfl⟩ | ⟨rfl, rfl⟩
  · exact ⟨⟨rfl, rfl, rfl, rfl, rfl⟩, fun k h => g.lose.linkDown.portReset_silent h, fun _ => ⟨rfl, rfl, rfl⟩, fun h => absurd h other⟩
  · exact ⟨⟨rfl, rfl, rfl, rfl, rfl⟩, g.silent_linkDown, fun _ => ⟨rfl, rfl, rfl⟩, fun h => absurd h other⟩
  · exact ⟨⟨rfl, rfl, rfl, rfl, rfl⟩, fun k h => g.lose.portReset_silent h, fun h => absurd rfl h, fun _ => ⟨rfl, rfl⟩⟩

/-- Settles O58: a window, an access and a host loss event are each read case by case, as the link brings them. -/
theorem hostAccess : Obligations.HostAccess := by
  unfold Obligations.HostAccess
  refine ⟨?window, fun d w ok => Dev.windowOk_passes ok, ?check, ?write, ?read, ?trained, ?commit, ?loss, ?up⟩
  case window =>
    rintro s w v d ready rfl
    obtain ⟨window, others, mem, leaves⟩ := s.dev.writeWindow_spec w v
    refine ⟨fun off ok => ?_, fun off bad => ?_, ⟨_, exec_windowDisable ready, ?_⟩⟩
    · refine ⟨_, exec_windowEnable_taken ready off ok, ?_⟩
      dsimp only
      rw [Dev.window_updWindow_same, window]
      refine ⟨rfl, rfl, ?_, ?_, leaves off, fun j ne => (Dev.window_updWindow_other _ _ ne).trans (others j ne)⟩
      · simp [Window.written, off, bitsAt, Nat.shiftRight_eq_div_pow]
      · simp [Window.written, bitsAt, Nat.shiftRight_eq_div_pow]
    · refine ⟨_, exec_windowEnable_refused ready off bad, ?_, Dev.testBit_leaf_setLeaf _ _ _⟩
      exact (congrArg Window.enable window).trans off
    · dsimp only
      rw [Dev.window_updWindow_same, window]
      exact ⟨rfl, mem, fun j ne => (Dev.window_updWindow_other _ _ ne).trans (others j ne), fun on => if_pos on⟩
  case check =>
    refine fun d i n wr => ⟨⟨fun one => ?_, Dev.ingressCheck_none n wr⟩, fun w window => ?_⟩
    · cases window : i.window with
      | none => rfl
      | some w => exact absurd one (Dev.ingressCheck_window n wr window).1
    · exact (Dev.ingressCheck_window n wr window).2.2
  case write =>
    rintro s path a row bs i some arrives rfl
    have run : exec (.hostClassWrite path a bs) s = .next { s with dev := s.dev.hostWrite path a bs } :=
      congrArg Host.Outcome.next (if_neg (by simpa using some))
    refine ⟨fun fails => ?_, fun passes whole aligned inside free filled symbols => ?_, fun passes whole aligned inside free zero => ?_⟩
    · obtain ⟨mem, out, kind, addr, faults, leaf⟩ := s.dev.ingressFail_spec i (s.dev.ingressCheck i bs.length true)
      refine ⟨_, run, ?_⟩
      dsimp only
      rw [Dev.hostWrite_fails arrives fails]
      refine ⟨mem, congrArg₂ (· ++ ·) out ?_, kind, addr, faults, leaf⟩
      cases path <;> rfl
    · have admits := Dev.ingress_admits passes (p := (i.addr, 64)) (by rw [whole, atomsOf_whole aligned]; exact List.mem_singleton.2 rfl)
      obtain ⟨m, write, bytes, others⟩ := Dev.take_writes whole aligned free admits filled symbols
      refine ⟨_, run, ?_⟩
      dsimp only
      rw [Dev.hostWrite_atom arrives passes whole aligned free, write]
      exact ⟨bytes, rfl, rfl, others⟩
    · have admits := Dev.ingress_admits passes (p := (i.addr, 64)) (by rw [whole, atomsOf_whole aligned]; exact List.mem_singleton.2 rfl)
      have fills : s.dev.needsFill (i.request bs).req = true := by
        simp only [Dev.needsFill, Ingress.request, Option.isSome_some, Bool.true_and, Bool.and_eq_true]
        exact ⟨admits, zero⟩
      obtain ⟨-, filling, cells, rest⟩ := Dev.take_fills_spec (h := i.request bs) free fills
      refine ⟨_, run, ?_⟩
      dsimp only
      rw [Dev.hostWrite_atom arrives passes whole aligned free]
      exact ⟨by rw [rest], cells, filling⟩
  case read =>
    rintro s path a n row i some arrives rfl
    have run : exec (.hostClassRead path a n) s = .next { s with dev := s.dev.hostRead path a n } := congrArg Host.Outcome.next (if_neg some)
    refine ⟨fun fails => ?_, fun passes fits free filled symbols => ?_⟩
    · obtain ⟨mem, out, -⟩ := s.dev.ingressFail_spec i (s.dev.ingressCheck i n false)
      obtain ⟨o, ends, kinds⟩ := (s.dev.ingressFail i (s.dev.ingressCheck i n false)).readFails_spec path (s.dev.ingressCheck i n false) n
      refine ⟨_, o, run, ?_⟩
      dsimp only
      rw [Dev.hostRead_fails arrives fails, ends]
      exact ⟨mem, congrArg (· ++ _) out, kinds⟩
    · obtain ⟨e, cells, out, glb, read⟩ := Dev.hostRead_atom arrives passes some fits free filled symbols
      refine ⟨_, run, ?_⟩
      dsimp only
      rw [read]
      cases s.dev.mem.isPoison i.addr with
      | false => exact ⟨cells, congrArg (· ++ _) out, nofun⟩
      | true => exact ⟨cells, congrArg (· ++ _) out, fun _ => ⟨Dev.testBit_leaf_setLeaf _ _ _, congrArg (fun g : Glb => satInc32 g.poisonReads 1) glb⟩⟩
  case trained =>
    intro s speed width f c boot
    refine ⟨_, congrArg Host.Outcome.next (if_pos boot), ?_⟩
    dsimp only
    split
    · rename_i mem
      have both : c = true ∧ 5 ≤ speed := by simpa using mem
      exact ⟨rfl, fun slow => slow.elim (fun h => absurd both.1 (by simp [h])) (absurd both.2 ∘ Nat.not_le.2), fun _ _ => rfl⟩
    · rename_i mem
      exact ⟨rfl, fun _ => Dev.testBit_leaf_setLeaf _ _ _, fun h h' => absurd (by simp [h, h']) mem⟩
  case commit =>
    intro s a ready up mem
    exact ⟨_, congrArg Host.Outcome.next (if_pos (by simp [ready, up, mem])), rfl, rfl⟩
  case loss =>
    intro s c command
    obtain ⟨f, run, kinds⟩ := exec_hostLoss s command
    obtain ⟨glb, mem, seats, trk, leaf, ended, layout, update⟩ := s.hostLoss_spec f
    obtain ⟨⟨committed, vfEnable, lossCount, windows, aperture⟩, silent, down, up⟩ := Glb.loses_spec s.dev.glb kinds
    refine ⟨_, run, ?_⟩
    dsimp only [Dev.fn]
    rw [glb]
    refine ⟨committed, vfEnable, lossCount, silent, leaf, down, up, mem, windows, aperture, seats, trk, fun q on egress phase => ?_,
      fun q on read => ?_, layout, update⟩
    · refine (ended q on).elim (·.1) fun apart => absurd apart ?_
      rcases phase with h | h <;> simp [Place.meetsHost, egress, h]
    · refine (ended q on).elim (fun h => by rw [h.2]; decide) fun apart running => absurd apart ?_
      simp [Place.meetsHost, read, running]
  case up =>
    exact fun s => ⟨fun up => ⟨_, congrArg Host.Outcome.next (if_pos up), rfl, rfl⟩, fun down => congrArg Host.Outcome.next (if_neg (by simp [down]))⟩

end Sys2Proof.Machine
end

section
/-! SUPPORT. Seat commands, saves and restores, slices, seat resets and the handoff scrub (R371 to R373, R391 to R406, R571). -/

namespace Sys2Proof.Machine

/-! ## A seat or a context changed -/

theorem Dev.seat_updSeat_same (d : Dev) (n : Nat) (f : Seat → Seat) : (d.updSeat n f).seat n = f (d.seat n) :=
  (Dev.seat_updSeat d n n f).trans (if_pos rfl)

theorem Dev.seat_updSeat_other (d : Dev) {n m : Nat} (f : Seat → Seat) (h : m ≠ n) : (d.updSeat n f).seat m = d.seat m :=
  (Dev.seat_updSeat d n m f).trans (if_neg h)

theorem Dev.ctx_updCtx_same (d : Dev) (x : Nat) (f : Ctx → Ctx) : (d.updCtx x f).ctx x = f (d.ctx x) :=
  (Dev.ctx_updCtx d x x f).trans (if_pos rfl)

/-! ## The slot of a save segment (R398 to R401) -/

/-- The seats' registers of moving core state, which no memory work changes. -/
def Seat.moves (k : Seat) : Option (Nat × Bool) × Bool × Option Nat × Option Nat × Option Nat := (k.moving, k.checking, k.loaded, k.next, k.expired)

theorem Dev.WorkOnly.moves {d e : Dev} (h : d.WorkOnly e) (n : Nat) : (e.seat n).moves = (d.seat n).moves := by
  obtain ⟨r, c, k, s, a, seat⟩ := h.seat n
  rw [seat]
  rfl

theorem Dev.WorkOnly.saveCount {d e : Dev} (h : d.WorkOnly e) (x : Nat) : (e.ctx x).saveCount = (d.ctx x).saveCount ∧ (e.ctx x).save = (d.ctx x).save := by
  obtain ⟨r, w, m, n, ctx⟩ := h.ctx x
  rw [ctx]
  exact ⟨rfl, rfl⟩

theorem Dev.WorkOnly.slow {d e : Dev} (h : d.WorkOnly e) : e.slow = d.slow := by
  obtain ⟨m, l, r, x, s, c, k, g, q, same⟩ := h.rest
  rw [same]

/-- Reading a slot is memory work. -/
theorem Dev.WorkOnly.readSlot (d : Dev) (n c : Nat) : d.WorkOnly (d.readSlot n c).1 := by
  unfold Dev.readSlot
  refine List.foldlRecOn (motive := fun q : Dev × List SlotRecord => d.WorkOnly q.1) _ _ (.refl d) fun q hq p _ => ?_
  exact (hq.trans (Dev.MemOnly.readRange _ _ _ _).work).trans (.transferRange _ _ _ _ _)

/-- Each record of a slot is that of one core of the seat, in order. -/
theorem Dev.readSlot_cores (d : Dev) (n c : Nat) : (d.readSlot n c).2.map (·.core) = d.seatCores n := by
  have fold (l : List (Nat × Nat)) (q : Dev × List SlotRecord) : (l.foldl (fun q p =>
      let a := q.1.recordBase n c p.2
      let r := q.1.readRange { host := true } a saveBytes
      (r.1.transferRange (d.slotAgent n c) false a saveBytes, q.2 ++ [(⟨p.1, p.2, r.2.1, r.2.2⟩ : SlotRecord)])) q).2.map (·.core) =
      q.2.map (·.core) ++ l.map (·.1) := by
    induction l generalizing q with
    | nil => simp
    | cons p l ih => rw [List.foldl_cons, ih]; simp
  refine (fold _ _).trans ?_
  simp [List.zipIdx_map_fst]

theorem Dev.MemOnly.writeRange (w : Who) : ∀ (fuel a : Nat) (bs : List Byte) {d e : Dev}, d.MemOnly e → d.MemOnly (e.writeRange w fuel a bs)
  | 0, _, _, _, _, h => h
  | fuel + 1, a, bs, d, e, h => by
    unfold Dev.writeRange
    split
    · exact h
    · exact Dev.MemOnly.writeRange w fuel _ _ (h.writeAtom _ _ _)

theorem Dev.WorkOnly.saveRecord (n c count : Nat) (d : Dev) (p : Nat × Nat) : d.WorkOnly (d.saveRecord n c count p) := by
  unfold Dev.saveRecord Dev.writeInternal
  exact ((Dev.MemOnly.writeRange _ _ _ _ (.refl d)).setMem _).work.trans (.transferRange _ _ _ _ _)

/-- The device once the records of a slot are written. -/
def Dev.slotWritten (d : Dev) (n c : Nat) : Dev := (d.seatCores n).zipIdx.foldl (Dev.saveRecord n c ((d.ctx (16 * n + c)).saveCount + 1)) d

theorem Dev.WorkOnly.slotWritten (d : Dev) (n c : Nat) : d.WorkOnly (d.slotWritten n c) :=
  Dev.WorkOnly.foldl (fun d p => .saveRecord n c _ d p) _ _

theorem Dev.saveSlot_eq (d : Dev) (n c : Nat) :
    d.saveSlot n c = (d.slotWritten n c).updCtx (16 * n + c) fun k => { k with saveCount := (d.ctx (16 * n + c)).saveCount + 1, save := .saved } := rfl

/-! ## SEAT_CMD (R402) -/

theorem Dev.refuseRestore_spec (d : Dev) (n c : Nat) :
    ((d.refuseRestore n c).ctx (16 * n + c)).save = .incomplete ∧ ((d.refuseRestore n c).leaf (.seat n)).testBit 2 = true ∧
      (d.refuseRestore n c).mem = d.mem ∧ (d.refuseRestore n c).cores = d.cores := by
  refine ⟨?_, Dev.testBit_leaf_setLeaf_mono _ _ (Dev.testBit_leaf_setLeaf _ _ _), rfl, rfl⟩
  exact congrArg Ctx.save (d.ctx_updCtx_same (16 * n + c) fun k => { k with save := .incomplete })

/-- A check of a slot marks the context, and loads nothing (R402). -/
theorem Dev.checkSlot_spec (d : Dev) (n c : Nat) :
    (d.checkSlot n c).mem = (d.readSlot n c).1.mem ∧ (d.checkSlot n c).cores = d.cores ∧
      ((d.checkSlot n c).ctx (16 * n + c)).save = (if d.slotOk n c then .saved else .incomplete) ∧
      (d.slotOk n c = false → ((d.checkSlot n c).leaf (.seat n)).testBit 2 = true) := by
  have cores := (Dev.WorkOnly.readSlot d n c).cores
  cases ok : d.slotOk n c with
  | true =>
    have run : d.checkSlot n c = (d.readSlot n c).1.updCtx (16 * n + c) fun k => { k with save := .saved } := if_pos ok
    rw [run]
    refine ⟨rfl, cores, ?_, nofun⟩
    exact congrArg Ctx.save ((d.readSlot n c).1.ctx_updCtx_same (16 * n + c) fun k => { k with save := .saved })
  | false =>
    have run : d.checkSlot n c = (d.readSlot n c).1.refuseRestore n c := if_neg (by simp [ok])
    obtain ⟨save, leaf, mem, kept⟩ := (d.readSlot n c).1.refuseRestore_spec n c
    rw [run]
    exact ⟨mem, kept.trans cores, save, fun _ => leaf⟩

section
variable {s : State} {n x : Nat} (ready : s.ready = true)
include ready

/-- A command that R402 does not let through only sets BAD_COMMAND. -/
theorem exec_seatCmd_bad {c : Instr} (command : c = .seatSave n x ∨ c = .seatRestore n x ∨ c = .seatResetContext n x)
    (bad : s.dev.seatCmdOk n x = false ∨ (c = .seatSave n x ∧ s.dev.shared n = true)) : exec c s = .next (s.badSeatCmd n) := by
  rcases command with rfl | rfl | rfl
  · have either : (!s.dev.seatCmdOk n x || s.dev.shared n) = true := by
      rcases bad with no | ⟨-, shared⟩
      · simp [no]
      · simp [shared]
    exact congrArg Host.Outcome.next ((if_neg (by simp [ready])).trans (if_pos either))
  · have no : s.dev.seatCmdOk n x = false := bad.elim id fun h => by cases h.1
    exact congrArg Host.Outcome.next ((if_neg (by simp [ready])).trans (if_pos (by simp [no])))
  · have no : s.dev.seatCmdOk n x = false := bad.elim id fun h => by cases h.1
    exact congrArg Host.Outcome.next ((if_neg (by simp [ready])).trans (if_pos (by simp [no])))

variable (ok : s.dev.seatCmdOk n x = true)
include ok

theorem exec_seatSave_taken (dedicated : s.dev.shared n = false) :
    exec (.seatSave n x) s = .next { s with dev :=
      (s.dev.updSeat n fun k => { k with moving := some (x, false) }).updCtx (16 * n + x) fun k => { k with save := .saving } } :=
  congrArg Host.Outcome.next ((if_neg (by simp [ready])).trans (if_neg (by simp [ok, dedicated])))

theorem exec_seatRestore_checks (shared : s.dev.shared n = true) (free : s.dev.slotBlocked n x = false) :
    exec (.seatRestore n x) s = .next { s with dev := s.dev.checkSlot n x } := by
  refine congrArg Host.Outcome.next ((if_neg (by simp [ready])).trans ((if_neg (by simp [ok])).trans (if_pos ?_)))
  simp [shared, free]

theorem exec_seatRestore_moves (waits : s.dev.shared n = false ∨ s.dev.slotBlocked n x = true) :
    exec (.seatRestore n x) s = .next { s with dev := s.dev.updSeat n fun k => { k with moving := some (x, true), checking := s.dev.shared n } } := by
  refine congrArg Host.Outcome.next ((if_neg (by simp [ready])).trans ((if_neg (by simp [ok])).trans (if_neg ?_)))
  rcases waits with h | h <;> simp [h]

theorem exec_seatResetContext_taken :
    exec (.seatResetContext n x) s = .next { s with dev := s.dev.updCtx (16 * n + x) fun k => { k with save := .none } } :=
  congrArg Host.Outcome.next ((if_neg (by simp [ready])).trans (if_neg (by simp [ok])))

end

/-! ## Save records (R398, R399) -/

theorem CrcKind.byte_lt {r : Nat} (h : r < 2 ^ 32) (b : Byte) : (crcKind 0).byte r b < 2 ^ 32 := by
  have start : r ^^^ b.toNat < 2 ^ 32 := Nat.xor_lt_two_pow h (lt_of_lt_of_le b.isLt (by decide))
  have step (x : Nat) (hx : x < 2 ^ 32) : (if x % 2 = 1 then x / 2 ^^^ 0x82F63B78 else x / 2) < 2 ^ 32 := by
    split
    · exact Nat.xor_lt_two_pow (lt_of_le_of_lt (Nat.div_le_self _ _) hx) (by decide)
    · exact lt_of_le_of_lt (Nat.div_le_self _ _) hx
  have repeated (k x : Nat) (hx : x < 2 ^ 32) : iter (fun r => if r % 2 = 1 then r / 2 ^^^ 0x82F63B78 else r / 2) k x < 2 ^ 32 := by
    induction k generalizing x with
    | zero => exact hx
    | succ k ih => exact ih _ (step x hx)
  exact repeated 8 _ start

/-- A check value of 32 bits fits its 4 bytes. -/
theorem crc32c_lt (fold : Nat) (bs : List Byte) : crc32c fold bs < 2 ^ 32 := by
  have start : (crcKind 0).init 0xFFFFFFFF fold < 2 ^ 32 := Nat.mod_lt _ (by decide)
  have ran : (crcKind 0).run ((crcKind 0).init 0xFFFFFFFF fold) bs < 2 ^ 32 :=
    List.foldlRecOn (motive := fun r => r < 2 ^ 32) bs _ start fun r hr b _ => CrcKind.byte_lt hr b
  exact Nat.xor_lt_two_pow ran (by decide)

/-- A record up to its CHECK (R399). -/
def sealedBody (body : List Byte) (n x j clusters count : Nat) : List Byte :=
  body ++ leBytes 4 0x45564153 ++ leBytes 1 n ++ leBytes 1 x ++ leBytes 2 0 ++ leBytes 4 j ++ leBytes 4 clusters ++ leBytes 8 count ++ List.replicate 36 0

theorem sealRecord_eq (body : List Byte) (n x j clusters count : Nat) :
    sealRecord body n x j clusters count =
      sealedBody body n x j clusters count ++ leBytes 4 (crc32c 0 (sealedBody body n x j clusters count)) := rfl

section
variable {body : List Byte} (size : body.length = 0x10FC0) (n x j clusters count : Nat)
include size

theorem length_sealedBody : (sealedBody body n x j clusters count).length = 0x10FFC := by
  simp [sealedBody, length_leBytes, size]

/-- A field of a sealed record, whatever its CHECK is. -/
theorem field_sealed (check : List Byte) :
    field (sealedBody body n x j clusters count ++ check) 0x10FC0 4 = 0x45564153 ∧
    field (sealedBody body n x j clusters count ++ check) 0x10FC4 1 = n % 256 ∧
    field (sealedBody body n x j clusters count ++ check) 0x10FC5 1 = x % 256 ∧
    field (sealedBody body n x j clusters count ++ check) 0x10FC8 4 = j % 2 ^ 32 ∧
    field (sealedBody body n x j clusters count ++ check) 0x10FCC 4 = clusters % 2 ^ 32 ∧
    field (sealedBody body n x j clusters count ++ check) 0x10FD0 8 = count % 2 ^ 64 := by
  have magic := field_append (pre := body) (off := 0x10FC0) size 4 0x45564153
    (leBytes 1 n ++ leBytes 1 x ++ leBytes 2 0 ++ leBytes 4 j ++ leBytes 4 clusters ++ leBytes 8 count ++ List.replicate 36 0 ++ check)
  have seat := field_append (pre := body ++ leBytes 4 0x45564153) (off := 0x10FC4) (by simp [length_leBytes, size]) 1 n
    (leBytes 1 x ++ leBytes 2 0 ++ leBytes 4 j ++ leBytes 4 clusters ++ leBytes 8 count ++ List.replicate 36 0 ++ check)
  have ctx := field_append (pre := body ++ leBytes 4 0x45564153 ++ leBytes 1 n) (off := 0x10FC5) (by simp [length_leBytes, size]) 1 x
    (leBytes 2 0 ++ leBytes 4 j ++ leBytes 4 clusters ++ leBytes 8 count ++ List.replicate 36 0 ++ check)
  have index := field_append (pre := body ++ leBytes 4 0x45564153 ++ leBytes 1 n ++ leBytes 1 x ++ leBytes 2 0) (off := 0x10FC8)
    (by simp [length_leBytes, size]) 4 j (leBytes 4 clusters ++ leBytes 8 count ++ List.replicate 36 0 ++ check)
  have groups := field_append (pre := body ++ leBytes 4 0x45564153 ++ leBytes 1 n ++ leBytes 1 x ++ leBytes 2 0 ++ leBytes 4 j) (off := 0x10FCC)
    (by simp [length_leBytes, size]) 4 clusters (leBytes 8 count ++ List.replicate 36 0 ++ check)
  have counted := field_append (pre := body ++ leBytes 4 0x45564153 ++ leBytes 1 n ++ leBytes 1 x ++ leBytes 2 0 ++ leBytes 4 j ++ leBytes 4 clusters)
    (off := 0x10FD0) (by simp [length_leBytes, size]) 8 count (List.replicate 36 0 ++ check)
  simp only [List.append_assoc] at magic seat ctx index groups counted
  simp only [sealedBody, List.append_assoc]
  exact ⟨magic, seat, ctx, index, groups, counted⟩

/-- A record that a save seals passes the check of a restore (R399, R401). -/
theorem sealRecord_ok (hn : n < 256) (hx : x < 256) (hj : j < 2 ^ 32) (hc : clusters < 2 ^ 32) :
    trailerOk (sealRecord body n x j clusters count) n x j clusters = true := by
  obtain ⟨magic, seat, ctx, index, groups, -⟩ := field_sealed size n x j clusters count (leBytes 4 (crc32c 0 (sealedBody body n x j clusters count)))
  have length := length_sealedBody size n x j clusters count
  have check := field_append (pre := sealedBody body n x j clusters count) (off := 0x10FFC) length 4
    (crc32c 0 (sealedBody body n x j clusters count)) []
  have prefix_ : slice (sealedBody body n x j clusters count ++ leBytes 4 (crc32c 0 (sealedBody body n x j clusters count))) 0 0x10FFC =
      sealedBody body n x j clusters count := by
    unfold slice
    dsimp only
    rw [List.drop_zero, List.take_append_of_le_length (by rw [length]), List.take_of_length_le (by rw [length]), length]
    simp
  rw [sealRecord_eq, trailerOk, prefix_]
  rw [List.append_nil] at check
  refine decide_eq_true ⟨magic, ?_, ?_, ?_, ?_, ?_⟩
  · rw [seat, Nat.mod_eq_of_lt hn]
  · rw [ctx, Nat.mod_eq_of_lt hx]
  · rw [index, Nat.mod_eq_of_lt hj]
  · rw [groups, Nat.mod_eq_of_lt hc]
  · rw [check]
    exact Nat.mod_eq_of_lt (crc32c_lt _ _)

theorem sealRecord_rest : field (sealRecord body n x j clusters count) 0x10FD0 8 = count % 2 ^ 64 ∧
    slice (sealRecord body n x j clusters count) 0 0x10FC0 = body ∧ (sealRecord body n x j clusters count).length = 0x11000 := by
  obtain ⟨-, -, -, -, -, counted⟩ := field_sealed size n x j clusters count (leBytes 4 (crc32c 0 (sealedBody body n x j clusters count)))
  have length := length_sealedBody size n x j clusters count
  rw [sealRecord_eq]
  refine ⟨counted, ?_, by rw [List.length_append, length, length_leBytes]⟩
  generalize leBytes 4 (crc32c 0 (sealedBody body n x j clusters count)) = check
  unfold slice sealedBody
  simp only [List.append_assoc]
  rw [List.drop_zero, List.take_append_of_le_length (by rw [size]), List.take_of_length_le (by rw [size]), size]
  simp

end

end Sys2Proof.Machine
end

section
/-! SUPPORT. A seat reset and the handoff scrub that follows it (R372, R402, R404 to R406, R571). -/

namespace Sys2Proof.Machine

/-! ## A seat reset (R405) -/

theorem Dev.seatRings_nodup (d : Dev) (n : Nat) : (d.seatRings n).Nodup := by
  have indices (l : List RingRec) : ((l.zipIdx.map fun p => (p.2, p.1)).map Prod.fst).Nodup := by
    have same : (l.zipIdx.map fun p => (p.2, p.1)).map Prod.fst = List.range' 0 l.length := by
      rw [List.map_map]
      exact List.zipIdx_map_snd 0 l
    rw [same]
    exact List.nodup_range'
  exact (indices _).sublist ((List.filter_sublist.trans List.filter_sublist).map _)

/-- Rings start empty one after the other. -/
def Dev.emptyRings (d : Dev) (l : List Nat) : Dev := l.foldl (fun d r => d.updRing r fun g => g.startEmpty .running) d

theorem Dev.emptyRings_rest (d : Dev) (l : List Nat) : d.emptyRings l = { d with rings := (d.emptyRings l).rings } :=
  List.foldlRecOn (motive := fun e : Dev => e = { d with rings := e.rings }) l _ rfl fun e he r _ => by
    conv => lhs; rw [he]
    rfl

theorem Dev.ring_emptyRings (d : Dev) {l : List Nat} (once : l.Nodup) (r : Nat) :
    (d.emptyRings l).ring r = if r ∈ l then (d.ring r).startEmpty .running else d.ring r := by
  induction l generalizing d with
  | nil => rfl
  | cons a l ih =>
    obtain ⟨fresh, once⟩ := List.nodup_cons.1 once
    have step : d.emptyRings (a :: l) = (d.updRing a fun g => g.startEmpty .running).emptyRings l := rfl
    rw [step, ih _ once, Dev.ring_updRing]
    by_cases this : r = a
    · subst this
      simp [fresh]
    · simp [this]

/-- Tricks that end change the coordinator and a leaf only. -/
theorem Dev.endTricks_rest (d : Dev) (n : Nat) : ∃ t l c, d.endTricks n = { d with trk := t, leaves := l, recent := c } ∧
    ∀ k ∈ t.tricks, k.seat = n → k.state ≠ .open_ ∧ k.state ≠ .commit := by
  unfold Dev.endTricks
  extract_lets decided gone lost ids tricks old trk e
  have ended : ∀ k ∈ tricks, k.seat = n → k.state ≠ .open_ ∧ k.state ≠ .commit := by
    intro k listed seat
    obtain ⟨t, member, rfl⟩ := List.mem_map.1 listed
    obtain ⟨on, stays⟩ := List.mem_filter.1 member
    have state : (if t.seat = n then ({ t with handleInUse := false, commit := none } : Trick) else t).state = t.state := by split <;> rfl
    have own : t.seat = n := by
      split at seat
      · assumption
      · exact seat
    have notGone : t ∉ gone := fun h => by
      have among : ids.contains t.entry = true := List.contains_iff_mem.2 (List.mem_map.2 ⟨t, h, rfl⟩)
      rw [among] at stays
      cases stays
    rw [state]
    refine ⟨fun h => notGone (List.mem_filter.2 ⟨on, ?_⟩), fun h => notGone (List.mem_filter.2 ⟨on, ?_⟩)⟩ <;> simp [own, h]
  split
  · exact ⟨trk, d.leaves, d.recent, rfl, ended⟩
  · exact ⟨trk, (e.setLeaf .trk 3).leaves, (e.setLeaf .trk 3).recent, rfl, ended⟩

/-- The seat stops and loses what its core state was doing. -/
def Dev.stopSeat (d : Dev) (n : Nat) : Dev :=
  d.updSeat n fun k => { k with state := .resetting, moving := none, checking := false, loaded := none, next := none, expired := none }

/-- Its operations are cancelled. -/
def Dev.cancelSeat (d : Dev) (n : Nat) : Dev := { d.dropCharges (d.chargeOf n) with board := d.board.filterMap (d.resetPlace n) }

theorem Dev.resetSeat_serving {d : Dev} {n : Nat} (serves : (d.seat n).serves = true) :
    d.resetSeat n = (((d.stopSeat n).cancelSeat n).emptyRings (d.seatRings n)).endTricks n := if_neg (by simp [serves])

theorem Dev.resetSeat_other {d : Dev} {n : Nat} (serves : (d.seat n).serves = false) : d.resetSeat n = d := if_pos (by simp [serves])

theorem Seat.serves_iff (k : Seat) : k.serves = true ↔ k.state = .inService ∨ k.state = .fenced := by simp [Seat.serves]

/-- What a seat reset leaves of each operation (R203, R405). -/
theorem Dev.mem_cancelled {d : Dev} {n : Nat} {p : Place} (on : p ∈ d.board.filterMap (d.resetPlace n)) (own : p.seat = n) :
    p.op.opcode = 0x22 ∧ p.cancelled = true ∧ p.phase = .finished ∧ p.prefetch ≠ [] ∧ ∀ e ∈ p.prefetch, d.reg.waits (.row p.id e.1) = false := by
  obtain ⟨q, -, became⟩ := List.mem_filterMap.1 on
  unfold Dev.resetPlace at became
  split_ifs at became with other prefetch
  · cases became; exact absurd own other
  · cases became
    refine ⟨prefetch.1, rfl, rfl, prefetch.2, fun e listed => ?_⟩
    have issued := (List.mem_filter.1 listed).2
    rw [Bool.not_eq_true'] at issued
    exact issued

theorem Dev.mem_uncancelled {d : Dev} {n : Nat} {p : Place} (other : p.seat ≠ n) : p ∈ d.board.filterMap (d.resetPlace n) ↔ p ∈ d.board := by
  rw [List.mem_filterMap]
  constructor
  · rintro ⟨q, member, became⟩
    unfold Dev.resetPlace at became
    split_ifs at became with foreign prefetch
    · cases became; exact member
    · cases became; exact absurd (not_not.1 foreign) other
  · exact fun member => ⟨p, member, if_pos other⟩

/-- A seat reset: its operations, its rings, its tricks; everything of other seats, and memory, stay. -/
theorem Dev.resetSeat_spec {d : Dev} {n : Nat} (serves : (d.seat n).serves = true) :
    ((d.resetSeat n).seat n).state = .resetting ∧ (d.resetSeat n).board = d.board.filterMap (d.resetPlace n) ∧
      (∀ r, (d.resetSeat n).ring r = if r ∈ d.seatRings n then (d.ring r).startEmpty .running else d.ring r) ∧
      (∀ k ∈ (d.resetSeat n).trk.tricks, k.seat = n → k.state ≠ .open_ ∧ k.state ≠ .commit) ∧ (d.resetSeat n).mem = d.mem ∧
      (d.resetSeat n).out = d.out ∧ (d.resetSeat n).glb = d.glb ∧ ∀ m, m ≠ n → (d.resetSeat n).seat m = d.seat m := by
  rw [Dev.resetSeat_serving serves]
  obtain ⟨t, l, c, run, tricks⟩ := (((d.stopSeat n).cancelSeat n).emptyRings (d.seatRings n)).endTricks_rest n
  have rings := fun r => Dev.ring_emptyRings ((d.stopSeat n).cancelSeat n) (d.seatRings_nodup n) r
  have rest := Dev.emptyRings_rest ((d.stopSeat n).cancelSeat n) (d.seatRings n)
  generalize ((d.stopSeat n).cancelSeat n).emptyRings (d.seatRings n) = e at run rings rest
  rw [run]
  have seat : ∀ m, e.seat m = (d.stopSeat n).seat m := fun m => by rw [rest]; rfl
  refine ⟨?_, ?_, rings, tricks, ?_, ?_, ?_, fun m other => ?_⟩
  · refine (congrArg Seat.state (seat n)).trans ?_
    rw [Dev.stopSeat, Dev.seat_updSeat_same]
  · dsimp only
    rw [rest]
    rfl
  · dsimp only
    rw [rest]
    rfl
  · dsimp only
    rw [rest]
    rfl
  · dsimp only
    rw [rest]
    rfl
  · exact (seat m).trans (Dev.seat_updSeat_other _ _ other)

/-- SEAT_RESET of a seat in service (R404). -/
theorem exec_seatReset (s : State) (n : Nat) (ready : s.ready = true) : exec (.seatReset n) s = .next { s with dev := s.dev.resetSeat n } :=
  congrArg Host.Outcome.next (if_pos ready)

/-- The VF's PCIe state after a function-level reset. -/
def Dev.resetFn (d : Dev) (n : Nat) : Dev := d.updFn (n + 1) fun f =>
  { f with msixEnable := false, fnMask := false, busMaster := false, addr := 0, data := 0, masked := true, pending := false }

theorem exec_vfFlr {s : State} {n : Nat} (ready : s.ready = true) (enabled : s.dev.glb.vfEnable = true) :
    exec (.vfFlr n) s = .next { s with dev := (s.dev.resetFn n).resetSeat n } := congrArg Host.Outcome.next (if_pos (by simp [ready, enabled]))

theorem Dev.fn_resetFn (d : Dev) (n : Nat) : ((d.resetFn n).fn (n + 1)).busMaster = false ∧ ((d.resetFn n).fn (n + 1)).msixEnable = false ∧
    ((d.resetFn n).fn (n + 1)).masked = true := by
  rw [Dev.resetFn, Dev.fn_updFn, if_pos rfl]
  exact ⟨rfl, rfl, rfl⟩

theorem Dev.glb_resetSeat (d : Dev) (n : Nat) : (d.resetSeat n).glb = d.glb := by
  cases serves : (d.seat n).serves with
  | true => exact (Dev.resetSeat_spec serves).2.2.2.2.2.2.1
  | false => rw [Dev.resetSeat_other serves]

/-! ## The scrub starts (R372, R571) -/

theorem Dev.leaf_zeroLeaf (d : Dev) (r q : LeafReg) : (d.zeroLeaf r).leaf q = if q.key = r.key then 0 else d.leaf q := by
  have put : SMap.get 0 (SMap.put 0 d.leaves r.key 0) q.key = if q.key = r.key then 0 else SMap.get 0 d.leaves q.key := SMap.get_put _
  exact put

theorem Dev.startScrub_spec (d : Dev) (n : Nat) :
    ((d.startScrub n).seat n).state = .scrubbing ∧ ((d.startScrub n).seat n).handoffs = (d.seat n).handoffs + 1 ∧
      (d.startScrub n).leaf (.vfRing n) = 0 ∧ (d.startScrub n).leaf (.vfSeg n) = 0 ∧ ((d.startScrub n).fn (n + 1)).first = none ∧
      ((d.startScrub n).fn (n + 1)).armed = true ∧ ((d.startScrub n).fn (n + 1)).pending = false ∧ (d.startScrub n).mem = d.mem := by
  let e := [LeafReg.vfRing n, .vfSeg n, .vfArith n, .vfChk n].foldl Dev.zeroLeaf d
  let f := e.updFn (n + 1) fun f => { f with first := none, armed := true, pending := false }
  have run : d.startScrub n = f.updSeat n fun k => { k with state := .scrubbing, handoffs := k.handoffs + 1 } := rfl
  have fn : f.fn (n + 1) = { e.fn (n + 1) with first := none, armed := true, pending := false } := (Dev.fn_updFn _ _ _ _).trans (if_pos rfl)
  have leaf (q : LeafReg) : f.leaf q = e.leaf q := rfl
  rw [run, Dev.seat_updSeat_same]
  refine ⟨rfl, rfl, (leaf _).trans ?_, (leaf _).trans ?_, congrArg FnCfg.first fn, congrArg FnCfg.armed fn, congrArg FnCfg.pending fn, rfl⟩
  · simp [e, Dev.leaf_zeroLeaf]
  · simp [e, Dev.leaf_zeroLeaf]

theorem exec_seatDrained {s : State} {n : Nat} (resetting : (s.dev.seat n).state = .resetting) (idle : s.dev.seatBusy n = false) :
    exec (.seatDrained n) s = .next { s with dev := s.dev.startScrub n } := congrArg Host.Outcome.next (if_pos ⟨resetting, idle⟩)

theorem exec_seatDrained_other {s : State} {n : Nat} (other : (s.dev.seat n).state ≠ .resetting ∨ s.dev.seatBusy n = true) :
    exec (.seatDrained n) s = .next s := by
  refine congrArg Host.Outcome.next (if_neg ?_)
  rintro ⟨resetting, idle⟩
  rcases other with h | h
  · exact h resetting
  · rw [h] at idle; cases idle

/-! ## The scrub (R406) -/

/-- A frame of a stack is ZERO_PENDING. -/
def Mem.pends (m : Mem) (x f : Nat) : Prop := (m.frame x f).zero = true

theorem Mem.pends_iff {m : Mem} {x f : Nat} : m.pends x f ↔ ((m.stack x).frames.get {} f).zero = true := Iff.rfl

theorem Mem.zeroFrame_pends (m : Mem) (x f : Nat) : (m.zeroFrame x f).pends x f := by
  rw [Mem.pends_iff]
  unfold Mem.zeroFrame
  simp [Mem.stack, Mem.updStack, SMap.get_put, SMap.get_upd]

/-- A frame that is ZERO_PENDING stays so through a change of frames that makes none hold data. -/
theorem Mem.pends_updFrame {m : Mem} {x f : Nat} (h : m.pends x f) (y g : Nat) {u : Frame → Frame} (hu : ∀ e, e.zero = true → (u e).zero = true) :
    (m.updStack y fun k => { k with frames := SMap.upd {} k.frames g u }).pends x f := by
  rw [Mem.pends_iff] at h ⊢
  rw [Mem.stack_updStack]
  by_cases stack : x = y
  · subst stack
    rw [if_pos rfl, SMap.get_upd]
    by_cases frame : f = g
    · subst frame; rw [if_pos rfl]; exact hu _ h
    · rw [if_neg frame]; exact h
  · rw [if_neg stack]; exact h

/-- A frame that is ZERO_PENDING stays so while others become so. -/
theorem Mem.pends_zeroFrame {m : Mem} {x f : Nat} (h : m.pends x f) (y g : Nat) : (m.zeroFrame y g).pends x f := by
  have dropped : (m.dropRange (m.locate (frameAddr y g)) 65536).pends x f := h
  have found := Mem.pends_updFrame dropped (stackOf (m.locate (frameAddr y g))) (frameOf (m.locate (frameAddr y g))) (u := fun e => { e with lost := 0 })
    fun _ h => h
  exact Mem.pends_updFrame found y g (u := fun e => { e with zero := true }) fun _ _ => rfl

theorem Mem.pends_foldl {m : Mem} {x f : Nat} (h : m.pends x f) (y : Nat) (l : List Nat) : (l.foldl (fun m g => m.zeroFrame y g) m).pends x f :=
  List.foldlRecOn (motive := fun m : Mem => m.pends x f) l _ h fun _ hm g _ => Mem.pends_zeroFrame hm y g

/-- A key that is not listed has the default. -/
theorem SMap.get_of_not_mem {α : Type} {d : α} {k : Nat} : ∀ {m : SMap α}, k ∉ List.map (·.1) m → SMap.get d m k = d
  | [], _ => rfl
  | (j, v) :: m, h => by
    have apart : j ≠ k := fun same => h (by simp [same])
    refine (if_neg apart).trans (get_of_not_mem fun listed => h ?_)
    exact List.mem_cons_of_mem _ listed

/-- Frames of a range that hold nothing are ZERO_PENDING as they are; zeroing makes the others so. -/
theorem Mem.pends_zeroFrames (m : Mem) (x first count : Nat) {f : Nat} (low : first ≤ f) (high : f < first + count) :
    (m.zeroFrames x first count).pends x f := by
  have reach (l : List Nat) (m : Mem) (h : f ∈ l ∨ m.pends x f) : (l.foldl (fun m g => m.zeroFrame x g) m).pends x f := by
    induction l generalizing m with
    | nil => exact h.resolve_left List.not_mem_nil
    | cons g l ih =>
      rcases h with listed | pends
      · rcases List.mem_cons.1 listed with rfl | later
        · exact Mem.pends_foldl (m.zeroFrame_pends x f) x l
        · exact ih _ (.inl later)
      · exact ih _ (.inr (Mem.pends_zeroFrame pends x g))
  refine reach _ m ?_
  by_cases listed : f ∈ (m.stack x).frames.map (·.1)
  · refine .inl ?_
    unfold Mem.usedFrames
    dsimp only
    refine List.mem_eraseDups.2 (List.mem_filter.2 ⟨?_, by simp [low, high]⟩)
    exact List.mem_append_left _ (List.mem_append_left _ listed)
  · refine .inr ?_
    rw [Mem.pends_iff, SMap.get_of_not_mem listed]

/-- What the scrub of a seat leaves to the other seats: cores, lines and fences, and every frame that is ZERO_PENDING. -/
structure Dev.Scrubs (d e : Dev) : Prop where
  cores : e.cores = d.cores
  cache : e.cache = d.cache
  chk : e.chk = d.chk
  layout : e.layout = d.layout
  pends : ∀ x f, d.mem.pends x f → e.mem.pends x f

theorem Dev.Scrubs.refl (d : Dev) : d.Scrubs d := ⟨rfl, rfl, rfl, rfl, fun _ _ h => h⟩

theorem Dev.Scrubs.trans {a b c : Dev} (h : a.Scrubs b) (g : b.Scrubs c) : a.Scrubs c :=
  ⟨g.cores.trans h.cores, g.cache.trans h.cache, g.chk.trans h.chk, g.layout.trans h.layout, fun x f p => g.pends x f (h.pends x f p)⟩

theorem Dev.Scrubs.foldl {α : Type} {f : Dev → α → Dev} (step : ∀ (d : Dev) (x : α), d.Scrubs (f d x)) (l : List α) (d : Dev) :
    d.Scrubs (l.foldl f d) := List.foldlRecOn (motive := fun e : Dev => d.Scrubs e) l _ (.refl d) fun e h x _ => h.trans (step e x)

theorem Dev.dropCover_scrubs (d : Dev) (x : Nat) (c : Cover) : d.Scrubs (d.dropCover x c) := by
  refine ⟨rfl, rfl, rfl, rfl, fun y f h => ?_⟩
  rw [Mem.pends_iff] at h ⊢
  have stack : (d.dropCover x c).mem.stack y = if y = x then { d.mem.stack x with covers := (d.mem.stack x).covers.erase c } else d.mem.stack y :=
    Mem.stack_updStack _ _ _ _
  rw [stack]
  split
  · rename_i same; rw [same] at h; exact h
  · exact h

theorem Dev.closeSeg_scrubs (d : Dev) (x i : Nat) : d.Scrubs (d.closeSeg x i) := by
  unfold Dev.closeSeg
  dsimp only
  split
  · exact (d.dropCover_scrubs _ _).trans ⟨rfl, rfl, rfl, rfl, fun _ _ h => h⟩
  · exact .refl d

theorem Dev.uncover_scrubs (d : Dev) (x : Nat) (c : Cover) : d.Scrubs (d.uncover x c) :=
  ⟨rfl, rfl, rfl, rfl, fun _ _ h => Mem.pends_foldl h _ _⟩

theorem Dev.closeSegs_scrubs (d : Dev) (x : Nat) : d.Scrubs (d.closeSegs x) := by
  unfold Dev.closeSegs
  refine Dev.Scrubs.foldl (fun e i => ?_) _ _
  dsimp only
  split
  · exact (e.closeSeg_scrubs x i).trans (Dev.uncover_scrubs _ _ _)
  · exact .refl e

theorem Dev.closeWindows_scrubs (d : Dev) (p : Nat → Bool) : d.Scrubs (d.closeWindows p) := ⟨rfl, rfl, rfl, rfl, fun _ _ h => h⟩

theorem Dev.freshCtx_scrubs (d : Dev) (x : Nat) : d.Scrubs (d.freshCtx x) := ⟨rfl, rfl, rfl, rfl, fun _ _ h => h⟩

theorem Dev.updSeat_scrubs (d : Dev) (n : Nat) (f : Seat → Seat) : d.Scrubs (d.updSeat n f) := ⟨rfl, rfl, rfl, rfl, fun _ _ h => h⟩

/-- A context as a scrub leaves it: its meters count on. -/
def Ctx.fresh (c : Ctx) : Prop := c = { meter := c.meter }

theorem Dev.fresh_freshCtxs (d : Dev) {l : List Nat} {x : Nat} (listed : x ∈ l) : ((l.foldl Dev.freshCtx d).ctx x).fresh := by
  have step (e : Dev) (y : Nat) (h : (e.ctx x).fresh ∨ x = y) : ((e.freshCtx y).ctx x).fresh := by
    have ctx : (e.freshCtx y).ctx x = if x = y then { meter := (e.ctx y).meter } else e.ctx x := Dev.ctx_updCtx _ _ _ _
    rw [ctx]
    split
    · rfl
    · rename_i other; exact h.resolve_right other
  have keeps (l : List Nat) (e : Dev) (h : (e.ctx x).fresh) : ((l.foldl Dev.freshCtx e).ctx x).fresh :=
    List.foldlRecOn (motive := fun e : Dev => (e.ctx x).fresh) l _ h fun e he y _ => step e y (.inl he)
  induction l generalizing d with
  | nil => exact absurd listed List.not_mem_nil
  | cons y l ih =>
    rcases List.mem_cons.1 listed with rfl | later
    · exact keeps l _ (step d x (.inr rfl))
    · exact ih _ later

/-- What a scrub clears of a seat (R406). -/
def Seat.cleared (k : Seat) : Seat :=
  { k with mailbox := [], notify := 0, graphs := [], graphCount := [], loaded := none, next := none, expired := none, moving := none,
           checking := false, logLatch := none }

theorem Dev.scrubSeat_spec (d : Dev) (n : Nat) : d.Scrubs (d.scrubSeat n) ∧ (∃ k : Seat, (d.scrubSeat n).seat n = k.cleared) ∧
    ∀ c, c < 16 → ((d.scrubSeat n).ctx (16 * n + c)).fresh := by
  unfold Dev.scrubSeat
  extract_lets xs closed windows fresh cleared
  have closed_ : d.Scrubs closed := Dev.Scrubs.foldl Dev.closeSegs_scrubs xs d
  have windows_ : closed.Scrubs windows := Dev.closeWindows_scrubs _ _
  have fresh_ : windows.Scrubs fresh := Dev.Scrubs.foldl Dev.freshCtx_scrubs xs windows
  have among (c : Nat) (hc : c < 16) : 16 * n + c ∈ xs := List.mem_map_of_mem (List.mem_range.2 hc)
  have contexts (c : Nat) (hc : c < 16) : (fresh.ctx (16 * n + c)).fresh := Dev.fresh_freshCtxs windows (l := xs) (among c hc)
  have same (l : List Nat) (e : Dev) : e.Scrubs (l.foldl (fun d r => d.updRing r fun g => { g with exc := {}, crushed := 0, widened := 0, clamped := 0 }) e) := by
    refine Dev.Scrubs.foldl (fun e x => ?_) l e
    exact ⟨rfl, rfl, rfl, rfl, fun _ _ h => h⟩
  have kept (l : List Nat) (e : Dev) :
      (l.foldl (fun d r => d.updRing r fun g => { g with exc := {}, crushed := 0, widened := 0, clamped := 0 }) e).ctxs = e.ctxs := by
    refine foldl_leaves Dev.ctxs (fun _ _ => ?_) l e
    rfl
  have cleared_ : fresh.Scrubs cleared := same _ _
  have ctxs : cleared.ctxs = fresh.ctxs := kept _ _
  clear_value cleared fresh windows closed
  refine ⟨((closed_.trans windows_).trans fresh_).trans (cleared_.trans (Dev.updSeat_scrubs _ _ _)),
    ⟨cleared.seat n, Dev.seat_updSeat_same cleared n Seat.cleared⟩, fun c hc => ?_⟩
  have ctx : (cleared.updSeat n Seat.cleared).ctx (16 * n + c) = fresh.ctx (16 * n + c) := congrArg (fun m : SMap Ctx => SMap.get {} m (16 * n + c)) ctxs
  exact ctx ▸ contexts c hc

theorem Dev.core_zeroClusters (d : Dev) {l : List Nat} {j : Nat} (listed : j / 64 ∈ l) : (d.zeroClusters l).core j = {} := by
  have filtered : SMap.get {} (d.cores.filter fun p => !l.contains (p.1 / 64)) j = _ := SMap.get_filter (fun k => !l.contains (k / 64)) d.cores
  refine filtered.trans (if_neg ?_)
  simp [listed]

/-- The device once cores, lines and the save segment of a seat are clear. -/
def Dev.seatCleared (d : Dev) (n : Nat) : Dev := ((d.zeroClusters (d.clustersOf n)).dropLines fun l => tagSeat l.tag == n).zeroSave (d.seatRec n)

theorem Dev.seatCleared_spec (d : Dev) (n : Nat) :
    (d.seatCleared n).cores = (d.zeroClusters (d.clustersOf n)).cores ∧
      (d.seatCleared n).cache = (d.dropLines fun l => tagSeat l.tag == n).cache ∧ (d.seatCleared n).chk = d.chk ∧
      (d.seatCleared n).layout = d.layout ∧ ((d.seatRec n).kind ≠ 0 → ∀ f, frameOf (d.seatRec n).saveBase ≤ f →
        f < frameOf (d.seatRec n).saveBase + (d.seatRec n).saveLength / 65536 → (d.seatCleared n).mem.pends (stackOf (d.seatRec n).saveBase) f) := by
  unfold Dev.seatCleared Dev.zeroSave
  split
  · rename_i unused
    exact ⟨rfl, rfl, rfl, rfl, fun used => absurd unused used⟩
  · exact ⟨rfl, rfl, rfl, rfl, fun _ f low high => Mem.pends_zeroFrames _ _ _ _ low high⟩

/-- The state of a seat after its scrub (R372). -/
def Dev.scrubbedState (d : Dev) (n : Nat) : SeatState :=
  if (d.seatRec n).kind = 0 then .unused else if d.seatFenced n then .fenced else .inService

theorem Dev.seatFenced_of {d e : Dev} (layout : e.layout = d.layout) (chk : e.chk = d.chk) (n : Nat) : e.seatFenced n = d.seatFenced n := by
  unfold Dev.seatFenced Dev.clustersOf Dev.clusterFenced
  rw [layout, chk]

/-- The device after a scrub. -/
def Dev.scrubbed (d : Dev) (n : Nat) : Dev :=
  (((d.seatCleared n).scrubSeat n).updSeat n fun k => { k with state := d.scrubbedState n, leaving := false }).setLeaf (.seat n) 4

theorem Dev.scrubSeat_layout (d : Dev) (n : Nat) : ((d.seatCleared n).scrubSeat n).layout = d.layout :=
  ((d.seatCleared n).scrubSeat_spec n).1.layout.trans (d.seatCleared_spec n).2.2.2.1

theorem Dev.seatFenced_scrubSeat (d : Dev) (n : Nat) : ((d.seatCleared n).scrubSeat n).seatFenced n = d.seatFenced n :=
  Dev.seatFenced_of (d.scrubSeat_layout n) (((d.seatCleared n).scrubSeat_spec n).1.chk.trans (d.seatCleared_spec n).2.2.1) n

theorem ite_kind {α : Type} (k : Nat) (a b : α) : (if !(k != 0) then a else b) = if k = 0 then a else b := by
  by_cases h : k = 0 <;> simp [h]

theorem exec_scrubDone {s : State} {n : Nat} (scrubbing : (s.dev.seat n).state = .scrubbing) :
    exec (.scrubDone n) s = .next (if s.dev.scrubbedState n = .fenced then
      ({ s with dev := s.dev.scrubbed n, lay := { s.lay with fencedSeats := s.lay.fencedSeats ||| 2 ^ n } } : State).setLeaf .lay 4
      else { s with dev := s.dev.scrubbed n }) := by
  refine congrArg Host.Outcome.next ((if_neg (not_not_intro scrubbing)).trans ?_)
  have seat : ((s.dev.seatCleared n).scrubSeat n).seatRec n = s.dev.seatRec n := Dev.seatRec_of_layout (s.dev.scrubSeat_layout n) n
  have state : (if !((((s.dev.seatCleared n).scrubSeat n).seatRec n).kind != 0) then SeatState.unused
      else if ((s.dev.seatCleared n).scrubSeat n).seatFenced n then .fenced else .inService) = s.dev.scrubbedState n := by
    rw [seat, s.dev.seatFenced_scrubSeat n, ite_kind, Dev.scrubbedState]
  rw [Dev.scrubbed, ← state]
  rfl

/-- What a scrub leaves of the device (R406). -/
theorem Dev.scrubbed_spec (d : Dev) (n : Nat) :
    ((d.scrubbed n).seat n).state = d.scrubbedState n ∧ (∃ k : Seat, (d.scrubbed n).seat n = { k.cleared with state := d.scrubbedState n, leaving := false }) ∧
      (∀ c, c < 16 → ((d.scrubbed n).ctx (16 * n + c)).fresh) ∧ (d.scrubbed n).cores = (d.zeroClusters (d.clustersOf n)).cores ∧
      (d.scrubbed n).cache = (d.dropLines fun l => tagSeat l.tag == n).cache ∧
      ((d.seatRec n).kind ≠ 0 → ∀ f, frameOf (d.seatRec n).saveBase ≤ f → f < frameOf (d.seatRec n).saveBase + (d.seatRec n).saveLength / 65536 →
        (d.scrubbed n).mem.pends (stackOf (d.seatRec n).saveBase) f) := by
  obtain ⟨cores, cache, _, _, pends⟩ := d.seatCleared_spec n
  obtain ⟨scrubs, ⟨k, seat⟩, fresh⟩ := (d.seatCleared n).scrubSeat_spec n
  unfold Dev.scrubbed
  generalize d.scrubbedState n = st
  generalize (d.seatCleared n).scrubSeat n = e at *
  have after : ((e.updSeat n fun k => { k with state := st, leaving := false }).setLeaf (.seat n) 4).seat n =
      { k.cleared with state := st, leaving := false } := by
    rw [← seat]
    exact Dev.seat_updSeat_same e n fun k => { k with state := st, leaving := false }
  refine ⟨by rw [after], ⟨k, after⟩, fresh, scrubs.cores.trans cores, scrubs.cache.trans cache, fun used f low high => ?_⟩
  exact scrubs.pends _ _ (pends used f low high)

theorem scrubDone_scrubs (s : State) (n : Nat) (r : SeatRec) (scrubbing : (s.dev.seat n).state = .scrubbing) (record : r = s.dev.seatRec n) :
    ∃ t k, exec (.scrubDone n) s = .next t ∧ k = t.dev.seat n ∧ (t.dev.leaf (.seat n)).testBit 4 = true ∧
      k.state = (if r.kind = 0 then .unused else if s.dev.seatFenced n then .fenced else .inService) ∧
      (∀ j, (j / 64) ∈ s.dev.clustersOf n → t.dev.core j = {}) ∧ (∀ l, l ∈ t.dev.cache.lines ↔ l ∈ s.dev.cache.lines ∧ tagSeat l.tag ≠ n) ∧
      (∀ c i, c < 16 → i < 8 → (t.dev.seg (16 * n + c) i).enable = false) ∧
      (∀ c, c < 16 → (t.dev.ctx (16 * n + c)).sums = [] ∧ (t.dev.ctx (16 * n + c)).bypass = [] ∧ (t.dev.ctx (16 * n + c)).save = .none) ∧
      k.mailbox = [] ∧ k.graphs = [] ∧ k.graphCount = [] ∧ k.notify = 0 ∧
      (r.kind ≠ 0 → ∀ f, frameOf r.saveBase ≤ f → f < frameOf r.saveBase + r.saveLength / 65536 →
        (t.dev.mem.frame (stackOf r.saveBase) f).zero = true) ∧
      (k.state = .fenced → t.lay.fencedSeats.testBit n = true ∧ (t.dev.leaf .lay).testBit 4 = true) := by
  subst record
  obtain ⟨state, ⟨k, seat⟩, fresh, cores, cache, pends⟩ := s.dev.scrubbed_spec n
  obtain ⟨t, run, dev, fenced⟩ : ∃ t, exec (.scrubDone n) s = .next t ∧ (t.dev = s.dev.scrubbed n ∨ t.dev = (s.dev.scrubbed n).setLeaf .lay 4) ∧
      (s.dev.scrubbedState n = .fenced → t.lay.fencedSeats.testBit n = true ∧ (t.dev.leaf .lay).testBit 4 = true) := by
    refine ⟨_, exec_scrubDone scrubbing, ?_⟩
    split
    · exact ⟨.inr rfl, fun _ => ⟨by simp [Nat.testBit_or], Dev.testBit_leaf_setLeaf _ _ _⟩⟩
    · rename_i other
      exact ⟨.inl rfl, fun is => absurd is other⟩
  have bare : (∀ i, t.dev.seat i = (s.dev.scrubbed n).seat i) ∧ t.dev.cores = (s.dev.scrubbed n).cores ∧ t.dev.cache = (s.dev.scrubbed n).cache ∧
      t.dev.ctxs = (s.dev.scrubbed n).ctxs ∧ t.dev.mem = (s.dev.scrubbed n).mem ∧ (t.dev.leaf (.seat n)).testBit 4 = true := by
    have own : ((s.dev.scrubbed n).leaf (.seat n)).testBit 4 = true := Dev.testBit_leaf_setLeaf _ _ _
    generalize s.dev.scrubbed n = e at dev own
    rcases dev with h | h <;> rw [h]
    · exact ⟨fun _ => rfl, rfl, rfl, rfl, rfl, own⟩
    · exact ⟨fun _ => rfl, rfl, rfl, rfl, rfl, Dev.testBit_leaf_setLeaf_mono _ _ own⟩
  obtain ⟨seats, cores', cache', ctxs', mem', own⟩ := bare
  have ctx (c : Nat) (hc : c < 16) : (t.dev.ctx (16 * n + c)).fresh :=
    (congrArg (fun m : SMap Ctx => (SMap.get {} m (16 * n + c)).fresh) ctxs').mpr (fresh c hc)
  have core (j : Nat) : t.dev.core j = (s.dev.zeroClusters (s.dev.clustersOf n)).core j :=
    congrArg (fun m : SMap Core => SMap.get ({} : Core) m j) (cores'.trans cores)
  refine ⟨t, t.dev.seat n, run, rfl, own, by rw [seats, state]; rfl, fun j listed => (core j).trans (Dev.core_zeroClusters _ listed), fun l => ?_,
    fun c i hc _ => ?_, fun c hc => ?_, by rw [seats, seat]; rfl, by rw [seats, seat]; rfl, by rw [seats, seat]; rfl, by rw [seats, seat]; rfl,
    fun used f low high => ?_, fun is => fenced (by rw [← state, ← seats]; exact is)⟩
  · rw [cache', cache, Dev.mem_dropLines]
    simp
  · have segs : (t.dev.ctx (16 * n + c)).segs = [] := by rw [ctx c hc]
    exact congrArg (fun m : SMap Seg => (SMap.get {} m i).enable) segs
  · rw [ctx c hc]
    exact ⟨rfl, rfl, rfl⟩
  · rw [mem']
    exact pends used f low high

end Sys2Proof.Machine
end

section
/-! SUPPORT. Saves and restores that end, slices, and the seat commands together (R392 to R402). -/

namespace Sys2Proof.Machine

/-! ## Saves and restores that end (R400, R401) -/

/-- A seat after a save. -/
def Seat.saved (shared : Bool) (k : Seat) : Seat :=
  if shared then { k with loaded := none, expired := none, next := none, moving := k.next.map fun t => (t, true) } else { k with moving := none }

theorem exec_saveDone {s : State} {n c : Nat} (moving : (s.dev.seat n).moving = some (c, false)) :
    exec (.saveDone n) s = .next (if s.dev.slotBlocked n c then s
      else { s with dev := (s.dev.saveSlot n c).updSeat n (Seat.saved ((s.dev.saveSlot n c).shared n)) }) := by
  unfold exec execSaveDone
  dsimp only
  rw [moving]
  rfl

theorem Dev.shared_of_layout {d e : Dev} (h : e.layout = d.layout) (n : Nat) : e.shared n = d.shared n := by
  rw [Dev.shared, Dev.seatRec_of_layout h, Dev.shared]

theorem saveDone_saves (s : State) (n c : Nat) (moving : (s.dev.seat n).moving = some (c, false)) :
    (s.dev.slotBlocked n c = true → exec (.saveDone n) s = .next s) ∧
    (s.dev.slotBlocked n c = false → ∃ t, exec (.saveDone n) s = .next t ∧ (t.dev.ctx (16 * n + c)).save = .saved ∧
      (t.dev.ctx (16 * n + c)).saveCount = (s.dev.ctx (16 * n + c)).saveCount + 1 ∧ t.dev.cores = s.dev.cores ∧
      (s.dev.shared n = false → (t.dev.seat n).moving = none) ∧
      (s.dev.shared n = true → (t.dev.seat n).loaded = none ∧ (t.dev.seat n).expired = none ∧
        (t.dev.seat n).moving = (s.dev.seat n).next.map fun k => (k, true))) := by
  refine ⟨fun blocked => (exec_saveDone moving).trans (congrArg _ (if_pos blocked)), fun free => ?_⟩
  have work := Dev.WorkOnly.slotWritten s.dev n c
  have ctx : (s.dev.saveSlot n c).ctx (16 * n + c) =
      { (s.dev.slotWritten n c).ctx (16 * n + c) with saveCount := (s.dev.ctx (16 * n + c)).saveCount + 1, save := .saved } :=
    Dev.ctx_updCtx_same _ _ _
  have shared : (s.dev.saveSlot n c).shared n = s.dev.shared n := Dev.shared_of_layout work.layout n
  have cores : (s.dev.saveSlot n c).cores = s.dev.cores := work.cores
  have seat : ((s.dev.saveSlot n c).seat n).moves = (s.dev.seat n).moves := work.moves n
  refine ⟨_, (exec_saveDone moving).trans (congrArg _ (if_neg (by simp [free]))), ?_⟩
  generalize s.dev.saveSlot n c = e at ctx shared cores seat ⊢
  have next : (e.seat n).next = (s.dev.seat n).next := congrArg (fun m => m.2.2.2.1) seat
  have after : (e.updSeat n (Seat.saved (e.shared n))).seat n = (e.seat n).saved (s.dev.shared n) := by
    rw [← shared]
    exact e.seat_updSeat_same n (Seat.saved (e.shared n))
  refine ⟨congrArg Ctx.save ctx, congrArg Ctx.saveCount ctx, cores, fun dedicated => ?_, fun together => ?_⟩
  · rw [after, dedicated]
    rfl
  · rw [after, together, ← next]
    exact ⟨rfl, rfl, rfl⟩

/-- Core state loaded from a record (R401). -/
def Dev.loadRecord (d : Dev) (p : SlotRecord) : Dev := { d with cores := SMap.put {} d.cores p.core (Core.ofRecord p.bytes p.poison) }

theorem Dev.core_loadRecords {l : List SlotRecord} (apart : (l.map (·.core)).Nodup) {p : SlotRecord} (listed : p ∈ l) (d : Dev) :
    (l.foldl Dev.loadRecord d).core p.core = Core.ofRecord p.bytes p.poison := by
  have step (q : SlotRecord) (e : Dev) (j : Nat) : (e.loadRecord q).core j = if j = q.core then Core.ofRecord q.bytes q.poison else e.core j :=
    SMap.get_put _
  have keeps {j : Nat} (l : List SlotRecord) (e : Dev) (h : ∀ q ∈ l, j ≠ q.core) : (l.foldl Dev.loadRecord e).core j = e.core j := by
    induction l generalizing e with
    | nil => rfl
    | cons q l ih =>
      exact (ih _ fun r hr => h r (List.mem_cons_of_mem _ hr)).trans ((step q e j).trans (if_neg (h q List.mem_cons_self)))
  induction l generalizing d with
  | nil => exact absurd listed List.not_mem_nil
  | cons q l ih =>
    obtain ⟨first, rest⟩ := List.nodup_cons.1 apart
    rcases List.mem_cons.1 listed with rfl | later
    · refine (keeps l _ fun r hr same => first ?_).trans ((step p d p.core).trans (if_pos rfl))
      exact List.mem_map.2 ⟨r, hr, same.symm⟩
    · exact ih rest later _

theorem Dev.loadSlot_spec (d : Dev) (n c : Nat) :
    (d.loadSlot n c).mem = (d.readSlot n c).1.mem ∧ (d.loadSlot n c).cores = ((d.slotRecords n c).foldl Dev.loadRecord (d.readSlot n c).1).cores := by
  have mem : ((d.slotRecords n c).foldl Dev.loadRecord (d.readSlot n c).1).mem = (d.readSlot n c).1.mem := by
    refine foldl_leaves Dev.mem (fun _ _ => ?_) _ _
    rfl
  have form : d.loadSlot n c = (match d.slotRecords n c with
      | [] => (d.slotRecords n c).foldl Dev.loadRecord (d.readSlot n c).1
      | p :: _ => ((d.slotRecords n c).foldl Dev.loadRecord (d.readSlot n c).1).updCtx (16 * n + c) fun k => k.restored p.bytes) := rfl
  rw [form]
  generalize (d.slotRecords n c).foldl Dev.loadRecord (d.readSlot n c).1 = e at mem
  split
  · exact ⟨mem, rfl⟩
  · exact ⟨mem, rfl⟩

/-- A seat whose move of core state has ended. -/
def Seat.stopped (k : Seat) : Seat := { k with moving := none, next := none, checking := false }

/-- A slice that begins loads its context and counts (R392). -/
theorem Dev.beginSlice_spec (d : Dev) (n c : Nat) :
    ((d.beginSlice n c).seat n).loaded = some c ∧ ((d.beginSlice n c).seat n).moving = none ∧ ((d.beginSlice n c).seat n).expired = none ∧
      ((d.beginSlice n c).seat n).sliceEnd = d.slow + ((d.seatRec n).slice - min (d.ctx (16 * n + c)).debt (d.seatRec n).slice) ∧
      ((d.beginSlice n c).ctx (16 * n + c)).slices = satInc32 (d.ctx (16 * n + c)).slices 1 ∧
      (d.beginSlice n c).cores = d.cores ∧ (d.beginSlice n c).mem = d.mem := by
  unfold Dev.beginSlice
  extract_lets x q e
  have seat := e.seat_updSeat_same n fun k => { k with loaded := some c, sliceEnd := e.slow + q.1, expired := none, moving := none, next := none }
  have ctx : e.ctx x = { d.ctx x with debt := q.2, slices := satInc32 (d.ctx x).slices 1 } := d.ctx_updCtx_same x fun k => { k with debt := q.2, slices := satInc32 k.slices 1 }
  exact ⟨congrArg Seat.loaded seat, congrArg Seat.moving seat, congrArg Seat.expired seat, congrArg Seat.sliceEnd seat, congrArg Ctx.slices ctx, rfl, rfl⟩

theorem exec_restoreDone {s : State} {n c : Nat} (moving : (s.dev.seat n).moving = some (c, true)) :
    exec (.restoreDone n) s = .next (if s.dev.shared n && !(s.dev.seat n).checking && (s.dev.ctx (16 * n + c)).save != .saved then
        { s with dev := (s.dev.zeroClusters (s.dev.clustersOf n)).beginSlice n c }
      else if s.dev.slotBlocked n c then s else { s with dev := s.dev.endRestore n c }) := by
  unfold exec execRestoreDone
  dsimp only
  rw [moving]

/-- A restore that checks only, or is refused, loads nothing (R401, R402). -/
theorem Dev.endRestore_refused {d : Dev} {n c : Nat} (refused : (d.seat n).checking = true ∨ d.slotOk n c = false) :
    (d.endRestore n c).cores = d.cores ∧ ((d.endRestore n c).seat n).moving = none ∧
      ((d.endRestore n c).ctx (16 * n + c)).save = (if d.slotOk n c then .saved else .incomplete) ∧
      (d.slotOk n c = false → ((d.endRestore n c).leaf (.seat n)).testBit 2 = true) := by
  have form : ∃ e : Dev, d.endRestore n c = e.updSeat n Seat.stopped ∧ e.cores = d.cores ∧
      (e.ctx (16 * n + c)).save = (if d.slotOk n c then .saved else .incomplete) ∧ (d.slotOk n c = false → (e.leaf (.seat n)).testBit 2 = true) := by
    cases checking : (d.seat n).checking with
    | true =>
      obtain ⟨-, cores, save, leaf⟩ := d.checkSlot_spec n c
      exact ⟨d.checkSlot n c, if_pos checking, cores, save, leaf⟩
    | false =>
      have bad : d.slotOk n c = false := refused.resolve_left (by simp [checking])
      obtain ⟨save, leaf, mem, cores⟩ := (d.readSlot n c).1.refuseRestore_spec n c
      refine ⟨(d.readSlot n c).1.refuseRestore n c, (if_neg (by simp [checking])).trans (if_neg (by simp [bad])),
        cores.trans (Dev.WorkOnly.readSlot d n c).cores, ?_, fun _ => leaf⟩
      rw [save, bad]
      rfl
  obtain ⟨e, run, cores, save, leaf⟩ := form
  rw [run]
  exact ⟨cores, congrArg Seat.moving (e.seat_updSeat_same n Seat.stopped), save, leaf⟩

/-- A restore that passes loads the cores of the seat's clusters (R401). -/
theorem Dev.endRestore_loads {d : Dev} {n c : Nat} (loads : (d.seat n).checking = false) (ok : d.slotOk n c = true) :
    ((d.endRestore n c).seat n).moving = none ∧ (d.shared n = true → ((d.endRestore n c).seat n).loaded = some c) ∧
      (d.endRestore n c).cores = (d.loadSlot n c).cores ∧ (d.endRestore n c).mem = (d.readSlot n c).1.mem := by
  have mem := (d.loadSlot_spec n c).1
  have form : d.endRestore n c = if d.shared n then (d.loadSlot n c).beginSlice n c else (d.loadSlot n c).updSeat n Seat.stopped :=
    (if_neg (by simp [loads])).trans (if_pos ok)
  rw [form]
  generalize d.loadSlot n c = e at mem ⊢
  cases shared : d.shared n with
  | true =>
    obtain ⟨loaded, moving, -, -, -, cores, same⟩ := e.beginSlice_spec n c
    exact ⟨moving, fun _ => loaded, cores, same.trans mem⟩
  | false => exact ⟨congrArg Seat.moving (e.seat_updSeat_same n Seat.stopped), nofun, rfl, mem⟩

theorem restoreDone_restores (s : State) (n c : Nat) (none' : Bool) (moving : (s.dev.seat n).moving = some (c, true))
    (bare : none' = (s.dev.shared n && !(s.dev.seat n).checking && (s.dev.ctx (16 * n + c)).save != .saved)) :
    (none' = true → ∃ t, exec (.restoreDone n) s = .next t ∧ (t.dev.seat n).loaded = some c ∧
      (∀ j, (j / 64) ∈ s.dev.clustersOf n → t.dev.core j = {}) ∧ t.dev.mem = s.dev.mem ∧
      (t.dev.ctx (16 * n + c)).slices = satInc32 (s.dev.ctx (16 * n + c)).slices 1) ∧
    (none' = false → s.dev.slotBlocked n c = true → exec (.restoreDone n) s = .next s) ∧
    (none' = false → s.dev.slotBlocked n c = false → (s.dev.seat n).checking = true ∨ s.dev.slotOk n c = false →
      ∃ t, exec (.restoreDone n) s = .next t ∧ t.dev.cores = s.dev.cores ∧ (t.dev.seat n).moving = none ∧
        (t.dev.ctx (16 * n + c)).save = (if s.dev.slotOk n c then .saved else .incomplete) ∧
        (s.dev.slotOk n c = false → (t.dev.leaf (.seat n)).testBit 2 = true)) ∧
    (none' = false → s.dev.slotBlocked n c = false → (s.dev.seat n).checking = false → s.dev.slotOk n c = true →
      ∃ t, exec (.restoreDone n) s = .next t ∧ (t.dev.seat n).moving = none ∧ (s.dev.shared n = true → (t.dev.seat n).loaded = some c) ∧
        (∀ p ∈ s.dev.slotRecords n c, (s.dev.seatCores n).Nodup → t.dev.core p.core = Core.ofRecord p.bytes p.poison) ∧
        t.dev.mem = (s.dev.readSlot n c).1.mem) := by
  have run := exec_restoreDone moving
  rw [← bare] at run
  have ends (h : none' = false) (free : s.dev.slotBlocked n c = false) : exec (.restoreDone n) s = .next { s with dev := s.dev.endRestore n c } :=
    run.trans (congrArg _ ((if_neg (by simp [h])).trans (if_neg (by simp [free]))))
  refine ⟨fun h => ?_, fun h blocked => ?_, fun h free refused => ?_, fun h free loads ok => ?_⟩
  · obtain ⟨loaded, -, -, -, slices, cores, mem⟩ := (s.dev.zeroClusters (s.dev.clustersOf n)).beginSlice_spec n c
    refine ⟨_, run.trans (congrArg _ (if_pos h)), loaded, fun j listed => ?_, mem, slices⟩
    exact (congrArg (fun m : SMap Core => SMap.get ({} : Core) m j) cores).trans (Dev.core_zeroClusters _ listed)
  · exact run.trans (congrArg _ ((if_neg (by simp [h])).trans (if_pos blocked)))
  · exact ⟨_, ends h free, Dev.endRestore_refused refused⟩
  · obtain ⟨stopped, loaded, cores, mem⟩ := Dev.endRestore_loads loads ok
    refine ⟨_, ends h free, stopped, loaded, fun p listed apart => ?_, mem⟩
    have core := congrArg (fun m : SMap Core => SMap.get ({} : Core) m p.core) (cores.trans (s.dev.loadSlot_spec n c).2)
    refine core.trans (Dev.core_loadRecords ?_ listed _)
    rw [← s.dev.readSlot_cores n c] at apart
    exact apart

/-! ## Slices (R391 to R396) -/

/-- Debts paid change neither what has work nor a save's state. -/
theorem Dev.chooseCtx_chosen (n c : Nat) : ∀ (l : List Nat) (d : Dev), (d.chooseCtx n l).2 = some c →
    c ∈ l ∧ d.hasWork (16 * n + c) = true ∧ (d.ctx (16 * n + c)).save ≠ .incomplete
  | [], _, none' => nomatch none'
  | a :: l, d, chosen => by
    unfold Dev.chooseCtx at chosen
    dsimp only at chosen
    split_ifs at chosen with idle cut
    · obtain ⟨listed, rest⟩ := Dev.chooseCtx_chosen n c l d chosen
      exact ⟨List.mem_cons_of_mem _ listed, rest⟩
    · obtain ⟨listed, work, save⟩ := Dev.chooseCtx_chosen n c l _ chosen
      refine ⟨List.mem_cons_of_mem _ listed, work, fun bad => save ?_⟩
      rw [Dev.ctx_updCtx]
      split
      · rename_i same; rw [← same]; exact bad
      · exact bad
    · cases chosen
      simp only [Bool.or_eq_true, Bool.not_eq_true', beq_iff_eq, not_or, Bool.not_eq_false] at idle
      exact ⟨List.mem_cons_self, idle.1, idle.2⟩

/-- A choice pays debts, and nothing else. -/
theorem Dev.chooseCtx_rest (n : Nat) : ∀ (l : List Nat) (d : Dev), ∃ m : SMap Ctx, (d.chooseCtx n l).1 = { d with ctxs := m }
  | [], d => ⟨d.ctxs, rfl⟩
  | a :: l, d => by
    unfold Dev.chooseCtx
    dsimp only
    split_ifs
    · exact Dev.chooseCtx_rest n l d
    · obtain ⟨m, rest⟩ := Dev.chooseCtx_rest n l (d.updCtx (16 * n + a) fun k => { k with debt := (nextSlice (d.seatRec n).slice (d.ctx (16 * n + a)).debt).2 })
      exact ⟨m, rest⟩
    · exact ⟨d.ctxs, rfl⟩

/-- A time-shared seat that serves and moves nothing. -/
def Dev.takesTurns (d : Dev) (n : Nat) : Prop :=
  d.shared n = true ∧ ((d.seat n).state = .inService ∨ (d.seat n).state = .fenced) ∧ (d.seat n).moving = none ∧ (d.seat n).expired = none

theorem Dev.takesTurns.pass {d : Dev} {n : Nat} (h : d.takesTurns n) :
    ¬(!d.shared n || !(d.seat n).serves || (d.seat n).moving.isSome || (d.seat n).expired.isSome) = true := by
  obtain ⟨shared, serves, still, fresh⟩ := h
  simp [shared, (d.seat n).serves_iff.2 serves, still, fresh]

theorem exec_sliceExpiry_unloaded {s : State} {n : Nat} (turns : s.dev.takesTurns n) (loaded : (s.dev.seat n).loaded = none) :
    exec (.sliceExpiry n) s = .next { s with dev := match (s.dev.chooseCtx n (List.range (s.dev.seatRec n).contexts)).2 with
      | none => (s.dev.chooseCtx n (List.range (s.dev.seatRec n).contexts)).1
      | some c => (s.dev.chooseCtx n (List.range (s.dev.seatRec n).contexts)).1.updSeat n fun k => { k with moving := some (c, true) } } := by
  refine congrArg Host.Outcome.next ((if_neg turns.pass).trans ?_)
  rw [loaded] <;> rfl

theorem exec_sliceExpiry_loaded {s : State} {n c : Nat} (turns : s.dev.takesTurns n) (loaded : (s.dev.seat n).loaded = some c) :
    exec (.sliceExpiry n) s = .next (if s.dev.slow < (s.dev.seat n).sliceEnd then s
      else { s with dev := match (s.dev.chooseCtx n (cyclicAfter c (s.dev.seatRec n).contexts)).2 with
        | none => (s.dev.chooseCtx n (cyclicAfter c (s.dev.seatRec n).contexts)).1.beginSlice n c
        | some t => (s.dev.chooseCtx n (cyclicAfter c (s.dev.seatRec n).contexts)).1.updSeat n fun k =>
          { k with expired := some s.dev.slow, next := some t } }) := by
  refine congrArg Host.Outcome.next ((if_neg turns.pass).trans ?_)
  rw [loaded] <;> rfl

theorem sliceExpiry_chooses (s : State) (n : Nat) (k : Seat) (q : Dev × Option Nat) (here : k = s.dev.seat n) (shared : s.dev.shared n = true)
    (serves : k.state = .inService ∨ k.state = .fenced) (still : k.moving = none) (fresh : k.expired = none) :
    (k.loaded = none → q = s.dev.chooseCtx n (List.range (s.dev.seatRec n).contexts) → ∃ t, exec (.sliceExpiry n) s = .next t ∧
      (q.2 = none → t.dev = q.1) ∧ (∀ c, q.2 = some c → (t.dev.seat n).moving = some (c, true))) ∧
    (∀ c, k.loaded = some c → s.dev.slow < k.sliceEnd → exec (.sliceExpiry n) s = .next s) ∧
    (∀ c, k.loaded = some c → k.sliceEnd ≤ s.dev.slow → q = s.dev.chooseCtx n (cyclicAfter c (s.dev.seatRec n).contexts) →
      ∃ t, exec (.sliceExpiry n) s = .next t ∧ (∀ b, q.2 = some b → (t.dev.seat n).expired = some s.dev.slow ∧ (t.dev.seat n).next = some b) ∧
        (q.2 = none → (t.dev.seat n).loaded = some c ∧ (t.dev.seat n).expired = none ∧
          (t.dev.seat n).sliceEnd = s.dev.slow + ((s.dev.seatRec n).slice - min (q.1.ctx (16 * n + c)).debt (s.dev.seatRec n).slice))) := by
  subst here
  have turns : s.dev.takesTurns n := ⟨shared, serves, still, fresh⟩
  refine ⟨fun empty choice => ?_, fun c loaded running => ?_, fun c loaded expired choice => ?_⟩
  · have run := exec_sliceExpiry_unloaded turns empty
    rw [← choice] at run
    refine ⟨_, run, fun no => ?_, fun c yes => ?_⟩
    · simp only [no]
    · simp only [yes]
      exact congrArg Seat.moving (q.1.seat_updSeat_same n fun k => { k with moving := some (c, true) })
  · exact (exec_sliceExpiry_loaded turns loaded).trans (congrArg _ (if_pos running))
  · have run := (exec_sliceExpiry_loaded turns loaded).trans (congrArg _ (if_neg (Nat.not_lt.2 expired)))
    rw [← choice] at run
    refine ⟨_, run, fun b yes => ?_, fun no => ?_⟩
    · simp only [yes]
      have seat := q.1.seat_updSeat_same n fun k => { k with expired := some s.dev.slow, next := some b }
      exact ⟨congrArg Seat.expired seat, congrArg Seat.next seat⟩
    · simp only [no]
      obtain ⟨m, rest⟩ := Dev.chooseCtx_rest n (cyclicAfter c (s.dev.seatRec n).contexts) s.dev
      rw [← choice] at rest
      obtain ⟨here, -, fresh, till, -⟩ := q.1.beginSlice_spec n c
      have slow : q.1.slow = s.dev.slow := by rw [rest]
      have record : q.1.seatRec n = s.dev.seatRec n := by rw [rest]; rfl
      rw [slow, record] at till
      exact ⟨here, fresh, till⟩

/-! ## A context that is quiescent (R393, R395, R396) -/

/-- A PREFETCH_ROWS as its context leaves (R203). -/
def Dev.cancelledPlace (d : Dev) (x : Nat) (p : Place) : Place :=
  if p.ctxIx == x && p.op.opcode == 0x22 && (p.phase == .running || p.phase == .finished) then d.cancelled p else p

/-- An operation with nothing begun as its context leaves: it waits again. -/
def Place.unstarted (x : Nat) (p : Place) : Place :=
  if p.ctxIx = x ∧ p.unbegun = true then { p with phase := .waiting, stall := .none } else p

/-- An operation as its context leaves. -/
def Dev.quietPlace (d : Dev) (x : Nat) (p : Place) : Place := (d.cancelledPlace x p).unstarted x

theorem Dev.unstart_board (d : Dev) (x : Nat) : ((d.cancelPrefetch x).unstart x).board = d.board.map (d.quietPlace x) :=
  List.map_map

/-- A context whose overrun is charged and whose save begins. -/
def Ctx.overran (late : Nat) (z : Ctx) : Ctx := { z with debt := z.debt + late, overrunMax := max z.overrunMax late, save := .saving }

/-- The device once an expired context is quiescent. -/
def Dev.quiesced (d : Dev) (n c late : Nat) : Dev :=
  let e := ((d.cancelPrefetch (16 * n + c)).unstart (16 * n + c)).updCtx (16 * n + c) (Ctx.overran late)
  (if (e.seatRec n).maxOpWcet / 16 < late then e.setLeaf (.seat n) 3 else e).updSeat n fun k => { k with moving := some (c, false) }

theorem exec_contextQuiescent {s : State} {n c t0 : Nat} (expired : (s.dev.seat n).expired = some t0) (loaded : (s.dev.seat n).loaded = some c)
    (still : (s.dev.seat n).moving = none) (quiet : ∀ p ∈ s.dev.ctxPlaces (16 * n + c), p.op.opcode ≠ 0x22 → s.dev.hasStarted p = false) :
    exec (.contextQuiescent n) s = .next { s with dev := s.dev.quiesced n c ((s.dev.slow + 2 ^ 48 - t0) % 2 ^ 48) } := by
  have none' : ((s.dev.ctxPlaces (16 * n + c)).filter (·.op.opcode != 0x22)).any s.dev.hasStarted = false := by
    simpa using quiet
  unfold exec execContextQuiescent
  dsimp only
  rw [expired, loaded]
  dsimp only
  refine congrArg Host.Outcome.next ((if_neg ?_).trans ?_)
  · rw [still, none']
    exact Bool.false_ne_true
  · rfl

/-- A context that becomes quiescent: its operations, its seat and its board, and nothing else that a charge needs. -/
theorem Dev.quiesced_spec (d : Dev) (n c late : Nat) :
    (d.quiesced n c late).ctx (16 * n + c) = (d.ctx (16 * n + c)).overran late ∧ ((d.quiesced n c late).seat n).moving = some (c, false) ∧
      (d.quiesced n c late).board = d.board.map (d.quietPlace (16 * n + c)) ∧
      ((d.seatRec n).maxOpWcet / 16 < late → ((d.quiesced n c late).leaf (.seat n)).testBit 3 = true) := by
  unfold Dev.quiesced
  extract_lets e
  have ctx : e.ctx (16 * n + c) = (d.ctx (16 * n + c)).overran late :=
    ((d.cancelPrefetch (16 * n + c)).unstart (16 * n + c)).ctx_updCtx_same (16 * n + c) (Ctx.overran late)
  have board : e.board = d.board.map (d.quietPlace (16 * n + c)) := d.unstart_board (16 * n + c)
  have record : e.seatRec n = d.seatRec n := Dev.seatRec_of_layout rfl n
  rw [record]
  clear_value e
  split
  · exact ⟨ctx, congrArg Seat.moving (Dev.seat_updSeat_same _ n _), board, fun _ => Dev.testBit_leaf_setLeaf e _ _⟩
  · rename_i short
    exact ⟨ctx, congrArg Seat.moving (Dev.seat_updSeat_same _ n _), board, fun long => absurd long short⟩

/-- A WAIT of the context that ran has not begun (R393), and waits again. -/
theorem Dev.quietPlace_wait {d : Dev} {x : Nat} {q : Place} (own : q.ctxIx = x) (code : q.op.opcode = 0x02) :
    (d.quietPlace x q).phase ≠ .running := by
  have same : d.cancelledPlace x q = q := if_neg (by simp [code])
  rw [Dev.quietPlace, same]
  unfold Place.unstarted
  split
  · simp
  · rename_i begun
    intro running
    have bare : q.unbegun = true := by simp [Place.unbegun, running, code]
    exact begun ⟨own, bare⟩

theorem Dev.cancelledPlace_prefetch {d : Dev} {x : Nat} {q : Place} (own : q.ctxIx = x) (code : q.op.opcode = 0x22)
    (finished : (d.cancelledPlace x q).phase = .finished) :
    (d.cancelledPlace x q).cancelled = true ∧ ∀ e ∈ (d.cancelledPlace x q).prefetch, d.reg.waits (.row (d.cancelledPlace x q).id e.1) = false := by
  by_cases works : (q.phase == .running || q.phase == .finished) = true
  · have run : d.cancelledPlace x q = d.cancelled q := if_pos (by simp [own, code, works])
    rw [run]
    refine ⟨rfl, fun e listed => ?_⟩
    have issued := (List.mem_filter.1 listed).2
    rwa [Bool.not_eq_true'] at issued
  · have run : d.cancelledPlace x q = q := if_neg (by simp [own, code, works])
    rw [run] at finished
    exact absurd (by simp [finished]) works

/-- A PREFETCH_ROWS of the context that is finished was cancelled, and none of its reads waits. -/
theorem Dev.quietPlace_prefetch {d : Dev} {x : Nat} {q : Place} (own : q.ctxIx = x) (code : q.op.opcode = 0x22)
    (finished : (d.quietPlace x q).phase = .finished) :
    (d.quietPlace x q).cancelled = true ∧ ∀ e ∈ (d.quietPlace x q).prefetch, d.reg.waits (.row (d.quietPlace x q).id e.1) = false := by
  have same : d.quietPlace x q = d.cancelledPlace x q := by
    refine if_neg fun begun => ?_
    have waits : (d.quietPlace x q).phase = .waiting := by
      rw [Dev.quietPlace, Place.unstarted, if_pos begun]
    rw [waits] at finished
    cases finished
  rw [same] at finished ⊢
  exact Dev.cancelledPlace_prefetch own code finished

theorem Dev.quietPlace_keeps (d : Dev) (x : Nat) (q : Place) : (d.quietPlace x q).ctxIx = q.ctxIx ∧ (d.quietPlace x q).op = q.op := by
  unfold Dev.quietPlace Place.unstarted Dev.cancelledPlace
  constructor <;> split_ifs <;> rfl

theorem contextQuiescent_saves (s : State) (n c x t0 late : Nat) (k : Seat) (here : k = s.dev.seat n) (expired : k.expired = some t0)
    (loaded : k.loaded = some c) (still : k.moving = none) (is : x = 16 * n + c)
    (quiet : ∀ p ∈ s.dev.ctxPlaces x, p.op.opcode ≠ 0x22 → s.dev.hasStarted p = false) (overrun : late = (s.dev.slow + 2 ^ 48 - t0) % 2 ^ 48) :
    ∃ t, exec (.contextQuiescent n) s = .next t ∧ (t.dev.ctx x).debt = (s.dev.ctx x).debt + late ∧
      (t.dev.ctx x).overrunMax = max (s.dev.ctx x).overrunMax late ∧ (t.dev.ctx x).save = .saving ∧ (t.dev.seat n).moving = some (c, false) ∧
      ((s.dev.seatRec n).maxOpWcet / 16 < late → (t.dev.leaf (.seat n)).testBit 3 = true) ∧
      (∀ p ∈ t.dev.board, p.seat * 16 + p.ctx = x → p.op.opcode = 0x02 → p.phase ≠ .running) ∧
      (∀ p ∈ t.dev.board, p.seat * 16 + p.ctx = x → p.op.opcode = 0x22 → p.phase = .finished → p.cancelled = true ∧
        ∀ e ∈ p.prefetch, s.dev.reg.waits (.row p.id e.1) = false) := by
  subst here is overrun
  obtain ⟨ctx, moving, board, leaf⟩ := s.dev.quiesced_spec n c ((s.dev.slow + 2 ^ 48 - t0) % 2 ^ 48)
  refine ⟨_, exec_contextQuiescent expired loaded still quiet, congrArg Ctx.debt ctx, congrArg Ctx.overrunMax ctx, congrArg Ctx.save ctx, moving, leaf,
    fun p listed own code => ?_, fun p listed own code finished => ?_⟩
  · have from_ : p ∈ s.dev.board.map (s.dev.quietPlace (16 * n + c)) := board ▸ listed
    obtain ⟨q, member, rfl⟩ := List.mem_map.1 from_
    obtain ⟨ix, op⟩ := s.dev.quietPlace_keeps (16 * n + c) q
    have mine : q.ctxIx = 16 * n + c := ix.symm.trans own
    rw [op] at code
    exact Dev.quietPlace_wait mine code
  · have from_ : p ∈ s.dev.board.map (s.dev.quietPlace (16 * n + c)) := board ▸ listed
    obtain ⟨q, member, rfl⟩ := List.mem_map.1 from_
    obtain ⟨ix, op⟩ := s.dev.quietPlace_keeps (16 * n + c) q
    rw [op] at code
    exact Dev.quietPlace_prefetch (ix.symm.trans own) code finished

/-! ## The commands together -/

theorem State.badSeatCmd_spec (s : State) (n : Nat) :
    ((s.badSeatCmd n).dev.leaf (.seat n)).testBit 5 = true ∧ (s.badSeatCmd n).dev.ctxs = s.dev.ctxs ∧ (s.badSeatCmd n).dev.seats = s.dev.seats ∧
      (s.badSeatCmd n).dev.mem = s.dev.mem ∧ (s.badSeatCmd n).dev.cores = s.dev.cores :=
  ⟨Dev.testBit_leaf_setLeaf _ _ _, rfl, rfl, rfl, rfl⟩

theorem seatCmd_taken {s : State} {n x : Nat} {c : Instr} (ready : s.ready = true)
    (command : c = .seatSave n x ∨ c = .seatRestore n x ∨ c = .seatResetContext n x) (ok : s.dev.seatCmdOk n x = true)
    (dedicated : c = .seatSave n x → s.dev.shared n = false) : ∃ t, exec c s = .next t ∧
      (c = .seatSave n x → (t.dev.seat n).moving = some (x, false) ∧ (t.dev.ctx (16 * n + x)).save = .saving) ∧
      (c = .seatRestore n x → s.dev.shared n = false ∨ s.dev.slotBlocked n x = true → (t.dev.seat n).moving = some (x, true) ∧
        (t.dev.seat n).checking = s.dev.shared n) ∧
      (c = .seatRestore n x → s.dev.shared n = true → s.dev.slotBlocked n x = false → s.dev.slotOk n x = true →
        (t.dev.ctx (16 * n + x)).save = .saved ∧ t.dev.cores = s.dev.cores) ∧
      (c = .seatRestore n x → s.dev.shared n = true → s.dev.slotBlocked n x = false → s.dev.slotOk n x = false →
        (t.dev.ctx (16 * n + x)).save = .incomplete ∧ (t.dev.leaf (.seat n)).testBit 2 = true ∧ t.dev.cores = s.dev.cores) ∧
      (c = .seatResetContext n x → (t.dev.ctx (16 * n + x)).save = .none) ∧
      t.dev.mem = (if c = .seatRestore n x ∧ s.dev.shared n = true ∧ s.dev.slotBlocked n x = false then (s.dev.readSlot n x).1.mem else s.dev.mem) := by
  rcases command with rfl | rfl | rfl
  · have seat := s.dev.seat_updSeat_same n fun k => { k with moving := some (x, false) }
    have ctx := (s.dev.updSeat n fun k => { k with moving := some (x, false) }).ctx_updCtx_same (16 * n + x) fun k => { k with save := .saving }
    exact ⟨_, exec_seatSave_taken ready ok (dedicated rfl), fun _ => ⟨congrArg Seat.moving seat, congrArg Ctx.save ctx⟩, nofun, nofun, nofun, nofun,
      (if_neg (by simp)).symm⟩
  · by_cases checks : s.dev.shared n = true ∧ s.dev.slotBlocked n x = false
    · obtain ⟨mem, cores, save, leaf⟩ := s.dev.checkSlot_spec n x
      refine ⟨_, exec_seatRestore_checks ready ok checks.1 checks.2, nofun, fun _ waits => ?_, fun _ _ _ good => ⟨?_, cores⟩,
        fun _ _ _ bad => ⟨?_, leaf bad, cores⟩, nofun, ?_⟩
      · rcases waits with h | h
        · rw [checks.1] at h; cases h
        · rw [checks.2] at h; cases h
      · exact save.trans (if_pos good)
      · exact save.trans (if_neg (by simp [bad]))
      · exact mem.trans (if_pos ⟨rfl, checks⟩).symm
    · have waits : s.dev.shared n = false ∨ s.dev.slotBlocked n x = true := by
        rw [not_and_or, Bool.not_eq_true, Bool.not_eq_false] at checks
        exact checks
      have seat := s.dev.seat_updSeat_same n fun k => { k with moving := some (x, true), checking := s.dev.shared n }
      exact ⟨_, exec_seatRestore_moves ready ok waits, nofun, fun _ _ => ⟨congrArg Seat.moving seat, congrArg Seat.checking seat⟩,
        fun _ h g => absurd ⟨h, g⟩ checks, fun _ h g => absurd ⟨h, g⟩ checks, nofun, (if_neg fun h => checks h.2).symm⟩
  · have ctx := s.dev.ctx_updCtx_same (16 * n + x) fun k => { k with save := .none }
    exact ⟨_, exec_seatResetContext_taken ready ok, nofun, nofun, nofun, nofun, fun _ => congrArg Ctx.save ctx, (if_neg (by simp)).symm⟩

/-- Settles O57, clause by clause: a command by R402's guard, a reset and its scrub by what each of their parts leaves, a record by its fields,
a restore by the records that it read, a choice by induction over its candidates. -/
theorem seatCommands : Obligations.SeatCommands := by
  refine ⟨fun s n x c ready command => ⟨fun bad => ?_, fun ok dedicated => seatCmd_taken ready command ok dedicated⟩, fun s n ready => ⟨fun serves => ?_, fun other => ?_⟩,
    fun s n ready enabled => ?_, fun s n => ⟨fun resetting idle => ⟨_, exec_seatDrained resetting idle, s.dev.startScrub_spec n⟩, exec_seatDrained_other⟩,
    scrubDone_scrubs, fun body n x j clusters count size hn hx hj hc => ⟨sealRecord_ok size n x j clusters count hn hx hj hc,
      sealRecord_rest size n x j clusters count⟩,
    saveDone_saves, restoreDone_restores, sliceExpiry_chooses, fun d n c l => Dev.chooseCtx_chosen n c l d, contextQuiescent_saves⟩
  · exact ⟨_, exec_seatCmd_bad ready command bad, s.badSeatCmd_spec n⟩
  · obtain ⟨state, board, rings, tricks, mem, out, -, others⟩ := Dev.resetSeat_spec (((s.dev.seat n).serves_iff).2 serves)
    refine ⟨_, exec_seatReset s n ready, state, fun p other => ?_, fun p listed own => ?_, fun r member => ?_, fun r foreign => ?_, tricks, mem, out, others⟩
    · exact (iff_of_eq (congrArg (p ∈ ·) board)).trans (Dev.mem_uncancelled other)
    · exact Dev.mem_cancelled (board ▸ listed) own
    · have ring := (rings r).trans (if_pos member)
      rw [ring]
      exact ⟨rfl, rfl, rfl, rfl, rfl, rfl, rfl⟩
    · exact (rings r).trans (if_neg foreign)
  · have idle : (s.dev.seat n).serves = false := by rcases other with h | h | h <;> simp [Seat.serves, h]
    rw [exec_seatReset s n ready, Dev.resetSeat_other idle]
  · obtain ⟨bus, msix, masked⟩ := s.dev.fn_resetFn n
    have fn : ((s.dev.resetFn n).resetSeat n).fn (n + 1) = (s.dev.resetFn n).fn (n + 1) :=
      congrArg (fun g : Glb => SMap.get {} g.fns (n + 1)) (Dev.glb_resetSeat _ n)
    rw [← fn] at bus msix masked
    refine ⟨_, exec_vfFlr ready enabled, bus, msix, masked, fun serves => ?_⟩
    obtain ⟨state, board, -⟩ := Dev.resetSeat_spec (d := s.dev.resetFn n) (((s.dev.seat n).serves_iff).2 serves)
    refine ⟨state, fun p listed own => ?_⟩
    obtain ⟨code, gone, -⟩ := Dev.mem_cancelled (d := s.dev.resetFn n) (board ▸ listed) own
    exact ⟨code, gone⟩

end Sys2Proof.Machine
end

section
/-! SUPPORT. CHECK and EGRESS (R431 to R433, R480, R489 to R492). -/

namespace Sys2Proof.Machine

/-! ## What an operation reads -/

theorem length_slice (bs : List Byte) (off n : Nat) : (slice bs off n).length = n := by
  unfold slice
  dsimp only
  rw [List.length_append, List.length_replicate, List.length_take]
  omega

theorem Mio.length_read (m : Mio) (g : Agent) (o : Opref) (a n : Nat) : (m.read g o a n).2.1.length = n := by
  unfold Mio.read
  split
  · exact List.length_replicate
  · split
    · exact length_slice _ _ _
    · exact List.length_replicate

theorem Mio.length_readOperand (m : Mio) (g : Agent) (p : Place) (w off n : Nat) : (m.readOperand g p w off n).2.1.length = n := by
  unfold Mio.readOperand
  dsimp only
  split
  · exact length_slice _ _ _
  · exact m.length_read _ _ _ _

theorem Mio.length_flat (m : Mio) (g : Agent) (p : Place) (w n : Nat) : (m.flat g p w n).2.1.length = n := by
  unfold Mio.flat
  split
  · unfold Dev.padRead; simp
  · exact m.length_readOperand _ _ _ _ _

theorem Dev.Tame.transferRange (d : Dev) (g : Agent) (w : Bool) (a n : Nat) : d.Tame (d.transferRange g w a n) :=
  Tame.foldl (fun d _ => .transfer d _ _ _) _ _

/-- A range that the check-value units read where the dies serve it (R491). -/
theorem Mio.unitRange_smooth (m : Mio) (g : Agent) (pa n : Nat) (c : m.dev.Calm) (w : m.waits = false) (h : m.dev.Admitted g.ctx pa n) :
    m.Smooth (m.unitRange g pa n).1 := by
  have charged : m.Smooth { m with dev := m.dev.transferRange { g with stack := memOwner (stackOf pa) } false pa n } :=
    m.setDev_smooth _ (.transferRange _ _ _ _ _) (.transferRange _ _ _ _ _)
  unfold Mio.unitRange
  dsimp only
  refine charged.trans ?_
  generalize ({ m with dev := m.dev.transferRange { g with stack := memOwner (stackOf pa) } false pa n } : Mio) = e at charged ⊢
  refine smooth_foldl m (fun p : Nat × Nat => m.dev.Open g.ctx p.1) (fun q p admitted sofar => ?_) _ (e, [], false) (fun p piece => ?_) charged
  · split
    · exact .refl _
    · refine q.1.readMem_smooth g _ (sofar.calm c) (sofar.waits.trans w) (sofar.open c ?_)
      rw [Nat.mul_comm, Dev.Open, stack64, frame64]
      exact admitted
  · obtain ⟨low, high⟩ := atomPieces_mem _ _ _ piece
    exact h p.1 low high

theorem Mio.unitRead_smooth (m : Mio) (g : Agent) (p : Place) (n : Nat) (own : g.ctx = p.ctxIx) (c : m.dev.Calm) (w : m.waits = false) (whole : m.short = false)
    (h : m.dev.Feeds p 0 0 n) : m.Smooth (m.unitRead g p n).1 := by
  unfold Mio.unitRead
  dsimp only
  split
  · exact m.readOperand_smooth g p 0 0 n own c w whole h
  · rename_i memory
    rcases h with ⟨y, pays, word, -⟩ | ⟨-, pa, i, translated, admitted⟩
    · exact absurd (by simp [paysFor, pays, word]) memory
    · rw [Nat.add_zero, ← own] at translated
      rw [translated]
      exact m.unitRange_smooth g pa n c w (own ▸ admitted)

theorem Mio.work_unitRange (m : Mio) (g : Agent) (pa n : Nat) : m.dev.WorkOnly (m.unitRange g pa n).1.dev := by
  unfold Mio.unitRange
  dsimp only
  refine List.foldlRecOn (motive := fun r : Mio × List Byte × Bool => m.dev.WorkOnly r.1.dev) _ _ (.transferRange _ _ _ _ _) fun r work p _ => ?_
  split
  · exact work
  · exact work.trans (r.1.work_readMem _ _)

theorem Mio.work_unitRead (m : Mio) (g : Agent) (p : Place) (n : Nat) : m.dev.WorkOnly (m.unitRead g p n).1.dev := by
  unfold Mio.unitRead
  dsimp only
  split
  · exact m.work_readOperand _ _ _ _ _
  · split
    · exact m.work_unitRange _ _ _
    · exact m.work_xfault _ _ _

theorem Mio.work_flat (m : Mio) (g : Agent) (p : Place) (w n : Nat) : m.dev.WorkOnly (m.flat g p w n).1.dev := by
  unfold Mio.flat
  split
  · exact .refl _
  · exact m.work_readOperand _ _ _ _ _

/-! ## CHECK (R491, R492) -/

/-- A request to a die that serves nothing waits (R356). -/
theorem Mio.reach_blocked {m : Mio} {a : Nat} (blocked : m.dev.blocked a = true) : (m.reach a).waits = true ∧ (m.reach a).wait = m.dev.blockStall a := by
  have run : m.reach a = { m.touch a with waits := true, wait := (m.touch a).dev.blockStall a } := if_pos blocked
  rw [run]
  exact ⟨rfl, rfl⟩

theorem exec_check_stuck {s : State} {i : Nat} {d : Dev} {p : Place} {pick : Line → Bool} (enters : s.dev.enters i (·.opcode == 0x70) = some (d, p))
    (picks : pick = fun l => !paysFor p.payload 0 && d.rangeLines p.ctxIx (p.op.ref 0).addr (p.op.word 1) l) {l : Line}
    (stuck : d.stuckLine pick = some l) : exec (.check i) s = .next { s with dev := d.conclude p (({ dev := d } : Mio).reach (64 * l.atom)) id } := by
  refine exec_of_enters enters ?_
  unfold Dev.workCheck
  dsimp only
  rw [← picks, stuck]

/-- How a CHECK whose value is known ends. -/
def Dev.checked (p : Place) (v : Nat) (poisoned : Bool) (d : Dev) : Dev :=
  let d := d.updPlace p.id fun q => { q.finish with dest := p.op.destOf 5 v, flags := q.flags.or { poisoned } }
  if (p.op.fld 4 1 1).testBit 0 && v != p.op.word 3 then d.mismatch p else d

theorem exec_check_reads {s : State} {i : Nat} {d : Dev} {p : Place} {pick : Line → Bool} (enters : s.dev.enters i (·.opcode == 0x70) = some (d, p))
    (picks : pick = fun l => !paysFor p.payload 0 && d.rangeLines p.ctxIx (p.op.ref 0).addr (p.op.word 1) l)
    (free : d.stuckLine pick = none) {r : Mio × List Byte × Bool} {v : Nat} (read : r = ((d.io p).flush pick).unitRead (d.agent p) p (p.op.word 1))
    (value : v = (crcKind (p.op.fld 4 0 1)).value (p.op.word 2)
        (if (p.op.fld 4 1 1).testBit 1 then foldOf ((p.op.ref 0).addr / 64) 0 else 0) r.2.1) :
    exec (.check i) s = .next { s with dev := d.conclude p r.1 (Dev.checked p v r.2.2) } := by
  refine exec_of_enters enters ?_
  unfold Dev.workCheck
  dsimp only
  rw [← picks, free, value, read]
  rfl

/-- A comparison that fails is counted with its ring (R492, R517). -/
theorem Dev.mismatch_spec (d : Dev) (p : Place) : (d.mismatch p).board = d.board ∧ (d.mismatch p).mem = d.mem ∧ (d.mismatch p).rings = d.rings ∧
    (d.mismatch p).chk.mismatches = satInc32 d.chk.mismatches 1 ∧ ((d.mismatch p).leaf (.vfChk p.seat)).testBit 0 = true ∧
    ((d.mismatch p).seat p.seat).chkRing = (d.ringRec p.ring).localIx := by
  refine ⟨rfl, rfl, rfl, rfl, Dev.testBit_leaf_setLeaf _ _ _, ?_⟩
  exact congrArg Seat.chkRing (Dev.seat_updSeat_same _ p.seat fun k => { k with chkRing := (d.ringRec p.ring).localIx })

/-- A place whose CHECK has ended. -/
def Place.checked (p : Place) (v : Nat) (poisoned : Bool) (q : Place) : Place :=
  { q.finish with dest := p.op.destOf 5 v, flags := q.flags.or { poisoned } }

theorem Dev.checked_spec {d : Dev} {p q : Place} (here : d.place p.id = some q) (v : Nat) (poisoned : Bool) :
    (d.checked p v poisoned).place p.id = some (p.checked v poisoned q) ∧ (d.checked p v poisoned).mem = d.mem ∧
      (d.checked p v poisoned).rings = d.rings ∧
      ((p.op.fld 4 1 1).testBit 0 = true → v ≠ p.op.word 3 →
        (d.checked p v poisoned).chk.mismatches = satInc32 d.chk.mismatches 1 ∧ ((d.checked p v poisoned).leaf (.vfChk p.seat)).testBit 0 = true ∧
        ((d.checked p v poisoned).seat p.seat).chkRing = (d.ringRec p.ring).localIx) ∧
      ((p.op.fld 4 1 1).testBit 0 = false ∨ v = p.op.word 3 → (d.checked p v poisoned).chk.mismatches = d.chk.mismatches) := by
  have place := Dev.place_upd_again (p.checked v poisoned) here fun _ => rfl
  have form : d.checked p v poisoned =
      if ((p.op.fld 4 1 1).testBit 0 && v != p.op.word 3) = true then (d.updPlace p.id (p.checked v poisoned)).mismatch p else d.updPlace p.id (p.checked v poisoned) := rfl
  rw [form]
  obtain ⟨board, mem, rings, count, leaf, ring⟩ := (d.updPlace p.id (p.checked v poisoned)).mismatch_spec p
  split
  · rename_i differs
    rw [Bool.and_eq_true, bne_iff_ne] at differs
    refine ⟨?_, mem, rings, fun _ _ => ⟨count, leaf, ring⟩, fun same => ?_⟩
    · rw [Dev.place, board]
      exact place
    · rcases same with h | h
      · rw [h] at differs; cases differs.1
      · exact absurd h differs.2
  · rename_i same
    refine ⟨place, rfl, rfl, fun compares differs => absurd ?_ same, fun _ => rfl⟩
    simp [compares, differs]

theorem check_settles (s : State) (i : Nat) (d : Dev) (p : Place) (pick : Line → Bool) (enters : s.dev.enters i (·.opcode == 0x70) = some (d, p))
    (picks : pick = fun l => !paysFor p.payload 0 && d.rangeLines p.ctxIx (p.op.ref 0).addr (p.op.word 1) l) :
    (∀ l, d.stuckLine pick = some l → ∃ t q, exec (.check i) s = .next t ∧ t.dev.place i = some q ∧ q.phase = p.phase ∧
      q.stall = d.blockStall (64 * l.atom) ∧ t.dev.mem = d.mem ∧ t.dev.cache = d.cache) ∧
    (∀ (r : Mio × List Byte × Bool) (v : Nat), d.stuckLine pick = none →
      r = ((d.io p).flush pick).unitRead (d.agent p) p (p.op.word 1) →
      r.1.done ∨ d.Calm ∧ d.Feeds p 0 0 (p.op.word 1) →
      v = (crcKind (p.op.fld 4 0 1)).value (p.op.word 2)
        (if (p.op.fld 4 1 1).testBit 1 then foldOf ((p.op.ref 0).addr / 64) 0 else 0) r.2.1 →
      ∃ t q, exec (.check i) s = .next t ∧ t.dev.place i = some q ∧ q.phase = .finished ∧ q.status = p.status ∧
        q.flags.poisoned = (p.flags.poisoned || r.2.2) ∧
        q.dest = (if p.op.word 5 = 0 then none else some ⟨(p.op.ref 5).addr, leBytes 8 v⟩) ∧ t.dev.mem = r.1.dev.mem ∧
        t.dev.rings = d.rings ∧
        ((p.op.fld 4 1 1).testBit 0 = true → v ≠ p.op.word 3 →
          t.dev.chk.mismatches = satInc32 d.chk.mismatches 1 ∧ (t.dev.leaf (.vfChk p.seat)).testBit 0 = true ∧
          (t.dev.seat p.seat).chkRing = (d.ringRec p.ring).localIx) ∧
        ((p.op.fld 4 1 1).testBit 0 = false ∨ v = p.op.word 3 → t.dev.chk.mismatches = d.chk.mismatches)) := by
  obtain ⟨here, rfl⟩ := Dev.enters_place enters
  refine ⟨fun l stuck => ?_, fun r v free read sound value => ?_⟩
  · have blocked : d.blocked (64 * l.atom) = true := by
      have found := List.find?_some stuck
      simp only [Bool.and_eq_true] at found
      exact found.2
    obtain ⟨waits, wait⟩ := Mio.reach_blocked (m := { dev := d }) blocked
    obtain ⟨place, x, rest⟩ := Dev.conclude_waits (f := id) here waits
    refine ⟨_, _, exec_check_stuck enters picks stuck, place, rfl, wait, ?_, ?_⟩
    · dsimp only
      rw [rest]
    · dsimp only
      rw [rest]
  · have work : d.WorkOnly r.1.dev := by
      rw [read]
      exact (((d.io_smooth p).work.trans ((d.io p).flush_smooth pick).work)).trans (Mio.work_unitRead _ _ _ _)
    have done : r.1.done := by
      rcases sound with h | ⟨calm, feeds⟩
      · exact h
      · have from_ := (d.io_from p).smooth ((d.io p).flush_smooth pick)
        rw [read]
        exact (from_.smooth (Mio.unitRead_smooth _ _ _ _ rfl (from_.calm calm) from_.done.1 from_.done.2.2 (from_.feeds calm feeds))).done
    have there : r.1.dev.place p.id = some p := (work.place p.id).trans here
    obtain ⟨e, run, rest, place, -⟩ := Dev.conclude_done (Dev.checked p v r.2.2) there done
    obtain ⟨ends, mem, rings, differs, same⟩ := Dev.checked_spec place v r.2.2
    rw [← run] at ends mem rings differs same
    have kept : e.mem = r.1.dev.mem ∧ e.rings = d.rings ∧ e.chk.mismatches = d.chk.mismatches ∧ e.layout = d.layout := by
      obtain ⟨a, b, c, chk⟩ := work.chk
      rw [rest]
      exact ⟨rfl, work.rings, by rw [chk], work.layout⟩
    obtain ⟨mem', rings', count, layout⟩ := kept
    rw [count, Dev.ringRec_of_layout layout] at differs
    exact ⟨_, _, exec_check_reads enters picks free read value, ends, rfl, rfl, rfl, rfl, mem.trans mem', rings.trans rings', differs,
      fun h => (same h).trans count⟩

/-! ## EGRESS (R431 to R433) -/

theorem egressPieces_empty (mps : Nat) (fuel a : Nat) (po : List Bool) : egressPieces mps fuel a [] po = [] := by
  cases fuel <;> rfl

/-- The writes of an EGRESS are its bytes in ascending order, each within the maximum payload size and one 4 KiB page. -/
theorem egressPieces_spec (mps : Nat) : ∀ (fuel a : Nat) (bs : List Byte) (po : List Bool), bs.length ≤ fuel →
    (egressPieces mps fuel a bs po).flatMap (fun w => w.2.1) = bs ∧ ∀ w ∈ egressPieces mps fuel a bs po,
      w.2.1 ≠ [] ∧ w.2.1.length ≤ max mps 1 ∧ w.1 / 4096 = (w.1 + w.2.1.length - 1) / 4096
  | fuel, a, [], po, _ => by rw [egressPieces_empty]; exact ⟨rfl, nofun⟩
  | fuel + 1, a, b :: bs, po, enough => by
    obtain ⟨n, size, pos, fits, page⟩ : ∃ n, min (max mps 1) (4096 - a % 4096) = n ∧ 1 ≤ n ∧ n ≤ max mps 1 ∧ n ≤ 4096 - a % 4096 :=
      ⟨_, rfl, by omega, Nat.min_le_left _ _, Nat.min_le_right _ _⟩
    have form : egressPieces mps (fuel + 1) a (b :: bs) po =
        (a, (b :: bs).take n, (po.take n).any id) :: egressPieces mps fuel (a + n) ((b :: bs).drop n) (po.drop n) := by rw [← size]; rfl
    have short : ((b :: bs).drop n).length ≤ fuel := by
      rw [List.length_drop]
      omega
    obtain ⟨joined, each⟩ := egressPieces_spec mps fuel (a + n) ((b :: bs).drop n) (po.drop n) short
    rw [form]
    refine ⟨?_, fun w listed => ?_⟩
    · rw [List.flatMap_cons, joined]
      exact List.take_append_drop n (b :: bs)
    · rcases List.mem_cons.1 listed with rfl | later
      · have length : ((b :: bs).take n).length ≤ n ∧ 1 ≤ ((b :: bs).take n).length := by
          rw [List.length_take, List.length_cons]
          omega
        show (b :: bs).take n ≠ [] ∧ ((b :: bs).take n).length ≤ max mps 1 ∧ a / 4096 = (a + ((b :: bs).take n).length - 1) / 4096
        exact ⟨fun empty => absurd length.2 (by rw [empty]; decide), length.1.trans fits, by omega⟩
      · exact each w later

theorem exec_egress_bad {s : State} {i : Nat} {parity : Bool} {d : Dev} {p : Place} (enters : s.dev.enters i (·.opcode == 0x80) = some (d, p))
    (bars : d.inBars (p.op.word 1) (p.op.word 2) = true) (foreign : d.ownPage p.seat (p.op.word 1) (p.op.word 2) = none) :
    exec (.egress i parity) s = .next { s with dev := d.updPlace p.id (·.fail .badDescriptor) } :=
  exec_of_enters enters (if_pos (by simp [bars, foreign]))

theorem egress_passes {d : Dev} {p : Place}
    (host : d.inBars (p.op.word 1) (p.op.word 2) = false ∨ ∃ off, d.ownPage p.seat (p.op.word 1) (p.op.word 2) = some off) :
    ¬(d.inBars (p.op.word 1) (p.op.word 2) && (d.ownPage p.seat (p.op.word 1) (p.op.word 2)).isNone) = true := by
  rcases host with out | ⟨off, own⟩
  · simp [out]
  · simp [own]

theorem exec_egress_lost {s : State} {i : Nat} {parity : Bool} {d : Dev} {p : Place} (enters : s.dev.enters i (·.opcode == 0x80) = some (d, p))
    (host : d.inBars (p.op.word 1) (p.op.word 2) = false ∨ ∃ off, d.ownPage p.seat (p.op.word 1) (p.op.word 2) = some off)
    (lost : d.hostGone p.seat = true ∨ (d.ring p.ring).state = .hostLost) :
    exec (.egress i parity) s = .next { s with dev := d.loseHost p } := by
  refine exec_of_enters enters ((if_neg (egress_passes host)).trans (if_pos ?_))
  rcases lost with h | h <;> simp [h]

/-- A place whose EGRESS has ended. -/
def egressFinish (po : List Bool) (q : Place) : Place := { q.finish with flags := q.flags.or { poisoned := po.any id } }

theorem egressFinish_spec (po : List Bool) (q : Place) : (egressFinish po q).phase = .finished ∧ (egressFinish po q).status = q.status ∧
    (egressFinish po q).flags.poisoned = (q.flags.poisoned || po.any id) := ⟨rfl, rfl, rfl⟩

/-- The device before the writes of an EGRESS leave: a parity mismatch and the bytes are counted. -/
def Dev.egressCounted (parity : Bool) (p : Place) (d : Dev) : Dev :=
  (if parity then d.noteParity (slotStack p.slot) (some p.seat) else d).meter p.ctxIx fun t => { t with egress := add64 t.egress (p.op.word 2) }

theorem exec_egress_sends {s : State} {i : Nat} {parity : Bool} {d : Dev} {p : Place} (enters : s.dev.enters i (·.opcode == 0x80) = some (d, p))
    (host : d.inBars (p.op.word 1) (p.op.word 2) = false ∨ ∃ off, d.ownPage p.seat (p.op.word 1) (p.op.word 2) = some off)
    (there : d.hostGone p.seat = false) (runs : (d.ring p.ring).state ≠ .hostLost) {r : Mio × List Byte × List Bool} {po : List Bool}
    (read : r = (d.io p).flat (d.agent p) p 0 (p.op.word 2)) (marks : po = (if parity then true :: r.2.2.drop 1 else r.2.2)) :
    exec (.egress i parity) s = .next { s with dev := d.conclude p r.1 fun d =>
      ((d.egressCounted parity p).sendEgress p r.2.1 po).updPlace p.id (egressFinish po) } := by
  refine exec_of_enters enters ((if_neg (egress_passes host)).trans ((if_neg (by simp [there, runs])).trans ?_))
  rw [marks, read]
  rfl

theorem Dev.egressCounted_spec (parity : Bool) (p : Place) (d : Dev) :
    (d.egressCounted parity p).board = d.board ∧ (d.egressCounted parity p).mem = d.mem ∧ (d.egressCounted parity p).rings = d.rings ∧
      (d.egressCounted parity p).out = d.out ∧ (d.egressCounted parity p).glb = d.glb ∧
      ((d.egressCounted parity p).ctx p.ctxIx).meter.egress = ((d.ctx p.ctxIx).meter.egress + p.op.word 2) % 2 ^ 64 ∧
      (parity = true → (d.egressCounted parity p).chk.parity = satInc32 d.chk.parity 1 ∧ ((d.egressCounted parity p).leaf .chk).testBit 0 = true) ∧
      (parity = false → (d.egressCounted parity p).chk = d.chk) := by
  have metered (e : Dev) : ((e.meter p.ctxIx fun t => { t with egress := add64 t.egress (p.op.word 2) }).ctx p.ctxIx).meter.egress =
      ((e.ctx p.ctxIx).meter.egress + p.op.word 2) % 2 ^ 64 :=
    congrArg (fun c : Ctx => c.meter.egress) (e.ctx_updCtx_same p.ctxIx fun c => { c with meter := { c.meter with egress := add64 c.meter.egress (p.op.word 2) } })
  unfold Dev.egressCounted
  cases parity with
  | true => exact ⟨rfl, rfl, rfl, rfl, rfl, metered _, fun _ => ⟨rfl, Dev.testBit_leaf_setLeaf _ _ _⟩, nofun⟩
  | false => exact ⟨rfl, rfl, rfl, rfl, rfl, metered _, nofun, fun _ => rfl⟩

theorem Dev.foldl_emit {α : Type} (f : α → Out) (l : List α) (d : Dev) : l.foldl (fun d w => d.emit (f w)) d = { d with out := d.out ++ l.map f } := by
  induction l generalizing d with
  | nil => rw [List.foldl_nil, List.map_nil, List.append_nil]
  | cons w l ih =>
    rw [List.foldl_cons, ih]
    simp only [Dev.emit, List.append_assoc, List.map_cons, List.singleton_append]

/-- Writes to the host leave as posted writes (R431). -/
theorem Dev.sendEgress_host {d : Dev} {p : Place} {bs : List Byte} (po : List Bool) (out : d.inBars (p.op.word 1) bs.length = false) :
    d.sendEgress p bs po = { d with out := d.out ++ (egressPieces d.glb.maxPayload bs.length (p.op.word 1) bs po).map fun w => Out.hostWrite p.seat w.1 w.2.1 w.2.2 } := by
  unfold Dev.sendEgress
  dsimp only
  rw [out]
  exact Dev.foldl_emit (fun w : Nat × List Byte × Bool => .hostWrite p.seat w.1 w.2.1 w.2.2) _ d

theorem pagePieces_step {fuel a n : Nat} {bs : List Byte} (size : (if a % 8 = 0 ∧ 8 ≤ bs.length then 8 else if a % 4 = 0 ∧ 4 ≤ bs.length then 4 else 1) = n)
    (rest : bs.isEmpty = false) : pagePieces (fuel + 1) a bs = (a, bs.take n) :: pagePieces fuel (a + n) (bs.drop n) := by
  rw [← size]
  exact if_neg (by simp [rest])

/-- Eight aligned bytes leave as one write. -/
theorem pagePieces_eight {a : Nat} {bs : List Byte} (aligned : a % 8 = 0) (eight : bs.length = 8) : pagePieces 8 a bs = [(a, bs)] := by
  have rest : bs.isEmpty = false := by simp [List.isEmpty_eq_false_iff, ← List.length_pos_iff, eight]
  rw [pagePieces_step (fuel := 7) (if_pos ⟨aligned, Nat.le_of_eq eight.symm⟩) rest, List.take_of_length_le (Nat.le_of_eq eight),
    List.drop_eq_nil_of_le (Nat.le_of_eq eight)]
  rfl

/-- Eight bytes for the seat's own mailbox page are written there (R432). -/
theorem Dev.sendEgress_mailbox {d : Dev} {p : Place} {bs : List Byte} (po : List Bool) {off : Nat} (bars : d.inBars (p.op.word 1) bs.length = true)
    (own : d.ownPage p.seat (p.op.word 1) bs.length = some off) (box : 0x9000 ≤ off) (aligned : off % 8 = 0) (eight : bs.length = 8) :
    d.sendEgress p bs po = d.updSeat p.seat fun k =>
      { k with mailbox := bs.zipIdx.foldl (fun m p => SMap.put 0 m (off - 0x9000 + p.2) p.1) k.mailbox } := by
  have pieces : pagePieces bs.length off bs = [(off, bs)] := by
    rw [eight]
    exact pagePieces_eight aligned eight
  unfold Dev.sendEgress
  dsimp only
  rw [bars, if_pos rfl, own]
  dsimp only
  rw [pieces]
  exact (if_neg (by simp [eight])).trans (if_neg (Nat.not_lt.2 box))

theorem Seat.mailBytes_eight {m : SMap Byte} {k : Seat} {off : Nat} {bs : List Byte} (eight : bs.length = 8)
    (box : k.mailbox = bs.zipIdx.foldl (fun m p => SMap.put 0 m (off + p.2) p.1) m) : k.mailBytes off 8 = bs := by
  unfold Seat.mailBytes
  refine List.ext_getElem (by rw [List.length_map, List.length_range, eight]) fun i h g => ?_
  rw [List.getElem_map, List.getElem_range, box, SMap.get_foldl_zipIdx off bs 0 m (off + i), if_pos (by omega)]
  simp [g]

/-- How an EGRESS that reaches the host, or its own page, ends. -/
theorem egress_ends {d : Dev} {p : Place} {r : Mio × List Byte × List Bool} {po : List Bool} (here : d.place p.id = some p)
    (read : r = (d.io p).flat (d.agent p) p 0 (p.op.word 2)) (sound : r.1.done ∨ p.inPads 0 = true ∨ d.Calm ∧ d.Feeds p 0 0 (p.op.word 2))
    (parity : Bool) : ∃ e : Dev, (d.conclude p r.1 fun d => ((d.egressCounted parity p).sendEgress p r.2.1 po).updPlace p.id (egressFinish po)) =
        (e.sendEgress p r.2.1 po).updPlace p.id (egressFinish po) ∧ e.place p.id = some (p.noted r.1) ∧ e.mem = r.1.dev.mem ∧ e.rings = d.rings ∧
      e.out = d.out ∧ e.glb = d.glb ∧ (e.ctx p.ctxIx).meter.egress = ((d.ctx p.ctxIx).meter.egress + p.op.word 2) % 2 ^ 64 ∧
      (parity = true → e.chk.parity = satInc32 r.1.dev.chk.parity 1 ∧ (e.leaf .chk).testBit 0 = true) ∧ (parity = false → e.chk = r.1.dev.chk) := by
  have io := d.io_from p
  have work : d.WorkOnly r.1.dev := by
    rw [read]
    exact (d.io_smooth p).work.trans (Mio.work_flat _ _ _ _ _)
  have done : r.1.done := by
    rcases sound with h | pads | ⟨calm, feeds⟩
    · exact h
    · have same : r.1 = d.io p := by rw [read, Mio.flat, if_pos pads]
      rw [same]
      exact io.done
    · rw [read]
      unfold Mio.flat
      split
      · exact io.done
      · exact (io.smooth (Mio.readOperand_smooth _ _ _ _ _ _ rfl (io.calm calm) io.done.1 io.done.2.2 (io.feeds calm feeds))).done
  have there : r.1.dev.place p.id = some p := (work.place p.id).trans here
  obtain ⟨e, run, rest, place, -⟩ := Dev.conclude_done
    (fun d => ((d.egressCounted parity p).sendEgress p r.2.1 po).updPlace p.id (egressFinish po)) there done
  obtain ⟨board, mem, rings, out, glb, meter, counted, uncounted⟩ := Dev.egressCounted_spec parity p e
  have kept : e.mem = r.1.dev.mem ∧ e.rings = d.rings ∧ e.out = d.out ∧ e.glb = d.glb ∧ e.chk = r.1.dev.chk ∧
      (e.ctx p.ctxIx).meter.egress = (d.ctx p.ctxIx).meter.egress := by
    obtain ⟨a, b, c, f, ctx⟩ := work.ctx p.ctxIx
    have glb : r.1.dev.glb = d.glb := by
      obtain ⟨_, _, _, _, _, _, _, _, _, same⟩ := work.rest
      rw [same]
    rw [rest]
    refine ⟨rfl, work.rings, work.out, glb, rfl, ?_⟩
    have egress : (r.1.dev.ctx p.ctxIx).meter.egress = (d.ctx p.ctxIx).meter.egress := by rw [ctx]
    exact egress
  obtain ⟨mem', rings', out', glb', chk', meter'⟩ := kept
  rw [meter'] at meter
  rw [chk'] at counted uncounted
  refine ⟨_, run, ?_, mem.trans mem', rings.trans rings', out.trans out', glb.trans glb', meter, counted, uncounted⟩
  rw [Dev.place, board]
  exact place

/-- Settles O51: how each command ends by the rule for memory work that ends; the writes of an EGRESS by induction over its bytes. -/
theorem checksAndEgress : Obligations.ChecksAndEgress := by
  refine ⟨check_settles, fun s i parity d p enters => ?_, fun mps a bs po ps pieces => ?_, fun k seed fold as bs => ?_⟩
  · obtain ⟨here, rfl⟩ := Dev.enters_place enters
    refine ⟨fun bars foreign => exec_egress_bad enters bars foreign, fun out lost => ?_,
      fun r po host runs read sound marks => ⟨fun out => ?_, fun off bars own box aligned eight => ?_⟩⟩
    · obtain ⟨q, place, phase, status, ring, -⟩ := Dev.loseHost_spec here
      refine ⟨_, q, exec_egress_lost enters (.inl out) lost, place, phase, status, ?_, ring, ?_⟩
      · dsimp only
        rw [Dev.loseHost_rest]
      · dsimp only
        rw [Dev.loseHost_rest]
    · obtain ⟨e, run, place, mem, rings, sent, glb, meter, counted, uncounted⟩ := egress_ends (po := po) here read sound parity
      have length : r.2.1.length = p.op.word 2 := by rw [read]; exact Mio.length_flat _ _ _ _ _
      have outside : e.inBars (p.op.word 1) r.2.1.length = false := by
        rw [length]
        unfold Dev.inBars
        rw [glb]
        exact out
      have sends := Dev.sendEgress_host (p := p) po outside
      rw [sends] at run
      have run' := (exec_egress_sends enters (.inl out) host runs read marks).trans (congrArg (fun d => Host.Outcome.next { s with dev := d }) run)
      obtain ⟨phase, status, poisoned⟩ := egressFinish_spec po (p.noted r.1)
      refine ⟨_, egressFinish po (p.noted r.1), run', ?_, phase, status, poisoned, ?_, meter, mem, counted, uncounted, rings⟩
      · exact Dev.place_upd_again (egressFinish po) place fun _ => rfl
      · rw [← sent, ← glb]
        rfl
    · obtain ⟨e, run, place, mem, rings, sent, glb, meter, counted, uncounted⟩ := egress_ends (po := po) here read sound parity
      have length : r.2.1.length = p.op.word 2 := by rw [read]; exact Mio.length_flat _ _ _ _ _
      have inside : e.inBars (p.op.word 1) r.2.1.length = true ∧ e.ownPage p.seat (p.op.word 1) r.2.1.length = some off := by
        rw [length]
        unfold Dev.inBars Dev.ownPage
        rw [glb]
        exact ⟨bars, own⟩
      have writes := Dev.sendEgress_mailbox (p := p) po inside.1 inside.2 box aligned eight
      rw [writes] at run
      have run' := (exec_egress_sends enters (.inr ⟨off, own⟩) host runs read marks).trans (congrArg (fun d => Host.Outcome.next { s with dev := d }) run)
      obtain ⟨phase, status, -⟩ := egressFinish_spec po (p.noted r.1)
      have page := Dev.seat_updSeat_same e p.seat fun k =>
        { k with mailbox := r.2.1.zipIdx.foldl (fun m p => SMap.put 0 m (off - 0x9000 + p.2) p.1) k.mailbox }
      refine ⟨_, egressFinish po (p.noted r.1), run', ?_, phase, status, Seat.mailBytes_eight eight (congrArg Seat.mailbox page), sent⟩
      exact Dev.place_upd_again (egressFinish po) place fun _ => rfl
  · subst pieces
    exact egressPieces_spec mps _ a bs po (Nat.le_refl _)
  · unfold CrcKind.value CrcKind.run
    rw [List.foldl_append]

end Sys2Proof.Machine
end

section
/-! SUPPORT. What an operation of the cascade sends: entries and their messages, EXCHANGE and ALL_TO_ALL (R453 to R467). -/

namespace Sys2Proof.Machine

/-! ## Entries and their messages -/

theorem Mio.work_flatAt (m : Mio) (g : Agent) (p : Place) (w off n : Nat) : m.dev.WorkOnly (m.flatAt g p w off n).1.dev := by
  unfold Mio.flatAt
  split
  · exact .refl _
  · exact m.work_readOperand _ _ _ _ _

theorem Mio.entryMessage_stream {m : Mio} {g : Agent} {p : Place} {k : Nat × Nat} (code : p.op.opcode = 0x60) (stream : p.exchangesStream = true) :
    (m.entryMessage g p k).1 = m ∧ (m.entryMessage g p k).2.kind = 1 ∧ (m.entryMessage g p k).2.dst = k.1 ∧
      (m.entryMessage g p k).2.body = (p.exchangeTiles.getD k.2 {}).bytes := by
  unfold Mio.entryMessage
  rw [if_pos code, if_pos stream]
  exact ⟨rfl, rfl, rfl, rfl⟩

theorem Mio.entryMessage_bytes {m : Mio} {g : Agent} {p : Place} {k : Nat × Nat} (code : p.op.opcode = 0x60) (stream : p.exchangesStream = false) :
    (m.entryMessage g p k).1 = (m.flatAt g p 0 (k.2 * 65536) (min 65536 (p.op.word 2 - k.2 * 65536))).1 ∧ (m.entryMessage g p k).2.kind = 1 ∧
      (m.entryMessage g p k).2.dst = k.1 ∧
      (m.entryMessage g p k).2.body = (m.flatAt g p 0 (k.2 * 65536) (min 65536 (p.op.word 2 - k.2 * 65536))).2.1 := by
  unfold Mio.entryMessage
  rw [if_pos code, if_neg (by simp [stream])]
  exact ⟨rfl, rfl, rfl, rfl⟩

theorem Mio.entryMessage_block {m : Mio} {g : Agent} {p : Place} {k : Nat × Nat} (code : p.op.opcode = 0x61) :
    (m.entryMessage g p k).1 = (m.readOperand g p 0 (k.2 * p.op.word 2) (p.op.word 2)).1 ∧
      (m.entryMessage g p k).2.body = (m.readOperand g p 0 (k.2 * p.op.word 2) (p.op.word 2)).2.1 ∧ (m.entryMessage g p k).2.kind = 2 ∧
      (m.entryMessage g p k).2.coll = p.coll.getD 0 ∧ (m.entryMessage g p k).2.dst = k.1 := by
  unfold Mio.entryMessage
  rw [if_neg (by rw [code]; decide), if_pos code]
  exact ⟨rfl, rfl, rfl, rfl, rfl⟩

theorem Mio.entryMessage_response {m : Mio} {g : Agent} {p : Place} {k : Nat × Nat} (exchange : p.op.opcode ≠ 0x60) (block : p.op.opcode ≠ 0x61)
    (responds : p.op.fld 1 0 1 = 2) : (m.entryMessage g p k).1 = m ∧ (m.entryMessage g p k).2.dst = k.1 ∧ (m.entryMessage g p k).2.kind = 4 ∧
      (m.entryMessage g p k).2.body = m.dev.responseBody (p.op.word 0) := by
  unfold Mio.entryMessage
  rw [if_neg exchange, if_neg block, if_pos responds]
  exact ⟨rfl, rfl, rfl, rfl⟩

theorem Mio.entryMessage_token {m : Mio} {g : Agent} {p : Place} {k : Nat × Nat} (exchange : p.op.opcode ≠ 0x60) (block : p.op.opcode ≠ 0x61)
    (issues : p.op.fld 1 0 1 ≠ 2) : (m.entryMessage g p k).1 = m ∧ (m.entryMessage g p k).2.dst = k.1 ∧ (m.entryMessage g p k).2.kind = 3 ∧
      ∀ u, m.dev.tokenOf (p.op.word 0) = some u → (m.entryMessage g p k).2.body = u.body := by
  unfold Mio.entryMessage
  rw [if_neg exchange, if_neg block, if_neg issues]
  exact ⟨rfl, rfl, rfl, fun u found => by dsimp only [Dev.message]; rw [found]; rfl⟩

/-- The message of an entry is for the entry's module, and to make it is memory work. -/
theorem Mio.entryMessage_spec (m : Mio) (g : Agent) (p : Place) (k : Nat × Nat) :
    (m.entryMessage g p k).2.dst = k.1 ∧ m.dev.WorkOnly (m.entryMessage g p k).1.dev := by
  by_cases exchange : p.op.opcode = 0x60
  · cases stream : p.exchangesStream with
    | true =>
      obtain ⟨same, -, dst, -⟩ := Mio.entryMessage_stream (m := m) (g := g) (k := k) exchange stream
      exact ⟨dst, by rw [same]; exact .refl _⟩
    | false =>
      obtain ⟨same, -, dst, -⟩ := Mio.entryMessage_bytes (m := m) (g := g) (k := k) exchange stream
      exact ⟨dst, same ▸ m.work_flatAt _ _ _ _ _⟩
  · by_cases block : p.op.opcode = 0x61
    · obtain ⟨same, -, -, -, dst⟩ := Mio.entryMessage_block (m := m) (g := g) (k := k) block
      exact ⟨dst, same ▸ m.work_readOperand _ _ _ _ _⟩
    · by_cases responds : p.op.fld 1 0 1 = 2
      · obtain ⟨same, dst, -⟩ := Mio.entryMessage_response (m := m) (g := g) (k := k) exchange block responds
        exact ⟨dst, by rw [same]; exact .refl _⟩
      · obtain ⟨same, dst, -⟩ := Mio.entryMessage_token (m := m) (g := g) (k := k) exchange block responds
        exact ⟨dst, by rw [same]; exact .refl _⟩

/-- A place one of whose entries has been sent. -/
def Place.sentEntry (e : Nat × Nat) (r : Mio × QMessage) (x : Nat) (q : Place) : Place :=
  { q.noted r.1 with unsentMsgs := q.unsentMsgs.erase e, unacked := if r.2.kind = 3 then q.unacked else q.unacked ++ [(e.1, x)],
                     flags := q.flags.or { poisoned := !r.2.poison.isEmpty } }

/-- An entry leaves where its module is reached, its pair lets it, and its port has the credits (R456, R460). -/
theorem Dev.sendEntry_sent {d : Dev} {i port : Nat} {p : Place} {e : Nat × Nat} {r : Mio × QMessage} (here : d.place i = some p)
    (unsent : e ∈ p.unsentMsgs) (reached : d.reaches e.1 = some port) (free : dataClass p.op.sendsKind = true → d.pairBusy e.1 < 4)
    (made : r = ({ dev := d } : Mio).entryMessage (d.agent p) p e) (going : r.1.waits = false) (sound : r.1.fault = false)
    (takes : (d.port port).takes r.2 = true) (first : dataClass r.2.kind = true ∨ (d.port port).outbox = []) :
    d.sendEntry i e = ((r.1.dev.sendMessage port r.2).responseSent p).updPlace i (Place.sentEntry e r (r.1.dev.qlk.xsend.get 0 e.1)) := by
  have passes : ¬(dataClass p.op.sendsKind && decide (4 ≤ d.pairBusy e.1)) = true := by
    rw [Bool.and_eq_true, decide_eq_true_eq]
    exact fun ⟨data, busy⟩ => absurd (free data) (by omega)
  have leaves : ¬(!(d.port port).takes r.2 || !(d.port port).outbox.isEmpty && !dataClass r.2.kind) = true := by
    rcases first with h | h <;> simp [takes, h]
  unfold Dev.sendEntry
  rw [here]
  dsimp only
  rw [if_neg (by simp [unsent]), reached]
  dsimp only
  rw [if_neg passes, ← made, if_neg leaves, if_neg (by simp [going]), if_neg (by simp [sound])]
  rfl

theorem Dev.responseSent_spec (d : Dev) (p : Place) : ∃ a b, d.responseSent p = { d with qlk := { d.qlk with stepThermal := a, stepPeerWait := b } } := by
  unfold Dev.responseSent
  split
  · exact ⟨_, _, rfl⟩
  · exact ⟨_, _, rfl⟩

theorem Dev.WorkOnly.qlk {d e : Dev} (h : d.WorkOnly e) : e.qlk = d.qlk := by
  obtain ⟨_, _, _, _, _, _, _, _, _, same⟩ := h.rest
  rw [same]

theorem Dev.sendMessage_port (d : Dev) (port : Nat) (m : QMessage) :
    ((d.sendMessage port m).port port).txSeq = ((d.port port).txSeq + flitsOf m.body.length) % 4096 := by
  have sent : (d.sendMessage port m).port port = if dataClass m.kind then
      { (d.port port).sendFlits (flitsOf m.body.length) with creditData := (d.port port).creditData - flitsOf m.body.length }
      else { (d.port port).sendFlits (flitsOf m.body.length) with creditControl := (d.port port).creditControl - flitsOf m.body.length } :=
    Dev.port_updPort_same { d with qlk := { d.qlk with xsend := d.qlk.xsend.put 0 m.dst ((d.qlk.xsend.get 0 m.dst + 1) % 2 ^ 32) } } port fun k =>
      if dataClass m.kind then { k.sendFlits (flitsOf m.body.length) with creditData := k.creditData - flitsOf m.body.length }
      else { k.sendFlits (flitsOf m.body.length) with creditControl := k.creditControl - flitsOf m.body.length }
  rw [sent]
  split <;> rfl

theorem Dev.sendMessage_xsend (d : Dev) (port : Nat) (m : QMessage) :
    SMap.get 0 (d.sendMessage port m).qlk.xsend m.dst = (SMap.get 0 d.qlk.xsend m.dst + 1) % 2 ^ 32 := by
  have put : SMap.get 0 (SMap.put 0 d.qlk.xsend m.dst ((SMap.get 0 d.qlk.xsend m.dst + 1) % 2 ^ 32)) m.dst = _ := SMap.get_put _
  exact put.trans (if_pos rfl)

/-- What an entry that leaves does to its operation and its port (R453, R455). -/
theorem Dev.sendEntry_sends {d : Dev} {i port x : Nat} {p : Place} {e : Nat × Nat} {r : Mio × QMessage} (here : d.place i = some p)
    (unsent : e ∈ p.unsentMsgs) (reached : d.reaches e.1 = some port) (free : dataClass p.op.sendsKind = true → d.pairBusy e.1 < 4)
    (made : r = ({ dev := d } : Mio).entryMessage (d.agent p) p e) (going : r.1.waits = false) (sound : r.1.fault = false)
    (takes : (d.port port).takes r.2 = true) (first : dataClass r.2.kind = true ∨ (d.port port).outbox = []) (seq : x = d.qlk.xsend.get 0 e.1) :
    (Dev.sendEntry i d e).place i = some (p.sentEntry e r x) ∧ (Dev.sendEntry i d e).rings = d.rings ∧
      (Dev.sendEntry i d e).out = d.out ++ [.message port (d.sealed r.2)] ∧ (Dev.sendEntry i d e).qlk.xsend.get 0 e.1 = (x + 1) % 2 ^ 32 ∧
      ((Dev.sendEntry i d e).port port).txSeq = ((d.port port).txSeq + flitsOf r.2.body.length) % 4096 := by
  obtain ⟨dst, work⟩ := ({ dev := d } : Mio).entryMessage_spec (d.agent p) p e
  rw [← made] at dst work
  obtain ⟨a, b, response⟩ := (r.1.dev.sendMessage port r.2).responseSent_spec p
  have kept : r.1.dev.qlk = d.qlk := work.qlk
  have run := Dev.sendEntry_sent here unsent reached free made going sound takes first
  rw [response, kept, ← seq] at run
  have sent := r.1.dev.sendMessage_onlySends port r.2
  have port_ := r.1.dev.sendMessage_port port r.2
  have count := r.1.dev.sendMessage_xsend port r.2
  have out := r.1.dev.sendMessage_out port r.2
  have sealed : r.1.dev.sealed r.2 = d.sealed r.2 := by rw [Dev.sealed, kept]; rfl
  rw [dst, kept, ← seq] at count
  rw [sealed, work.out] at out
  have there : (r.1.dev.sendMessage port r.2).place i = some p := by
    rw [Dev.place, sent.board, work.board]
    exact here
  have before : (r.1.dev.port port).txSeq = (d.port port).txSeq := by rw [Dev.port, kept]; rfl
  rw [before] at port_
  have rings := sent.rings.trans work.rings
  generalize r.1.dev.sendMessage port r.2 = f at run port_ count out there rings
  rw [run]
  exact ⟨Dev.place_upd_again (Place.sentEntry e r x) there fun _ => rfl, rings, out, count, port_⟩

/-! ## Operations that send (R457, R464) -/

/-- The device once the work of an operation is done and its entries wait. -/
def Dev.sending (d : Dev) (p : Place) (msgs : List (Nat × Nat)) (f : Place → Place) : Dev :=
  let d := d.updPlace p.id fun q => { (f q).finish with unsentMsgs := msgs }
  if msgs.isEmpty then d else d.stallPlace p .peer

theorem Dev.finishSending_eq (d : Dev) (p : Place) (msgs : List (Nat × Nat)) (f : Place → Place) :
    d.finishSending p msgs f = (d.sending p msgs f).pump p.id := rfl

/-- A change of the operations that leaves their unanswered messages leaves every pair as busy as it was. -/
theorem Dev.pairBusy_of_map {d e : Dev} {g : Place → Place} (board : e.board = d.board.map g) (keeps : ∀ q, (g q).unacked = q.unacked) (m : Nat) :
    e.pairBusy m = d.pairBusy m := by
  unfold Dev.pairBusy
  rw [board, List.flatMap_map]
  simp only [keeps]

theorem Dev.pairBusy_updPlace (d : Dev) (i : Nat) {f : Place → Place} (keeps : ∀ q, (f q).unacked = q.unacked) (m : Nat) :
    (d.updPlace i f).pairBusy m = d.pairBusy m := by
  refine Dev.pairBusy_of_map (g := fun q => if q.id = i then f q else q) rfl (fun q => ?_) m
  split
  · exact keeps q
  · rfl

theorem Dev.pairBusy_stallPlace (d : Dev) (p : Place) (r : Stall) (m : Nat) : (d.stallPlace p r).pairBusy m = d.pairBusy m := by
  have keeps := d.pairBusy_updPlace p.id (f := fun q => { q with stall := r, excursions := q.excursions.or r.excursion }) (fun _ => rfl) m
  unfold Dev.stallPlace
  split
  · exact keeps
  · exact keeps

/-- An operation whose work is done and whose entries wait (R457). -/
def Place.awaiting (msgs : List (Nat × Nat)) (x : Excursions) (q : Place) : Place :=
  { q.finish with unsentMsgs := msgs, stall := if msgs.isEmpty then Stall.none else Stall.peer, excursions := x }

/-- An operation whose entries wait: where it stands, and what it leaves of the device. -/
theorem Dev.sending_spec {d : Dev} {p q : Place} (here : d.place p.id = some q) (msgs : List (Nat × Nat)) {f : Place → Place}
    (id_ : ∀ q, (f q).id = q.id) (unacked : ∀ q, (f q).unacked = q.unacked) :
    (∃ x, (d.sending p msgs f).place p.id = some ((f q).awaiting msgs x)) ∧
    (∃ b w, d.sending p msgs f = { d with board := b, qlk := { d.qlk with stepPeerWait := w } }) ∧
    (∀ m, (d.sending p msgs f).pairBusy m = d.pairBusy m) := by
  have place := Dev.place_upd_again (fun q => { (f q).finish with unsentMsgs := msgs }) here id_
  have busy (m : Nat) := d.pairBusy_updPlace p.id (f := fun q => { (f q).finish with unsentMsgs := msgs }) unacked m
  have rest : d.updPlace p.id (fun q => { (f q).finish with unsentMsgs := msgs }) =
      { d with board := (d.updPlace p.id fun q => { (f q).finish with unsentMsgs := msgs }).board } := rfl
  unfold Dev.sending
  generalize d.updPlace p.id (fun q => { (f q).finish with unsentMsgs := msgs }) = e at place busy rest
  split
  · rename_i none'
    refine ⟨⟨(f q).excursions, place.trans ?_⟩, ⟨e.board, d.qlk.stepPeerWait, rest⟩, busy⟩
    rw [Place.awaiting, if_pos none']
    rfl
  · rename_i some'
    obtain ⟨stalled, x, same⟩ := e.stallPlace_spec p .peer _ place
    refine ⟨⟨(f q).excursions.or Stall.peer.excursion, stalled.trans ?_⟩, ⟨(e.stallPlace p .peer).board, true, ?_⟩, fun m => (e.pairBusy_stallPlace p .peer m).trans (busy m)⟩
    · rw [Place.awaiting, if_neg some']
      rfl
    have peer : e.stallPlace p .peer = { e with board := (e.stallPlace p .peer).board, qlk := { e.qlk with stepPeerWait := true } } := rfl
    rw [peer, rest]

theorem Dev.sending_mem (d : Dev) (p : Place) (msgs : List (Nat × Nat)) (f : Place → Place) :
    (d.sending p msgs f).mem = d.mem ∧ (d.sending p msgs f).out = d.out ∧ (d.sending p msgs f).rings = d.rings ∧ (d.sending p msgs f).ctxs = d.ctxs := by
  unfold Dev.sending
  split
  · exact ⟨rfl, rfl, rfl, rfl⟩
  · exact ⟨rfl, rfl, rfl, rfl⟩

/-- Nothing leaves where no entry can. -/
theorem Dev.pump_stuck {d : Dev} {i : Nat} {p : Place} (here : d.place i = some p) (stuck : ∀ e ∈ p.unsentMsgs, Dev.sendEntry i d e = d) : d.pump i = d := by
  unfold Dev.pump
  rw [here]
  refine List.foldlRecOn (motive := fun e => e = d) _ _ rfl ?_
  rintro e rfl k listed
  exact stuck k listed

theorem Place.peerError_spec (q : Place) (finished : q.phase = .finished) (ok : q.status = .ok) :
    q.peerError.id = q.id ∧ q.peerError.phase = .finished ∧ q.peerError.status = .peerError ∧ q.peerError.unsentMsgs = [] := by
  unfold Place.peerError
  exact ⟨rfl, if_neg (by simp [finished]), if_pos ok, rfl⟩

/-- One entry whose module cannot be reached ends its operation, and no other is tried (R456). -/
theorem Dev.pump_unreachable {d : Dev} {i : Nat} {p : Place} {e : Nat × Nat} {l : List (Nat × Nat)} (here : d.place i = some p)
    (unsent : p.unsentMsgs = e :: l) (unreached : d.reaches e.1 = none) (other : p.op.opcode ≠ 0x62) : d.pump i = d.updPlace i Place.peerError := by
  have first := Dev.sendEntry_unreachable here (b := e) (by rw [unsent]; exact List.mem_cons_self) unreached other
  have place : (d.updPlace i Place.peerError).place i = some p.peerError := Dev.place_upd_again Place.peerError here fun _ => rfl
  unfold Dev.pump
  rw [here]
  simp only []
  rw [unsent, List.foldl_cons, first]
  refine List.foldlRecOn (motive := fun x => x = d.updPlace i Place.peerError) _ _ rfl ?_
  rintro x rfl k -
  unfold Dev.sendEntry
  rw [place]
  rfl

/-! ## EXCHANGE (R463, R464) -/

theorem Dev.WorkOnly.reaches {d e : Dev} (h : d.WorkOnly e) (m : Nat) : e.reaches m = d.reaches m := by
  unfold Dev.reaches Dev.port
  rw [h.qlk]

theorem Dev.WorkOnly.pairBusy {d e : Dev} (h : d.WorkOnly e) (m : Nat) : e.pairBusy m = d.pairBusy m := by
  unfold Dev.pairBusy
  rw [h.board]

/-- The entries of an EXCHANGE. -/
def Place.exchangeEntries (p : Place) : List (Nat × Nat) :=
  (List.range (if p.exchangesStream then p.exchangeTiles.length else ceilDiv (p.op.word 2) 65536)).map fun i => (p.op.fld 3 0 2, i)

theorem exec_exchange {s : State} {i : Nat} {d : Dev} {p : Place} (enters : s.dev.enters i (·.opcode == 0x60) = some (d, p)) (ready : p.inputsReady = true) :
    exec (.exchange i) s = .next { s with dev := ((d.io p).dev.sending p p.exchangeEntries id).pump p.id } :=
  exec_of_enters enters (if_pos ready)

/-- What the waiting entries leave of how modules are reached. -/
theorem Dev.reaches_of_rest {d e : Dev} (h : ∃ b w, e = { d with board := b, qlk := { d.qlk with stepPeerWait := w } }) (m : Nat) :
    e.reaches m = d.reaches m := by
  obtain ⟨b, w, rest⟩ := h
  rw [rest]
  rfl

theorem Dev.ports_of_rest {d e : Dev} (h : ∃ b w, e = { d with board := b, qlk := { d.qlk with stepPeerWait := w } }) :
    (∀ k, e.port k = d.port k) ∧ e.qlk.xsend = d.qlk.xsend := by
  obtain ⟨b, w, rest⟩ := h
  rw [rest]
  exact ⟨fun _ => rfl, rfl⟩

theorem Dev.enters_opcode {d e : Dev} {i c : Nat} {p : Place} (h : d.enters i (·.opcode == c) = some (e, p)) : p.op.opcode = c := by
  exact beq_iff_eq.1 (Dev.enters_sel h).1

theorem exchange_unreachable {s : State} {i : Nat} {d : Dev} {p : Place} (enters : s.dev.enters i (·.opcode == 0x60) = some (d, p))
    (ready : p.inputsReady = true) (unreached : d.reaches (p.op.fld 3 0 2) = none)
    (some_ : (if p.exchangesStream then p.exchangeTiles.length else ceilDiv (p.op.word 2) 65536) ≠ 0) (ok : p.status = .ok) :
    ∃ t q, exec (.exchange i) s = .next t ∧ t.dev.place i = some q ∧ q.phase = .finished ∧ q.status = .peerError ∧ q.unsentMsgs = [] ∧
        t.dev.out = d.out ∧ t.dev.mem = (d.io p).dev.mem := by
  obtain ⟨here, rfl⟩ := Dev.enters_place enters
  have work := (d.io_smooth p).work
  have there : (d.io p).dev.place p.id = some p := (work.place p.id).trans here
  obtain ⟨⟨x, place⟩, rest, -⟩ := Dev.sending_spec there p.exchangeEntries (f := id) (fun _ => rfl) fun _ => rfl
  obtain ⟨k, l, entries⟩ : ∃ k l, p.exchangeEntries = (p.op.fld 3 0 2, k) :: l := by
    unfold Place.exchangeEntries
    obtain ⟨n, hn⟩ := Nat.exists_eq_succ_of_ne_zero some_
    rw [hn, List.range_succ_eq_map]
    exact ⟨_, _, rfl⟩
  have away : ((d.io p).dev.sending p p.exchangeEntries id).reaches (p.op.fld 3 0 2) = none :=
    (Dev.reaches_of_rest rest _).trans ((work.reaches _).trans unreached)
  have pump := Dev.pump_unreachable place (e := (p.op.fld 3 0 2, k)) entries away (by
    show p.op.opcode ≠ 0x62
    rw [Dev.enters_opcode enters]
    decide)
  obtain ⟨mem, out, -⟩ := (d.io p).dev.sending_mem p p.exchangeEntries id
  have run := exec_exchange enters ready
  rw [pump] at run
  obtain ⟨-, phase, status, none_⟩ := Place.peerError_spec ((id p).awaiting p.exchangeEntries x) rfl ok
  refine ⟨_, _, run, Dev.place_upd_again Place.peerError place fun _ => rfl, phase, status, none_, out.trans work.out, mem⟩

theorem exchange_busy {s : State} {i port : Nat} {d : Dev} {p : Place} (enters : s.dev.enters i (·.opcode == 0x60) = some (d, p))
    (ready : p.inputsReady = true) (reached : d.reaches (p.op.fld 3 0 2) = some port) (busy : 4 ≤ d.pairBusy (p.op.fld 3 0 2))
    (some_ : (if p.exchangesStream then p.exchangeTiles.length else ceilDiv (p.op.word 2) 65536) ≠ 0) :
    ∃ t q, exec (.exchange i) s = .next t ∧ t.dev.place i = some q ∧ q.phase = .finished ∧ q.status = p.status ∧ q.stall = .peer ∧
        q.unsentMsgs = p.exchangeEntries ∧ t.dev.out = d.out ∧ t.dev.mem = (d.io p).dev.mem := by
  obtain ⟨here, rfl⟩ := Dev.enters_place enters
  have work := (d.io_smooth p).work
  have there : (d.io p).dev.place p.id = some p := (work.place p.id).trans here
  obtain ⟨⟨x, place⟩, rest, pairs⟩ := Dev.sending_spec there p.exchangeEntries (f := id) (fun _ => rfl) fun _ => rfl
  have code : p.op.opcode = 0x60 := Dev.enters_opcode enters
  have pump : ((d.io p).dev.sending p p.exchangeEntries id).pump p.id = (d.io p).dev.sending p p.exchangeEntries id := by
    refine Dev.pump_stuck place fun e listed => ?_
    have entry : e.1 = p.op.fld 3 0 2 := by
      obtain ⟨k, -, rfl⟩ := List.mem_map.1 listed
      rfl
    refine Dev.sendEntry_busy place (port := port) ?_ ?_ ?_
    · rw [entry]
      exact (Dev.reaches_of_rest rest _).trans ((work.reaches _).trans reached)
    · exact congrArg dataClass (if_pos code)
    · rw [entry, pairs, work.pairBusy]
      exact busy
  have waiting : p.exchangeEntries.isEmpty = false := by
    rw [List.isEmpty_eq_false_iff, ← List.length_pos_iff]
    unfold Place.exchangeEntries
    rw [List.length_map, List.length_range]
    exact Nat.pos_of_ne_zero some_
  obtain ⟨mem, out, -⟩ := (d.io p).dev.sending_mem p p.exchangeEntries id
  have run := exec_exchange enters ready
  rw [pump] at run
  exact ⟨_, _, run, place, rfl, rfl, if_neg (by simp [waiting]), rfl, out.trans work.out, mem⟩

/-- What an EXCHANGE sends it can read where its source can be read. -/
theorem Dev.entryMessage_reads {d e : Dev} {p q : Place} {r : Mio × QMessage} (code : q.op.opcode = 0x60) (op : q.op = p.op) (payload : q.payload = p.payload)
    (stream : q.exchangesStream = p.exchangesStream) (ctx : (e.agent q).ctx = q.ctxIx) (own : q.ctxIx = p.ctxIx)
    (from_ : ({ dev := e } : Mio).From d) (made : r = ({ dev := e } : Mio).entryMessage (e.agent q) q (p.op.fld 3 0 2, 0))
    (sound : r.1.waits = false ∧ r.1.fault = false ∨ p.exchangesStream = true ∨ p.inPads 0 = true ∨ d.Calm ∧ d.Feeds p 0 0 (min 65536 (p.op.word 2))) :
    r.1.waits = false ∧ r.1.fault = false := by
  have start : ({ dev := e } : Mio).waits = false ∧ ({ dev := e } : Mio).fault = false := ⟨rfl, rfl⟩
  rcases sound with h | h | h | ⟨calm, feeds⟩
  · exact h
  · obtain ⟨same, -⟩ := Mio.entryMessage_stream (m := { dev := e }) (g := e.agent q) (k := (p.op.fld 3 0 2, 0)) code (stream.trans h)
    rw [made, same]
    exact start
  · cases streams : q.exchangesStream with
    | true =>
      obtain ⟨same, -⟩ := Mio.entryMessage_stream (m := { dev := e }) (g := e.agent q) (k := (p.op.fld 3 0 2, 0)) code streams
      rw [made, same]
      exact start
    | false =>
      obtain ⟨same, -⟩ := Mio.entryMessage_bytes (m := { dev := e }) (g := e.agent q) (k := (p.op.fld 3 0 2, 0)) code streams
      have pads : q.inPads 0 = true := by rw [Place.inPads, payload, op]; exact h
      rw [made, same, Mio.flatAt, if_pos pads]
      exact start
  · cases streams : q.exchangesStream with
    | true =>
      obtain ⟨same, -⟩ := Mio.entryMessage_stream (m := { dev := e }) (g := e.agent q) (k := (p.op.fld 3 0 2, 0)) code streams
      rw [made, same]
      exact start
    | false =>
      obtain ⟨same, -⟩ := Mio.entryMessage_bytes (m := { dev := e }) (g := e.agent q) (k := (p.op.fld 3 0 2, 0)) code streams
      rw [made, same]
      unfold Mio.flatAt
      split
      · exact start
      · have reads : ({ dev := e } : Mio).dev.Feeds q 0 (0 * 65536) (min 65536 (q.op.word 2 - 0 * 65536)) := by
          have fed := from_.feeds calm feeds
          rw [Nat.zero_mul, Nat.sub_zero, op]
          unfold Dev.Feeds
          rw [payload, own, op]
          exact fed
        have smooth := Mio.readOperand_smooth { dev := e } (e.agent q) q 0 _ _ ctx (from_.calm calm) rfl rfl reads
        exact ⟨smooth.waits, smooth.fault⟩

theorem exchange_sends {s : State} {i port : Nat} {d e : Dev} {p q : Place} {r : Mio × QMessage} (enters : s.dev.enters i (·.opcode == 0x60) = some (d, p))
    (ready : p.inputsReady = true) (one : (if p.exchangesStream then p.exchangeTiles.length else ceilDiv (p.op.word 2) 65536) = 1)
    (reached : d.reaches (p.op.fld 3 0 2) = some port) (free : d.pairBusy (p.op.fld 3 0 2) < 4)
    (waits : e = (d.io p).dev.sending p [(p.op.fld 3 0 2, 0)] id) (there : e.place i = some q)
    (made : r = ({ dev := e } : Mio).entryMessage (e.agent q) q (p.op.fld 3 0 2, 0))
    (sound : r.1.waits = false ∧ r.1.fault = false ∨ p.exchangesStream = true ∨ p.inPads 0 = true ∨ d.Calm ∧ d.Feeds p 0 0 (min 65536 (p.op.word 2)))
    (takes : (d.port port).takes r.2 = true) : r.2.kind = 1 ∧
      ∃ t u m, exec (.exchange i) s = .next t ∧ t.dev.place i = some u ∧ u.phase = .finished ∧ u.status = p.status ∧ u.unsentMsgs = [] ∧
        u.unacked = p.unacked ++ [(p.op.fld 3 0 2, d.qlk.xsend.get 0 (p.op.fld 3 0 2))] ∧ t.dev.out = d.out ++ [.message port m] ∧
        m = { r.2 with xseq := d.qlk.xsend.get 0 (p.op.fld 3 0 2), check := m.check } ∧ m.check = m.checkOf ∧ t.dev.rings = d.rings := by
  obtain ⟨here, rfl⟩ := Dev.enters_place enters
  have code : p.op.opcode = 0x60 := Dev.enters_opcode enters
  have smooth := d.io_smooth p
  have work := smooth.work
  have there' : (d.io p).dev.place p.id = some p := (work.place p.id).trans here
  obtain ⟨⟨x, place⟩, rest, pairs⟩ := Dev.sending_spec there' [(p.op.fld 3 0 2, 0)] (f := id) (fun _ => rfl) fun _ => rfl
  obtain ⟨mem, out, rings, ctxs⟩ := (d.io p).dev.sending_mem p [(p.op.fld 3 0 2, 0)] id
  have entries : p.exchangeEntries = [(p.op.fld 3 0 2, 0)] := by
    unfold Place.exchangeEntries
    rw [one]
    rfl
  have run := exec_exchange enters ready
  rw [entries, ← waits] at run
  rw [← waits] at place rest pairs mem out rings ctxs
  have is : q = (id p).awaiting [(p.op.fld 3 0 2, 0)] x := Option.some.inj (there.symm.trans place)
  have from_ : ({ dev := e } : Mio).From d :=
    have begun := (d.io_from p).setDev mem ctxs
    ⟨⟨rfl, rfl, rfl⟩, begun.calm, begun.reads, begun.writes⟩
  have going : r.1.waits = false ∧ r.1.fault = false := by
    refine Dev.entryMessage_reads (q := q) (p := p) ?_ ?_ ?_ ?_ rfl ?_ from_ made sound
    all_goals rw [is]
    · exact code
    all_goals rfl
  have kind : r.2.kind = 1 := by
    have code' : q.op.opcode = 0x60 := by rw [is]; exact code
    rw [made]
    cases streams : q.exchangesStream with
    | true => exact (Mio.entryMessage_stream code' streams).2.1
    | false => exact (Mio.entryMessage_bytes code' streams).2.1
  have data : dataClass q.op.sendsKind = true := by
    rw [is]
    exact congrArg dataClass (if_pos code)
  have unsent : q.unsentMsgs = [(p.op.fld 3 0 2, 0)] := by rw [is]; rfl
  obtain ⟨port_, seq⟩ : (∀ k, e.port k = d.port k) ∧ e.qlk.xsend = d.qlk.xsend := by
    obtain ⟨ports, sends⟩ := Dev.ports_of_rest rest
    exact ⟨fun k => (ports k).trans (congrArg (fun q : Qlk => SMap.get ({} : Port) q.ports k) work.qlk), sends.trans (congrArg Qlk.xsend work.qlk)⟩
  obtain ⟨sent, rings', out', -⟩ := Dev.sendEntry_sends (e := (p.op.fld 3 0 2, 0)) there (by rw [unsent]; exact List.mem_singleton.2 rfl)
    ((Dev.reaches_of_rest rest _).trans ((work.reaches _).trans reached)) (fun _ => by rw [pairs, work.pairBusy]; exact free) made going.1 going.2
    ((port_ port).symm ▸ takes) (.inl (by rw [kind]; rfl)) rfl
  rw [Dev.pump_one there unsent] at run
  have sealed : e.sealed r.2 = { r.2 with xseq := d.qlk.xsend.get 0 (p.op.fld 3 0 2), check := (e.sealed r.2).check } := by
    have dst : r.2.dst = p.op.fld 3 0 2 := by rw [made]; exact (Mio.entryMessage_spec _ _ _ _).1
    rw [← dst, ← seq]
    rfl
  refine ⟨kind, _, _, _, run, sent, ?_, ?_, ?_, ?_, out'.trans (by rw [out, work.out]), sealed, Dev.sealed_check _ _, rings'.trans (rings.trans work.rings)⟩
  · rw [is]; rfl
  · rw [is]; rfl
  · rw [Place.sentEntry, unsent]
    simp
  · rw [Place.sentEntry, kind, seq, is]
    rfl

/-! ## ALL_TO_ALL (R465 to R467) -/

theorem exec_allToAll {s : State} {i : Nat} {d : Dev} {p : Place} (enters : s.dev.enters i (·.opcode == 0x61) = some (d, p)) :
    exec (.allToAll i) s = .next { s with dev := d.workAllToAll p } := exec_of_enters enters rfl

/-- The number of a collective is taken as it starts (R467). -/
theorem Dev.numberCollective_spec {d : Dev} {p : Place} (here : d.place p.id = some p) (fresh : p.coll = none) :
    (d.numberCollective p).place p.id = some { p with coll := some (d.ctx (p.seat * 16 + p.ctx)).collectives } ∧
      (d.numberCollective p).ctx (p.seat * 16 + p.ctx) =
        { d.ctx (p.seat * 16 + p.ctx) with collectives := ((d.ctx (p.seat * 16 + p.ctx)).collectives + 1) % 2 ^ 32 } ∧
      (d.numberCollective p).mem = d.mem ∧ (d.numberCollective p).out = d.out ∧ (d.numberCollective p).qlk = d.qlk ∧
      (∀ m, (d.numberCollective p).pairBusy m = d.pairBusy m) ∧ (∀ y, ((d.numberCollective p).ctx y).segs = (d.ctx y).segs) := by
  let f : Place → Place := fun q => { q with coll := some (d.ctx (p.seat * 16 + p.ctx)).collectives }
  let g : Ctx → Ctx := fun c => { c with collectives := (c.collectives + 1) % 2 ^ 32 }
  have run : d.numberCollective p = (d.updPlace p.id f).updCtx (p.seat * 16 + p.ctx) g := by
    unfold Dev.numberCollective
    rw [fresh]
  rw [run]
  refine ⟨Dev.place_upd_again f here fun _ => rfl, Dev.ctx_updCtx_same _ _ g, rfl, rfl, rfl, d.pairBusy_updPlace p.id fun _ => rfl, fun y => ?_⟩
  rw [Dev.ctx_updCtx]
  split
  · rename_i same
    rw [same]
    rfl
  · rfl

/-- Work begins alike on devices with the same memory and the same segments. -/
theorem Mio.From.begin {d e : Dev} (mem : e.mem = d.mem) (segs : ∀ y, (e.ctx y).segs = (d.ctx y).segs) : ({ dev := e } : Mio).From d := by
  have admitted (x a n : Nat) (h : d.Admitted x a n) : e.Admitted x a n := by
    unfold Dev.Admitted
    rw [mem]
    exact h
  have translate (x a n : Nat) (r w : Bool) : e.translate x a n r w = d.translate x a n r w := by
    unfold Dev.translate Ctx.covering
    rw [segs]
  refine ⟨⟨rfl, rfl, rfl⟩, fun calm => ?_, fun _ ⟨pa, i, at_, h⟩ => ⟨pa, i, (translate ..).trans at_, admitted _ _ _ h⟩,
    fun _ ⟨pa, i, at_, h⟩ => ⟨pa, i, (translate ..).trans at_, admitted _ _ _ h⟩⟩
  exact ⟨mem ▸ calm.1, fun a => (Mem.Gated.blocked (d := d) (e := e) (mem ▸ .refl _) a).trans (calm.2 a)⟩

theorem Mio.From.trans {d e : Dev} {m : Mio} (h : ({ dev := e } : Mio).From d) (k : m.From e) : m.From d :=
  ⟨k.done, fun c => k.calm (h.calm c), fun c o => k.reads (h.calm c) (h.reads c o), fun c o => k.writes (h.calm c) (h.writes c o)⟩

theorem Mio.From.write {d : Dev} {m : Mio} (h : m.From d) (g : Agent) (o : Opref) (a : Nat) (bs : List Byte) (po : List Bool) (calm : d.Calm)
    (writes : d.Writes g.ctx a bs.length) : (m.write g o a bs po).From d :=
  h.smooth (Mio.write_smooth m g o a bs po (h.calm calm) h.done.1 (.inr (h.writes calm writes)))

theorem Mio.From.readOperand {d : Dev} {m : Mio} (h : m.From d) (g : Agent) {p : Place} (w off n : Nat) (own : g.ctx = p.ctxIx) (calm : d.Calm)
    (feeds : d.Feeds p w off n) : (m.readOperand g p w off n).1.From d :=
  h.smooth (Mio.readOperand_smooth m g p w off n own (h.calm calm) h.done.1 h.done.2.2 (h.feeds calm feeds))

/-- The entries of an ALL_TO_ALL: a block for every other member. -/
def Dev.blockEntries (d : Dev) (p : Place) : List (Nat × Nat) :=
  ((List.range (p.op.fld 3 2 2)).filter (· ≠ d.cascade.moduleIndex - p.op.fld 3 0 2)).map fun j => (p.op.fld 3 0 2 + j, j)

/-- A place that has read its own block. -/
def Place.blockRead (po : List Bool) (q : Place) : Place := { q with flags := q.flags.or { poisoned := po.any fun b => b } }

/-- Memory work that is done goes on with its place having noted it. -/
theorem Dev.conclude_noted (d : Dev) (p : Place) {m : Mio} (f : Dev → Dev) (done : m.done) :
    d.conclude p m f = f (m.dev.updPlace p.id (Place.noted · m)) := by
  obtain ⟨going, sound, whole⟩ := done
  unfold Dev.conclude
  rw [if_neg (by simp [going])]
  exact (if_neg (by simp [sound])).trans (if_neg (by simp [whole]))

/-- Settles the clause of O52 about ALL_TO_ALL: its number, the block copied, and its entries, which wait. -/
theorem allToAll_starts {s : State} {i own b : Nat} {d e : Dev} {p : Place} {r : Mio × List Byte × List Bool} {m : Mio} {others : List (Nat × Nat)}
    (enters : s.dev.enters i (·.opcode == 0x61) = some (d, p)) (fresh : p.coll = none) (numbered : e = d.numberCollective p)
    (size : b = p.op.word 2) (mine : own = d.cascade.moduleIndex - p.op.fld 3 0 2) (read : r = (e.io p).readOperand (e.agent p) p 0 (own * b) b)
    (wrote : m = r.1.write (e.agent p) (p.op.ref 1) ((p.op.ref 1).addr + own * b) r.2.1 r.2.2)
    (sound : m.done ∨ d.Calm ∧ d.Feeds p 0 (own * b) b ∧ d.Writes p.ctxIx ((p.op.ref 1).addr + own * b) b)
    (rest : others = ((List.range (p.op.fld 3 2 2)).filter (· ≠ own)).map (fun j => (p.op.fld 3 0 2 + j, j)))
    (stuck : ∀ k ∈ others, d.reaches k.1 ≠ none ∧ 4 ≤ d.pairBusy k.1) :
    ∃ t q, exec (.allToAll i) s = .next t ∧ t.dev.place i = some q ∧ q.phase = .finished ∧ q.status = p.status ∧
      q.unsentMsgs = others ∧ q.coll = some (d.ctx (p.seat * 16 + p.ctx)).collectives ∧
      (t.dev.ctx (p.seat * 16 + p.ctx)).collectives = ((d.ctx (p.seat * 16 + p.ctx)).collectives + 1) % 2 ^ 32 ∧
      q.flags.poisoned = (p.flags.poisoned || r.2.2.any id) ∧ t.dev.mem = m.dev.mem ∧ t.dev.out = d.out := by
  obtain ⟨here, rfl⟩ := Dev.enters_place enters
  have code : p.op.opcode = 0x61 := Dev.enters_opcode enters
  obtain ⟨place, ctx, mem, out, qlk, pairs, segs⟩ := Dev.numberCollective_spec here fresh
  rw [← numbered] at place ctx mem out qlk pairs segs
  have cascade : e.cascade.moduleIndex = d.cascade.moduleIndex := by
    rw [numbered, Dev.numberCollective, fresh]
    rfl
  have begun : ({ dev := e } : Mio).From d := .begin mem segs
  have io := begun.trans (e.io_from p)
  have work : e.WorkOnly m.dev := by
    rw [wrote, read]
    exact (e.io_smooth p).work.trans ((Mio.work_readOperand _ _ _ _ _ _).trans (Mio.work_write _ _ _ _ _ _))
  have done : m.done := by
    rcases sound with h | ⟨calm, feeds, writes⟩
    · exact h
    · have length : r.2.1.length = b := by rw [read]; exact Mio.length_readOperand _ _ _ _ _ _
      have reads : r.1.From d := by rw [read]; exact io.readOperand (e.agent p) 0 _ _ rfl calm feeds
      rw [wrote]
      exact (reads.write (e.agent p) (p.op.ref 1) _ r.2.1 r.2.2 calm (length.symm ▸ writes)).done
  have form : d.workAllToAll p = e.conclude p m fun x => (x.sending p others (Place.blockRead r.2.2)).pump p.id := by
    rw [wrote, read, rest, size, mine, ← cascade, numbered]
    rfl
  have there : m.dev.place p.id = some { p with coll := some (d.ctx (p.seat * 16 + p.ctx)).collectives } := (work.place p.id).trans place
  rw [Dev.conclude_noted e p _ done] at form
  have noted := Dev.place_upd_again (Place.noted · m) there fun _ => rfl
  have busy (k : Nat) : (m.dev.updPlace p.id (Place.noted · m)).pairBusy k = d.pairBusy k :=
    (m.dev.pairBusy_updPlace p.id (f := (Place.noted · m)) (fun _ => rfl) k).trans ((work.pairBusy k).trans (pairs k))
  have reaches (k : Nat) : (m.dev.updPlace p.id (Place.noted · m)).reaches k = d.reaches k := by
    have same : (m.dev.updPlace p.id (Place.noted · m)).qlk = d.qlk := work.qlk.trans qlk
    unfold Dev.reaches Dev.port
    rw [same]
  have rest' : (m.dev.updPlace p.id (Place.noted · m)).mem = m.dev.mem ∧ (m.dev.updPlace p.id (Place.noted · m)).out = m.dev.out ∧
      (m.dev.updPlace p.id (Place.noted · m)).ctxs = m.dev.ctxs := ⟨rfl, rfl, rfl⟩
  generalize m.dev.updPlace p.id (Place.noted · m) = x at form noted busy reaches rest'
  obtain ⟨⟨y, waits⟩, kept, pairs'⟩ := Dev.sending_spec noted others (f := Place.blockRead r.2.2) (fun _ => rfl) fun _ => rfl
  obtain ⟨mem', out', -, ctxs'⟩ := x.sending_mem p others (Place.blockRead r.2.2)
  have pump : (x.sending p others (Place.blockRead r.2.2)).pump p.id = x.sending p others (Place.blockRead r.2.2) := by
    refine Dev.pump_stuck waits fun k listed => ?_
    obtain ⟨port, reached⟩ := Option.ne_none_iff_exists'.1 (stuck k listed).1
    refine Dev.sendEntry_busy waits (port := port) ((Dev.reaches_of_rest kept _).trans ((reaches _).trans reached)) ?_ ?_
    · refine congrArg dataClass ((if_neg ?_).trans (if_pos code))
      show p.op.opcode ≠ 0x60
      rw [code]
      decide
    · rw [pairs', busy]
      exact (stuck k listed).2
  rw [pump] at form
  have run := exec_allToAll enters
  rw [form] at run
  have collectives : ((x.sending p others (Place.blockRead r.2.2)).ctx (p.seat * 16 + p.ctx)).collectives =
      (e.ctx (p.seat * 16 + p.ctx)).collectives := by
    obtain ⟨a, b, c, f, same⟩ := work.ctx (p.seat * 16 + p.ctx)
    have moved : (x.sending p others (Place.blockRead r.2.2)).ctx (p.seat * 16 + p.ctx) = m.dev.ctx (p.seat * 16 + p.ctx) :=
      congrArg (fun l : SMap Ctx => SMap.get ({} : Ctx) l (p.seat * 16 + p.ctx)) (ctxs'.trans rest'.2.2)
    rw [moved, same]
  refine ⟨_, _, run, waits, rfl, rfl, rfl, rfl, ?_, rfl, mem'.trans rest'.1, out'.trans (rest'.2.1.trans (work.out.trans out))⟩
  rw [collectives, ctx]

end Sys2Proof.Machine
end

section
/-! SUPPORT. STEP_TOKEN, the decisions of a cascade, and the cascade operations together (R246 to R249, R468 to R475). -/

namespace Sys2Proof.Machine

/-! ## Decisions (R246 to R248, R470) -/

theorem Member.report_some {m : Member} {h x : Nat} (reported : m.report h = some x) : h ∈ m.reports.map (·.1) := by
  obtain ⟨r, found, -⟩ := Option.map_eq_some_iff.1 reported
  have handle : r.1 = h := by simpa using List.find?_some found
  exact List.mem_map.2 ⟨r, List.mem_of_find?_eq_some found, handle⟩

theorem Dev.mem_reported {d : Dev} {m h : Nat} (member : m ∈ d.included) (reported : (d.member m).report h ≠ none) : h ∈ d.reported := by
  obtain ⟨x, is⟩ := Option.ne_none_iff_exists'.1 reported
  exact List.mem_eraseDups.2 (List.mem_flatMap.2 ⟨m, member, Member.report_some is⟩)

theorem Dev.decisionFor_spec (d : Dev) (h : Nat) :
    ((∀ m ∈ d.included, (d.member m).report h = some 1) → d.decisionFor h = some (h, 1)) ∧
    ((∀ m ∈ d.included, (d.member m).report h ≠ none) → (∃ m ∈ d.included, (d.member m).report h ≠ some 1) →
      d.decisionFor h = some (h, 2)) ∧
    ((∃ m ∈ d.included, (d.member m).report h = none) → d.decisionFor h = none) := by
  refine ⟨fun all => if_pos ?_, fun all ⟨m, member, other⟩ => (if_neg fun every => other ?_).trans (if_pos ?_),
    fun ⟨m, member, none'⟩ => (if_neg fun every => ?_).trans (if_neg fun every => ?_)⟩
  · simpa using all
  · simpa using List.all_eq_true.1 every _ (List.mem_map_of_mem member)
  · simpa [Option.isSome_iff_ne_none] using all
  · have one := List.all_eq_true.1 every _ (List.mem_map_of_mem member)
    rw [none'] at one
    exact absurd one (by decide)
  · have one := List.all_eq_true.1 every _ (List.mem_map_of_mem member)
    rw [none'] at one
    exact absurd one (by decide)

theorem Dev.decisions_spec (d : Dev) : d.decisions.length ≤ 16 ∧ (d.waitingDecisions.length ≤ 16 → d.decisions = d.waitingDecisions) ∧
    (d.qlk.restarted = true →
      (∀ r ∈ d.trk.loggedDecisions, r ∈ d.waitingDecisions) ∧
      (∀ m ∈ d.included, ∀ h, (d.member m).report h = some 1 → (∀ r ∈ d.trk.loggedDecisions, r.1 ≠ h) → (h, 2) ∈ d.waitingDecisions)) ∧
    (d.qlk.restarted = false →
      (∀ r ∈ d.qlk.owed, r ∈ d.waitingDecisions) ∧
      (∀ m ∈ d.included, ∀ h, (d.member m).report h ≠ none → (∀ r ∈ d.qlk.owed, r.1 ≠ h) → ∀ r, d.decisionFor h = some r →
        r ∈ d.waitingDecisions)) := by
  refine ⟨List.length_take_le _ _, fun few => List.take_of_length_le few, fun restarted => ?_, fun running => ?_⟩
  · have owed (r : Nat × Nat) (owes : r ∈ d.restartDecisions) : r ∈ d.waitingDecisions := by
      unfold Dev.waitingDecisions
      dsimp only
      rw [if_pos restarted]
      exact List.mem_append_left _ owes
    refine ⟨fun r logged => owed r (List.mem_append_left _ logged), fun m member h prepared fresh => owed _ (List.mem_append_right _ ?_)⟩
    refine List.mem_map.2 ⟨h, List.mem_filter.2 ⟨Dev.mem_reported member (by simp [prepared]), ?_⟩, rfl⟩
    have unlogged : d.trk.loggedDecisions.any (·.1 == h) = false := by simpa using fresh
    have some_ : (d.included.any fun m => (d.member m).report h == some 1) = true := List.any_eq_true.2 ⟨m, member, by simp [prepared]⟩
    rw [unlogged, some_]
    rfl
  · unfold Dev.waitingDecisions
    dsimp only
    rw [if_neg (by simp [running])]
    refine ⟨fun r owes => List.mem_append_left _ owes, fun m member h reported fresh r decided => List.mem_append_right _ ?_⟩
    refine List.mem_filterMap.2 ⟨h, List.mem_filter.2 ⟨Dev.mem_reported member reported, ?_⟩, decided⟩
    simpa using fresh

/-! ## The highest epoch held in full (R249) -/

theorem Dev.holdsAll_iff (d : Dev) (k : TokenRec) : d.holdsAll k = true ↔
    ∀ r ∈ k.decisions, r.2 = 1 → ∃ u ∈ d.trk.tricks, u.cascade = true ∧ u.handle = r.1 ∧ (u.state = .prepared ∨ u.epoch.isSome = true) := by
  unfold Dev.holdsAll
  simp [List.all_eq_true, List.any_eq_true, imp_iff_not_or, and_assoc]

theorem Dev.heldEpoch_takeToken (d : Dev) (dealer : Bool) (k : TokenRec) : d.qlk.heldEpoch ≤ (d.takeToken dealer k).qlk.heldEpoch ∧
    (d.takeToken dealer k).qlk.step = k.step ∧ (d.takeToken dealer k).qlk.epoch = k.epoch ∧
    (d.qlk.heldEpoch ≠ k.prev → (d.takeToken dealer k).qlk.heldEpoch = d.qlk.heldEpoch) ∧
    (∀ r ∈ k.decisions, r.2 = 1 → (∀ u ∈ d.trk.tricks, u.cascade = true → u.handle ≠ r.1) →
      (d.takeToken dealer k).qlk.heldEpoch = d.qlk.heldEpoch) ∧
    (d.qlk.heldEpoch = k.prev → (∃ r ∈ k.decisions, r.2 = 1) ∨ d.qlk.tokens ≠ [] →
      (∀ r ∈ k.decisions, r.2 = 1 → ∃ u ∈ d.trk.tricks, u.cascade = true ∧ u.handle = r.1 ∧ u.state = .prepared) →
      (d.takeToken dealer k).qlk.heldEpoch = max d.qlk.heldEpoch k.epoch) := by
  obtain ⟨-, -, -, qlk⟩ := d.takeToken_spec dealer k
  rw [qlk]
  refine ⟨?_, rfl, rfl, fun other => if_neg ?_, fun r listed commits foreign => if_neg ?_, fun same spoke all => if_pos ?_⟩
  · show d.qlk.heldEpoch ≤ d.heldAfter k
    unfold Dev.heldAfter
    split
    · exact Nat.le_max_left _ _
    · exact Nat.le_refl _
  · simp [other]
  · have lacks : d.holdsAll k = false := by
      rw [← Bool.not_eq_true, d.holdsAll_iff]
      intro holds
      obtain ⟨u, member, cascade, handle, -⟩ := holds r listed commits
      exact foreign u member cascade handle
    simp [lacks]
  · have holds : d.holdsAll k = true := (d.holdsAll_iff k).2 fun r listed commits =>
      let ⟨u, member, cascade, handle, prepared⟩ := all r listed commits
      ⟨u, member, cascade, handle, .inl prepared⟩
    have spoken : (k.decisions.any (·.2 == 1) || !d.qlk.tokens.isEmpty) = true := by
      rcases spoke with ⟨r, listed, commits⟩ | tokens
      · rw [List.any_eq_true.2 ⟨r, listed, by simp [commits]⟩]
        rfl
      · simp [tokens]
    rw [holds, spoken, same]
    simp

/-! ## STEP_TOKEN operations that are tried again -/

theorem Dev.wakeTokens_of_idle {d : Dev} (idle : ∀ q ∈ d.board, q.op.opcode = 0x62 → q.phase ≠ .running) : d.wakeTokens = d := by
  have none_ : (d.board.filter fun p => p.op.opcode == 0x62 && p.phase == .running) = [] := by
    rw [List.filter_eq_nil_iff]
    intro q listed
    rw [Bool.and_eq_true, beq_iff_eq, beq_iff_eq]
    exact fun ⟨code, runs⟩ => idle q listed code runs
  have once : d.retryTokens = d := by unfold Dev.retryTokens; rw [none_]; rfl
  rw [Dev.wakeTokens, once, once]

/-- Where the only STEP_TOKEN ends, none runs. -/
theorem Dev.idle_of_map {d e : Dev} {i : Nat} {f : Place → Place} (only : d.OnlyToken i) (board : e.board = d.board.map fun q => if q.id = i then f q else q)
    (ends : ∀ q, (f q).phase ≠ .running) : ∀ q ∈ e.board, q.op.opcode = 0x62 → q.phase ≠ .running := by
  intro q listed code
  rw [board] at listed
  obtain ⟨r, on, rfl⟩ := List.mem_map.1 listed
  by_cases same : r.id = i
  · rw [if_pos same]
    exact ends r
  · rw [if_neg same] at code
    exact absurd (only r on code) same

/-- A device on which the only STEP_TOKEN, that of place `i`, waits for reason `r`, and nothing else has changed. -/
structure Dev.HeldAt (d e : Dev) (i : Nat) (p : Place) (r : Stall) : Prop where
  rest : ∃ b w, e = { d with board := b, qlk := { d.qlk with stepPeerWait := w } }
  quiet : r ≠ .peer → e.qlk = d.qlk
  place : ∃ x, e.place i = some { p with stall := r, excursions := x }
  only : e.OnlyToken i

theorem Dev.OnlyToken.stallPlace {e : Dev} {i : Nat} (only : e.OnlyToken i) (q : Place) (r : Stall) : (e.stallPlace q r).OnlyToken i := by
  have board : (e.stallPlace q r).board =
      e.board.map fun x => if x.id = q.id then { x with stall := r, excursions := x.excursions.or r.excursion } else x := by
    unfold Dev.stallPlace
    split <;> rfl
  intro x listed code
  rw [board] at listed
  obtain ⟨y, on, rfl⟩ := List.mem_map.1 listed
  by_cases same : y.id = q.id
  · rw [if_pos same] at code ⊢
    exact only y on code
  · rw [if_neg same] at code ⊢
    exact only y on code

/-- To wait once more changes nothing else. -/
theorem Dev.HeldAt.stall {d e : Dev} {i : Nat} {p q : Place} {r : Stall} (own : p.id = i) (only : e.OnlyToken i)
    (rest : ∃ b w, e = { d with board := b, qlk := { d.qlk with stepPeerWait := w } }) (quiet : r ≠ .peer → e.qlk = d.qlk) (here : e.place i = some q)
    (is : ∃ s x, q = { p with stall := s, excursions := x }) : d.HeldAt (e.stallPlace q r) i p r := by
  subst own
  obtain ⟨s, x, rfl⟩ := is
  obtain ⟨b, w, same⟩ := rest
  obtain ⟨place, y, stalled⟩ := e.stallPlace_spec { p with stall := s, excursions := x } r _ here
  refine ⟨?_, fun other => ?_, ⟨_, place⟩, only.stallPlace _ r⟩
  · unfold Dev.stallPlace
    split
    · exact ⟨(e.updPlace p.id fun q => { q with stall := r, excursions := q.excursions.or r.excursion }).board, true, by rw [same]; rfl⟩
    · exact ⟨(e.updPlace p.id fun q => { q with stall := r, excursions := q.excursions.or r.excursion }).board, w, by rw [same]; rfl⟩
  · have kept : (e.stallPlace { p with stall := s, excursions := x } r).qlk = e.qlk := by
      unfold Dev.stallPlace
      rw [if_neg other]
      rfl
    exact kept.trans (quiet other)

/-- An ISSUE that waits waits on when it is tried again. -/
theorem Dev.HeldAt.wake {d e : Dev} {i : Nat} {p : Place} {r : Stall} (held : d.HeldAt e i p r) (own : p.id = i) (issues : p.op.fld 1 0 1 = 0)
    (waits : ∀ (e : Dev) (q : Place), d.HeldAt e i p r → e.place i = some q → e.workIssue q = e.stallPlace q r) : d.HeldAt e.wakeTokens i p r := by
  have once {e : Dev} (held : d.HeldAt e i p r) : d.HeldAt e.retryTokens i p r := by
    have ids : ∀ q ∈ e.board.filter (fun p => p.op.opcode == 0x62 && p.phase == .running), q.id = i := fun q listed =>
      by
      obtain ⟨on, token⟩ := List.mem_filter.1 listed
      rw [Bool.and_eq_true, beq_iff_eq] at token
      exact held.only q on token.1
    unfold Dev.retryTokens
    refine List.foldlRecOn (motive := fun e => d.HeldAt e i p r) _ _ held fun f heldf q listed => ?_
    obtain ⟨x, place⟩ := heldf.place
    rw [ids q listed, place]
    dsimp only
    split
    · have work : f.workToken { p with stall := r, excursions := x } = f.stallPlace { p with stall := r, excursions := x } r := by
        unfold Dev.workToken
        dsimp only
        rw [issues]
        exact waits f _ heldf place
      rw [work]
      exact .stall own heldf.only heldf.rest heldf.quiet place ⟨r, x, rfl⟩
    · exact heldf
  exact once (once held)

/-! ## ISSUE (R469, R475) -/

/-- The command ISSUE enters. -/
def issueSel (o : OpWord) : Bool := o.opcode == 0x62 && o.fld 1 0 1 == 0

theorem issueSel_spec {o : OpWord} (h : (o.opcode == 0x62 && o.fld 1 0 1 == 0) = true) : o.opcode = 0x62 ∧ o.fld 1 0 1 = 0 := by
  rw [Bool.and_eq_true, beq_iff_eq, beq_iff_eq] at h
  exact h

theorem exec_issue {s : State} {i : Nat} {d : Dev} {p : Place}
    (enters : s.dev.enters i (fun o => o.opcode == 0x62 && o.fld 1 0 1 == 0) = some (d, p)) :
    exec (.stepTokenIssue i) s = .next { s with dev := (d.workIssue p).wakeTokens } := by
  refine congrArg (fun d : Dev => Host.Outcome.next { s with dev := d.wakeTokens }) ?_
  exact Dev.runOp_entered enters Dev.workIssue

/-- The outcomes of an ISSUE that does not issue. -/
theorem issue_waits {s : State} {i : Nat} {d : Dev} {p : Place} {r : Stall}
    (enters : s.dev.enters i (fun o => o.opcode == 0x62 && o.fld 1 0 1 == 0) = some (d, p)) (only : d.OnlyToken i)
    (waits : ∀ (e : Dev) (q : Place), (∃ b w, e = { d with board := b, qlk := { d.qlk with stepPeerWait := w } }) → q.op = p.op →
      e.workIssue q = e.stallPlace q r) :
    ∃ t q, exec (.stepTokenIssue i) s = .next t ∧ t.dev.place i = some q ∧ q.phase = .running ∧ q.stall = r ∧
        t.dev.qlk.step = d.qlk.step ∧ t.dev.out = d.out ∧ (r ≠ .peer → t.dev.qlk = d.qlk) := by
  obtain ⟨here, own⟩ := Dev.enters_place enters
  obtain ⟨sel, running⟩ := Dev.enters_sel enters
  have same : ∃ b w, d = { d with board := b, qlk := { d.qlk with stepPeerWait := w } } := ⟨d.board, d.qlk.stepPeerWait, rfl⟩
  have first : d.HeldAt (d.stallPlace p r) i p r := .stall own only same (fun _ => rfl) here ⟨p.stall, p.excursions, rfl⟩
  have held : d.HeldAt (d.stallPlace p r).wakeTokens i p r := first.wake own (issueSel_spec sel).2 fun e q held at_ => by
    obtain ⟨x, place⟩ := held.place
    have is := Option.some.inj (at_.symm.trans place)
    exact waits e q held.rest (by rw [is])
  have run := exec_issue enters
  rw [waits d p same rfl] at run
  obtain ⟨x, place⟩ := held.place
  obtain ⟨b, w, rest⟩ := held.rest
  refine ⟨_, _, run, place, running, rfl, ?_, ?_, held.quiet⟩
  · dsimp only
    rw [rest]
  · dsimp only
    rw [rest]

theorem issue_bad {s : State} {i : Nat} {d : Dev} {p : Place}
    (enters : s.dev.enters i (fun o => o.opcode == 0x62 && o.fld 1 0 1 == 0) = some (d, p)) (only : d.OnlyToken i) (bad : p.op.word 0 ≠ d.qlk.step + 1) :
    ∃ t q, exec (.stepTokenIssue i) s = .next t ∧ t.dev.place i = some q ∧ q.phase = .finished ∧ q.status = .badDescriptor ∧ t.dev.qlk = d.qlk := by
  obtain ⟨here, rfl⟩ := Dev.enters_place enters
  have run := exec_issue enters
  have fails : d.workIssue p = d.updPlace p.id (Place.fail · .badDescriptor) := if_pos bad
  rw [fails, Dev.wakeTokens_of_idle (Dev.idle_of_map only rfl fun q => by simp [Place.fail])] at run
  exact ⟨_, _, run, Dev.place_upd_again (Place.fail · .badDescriptor) here fun _ => rfl, rfl, rfl, rfl⟩

/-- The dealer's table and log before its token is kept. -/
def Dev.issuing (d : Dev) (step : Nat) : Dev :=
  ({ d.tickFree with qlk := { d.qlk with
      restarted := false, owed := (if d.qlk.restarted then d.restartDecisions else d.qlk.owed).drop 16,
      members := d.qlk.members.mapAll fun _ k => { k with reports := k.reports.filter fun r => !d.decisions.any (·.1 == r.1) } } } : Dev).dropOrphans step

/-- The cascade epoch of the next token (R246, log 44). -/
def Dev.nextEpoch (d : Dev) : Nat :=
  if d.decisions.any (·.2 == 1) then (d.qlk.epoch + 1 + Config.freeNat d.free) % 2 ^ 64 else d.qlk.epoch

/-- The device once the dealer has its token. -/
def Dev.issued (d : Dev) (step : Nat) : Dev := (d.issuing step).takeToken true (d.tokenRec step d.nextEpoch d.decisions)

theorem Dev.takeToken_layout (d : Dev) (b : Bool) (k : TokenRec) : (d.takeToken b k).layout = d.layout := by
  obtain ⟨x, tricks, trk, m, l, r, e⟩ := ({ d with qlk := { d.qlk with heldEpoch := d.heldAfter k } } : Dev).recordDecisions_spec b k.decisions k.step k.epoch
  have taken : d.takeToken b k = _ := congrArg (Dev.keepToken · k) e
  rw [taken]
  rfl

theorem Dev.issued_spec (d : Dev) (step : Nat) : (d.issued step).board = d.board ∧ (d.issued step).qlk.step = step ∧ (d.issued step).qlk.epoch = d.nextEpoch ∧
    d.tokenRec step d.nextEpoch d.decisions ∈ (d.issued step).qlk.tokens ∧ (d.issued step).qlk.tokens.length ≤ max 16 d.qlk.tokens.length ∧
    (d.issued step).qlk.restarted = false := by
  obtain ⟨board, -, -, qlk⟩ := (d.issuing step).takeToken_spec true (d.tokenRec step d.nextEpoch d.decisions)
  rw [Dev.issued, qlk]
  refine ⟨board, rfl, rfl, mem_drop_append_last d.qlk.tokens _, ?_, rfl⟩
  show ((d.qlk.tokens ++ [d.tokenRec step d.nextEpoch d.decisions]).drop (d.qlk.tokens.length - 15)).length ≤ _
  rw [List.length_drop, List.length_append, List.length_singleton]
  omega

/-- The other members that take part in a token are those that took part before. -/
theorem Dev.issued_included (d : Dev) (step : Nat) : (d.issued step).included.filter (· ≠ (d.issued step).cascade.moduleIndex) =
    d.included.filter (· ≠ d.cascade.moduleIndex) := by
  have layout : (d.issued step).layout = d.layout := Dev.takeToken_layout (d.issuing step) true _
  have exclude : (d.issued step).qlk.exclude = d.qlk.exclude := by
    obtain ⟨-, -, -, qlk⟩ := (d.issuing step).takeToken_spec true (d.tokenRec step d.nextEpoch d.decisions)
    rw [Dev.issued, qlk]
    rfl
  unfold Dev.included Dev.excluded Dev.cascade
  rw [layout, exclude]

/-- A place whose token has been issued. -/
def Place.issued (d : Dev) (p q : Place) : Place := { q with dest := p.op.destOf 2 d.nextEpoch }

theorem Dev.issueToken_eq (d : Dev) (p : Place) : d.issueToken p = (d.issued (p.op.word 0)).finishSending p
    (((d.issued (p.op.word 0)).included.filter (· ≠ (d.issued (p.op.word 0)).cascade.moduleIndex)).map fun m => (m, 0)) (Place.issued d p) := rfl

/-- A place that has ended with nothing to send. -/
def Place.sentNothing (q : Place) : Place := { q.finish with unsentMsgs := [] }

theorem Dev.finishSending_nothing {d : Dev} {p q : Place} {f : Place → Place} (here : d.place p.id = some q) (id_ : ∀ q, (f q).id = q.id) :
    d.finishSending p [] f = d.updPlace p.id (fun q => (f q).sentNothing) ∧
      (d.updPlace p.id fun q => (f q).sentNothing).place p.id = some (f q).sentNothing := by
  have place := Dev.place_upd_again (fun q => (f q).sentNothing) here id_
  exact ⟨Dev.pump_nothing place rfl, place⟩

theorem issue_issues {s : State} {i : Nat} {d : Dev} {p : Place}
    (enters : s.dev.enters i (fun o => o.opcode == 0x62 && o.fld 1 0 1 == 0) = some (d, p)) (only : d.OnlyToken i) (next : p.op.word 0 = d.qlk.step + 1)
    (all : ∀ m ∈ d.included, (d.member m).step = some (p.op.word 0 - 1)) (alone : d.included.filter (· ≠ d.cascade.moduleIndex) = [])
    (free : d.decisions = [] ∨ d.logBlocked = false) :
    ∃ t q, exec (.stepTokenIssue i) s = .next t ∧ t.dev.place i = some q ∧ q.phase = .finished ∧ q.status = p.status ∧
        q.dest = (if p.op.word 2 = 0 then none else some ⟨(p.op.ref 2).addr, leBytes 8 d.nextEpoch⟩) ∧ t.dev.qlk = (d.issued (p.op.word 0)).qlk := by
  obtain ⟨here, rfl⟩ := Dev.enters_place enters
  have works : d.workIssue p = d.issueToken p := by
    refine (if_neg (not_not_intro next)).trans ((if_neg ?_).trans (if_neg ?_))
    · simpa using all
    · rcases free with h | h <;> simp [h]
  have board : (d.issued (p.op.word 0)).board = d.board := (d.issued_spec (p.op.word 0)).1
  have there : (d.issued (p.op.word 0)).place p.id = some p := by rw [Dev.place, board]; exact here
  have run := exec_issue enters
  rw [works, d.issueToken_eq p, d.issued_included, alone, List.map_nil] at run
  generalize d.issued (p.op.word 0) = e at board there run
  obtain ⟨ends, place⟩ := Dev.finishSending_nothing (f := Place.issued d p) there fun _ => rfl
  have idle := Dev.idle_of_map (e := e.updPlace p.id fun q => (Place.issued d p q).sentNothing) (f := fun q => (Place.issued d p q).sentNothing) only
    (congrArg (List.map fun q : Place => if q.id = p.id then (Place.issued d p q).sentNothing else q) board) fun q => by simp [Place.sentNothing, Place.finish]
  rw [ends, Dev.wakeTokens_of_idle idle] at run
  exact ⟨_, _, run, place, rfl, rfl, rfl, rfl⟩

/-! ## AWAIT (R247, R469) -/

theorem exec_await {s : State} {i : Nat} {d e : Dev} {p : Place}
    (enters : s.dev.enters i (fun o => o.opcode == 0x62 && o.fld 1 0 1 == 1) = some (d, p)) (work : d.workAwait p = e) :
    exec (.stepTokenAwait i) s = .next { s with dev := e } := exec_of_enters enters work

/-- A decision of which this module has no trick decides none. -/
theorem Dev.decideTrick_foreign {d : Dev} {r : Nat × Nat} (step epoch : Nat) (foreign : ∀ u ∈ d.trk.tricks, u.cascade = true → u.handle ≠ r.1) :
    (d.decideTrick r.1 r.2 step epoch).trk.tricks = d.trk.tricks ∧ (d.decideTrick r.1 r.2 step epoch).board = d.board := by
  obtain ⟨k, tricks, trk, m, l, x, rest⟩ := d.recordDecisions_spec false [(r.1, r.2)] step epoch
  have same : (d.recordDecisions false [(r.1, r.2)] step epoch).trk.tricks = d.trk.tricks := by rw [trk, tricks]
  have none_ : ∀ f : Trick → Bool, ((d.recordDecisions false [(r.1, r.2)] step epoch).trk.tricks.find? fun t =>
      (t.cascade && t.handle == r.1 && t.state == .prepared) && f t) = none := fun f => by
    rw [same, List.find?_eq_none]
    intro u member mine
    simp only [Bool.and_eq_true, beq_iff_eq] at mine
    exact foreign u member mine.1.1.1 mine.1.1.2
  unfold Dev.decideTrick
  dsimp only
  rw [none_]
  exact ⟨same, by rw [rest]⟩

theorem Dev.applyToken_foreign {d : Dev} {k : TokenRec} (foreign : ∀ r ∈ k.decisions, ∀ u ∈ d.trk.tricks, u.cascade = true → u.handle ≠ r.1) :
    (d.applyToken k).trk.tricks = d.trk.tricks ∧ (d.applyToken k).board = d.board := by
  have decided : (k.decisions.foldl (fun d r => d.decideTrick r.1 r.2 k.step k.epoch) d).trk.tricks = d.trk.tricks ∧
      (k.decisions.foldl (fun d r => d.decideTrick r.1 r.2 k.step k.epoch) d).board = d.board := by
    refine List.foldlRecOn (motive := fun e : Dev => e.trk.tricks = d.trk.tricks ∧ e.board = d.board) _ _ ⟨rfl, rfl⟩ fun e ⟨tricks, board⟩ r listed => ?_
    obtain ⟨same, kept⟩ := Dev.decideTrick_foreign (d := e) (r := r) k.step k.epoch (tricks ▸ foreign r listed)
    exact ⟨same.trans tricks, kept.trans board⟩
  unfold Dev.applyToken
  split
  · exact ⟨rfl, rfl⟩
  · exact decided

theorem await_ends {s : State} {i : Nat} {d : Dev} {p : Place} {k : TokenRec}
    (enters : s.dev.enters i (fun o => o.opcode == 0x62 && o.fld 1 0 1 == 1) = some (d, p)) (has : d.tokenOf (p.op.word 0) = some k)
    (foreign : ∀ r ∈ k.decisions, ∀ u ∈ d.trk.tricks, u.cascade = true → u.handle ≠ r.1) :
    ∃ t q, exec (.stepTokenAwait i) s = .next t ∧ t.dev.place i = some q ∧ q.phase = .finished ∧ q.status = p.status ∧
        q.dest = (if p.op.word 2 = 0 then none else some ⟨(p.op.ref 2).addr, leBytes 8 k.epoch⟩) ∧ t.dev.trk.tricks = d.trk.tricks := by
  obtain ⟨here, rfl⟩ := Dev.enters_place enters
  obtain ⟨tricks, board⟩ := Dev.applyToken_foreign foreign
  have done : ¬((d.applyToken k).committing k || ((d.applyToken k).trk.tricks.any fun u =>
      k.decisions.any (·.1 == u.handle) && u.cascade && decide ((d.applyToken k).trk.lce < u.epoch.getD 0))) = true := by
    rw [Dev.committing, tricks, Bool.or_eq_true]
    rintro (h | h)
    · obtain ⟨r, listed, found⟩ := List.any_eq_true.1 h
      rw [Bool.and_eq_true] at found
      obtain ⟨u, member, mine⟩ := List.any_eq_true.1 found.2
      simp only [Bool.and_eq_true, beq_iff_eq] at mine
      exact foreign r listed u member mine.1.1 mine.1.2
    · obtain ⟨u, member, mine⟩ := List.any_eq_true.1 h
      simp only [Bool.and_eq_true] at mine
      obtain ⟨r, listed, same⟩ := List.any_eq_true.1 mine.1.1
      exact foreign r listed u member mine.1.2 (beq_iff_eq.1 same).symm
  have work : d.workAwait p = (d.applyToken k).updPlace p.id fun q => { q.finish with dest := p.op.destOf 2 k.epoch } := by
    unfold Dev.workAwait
    rw [has]
    exact if_neg done
  have there : (d.applyToken k).place p.id = some p := by rw [Dev.place, board]; exact here
  exact ⟨_, _, exec_await enters work, Dev.place_upd_again (fun q => { q.finish with dest := p.op.destOf 2 k.epoch }) there fun _ => rfl, rfl, rfl, rfl, tricks⟩

theorem await_waits {s : State} {i : Nat} {d : Dev} {p : Place}
    (enters : s.dev.enters i (fun o => o.opcode == 0x62 && o.fld 1 0 1 == 1) = some (d, p)) (lacks : d.tokenOf (p.op.word 0) = none)
    (next : p.op.word 0 = d.qlk.step + 1) :
    ∃ t q, exec (.stepTokenAwait i) s = .next t ∧ t.dev.place i = some q ∧
      q.phase = p.phase ∧ q.stall = .peer ∧ t.dev.qlk.step = d.qlk.step ∧ t.dev.qlk.stepPeerWait = true := by
  obtain ⟨here, rfl⟩ := Dev.enters_place enters
  have work : d.workAwait p = d.stallPlace p .peer := by
    unfold Dev.workAwait
    rw [lacks]
    exact if_pos next
  exact ⟨_, _, exec_await enters work, (d.stallPlace_spec p .peer p here).1, rfl, rfl, rfl, rfl⟩

/-! ## RESPOND (R469, R471) -/

theorem exec_respond {s : State} {i : Nat} {d : Dev} {p : Place}
    (enters : s.dev.enters i (fun o => o.opcode == 0x62 && o.fld 1 0 1 == 2) = some (d, p)) :
    exec (.stepTokenRespond i) s = .next { s with dev := (d.workRespond p).wakeTokens } := by
  refine congrArg (fun d : Dev => Host.Outcome.next { s with dev := d.wakeTokens }) ?_
  exact Dev.runOp_entered enters Dev.workRespond

theorem respond_bad {s : State} {i : Nat} {d : Dev} {p : Place}
    (enters : s.dev.enters i (fun o => o.opcode == 0x62 && o.fld 1 0 1 == 2) = some (d, p)) (only : d.OnlyToken i) (ahead : d.qlk.step < p.op.word 0) :
    ∃ t q, exec (.stepTokenRespond i) s = .next t ∧ t.dev.place i = some q ∧ q.phase = .finished ∧ q.status = .badDescriptor ∧ t.dev.qlk = d.qlk := by
  obtain ⟨here, rfl⟩ := Dev.enters_place enters
  have run := exec_respond enters
  have fails : d.workRespond p = d.updPlace p.id (Place.fail · .badDescriptor) := if_pos ahead
  rw [fails, Dev.wakeTokens_of_idle (Dev.idle_of_map only rfl fun q => by simp [Place.fail])] at run
  exact ⟨_, _, run, Dev.place_upd_again (Place.fail · .badDescriptor) here fun _ => rfl, rfl, rfl, rfl⟩

/-- A place that has responded. -/
def Place.responded (p q : Place) : Place := { q with dest := p.op.destOf 2 (p.op.word 0) }

theorem respond_dealer {s : State} {i : Nat} {d : Dev} {p : Place}
    (enters : s.dev.enters i (fun o => o.opcode == 0x62 && o.fld 1 0 1 == 2) = some (d, p)) (only : d.OnlyToken i) (behind : p.op.word 0 ≤ d.qlk.step)
    (dealer : d.cascade.dealer = 1) :
    ∃ t q k, exec (.stepTokenRespond i) s = .next t ∧ t.dev.place i = some q ∧ q.phase = .finished ∧ q.status = p.status ∧
        q.dest = (if p.op.word 2 = 0 then none else some ⟨(p.op.ref 2).addr, leBytes 8 (p.op.word 0)⟩) ∧ k = t.dev.member d.cascade.moduleIndex ∧
        k.step = some (p.op.word 0) ∧ k.heldEpoch = d.qlk.heldEpoch ∧ (∀ r ∈ d.trickReports, r ∈ k.reports) ∧ t.dev.qlk.stepPeerWait = false ∧
        t.dev.out = d.out := by
  obtain ⟨here, rfl⟩ := Dev.enters_place enters
  obtain ⟨sel, -⟩ := Dev.enters_sel enters
  rw [Bool.and_eq_true, beq_iff_eq, beq_iff_eq] at sel
  obtain ⟨e, recorded⟩ : ∃ e, e = (d.recordResponse d.cascade.moduleIndex (p.op.word 0) d.trickReports d.qlk.heldEpoch).responseSent p := ⟨_, rfl⟩
  have works : d.workRespond p = e.finishSending p [] (Place.responded p) := by
    rw [recorded]
    exact (if_neg (Nat.not_lt.2 behind)).trans (if_pos dealer)
  have sent : e = { d.recordResponse d.cascade.moduleIndex (p.op.word 0) d.trickReports d.qlk.heldEpoch with
      qlk := { (d.recordResponse d.cascade.moduleIndex (p.op.word 0) d.trickReports d.qlk.heldEpoch).qlk with stepThermal := false, stepPeerWait := false } } :=
    recorded.trans (if_pos sel)
  have row : e.member d.cascade.moduleIndex = (d.recordResponse d.cascade.moduleIndex (p.op.word 0) d.trickReports d.qlk.heldEpoch).member d.cascade.moduleIndex := by
    rw [sent]
    rfl
  rw [Dev.recordResponse, Dev.member_updMember] at row
  have board : e.board = d.board ∧ e.out = d.out ∧ e.qlk.stepPeerWait = false := by
    rw [sent]
    exact ⟨rfl, rfl, rfl⟩
  have there : e.place p.id = some p := by rw [Dev.place, board.1]; exact here
  have run := exec_respond enters
  rw [works] at run
  clear sent recorded works
  obtain ⟨ends, place⟩ := Dev.finishSending_nothing (f := Place.responded p) there fun _ => rfl
  have idle := Dev.idle_of_map (e := e.updPlace p.id fun q => (Place.responded p q).sentNothing) (f := fun q => (Place.responded p q).sentNothing) only
    (congrArg (List.map fun q : Place => if q.id = p.id then (Place.responded p q).sentNothing else q) board.1) fun q => by simp [Place.sentNothing, Place.finish]
  rw [ends, Dev.wakeTokens_of_idle idle] at run
  refine ⟨_, _, e.member d.cascade.moduleIndex, run, place, rfl, rfl, rfl, rfl, by rw [row], by rw [row], fun r listed => ?_, board.2.2, board.2.1⟩
  rw [row]
  exact List.mem_append_right _ listed

/-- A STEP_TOKEN whose module cannot be reached: the message goes, and shows as PEER_ERROR. -/
def Place.unreached (e : Nat × Nat) (q : Place) : Place :=
  { q with unsentMsgs := q.unsentMsgs.erase e, status := if q.status = .ok then .peerError else q.status }

/-- A response that waits for its dealer. -/
def Place.respondWaits (p : Place) (e : Nat × Nat) (q : Place) : Place :=
  { (Place.responded p q).finish with unsentMsgs := [e], stall := .peer, excursions := q.excursions.or Stall.peer.excursion }

theorem Dev.sendEntry_token_unreachable {d : Dev} {i : Nat} {e : Nat × Nat} {p : Place} (here : d.place i = some p) (unsent : e ∈ p.unsentMsgs)
    (unreached : d.reaches e.1 = none) (token : p.op.opcode = 0x62) : Dev.sendEntry i d e = d.updPlace i (Place.unreached e) := by
  unfold Dev.sendEntry
  rw [here]
  dsimp only
  rw [if_neg (by simp [unsent]), unreached]
  exact if_pos token

theorem respond_unreachable {s : State} {i : Nat} {d : Dev} {p : Place}
    (enters : s.dev.enters i (fun o => o.opcode == 0x62 && o.fld 1 0 1 == 2) = some (d, p)) (only : d.OnlyToken i) (behind : p.op.word 0 ≤ d.qlk.step)
    (member : d.cascade.dealer ≠ 1) (unreached : d.reaches d.cascade.dealerIndex = none) (ok : p.status = .ok) :
    ∃ t q, exec (.stepTokenRespond i) s = .next t ∧ t.dev.place i = some q ∧ q.phase = .finished ∧ q.status = .peerError ∧ t.dev.out = d.out := by
  obtain ⟨here, rfl⟩ := Dev.enters_place enters
  obtain ⟨sel, -⟩ := Dev.enters_sel enters
  rw [Bool.and_eq_true, beq_iff_eq, beq_iff_eq] at sel
  have works : d.workRespond p = (d.sending p [(d.cascade.dealerIndex, 0)] (Place.responded p)).pump p.id :=
    (if_neg (Nat.not_lt.2 behind)).trans (if_neg member)
  obtain ⟨⟨x, place⟩, rest, -⟩ := Dev.sending_spec here [(d.cascade.dealerIndex, 0)] (f := Place.responded p) (fun _ => rfl) fun _ => rfl
  obtain ⟨-, out, -⟩ := d.sending_mem p [(d.cascade.dealerIndex, 0)] (Place.responded p)
  have away : (d.sending p [(d.cascade.dealerIndex, 0)] (Place.responded p)).reaches d.cascade.dealerIndex = none :=
    (Dev.reaches_of_rest rest _).trans unreached
  have sent := Dev.sendEntry_token_unreachable (e := (d.cascade.dealerIndex, 0)) place (List.mem_singleton.2 rfl) away sel.1
  have ends : (d.sending p [(d.cascade.dealerIndex, 0)] (Place.responded p)).board =
      ((d.updPlace p.id fun q => { (Place.responded p q).finish with unsentMsgs := [(d.cascade.dealerIndex, 0)] }).stallPlace p .peer).board := rfl
  have idle : ∀ q ∈ ((d.sending p [(d.cascade.dealerIndex, 0)] (Place.responded p)).updPlace p.id (Place.unreached (d.cascade.dealerIndex, 0))).board,
      q.op.opcode = 0x62 → q.phase ≠ .running := by
    refine Dev.idle_of_map (f := fun q => Place.unreached (d.cascade.dealerIndex, 0) (Place.respondWaits p (d.cascade.dealerIndex, 0) q)) only ?_ fun q => ?_
    · show ((d.board.map _).map _).map _ = _
      rw [List.map_map, List.map_map]
      refine List.map_congr_left fun q _ => ?_
      by_cases same : q.id = p.id
      · simp [same, Place.respondWaits, Place.responded, Place.finish]
      · simp [same]
    · simp [Place.unreached, Place.respondWaits, Place.finish]
  have run := exec_respond enters
  rw [works, Dev.pump_one place rfl, sent, Dev.wakeTokens_of_idle idle] at run
  exact ⟨_, _, run, Dev.place_upd_again (Place.unreached (d.cascade.dealerIndex, 0)) place fun _ => rfl, rfl, if_pos ok, out⟩

theorem issue_clause (s : State) (i step ep : Nat) (d : Dev) (p : Place) (ds : List (Nat × Nat)) (others : List Nat)
    (enters : s.dev.enters i (fun o => o.opcode == 0x62 && o.fld 1 0 1 == 0) = some (d, p)) (only : d.OnlyToken i) (is : step = p.op.word 0)
    (decides : ds = d.decisions) (rest : others = d.included.filter (· ≠ d.cascade.moduleIndex)) :
    (step ≠ d.qlk.step + 1 → ∃ t q, exec (.stepTokenIssue i) s = .next t ∧ t.dev.place i = some q ∧ q.phase = .finished ∧
      q.status = .badDescriptor ∧ t.dev.qlk = d.qlk) ∧
    (step = d.qlk.step + 1 → (∃ m ∈ d.included, (d.member m).step ≠ some (step - 1)) →
      ∃ t q, exec (.stepTokenIssue i) s = .next t ∧ t.dev.place i = some q ∧ q.phase = .running ∧ q.stall = .peer ∧
        t.dev.qlk.step = d.qlk.step ∧ t.dev.out = d.out) ∧
    (step = d.qlk.step + 1 → (∀ m ∈ d.included, (d.member m).step = some (step - 1)) → others = [] →
      ds = [] ∨ d.logBlocked = false → ep = (if ds.any (·.2 == 1) then (d.qlk.epoch + 1 + Config.freeNat d.free) % 2 ^ 64 else d.qlk.epoch) →
      ∃ t q, exec (.stepTokenIssue i) s = .next t ∧ t.dev.place i = some q ∧ q.phase = .finished ∧ q.status = p.status ∧
        q.dest = (if p.op.word 2 = 0 then none else some ⟨(p.op.ref 2).addr, leBytes 8 ep⟩) ∧ t.dev.qlk.step = step ∧ t.dev.qlk.epoch = ep ∧
        d.tokenRec step ep ds ∈ t.dev.qlk.tokens ∧ t.dev.qlk.tokens.length ≤ max 16 d.qlk.tokens.length ∧ t.dev.qlk.restarted = false) ∧
    (step = d.qlk.step + 1 → (∀ m ∈ d.included, (d.member m).step = some (step - 1)) → ds ≠ [] → d.logBlocked = true →
      ∃ t q, exec (.stepTokenIssue i) s = .next t ∧ t.dev.place i = some q ∧ q.phase = .running ∧ q.stall = .thermal ∧
        t.dev.qlk = d.qlk ∧ t.dev.out = d.out) := by
  subst is decides rest
  refine ⟨issue_bad enters only, fun next ⟨m, member, silent⟩ => ?_, fun next all alone free epoch => ?_, fun next all owes blocked => ?_⟩
  · obtain ⟨t, q, run, place, running, stall, kept, out, -⟩ := issue_waits (r := .peer) enters only fun e q ⟨b, w, same⟩ op => by
      have lacks : ¬(e.included.all fun m => (e.member m).step == some (q.op.word 0 - 1)) = true := by
        rw [same, op]
        intro every
        exact silent (beq_iff_eq.1 (List.all_eq_true.1 every m member))
      have step : ¬(q.op.word 0 ≠ e.qlk.step + 1) := by rw [same, op]; exact not_not_intro next
      exact (if_neg step).trans (if_pos (by simpa using lacks))
    exact ⟨t, q, run, place, running, stall, kept, out⟩
  · obtain ⟨t, q, run, place, phase, status, dest, qlk⟩ := issue_issues enters only next all alone free
    obtain ⟨-, step, epochs, kept, few, restarted⟩ := d.issued_spec (p.op.word 0)
    rw [epoch]
    exact ⟨t, q, run, place, phase, status, dest, by rw [qlk, step], by rw [qlk, epochs]; rfl, qlk ▸ kept, qlk ▸ few, qlk ▸ restarted⟩
  · obtain ⟨t, q, run, place, running, stall, -, out, kept⟩ := issue_waits (r := .thermal) enters only fun e q ⟨b, w, same⟩ op => by
      have step : ¬(q.op.word 0 ≠ e.qlk.step + 1) := by rw [same, op]; exact not_not_intro next
      have every : (e.included.all fun m => (e.member m).step == some (q.op.word 0 - 1)) = true := by
        rw [same, op]
        exact List.all_eq_true.2 fun m member => beq_iff_eq.2 (all m member)
      have waits : (!e.decisions.isEmpty && e.logBlocked) = true := by
        have decisions : e.decisions = d.decisions := by rw [same]; rfl
        have log : e.logBlocked = d.logBlocked := by rw [same]; rfl
        rw [decisions, log, blocked]
        simp [owes]
      exact (if_neg step).trans ((if_neg (by simp [every])).trans (if_pos waits))
    exact ⟨t, q, run, place, running, stall, kept (by decide), out⟩

/-- Settles O52: what leaves is read off the entry that is sent; an operation that waits, waits on when it is tried again. -/
theorem cascadeOperations : Obligations.CascadeOperations := by
  refine ⟨fun d i port x p e r here unsent reached free made going sound takes first seq => ?_,
    fun d i p e here unsent unreached other => Dev.sendEntry_unreachable here unsent unreached other,
    fun s i n peer d a p enters ready io count far => ?_, fun s i own b d e p r m others enters => allToAll_starts enters,
    issue_clause, fun s i step d p enters is => ?_, Dev.heldEpoch_takeToken,
    fun s i step d p enters only is => ?_, Dev.decisionFor_spec, Dev.decisions_spec, fun m g p k code => ?_,
    fun m g p k => ⟨fun code => ?_, fun code responds => ?_, fun code issues => ?_⟩⟩
  · have dst : r.2.dst = e.1 := by rw [made]; exact (Mio.entryMessage_spec _ _ _ _).1
    obtain ⟨place, -, out, count, flits⟩ := Dev.sendEntry_sends here unsent reached free made going sound takes first seq
    refine ⟨dst, _, _, place, rfl, rfl, rfl, ?_, out, ?_, Dev.sealed_check _ _, count, flits⟩
    · show (if r.2.kind = 3 then p.unacked else p.unacked ++ [(e.1, x)]) = _
      split <;> simp
    · rw [seq, ← dst]
      rfl
  · subst io count far
    obtain ⟨-, rfl⟩ := Dev.enters_place enters
    refine ⟨exchange_unreachable enters ready, fun port reached busy some_ => exchange_busy enters ready reached busy some_,
      fun port e q r one reached free waits there made sound takes => exchange_sends enters ready one reached free waits there made sound takes⟩
  · subst is
    refine ⟨fun lacks other => exec_await enters ?_, await_waits enters, fun k has foreign => await_ends enters has foreign⟩
    obtain ⟨-, rfl⟩ := Dev.enters_place enters
    unfold Dev.workAwait
    rw [lacks]
    exact if_neg other
  · subst is
    exact ⟨respond_bad enters only, respond_dealer enters only, respond_unreachable enters only⟩
  · exact (Mio.entryMessage_block code).2
  · refine ⟨?_, fun bytes => (Mio.entryMessage_bytes code bytes).2.2.2, fun stream => (Mio.entryMessage_stream code stream).2.2.2⟩
    cases stream : p.exchangesStream with
    | true => exact (Mio.entryMessage_stream code stream).2.1
    | false => exact (Mio.entryMessage_bytes code stream).2.1
  · exact (Mio.entryMessage_response (by rw [code]; decide) (by rw [code]; decide) responds).2.2
  · exact (Mio.entryMessage_token (by rw [code]; decide) (by rw [code]; decide) issues).2.2

end Sys2Proof.Machine
end

section
/-! SUPPORT. Table entries of the stacks through memory work: no work makes one uncorrectable (R482). -/

namespace Sys2Proof.Machine

/-! ## Uncorrectable entries, stack by stack -/

theorem SMap.mem_put {α : Type} [DecidableEq α] {d v : α} {m : SMap α} {k : Nat} {e : Nat × α} (h : e ∈ SMap.put d m k v) : e = (k, v) ∨ e ∈ m := by
  unfold SMap.put at h
  split at h
  · exact .inr (SMap.mem_del h)
  · exact SMap.mem_ins h

/-- What a key holds is listed, or the default. -/
theorem SMap.get_mem {α : Type} (d : α) (k : Nat) : ∀ m : SMap α, SMap.get d m k = d ∨ (k, SMap.get d m k) ∈ m
  | [] => .inl rfl
  | (j, v) :: m => by
    by_cases same : j = k
    · have found : SMap.get d ((j, v) :: m) k = v := if_pos same
      rw [found, same]
      exact .inr List.mem_cons_self
    · have past : SMap.get d ((j, v) :: m) k = SMap.get d m k := if_neg same
      rw [past]
      exact (SMap.get_mem d k m).imp_right (List.mem_cons_of_mem _)

/-- Every uncorrectable entry that the stacks of `k` list, those of `m` list too. -/
def Mem.Srams (m k : Mem) : Prop := ∀ e ∈ k.dies, e.2.sramBad = [] ∨ ∃ f ∈ m.dies, f.1 = e.1 ∧ f.2.sramBad = e.2.sramBad

theorem Mem.Srams.of {m k : Mem} (same : k.dies = m.dies) : m.Srams k := fun e listed => .inr ⟨e, same ▸ listed, rfl, rfl⟩

theorem Mem.Srams.trans {a b c : Mem} (h : a.Srams b) (g : b.Srams c) : a.Srams c := fun e listed => by
  rcases g e listed with none_ | ⟨f, member, key, bad⟩
  · exact .inl none_
  · rcases h f member with none_ | ⟨f', member', key', bad'⟩
    · exact .inl (bad.symm.trans none_)
    · exact .inr ⟨f', member', key'.trans key, bad'.trans bad⟩

theorem Mem.Srams.updStack (m : Mem) (x : Nat) {f : Stack → Stack} (keeps : ∀ k, (f k).sramBad = k.sramBad) : m.Srams (m.updStack x f) := fun e listed => by
  rcases SMap.mem_put listed with rfl | before
  · have now : (f (m.stack x)).sramBad = (m.stack x).sramBad := keeps _
    rcases SMap.get_mem {} x m.dies with default | found
    · exact .inl (now.trans (congrArg Stack.sramBad default))
    · exact .inr ⟨_, found, rfl, now.symm⟩
  · exact .inr ⟨e, before, rfl, rfl⟩

/-- While no atom has symbol errors, dies go on serving what they served, and no table entry becomes uncorrectable. -/
def Dev.Lasts (d e : Dev) : Prop := d.Tame e ∧ (d.mem.upsets = [] → d.mem.Srams e.mem)

theorem Dev.Lasts.of {d e : Dev} (same : e.mem = d.mem) : d.Lasts e := ⟨.of same, fun _ => .of (congrArg Mem.dies same)⟩

theorem Dev.Lasts.trans {a b c : Dev} (h : a.Lasts b) (g : b.Lasts c) : a.Lasts c :=
  ⟨h.1.trans g.1, fun u => (h.2 u).trans (g.2 ((h.1 u).1 u))⟩

theorem Dev.Lasts.foldl {α : Type} {f : Dev → α → Dev} (step : ∀ d a, Dev.Lasts d (f d a)) (l : List α) (d : Dev) : d.Lasts (l.foldl f d) :=
  List.foldlRecOn (motive := fun e => d.Lasts e) l _ (.of rfl) fun e h a _ => h.trans (step e a)

theorem Dev.Lasts.updStack (d : Dev) (x : Nat) {f : Stack → Stack} (keeps : ∀ k, (f k).gates = k.gates) : d.Lasts (d.updStack x f) :=
  ⟨.updStack d x f keeps, fun _ => .updStack d.mem x fun k => congrArg (fun g => g.2.1) (keeps k)⟩

theorem Dev.Lasts.readPoison (d : Dev) (a : Nat) (w : Who) : d.Lasts (d.readPoison a w) := by
  have fault (e : Dev) : e.Lasts (e.recordFault a 8 w) := Dev.Lasts.updStack e _ fun _ => rfl
  exact (Dev.Lasts.updStack d (stackOf a) (f := fun k => { k with poisonReads := satInc32 k.poisonReads 1 }) fun _ => rfl).trans (fault _)

theorem Dev.Lasts.readAtom (d : Dev) (a : Nat) (w : Who) : d.Lasts (d.readAtom a none w).1 := by
  refine ⟨fun u => (d.readAtom_tame a w u).1, fun u => ?_⟩
  unfold Dev.readAtom
  dsimp only
  split
  · exact .of rfl
  · split
    · exact (Dev.Lasts.readPoison d _ w).2 u
    · rw [u]
      exact .of rfl

theorem Mem.dies_fillFrame (m : Mem) (x f : Nat) : m.Srams (m.fillFrame x f) := by
  let b := m.locate (frameAddr x f)
  let m2 := (m.dropRange b 65536).updStack (stackOf b) fun k => { k with frames := SMap.upd {} k.frames (frameOf b) fun e => { e with lost := 0 } }
  let m3 := m2.updStack x fun k => { k with frames := SMap.upd {} k.frames f fun e => { e with zero := false } }
  have first : m.Srams m2 := (Mem.Srams.of rfl).trans (.updStack (m.dropRange b 65536) _ fun _ => rfl)
  have second : m2.Srams m3 := .updStack m2 _ fun _ => rfl
  exact first.trans (second.trans (.of rfl))

theorem Dev.Lasts.writeAtom (d : Dev) (a : Nat) (bs : List Byte) (w : Who) : d.Lasts (d.writeAtom a bs w) := by
  refine ⟨.writeAtom d a bs w, fun u => ?_⟩
  have filled : d.Lasts (if (d.mem.frame (stackOf a) (frameOf a)).zero then ({ d with mem := d.mem.fillFrame (stackOf a) (frameOf a) } : Dev) else d) := by
    split
    · exact ⟨fun _ => .fillFrame _ _ _, fun _ => Mem.dies_fillFrame _ _ _⟩
    · exact .of rfl
  unfold Dev.writeAtom
  refine (filled.2 u).trans ?_
  have u' := (filled.1 u).1 u
  generalize (if (d.mem.frame (stackOf a) (frameOf a)).zero then ({ d with mem := d.mem.fillFrame (stackOf a) (frameOf a) } : Dev) else d) = e at u' ⊢
  dsimp only
  split
  · exact .of (Mem.dies_putBytes _ _ _).1
  · refine ((Dev.Lasts.readAtom e a w).2 u').trans (.of ?_)
    split
    · exact (Mem.dies_putBytes _ _ _).1
    · exact ((Mem.dies_putBytes _ _ _).1).trans (Mem.dies_putBytes _ _ _).1

theorem Dev.Lasts.setMem (d : Dev) {m : Mem} (same : m.dies = d.mem.dies) (errors : m.upsets = d.mem.upsets) : d.Lasts { d with mem := m } :=
  ⟨fun _ => .of same fun u => errors.trans u, fun _ => .of same⟩

theorem Dev.Lasts.memWrite (d : Dev) (t a : Nat) (bs : List Byte) (p : Bool) : d.Lasts (d.memWrite t a bs p) := by
  unfold Dev.memWrite
  split
  · exact .of rfl
  · split
    · dsimp only
      split
      · exact (Dev.Lasts.writeAtom d a bs _).trans (.setMem _ rfl rfl)
      · exact .writeAtom _ _ _ _
    · exact .of rfl

theorem Dev.Lasts.hold (d : Dev) (h : HeldReq) : d.Lasts (d.hold h) := .updStack _ _ fun _ => rfl

theorem Dev.Lasts.transfer (d : Dev) (g : Agent) (w : Bool) (l : List (Nat × Nat)) : d.Lasts (d.transfer g w l) := .of rfl

theorem Dev.Lasts.transferAtoms (d : Dev) (g : Agent) (w : Bool) (l : List Nat) : d.Lasts (d.transferAtoms g w l) :=
  .foldl (fun d _ => .transfer d _ _ _) _ _

theorem Dev.Lasts.writeBack (d : Dev) (l : Line) : d.Lasts (d.writeBack l) := by
  unfold Dev.writeBack
  dsimp only
  split
  · exact .of rfl
  · refine Dev.Lasts.trans (.transfer d ⟨l.tag % 1024, l.stack, .loose⟩ true [(64 * l.atom, 64)]) ?_
    split
    · exact .hold _ _
    · exact .memWrite _ _ _ _ _

theorem Dev.Lasts.allocate (d : Dev) (l : Line) : d.Lasts (d.allocate l) := by
  unfold Dev.allocate
  dsimp only
  split
  · exact .of rfl
  · exact (Dev.Lasts.writeBack _ _).trans (.of rfl)

theorem Dev.Lasts.flushLines (d : Dev) (p : Line → Bool) : d.Lasts (d.flushLines p) := (Dev.Lasts.foldl Dev.Lasts.writeBack _ d).trans (.of rfl)

/-! ## Memory work -/

theorem lasts_foldl {α β : Type} (dev : β → Dev) {f : β → α → β} (step : ∀ q a, (dev q).Lasts (dev (f q a))) {d : Dev} (l : List α) (q : β)
    (sofar : d.Lasts (dev q)) : d.Lasts (dev (l.foldl f q)) :=
  List.foldlRecOn (motive := fun r => d.Lasts (dev r)) l _ sofar fun r h a _ => h.trans (step r a)

theorem Mio.lasts_flush (m : Mio) (p : Line → Bool) : m.dev.Lasts (m.flush p).dev := by
  unfold Mio.flush
  dsimp only
  rw [Mio.touches_dev]
  exact .flushLines _ _

theorem Mio.lasts_allocate (m : Mio) (l : Line) : m.dev.Lasts (m.allocate l).dev := by
  unfold Mio.allocate
  dsimp only
  split
  · split <;> exact .allocate _ _
  · exact .allocate _ _

theorem Mio.lasts_readMem (m : Mio) (g : Agent) (a : Nat) : m.dev.Lasts (m.readMem g a).1.dev := by
  have reach := m.reach_dev a
  unfold Mio.readMem
  dsimp only
  split
  · exact .of (congrArg Dev.mem reach)
  · split
    · dsimp only
      rw [reach]
      exact .of rfl
    · split
      · exact .of (congrArg Dev.mem reach)
      · dsimp only
        rw [reach]
        exact .readAtom _ _ _

theorem Mio.lasts_readAtom (m : Mio) (g : Agent) (a : Nat) (h : Hint) (b : Bool) : m.dev.Lasts (m.readAtom g a h b).1.dev := by
  unfold Mio.readAtom
  dsimp only
  split
  · exact .of (Dev.mem_hitLine _ _ _ _)
  · split
    · exact m.lasts_readMem _ _
    · refine (m.lasts_readMem g (64 * (a / 64))).trans ?_
      exact (Dev.Lasts.of (Dev.mem_allocKind _ _ _ _ _)).trans (Mio.lasts_allocate { (m.readMem g (64 * (a / 64))).1 with dev := _ } _)

theorem Mio.lasts_xfault (m : Mio) (g : Agent) (a : Nat) (t : Xlate) : m.dev.Lasts (m.xfault g a t).dev := by
  cases t
  · exact .of rfl
  · exact .of rfl
  · exact .of rfl

theorem Mio.lasts_read (m : Mio) (g : Agent) (o : Opref) (a n : Nat) : m.dev.Lasts (m.read g o a n).1.dev := by
  unfold Mio.read
  dsimp only
  split
  · exact .of rfl
  · split
    · dsimp only
      refine lasts_foldl (fun q : Mio × List Byte × List Bool => q.1.dev) (fun q p => ?_) _ _ (.transferAtoms _ _ _ _)
      unfold Mio.readPiece
      dsimp only
      split
      · exact .of rfl
      · exact q.1.lasts_readAtom _ _ _ _
    · exact m.lasts_xfault _ _ _

theorem Mio.lasts_readOperand (m : Mio) (g : Agent) (p : Place) (w off n : Nat) : m.dev.Lasts (m.readOperand g p w off n).1.dev := by
  unfold Mio.readOperand
  dsimp only
  split
  · exact .of rfl
  · exact m.lasts_read _ _ _ _

theorem Dev.lasts_io (d : Dev) (p : Place) : d.Lasts (d.io p).dev := by
  unfold Dev.io
  refine lasts_foldl Mio.dev (fun m f => ?_) _ _ (.of rfl)
  split
  · refine lasts_foldl Mio.dev (fun m r => ?_) _ _ (.of rfl)
    unfold Mio.acquireRef
    split
    · exact (m.lasts_flush _).trans (.of rfl)
    · exact .of rfl
  · exact .of rfl

/-- A row's lookup finds its entries still where work has kept them. -/
theorem Dev.rowSram_lasts {d e : Dev} (errors : d.mem.upsets = []) (lasts : d.Lasts e) (trk : e.trk = d.trk) {home table row : Nat}
    (good : d.rowSram home table row = false) : e.rowSram home table row = false := by
  rw [← Bool.not_eq_true] at good ⊢
  intro bad
  refine good ?_
  unfold Dev.rowSram at bad ⊢
  obtain ⟨k, listed, entries⟩ := List.any_eq_true.1 bad
  rcases lasts.2 errors k listed with none_ | ⟨f, member, key, same⟩
  · rw [none_] at entries
    cases entries
  · refine List.any_eq_true.2 ⟨f, member, ?_⟩
    rw [key, same, ← trk]
    exact entries

end Sys2Proof.Machine
end

section
/-! SUPPORT. Tricks until their commit (R214 to R228): admission, the place that a record takes in its staging area, and the commands that
open, commit and abort a trick. -/

namespace Sys2Proof.Machine

/-! ## Admission and staging -/

/-- Settles the clause of O45 about admission. -/
theorem Trk.admission_spec {k : Trk} {n rows e : Nat} (h : k.admission n rows = some e) : e < 1024 ∧ (∀ t ∈ k.tricks, t.entry ≠ e) ∧ k.heldBy n < 64 ∧
    k.reserved + rows ≤ 2097152 ∧ (k.reserved + rows) * 1088 ≤ 2 ^ 31 := by
  unfold Trk.admission at h
  split at h
  · rename_i room
    unfold Trk.freeEntry at h
    have unused := List.find?_some h
    have small := List.mem_range.1 (List.mem_of_find?_eq_some h)
    refine ⟨small, fun t listed same => ?_, room⟩
    rw [Bool.not_eq_true', List.any_eq_false] at unused
    exact unused t listed (beq_iff_eq.2 same)
  · cases h

theorem foldl_min_mem : ∀ (l : List Nat) (a : Nat), l.foldl min a ∈ a :: l
  | [], _ => List.mem_cons_self
  | b :: l, a => by
    rcases List.mem_cons.1 (foldl_min_mem l (min a b)) with early | later
    · rcases Nat.le_total a b with le | le
      · rw [List.foldl_cons, early, Nat.min_eq_left le]
        exact List.mem_cons_self
      · rw [List.foldl_cons, early, Nat.min_eq_right le]
        exact List.mem_cons_of_mem _ List.mem_cons_self
    · exact List.mem_cons_of_mem _ (List.mem_cons_of_mem _ later)

theorem findGap_spec {taken : List (Nat × Nat)} {range : Nat × Nat} {n g : Nat} (h : findGap taken range n = some g) :
    range.1 ≤ g ∧ g + n ≤ range.2 ∧ ∀ u ∈ taken, rangesMeet g n u.1 u.2 = false := by
  unfold findGap at h
  dsimp only at h
  split at h
  · cases h
  · rename_i s rest eq
    have listed := foldl_min_mem rest s
    rw [Option.some.inj h, ← eq] at listed
    have fits := (List.mem_filter.1 listed).2
    rw [Bool.and_eq_true, Bool.and_eq_true, decide_eq_true_eq, decide_eq_true_eq, List.all_eq_true] at fits
    exact ⟨fits.1.1, fits.1.2, fun u member => by simpa using fits.2 u member⟩

theorem mem_sectionsByFree {x p : Nat} {taken : List (Nat × Nat)} (h : p ∈ sectionsByFree x taken) : p < 64 := by
  unfold sectionsByFree at h
  obtain ⟨a, listed, rfl⟩ := List.mem_map.1 h
  obtain ⟨i, small, rfl⟩ := List.mem_map.1 (List.mem_mergeSort.1 listed)
  exact List.mem_range.1 small

theorem Trk.stage_eq {k k' : Trk} {r : Staged} {pc : Nat} (h : k.stage r pc = some k') :
    ∃ g, k.findGranule r.stack pc r.atoms = some g ∧ k' = { k with staged := k.staged ++ [{ r with granule := g }] } := by
  unfold Trk.stage at h
  split at h
  · obtain ⟨g, found, eq⟩ := Option.map_eq_some_iff.1 h
    exact ⟨g, found, eq.symm⟩
  · cases h

/-- Settles the clause of O45 about the granules of a record: free, in the staging area, and not of the commit log. -/
theorem Trk.stage_spec {k k' : Trk} {r : Staged} {pc : Nat} (h : k.stage r pc = some k') (section_ : pc < 64) :
    ∃ g, k' = { k with staged := k.staged ++ [{ r with granule := g }] } ∧
    g + r.atoms ≤ 2 ^ 26 ∧ (r.stack = 0 → 4096 ≤ g) ∧
    (∀ u ∈ k.staged, u.stack = r.stack → g + r.atoms ≤ u.granule ∨ u.granule + u.atoms ≤ g) := by
  obtain ⟨g, found, eq⟩ := Trk.stage_eq h
  unfold Trk.findGranule at found
  obtain ⟨p, listed, gap⟩ := List.exists_of_findSome?_eq_some found
  have small : p < 64 := (List.mem_cons.1 listed).elim (fun same => same ▸ section_) mem_sectionsByFree
  obtain ⟨low, high, free⟩ := findGap_spec gap
  unfold sectionRange at low high
  dsimp only at low high
  refine ⟨g, eq, by omega, fun zero => ?_, fun u member same => ?_⟩
  · by_cases first : p = 0
    · rw [if_pos ⟨zero, first⟩] at low
      omega
    · omega
  · have apart := free (u.granule, u.atoms) (List.mem_map.2 ⟨u, List.mem_filter.2 ⟨member, beq_iff_eq.2 same⟩, rfl⟩)
    unfold rangesMeet at apart
    have own : 0 < r.atoms := by unfold Staged.atoms; omega
    have other : 0 < u.atoms := by unfold Staged.atoms; omega
    simp only [own, other, decide_true, Bool.true_and, Bool.and_eq_false_iff, decide_eq_false_iff_not, Nat.not_lt] at apart
    omega

/-- Settles the clause of O45 about records staged in order. -/
theorem Trk.stageAll_spec : ∀ (rs : List (Staged × Nat)) {k k' : Trk}, k.stageAll rs = .ok k' → ∃ new, k' = { k with staged := k.staged ++ new } ∧
    new.map (fun r => { r with granule := 0 }) = rs.map (fun r => { r.1 with granule := 0 })
  | [], k, k', h => ⟨[], by cases h; rw [List.append_nil], rfl⟩
  | (r, pc) :: rs, k, k', h => by
    unfold Trk.stageAll at h
    split at h
    · rename_i k1 first
      obtain ⟨g, -, eq⟩ := Trk.stage_eq first
      obtain ⟨new, all, match_⟩ := Trk.stageAll_spec rs h
      refine ⟨{ r with granule := g } :: new, ?_, ?_⟩
      · rw [all, eq]
        dsimp only
        rw [List.append_assoc]
        rfl
      · rw [List.map_cons, List.map_cons, match_]
    · cases h

/-- Settles the clause of O45 about the PUTs that a TRICK_COMMIT waits for. -/
theorem Dev.putsDone_iff (d : Dev) (t : Trick) (p : Place) : d.putsDone t p = false ↔ ∃ q ∈ d.board, q.op.opcode = 0x31 ∧ q.seat = t.seat ∧ q.ring = t.ring ∧
    q.op.fld 3 0 4 = t.handle ∧ q.bad = false ∧ q.skipped = false ∧ q.ringKey < p.ringKey ∧ (q.phase = .waiting ∨ q.phase = .running) := by
  unfold Dev.putsDone
  rw [Bool.not_eq_false', List.any_eq_true]
  refine exists_congr fun q => and_congr_right fun _ => ?_
  simp only [Bool.and_eq_true, beq_iff_eq, Bool.not_eq_true', decide_eq_true_eq, Bool.or_eq_true, and_assoc]

/-! ## TRICK_OPEN -/

theorem Dev.workOpen_used {d : Dev} {p : Place} (used : d.trk.byHandle p.seat (p.op.fld 0 0 4) ≠ none) : d.workOpen p = d.failBad p := by
  unfold Dev.workOpen
  dsimp only
  exact if_pos (Option.isSome_iff_ne_none.2 used)

theorem Dev.workOpen_full {d : Dev} {p : Place} (new : d.trk.byHandle p.seat (p.op.fld 0 0 4) = none)
    (full : d.trk.admission p.seat (p.op.fld 0 4 4) = none) : d.workOpen p = d.stallPlace p .trickBackpressure := by
  unfold Dev.workOpen
  dsimp only
  rw [new, full]
  exact if_neg (by simp)

/-- The trick that a TRICK_OPEN makes in an entry (R214, R215). -/
def Place.opens (p : Place) (e : Nat) : Trick :=
  { entry := e, handle := p.op.fld 0 0 4, seat := p.seat, ring := p.ring, rowsMax := p.op.fld 0 4 4, cascade := p.op.fld 1 0 1 == 1, state := .open_,
    handleInUse := true }

theorem Dev.workOpen_admits {d : Dev} {p : Place} {e : Nat} (new : d.trk.byHandle p.seat (p.op.fld 0 0 4) = none)
    (room : d.trk.admission p.seat (p.op.fld 0 4 4) = some e) (sound : d.sramLost .trickTable e = false) :
    d.workOpen p = ({ d with trk := { d.trk with tricks := d.trk.tricks ++ [p.opens e] } }).updPlace p.id Place.finish := by
  unfold Dev.workOpen
  dsimp only
  rw [new, room]
  refine (if_neg (by simp)).trans ?_
  dsimp only
  rw [sound]
  rfl

/-! ## TRICK_PUT, TRICK_COMMIT and TRICK_ABORT on a trick -/

theorem Dev.workPut_open {d : Dev} {p : Place} {k : Trick} (twice : List Nat) (found : d.trk.byHandle p.seat (p.op.fld 3 0 4) = some k) (ring : k.ring = p.ring)
    (sound : d.sramLost .trickTable k.entry = false) (state : k.state = .open_) : Dev.workPut twice d p = d.putRows p k twice := by
  unfold Dev.workPut
  rw [found]
  dsimp only
  rw [sound, state]
  exact if_neg (not_not.2 ring)

theorem Dev.workCommit_open {d : Dev} {p : Place} {k : Trick} (found : d.trk.byHandle p.seat (p.op.fld 0 0 4) = some k) (ring : k.ring = p.ring)
    (sound : d.sramLost .trickTable k.entry = false) (state : k.state = .open_) (free : k.commit ≠ some p.id) :
    d.workCommit p = if d.putsDone k p then d.updTrick k.entry fun t => { t with state := .commit, commit := some p.id } else d := by
  unfold Dev.workCommit
  rw [found]
  dsimp only
  rw [sound, state]
  exact (if_neg (not_not.2 ring)).trans (if_neg free)

theorem Dev.workAbort_open {d : Dev} {p : Place} {k : Trick} (found : d.trk.byHandle p.seat (p.op.fld 0 0 4) = some k) (ring : k.ring = p.ring)
    (sound : d.sramLost .trickTable k.entry = false) (state : k.state = .open_) : d.workAbort p = (d.abortTrick k {}).updPlace p.id Place.finish := by
  unfold Dev.workAbort
  rw [found]
  dsimp only
  rw [sound, state]
  exact if_neg (not_not.2 ring)

/-- A trick whose rows go leaves every entry of its number aborted, and of its records those with an epoch (R221). -/
theorem Dev.abortTrick_spec (d : Dev) {t : Trick} (f : Flags) (idle : t.commit = none) :
    (d.abortTrick t f).board = d.board ∧ (∀ u ∈ (d.abortTrick t f).trk.tricks, u.entry = t.entry → u.state = .aborted) ∧
    (d.abortTrick t f).trk.staged = d.trk.staged.filter (fun r => !(r.trick == t.entry && r.epoch.isNone)) := by
  unfold Dev.abortTrick
  dsimp only
  rw [idle]
  refine ⟨rfl, fun u listed entry => ?_, rfl⟩
  obtain ⟨v, -, rfl⟩ := List.mem_map.1 listed
  dsimp only at entry ⊢
  split
  · rfl
  · rename_i other
    rw [if_neg other] at entry
    exact absurd entry other

end Sys2Proof.Machine
end

section
/-! SUPPORT. A staging record in memory (R226): its header atom stands at its granule, and the row atoms that follow it in the frame leave it. -/

namespace Sys2Proof.Machine

/-! ## A header atom and the atoms after it -/

theorem Staged.length_headerAtom (r : Staged) (prev : Nat) : (r.headerAtom prev).length = 64 := by
  unfold Staged.headerAtom withCheck
  simp only [List.length_append, length_leBytes, length_slice, List.length_replicate]

/-- Bytes stand at an address whose frame is not ZERO_PENDING. -/
def Mem.Stands (m : Mem) (a : Nat) (bs : List Byte) : Prop := (m.frame (stackOf a) (frameOf a)).zero = false ∧ m.bytes a bs.length = bs

theorem Mem.Stands.same {m k : Mem} {a : Nat} {bs : List Byte} (h : m.Stands a bs) (same : Mem.Same m k) : k.Stands a bs := by
  obtain ⟨clear, stands⟩ := h
  refine ⟨?_, ?_⟩
  · have frames : (k.frame (stackOf a) (frameOf a)).zero = (m.frame (stackOf a) (frameOf a)).zero :=
      congrArg (fun l : SMap Frame => (SMap.get ({} : Frame) l (frameOf a)).zero) (same.frames (stackOf a))
    exact frames.trans clear
  · unfold Mem.bytes at stands ⊢
    simp only [same.byte]
    exact stands

theorem Mem.zero_fillFrame (m : Mem) (x f : Nat) : ((m.fillFrame x f).frame x f).zero = false := by
  unfold Mem.fillFrame Mem.frame
  dsimp only
  have top (k : Mem) (g : Stack → Stack) (p : List Nat) (u : SMap (List (Nat × Byte))) :
      ({ k.updStack x g with poison := p, upsets := u } : Mem).stack x = g (k.stack x) := (Mem.stack_updStack k x x g).trans (if_pos rfl)
  rw [top]
  dsimp only
  rw [SMap.get_upd]
  exact congrArg Frame.zero (if_pos rfl)

theorem Mem.frame_putBytes (m : Mem) (a : Nat) (bs : List Byte) (x f : Nat) : (m.putBytes a bs).frame x f = m.frame x f :=
  Mem.frame_of_dies (Mem.dies_putBytes bs m a).1 x f

theorem Dev.writeAtom_whole (d : Dev) (a : Nat) {bs : List Byte} (w : Who) (whole : bs.length = 64) : ∃ m : Mem,
    (d.writeAtom a bs w).mem = m.putBytes a bs ∧ (m.frame (stackOf a) (frameOf a)).zero = false ∧
    ((d.mem.frame (stackOf a) (frameOf a)).zero = false → Mem.Same d.mem m) := by
  unfold Dev.writeAtom
  dsimp only
  rw [if_pos whole]
  cases pending : (d.mem.frame (stackOf a) (frameOf a)).zero
  · exact ⟨_, rfl, pending, fun _ => ((Mem.Same.refl _).clearUpset a).setPoison a false⟩
  · exact ⟨_, rfl, Mem.zero_fillFrame _ _ _, fun h => by cases h⟩

theorem Dev.putAtom_stands (d : Dev) {a : Nat} {bs : List Byte} (open_ : d.blocked a = false) (whole : bs.length = 64) (fits : a % 65536 + 64 ≤ 65536) :
    (d.putAtom a bs false).mem.Stands a bs := by
  obtain ⟨m, mem, clear, -⟩ := d.writeAtom_whole a { host := true } whole
  have run : d.putAtom a bs false = d.writeAtom a bs { host := true } := if_neg (by simp [open_])
  rw [run, mem]
  exact ⟨(congrArg FrameEntry.zero (Mem.frame_putBytes m a bs _ _)).trans clear, Mem.bytes_putBytes (by omega)⟩

theorem Mem.Stands.putBytes {m : Mem} {a : Nat} {bs cs : List Byte} (h : m.Stands a bs) (whole : bs.length = 64) {n : Nat} (after : cs.length = 64)
    (fits : a % 65536 + 64 * (n + 2) ≤ 65536) : (m.putBytes (a + 64 * (n + 1)) cs).Stands a bs := by
  obtain ⟨clear, stands⟩ := h
  refine ⟨(congrArg FrameEntry.zero (Mem.frame_putBytes m _ cs _ _)).trans clear, ?_⟩
  refine Eq.trans (List.map_congr_left fun i small => Mem.byte_putBytes_other fun j within => ?_) stands
  have small := List.mem_range.1 small
  rw [Nat.add_assoc, Mem.locate_add (by omega), Mem.locate_add (by omega)]
  omega

theorem Mem.Stands.putAtom {d : Dev} {a : Nat} {bs cs : List Byte} (h : d.mem.Stands a bs) (whole : bs.length = 64) {n : Nat} (after : cs.length = 64)
    (fits : a % 65536 + 64 * (n + 2) ≤ 65536) (poison : Bool) : (d.putAtom (a + 64 * (n + 1)) cs poison).mem.Stands a bs := by
  unfold Dev.putAtom
  split
  · exact h.same (Mem.Same.updStack (Mem.Same.refl _) fun k => ⟨rfl, rfl, rfl, rfl⟩)
  · obtain ⟨m, mem, -, same⟩ := d.writeAtom_whole (a + 64 * (n + 1)) { host := true } after
    have stack : stackOf (a + 64 * (n + 1)) = stackOf a := by unfold stackOf; omega
    have frame : frameOf (a + 64 * (n + 1)) = frameOf a := by unfold frameOf offsetOf; omega
    have written : (d.writeAtom (a + 64 * (n + 1)) cs { host := true }).mem.Stands a bs := by
      rw [mem]
      exact (h.same (same (by rw [stack, frame]; exact h.1))).putBytes whole after fits
    dsimp only
    split
    · exact written.same ((Mem.Same.refl _).setPoison _ true)
    · exact written

theorem Dev.writeStaged_header {d : Dev} {r : Staged} (old : List Staged) (open_ : d.blocked r.addr = false)
    (fits : r.addr % 65536 + 64 * r.atoms ≤ 65536) : (d.writeStaged old r).mem.Stands r.addr (r.headerAtom (d.trk.prevOf r)) := by
  unfold Staged.atoms at fits
  have whole := r.length_headerAtom (d.trk.prevOf r)
  have first := d.putAtom_stands open_ whole (by omega)
  unfold Dev.writeStaged
  dsimp only
  split
  · exact first
  · refine List.foldlRecOn (motive := fun e : Dev => e.mem.Stands r.addr _) _ _ first fun e stands i small => ?_
    have small := List.mem_range.1 small
    exact stands.putAtom whole (length_slice _ _ _) (by omega) _

/-- Settles the clause of O45 about the header atom of a new record. -/
theorem Dev.setTrk_header {d : Dev} {k : Trk} {r : Staged} (more : k = { d.trk with staged := d.trk.staged ++ [r] }) (new : r ∉ d.trk.staged)
    (open_ : d.blocked r.addr = false) (fits : r.addr % 65536 + 64 * r.atoms ≤ 65536) :
    (d.setTrk k).mem.bytes r.addr 64 = r.headerAtom (k.prevOf r) := by
  have records : (k.staged.filter fun q => !d.trk.staged.contains q) = [r] := by
    rw [more]
    dsimp only
    rw [List.filter_append, List.filter_eq_nil_iff.2 fun q listed => by simpa using listed]
    simp [new]
  have log : (k.log.filter fun q => !d.trk.log.contains q) = [] := by
    rw [more]
    exact List.filter_eq_nil_iff.2 fun q listed => by simpa using listed
  have run : d.setTrk k = ({ d with trk := k } : Dev).writeStaged d.trk.staged r := by
    unfold Dev.setTrk
    rw [records, log]
    rfl
  have stands := Dev.writeStaged_header (d := { d with trk := k }) d.trk.staged open_ fits
  rw [run]
  have bytes := stands.2
  rw [r.length_headerAtom] at bytes
  exact bytes

end Sys2Proof.Machine
end

section
/-! SUPPORT. The rows of a TRICK_PUT: what it reads, its refusal past ROWS_MAX, and the records that it stages (R217 to R222). -/

namespace Sys2Proof.Machine

/-! ## What a TRICK_PUT reads -/

/-- The list and the rows that a TRICK_PUT read, and the rows that it writes by list position. -/
structure Dev.PutReads (d : Dev) (p : Place) (tb : TableRec) (x y : Mio × List Byte × List Bool) (items : List (Nat × Nat × List Nat)) : Prop where
  table : tb = d.opTable p
  list : x = (d.io p).readOperand p.frontEnd p 0 0 (p.op.fld 2 0 4 * p.op.fld 2 6 1)
  rows : y = x.1.readOperand p.frontEnd p 1 0 (p.op.fld 2 0 4 * rowBytes (p.op.fld 2 7 1) tb.dimension)
  items_eq : items = (listRows tb (p.op.fld 2 6 1) (p.op.fld 2 0 4) x.2.1).zipIdx.filterMap (fun r => r.1.map fun row => (r.2, row,
      rowCodes (p.op.fld 2 7 1) tb.dimension (slice y.2.1 (r.2 * rowBytes (p.op.fld 2 7 1) tb.dimension) (rowBytes (p.op.fld 2 7 1) tb.dimension))))

section
variable {d : Dev} {p : Place} {tb : TableRec} {x y : Mio × List Byte × List Bool} {items : List (Nat × Nat × List Nat)} (k : Trick) (twice : List Nat)
include d p tb x y items

theorem Dev.PutReads.work (h : d.PutReads p tb x y items) : d.WorkOnly y.1.dev := by
  obtain ⟨-, rfl, rfl, -⟩ := h
  exact ((Dev.work_io d p).trans (Mio.work_readOperand _ _ _ _ _ _)).trans (Mio.work_readOperand _ _ _ _ _ _)

theorem Dev.PutReads.lasts (h : d.PutReads p tb x y items) : d.Lasts y.1.dev := by
  obtain ⟨-, rfl, rfl, -⟩ := h
  exact ((Dev.lasts_io d p).trans (Mio.lasts_readOperand _ _ _ _ _ _)).trans (Mio.lasts_readOperand _ _ _ _ _ _)

theorem Dev.PutReads.from (h : d.PutReads p tb x y items) (calm : d.Calm) (list : d.Feeds p 0 0 (p.op.fld 2 0 4 * p.op.fld 2 6 1))
    (rows : d.Feeds p 1 0 (p.op.fld 2 0 4 * rowBytes (p.op.fld 2 7 1) tb.dimension)) : y.1.From d := by
  obtain ⟨-, rfl, rfl, -⟩ := h
  exact ((Dev.io_from d p).readOperand p.frontEnd 0 0 _ rfl calm list).readOperand p.frontEnd 1 0 _ rfl calm rows

theorem Dev.PutReads.putRows_full (h : d.PutReads p tb x y items) (done : y.1.done) (list : true ∉ x.2.2) (rows : true ∉ y.2.2)
    (full : k.rowsMax < k.staged + items.length) : ∃ f : Flags, f.overflow = true ∧
    d.putRows p k twice = (y.1.dev.updPlace p.id (Place.noted · y.1)).abortPut p k f none := by
  obtain ⟨rfl, rfl, rfl, rfl⟩ := h
  obtain ⟨going, sound, whole⟩ := id done
  refine ⟨({ defaultRows := (listRows (d.opTable p) (p.op.fld 2 6 1) (p.op.fld 2 0 4)
    ((d.io p).readOperand p.frontEnd p 0 0 (p.op.fld 2 0 4 * p.op.fld 2 6 1)).2.1).any Option.isNone } : Flags).or { overflow := true }, rfl, ?_⟩
  unfold Dev.putRows
  dsimp only
  refine (if_neg (by simp [going, sound, whole])).trans ((if_neg ?_).trans ((if_pos full).trans (Dev.conclude_noted d p _ done)))
  simpa using And.intro list rows

theorem Dev.PutReads.putRows_good (h : d.PutReads p tb x y items) (done : y.1.done) (list : true ∉ x.2.2) (rows : true ∉ y.2.2)
    (fits : k.staged + items.length ≤ k.rowsMax) {rs : List (Nat × Coded)} (good : encodeRows tb (p.op.fld 2 7 1) twice items = .good rs) :
    d.putRows p k twice = d.stagePut p y.1 k tb rs ((listRows tb (p.op.fld 2 6 1) (p.op.fld 2 0 4) x.2.1).any Option.isNone)
      (rowBytes (p.op.fld 2 7 1) tb.dimension) := by
  obtain ⟨rfl, rfl, rfl, rfl⟩ := h
  obtain ⟨going, sound, whole⟩ := done
  unfold Dev.putRows
  dsimp only
  refine (if_neg (by simp [going, sound, whole])).trans ((if_neg ?_).trans ((if_neg (Nat.not_lt.2 fits)).trans ?_))
  · simpa using And.intro list rows
  · rw [good]

end

/-! ## The dies that the records go to -/

theorem Mio.reachRecords_dev (m : Mio) (rs : List Staged) : (m.reachRecords rs).dev = m.dev := by
  unfold Mio.reachRecords
  refine List.foldlRecOn (motive := fun r : Mio => r.dev = m.dev) rs _ rfl fun r same q _ => ?_
  exact List.foldlRecOn (motive := fun r : Mio => r.dev = m.dev) q.allAtoms _ same fun r same a _ => (r.reach_dev _).trans same

theorem Mio.reachRecords_smooth (m : Mio) (rs : List Staged) (calm : m.dev.Calm) : m.Smooth (m.reachRecords rs) := by
  unfold Mio.reachRecords
  refine smooth_fold m (fun _ => True) (fun r q _ sofar => ?_) rs m (fun _ _ => trivial) (.refl m)
  refine smooth_fold m (fun _ => True) (fun r a _ sofar => ?_) q.allAtoms r (fun _ _ => trivial) sofar
  exact r.reach_smooth _ (sofar.calm calm)

theorem Mio.lookups_dev (m : Mio) (tb : TableRec) (rs : List (Nat × Coded)) : (rs.foldl (fun m r => m.lookup tb r.1) m).dev = m.dev :=
  List.foldlRecOn (motive := fun r : Mio => r.dev = m.dev) rs _ rfl fun r same a _ => (Mio.lookup_dev r tb a.1).trans same

theorem Mio.lookups_good {tb : TableRec} : ∀ (rs : List (Nat × Coded)) {m : Mio}, (∀ r ∈ rs, m.dev.rowSram (tb.place r.1).stack tb.table r.1 = false) →
    rs.foldl (fun m r => m.lookup tb r.1) m = m
  | [], _, _ => rfl
  | r :: rs, m, good => by
    have first : m.lookup tb r.1 = m := if_neg (by simp [good r List.mem_cons_self])
    rw [List.foldl_cons, first]
    exact Mio.lookups_good rs fun q listed => good q (List.mem_cons_of_mem _ listed)

theorem Dev.WorkOnly.chargePut (d : Dev) (p : Place) (rs : List Staged) (n : Nat) : d.WorkOnly (d.chargePut p rs n) := by
  unfold Dev.chargePut
  refine Dev.WorkOnly.foldl (fun d x => ?_) _ _
  dsimp only
  split
  · exact .refl _
  · exact (Dev.WorkOnly.chargeRemote _ _ _ _).trans (.transferAtoms _ _ _ _)

/-! ## Rows staged -/

/-- What a TRICK_PUT leaves of its own place (R222). -/
def Place.putDone (dflt : Bool) (q : Place) : Place := { q.finish with flags := q.flags.or { defaultRows := dflt } }

theorem Dev.stagePut_spec {d : Dev} {p : Place} {m x : Mio} {k : Trick} {t : TableRec} {rs : List (Nat × Coded)} {trk : Trk} (dflt : Bool) (n : Nat)
    (here : d.place p.id = some p) (work : d.WorkOnly m.dev)
    (staged : m.dev.trk.stageAll (rs.zipIdx.map fun r => stagedRow t k (p.ringKey * 2 ^ 32 + r.2) r.1.1 r.1.2) = .ok trk)
    (reached : x = rs.foldl (fun m r => m.lookup t r.1) (m.reachRecords (trk.staged.drop m.dev.trk.staged.length))) (done : x.done) :
    ∃ q, (d.stagePut p m k t rs dflt n).place p.id = some q ∧ q.phase = .finished ∧ q.status = p.status ∧
      q.flags.defaultRows = (p.flags.defaultRows || dflt) ∧ (d.stagePut p m k t rs dflt n).trk.staged = trk.staged ∧
      (d.stagePut p m k t rs dflt n).trk.tricks = d.trk.tricks.map (fun u => if u.entry = k.entry then { u with staged := u.staged + rs.length } else u) := by
  obtain ⟨new, all, -⟩ := Trk.stageAll_spec _ staged
  have tricks : trk.tricks = d.trk.tricks := by rw [all, ← work.trk]
  have same : x.dev = m.dev := by rw [reached, Mio.lookups_dev, Mio.reachRecords_dev]
  have written : ∀ rs n, ({ m.dev with trk := trk } : Dev).WorkOnly ((m.dev.setTrk trk).chargePut p rs n) := fun rs n =>
    (Dev.setTrk_memOnly m.dev trk).work.trans (.chargePut _ _ _ _)
  have run : d.stagePut p m k t rs dflt n =
      ((((x.dev.setTrk trk).chargePut p (trk.staged.drop m.dev.trk.staged.length) n).updPlace p.id
        (Place.noted · { x with dev := (x.dev.setTrk trk).chargePut p (trk.staged.drop m.dev.trk.staged.length) n })).updTrick k.entry
          fun t => { t with staged := t.staged + rs.length }).updPlace p.id (Place.putDone dflt) := by
    unfold Dev.stagePut
    dsimp only
    rw [staged]
    dsimp only
    rw [← reached]
    exact Dev.conclude_noted d p (m := { x with dev := (x.dev.setTrk trk).chargePut p (trk.staged.drop m.dev.trk.staged.length) n }) _ done
  rw [run, same]
  have now := written (trk.staged.drop m.dev.trk.staged.length) n
  generalize (m.dev.setTrk trk).chargePut p (trk.staged.drop m.dev.trk.staged.length) n = e at now
  have first : e.place p.id = some p := (now.place p.id).trans ((work.place p.id).trans here)
  have second := Dev.place_upd_again (Place.noted · { x with dev := e }) first fun _ => rfl
  have third := Dev.place_upd_of (e := (e.updPlace p.id (Place.noted · { x with dev := e })).updTrick k.entry fun t => { t with staged := t.staged + rs.length })
    (Place.putDone dflt) rfl second fun _ => rfl
  have kept : e.trk = trk := now.trk
  have records : e.trk.staged = trk.staged := congrArg Trk.staged kept
  have counted : e.trk.tricks = d.trk.tricks := (congrArg Trk.tricks kept).trans tricks
  refine ⟨_, third, rfl, rfl, rfl, records, ?_⟩
  rw [← counted]
  rfl

/-! ## The clauses of O45 about commands -/

theorem Dev.abortPut_spec {d : Dev} {p q : Place} {k : Trick} {f : Flags} (here : d.place p.id = some q) (idle : k.commit = none) (past : f.overflow = true) :
    ∃ r, (d.abortPut p k f none).place p.id = some r ∧ r.phase = .finished ∧ r.status = .aborted ∧ r.flags.overflow = true ∧
    (∀ u ∈ (d.abortPut p k f none).trk.tricks, u.entry = k.entry → u.state = .aborted) ∧
    (∀ r ∈ (d.abortPut p k f none).trk.staged, r.trick = k.entry → r.epoch ≠ none) := by
  obtain ⟨board, aborted, staged⟩ := d.abortTrick_spec (t := k) f idle
  have now := Dev.place_upd_of (e := d.abortTrick k f) (fun q => { q.fail .aborted with flags := q.flags.or f, offender := none }) board here fun _ => rfl
  refine ⟨_, now, rfl, rfl, ?_, aborted, fun r listed own none_ => ?_⟩
  · exact (congrArg (q.flags.overflow || ·) past).trans (Bool.or_true _)
  · have kept : r ∈ (d.abortTrick k f).trk.staged := listed
    rw [staged] at kept
    have kept := (List.mem_filter.1 kept).2
    rw [own, none_] at kept
    simp at kept

/-- Settles the clause of O45 about TRICK_PUT. -/
theorem trickPut_rows {s : State} {i : Nat} {d : Dev} {p : Place} {k : Trick} {tb : TableRec} {x y : Mio × List Byte × List Bool}
    {items : List (Nat × Nat × List Nat)} (enters : s.dev.enters i (·.opcode == 0x31) = some (d, p))
    (found : d.trk.byHandle p.seat (p.op.fld 3 0 4) = some k) (ring : k.ring = p.ring) (sound : d.sramLost .trickTable k.entry = false)
    (state : k.state = .open_) (idle : k.commit = none) (reads : d.PutReads p tb x y items)
    (ready : y.1.done ∨ d.Calm ∧ d.Feeds p 0 0 (p.op.fld 2 0 4 * p.op.fld 2 6 1) ∧
      d.Feeds p 1 0 (p.op.fld 2 0 4 * rowBytes (p.op.fld 2 7 1) tb.dimension)) (list : true ∉ x.2.2) (rows : true ∉ y.2.2) :
    (k.rowsMax < k.staged + items.length →
      ∃ t q, exec (.trickPut i [] []) s = .next t ∧ t.dev.place i = some q ∧ q.phase = .finished ∧ q.status = .aborted ∧
        q.flags.overflow = true ∧ (∀ u ∈ t.dev.trk.tricks, u.entry = k.entry → u.state = .aborted) ∧
        (∀ r ∈ t.dev.trk.staged, r.trick = k.entry → r.epoch ≠ none)) ∧
    (∀ (rs : List (Nat × Coded)) (trk : Trk) (m : Mio), k.staged + items.length ≤ k.rowsMax →
      encodeRows tb (p.op.fld 2 7 1) [] items = .good rs →
      y.1.dev.trk.stageAll (rs.zipIdx.map fun r => stagedRow tb k (p.ringKey * 2 ^ 32 + r.2) r.1.1 r.1.2) = .ok trk →
      m = rs.foldl (fun m r => m.lookup tb r.1) (y.1.reachRecords (trk.staged.drop y.1.dev.trk.staged.length)) →
      m.done ∨ y.1.done ∧ d.Calm ∧ (∀ r ∈ rs, d.rowSram (tb.place r.1).stack tb.table r.1 = false) →
      ∃ t q, exec (.trickPut i [] []) s = .next t ∧ t.dev.place i = some q ∧ q.phase = .finished ∧ q.status = p.status ∧
        q.flags.defaultRows = (p.flags.defaultRows || (listRows tb (p.op.fld 2 6 1) (p.op.fld 2 0 4) x.2.1).any Option.isNone) ∧
        t.dev.trk.staged = trk.staged ∧
        t.dev.trk.tricks = d.trk.tricks.map (fun u => if u.entry = k.entry then { u with staged := u.staged + rs.length } else u)) := by
  obtain ⟨here, rfl⟩ := Dev.enters_place enters
  have work := reads.work
  have done : y.1.done := ready.elim id fun h => (reads.from h.1 h.2.1 h.2.2).done
  have open_ := Dev.workPut_open [] found ring sound state
  refine ⟨fun full => ?_, fun rs trk m fits good staged reached calm => ?_⟩
  · obtain ⟨f, past, run⟩ := reads.putRows_full k [] done list rows full
    have first := Dev.place_upd_again (Place.noted · y.1) ((work.place p.id).trans here) fun _ => rfl
    obtain ⟨q, now, spec⟩ := Dev.abortPut_spec first idle past
    exact ⟨_, q, exec_of_enters enters (open_.trans run), now, spec⟩
  · have ends : m.done := by
      rcases calm with ends | ⟨-, calm, lookups⟩
      · exact ends
      · have stays : y.1.dev.Calm := ⟨(reads.lasts.1 calm.1).1 calm.1, fun a => ((reads.lasts.1 calm.1).blocked a).trans (calm.2 a)⟩
        have smooth := y.1.reachRecords_smooth (trk.staged.drop y.1.dev.trk.staged.length) stays
        rw [reached, Mio.lookups_good]
        · exact ⟨smooth.waits.trans done.1, smooth.fault.trans done.2.1, smooth.short.trans done.2.2⟩
        · intro r listed
          rw [Mio.reachRecords_dev]
          exact Dev.rowSram_lasts calm.1 reads.lasts work.trk (lookups r listed)
    have run := open_.trans (reads.putRows_good k [] done list rows fits good)
    obtain ⟨q, now, spec⟩ := Dev.stagePut_spec ((listRows tb (p.op.fld 2 6 1) (p.op.fld 2 0 4) x.2.1).any Option.isNone)
      (rowBytes (p.op.fld 2 7 1) tb.dimension) here work staged reached ends
    exact ⟨_, q, exec_of_enters enters run, now, spec⟩

/-- The failure rows of a command on a trick: no trick of its handle, an aborted one, and one past OPEN (R221). -/
theorem trickCommand_fails {s : State} {i h : Nat} {c : Instr} {d : Dev} {p : Place}
    (command : (c = .trickPut i [] [] ∧ s.dev.enters i (·.opcode == 0x31) = some (d, p) ∧ h = p.op.fld 3 0 4) ∨
      (c = .trickCommit i ∧ s.dev.enters i (·.opcode == 0x32) = some (d, p) ∧ h = p.op.fld 0 0 4) ∨
      (c = .trickAbort i ∧ s.dev.enters i (·.opcode == 0x33) = some (d, p) ∧ h = p.op.fld 0 0 4)) :
    (d.trk.byHandle p.seat h = none → exec c s = .next { s with dev := d.updPlace i (·.fail .badDescriptor) }) ∧
    (∀ k, d.trk.byHandle p.seat h = some k → k.ring = p.ring → k.commit ≠ some i → d.sramLost .trickTable k.entry = false →
      (k.state = .aborted → exec c s = .next { s with dev := d.updPlace i (·.fail .aborted) }) ∧
      (k.state = .commit ∨ k.state = .prepared ∨ k.state = .committing ∨ k.state = .committed →
        exec c s = .next { s with dev := d.updPlace i (·.fail .badDescriptor) })) := by
  obtain ⟨w, run, none_, some_⟩ : ∃ w : Dev, exec c s = .next { s with dev := w } ∧
      (d.trk.byHandle p.seat h = none → w = d.updPlace i (·.fail .badDescriptor)) ∧
      (∀ k, d.trk.byHandle p.seat h = some k → k.ring = p.ring → k.commit ≠ some i → d.sramLost .trickTable k.entry = false →
        w = match k.state with
          | .open_ => w
          | .aborted => d.updPlace i (·.fail .aborted)
          | _ => d.updPlace i (·.fail .badDescriptor)) := by
    rcases command with ⟨rfl, enters, rfl⟩ | ⟨rfl, enters, rfl⟩ | ⟨rfl, enters, rfl⟩ <;> obtain ⟨-, rfl⟩ := Dev.enters_place enters
    · refine ⟨_, exec_of_enters enters rfl, fun absent => ?_, fun k found ring free sound => ?_⟩ <;> unfold Dev.workPut
      · rw [absent]; rfl
      · rw [found]
        dsimp only
        rw [if_neg (not_not.2 ring), sound]
        cases k.state <;> rfl
    · refine ⟨_, exec_of_enters enters rfl, fun absent => ?_, fun k found ring free sound => ?_⟩ <;> unfold Dev.workCommit
      · rw [absent]; rfl
      · rw [found]
        dsimp only
        rw [if_neg (not_not.2 ring), if_neg free, sound]
        cases k.state <;> rfl
    · refine ⟨_, exec_of_enters enters rfl, fun absent => ?_, fun k found ring free sound => ?_⟩ <;> unfold Dev.workAbort
      · rw [absent]; rfl
      · rw [found]
        dsimp only
        rw [if_neg (not_not.2 ring), sound]
        cases k.state <;> rfl
  refine ⟨fun absent => run.trans (by rw [none_ absent]), fun k found ring free sound => ⟨fun state => run.trans ?_, fun state => run.trans ?_⟩⟩
  · rw [some_ k found ring free sound, state]
  · rw [some_ k found ring free sound]
    rcases state with state | state | state | state <;> rw [state]

/-- Settles O45. -/
theorem tricks : Obligations.Tricks := by
  unfold Obligations.Tricks
  refine ⟨fun k n rows e => Trk.admission_spec, fun s i e c d p here command new room sound => ?opens, fun s i d p enters => ?refused,
    fun s i h c d p command => trickCommand_fails command, fun s i d p k tb x y items enters found ring sound state idle table list rows ready good good' eq =>
      trickPut_rows enters found ring sound state idle ⟨table, list, rows, eq⟩ ready good good', fun k k' rs => Trk.stageAll_spec rs,
    fun d k r more new open_ fits => ⟨Dev.setTrk_trk d k, Dev.setTrk_header more new
      (by simpa only [Nat.mul_zero, Nat.add_zero] using open_ 0 (Nat.zero_le _)) fits⟩, fun tb k o row c => ⟨rfl, rfl⟩,
    fun k k' r pc => Trk.stage_spec, fun s i d p k enters here found ring sound state idle => ?aborts,
    fun s i d p k enters found ring sound state idle => ?commits, Dev.putsDone_iff⟩
  case opens =>
    have own : p.id = i := Dev.place_id here
    have work := Dev.workOpen_admits new room sound
    have now := Dev.place_upd_of (e := { d with trk := { d.trk with tricks := d.trk.tricks ++ [p.opens e] } }) Place.finish rfl here fun _ => rfl
    have run : exec c s = .next { s with dev := d.workOpen p } := by
      rcases command with ⟨rfl, enters⟩ | ⟨rfl, rfl, opcode, running⟩
      · exact exec_of_enters enters rfl
      · refine congrArg Host.Outcome.next ?_
        rw [here]
        exact if_pos ⟨opcode, running, by rw [room]; rfl⟩
    rw [work, own] at run
    exact ⟨_, _, run, now, rfl, rfl, fun u same => by rw [same]; rfl, rfl, rfl⟩
  case refused =>
    obtain ⟨-, rfl⟩ := Dev.enters_place enters
    refine ⟨fun used => exec_of_enters enters (Dev.workOpen_used used), fun new full here => ?_⟩
    obtain ⟨now, x, rest⟩ := Dev.stallPlace_spec d p .trickBackpressure p here
    refine ⟨_, _, exec_of_enters enters (Dev.workOpen_full new full), now, rfl, rfl, by simp [Excursions.or, Stall.excursion], ?_⟩
    dsimp only
    rw [rest]
  case aborts =>
    obtain ⟨-, rfl⟩ := Dev.enters_place enters
    obtain ⟨board, aborted, staged⟩ := d.abortTrick_spec (t := k) {} idle
    have now := Dev.place_upd_of (e := d.abortTrick k {}) Place.finish board here fun _ => rfl
    exact ⟨_, _, exec_of_enters enters (Dev.workAbort_open found ring sound state), now, rfl, rfl, aborted, staged⟩
  case commits =>
    obtain ⟨-, rfl⟩ := Dev.enters_place enters
    have work := Dev.workCommit_open found ring sound state (by rw [idle]; exact fun h => by cases h)
    refine ⟨fun ready => exec_of_enters enters (work.trans (if_pos ready)), fun waits => exec_of_enters enters (work.trans (if_neg (by simp [waits])))⟩

end Sys2Proof.Machine
end

section
/-! SUPPORT. Commits (R231 to R233): the record of a commit in the log, what settling epochs leaves of the trick table, the log and the
staging records. -/

namespace Sys2Proof.Machine

/-! ## Entries that are freed -/

theorem Trk.trick_entry {k : Trk} {e : Nat} {t : Trick} (h : k.trick e = some t) : t ∈ k.tricks ∧ t.entry = e :=
  by
  unfold Trk.trick at h
  exact ⟨List.mem_of_find?_eq_some h, beq_iff_eq.1 (List.find?_some (p := fun t : Trick => t.entry == e) h)⟩

/-- What settling leaves of entry `e`, while no trick of that number is COMMITTED. -/
structure Trk.Keeps (e : Nat) (k k' : Trk) : Prop where
  trick : k'.trick e = k.trick e
  log : ∀ r ∈ k.log, r.trick = e → r ∈ k'.log

theorem Trk.Keeps.refl (e : Nat) (k : Trk) : Trk.Keeps e k k := ⟨rfl, fun _ h _ => h⟩

theorem Trk.Keeps.trans {e : Nat} {a b c : Trk} (h : Trk.Keeps e a b) (g : Trk.Keeps e b c) : Trk.Keeps e a c :=
  ⟨g.trick.trans h.trick, fun r listed own => g.log r (h.log r listed own) own⟩

theorem Trk.Keeps.free {e f : Nat} (k : Trk) (other : f ≠ e) : Trk.Keeps e k (k.free f) := by
  refine ⟨?_, fun r listed own => List.mem_filter.2 ⟨listed, ?_⟩⟩
  · unfold Trk.trick Trk.free
    dsimp only
    rw [List.find?_filter]
    refine congrArg (fun q : Trick → Bool => k.tricks.find? q) (funext fun t => ?_)
    by_cases own : t.entry = e
    · simp [own, other.symm]
    · simp [own]
  · simp [own, other.symm]

/-- Settling takes entries out of the table and their records out of the log, and nothing else. -/
theorem Trk.dropSettled_rest (k : Trk) : ∃ t s l, k.dropSettled = { k with tricks := t, settling := s, log := l } := by
  unfold Trk.dropSettled
  refine List.foldlRecOn (motive := fun q : Trk => ∃ t s l, q = { k with tricks := t, settling := s, log := l }) _ _ ⟨_, _, _, rfl⟩ ?_
  rintro q ⟨t, s, l, rfl⟩ u -
  exact ⟨_, _, _, rfl⟩

theorem Trk.Keeps.dropSettled {e : Nat} (k : Trk) (busy : ∀ t ∈ k.tricks, t.entry = e → t.state ≠ .committed) : Trk.Keeps e k k.dropSettled := by
  unfold Trk.dropSettled
  refine List.foldlRecOn (motive := fun q : Trk => Trk.Keeps e k q) _ _ (.refl e k) fun q sofar t listed => sofar.trans (.free q fun same => ?_)
  obtain ⟨member, settled⟩ := List.mem_filter.1 listed
  simp only [Bool.and_eq_true, beq_iff_eq] at settled
  exact busy t member same settled.1.1.1

theorem Trk.advance_spec : ∀ (n : Nat) (k : Trk), ∃ x, k.lce ≤ x ∧ Trk.advance n k = { k with lce := x }
  | 0, k => ⟨k.lce, Nat.le_refl _, rfl⟩
  | n + 1, k => by
    unfold Trk.advance
    split
    · obtain ⟨x, le, eq⟩ := Trk.advance_spec n { k with lce := k.lce + 1 }
      exact ⟨x, by dsimp only at le; omega, eq⟩
    · exact ⟨k.lce, Nat.le_refl _, rfl⟩

/-- LCE moves on at least to the next epoch, if a committed trick has it. -/
theorem Trk.advance_next (n : Nat) {k : Trk} {t : Trick} (listed : t ∈ k.tricks) (state : t.state = .committed) (epoch : t.epoch = some (k.lce + 1)) :
    ∃ x, k.lce + 1 ≤ x ∧ Trk.advance (n + 1) k = { k with lce := x } := by
  obtain ⟨x, le, eq⟩ := Trk.advance_spec n { k with lce := k.lce + 1 }
  refine ⟨x, le, (if_pos (List.any_eq_true.2 ⟨t, listed, ?_⟩)).trans eq⟩
  rw [state, epoch]
  simp

theorem Dev.endCommits_board (d : Dev) : ∃ b, d.endCommits = { d with board := b } := by
  unfold Dev.endCommits
  refine List.foldlRecOn (motive := fun e : Dev => ∃ b, e = { d with board := b }) _ _ ⟨_, rfl⟩ ?_
  rintro e ⟨b, rfl⟩ t -
  split
  · split
    · exact ⟨_, rfl⟩
    · exact ⟨_, rfl⟩
  · exact ⟨_, rfl⟩

theorem Dev.settleEpochs_trk (d : Dev) {x : Nat} (advanced : d.trk.advance (d.trk.tricks.length + 1) = { d.trk with lce := x }) :
    ∃ f, d.settleEpochs.trk = (({ d.trk with lce := x } : Trk).dropSettled).pruneLists f := by
  unfold Dev.settleEpochs
  dsimp only
  rw [advanced]
  obtain ⟨b, ended⟩ := ({ d with trk := { d.trk with lce := x } } : Dev).endCommits_board
  exact ⟨_, by rw [ended]; rfl⟩

/-- What moving LCE on and settling leave of the trick table, of the log and of the staging records, and how LCE moves. -/
theorem Dev.settleEpochs_spec (d : Dev) : ∃ x, d.trk.lce ≤ x ∧ d.settleEpochs.trk.lce = x ∧
    ((∃ t ∈ d.trk.tricks, t.state = .committed ∧ t.epoch = some (d.trk.lce + 1)) → d.trk.lce + 1 ≤ x) ∧
    d.settleEpochs.trk.lastEpoch = d.trk.lastEpoch ∧ (∀ r ∈ d.trk.staged, r.kind ≠ 2 → r ∈ d.settleEpochs.trk.staged) ∧
    ∀ e, (∀ t ∈ d.trk.tricks, t.entry = e → t.state ≠ .committed) → Trk.Keeps e d.trk d.settleEpochs.trk := by
  obtain ⟨x, le, advanced⟩ := Trk.advance_spec (d.trk.tricks.length + 1) d.trk
  obtain ⟨f, settled⟩ := d.settleEpochs_trk advanced
  obtain ⟨ts, st, lg, dropped⟩ := Trk.dropSettled_rest { d.trk with lce := x }
  rw [settled]
  refine ⟨x, le, by rw [dropped]; rfl, fun ⟨t, listed, state, epoch⟩ => ?_, by rw [dropped]; rfl, fun r listed kind => ?_, fun e busy => ?_⟩
  · obtain ⟨y, le', eq⟩ := Trk.advance_next d.trk.tricks.length listed state epoch
    have same : y = x := congrArg Trk.lce (eq.symm.trans advanced)
    exact same ▸ le'
  · rw [dropped]
    exact List.mem_filter.2 ⟨listed, by simp [kind]⟩
  · have kept := Trk.Keeps.dropSettled (e := e) { d.trk with lce := x } busy
    exact ⟨kept.trick, fun r listed own => kept.log r listed own⟩

/-! ## The record of a commit -/

/-- The record of the commit log that a commit writes, but for its slot (R233). -/
def Dev.commitRec (d : Dev) (t : Trick) (step cascadeEpoch : Nat) : CommitRec :=
  { decision := 1, cascade := t.cascade, trick := t.entry, epoch := d.trk.lastEpoch + 1, handle := t.handle, seat := t.seat,
    dies := d.trk.stacksOf t, rows := (d.trk.recordsOf t).length, step := step, cascadeEpoch := cascadeEpoch }

/-- A trick whose commit record has been written (R231, R232). -/
def Dev.commits (d : Dev) (t u : Trick) : Trick :=
  { u with state := if (d.trk.stacksOf t).isEmpty then TrickState.committed else .committing, epoch := some (d.trk.lastEpoch + 1),
           unacked := d.trk.stacksOf t }

/-- The state of the coordinator as a commit record is written, before LCE moves. -/
structure Dev.CommitsTo (d : Dev) (t : Trick) (step cascadeEpoch : Nat) (e : Dev) (old : List CommitRec) (n : Nat) : Prop where
  run : d.commitTrick t step cascadeEpoch = (e.updTrick t.entry (d.commits t)).settleEpochs
  trk : ∃ b, e.trk = { d.trk with tricks := (d.trk.noteConflicts t).tricks, lastEpoch := d.trk.lastEpoch + 1,
                                  log := old ++ [{ d.commitRec t step cascadeEpoch with slot := n }], logNext := b }
  older : ∀ r ∈ old, r ∈ d.trk.log

/-- The records of the commit log that stay beside that of a commit (R233). -/
def Trk.logBeside (k : Trk) (t : Trick) : List CommitRec :=
  k.log.filter fun r => !(r.trick == t.entry && r.epoch == 2 ^ 64 - 1)
    && !(r.committed && r.epoch == k.topEpoch && !(k.noteConflicts t).tricks.any fun q => q.entry == r.trick && q.epoch == some r.epoch)

/-- A device that is about to write a commit record: conflicts and the tables' epochs are noted. -/
def Dev.noting (d : Dev) (t : Trick) : Dev :=
  { d with trk := d.trk.noteConflicts t, cache := (d.trk.tablesOf t).foldl (fun c x => c.noteCommit x (d.trk.lastEpoch + 1)) d.cache }

theorem Dev.commitTrick_to (d : Dev) (t : Trick) (step cascadeEpoch : Nat) : ∃ e old n, d.CommitsTo t step cascadeEpoch e old n := by
  let k : Trk := { d.trk.noteConflicts t with lastEpoch := d.trk.lastEpoch + 1, log := d.trk.logBeside t }
  have part : ∀ r ∈ d.trk.logBeside t, r ∈ d.trk.log := fun r listed => (List.mem_filter.1 listed).1
  cases found : d.trk.log.find? fun r => r.trick == t.entry && r.epoch == 2 ^ 64 - 1 with
  | none =>
    refine ⟨(d.noting t).setTrk (k.logged (d.commitRec t step cascadeEpoch)), d.trk.logBeside t, _, ⟨?_, ⟨_, Dev.setTrk_trk _ _⟩, part⟩⟩
    unfold Dev.commitTrick
    dsimp only
    rw [found]
    rfl
  | some r =>
    refine ⟨(d.noting t).setTrk { k with log := d.trk.logBeside t ++ [{ d.commitRec t step cascadeEpoch with slot := r.slot }] }, d.trk.logBeside t, r.slot,
      ⟨?_, ⟨_, Dev.setTrk_trk _ _⟩, part⟩⟩
    unfold Dev.commitTrick
    dsimp only
    rw [found]
    rfl

end Sys2Proof.Machine
end

section
/-! SUPPORT. Commits, settling and pins (R221 to R237, R251): what each command leaves of the coordinator. -/

namespace Sys2Proof.Machine

/-! ## Tricks that change -/

theorem Dev.trick_updTrick (d : Dev) (e : Nat) {f : Trick → Trick} (keeps : ∀ t, (f t).entry = t.entry) :
    (d.updTrick e f).trk.trick e = (d.trk.trick e).map f := by
  unfold Dev.updTrick Trk.trick
  dsimp only
  rw [List.find?_map]
  have key : ((fun t : Trick => t.entry == e) ∘ fun t => if t.entry = e then f t else t) = fun t => t.entry == e := by
    funext t
    by_cases own : t.entry = e
    · simp [own, keeps]
    · simp [own]
  rw [key]
  cases found : d.trk.tricks.find? fun t => t.entry == e with
  | none => rfl
  | some t => exact congrArg some (if_pos (beq_iff_eq.1 (List.find?_some (p := fun t : Trick => t.entry == e) found)))

theorem Trk.mem_noteConflicts {k : Trk} {t u : Trick} (h : u ∈ (k.noteConflicts t).tricks) : ∃ v ∈ k.tricks, ∃ m, u = { v with migrate := m } := by
  obtain ⟨v, listed, eq⟩ := List.mem_map.1 h
  refine ⟨v, listed, ?_⟩
  split at eq
  · split at eq
    · exact ⟨_, eq.symm⟩
    · exact ⟨v.migrate, eq.symm⟩
  · exact ⟨v.migrate, eq.symm⟩

theorem Trk.trick_noteConflicts (k : Trk) (t : Trick) (e : Nat) : ∃ g : Trick → Trick, (k.noteConflicts t).trick e = (k.trick e).map g := by
  unfold Trk.noteConflicts Trk.trick
  dsimp only
  rw [List.find?_map]
  refine ⟨_, congrArg (fun q : Trick → Bool => (k.tricks.find? q).map _) (funext fun u => ?_)⟩
  dsimp only [Function.comp]
  split
  · split <;> rfl
  · rfl

/-- A trick whose state a change sets is in that state wherever its entry number stands. -/
theorem Dev.mem_updTrick {d : Dev} {e : Nat} {f : Trick → Trick} {u : Trick} (h : u ∈ (d.updTrick e f).trk.tricks) :
    (u.entry ≠ e ∧ u ∈ d.trk.tricks) ∨ ∃ v ∈ d.trk.tricks, v.entry = e ∧ u = f v := by
  obtain ⟨v, listed, eq⟩ := List.mem_map.1 h
  split at eq
  · rename_i own
    exact .inr ⟨v, listed, own, eq.symm⟩
  · rename_i other
    exact .inl ⟨eq ▸ other, eq ▸ listed⟩

/-! ## TRICK_PREPARED -/

/-- A commit to dies that hold records leaves the trick COMMITTING, its record in the log (R231, R232). -/
theorem Dev.commitTrick_spec (d : Dev) {t : Trick} {e : Nat} (step cascadeEpoch : Nat) (found : d.trk.trick e = some t) (dies : d.trk.stacksOf t ≠ []) :
    ∃ v, (d.commitTrick t step cascadeEpoch).trk.trick e = some v ∧ v.state = .committing ∧ v.epoch = some (d.trk.lastEpoch + 1) ∧
      v.unacked = d.trk.stacksOf t ∧ (d.commitTrick t step cascadeEpoch).trk.lastEpoch = d.trk.lastEpoch + 1 ∧
      ∃ n, { d.commitRec t step cascadeEpoch with slot := n } ∈ (d.commitTrick t step cascadeEpoch).trk.log := by
  obtain ⟨-, rfl⟩ := Trk.trick_entry found
  obtain ⟨c, old, n, run, ⟨b, trk⟩, -⟩ := d.commitTrick_to t step cascadeEpoch
  have state (u : Trick) : (d.commits t u).state = .committing := if_neg (by simp [dies])
  obtain ⟨g, noted⟩ := d.trk.trick_noteConflicts t t.entry
  have now : (c.updTrick t.entry (d.commits t)).trk.trick t.entry = some (d.commits t (g t)) := by
    have same : c.trk.trick t.entry = (d.trk.noteConflicts t).trick t.entry := by rw [trk]; rfl
    rw [Dev.trick_updTrick (f := d.commits t) c t.entry (fun _ => rfl), same, noted, found]
    rfl
  obtain ⟨x, -, -, -, last, -, keeps⟩ := (c.updTrick t.entry (d.commits t)).settleEpochs_spec
  have kept := keeps t.entry fun u listed own => by
    rcases Dev.mem_updTrick listed with ⟨other, -⟩ | ⟨v, -, -, rfl⟩
    · exact absurd own other
    · rw [state]
      decide
  rw [run]
  refine ⟨_, kept.trick.trans now, state _, rfl, rfl, last.trans ?_, n, kept.log _ ?_ rfl⟩
  · exact congrArg Trk.lastEpoch trk
  · have listed : { d.commitRec t step cascadeEpoch with slot := n } ∈ c.trk.log := by
      rw [trk]
      exact List.mem_append_right _ List.mem_cons_self
    exact listed

theorem Dev.prepareTrick_spec (d : Dev) {t : Trick} {e : Nat} (found : d.trk.trick e = some t) : ∃ v, (d.prepareTrick t).trk.trick e = some v ∧
    v.state = .prepared ∧ (d.prepareTrick t).trk.lastEpoch = d.trk.lastEpoch ∧
    ∃ r ∈ (d.prepareTrick t).trk.log, r.decision = 0 ∧ r.trick = e ∧ r.epoch = 2 ^ 64 - 1 := by
  obtain ⟨-, rfl⟩ := Trk.trick_entry found
  let record : CommitRec := { decision := 0, cascade := true, trick := t.entry, epoch := 2 ^ 64 - 1, handle := t.handle, seat := t.seat,
                              dies := d.trk.stacksOf t, rows := (d.trk.recordsOf t).length }
  have trk : (d.setTrk (d.trk.logged record)).trk = d.trk.logged record := Dev.setTrk_trk _ _
  have run : d.prepareTrick t = (d.setTrk (d.trk.logged record)).updTrick t.entry fun t => { t with state := .prepared } := rfl
  rw [run]
  generalize d.setTrk (d.trk.logged record) = c at trk
  have same : c.trk.trick t.entry = some t := by
    rw [trk]
    exact found
  have last : c.trk.lastEpoch = d.trk.lastEpoch := (congrArg Trk.lastEpoch trk).trans rfl
  refine ⟨{ t with state := .prepared }, ?_, rfl, last, { record with slot := d.trk.freeSlot }, ?_, rfl, rfl, rfl⟩
  · rw [Dev.trick_updTrick c t.entry (f := fun t => { t with state := .prepared }) fun _ => rfl, same]
    rfl
  · have listed : { record with slot := d.trk.freeSlot } ∈ c.trk.log := by
      rw [trk]
      exact List.mem_append_right _ List.mem_cons_self
    exact listed

theorem Dev.prepared_of {d : Dev} {t : Trick} (failed : Bool) (state : t.state = .commit) (alone : t.migrate = none) (log : d.logBlocked = false)
    (sound : d.sramLost .trickTable t.entry = false) :
    d.prepared t failed = if failed then d.abortTrick t { poisoned := true } else if t.cascade then d.prepareTrick t else d.commitTrick t 0 0 := by
  unfold Dev.prepared
  rw [state, alone, log, sound]
  exact if_neg (by simp)

/-- An abort discards the rows of a trick and ends its TRICK_COMMIT with the trick's flags (R221, R223). -/
theorem Dev.abortTrick_commit {d : Dev} {t : Trick} {f : Flags} {i : Nat} {p : Place} (commit : t.commit = some i) (here : d.place i = some p)
    (poisoned : f.poisoned = true) :
    ∃ q, (d.abortTrick t f).place i = some q ∧ q.phase = .finished ∧ q.status = .aborted ∧ q.flags.poisoned = true ∧
    (∀ u ∈ (d.abortTrick t f).trk.tricks, u.entry = t.entry → u.state = .aborted) ∧
    (∀ r ∈ (d.abortTrick t f).trk.staged, r.trick = t.entry → r.epoch ≠ none) := by
  let c : Dev := ({ d with trk := d.trk.discardRows t.entry } : Dev).updTrick t.entry fun t => { t with state := .aborted, flags := t.flags.or f }
  have run : d.abortTrick t f = c.updPlace i fun q => { q.fail .aborted with flags := q.flags.or f } := by
    unfold Dev.abortTrick
    dsimp only
    rw [commit]
  have now := Dev.place_upd_of (e := c) (fun q => { q.fail .aborted with flags := q.flags.or f }) rfl here fun _ => rfl
  rw [run]
  refine ⟨_, now, rfl, rfl, ?_, fun u listed own => ?_, fun r listed own none_ => ?_⟩
  · exact (congrArg (p.flags.poisoned || ·) poisoned).trans (Bool.or_true _)
  · have listed : u ∈ c.trk.tricks := listed
    rcases Dev.mem_updTrick listed with ⟨other, -⟩ | ⟨v, -, -, rfl⟩
    · exact absurd own other
    · rfl
  · have kept := (List.mem_filter.1 listed).2
    rw [own, none_] at kept
    simp at kept

/-- Settles the clause of O46 about TRICK_PREPARED. -/
theorem trickPrepared_rows {s : State} {e : Nat} {t : Trick} (found : s.dev.trk.trick e = some t) (state : t.state = .commit) (alone : t.migrate = none)
    (log : s.dev.logBlocked = false) (sound : s.dev.sramLost .trickTable e = false) :
    (t.cascade = false → s.dev.trk.stacksOf t ≠ [] →
      ∃ u v, exec (.trickPrepared e false) s = .next u ∧ u.dev.trk.trick e = some v ∧ v.state = .committing ∧
        v.epoch = some (s.dev.trk.lastEpoch + 1) ∧ v.unacked = s.dev.trk.stacksOf t ∧ u.dev.trk.lastEpoch = s.dev.trk.lastEpoch + 1 ∧
        (∃ r ∈ u.dev.trk.log, r.decision = 1 ∧ r.trick = e ∧ r.epoch = s.dev.trk.lastEpoch + 1 ∧ r.handle = t.handle ∧
          r.dies = s.dev.trk.stacksOf t ∧ r.rows = (s.dev.trk.recordsOf t).length)) ∧
    (t.cascade = true →
      ∃ u v, exec (.trickPrepared e false) s = .next u ∧ u.dev.trk.trick e = some v ∧ v.state = .prepared ∧
        u.dev.trk.lastEpoch = s.dev.trk.lastEpoch ∧ (∃ r ∈ u.dev.trk.log, r.decision = 0 ∧ r.trick = e ∧ r.epoch = 2 ^ 64 - 1)) ∧
    (∀ i p, t.commit = some i → s.dev.place i = some p →
      ∃ u q, exec (.trickPrepared e true) s = .next u ∧ u.dev.place i = some q ∧ q.phase = .finished ∧ q.status = .aborted ∧
        q.flags.poisoned = true ∧ (∀ v ∈ u.dev.trk.tricks, v.entry = e → v.state = .aborted) ∧
        (∀ r ∈ u.dev.trk.staged, r.trick = e → r.epoch ≠ none)) := by
  obtain ⟨-, rfl⟩ := Trk.trick_entry found
  have run (failed : Bool) : exec (.trickPrepared t.entry failed) s = .next { s with dev := s.dev.prepared t failed } := by
    refine congrArg Host.Outcome.next ?_
    rw [found]
  have work (failed : Bool) := Dev.prepared_of failed state alone log sound
  refine ⟨fun single dies => ?_, fun cascade => ?_, fun i p commit here => ?_⟩
  · obtain ⟨v, now, st, ep, un, last, n, listed⟩ := s.dev.commitTrick_spec 0 0 found dies
    have does : s.dev.prepared t false = s.dev.commitTrick t 0 0 := (work false).trans (by rw [single]; rfl)
    rw [← does] at now last listed
    exact ⟨_, v, run false, now, st, ep, un, last, _, listed, rfl, rfl, rfl, rfl, rfl, rfl⟩
  · obtain ⟨v, now, st, last, record⟩ := s.dev.prepareTrick_spec found
    have does : s.dev.prepared t false = s.dev.prepareTrick t := (work false).trans (by rw [cascade]; rfl)
    rw [← does] at now last record
    exact ⟨_, v, run false, now, st, last, record⟩
  · obtain ⟨q, now, spec⟩ := Dev.abortTrick_commit (f := { poisoned := true }) commit here rfl
    have does : s.dev.prepared t true = s.dev.abortTrick t { poisoned := true } := work true
    rw [← does] at now spec
    exact ⟨_, q, run true, now, spec⟩

/-! ## DIE_EPOCH_ACK -/

/-- A record that a die marks with its trick's epoch (R232). -/
def Trick.mark (t : Trick) (x : Nat) (r : Staged) : Staged := if r.trick = t.entry ∧ r.stack = x ∧ r.epoch = none then { r with epoch := t.epoch } else r

/-- A trick after a die's acknowledgement (R232). -/
def Trick.acked (t : Trick) (x : Nat) (u : Trick) : Trick :=
  { u with unacked := t.unacked.filter (· ≠ x), state := if (t.unacked.filter (· ≠ x)).isEmpty then .committed else u.state }

/-- Settles the clause of O46 about DIE_EPOCH_ACK. -/
theorem dieEpochAck_row {s : State} {e x ep : Nat} {t : Trick} (found : s.dev.trk.trick e = some t) (state : t.state = .committing) (awaited : x ∈ t.unacked)
    (alone : ∀ u ∈ s.dev.trk.tricks, u.entry = e → u = t) (sound : s.dev.sramLost .trickTable e = false) (epoch : t.epoch = some ep)
    (open_ : ∀ r ∈ s.dev.trk.recordsOf t, r.stack = x → s.dev.blocked r.addr = false) :
    ∃ u, exec (.dieEpochAck e x) s = .next u ∧
      (∀ r ∈ s.dev.trk.staged, r.kind = 1 → r.trick = e → r.stack = x → r.epoch = none → { r with epoch := some ep } ∈ u.dev.trk.staged) ∧
      (t.unacked.filter (· ≠ x) ≠ [] → ∃ v, u.dev.trk.trick e = some v ∧ v.state = .committing ∧ v.unacked = t.unacked.filter (· ≠ x)) ∧
      (t.unacked.filter (· ≠ x) = [] → ep = s.dev.trk.lce + 1 → ep ≤ u.dev.trk.lce) ∧ s.dev.trk.lce ≤ u.dev.trk.lce := by
  obtain ⟨member, rfl⟩ := Trk.trick_entry found
  have may : s.dev.mayAck t x = true := by
    unfold Dev.mayAck
    simp only [Bool.and_eq_true, beq_iff_eq, Bool.not_eq_true', List.all_eq_true, Bool.or_eq_true, bne_iff_ne, List.contains_iff_mem]
    exact ⟨⟨⟨state, awaited⟩, sound⟩, fun r listed => or_iff_not_imp_left.2 fun same => open_ r listed (not_not.1 same)⟩
  have run : exec (.dieEpochAck t.entry x) s = .next { s with dev := s.dev.ackEpoch t x } := by
    refine congrArg Host.Outcome.next ?_
    rw [found]
    exact if_pos may
  refine ⟨_, run, ?_⟩
  have does : s.dev.ackEpoch t x = ((s.dev.setTrk { s.dev.trk with staged := s.dev.trk.staged.map (t.mark x) }).updTrick t.entry (t.acked x)).settleEpochs := rfl
  have trk : (s.dev.setTrk { s.dev.trk with staged := s.dev.trk.staged.map (t.mark x) }).trk = { s.dev.trk with staged := s.dev.trk.staged.map (t.mark x) } :=
    Dev.setTrk_trk _ _
  dsimp only
  rw [does]
  generalize s.dev.setTrk { s.dev.trk with staged := s.dev.trk.staged.map (t.mark x) } = c at trk
  have lce : c.trk.lce = s.dev.trk.lce := (congrArg Trk.lce trk).trans rfl
  have lce : (c.updTrick t.entry (t.acked x)).trk.lce = s.dev.trk.lce := lce
  have now : (c.updTrick t.entry (t.acked x)).trk.trick t.entry = some (t.acked x t) := by
    have same : c.trk.trick t.entry = some t := by rw [trk]; exact found
    rw [Dev.trick_updTrick (f := t.acked x) c t.entry fun _ => rfl, same]
    rfl
  obtain ⟨y, le, lce', next, -, staged, keeps⟩ := (c.updTrick t.entry (t.acked x)).settleEpochs_spec
  refine ⟨fun r listed kind own stack none_ => staged _ ?_ (by rw [kind]; decide), fun rest => ?_, fun last first => ?_, ?_⟩
  · have marked : t.mark x r = { r with epoch := some ep } := (if_pos ⟨own, stack, none_⟩).trans (by rw [epoch])
    have listed' : { r with epoch := some ep } ∈ c.trk.staged := by
      rw [trk]
      exact List.mem_map.2 ⟨r, listed, marked⟩
    exact listed'
  · have stays (u : Trick) (same : u = t) : (t.acked x u).state = .committing := by
      rw [same]
      exact (if_neg (by simpa using rest)).trans state
    have kept := keeps t.entry fun u listed own => by
      rcases Dev.mem_updTrick listed with ⟨other, -⟩ | ⟨v, before, own', rfl⟩
      · exact absurd own other
      · have before : v ∈ s.dev.trk.tricks := by
          rw [trk] at before
          exact before
        rw [stays v (alone v before own')]
        decide
    exact ⟨_, kept.trick.trans now, stays t rfl, rfl⟩
  · rw [lce', first, ← lce]
    refine next ⟨t.acked x t, (Trk.trick_entry now).1, if_pos (List.isEmpty_iff.2 last), ?_⟩
    exact epoch.trans (by rw [lce, first])
  · rw [lce', ← lce]
    exact le

end Sys2Proof.Machine
end

section
/-! SUPPORT. Settling, pins and the rebuild (R234 to R237, R250, R251). -/

namespace Sys2Proof.Machine

/-! ## Reads of one atom, and symbol errors that they leave -/

/-- Atoms of `m` without symbol errors have none in `k`. -/
def Mem.Clears (m k : Mem) : Prop := ∀ a, m.upsets.get [] a = [] → k.upsets.get [] a = []

theorem Mem.Clears.of {m k : Mem} (same : k.upsets = m.upsets) : m.Clears k := fun a none_ => by rw [same, none_]

theorem Mem.Clears.trans {a b c : Mem} (h : a.Clears b) (g : b.Clears c) : a.Clears c := fun x none_ => g x (h x none_)

theorem SMap.get_del_default {α : Type} [DecidableEq α] {d : α} {m : SMap α} {a : Nat} (k : Nat) (none_ : m.get d a = d) : SMap.get d (SMap.del m k) a = d := by
  by_cases own : a = k
  · rw [own, SMap.get_eq_find, SMap.find_del_same]
    rfl
  · rw [SMap.get_eq_find, SMap.find_del_other own, ← SMap.get_eq_find]
    exact none_

theorem Mem.Clears.clearUpset (m : Mem) (a : Nat) : m.Clears (m.clearUpset a) := fun _ none_ => SMap.get_del_default _ none_

theorem Dev.repairRow_upsets (d : Dev) (a : Nat) (w : Who) : (d.repairRow a w).mem.upsets = d.mem.upsets := by
  unfold Dev.repairRow
  dsimp only
  split
  · rfl
  · split <;> rfl

theorem Dev.countCorrected_upsets (d : Dev) (a : Nat) (w : Who) : (d.countCorrected a w).mem.upsets = d.mem.upsets := by
  unfold Dev.countCorrected
  dsimp only
  split
  · rfl
  · split
    · exact Dev.repairRow_upsets _ _ _
    · rfl

theorem Dev.settleAtom_clears (d : Dev) (a : Nat) (c : AtomCheck) (w : Who) : d.mem.Clears (d.settleAtom a c w).1.mem := by
  have uncorrected (e : Dev) (same : e.mem.upsets = d.mem.upsets) :
      d.mem.Clears (({ e with mem := (e.mem.clearUpset a).setPoison a true } : Dev).repairRow a w).mem :=
    ((Mem.Clears.of same).trans (.clearUpset e.mem a)).trans (.of (Dev.repairRow_upsets _ _ _))
  have corrected (e : Dev) (same : e.mem.upsets = d.mem.upsets) : d.mem.Clears (({ e with mem := e.mem.clearUpset a } : Dev).countCorrected a w).mem :=
    ((Mem.Clears.of same).trans (.clearUpset e.mem a)).trans (.of (Dev.countCorrected_upsets _ _ _))
  cases c
  case clean => exact .of rfl
  case poison => exact .of rfl
  case corrected => exact corrected _ rfl
  case address => exact .of rfl
  case uncorrectable => exact uncorrected _ rfl
  case mismatch => exact uncorrected _ rfl

theorem Dev.checkAtom_clears (d : Dev) (a : Nat) (es : List (Nat × Byte)) (w : Who) : d.mem.Clears (d.checkAtom a es none w).1.mem := by
  unfold Dev.checkAtom
  dsimp only
  split
  · refine Mem.Clears.trans ?_ (Dev.settleAtom_clears _ _ _ _)
    split <;> exact .of rfl
  · exact Dev.settleAtom_clears _ _ _ _

theorem Dev.readAtom_clears (d : Dev) (a : Nat) (w : Who) : d.mem.Clears (d.readAtom a none w).1.mem := by
  unfold Dev.readAtom
  dsimp only
  split
  · exact .of rfl
  · split
    · exact .of rfl
    · split
      · exact .of rfl
      · exact Dev.checkAtom_clears _ _ _ _

theorem Dev.readRange_clears (d : Dev) (w : Who) (a n : Nat) : d.mem.Clears (d.readRange w a n).1.mem :=
  foldl_keeps (P := fun q : Dev × List Byte × List Bool => d.mem.Clears q.1.mem) (fun _ _ h => h.trans (Dev.readAtom_clears _ _ _)) _ _ (.of rfl)

theorem Mem.length_bytes (m : Mem) (a n : Nat) : (m.bytes a n).length = n := by simp [Mem.bytes]

/-- A whole atom without symbol errors reads as it is stored, poisoned or not. -/
theorem Dev.readRange_atom {d : Dev} {a : Nat} (w : Who) (aligned : a % 64 = 0) (filled : (d.mem.frame (stackOf a) (frameOf a)).zero = false)
    (symbols : d.mem.upsets.get [] (d.mem.locate a / 64) = []) : (d.readRange w a 64).2.1 = d.mem.bytes a 64 := by
  have base : a / 64 * 64 = a := by omega
  have one : (d.readAtom a none w).2.1 = d.mem.bytes a 64 := by
    cases poison : d.mem.isPoison a
    · rw [Dev.readAtom_clean none w filled poison symbols, base]
    · rw [Dev.readAtom_poison none w filled poison, base]
  have start : 64 * (a / 64 + 0) = a := by omega
  unfold Dev.readRange
  rw [aligned]
  show slice (([] ++ (d.readAtom (64 * (a / 64 + 0)) none w).2.1).drop 0) 0 64 = _
  rw [start, one]
  exact slice_whole (Mem.length_bytes _ _ _)

/-! ## SETTLE_DONE -/

theorem Dev.transferRange_mem (d : Dev) (g : Agent) (w : Bool) (a n : Nat) : (d.transferRange g w a n).mem = d.mem := by
  unfold Dev.transferRange
  exact List.foldlRecOn (motive := fun e : Dev => e.mem = d.mem) _ _ rfl fun _ same _ _ => same

theorem Dev.setTrk_same {d : Dev} {k : Trk} (staged : k.staged = d.trk.staged) (log : k.log = d.trk.log) : d.setTrk k = { d with trk := k } := by
  unfold Dev.setTrk
  rw [staged, log, List.filter_eq_nil_iff.2 fun q listed => by simpa using listed, List.filter_eq_nil_iff.2 fun q listed => by simpa using listed]
  rfl

theorem Dev.settleWrite_bytes (d : Dev) (g : Agent) {a : Nat} {bs : List Byte} (po : List Bool) (aligned : a % 64 = 0) (whole : bs.length = 64) :
    (d.settleWrite g a bs po).mem.bytes a 64 = bs ∧ (d.settleWrite g a bs po).trk = d.trk := by
  have nonempty : bs.isEmpty = false := by cases bs with
    | nil => cases whole
    | cons => rfl
  have one : d.writeInternal a bs = d.writeAtom a bs { host := true } := by
    unfold Dev.writeInternal
    rw [whole]
    refine (if_neg (by simp [nonempty])).trans ?_
    dsimp only
    rw [aligned, List.take_of_length_le (by omega), List.drop_of_length_le (by omega)]
    rfl
  obtain ⟨m, mem⟩ := d.writeAtom_puts a bs { host := true }
  have bytes : (d.writeInternal a bs).mem.bytes a 64 = bs := by
    rw [one, mem, ← whole]
    exact Mem.bytes_putBytes (by omega)
  have trk : (d.writeInternal a bs).trk = d.trk := by
    rw [one]
    exact ((Dev.MemOnly.refl d).writeAtom a bs _).work.trk
  unfold Dev.settleWrite
  dsimp only
  generalize d.writeInternal a bs = e at bytes trk
  have marks : Mem.Same e.mem ((List.range bs.length).foldl (fun m i => if po.getD i false then m.setPoison (a + i) true else m) e.mem) := by
    refine List.foldlRecOn (motive := fun m : Mem => Mem.Same e.mem m) _ _ (.refl _) fun m same i _ => ?_
    split
    · exact same.setPoison _ _
    · exact same
  generalize (List.range bs.length).foldl (fun m i => if po.getD i false then m.setPoison (a + i) true else m) e.mem = m at marks
  have work := Dev.WorkOnly.transferRange { e with mem := m } (g.beside (stackOf a)) true a bs.length
  have mem : (({ e with mem := m } : Dev).transferRange (g.beside (stackOf a)) true a bs.length).mem = m := Dev.transferRange_mem _ _ _ _ _
  refine ⟨?_, work.trk.trans trk⟩
  rw [mem, ← bytes]
  exact List.map_congr_left fun i _ => marks.byte _

/-- The copies of a record with none: no record changes. -/
theorem Trk.copies_none {k : Trk} {r : Staged} (none_ : k.copiesOf r = []) (f : Staged → Staged) :
    (k.staged.map fun q => if q.kind = 2 ∧ q.table = r.table ∧ q.row = r.row then f q else q) = k.staged := by
  refine (List.map_congr_left fun q listed => if_neg fun copy => ?_).trans (List.map_id _)
  have member : q ∈ k.copiesOf r := List.mem_filter.2 ⟨listed, by simp [copy]⟩
  rw [none_] at member
  cases member

theorem Staged.addr_aligned (r : Staged) : r.addr % 64 = 0 := by
  unfold Staged.addr stagingAddr stagingBase
  split <;> omega

theorem Mem.Same.zero {m k : Mem} (same : Mem.Same m k) (x f : Nat) : (k.frame x f).zero = (m.frame x f).zero :=
  congrArg (fun l : SMap Frame => (SMap.get ({} : Frame) l f).zero) (same.frames x)

/-- The row atoms of a record, read as its settling reads them: after the header atom (R237). -/
def Dev.readRecord (d : Dev) (r : Staged) : Dev × List Byte × List Bool :=
  (d.readRange { host := true } r.addr 64).1.readRange { host := true } (r.addr + 64) r.bytes.length

theorem Dev.readRecord_spec {d : Dev} {r : Staged} (whole : r.bytes.length = 64)
    (filled : (d.mem.frame (stackOf (r.addr + 64)) (frameOf (r.addr + 64))).zero = false)
    (symbols : d.mem.upsets.get [] (d.mem.locate (r.addr + 64) / 64) = []) :
    (d.readRecord r).2.1 = d.mem.bytes (r.addr + 64) 64 ∧ (d.readRecord r).1.trk = d.trk := by
  have aligned := r.addr_aligned
  have same := (Mem.Same.refl d.mem).readRange { host := true } r.addr 64
  have clears := Dev.readRange_clears d { host := true } r.addr 64
  have trk := (Dev.MemOnly.readRange d { host := true } r.addr 64).work.trk
  unfold Dev.readRecord
  rw [whole]
  generalize r.addr = a at *
  generalize (d.readRange { host := true } a 64).1 = e at *
  have filled' : (e.mem.frame (stackOf (a + 64)) (frameOf (a + 64))).zero = false :=
    (same.zero _ _).trans filled
  have symbols' : e.mem.upsets.get [] (e.mem.locate (a + 64) / 64) = [] := by
    rw [same.locate]
    exact clears _ symbols
  refine ⟨(Dev.readRange_atom { host := true } (by omega) filled' symbols').trans ?_, ?_⟩
  · exact List.map_congr_left fun i _ => same.byte _
  · exact ((Dev.MemOnly.readRange e { host := true } (a + 64) 64).work.trk).trans trk

/-- The home slot of a row as its settling writes it, the row's table not split (R237). -/
def Dev.writeHome (d : Dev) (tb : TableRec) (x : Nat) (r : Staged) : Dev :=
  (d.readRecord r).1.settleWrite ⟨x, memOwner r.stack, .loose⟩ (tb.place r.row).addr (slice (d.readRecord r).2.1 0 (64 * tb.slotAtoms)) (d.readRecord r).2.2

theorem Dev.settleRecord_alone {d : Dev} {tb : TableRec} {r : Staged} (x : Nat) (single : tb.isSplit = false)
    (none_ : (d.writeHome tb x r).trk.copiesOf r = []) : ∃ k, d.settleRecord tb x r = { d.writeHome tb x r with trk := k } := by
  unfold Dev.settleRecord
  dsimp only
  rw [single]
  have same := Dev.setTrk_same (d := d.writeHome tb x r) (k := { (d.writeHome tb x r).trk with staged := (d.writeHome tb x r).trk.staged.map fun q =>
    if q.kind = 2 ∧ q.table = r.table ∧ q.row = r.row then
      { q with bytes := (d.readRecord r).2.1, header := r.header, poison := (d.readRecord r).2.2.any id || false } else q }) (Trk.copies_none none_ _) rfl
  refine ⟨_, Eq.trans ?_ same⟩
  exact congrArg (fun l => List.foldl _ _ l) none_

theorem Dev.settleRecord_bytes {d : Dev} {tb : TableRec} {r : Staged} (x : Nat) (single : tb.isSplit = false) (slot : tb.slotAtoms = 1)
    (aligned : (tb.place r.row).addr % 64 = 0) (none_ : d.trk.copiesOf r = []) (whole : r.bytes.length = 64)
    (filled : (d.mem.frame (stackOf (r.addr + 64)) (frameOf (r.addr + 64))).zero = false)
    (symbols : d.mem.upsets.get [] (d.mem.locate (r.addr + 64) / 64) = []) :
    (d.settleRecord tb x r).mem.bytes (tb.place r.row).addr 64 = d.mem.bytes (r.addr + 64) 64 := by
  obtain ⟨read, trk⟩ := Dev.readRecord_spec whole filled symbols
  obtain ⟨stands, kept⟩ : (d.writeHome tb x r).mem.bytes (tb.place r.row).addr 64 = d.mem.bytes (r.addr + 64) 64 ∧ (d.writeHome tb x r).trk = d.trk := by
    unfold Dev.writeHome
    rw [read, slot, slice_whole (Mem.length_bytes _ _ _)]
    obtain ⟨stands, kept⟩ := Dev.settleWrite_bytes (d.readRecord r).1 ⟨x, memOwner r.stack, .loose⟩ (d.readRecord r).2.2 aligned
      (Mem.length_bytes d.mem (r.addr + 64) 64)
    exact ⟨stands, kept.trans trk⟩
  obtain ⟨k, run⟩ := Dev.settleRecord_alone x single (by rw [kept]; exact none_)
  rw [run]
  exact stands

theorem Dev.settleDone_runs {d : Dev} {x g : Nat} {r : Staged} {t : Trick} {tb : TableRec}
    (found : d.trk.staged.find? (fun r => r.stack == x && r.granule == g && r.kind == 1 && r.epoch.isSome) = some r)
    (trick : d.trk.trick r.trick = some t) (table : d.table r.table = some tb) (settling : t.entry ∈ d.trk.settling)
    (oldest : d.trk.olderPending r = false) (open_ : ∀ a ∈ d.settleRanges tb r, d.rangeBlocked a.1 a.2 = false)
    (sound : d.rowSram (tb.place r.row).stack r.table r.row = false) :
    d.settleDone x g = { d.settleRecord tb (d.trickCtx t) r with
      trk := ({ (d.settleRecord tb (d.trickCtx t) r).trk with
        staged := (d.settleRecord tb (d.trickCtx t) r).trk.staged.filter fun q => !(q.stack == x && q.granule == g) } : Trk).dropSettled } := by
  have clear : ((d.settleRanges tb r).any fun a => d.rangeBlocked a.1 a.2) = false := List.any_eq_false.2 fun a listed => by simp [open_ a listed]
  unfold Dev.settleDone
  rw [found]
  dsimp only
  rw [trick, table]
  dsimp only
  rw [oldest, clear, sound]
  exact if_neg (by simp [settling])

/-! ## Pins -/

theorem Dev.pinFloor_le {d : Dev} {r e : Nat} (pinned : (d.ring r).pin = some e) : d.pinFloor ≤ e := by
  have listed : e ∈ d.rings.filterMap fun r => r.2.pin := by
    rcases SMap.get_mem ({} : Ring) r d.rings with default | found
    · have none_ : (d.ring r).pin = none := congrArg Ring.pin default
      rw [none_] at pinned
      cases pinned
    · exact List.mem_filterMap.2 ⟨_, found, pinned⟩
  unfold Dev.pinFloor
  generalize (d.rings.filterMap fun r => r.2.pin) = l at listed
  cases l with
  | nil => cases listed
  | cons a l =>
    have least : ∀ (l : List Nat) (a : Nat), l.foldl min a ≤ a ∧ ∀ b ∈ l, l.foldl min a ≤ b := by
      intro l
      induction l with
      | nil => exact fun a => ⟨Nat.le_refl _, fun b h => by cases h⟩
      | cons c l ih =>
        intro a
        obtain ⟨first, rest⟩ := ih (min a c)
        refine ⟨Nat.le_trans first (Nat.min_le_left _ _), fun b h => ?_⟩
        rcases List.mem_cons.1 h with rfl | later
        · exact Nat.le_trans first (Nat.min_le_right _ _)
        · exact rest b later
    rcases List.mem_cons.1 listed with rfl | later
    · exact (least l e).1
    · exact (least l a).2 e later

/-- The work of EPOCH_PIN on an epoch (R234). -/
def Dev.pinAt (d : Dev) (p : Place) (e : Nat) : Dev := ((d.updRing p.ring fun r => { r with pin := some e }).updPlace p.id Place.finish).pruneLists

theorem Dev.pinAt_spec {d : Dev} {p : Place} (e : Nat) (here : d.place p.id = some p) : (d.pinAt p e).place p.id = some p.finish ∧
    ((d.pinAt p e).ring p.ring).pin = some e ∧ ∀ r, r ≠ p.ring → (d.pinAt p e).ring r = d.ring r := by
  refine ⟨Dev.place_upd_of (e := d.updRing p.ring fun r => { r with pin := some e }) Place.finish rfl here fun _ => rfl, ?_, fun r other => ?_⟩
  · exact congrArg Ring.pin ((Dev.ring_updRing d p.ring p.ring fun r => { r with pin := some e }).trans (if_pos rfl))
  · exact (Dev.ring_updRing d p.ring r fun r => { r with pin := some e }).trans (if_neg other)

theorem Dev.workPin_eq (d : Dev) (p : Place) : d.workPin p = if p.op.fld 1 0 1 = 0 then d.pinAt p d.trk.lce
    else if d.trk.floor ≤ p.op.word 0 ∧ p.op.word 0 ≤ d.trk.lce then d.pinAt p (p.op.word 0) else d.failBad p := rfl

/-! ## The rebuild -/

theorem Trk.rebuild_spec (k : Trk) : k.rebuild.lce = k.topEpoch ∧ k.rebuild.rebuilding = false := by
  unfold Trk.rebuild
  dsimp only
  obtain ⟨t, s, l, dropped⟩ := Trk.dropSettled_rest _
  rw [dropped]
  exact ⟨rfl, rfl⟩

theorem Trk.free_tricks {k : Trk} {e : Nat} {t : Trick} (h : t ∈ (k.free e).tricks) : t ∈ k.tricks := (List.mem_filter.1 h).1

theorem Trk.dropSettled_tricks {k : Trk} {t : Trick} (h : t ∈ k.dropSettled.tricks) : t ∈ k.tricks := by
  unfold Trk.dropSettled at h
  refine List.foldlRecOn (motive := fun q : Trk => t ∈ q.tricks → t ∈ k.tricks) _ _ (fun h => h) (fun q sofar u _ h => ?_) h
  exact sofar (Trk.free_tricks h)

theorem Trk.rebuild_prepared {k : Trk} (none_ : ∀ t ∈ k.tricks, t.state ≠ .prepared) : ∀ t ∈ k.rebuild.tricks, t.state ≠ .prepared := by
  intro t listed
  unfold Trk.rebuild at listed
  obtain ⟨u, member, eq⟩ := List.mem_map.1 (Trk.dropSettled_tricks listed)
  split at eq
  · rw [← eq]
    exact fun h => by cases h
  · exact eq ▸ none_ u member

theorem Dev.finishDecided_none {d : Dev} (none_ : ∀ t ∈ d.trk.tricks, t.state ≠ .prepared) : d.finishDecided = d := by
  unfold Dev.finishDecided
  exact List.foldlRecOn (motive := fun e : Dev => e = d) _ _ rfl fun e same t listed => same ▸ if_neg (none_ t listed)

/-- Settles O46. -/
theorem commitsAndSettling : Obligations.CommitsAndSettling := by
  unfold Obligations.CommitsAndSettling
  refine ⟨fun s e t found state alone log sound => trickPrepared_rows found state alone log sound,
    fun s e x ep t found state awaited alone sound epoch open_ => dieEpochAck_row found state awaited alone sound epoch open_,
    fun s e t found may => ?starts, fun d t may => ?floor, fun d r e pinned _ => Dev.pinFloor_le pinned,
    fun s x g r t tb found trick table settling oldest open_ sound => ?settles, fun s i d p enters here => ?pins, fun s rebuilding => ?rebuilds⟩
  case starts =>
    obtain ⟨-, rfl⟩ := Trk.trick_entry found
    refine ⟨{ s with dev := { s.dev with trk := { s.dev.trk with
        settling := insertAsc t.entry s.dev.trk.settling, floor := max s.dev.trk.floor (t.epoch.getD 0) } } },
      congrArg Host.Outcome.next ?_, (mem_insertAsc _ _ _).2 (.inl rfl), rfl, rfl, rfl⟩
    rw [found]
    exact if_pos may
  case floor =>
    unfold Dev.maySettle at may
    simp only [Bool.and_eq_true, decide_eq_true_eq, beq_iff_eq] at may
    exact ⟨may.1.1.2, may.1.1.1.1⟩
  case settles =>
    have run := Dev.settleDone_runs found trick table settling oldest open_ sound
    refine ⟨_, congrArg (fun d : Dev => (Host.Outcome.next { s with dev := d } : Host.Outcome State Fault Refusal)) run,
      fun q listed => ?_, fun single slot aligned none_ whole filled symbols => ?_⟩
    · dsimp only at listed
      obtain ⟨ts, st, l, dropped⟩ := Trk.dropSettled_rest { (s.dev.settleRecord tb (s.dev.trickCtx t) r).trk with
        staged := (s.dev.settleRecord tb (s.dev.trickCtx t) r).trk.staged.filter fun q => !(q.stack == x && q.granule == g) }
      rw [dropped] at listed
      have kept := (List.mem_filter.1 listed).2
      rw [Bool.not_eq_true', Bool.and_eq_false_iff, beq_eq_false_iff_ne, beq_eq_false_iff_ne] at kept
      exact fun both => kept.elim (fun h => h both.1) fun h => h both.2
    · exact Dev.settleRecord_bytes _ single slot aligned none_ whole filled symbols
  case pins =>
    obtain ⟨-, rfl⟩ := Dev.enters_place enters
    refine ⟨fun e allowed => ?_, fun epoch outside => ?_⟩
    · obtain ⟨now, pin, others⟩ := Dev.pinAt_spec e here
      have run : d.workPin p = d.pinAt p e := by
        rw [Dev.workPin_eq]
        rcases allowed with ⟨latest, rfl⟩ | ⟨named, rfl, low, high⟩
        · exact if_pos latest
        · exact (if_neg named).trans (if_pos ⟨low, high⟩)
      exact ⟨_, _, exec_of_enters enters run, now, rfl, rfl, pin, others⟩
    · refine exec_of_enters enters ((Dev.workPin_eq d p).trans ((if_neg epoch).trans (if_neg ?_)))
      omega
  case rebuilds =>
    refine ⟨_, congrArg Host.Outcome.next (if_pos rebuilding), Dev.testBit_leaf_setLeaf _ _ _, fun none_ => ?_⟩
    have trk : (s.dev.setTrk s.dev.trk.rebuild).trk = s.dev.trk.rebuild := Dev.setTrk_trk _ _
    have idle := Dev.finishDecided_none (d := s.dev.setTrk s.dev.trk.rebuild) (by rw [trk]; exact Trk.rebuild_prepared none_)
    obtain ⟨lce, ended⟩ := s.dev.trk.rebuild_spec
    dsimp only
    rw [idle]
    exact ⟨(congrArg Trk.rebuilding trk).trans ended, (congrArg Trk.lce trk).trans lce⟩

end Sys2Proof.Machine
end

section
/-! SUPPORT. Rows of a table that can be read are read without waiting (R184, R190): no die holds their atoms back, no table entry is bad. -/

namespace Sys2Proof.Machine

/-! ## Table entries through the reads of rows -/

theorem Mio.lasts_tableAtoms (m : Mio) (p : Place) (l : List Nat) : m.dev.Lasts (m.tableAtoms p l).1.dev := by
  unfold Mio.tableAtoms
  refine lasts_foldl (fun q : Mio × List (List Byte × Bool) => q.1.dev) (fun r a => ?_) _ _ (.of rfl)
  split
  · exact .of rfl
  · exact r.1.lasts_readMem _ _

theorem Mio.lasts_stagedAtoms (m : Mio) (p : Place) (l : List Nat) : m.dev.Lasts (m.stagedAtoms p l).1.dev := by
  unfold Mio.stagedAtoms
  refine lasts_foldl (fun q : Mio × List (List Byte × Bool) => q.1.dev) (fun r a => ?_) _ _ (.of rfl)
  have reach := r.1.reach_dev (64 * a)
  dsimp only
  split
  · exact .of (congrArg Dev.mem reach)
  · dsimp only
    rw [reach]
    exact .readAtom _ _ _

theorem Mio.lasts_rowAtoms (m : Mio) (p : Place) (t : TableRec) (w row eg : Nat) : m.dev.Lasts (m.rowAtoms p t w row eg).1.dev := by
  have same := m.lookup_dev t row
  unfold Mio.rowAtoms
  dsimp only
  split
  · exact .of (congrArg Dev.mem same)
  · split
    · exact same ▸ Mio.lasts_stagedAtoms _ _ _
    · exact same ▸ Mio.lasts_tableAtoms _ _ _

/-! ## Atoms read without waiting -/

theorem Mio.stagedAtoms_smooth (m : Mio) (p : Place) (l : List Nat) (calm : m.dev.Calm) (going : m.waits = false) : m.Smooth (m.stagedAtoms p l).1 := by
  unfold Mio.stagedAtoms
  refine smooth_foldl m (fun _ => True) (fun r a _ sofar => ?_) l (m, []) (fun _ _ => trivial) (.refl m)
  have reach := r.1.reach_smooth (64 * a) (sofar.calm calm)
  dsimp only
  rw [if_neg (by simp [reach.waits, sofar.waits, going])]
  exact reach.trans ⟨rfl, rfl, rfl, fun u => (Dev.readAtom_tame _ _ _ u).1, ((Dev.MemOnly.refl _).readAtom _ _ _).work⟩

theorem Mio.tableAtoms_smooth (m : Mio) (p : Place) (l : List Nat) (calm : m.dev.Calm) (going : m.waits = false) (sound : m.fault = false)
    (admitted : ∀ a ∈ l, m.dev.Admitted p.ctxIx (64 * a) 64) : m.Smooth (m.tableAtoms p l).1 := by
  unfold Mio.tableAtoms
  refine smooth_foldl m (fun a => m.dev.Admitted p.ctxIx (64 * a) 64) (fun r a open_ sofar => ?_) l (m, []) admitted (.refl m)
  rw [if_neg (by simp [sofar.waits, sofar.fault, going, sound])]
  exact Mio.readMem_smooth r.1 p.frontEnd (64 * a) (sofar.calm calm) (sofar.waits.trans going) (sofar.open calm (open_ _ (Nat.le_refl _) (by omega)))

theorem Mio.rowAtoms_smooth (m : Mio) (p : Place) (t : TableRec) (w row eg : Nat) (calm : m.dev.Calm) (going : m.waits = false) (sound : m.fault = false)
    (reads : m.dev.RowReads p t row) : m.Smooth (m.rowAtoms p t w row eg).1 := by
  obtain ⟨entries, admitted⟩ := reads
  have found : m.lookup t row = m := if_neg (by simp [entries])
  unfold Mio.rowAtoms
  dsimp only
  rw [found, if_neg (by simp [going])]
  split
  · exact m.stagedAtoms_smooth p _ calm going
  · exact m.tableAtoms_smooth p _ calm going sound admitted

/-! ## Work that has met nothing that holds it back -/

/-- Memory work on `d` that has met nothing: it neither waits nor failed, and what it leaves of `d` goes on serving. -/
structure Mio.Sound (d : Dev) (m : Mio) : Prop where
  smooth : Mio.Smooth { dev := d } m
  lasts : d.Lasts m.dev

theorem Mio.Sound.done {d : Dev} {m : Mio} (h : m.Sound d) : m.done := ⟨h.smooth.waits, h.smooth.fault, h.smooth.short⟩

theorem Mio.Sound.from {d : Dev} {m : Mio} (h : m.Sound d) : m.From d := h.smooth.from

theorem Mio.Sound.calm {d : Dev} {m : Mio} (h : m.Sound d) (calm : d.Calm) : m.dev.Calm := h.smooth.calm calm

theorem Mio.Sound.trans {d : Dev} {m r : Mio} (h : m.Sound d) (smooth : m.Smooth r) (lasts : m.dev.Lasts r.dev) : r.Sound d :=
  ⟨h.smooth.trans smooth, h.lasts.trans lasts⟩

/-- Charges and other work that leaves memory leave the work sound. -/
theorem Mio.Sound.setDev {d : Dev} {m : Mio} (h : m.Sound d) {e : Dev} (mem : e.mem = m.dev.mem) (work : m.dev.WorkOnly e) : Mio.Sound d { m with dev := e } :=
  h.trans (m.setDev_smooth e (.of mem) work) (.of mem)

theorem Dev.io_sound (d : Dev) (p : Place) : (d.io p).Sound d := ⟨d.io_smooth p, d.lasts_io p⟩

theorem Mio.Sound.readOperand {d : Dev} {m : Mio} (h : m.Sound d) (g : Agent) {p : Place} (w off n : Nat) (own : g.ctx = p.ctxIx) (calm : d.Calm)
    (feeds : d.Feeds p w off n) : (m.readOperand g p w off n).1.Sound d :=
  h.trans (Mio.readOperand_smooth m g p w off n own (h.calm calm) h.done.1 h.done.2.2 (h.from.feeds calm feeds)) (m.lasts_readOperand g p w off n)

theorem Mio.Sound.rowReads {d : Dev} {m : Mio} (h : m.Sound d) (calm : d.Calm) {p : Place} {t : TableRec} {row : Nat} (reads : d.RowReads p t row) :
    m.dev.RowReads p t row :=
  ⟨Dev.rowSram_lasts calm.1 h.lasts h.smooth.work.trk reads.1, fun a listed => h.smooth.admitted calm (reads.2 a listed)⟩

theorem Mio.Sound.rowAtoms {d : Dev} {m : Mio} (h : m.Sound d) (calm : d.Calm) {p : Place} {t : TableRec} {row : Nat} (reads : d.RowReads p t row) (w eg : Nat) :
    (m.rowAtoms p t w row eg).1.Sound d :=
  h.trans (m.rowAtoms_smooth p t w row eg (h.calm calm) h.done.1 h.done.2.1 (h.rowReads calm reads)) (m.lasts_rowAtoms p t w row eg)

end Sys2Proof.Machine
end

section
/-! SUPPORT. Row migration (R239 to R244): admission and reading, the check at the commit, and starting over when space is freed. -/

namespace Sys2Proof.Machine

/-! ## The record of a migration's commit stays -/

theorem foldl_max_le : ∀ (l : List Nat) (a : Nat), a ≤ l.foldl max a ∧ ∀ b ∈ l, b ≤ l.foldl max a
  | [], a => ⟨Nat.le_refl _, fun b h => by cases h⟩
  | c :: l, a => by
    obtain ⟨first, rest⟩ := foldl_max_le l (max a c)
    refine ⟨Nat.le_trans (Nat.le_max_left _ _) first, fun b h => ?_⟩
    rcases List.mem_cons.1 h with rfl | later
    · exact Nat.le_trans (Nat.le_max_right _ _) first
    · exact rest b later

theorem foldl_max_bound : ∀ (l : List Nat) (a n : Nat), a ≤ n → (∀ b ∈ l, b ≤ n) → l.foldl max a ≤ n
  | [], _, _, le, _ => le
  | c :: l, a, n, le, all => foldl_max_bound l (max a c) n (Nat.max_le.2 ⟨le, all c List.mem_cons_self⟩) fun b h => all b (List.mem_cons_of_mem _ h)

/-- A record is the highest COMMIT of a log. -/
def Trk.Top (k : Trk) (r : CommitRec) : Prop := r ∈ k.log ∧ r.committed = true ∧ ∀ q ∈ k.log, q.committed = true → q.epoch ≤ r.epoch

theorem Trk.Top.epoch {k : Trk} {r : CommitRec} (h : k.Top r) : k.topEpoch = r.epoch := by
  obtain ⟨listed, committed, highest⟩ := h
  unfold Trk.topEpoch
  refine Nat.le_antisymm (foldl_max_bound _ _ _ (Nat.zero_le _) fun b h => ?_) ((foldl_max_le _ 0).2 _ (List.mem_map.2 ⟨r, List.mem_filter.2 ⟨listed, committed⟩, rfl⟩))
  obtain ⟨q, member, rfl⟩ := List.mem_map.1 h
  obtain ⟨member, committed'⟩ := List.mem_filter.1 member
  exact highest q member committed'

/-- The COMMIT record of the highest epoch stays when entries are freed (R233). -/
theorem Trk.Top.free {k : Trk} {r : CommitRec} (h : k.Top r) (e : Nat) : (k.free e).Top r := by
  have top := h.epoch
  obtain ⟨listed, committed, highest⟩ := h
  refine ⟨List.mem_filter.2 ⟨listed, ?_⟩, committed, fun q member => highest q (List.mem_filter.1 member).1⟩
  rw [committed, top]
  simp

theorem Trk.Top.dropSettled {k : Trk} {r : CommitRec} (h : k.Top r) : k.dropSettled.Top r :=
  List.foldlRecOn (motive := fun q : Trk => q.Top r) _ _ h fun _ sofar t _ => sofar.free t.entry

theorem Dev.settleEpochs_top {d : Dev} {r : CommitRec} (h : d.trk.Top r) : r ∈ d.settleEpochs.trk.log := by
  obtain ⟨x, -, advanced⟩ := Trk.advance_spec (d.trk.tricks.length + 1) d.trk
  obtain ⟨f, settled⟩ := d.settleEpochs_trk advanced
  have stays : ({ d.trk with lce := x } : Trk).dropSettled.Top r := Trk.Top.dropSettled h
  rw [settled]
  exact stays.1

/-- A location list that is the newest of its row and names a place outlives settling (R242). -/
theorem Dev.settleEpochs_replica {d : Dev} {r : Replica} (listed : r ∈ d.trk.replicas)
    (newest : ∀ q ∈ d.trk.replicas, q.table = r.table → q.row = r.row → q.since ≤ r.since) (placed : r.places ≠ []) : r ∈ d.settleEpochs.trk.replicas := by
  obtain ⟨x, -, advanced⟩ := Trk.advance_spec (d.trk.tricks.length + 1) d.trk
  obtain ⟨f, settled⟩ := d.settleEpochs_trk advanced
  obtain ⟨t, s, l, dropped⟩ := Trk.dropSettled_rest { d.trk with lce := x }
  rw [settled, dropped]
  refine List.mem_filter.2 ⟨List.mem_filter.2 ⟨listed, ?_⟩, ?_⟩
  · rw [Bool.not_eq_true', List.any_eq_false]
    intro q member
    simp only [Bool.and_eq_true, beq_iff_eq, decide_eq_true_eq, not_and]
    intro same later
    exact absurd (newest q member same.1.1 same.1.2) (Nat.not_le.2 same.2)
  · have some_ : r.places.isEmpty = false := by simpa using placed
    rw [some_]
    simp

/-- The location list that a migration makes valid from the next epoch (R241, R243). -/
def Dev.migrated (d : Dev) (m : Migration) : Replica :=
  ⟨m.table, m.row, d.trk.lastEpoch + 1, (newLocations (d.trk.present m.table m.row) m.mode m.stack m.pcs).1,
    (newLocations (d.trk.present m.table m.row) m.mode m.stack m.pcs).2⟩

theorem mem_newLocations {cur : List (Nat × Nat) × Bool} {mode x a : Nat} {pcs : List Nat} (places : mode ≠ 2) (listed : a ∈ pcs) :
    (x, a) ∈ (newLocations cur mode x pcs).1 := by
  have new : (x, a) ∈ pcs.map fun p => (x, p) := List.mem_map.2 ⟨a, listed, rfl⟩
  unfold newLocations
  dsimp only
  rw [if_neg places]
  by_cases before : (x, a) ∈ cur.1
  · exact List.mem_append_left _ before
  · exact List.mem_append_right _ (List.mem_filter.2 ⟨new, by simp [before]⟩)

theorem Dev.migrateCommit_spec (d : Dev) (k : Trick) (m : Migration) :
    ((∀ r ∈ d.trk.log, r.committed = true → r.epoch ≤ d.trk.lastEpoch) → d.trk.lastEpoch < 2 ^ 64 - 2 →
        ∃ r ∈ (d.migrateCommit k m).trk.log, r.decision = 1 ∧ r.trick = k.entry ∧ r.epoch = d.trk.lastEpoch + 1) ∧
    (m.mode ≠ 2 → m.pcs ≠ [] → (∀ q ∈ d.trk.replicas, q.since ≤ d.trk.lastEpoch) →
        ∃ r ∈ (d.migrateCommit k m).trk.replicas, r.table = m.table ∧ r.row = m.row ∧ r.since = d.trk.lastEpoch + 1 ∧
          ∀ a ∈ m.pcs, (m.stack, a) ∈ r.places) := by
  obtain ⟨c, trk, run⟩ : ∃ c : Dev, (∃ l, c.trk = { d.trk with staged := l, replicas := d.trk.replicas ++ [d.migrated m] }) ∧
      d.migrateCommit k m = c.commitTrick k 0 0 := ⟨_, ⟨_, Dev.setTrk_trk _ _⟩, rfl⟩
  obtain ⟨l, trk⟩ := trk
  obtain ⟨e, old, n, does, ⟨b, now⟩, older⟩ := c.commitTrick_to k 0 0
  have last : c.trk.lastEpoch = d.trk.lastEpoch := (congrArg Trk.lastEpoch trk).trans rfl
  have log : c.trk.log = d.trk.log := (congrArg Trk.log trk).trans rfl
  have before : c.trk.replicas = d.trk.replicas ++ [d.migrated m] := (congrArg Trk.replicas trk).trans rfl
  have replicas : e.trk.replicas = d.trk.replicas ++ [d.migrated m] := Eq.trans ((congrArg Trk.replicas now).trans rfl) before
  have records : e.trk.log = old ++ [{ c.commitRec k 0 0 with slot := n }] := (congrArg Trk.log now).trans rfl
  rw [run, does]
  refine ⟨fun below small => ?_, fun places named since => ?_⟩
  · have top : e.trk.Top { c.commitRec k 0 0 with slot := n } := by
      have epoch : ({ c.commitRec k 0 0 with slot := n } : CommitRec).epoch = d.trk.lastEpoch + 1 := congrArg (· + 1) last
      refine ⟨?_, ?_, fun q member committed => ?_⟩
      · rw [records]
        exact List.mem_append_right _ List.mem_cons_self
      · unfold CommitRec.committed
        rw [epoch]
        simp only [Dev.commitRec, beq_self_eq_true, Bool.true_and, bne_iff_ne]
        omega
      · rw [epoch]
        rw [records] at member
        rcases List.mem_append.1 member with before | own
        · have le := below q (log ▸ older q before) committed
          omega
        · rw [List.mem_singleton.1 own, epoch]
    have stays : (e.updTrick k.entry (c.commits k)).trk.Top { c.commitRec k 0 0 with slot := n } := top
    exact ⟨_, Dev.settleEpochs_top stays, rfl, rfl, congrArg (· + 1) last⟩
  · have placed (a : Nat) (listed : a ∈ m.pcs) : (m.stack, a) ∈ (d.migrated m).places := mem_newLocations places listed
    have listed : d.migrated m ∈ (e.updTrick k.entry (c.commits k)).trk.replicas := by
      show d.migrated m ∈ e.trk.replicas
      rw [replicas]
      exact List.mem_append_right _ List.mem_cons_self
    refine ⟨d.migrated m, Dev.settleEpochs_replica listed (fun q member _ _ => ?_) ?_, rfl, rfl, rfl, placed⟩
    · have member : q ∈ e.trk.replicas := member
      rw [replicas] at member
      rcases List.mem_append.1 member with before | own
      · exact Nat.le_succ_of_le (since q before)
      · rw [List.mem_singleton.1 own]
    · obtain ⟨a, first⟩ := List.exists_mem_of_ne_nil _ named
      exact List.ne_nil_of_mem (placed a first)

/-! ## The check at the commit -/

theorem Dev.migrateCheck_ready {d : Dev} {p : Place} {k : Trick} {m : Migration}
    (found : d.trk.tricks.find? (fun t => t.commit == some p.id && t.state == .commit) = some k) (migrates : k.migrate = some m)
    (log : d.logBlocked = false) (open_ : ∀ r ∈ d.trk.recordsOf k, d.blocked r.addr = false) :
    d.migrateCheck p = if m.conflict then d.migrateConflict p k m else if d.migrationOk m then d.migrateCommit k m
      else (d.dropMigration k).updPlace p.id (·.fail .badDescriptor) := by
  have clear : ((d.trk.recordsOf k).any fun r => d.blocked r.addr) = false := List.any_eq_false.2 fun r listed => by simp [open_ r listed]
  unfold Dev.migrateCheck
  rw [found]
  dsimp only
  rw [migrates]
  dsimp only
  rw [log, clear]
  rfl

theorem Dev.dropMigration_spec (d : Dev) (k : Trick) : (∀ u ∈ (d.dropMigration k).trk.tricks, u.entry ≠ k.entry) ∧
    (∀ r ∈ (d.dropMigration k).trk.staged, r.trick = k.entry → r.epoch ≠ none) ∧ (d.dropMigration k).board = d.board ∧
    (d.dropMigration k).trk.retries = d.trk.retries := by
  refine ⟨fun u listed => by simpa using (List.mem_filter.1 listed).2, fun r listed own none_ => ?_, rfl, rfl⟩
  have kept := (List.mem_filter.1 listed).2
  rw [own, none_] at kept
  simp at kept

theorem Dev.migrateConflict_last {d : Dev} {p : Place} {k : Trick} {m : Migration} (here : d.place p.id = some p) (last : 15 ≤ m.retries) :
    ∃ q, (d.migrateConflict p k m).place p.id = some q ∧ q.phase = .finished ∧ q.status = .aborted ∧
      ((d.migrateConflict p k m).leaf .trk).testBit 2 = true ∧ (d.migrateConflict p k m).trk.retries = satInc32 d.trk.retries 1 ∧
      (∀ u ∈ (d.migrateConflict p k m).trk.tricks, u.entry ≠ k.entry) ∧
      (∀ r ∈ (d.migrateConflict p k m).trk.staged, r.trick = k.entry → r.epoch ≠ none) := by
  let c : Dev := { d with trk := { d.trk.discardRows k.entry with retries := satInc32 d.trk.retries 1 } }
  obtain ⟨tricks, staged, board, retries⟩ := c.dropMigration_spec k
  have run : d.migrateConflict p k m = ((c.dropMigration k).trkLeaf 2 none p.seat).updPlace p.id (·.fail .aborted) := if_pos (by omega)
  have now := Dev.place_upd_of (e := (c.dropMigration k).trkLeaf 2 none p.seat) (·.fail .aborted) rfl here fun _ => rfl
  rw [run]
  exact ⟨_, now, rfl, rfl, Dev.testBit_leaf_setLeaf _ _ _, retries, tricks, staged⟩

/-! ## Reading the row -/

theorem Dev.workMigrate_new {d : Dev} {p : Place} (none_ : ∀ t ∈ d.trk.tricks, t.commit ≠ some p.id) :
    (d.trk.tricks.find? fun t => t.commit == some p.id && t.migrate.isSome) = none :=
  List.find?_eq_none.2 fun t listed both => none_ t listed (by simp only [Bool.and_eq_true, beq_iff_eq] at both; exact both.1)

section
variable {d : Dev} {p : Place} (none_ : ∀ t ∈ d.trk.tricks, t.commit ≠ some p.id)
include none_

theorem Dev.workMigrate_refused (bad : d.migrateOk ((d.table (p.op.fld 1 0 2)).getD {}) (p.op.word 0) (p.op.fld 1 2 1) (p.op.fld 1 3 1)
    (setBits 64 (p.op.word 2)) = false) : d.workMigrate p = d.failBad p := by
  unfold Dev.workMigrate
  rw [Dev.workMigrate_new none_]
  dsimp only
  rw [bad]
  rfl

theorem Dev.workMigrate_full (good : d.migrateOk ((d.table (p.op.fld 1 0 2)).getD {}) (p.op.word 0) (p.op.fld 1 2 1) (p.op.fld 1 3 1)
    (setBits 64 (p.op.word 2)) = true) (full : d.trk.admission p.seat 1 = none) : d.workMigrate p = d.stallPlace p .trickBackpressure := by
  unfold Dev.workMigrate
  rw [Dev.workMigrate_new none_]
  dsimp only
  rw [good, full]
  rfl

theorem Dev.workMigrate_admits (good : d.migrateOk ((d.table (p.op.fld 1 0 2)).getD {}) (p.op.word 0) (p.op.fld 1 2 1) (p.op.fld 1 3 1)
    (setBits 64 (p.op.word 2)) = true) {e : Nat} (room : d.trk.admission p.seat 1 = some e) {m : Migration} {k : Trick}
    (migration : m = { table := ((d.table (p.op.fld 1 0 2)).getD {}).table, row := p.op.word 0, mode := p.op.fld 1 2 1, stack := p.op.fld 1 3 1,
                       pcs := setBits 64 (p.op.word 2), er := d.trk.lce })
    (trick : k = { entry := e, handle := 0, seat := p.seat, ring := p.ring, rowsMax := 1, cascade := false, state := .open_, handleInUse := false,
                   commit := some p.id, migrate := some m }) :
    d.workMigrate p = ({ d with trk := { d.trk with tricks := d.trk.tricks ++ [k] } } : Dev).migrateRead p k m := by
  subst trick migration
  unfold Dev.workMigrate
  rw [Dev.workMigrate_new none_]
  dsimp only
  rw [good, room]
  rfl
end

/-- A migration as its read leaves it (R243). -/
def Dev.migrationRead (d : Dev) (m : Migration) (er : Nat) : Migration := { m with er := er, conflict := d.trk.writtenAfter m.table m.row er }

theorem Dev.migrateRead_spec {f : Dev} {p : Place} {k : Trick} {m : Migration} {tb : TableRec} {a : Mio × List (List Byte × Bool)} {h : List Byte} {w : Mio}
    {trk : Trk} (here : f.place p.id = some p) (table : f.table m.table = some tb) (read : a = (f.io p).rowAtoms p tb 0 m.row f.trk.lce)
    (header : h = if tb.isSplit then headerIn (f.source p.id 0 tb.table m.row f.trk.lce) tb m.row (a.2.getD tb.atoms ([], false)).1 else [])
    (staged : a.1.dev.trk.stageAll (migrationCopies k m (f.trk.present m.table m.row).1 ((a.2.take tb.atoms).flatMap (·.1)) h (a.2.any (·.2))) = .ok trk)
    (reached : w = a.1.reachRecords (trk.staged.drop a.1.dev.trk.staged.length)) (going : a.1.waits = false) (sound : a.1.fault = false) (done : w.done)
    (listed : k ∈ f.trk.tricks) :
    ∃ q v, (f.migrateRead p k m).place p.id = some q ∧ q.phase = p.phase ∧ q.status = p.status ∧ q.stall = .none ∧
      { k with state := .commit, migrate := some v } ∈ (f.migrateRead p k m).trk.tricks ∧ v.er = f.trk.lce ∧ v.row = m.row ∧
      (f.migrateRead p k m).trk.staged = trk.staged := by
  have work : f.WorkOnly a.1.dev := by
    rw [read]
    exact (Dev.work_io f p).trans (Mio.work_rowAtoms _ _ _ _ _ _)
  obtain ⟨new, all, -⟩ := Trk.stageAll_spec _ staged
  have tricks : trk.tricks = f.trk.tricks := by rw [all, ← work.trk]
  let e : Dev := (trk.staged.drop a.1.dev.trk.staged.length).foldl (fun d r => d.transferAtoms p.frontEnd true r.allAtoms)
    ((a.1.dev.chargeAtoms p.frontEnd (f.rowAtomsOf p tb 0 m.row f.trk.lce)).setTrk trk)
  let c : Dev := e.updPlace p.id (Place.noted · { w with dev := e })
  have run : f.migrateRead p k m = (c.updTrick k.entry fun t => { t with state := .commit, migrate := some (c.migrationRead m f.trk.lce) }).updPlace p.id
      fun q => { q with stall := .none } := by
    unfold Dev.migrateRead
    dsimp only
    rw [table, Option.getD_some, ← read, ← header, staged]
    refine (if_neg (by simp [going])).trans ((if_neg (by simp [sound])).trans ?_)
    dsimp only
    rw [← reached]
    exact Dev.conclude_noted f p (m := { w with dev := e }) _ done
  have now : ({ a.1.dev.chargeAtoms p.frontEnd (f.rowAtomsOf p tb 0 m.row f.trk.lce) with trk := trk } : Dev).WorkOnly e :=
    (Dev.setTrk_memOnly _ trk).work.trans (Dev.WorkOnly.foldl (fun d r => .transferAtoms d _ _ _) _ _)
  have charged := Dev.WorkOnly.chargeAtoms a.1.dev p.frontEnd (f.rowAtomsOf p tb 0 m.row f.trk.lce)
  have first : e.place p.id = some p := (now.place p.id).trans ((charged.place p.id).trans ((work.place p.id).trans here))
  have kept : e.trk = trk := now.trk
  have second : c.place p.id = some (p.noted { w with dev := e }) := Dev.place_upd_again (Place.noted · { w with dev := e }) first fun _ => rfl
  have third := Dev.place_upd_of (e := c.updTrick k.entry fun t => { t with state := .commit, migrate := some (c.migrationRead m f.trk.lce) })
    (fun q => { q with stall := .none }) rfl second fun _ => rfl
  have member : k ∈ c.trk.tricks := by
    show k ∈ e.trk.tricks
    rw [kept, tricks]
    exact listed
  have records : c.trk.staged = trk.staged := congrArg Trk.staged kept
  rw [run]
  clear_value c e
  exact ⟨_, c.migrationRead m f.trk.lce, third, rfl, rfl, rfl, List.mem_map.2 ⟨k, member, if_pos rfl⟩, rfl, rfl, records⟩

end Sys2Proof.Machine
end

section
/-! SUPPORT. The rows of O47: ROW_MIGRATE as it enters, and OVERLAY_SPACE_FREED. -/

namespace Sys2Proof.Machine

/-- The commands of a ROW_MIGRATE by its MODE do its work where it enters (R241). -/
theorem exec_rowMigrate {s : State} {i mode : Nat} {c : Instr} {d : Dev} {p : Place}
    (command : (c = .rowMigrateMove i ∧ mode = 0) ∨ (c = .rowMigrateReplicate i ∧ mode = 1) ∨ (c = .rowMigrateDropReplica i ∧ mode = 2))
    (enters : s.dev.enters i (fun o => o.opcode == 0x35 && o.fld 1 2 1 == mode) = some (d, p)) : exec c s = .next { s with dev := d.workMigrate p } := by
  rcases command with ⟨rfl, rfl⟩ | ⟨rfl, rfl⟩ | ⟨rfl, rfl⟩
  · exact exec_of_enters enters rfl
  · exact exec_of_enters enters rfl
  · exact exec_of_enters enters rfl

/-- A row that can be read leaves the copies of its migration ready to be written. -/
theorem Dev.migrateRead_ready {f : Dev} {p : Place} {tb : TableRec} {row : Nat} (calm : f.Calm) (reads : f.RowReads p tb row) (rs : List Staged) (eg : Nat) :
    ((f.io p).rowAtoms p tb 0 row eg).1.done ∧ (((f.io p).rowAtoms p tb 0 row eg).1.reachRecords rs).done := by
  have sound := (f.io_sound p).rowAtoms calm reads 0 eg
  have smooth := Mio.reachRecords_smooth _ rs (sound.calm calm)
  exact ⟨sound.done, smooth.waits.trans sound.done.1, smooth.fault.trans sound.done.2.1, smooth.short.trans sound.done.2.2⟩

theorem exec_overlaySpaceFreed {s : State} {i : Nat} {p : Place} (here : s.dev.place i = some p) (running : p.phase = .running)
    (stall : p.stall = .trickBackpressure) : exec (.overlaySpaceFreed i) s = .next { s with
      dev := if p.op.opcode = 0x31 then s.dev.workPut [] p else if p.op.opcode = 0x35 then s.dev.workMigrate p else s.dev } := by
  refine congrArg Host.Outcome.next ?_
  rw [here]
  exact if_pos ⟨running, stall⟩

/-- Settles O47. -/
theorem rowMigration : Obligations.RowMigration := by
  unfold Obligations.RowMigration
  refine ⟨fun s i mode c d p here command enters none_ => ?enters, fun s i p k m here opcode running found migrates log open_ => ?checks,
    fun s i p here running stall fine covered => ?freed⟩
  case enters =>
    have own : p.id = i := Dev.place_id here
    have run := exec_rowMigrate command enters
    subst own
    refine ⟨fun bad => run.trans (by rw [Dev.workMigrate_refused none_ bad]; rfl), fun good => ⟨fun full => ?_, ?_⟩⟩
    · obtain ⟨now, x, rest⟩ := Dev.stallPlace_spec d p .trickBackpressure p here
      rw [Dev.workMigrate_full none_ good full] at run
      refine ⟨_, _, run, now, rfl, rfl, ?_⟩
      dsimp only
      rw [rest]
    · intro e m k f tb a h w trk room table migration trick device same read header staged reached ready
      have work : d.workMigrate p = f.migrateRead p k m := by
        rw [device]
        exact Dev.workMigrate_admits none_ good room (by rw [← table]; exact migration) trick
      have lce : f.trk.lce = d.trk.lce := by rw [device]
      have present : f.trk.present m.table m.row = d.trk.present m.table m.row := by rw [device]; rfl
      have place : f.place p.id = some p := by rw [device]; exact here
      have listed : k ∈ f.trk.tricks := by
        rw [device]
        exact List.mem_append_right _ List.mem_cons_self
      have done : a.1.waits = false ∧ a.1.fault = false ∧ w.done := by
        rcases ready with done | ⟨calm, reads⟩
        · exact done
        · have calm' : f.Calm := by rw [device]; exact calm
          have reads' : f.RowReads p tb m.row := by rw [device]; exact reads
          rw [reached, read]
          obtain ⟨first, rest⟩ := Dev.migrateRead_ready calm' reads' (trk.staged.drop ((f.io p).rowAtoms p tb 0 m.row d.trk.lce).1.dev.trk.staged.length) d.trk.lce
          exact ⟨first.1, first.2.1, rest⟩
      rw [← lce] at read header
      rw [← present] at staged
      obtain ⟨q, v, now, phase, status, free, member, er, row, kept⟩ := Dev.migrateRead_spec place same read header staged reached done.1 done.2.1 done.2.2 listed
      rw [work] at run
      exact ⟨_, q, _, run, now, phase, status, free, member, by rw [trick], rfl, by rw [trick], ⟨v, rfl, er.trans lce, row.trans (by rw [migration])⟩, kept⟩
  case checks =>
    have own : p.id = i := Dev.place_id here
    subst own
    have work := Dev.migrateCheck_ready found migrates log open_
    have run : exec (.migrateCommitCheck p.id) s = .next { s with dev := s.dev.migrateCheck p } := by
      refine congrArg Host.Outcome.next ?_
      rw [here]
      exact if_pos ⟨opcode, running⟩
    obtain ⟨logged, listed⟩ := s.dev.migrateCommit_spec k m
    refine ⟨fun quiet good => ⟨?_, logged, fun _ => listed⟩, fun quiet bad => ?_, fun conflict last => ?_⟩
    · rw [run, work, quiet, good]
      rfl
    · obtain ⟨tricks, staged, board, -⟩ := s.dev.dropMigration_spec k
      have now := Dev.place_upd_of (e := s.dev.dropMigration k) (·.fail .badDescriptor) board here fun _ => rfl
      have does : s.dev.migrateCheck p = (s.dev.dropMigration k).updPlace p.id (·.fail .badDescriptor) := by
        rw [work, quiet, bad]
        rfl
      rw [does] at run
      exact ⟨_, _, run, now, rfl, rfl, tricks, staged⟩
    · obtain ⟨q, now, spec⟩ := Dev.migrateConflict_last (k := k) here last
      have does : s.dev.migrateCheck p = s.dev.migrateConflict p k m := by
        rw [work, conflict]
        rfl
      rw [does] at run
      exact ⟨_, q, run, now, spec⟩
  case freed =>
    have run := exec_overlaySpaceFreed here running stall
    have own : p.id = i := Dev.place_id here
    subst own
    have migrate (mode : Nat) (c : Instr) (opcode : p.op.opcode = 0x35) (field : p.op.fld 1 2 1 = mode)
        (command : (c = .rowMigrateMove p.id ∧ mode = 0) ∨ (c = .rowMigrateReplicate p.id ∧ mode = 1) ∨ (c = .rowMigrateDropReplica p.id ∧ mode = 2)) :
        ∃ t, exec (.overlaySpaceFreed p.id) s = .next t ∧ exec c s = .next t := by
      refine ⟨_, run.trans ?_, exec_rowMigrate command (Dev.enters_running here (by simp [opcode, field]) fine covered running)⟩
      rw [opcode]
      rfl
    refine ⟨fun opcode => ?_, fun opcode field => migrate 0 _ opcode field (.inl ⟨rfl, rfl⟩),
      fun opcode field => migrate 1 _ opcode field (.inr (.inl ⟨rfl, rfl⟩)), fun opcode field => migrate 2 _ opcode field (.inr (.inr ⟨rfl, rfl⟩))⟩
    have enters : s.dev.enters p.id (·.opcode == 0x31) = some (s.dev, p) := Dev.enters_running here (by simp [opcode]) fine covered running
    refine ⟨_, run.trans ?_, exec_of_enters enters rfl⟩
    rw [opcode]
    rfl

end Sys2Proof.Machine
end

section
/-! SUPPORT. What gathers read (R178 to R190): the rows of a table that can be read are all read, each with the table's number of elements. -/

namespace Sys2Proof.Machine

/-! ## Charges leave memory -/

/-- `e` is `d` with charges, counts and lines changed: work that leaves memory. -/
def Dev.Counts (d e : Dev) : Prop := e.mem = d.mem ∧ d.WorkOnly e

theorem Dev.Counts.of {d e : Dev} (work : d.WorkOnly e) (mem : e.mem = d.mem) : d.Counts e := ⟨mem, work⟩

theorem Dev.Counts.trans {a b c : Dev} (h : a.Counts b) (g : b.Counts c) : a.Counts c := ⟨g.1.trans h.1, h.2.trans g.2⟩

theorem Dev.Counts.foldl {α : Type} {f : Dev → α → Dev} (step : ∀ d a, Dev.Counts d (f d a)) (l : List α) (d : Dev) : d.Counts (l.foldl f d) :=
  List.foldlRecOn (motive := fun e => d.Counts e) l _ (.of (.refl d) rfl) fun e h a _ => h.trans (step e a)

theorem Mio.Sound.counts {d : Dev} {m : Mio} (h : m.Sound d) {e : Dev} (counts : m.dev.Counts e) : Mio.Sound d { m with dev := e } :=
  h.setDev counts.1 counts.2

theorem Mio.counts_gatherCharge (m : Mio) (p : Place) (l : List Nat) : m.dev.Counts (m.gatherCharge p l).dev :=
  .of (m.work_gatherCharge p l) rfl

theorem Dev.counts_chargePartials (d : Dev) (p : Place) (g : List (List RowVal)) (b : Nat → Nat) : d.Counts (d.chargePartials p g b) := by
  unfold Dev.chargePartials
  refine Dev.Counts.foldl (fun d s => ?_) _ _
  dsimp only
  split
  · exact .of (.refl _) rfl
  · exact .of (.chargeRemote _ _ _ _) rfl

theorem Dev.counts_chargeResults (d : Dev) (p : Place) (t : TableRec) (x : Mat) (w : Bool) (s : List (List Nat)) : d.Counts (d.chargeResults p t x w s) :=
  Dev.Counts.foldl (fun _ _ => Dev.Counts.foldl (fun d _ => Dev.Counts.of (.shipResult d _ _ _ _) rfl) _ _) _ _

theorem Dev.counts_noteParity (d : Dev) (rows : List Nat) (p : Place) : d.Counts (rows.foldl (fun d _ => d.noteParity (slotStack p.slot) (some p.seat)) d) :=
  Dev.Counts.foldl (fun d _ => Dev.Counts.of (.noteParity d _ _) rfl) _ _

/-- The rows of a gather are counted and charged once they are read. -/
theorem Place.sound_gathered {d : Dev} {m : Mio} (h : m.Sound d) (p : Place) (t : TableRec) (n : Nat) (g : List (List RowVal)) (b : Nat → Nat) (hit : List Nat)
    (es : List (List OutElem)) (bad : List Bool) (f : Bool) (s : List (List Nat)) :
    (p.gathered t (({ m with dev := (m.dev.countRows p n).chargePartials p g b } : Mio).noteMismatch p hit) es bad f s).work.Sound d := by
  have first := h.counts (e := (m.dev.countRows p n).chargePartials p g b)
    ((Dev.Counts.of (.countRows m.dev p n) rfl).trans (Dev.counts_chargePartials _ _ _ _))
  have second := first.counts (Dev.counts_noteParity _ hit p)
  exact second.counts (Dev.counts_chargeResults _ _ _ _ _ _)

/-! ## Lengths of rows -/

theorem TableRec.length_decode {t : TableRec} (even : t.dimension % 2 = 0) (header bs : List Byte) : (t.decode header bs).length = t.dimension := by
  unfold TableRec.decode
  split
  · rw [List.length_map, List.length_range]
  · dsimp only
    rw [List.length_map]
    unfold TableRec.codes
    split
    · rw [List.length_map, length_slice]
    · rw [List.length_flatMap]
      simp only [List.length_cons, List.length_nil, List.map_const', List.sum_replicate, length_slice, smul_eq_mul]
      omega

theorem TableRec.length_ofSlot {t : TableRec} (even : t.dimension % 2 = 0) (bs header : List Byte) : (t.ofSlot bs header).length = t.dimension := by
  unfold TableRec.ofSlot
  split
  · exact TableRec.length_decode even _ _
  · split
    · exact TableRec.length_decode even _ _
    · exact TableRec.length_decode even _ _

/-- A row as it is passed on has the table's elements, or is poisoned. -/
def RowVal.Fits (t : TableRec) (v : RowVal) : Prop := v.poison = true ∨ v.vals.length = t.dimension

theorem Mio.readRow_fits (m : Mio) (p : Place) {t : TableRec} (even : t.dimension % 2 = 0) (w row eg c : Nat) : (m.readRow p t w row eg c).2.Fits t := by
  unfold Mio.readRow
  dsimp only
  split
  · exact .inl rfl
  · split
    · exact .inl rfl
    · split
      · exact .inr (TableRec.length_ofSlot even _ _)
      · exact .inr (TableRec.length_ofSlot even _ _)

theorem Mio.readDefault_fits (m : Mio) (p : Place) {t : TableRec} (even : t.dimension % 2 = 0) : (m.readDefault p t).2.Fits t := by
  unfold Mio.readDefault
  split
  · exact .inr List.length_replicate
  · dsimp only
    split
    · exact .inr (TableRec.length_decode even _ _)
    · exact .inr (TableRec.length_decode even _ _)

theorem Mio.readWindow_fits (m : Mio) (p : Place) {t : TableRec} (even : t.dimension % 2 = 0) (eg i : Nat) (w : List (Option Nat)) :
    ∀ v ∈ (m.readWindow p t eg i w).2, v.Fits t := by
  have read : ∀ e ∈ (w.eraseDups.foldl (fun (a : Mio × List (Option Nat × RowVal)) k =>
      if a.1.fault || a.1.waits then a
      else
        let q := match k with
          | some row => a.1.readRow p t i row eg (w.count k)
          | none => a.1.readDefault p t
        (q.1, a.2 ++ [(k, q.2)])) (m, [])).2, e.2.Fits t := by
    refine List.foldlRecOn (motive := fun a : Mio × List (Option Nat × RowVal) => ∀ e ∈ a.2, e.2.Fits t) _ _ (fun e h => by cases h) ?_
    intro a sofar k _
    split
    · exact sofar
    · intro e listed
      rcases List.mem_append.1 listed with before | new
      · exact sofar e before
      · rw [List.mem_singleton.1 new]
        cases k with
        | some row => exact a.1.readRow_fits p even _ _ _ _
        | none => exact a.1.readDefault_fits p even
  intro v listed
  obtain ⟨k, -, rfl⟩ := List.mem_map.1 listed
  dsimp only
  split
  · rename_i e found
    exact read e (List.mem_of_find?_eq_some found)
  · exact .inl rfl

theorem Mio.readRows_fits (m : Mio) (p : Place) {t : TableRec} (even : t.dimension % 2 = 0) (eg : Nat) (rows : List (Option Nat)) :
    ∀ v ∈ (m.readRows p t eg rows).2, v.Fits t := by
  unfold Mio.readRows
  refine List.foldlRecOn (motive := fun a : Mio × List RowVal => ∀ v ∈ a.2, v.Fits t) _ _ (fun v h => by cases h) ?_
  intro a sofar w _ v listed
  rcases List.mem_append.1 listed with before | new
  · exact sofar v before
  · exact a.1.readWindow_fits p even _ _ _ v new

/-! ## Rows read without waiting -/

theorem Dev.prefetching_work {d e : Dev} (work : d.WorkOnly e) (g : Agent) (table row : Nat) : e.prefetching g table row = d.prefetching g table row := by
  unfold Dev.prefetching
  rw [work.board]

theorem mem_piecesOf {α : Type} {n : Nat} {xs w : List α} (h : w ∈ piecesOf n xs) : ∀ x ∈ w, x ∈ xs := by
  obtain ⟨i, -, rfl⟩ := List.mem_map.1 h
  exact fun x member => List.mem_of_mem_drop (List.mem_of_mem_take member)

section
variable {d : Dev} {p : Place} {t : TableRec} (calm : d.Calm)
include calm

theorem Mio.Sound.readRow {m : Mio} (h : m.Sound d) {row : Nat} (reads : d.RowReads p t row) (landed : d.prefetching p.frontEnd t.table row = false)
    (w eg c : Nat) : (m.readRow p t w row eg c).1.Sound d := by
  obtain ⟨going, sound, -⟩ := h.done
  unfold Mio.readRow
  dsimp only
  rw [if_neg (by simp [going, sound]), Dev.prefetching_work h.smooth.work, landed, if_neg (by simp)]
  split
  · exact h.counts (Dev.Counts.foldl (fun d l => Dev.Counts.of (.hitLine d l _ _) (Dev.mem_hitLine d l _ _)) _ _)
  · have stale : m.dev.Counts (m.dev.dropStaleRow p t row eg) := by
      refine ⟨?_, .dropStaleRow _ _ _ _ _⟩
      unfold Dev.dropStaleRow
      dsimp only
      split <;> rfl
    have read := (h.counts stale).rowAtoms calm reads w eg
    exact read.counts (Mio.counts_gatherCharge _ _ _)

theorem Mio.Sound.readDefault {m : Mio} (h : m.Sound d)
    (admitted : t.defaultKind = 0 ∨ ∀ k, k < ceilDiv t.rowBytes 64 → d.Admitted p.ctxIx (64 * (t.defaultRow / 64 + k)) 64) :
    (m.readDefault p t).1.Sound d := by
  unfold Mio.readDefault
  split
  · exact h
  · rename_i stored
    have open_ := admitted.resolve_left stored
    have read : (m.tableAtoms p ((List.range (ceilDiv t.rowBytes 64)).map (t.defaultRow / 64 + ·))).1.Sound d := by
      refine h.trans (m.tableAtoms_smooth p _ (h.calm calm) h.done.1 h.done.2.1 fun a listed => ?_) (m.lasts_tableAtoms p _)
      obtain ⟨k, small, rfl⟩ := List.mem_map.1 listed
      exact h.smooth.admitted calm (open_ k (List.mem_range.1 small))
    exact read.counts (Mio.counts_gatherCharge _ _ _)

theorem Mio.Sound.readWindow {m : Mio} (h : m.Sound d) (reads : d.TableReads p t) (eg i : Nat) {w : List (Option Nat)}
    (valid : ∀ row, some row ∈ w → row < t.rows) : (m.readWindow p t eg i w).1.Sound d := by
  unfold Mio.readWindow
  dsimp only
  refine List.foldlRecOn (motive := fun a : Mio × List (Option Nat × RowVal) => a.1.Sound d) _ _ h fun a sofar k listed => ?_
  split
  · exact sofar
  · cases k with
    | none => exact sofar.readDefault calm reads.2
    | some row =>
      obtain ⟨landed, read⟩ := reads.1 row (valid row (List.mem_eraseDups.1 listed))
      exact sofar.readRow calm read landed _ _ _

theorem Mio.Sound.readRows {m : Mio} (h : m.Sound d) (reads : d.TableReads p t) (eg : Nat) {rows : List (Option Nat)}
    (valid : ∀ row, some row ∈ rows → row < t.rows) : (m.readRows p t eg rows).1.Sound d := by
  unfold Mio.readRows
  refine List.foldlRecOn (motive := fun a : Mio × List RowVal => a.1.Sound d) _ _ h fun a sofar w listed => ?_
  refine sofar.readWindow calm reads _ _ fun row member => valid row ?_
  exact mem_piecesOf (List.fst_mem_of_mem_zipIdx listed) _ member
end

theorem listRows_valid {t : TableRec} {width n row : Nat} {bs : List Byte} (h : some row ∈ listRows t width n bs) : row < t.rows := by
  obtain ⟨i, -, eq⟩ := List.mem_map.1 h
  dsimp only at eq
  split at eq
  · cases eq
  · rename_i valid
    cases eq
    omega

end Sys2Proof.Machine
end

section
/-! SUPPORT. The rows of a gather delivered (R188, R189), and the pin that it shows (R183). -/

namespace Sys2Proof.Machine

/-! ## The end of a gather -/

/-- The end of a gather but for its phase and POISONED, which a delivery sets itself. -/
def Place.gatherKeep (r : Gathered) (q : Place) : Place :=
  { q.gatherEnd r with phase := q.phase, flags := { (q.gatherEnd r).flags with poisoned := q.flags.poisoned } }

theorem Keeps.gatherKeep (r : Gathered) : Keeps (Place.gatherKeep r) := fun _ => ⟨rfl, rfl, rfl, rfl⟩

theorem Place.gatherEnd_keep {r : Gathered} {q : Place} (finished : q.phase = .finished) (shown : q.flags.poisoned = (q.flags.poisoned || r.mat.anyPoison)) :
    q.gatherEnd r = Place.gatherKeep r q := by
  have poisoned : (q.gatherEnd r).flags.poisoned = q.flags.poisoned := by
    show (q.flags.poisoned || false || r.mat.anyPoison) = q.flags.poisoned
    rw [Bool.or_false]
    exact shown.symm
  unfold Place.gatherKeep
  rw [← poisoned, finished]
  rfl

theorem Dev.deliver_congr {d : Dev} {p : Place} {m : Mio} {w : Nat} {x : Mat} {f g : Place → Place} (same : deliverEnd f x = deliverEnd g x) :
    d.deliver p m w x f = d.deliver p m w x g := by
  have form (f : Place → Place) : d.deliver p m w x f = match (p.op.ref w).kind with
      | 1 => d.conclude p m fun d => (d.updPlace p.id (deliverEnd f x)).produce p (x.tiles (p.op.ref w).addr p.op.seqBase 0)
      | 2 => d.conclude p m fun d => (d.padWriteOp p (p.op.ref w).addr (((List.range x.rows).map x.rowOut).flatMap (·.1))
          (((List.range x.rows).map x.rowOut).flatMap (·.2))).updPlace p.id (deliverEnd f x)
      | _ => d.conclude p (m.writeMat (d.agent p) (p.op.ref w) (rowBytes x.fmt x.cols) x) fun d => d.updPlace p.id (deliverEnd f x) := by
    unfold Dev.deliver deliverEnd
    rfl
  rw [form f, form g, same]

theorem Place.gatherEnd_deliver (r : Gathered) : deliverEnd (·.gatherEnd r) r.mat = deliverEnd (Place.gatherKeep r) r.mat := by
  funext q
  refine Place.gatherEnd_keep rfl ?_
  show (q.flags.poisoned || r.mat.anyPoison) = (q.flags.poisoned || r.mat.anyPoison || r.mat.anyPoison)
  rw [Bool.or_assoc, Bool.or_self]

theorem Place.gatherEnd_dflt (r : Gathered) (q : Place) : (q.gatherEnd r).flags.defaultRows = (q.flags.defaultRows || r.dflt) := by
  show (q.flags.defaultRows || false || r.dflt) = _
  rw [Bool.or_false]

/-- The rows of a gather are delivered: to its stream, or to memory, where they are written out before it retires (R188, R189). -/
theorem Dev.deliverRows_spec (e : Dev) {p q : Place} {g : Gathered} (here : g.work.dev.place p.id = some q) (status : q.status = p.status)
    (poisoned : q.flags.poisoned = p.flags.poisoned) (pads : (p.op.ref 1).kind ≠ 2) (ready : g.work.delivers (p.op.ref 1) (g.out p)) :
    ∃ r, Delivered g.work p 1 g.mat (g.out p) (e.deliverRows p g) r ∧ r.epoch = q.epoch ∧ r.flags.defaultRows = (q.flags.defaultRows || g.dflt) := by
  by_cases stream : (p.op.ref 1).kind = 1
  · have run : e.deliverRows p g = e.deliver p g.work 1 g.mat (Place.gatherKeep g) :=
      (if_pos stream).trans (Dev.deliver_congr (Place.gatherEnd_deliver g))
    obtain ⟨t, r, n, does, delivered, now⟩ := Dev.deliver_stream (d := e) (x := g.mat) here status poisoned ready.1 (Keeps.gatherKeep g) stream
    rw [run, does]
    have epoch : (deliverEnd (Place.gatherKeep g) g.mat (q.noted n)).epoch = q.epoch := by
      dsimp only [deliverEnd, Place.gatherKeep, Place.gatherEnd, Place.noteElems, Place.finish, Place.noted]
    have dflt : (deliverEnd (Place.gatherKeep g) g.mat (q.noted n)).flags.defaultRows = (q.flags.defaultRows || g.dflt) := Place.gatherEnd_dflt g _
    generalize deliverEnd (Place.gatherKeep g) g.mat (q.noted n) = a at now epoch dflt
    refine ⟨r, { delivered with mem := fun h => absurd stream h }, ?_, ?_⟩
    · exact (congrArg Place.epoch now).trans epoch
    · exact (congrArg (fun q : Place => q.flags.defaultRows) now).trans dflt
  · have done := ready.2 stream pads
    have work : g.work.dev.WorkOnly (g.out p).dev :=
      (g.work.work_writeMat p.frontEnd (p.op.ref 1) (rowBytes g.mat.fmt g.mat.cols) g.mat).trans (Mio.work_writeOut _ _ _ _)
    have run : e.deliverRows p g = ((g.out p).dev.updPlace p.id (Place.noted · (g.out p))).updPlace p.id (·.gatherEnd g) :=
      (if_neg stream).trans (Dev.conclude_noted e p _ done)
    have first := Dev.place_upd_again (Place.noted · (g.out p)) ((work.place p.id).trans here) fun _ => rfl
    have second := Dev.place_upd_again (·.gatherEnd g) first fun _ => rfl
    have keeps (f : Place → Place) (A : Dev) : (A.updPlace p.id f).mem = A.mem ∧ (A.updPlace p.id f).cache = A.cache := ⟨rfl, rfl⟩
    rw [run]
    refine ⟨_, ⟨second, rfl, status, ?_, fun h => absurd h stream, fun h => absurd h pads, fun _ _ => ⟨rfl, rfl⟩, work.rings, work.layout, work.trk,
      fun j other => ?_⟩, rfl, Place.gatherEnd_dflt g _⟩
    · show (q.flags.poisoned || false || g.mat.anyPoison) = _
      rw [Bool.or_false, poisoned]
    · exact ((Dev.updPlace_other' (·.gatherEnd g) (fun _ => rfl) other).trans (Dev.updPlace_other' (Place.noted · (g.out p)) (fun _ => rfl) other)).trans
        (work.place j)

/-! ## The pin -/

theorem Dev.gatherPin_spec {d : Dev} {p : Place} (here : d.place p.id = some p) :
    (d.gatherPin p).place p.id = some { p with epoch := some (((d.ring p.ring).pin).getD d.trk.lce) } ∧
    ((d.gatherPin p).ring p.ring).pin = some (((d.ring p.ring).pin).getD d.trk.lce) ∧ (∀ r, r ≠ p.ring → (d.gatherPin p).ring r = d.ring r) := by
  refine ⟨Dev.place_upd_of (e := d.updRing p.ring fun r => { r with pin := some (((d.ring p.ring).pin).getD d.trk.lce) })
    (fun q => { q with epoch := some (((d.ring p.ring).pin).getD d.trk.lce) }) rfl here fun _ => rfl, ?_, fun r other => ?_⟩
  · exact congrArg Ring.pin ((Dev.ring_updRing d p.ring p.ring fun r => { r with pin := some (((d.ring p.ring).pin).getD d.trk.lce) }).trans (if_pos rfl))
  · exact (Dev.ring_updRing d p.ring r fun r => { r with pin := some (((d.ring p.ring).pin).getD d.trk.lce) }).trans (if_neg other)

/-- The pin keeps what reads meet. -/
theorem Dev.gatherPin_prefetching (d : Dev) (p : Place) (g : Agent) (table row : Nat) :
    (d.gatherPin p).prefetching g table row = d.prefetching g table row := by
  have board : (d.gatherPin p).board = d.board.map fun q => if q.id = p.id then { q with epoch := some (((d.ring p.ring).pin).getD d.trk.lce) } else q := rfl
  unfold Dev.prefetching
  rw [board, List.any_map]
  refine congrArg (fun f : Place → Bool => d.board.any f) (funext fun q => ?_)
  dsimp only [Function.comp]
  split <;> rfl

theorem Dev.gatherPin_tableReads {d : Dev} {p q : Place} {t : TableRec} (reads : d.TableReads q t) : (d.gatherPin p).TableReads q t := by
  obtain ⟨rows, default⟩ := reads
  exact ⟨fun row small => ⟨(Dev.gatherPin_prefetching d p _ _ _).trans (rows row small).1, (rows row small).2⟩, default⟩

/-- Settles the clause of O44 about the delivery of a gather. -/
theorem Dev.gather_delivers {d e : Dev} {p : Place} {g : Gathered} (pin : e = d.gatherPin p) (here : d.place p.id = some p) (work : e.WorkOnly g.work.dev)
    (pads : (p.op.ref 1).kind ≠ 2) (ready : g.work.delivers (p.op.ref 1) (g.out p)) :
    ∃ q, Delivered g.work p 1 g.mat (g.out p) (e.deliverRows p g) q ∧ q.epoch = some (((d.ring p.ring).pin).getD d.trk.lce) ∧
      q.flags.defaultRows = (p.flags.defaultRows || g.dflt) ∧ ((e.deliverRows p g).ring p.ring).pin = some (((d.ring p.ring).pin).getD d.trk.lce) ∧
      (∀ r, r ≠ p.ring → (e.deliverRows p g).ring r = d.ring r) ∧ (e.deliverRows p g).trk = d.trk := by
  obtain ⟨now, pinned, others⟩ := Dev.gatherPin_spec here
  rw [← pin] at now pinned others
  have place : g.work.dev.place p.id = _ := (work.place p.id).trans now
  obtain ⟨q, delivered, epoch, dflt⟩ := e.deliverRows_spec (g := g) place rfl rfl pads ready
  have ring (r : Nat) : (e.deliverRows p g).ring r = e.ring r := by
    unfold Dev.ring
    rw [delivered.rings, work.rings]
  have trk : e.trk = d.trk := by rw [pin]; rfl
  exact ⟨q, delivered, epoch, dflt, by rw [ring, pinned], fun r other => (ring r).trans (others r other), (delivered.trk.trans work.trk).trans trk⟩

end Sys2Proof.Machine
end

section
/-! SUPPORT. Gathers whose table can be read finish (R178 to R190): their work meets nothing, their rows are whole, their destination takes them. -/

namespace Sys2Proof.Machine

/-! ## Rows of the result -/

/-- The rows of a gather's result are whole, and no more than `n`. -/
structure Gathered.Rows (g : Gathered) (p : Place) (t : TableRec) (n : Nat) : Prop where
  full : g.mat.Full
  fmt : g.mat.fmt = p.op.fld 2 7 1
  cols : g.mat.cols = t.dimension
  rows : g.mat.rows ≤ n

theorem Place.gathered_rows (p : Place) {t : TableRec} (m : Mio) {es : List (List OutElem)} (bad : List Bool) (f : Bool) (s : List (List Nat)) {n : Nat}
    (whole : ∀ y ∈ es, y.length = t.dimension) (count : es.length ≤ n) : (p.gathered t m es bad f s).Rows p t n := by
  refine ⟨fun r small => ?_, rfl, rfl, count⟩
  have small : r < es.length := small
  show ((es.map fun r => r.map (·.code)).getD r []).length = t.dimension
  rw [List.getD_eq_getElem _ _ (by rw [List.length_map]; exact small), List.getElem_map, List.length_map]
  exact whole _ (List.getElem_mem small)

/-- A row that is not marked bad came unpoisoned. -/
theorem mem_zip_bad {bad : List Bool} {vs : List RowVal} {hit : List Nat} {v : RowVal × Bool}
    (h : v ∈ vs.zip ((bad.zipWith (fun a (v : RowVal) => a || v.poison) vs).zipIdx.map fun b => b.1 || hit.contains b.2)) (good : v.2 = false) :
    v.1 ∈ vs ∧ v.1.poison = false := by
  obtain ⟨i, small, rfl⟩ := List.mem_iff_getElem.1 h
  rw [List.getElem_zip] at good ⊢
  simp only [List.getElem_map, List.getElem_zipIdx, List.getElem_zipWith, Bool.or_eq_false_iff] at good
  exact ⟨List.getElem_mem _, good.1.2⟩

theorem length_listPoison (w n : Nat) (po : List Bool) : (listPoison w n po).length = n := by
  rw [listPoison, List.length_map, List.length_range]

theorem length_bagsOf {α : Type} : ∀ (sizes : List Nat) (xs : List α), (bagsOf sizes xs).length = sizes.length
  | [], _ => rfl
  | n :: t, xs => congrArg (· + 1) (length_bagsOf t (xs.drop n))

theorem length_poolRow (pool fmt dim : Nat) (vs : List (RowVal × Num)) : (poolRow pool fmt dim vs).length = dim := by
  rw [poolRow, List.length_map, List.length_range]

theorem Dev.gatherResult_rows (d : Dev) (p : Place) (mm : List Nat) (even : (d.opTable p).dimension % 2 = 0) :
    (d.gatherResult p mm).Rows p (d.opTable p) (p.op.fld 2 0 4) := by
  unfold Dev.gatherResult
  dsimp only
  refine Place.gathered_rows p _ _ _ _ (fun y listed => ?_) ?_
  · obtain ⟨v, member, rfl⟩ := List.mem_map.1 listed
    split
    · exact List.length_replicate
    · rename_i good
      obtain ⟨read, sound⟩ := mem_zip_bad member (Bool.eq_false_iff.2 good)
      rw [List.length_map]
      exact (Mio.readRows_fits _ p even _ _ _ read).resolve_left (by simp [sound])
  · rw [List.length_map, List.length_zip, List.length_map, List.length_zipIdx, List.length_zipWith, length_listPoison]
    exact Nat.le_trans (Nat.min_le_right _ _) (Nat.min_le_left _ _)

theorem Dev.poolBags_rows (d : Dev) (p : Place) (t : TableRec) (m : Mio) (sizes mm : List Nat) : (d.poolBags p t m sizes mm).Rows p t sizes.length := by
  unfold Dev.poolBags
  dsimp only
  refine Place.gathered_rows p _ _ _ _ (fun y listed => ?_) ?_
  · obtain ⟨b, -, rfl⟩ := List.mem_map.1 listed
    split
    · exact List.length_replicate
    · exact length_poolRow _ _ _ _
  · rw [List.length_map, List.length_zip, length_bagsOf]
    exact Nat.min_le_left _ _

/-! ## The work of a gather meets nothing -/

theorem Mio.Sound.acquireRef {d : Dev} {m : Mio} (h : m.Sound d) (p : Place) (w off n : Nat) : (m.acquireRef p w off n).Sound d := by
  unfold Mio.acquireRef
  split
  · exact h.trans (m.acquire_smooth _ _ _) ((m.lasts_flush _).trans (.of rfl))
  · exact h

section
variable {d : Dev} {p : Place} (calm : d.Calm) (reads : d.TableReads p (d.opTable p)) (mm : List Nat)
include calm reads

theorem Dev.sound_gatherResult (feeds : d.Feeds p 0 0 (p.op.fld 2 0 4 * p.op.fld 2 6 1)) : (d.gatherResult p mm).work.Sound d := by
  have list := (d.io_sound p).readOperand p.frontEnd 0 0 (p.op.fld 2 0 4 * p.op.fld 2 6 1) rfl calm feeds
  unfold Dev.gatherResult
  dsimp only
  exact Place.sound_gathered (list.readRows calm reads _ fun row member => listRows_valid member) p _ _ _ _ _ _ _ _ _

theorem Dev.sound_poolBags {m : Mio} (h : m.Sound d) {sizes : List Nat} {total : Nat} (sum : total = sizes.foldl (· + ·) 0)
    (feeds : total = 0 ∨ d.Feeds p 0 0 (total * p.op.fld 2 6 1) ∧ (p.op.has p.payload 5 = true → d.Feeds p 5 0 (2 * total))) :
    (d.poolBags p (d.opTable p) m sizes mm).work.Sound d := by
  have acquired := (h.acquireRef p 0 0 (total * p.op.fld 2 6 1)).acquireRef p 5 0 (2 * total)
  have indices : (if total = 0 then (((m.acquireRef p 0 0 (total * p.op.fld 2 6 1)).acquireRef p 5 0 (2 * total)), (([], []) : List Byte × List Bool))
      else ((m.acquireRef p 0 0 (total * p.op.fld 2 6 1)).acquireRef p 5 0 (2 * total)).readOperand p.frontEnd p 0 0 (total * p.op.fld 2 6 1)).1.Sound d := by
    split
    · exact acquired
    · rename_i some_
      exact acquired.readOperand p.frontEnd 0 0 _ rfl calm (feeds.resolve_left some_).1
  unfold Dev.poolBags
  dsimp only
  rw [← sum]
  generalize (if total = 0 then (((m.acquireRef p 0 0 (total * p.op.fld 2 6 1)).acquireRef p 5 0 (2 * total)), (([], []) : List Byte × List Bool))
    else ((m.acquireRef p 0 0 (total * p.op.fld 2 6 1)).acquireRef p 5 0 (2 * total)).readOperand p.frontEnd p 0 0 (total * p.op.fld 2 6 1)) = ix at indices
  have weights : (if total = 0 ∨ p.op.has p.payload 5 = false then (ix.1, (([], []) : List Byte × List Bool))
      else ix.1.readOperand p.frontEnd p 5 0 (2 * total)).1.Sound d := by
    split
    · exact indices
    · rename_i some_
      obtain ⟨many, weighted⟩ := not_or.1 some_
      exact indices.readOperand p.frontEnd 5 0 _ rfl calm ((feeds.resolve_left many).2 ((Bool.not_eq_false _).mp weighted))
  exact Place.sound_gathered (weights.readRows calm reads _ fun row member => listRows_valid member) p _ _ _ _ _ _ _ _ _
end

/-! ## The rows reach their destination -/

theorem Mio.From.writeOut {d : Dev} {m : Mio} (h : m.From d) (calm : d.Calm) (x a n : Nat) : (m.writeOut x a n).From d := by
  have clear : m.dev.stuckLine (m.dev.rangeLines x a n) = none :=
    List.find?_eq_none.2 fun l _ => by simp [(h.calm calm).2 (64 * l.atom)]
  unfold Mio.writeOut
  rw [if_neg (by simp [h.done.1, h.done.2.1]), clear]
  exact h.smooth (m.flush_smooth _)

theorem Gathered.delivers {d : Dev} {p : Place} {g : Gathered} {t : TableRec} {n l : Nat} (h : g.work.From d) (rows : g.Rows p t n)
    (bytes : l = rowBytes (p.op.fld 2 7 1) t.dimension) (takes : d.Takes p 1 n l l) : g.work.delivers (p.op.ref 1) (g.out p) := by
  obtain ⟨full, fmt, cols, count⟩ := rows
  have width : rowBytes g.mat.fmt g.mat.cols = l := by rw [fmt, cols, bytes]
  refine ⟨h.done, fun stream pads => ?_⟩
  rcases takes with takes | takes | ⟨calm, takes⟩
  · exact absurd takes stream
  · exact absurd takes pads
  · have written : (g.work.writeMat p.frontEnd (p.op.ref 1) (rowBytes g.mat.fmt g.mat.cols) g.mat).From d :=
      h.written full width calm fun i small => by
        rw [width]
        exact takes i (Nat.lt_of_lt_of_le small count)
    exact (written.writeOut calm _ _ _).done

end Sys2Proof.Machine
end

section
/-! SUPPORT. The rows of O44: how GATHER_POOL, PREFETCH_ROWS and PREFETCH_LINE_LAND end (R179 to R202). -/

namespace Sys2Proof.Machine

/-! ## GATHER_POOL -/

section
variable {d e : Dev} {p : Place} {b : Mio × List Byte × List Bool} (mm : List Nat) (pin : e = d.gatherPin p)
  (bags : b = (e.io p).readOperand p.frontEnd p 4 0 (4 * p.op.fld 2 0 4)) (done : b.1.done)
include pin bags done

theorem Dev.workGatherPool_poisoned (bad : true ∈ b.2.2) : Dev.workGatherPool mm d p = e.deliverRows p (p.gathered (e.opTable p) b.1
    (List.replicate (p.op.fld 2 0 4) (zeroRow (e.opTable p).dimension)) (List.replicate (p.op.fld 2 0 4) true) false
    (List.replicate (p.op.fld 2 0 4) [])) := by
  subst bags pin
  obtain ⟨going, sound, whole⟩ := done
  unfold Dev.workGatherPool
  dsimp only
  exact (if_neg (by simp [going, sound, whole])).trans (if_pos (List.any_eq_true.2 ⟨true, bad, rfl⟩))

theorem Dev.workGatherPool_bags (good : true ∉ b.2.2) {sizes : List Nat} (named : sizes = (List.range (p.op.fld 2 0 4)).map fun k => field b.2.1 (4 * k) 4)
    (few : sizes.foldl (· + ·) 0 ≤ 16777216) : Dev.workGatherPool mm d p = e.deliverRows p (e.poolBags p (e.opTable p) b.1 sizes mm) := by
  subst named bags pin
  obtain ⟨going, sound, whole⟩ := done
  unfold Dev.workGatherPool
  dsimp only
  exact (if_neg (by simp [going, sound, whole])).trans ((if_neg (by simpa using good)).trans (if_neg (Nat.not_lt.2 few)))

theorem Dev.workGatherPool_many (good : true ∉ b.2.2)
    (many : 16777216 < ((List.range (p.op.fld 2 0 4)).map fun k => field b.2.1 (4 * k) 4).foldl (· + ·) 0) :
    Dev.workGatherPool mm d p = (b.1.dev.updPlace p.id (Place.noted · b.1)).updPlace p.id (·.fail .badDescriptor) := by
  subst bags pin
  obtain ⟨going, sound, whole⟩ := id done
  unfold Dev.workGatherPool
  dsimp only
  exact (if_neg (by simp [going, sound, whole])).trans ((if_neg (by simpa using good)).trans ((if_pos many).trans (Dev.conclude_noted _ p _ done)))
end

/-! ## PREFETCH_ROWS -/

theorem OpWord.asStream_addr (o : OpWord) : (o.asStream.ref 0).addr = (o.ref 0).addr := by
  show bitsAt (bitsAt (o.word 0) 0 50 + 2 ^ 50) 0 48 = bitsAt (o.word 0) 0 48
  unfold bitsAt
  rw [Nat.shiftRight_zero, Nat.shiftRight_zero]
  omega

/-- The place as which a PREFETCH_ROWS reads its list (R200). -/
def Place.listing (p : Place) : Place := if paysFor p.payload 0 then p else { p with op := p.op.asStream }

theorem Dev.Feeds.listing {d : Dev} {p : Place} {n : Nat} (h : d.Feeds p 0 0 n) : d.Feeds p.listing 0 0 n ∧ p.listing.ctxIx = p.ctxIx := by
  unfold Place.listing
  split
  · exact ⟨h, rfl⟩
  · rename_i unpaid
    refine ⟨.inr ?_, rfl⟩
    rcases h with ⟨y, pay, word, -⟩ | ⟨none_, reads⟩
    · exact absurd (by simp [paysFor, pay, word]) unpaid
    · refine ⟨none_, ?_⟩
      have addr : (({ p with op := p.op.asStream } : Place).op.ref 0).addr = (p.op.ref 0).addr := p.op.asStream_addr
      rw [addr]
      exact reads

theorem Dev.post_reg (d : Dev) (c : Charge) : ∃ r, d.post c = { d with reg := r } := ⟨_, rfl⟩

theorem Dev.posts_reg {α : Type} (f : Dev → α → Charge) : ∀ (l : List α) (d : Dev), ∃ r, l.foldl (fun d a => d.post (f d a)) d = { d with reg := r }
  | [], d => ⟨d.reg, rfl⟩
  | a :: l, d => by
    obtain ⟨r, first⟩ := d.post_reg (f d a)
    obtain ⟨r', rest⟩ := Dev.posts_reg f l (d.post (f d a))
    exact ⟨r', by rw [List.foldl_cons, rest, first]⟩

/-- The place of a PREFETCH_ROWS whose rows, by its named positions, are in flight (R199). -/
def fetchingPlace (named : List (Option Nat)) (po : List Bool) (q : Place) : Place :=
  { q.finish with prefetch := (named.filterMap id).eraseDups.map fun r => (r, (named.filterMap id).count r),
                  flags := q.flags.or { defaultRows := named.any Option.isNone, poisoned := po.any id } }

theorem Dev.workPrefetch_spec {d e : Dev} {p : Place} {x : Mio × List Byte × List Bool} {named : List (Option Nat)} (here : d.place p.id = some p)
    (pin : e = d.gatherPin p) (list : x = (e.io p).readOperand p.frontEnd p.listing 0 0 (p.op.fld 2 0 4 * p.op.fld 2 6 1)) (done : x.1.done)
    (names : named = ((listRows (e.opTable p) (p.op.fld 2 6 1) (p.op.fld 2 0 4) x.2.1).zip
      (listPoison (p.op.fld 2 6 1) (p.op.fld 2 0 4) x.2.2)).filterMap (fun r => if r.2 then none else some r.1)) :
    ∃ q, (d.workPrefetch p).place p.id = some q ∧ q.phase = .finished ∧ q.status = p.status ∧ q.epoch = some (((d.ring p.ring).pin).getD d.trk.lce) ∧
      q.prefetch = (named.filterMap id).eraseDups.map (fun r => (r, (named.filterMap id).count r)) ∧
      ((d.workPrefetch p).ring p.ring).pin = some (((d.ring p.ring).pin).getD d.trk.lce) ∧
      q.flags.defaultRows = (p.flags.defaultRows || named.any Option.isNone) ∧
      (d.workPrefetch p).cache = x.1.dev.cache ∧ (d.workPrefetch p).mem = x.1.dev.mem ∧ (d.workPrefetch p).trk = d.trk := by
  obtain ⟨now, pinned, -⟩ := Dev.gatherPin_spec here
  have work : e.WorkOnly x.1.dev := by
    rw [list]
    exact (Dev.work_io e p).trans (Mio.work_readOperand _ _ _ _ _ _)
  rw [← pin] at now pinned
  have trk : e.trk = d.trk := by rw [pin]; rfl
  let po := listPoison (p.op.fld 2 6 1) (p.op.fld 2 0 4) x.2.2
  let c : Dev := (x.1.dev.updPlace p.id (Place.noted · x.1)).updPlace p.id (fetchingPlace named po)
  obtain ⟨r, run⟩ : ∃ r, d.workPrefetch p = { c with reg := r } := by
    obtain ⟨r, posted⟩ := Dev.posts_reg (fun d r => d.prefetchCharge p r (d.rowAtomsOf p (e.opTable p) 0 r (((e.ring p.ring).pin).getD 0)))
      ((named.filterMap id).eraseDups.filter fun r => (c.prefetched p (e.opTable p) r (((e.ring p.ring).pin).getD 0)).isNone) c
    refine ⟨r, Eq.trans ?_ posted⟩
    subst names list pin
    unfold Dev.workPrefetch
    exact Dev.conclude_noted _ p _ done
  have first := Dev.place_upd_again (Place.noted · x.1) ((work.place p.id).trans now) fun _ => rfl
  have second := Dev.place_upd_again (fetchingPlace named po) first fun _ => rfl
  rw [run]
  refine ⟨_, second, rfl, rfl, rfl, rfl, ?_, rfl, rfl, rfl, work.trk.trans trk⟩
  show ((x.1.dev).ring p.ring).pin = _
  unfold Dev.ring
  rw [work.rings]
  exact pinned

/-! ## PREFETCH_LINE_LAND -/

theorem Dev.WorkOnly.landLine (d : Dev) (p : Place) (table atom : Nat) (x : List Byte × Bool) (h : Hint) : d.WorkOnly (d.landLine p table atom x h) := by
  have dropped := Dev.WorkOnly.dropLines d fun l => l.stack == p.frontEnd.stack && l.tag == tagOf p.frontEnd.ctx && l.atom == atom
  unfold Dev.landLine
  dsimp only
  refine Dev.WorkOnly.trans ?_ (.allocate _ _)
  split
  · exact dropped
  · exact dropped.trans (.allocKind _ _ _ _ _)

theorem Dev.allocKind_lines (d : Dev) (k t a : Nat) (h : Hint) : (d.allocKind k t a h).1.cache.lines = d.cache.lines := by
  unfold Dev.allocKind
  split <;> rfl

/-- A line of a row that lands stands in the cache, clean, with its table and epoch (R199, R201). -/
theorem Dev.landLine_line (d : Dev) {p : Place} (table atom : Nat) (x : List Byte × Bool) (h : Hint) (live : p.cancelled = false) :
    ∃ l, (d.landLine p table atom x h).cache.line p.frontEnd.stack (tagOf p.ctxIx) atom = some l ∧ l.data = x.1 ∧ l.poison = x.2 ∧ l.dirty = false ∧
      l.row = some (table, p.epoch.getD 0) := by
  let c := d.dropLines fun l => l.stack == p.frontEnd.stack && l.tag == tagOf p.ctxIx && l.atom == atom
  let q := c.allocKind p.frontEnd.stack (tagOf p.ctxIx) atom h
  let new : Line := ⟨p.frontEnd.stack, tagOf p.ctxIx, atom, x.1, false, x.2, q.2, 0, some (table, p.epoch.getD 0)⟩
  have run : d.landLine p table atom x h = q.1.allocate new := by
    have mark : p.rowMark table = (table, p.epoch.getD 0) := by
      unfold Place.rowMark
      rw [live]
      rfl
    unfold Dev.landLine
    dsimp only
    rw [live, mark]
    rfl
  have absent : q.1.cache.line p.frontEnd.stack (tagOf p.ctxIx) atom = none := by
    have lines : q.1.cache.lines = c.cache.lines := Dev.allocKind_lines _ _ _ _ _
    unfold Cache.line
    rw [lines]
    refine List.find?_eq_none.2 fun l listed => ?_
    rw [Bool.not_eq_true, ← Bool.not_eq_true']
    exact (List.mem_filter.1 listed).2
  obtain ⟨n, found⟩ := Dev.line_allocate_stamp (l := new) absent
  rw [run]
  exact ⟨_, found, rfl, rfl, rfl, rfl⟩

theorem Dev.landRow_lands {d : Dev} {p : Place} {row n : Nat} {rest : List (Nat × Nat)} {r : Mio × List (List Byte × Bool)} (live : p.cancelled = false)
    (flight : p.prefetch = (row, n) :: rest) (issued : d.reg.waits (.row p.id row) = false)
    (absent : d.prefetched p (d.opTable p) row (p.epoch.getD 0) = none) (read : r = ({ dev := d } : Mio).rowAtoms p (d.opTable p) 0 row (p.epoch.getD 0))
    (going : r.1.waits = false) (sound : r.1.fault = false) :
    d.landRow p = (((d.lineAtoms p (d.opTable p) row (p.epoch.getD 0)).zip r.2).foldl
      (fun e x => e.landLine p (d.opTable p).table x.1 x.2 (p.op.prefetchHint p.payload n))
      ((r.1.dev.meterPrefetch p (d.rowAtomsOf p (d.opTable p) 0 row (p.epoch.getD 0))).updPlace p.id (Place.noted · r.1))).updPlace p.id
        fun q => { q with prefetch := q.prefetch.filter (·.1 != row), stall := .none } := by
  have first : (p.prefetch.find? fun e => !d.reg.waits (.row p.id e.1)) = some (row, n) := by
    rw [flight]
    exact List.find?_cons_of_pos (by simp [issued])
  unfold Dev.landRow
  rw [first]
  dsimp only
  rw [← read]
  refine (if_neg (by simp [absent])).trans ((if_neg (by simp [going])).trans ((if_neg (by simp [sound])).trans ?_))
  unfold Dev.rowLanded
  rw [live]
  rfl

/-- Settles the clause of O44 about PREFETCH_LINE_LAND. -/
theorem Dev.landRow_spec {d : Dev} {p : Place} {row n : Nat} {rest : List (Nat × Nat)} {r : Mio × List (List Byte × Bool)} (here : d.place p.id = some p)
    (ended : p.phase = .finished) (live : p.cancelled = false) (flight : p.prefetch = (row, n) :: rest) (issued : d.reg.waits (.row p.id row) = false)
    (absent : d.prefetched p (d.opTable p) row (p.epoch.getD 0) = none) (read : r = ({ dev := d } : Mio).rowAtoms p (d.opTable p) 0 row (p.epoch.getD 0))
    (going : r.1.waits = false) (sound : r.1.fault = false) :
    ∃ q, (d.landRow p).place p.id = some q ∧ q.phase = .finished ∧ q.status = p.status ∧ q.prefetch = p.prefetch.filter (·.1 != row) ∧
      (d.landRow p).rings = d.rings ∧ (d.landRow p).trk = d.trk ∧
      (∀ x a, r.2 = [x] → d.lineAtoms p (d.opTable p) row (p.epoch.getD 0) = [a] →
        ∃ l, (d.landRow p).cache.line p.frontEnd.stack (tagOf p.ctxIx) a = some l ∧ l.data = x.1 ∧ l.poison = x.2 ∧ l.dirty = false ∧
          l.row = some ((d.opTable p).table, p.epoch.getD 0)) := by
  have work : d.WorkOnly r.1.dev := by
    rw [read]
    exact ({ dev := d } : Mio).work_rowAtoms _ _ _ _ _
  rw [Dev.landRow_lands live flight issued absent read going sound]
  have metered : r.1.dev.WorkOnly (r.1.dev.meterPrefetch p (d.rowAtomsOf p (d.opTable p) 0 row (p.epoch.getD 0))) :=
    (Dev.WorkOnly.meter _ _ _ fun _ => ⟨_, _, _, _, rfl⟩).trans (.countBytes _ _ _)
  have before := work.trans metered
  generalize r.1.dev.meterPrefetch p (d.rowAtomsOf p (d.opTable p) 0 row (p.epoch.getD 0)) = c at before
  have first := Dev.place_upd_again (Place.noted · r.1) ((before.place p.id).trans here) fun _ => rfl
  have lands : ∀ (l : List (Nat × List Byte × Bool)) (e : Dev), e.WorkOnly
      (l.foldl (fun e x => e.landLine p (d.opTable p).table x.1 x.2 (p.op.prefetchHint p.payload n)) e) :=
    fun l e => Dev.WorkOnly.foldl (fun e x => .landLine e _ _ _ _ _) l e
  have after := lands ((d.lineAtoms p (d.opTable p) row (p.epoch.getD 0)).zip r.2) (c.updPlace p.id (Place.noted · r.1))
  have line (x : List Byte × Bool) (a : Nat) (one : r.2 = [x]) (atom : d.lineAtoms p (d.opTable p) row (p.epoch.getD 0) = [a]) :=
    (c.updPlace p.id (Place.noted · r.1)).landLine_line (d.opTable p).table a x (p.op.prefetchHint p.payload n) live
  have second := Dev.place_upd_again (fun q : Place => { q with prefetch := q.prefetch.filter (·.1 != row), stall := .none })
    ((after.place p.id).trans first) fun _ => rfl
  have rings : (c.updPlace p.id (Place.noted · r.1)).rings = d.rings := before.rings
  have trk : (c.updPlace p.id (Place.noted · r.1)).trk = d.trk := before.trk
  refine ⟨_, second, ended, rfl, rfl, after.rings.trans rings, after.trk.trans trk, fun x a one atom => ?_⟩
  obtain ⟨l, found, spec⟩ := line x a one atom
  rw [one, atom]
  exact ⟨l, found, spec⟩

/-- Settles the clause of O44 about gathers whose operands and table can be read. -/
theorem gather_finishes {s : State} {i n w l total : Nat} {mm : List Nat} {d : Dev} {p : Place} {t : TableRec} {b : List Byte} (table : t = d.opTable p)
    (count : n = p.op.fld 2 0 4) (width : w = p.op.fld 2 6 1) (bytes : l = rowBytes (p.op.fld 2 7 1) t.dimension) (even : t.dimension % 2 = 0) (calm : d.Calm)
    (reads : d.TableReads p t) (here : d.place p.id = some p) (own : p.id = i) (pads : (p.op.ref 1).kind ≠ 2) (takes : d.Takes p 1 n l l) :
    (s.dev.enters i (·.opcode == 0x20) = some (d, p) → d.Feeds p 0 0 (n * w) →
      ∃ u q, exec (.gather ⟨i, mm⟩) s = .next u ∧ u.dev.place i = some q ∧ q.phase = .finished ∧ q.status = p.status) ∧
    (s.dev.enters i (·.opcode == 0x21) = some (d, p) → d.Feeds p 4 0 (4 * n) →
      b = (((d.gatherPin p).io p).readOperand p.frontEnd p 4 0 (4 * n)).2.1 →
      total = ((List.range n).map (fun k => field b (4 * k) 4)).foldl (· + ·) 0 → total ≤ 16777216 →
      (total = 0 ∨ d.Feeds p 0 0 (total * w) ∧ (p.op.has p.payload 5 = true → d.Feeds p 5 0 (2 * total))) →
      ∃ u q, exec (.gatherPool ⟨i, mm⟩) s = .next u ∧ u.dev.place i = some q ∧ q.phase = .finished ∧ q.status = p.status) := by
  subst own count width
  obtain ⟨e, pin⟩ : ∃ e, e = d.gatherPin p := ⟨_, rfl⟩
  rw [← pin]
  have same : e.opTable p = t := by rw [pin, table]; rfl
  have calm' : e.Calm := by rw [pin]; exact calm
  have reads' : e.TableReads p (e.opTable p) := by
    rw [same, pin]
    exact Dev.gatherPin_tableReads reads
  have takes' : e.Takes p 1 (p.op.fld 2 0 4) l l := by rw [pin]; exact takes
  have feeds' {w n : Nat} (h : d.Feeds p w 0 n) : e.Feeds p w 0 n := by rw [pin]; exact h
  have ends (g : Gathered) (sound : g.work.Sound e) (rows : g.Rows p t (p.op.fld 2 0 4)) : ∃ q,
      (e.deliverRows p g).place p.id = some q ∧ q.phase = .finished ∧ q.status = p.status := by
    obtain ⟨q, delivered, -⟩ := Dev.gather_delivers pin here sound.smooth.work pads (Gathered.delivers sound.from rows bytes takes')
    exact ⟨q, delivered.place, delivered.finished, delivered.status⟩
  refine ⟨fun enters feeds => ?_, fun enters feeds bytes4 sum few lists => ?_⟩
  · have rows := e.gatherResult_rows p mm (by rw [same]; exact even)
    rw [same] at rows
    obtain ⟨q, spec⟩ := ends _ (Dev.sound_gatherResult calm' reads' mm (feeds' feeds)) rows
    have work : Dev.workGather mm d p = e.deliverRows p (e.gatherResult p mm) := by rw [pin]; rfl
    exact ⟨_, q, exec_of_enters enters work, spec⟩
  · have bags := (e.io_sound p).readOperand p.frontEnd 4 0 (4 * p.op.fld 2 0 4) rfl calm' (feeds' feeds)
    by_cases bad : true ∈ ((e.io p).readOperand p.frontEnd p 4 0 (4 * p.op.fld 2 0 4)).2.2
    · have work := Dev.workGatherPool_poisoned mm pin rfl bags.done bad
      have rows := p.gathered_rows (t := e.opTable p) ((e.io p).readOperand p.frontEnd p 4 0 (4 * p.op.fld 2 0 4)).1
        (es := List.replicate (p.op.fld 2 0 4) (zeroRow (e.opTable p).dimension)) (List.replicate (p.op.fld 2 0 4) true) false
        (List.replicate (p.op.fld 2 0 4) []) (n := p.op.fld 2 0 4)
        (fun y listed => by rw [List.eq_of_mem_replicate listed]; exact List.length_replicate) (Nat.le_of_eq List.length_replicate)
      rw [same] at rows work
      obtain ⟨q, spec⟩ := ends _ (bags.counts (Dev.counts_chargeResults _ _ _ _ _ _)) rows
      exact ⟨_, q, exec_of_enters enters work, spec⟩
    · have work := Dev.workGatherPool_bags mm pin rfl bags.done bad rfl (by rw [← bytes4, ← sum]; exact few)
      have rows := e.poolBags_rows p (e.opTable p)
        ((e.io p).readOperand p.frontEnd p 4 0 (4 * p.op.fld 2 0 4)).1
        ((List.range (p.op.fld 2 0 4)).map fun k => field ((e.io p).readOperand p.frontEnd p 4 0 (4 * p.op.fld 2 0 4)).2.1 (4 * k) 4) mm
      rw [List.length_map, List.length_range] at rows
      have sound := Dev.sound_poolBags calm' reads' mm bags (sizes := (List.range (p.op.fld 2 0 4)).map fun k =>
          field ((e.io p).readOperand p.frontEnd p 4 0 (4 * p.op.fld 2 0 4)).2.1 (4 * k) 4) (by rw [← bytes4]; exact sum)
        (lists.imp_right fun h => ⟨feeds' h.1, fun weighted => feeds' (h.2 weighted)⟩)
      rw [same] at rows work sound
      obtain ⟨q, spec⟩ := ends _ sound rows
      exact ⟨_, q, exec_of_enters enters work, spec⟩

/-- Settles O44. -/
theorem gathers : Obligations.Gathers := by
  unfold Obligations.Gathers
  refine ⟨fun s i ep mm c d e p g pin epoch here own pads command ready => ?delivers,
    fun s i n w l total mm d p t b table count width bytes even calm reads here own pads takes =>
      gather_finishes table count width bytes even calm reads here own pads takes,
    fun s i mm d e p b enters pin bags done good many => ?many, fun t w n k bs small => ?list, fun m p t kind => if_pos kind, fun pool fmt dim format => ?empty,
    fun f vs nan => ?nan, fun s i ep d e p x named enters pin epoch list ready names => ?prefetch,
    fun s i row n ep rest p tb r here opcode ended live flight issued table epoch absent read ready => ?lands⟩
  case delivers =>
    subst own epoch
    have work : e.WorkOnly g.work.dev := by
      rcases command with ⟨-, -, rfl⟩ | ⟨-, -, b, sizes, n, -, bags, -, -, ⟨-, rfl⟩ | ⟨-, -, rfl⟩⟩
      · exact e.work_gatherResult p mm
      · have first : e.WorkOnly b.1.dev := by
          rw [bags]
          exact (e.work_io p).trans (Mio.work_readOperand _ _ _ _ _ _)
        exact first.trans (Place.work_gathered _ _ _ _ _ _ _)
      · have first : e.WorkOnly b.1.dev := by
          rw [bags]
          exact (e.work_io p).trans (Mio.work_readOperand _ _ _ _ _ _)
        exact first.trans (e.work_poolBags _ _ _ _ _)
    obtain ⟨q, spec⟩ := Dev.gather_delivers pin here work pads ready
    have run : exec c s = .next { s with dev := e.deliverRows p g } := by
      rcases command with ⟨rfl, enters, rfl⟩ | ⟨rfl, enters, b, sizes, n, rfl, bags, done, named, ⟨bad, rfl⟩ | ⟨good, few, rfl⟩⟩
      · exact exec_of_enters enters (by rw [pin]; rfl)
      · exact exec_of_enters enters (Dev.workGatherPool_poisoned mm pin bags done bad)
      · exact exec_of_enters enters (Dev.workGatherPool_bags mm pin bags done good named few)
    exact ⟨work, _, q, run, spec⟩
  case many =>
    obtain ⟨here, rfl⟩ := Dev.enters_place enters
    have work : e.WorkOnly b.1.dev := by
      rw [bags]
      exact (e.work_io p).trans (Mio.work_readOperand _ _ _ _ _ _)
    obtain ⟨now, -⟩ := Dev.gatherPin_spec here
    rw [← pin] at now
    have first := Dev.place_upd_again (Place.noted · b.1) ((work.place p.id).trans now) fun _ => rfl
    have second := Dev.place_upd_again (·.fail .badDescriptor) first fun _ => rfl
    have routes : e.routes = d.routes := by rw [pin]; rfl
    have cores : e.cores = d.cores := by rw [pin]; rfl
    exact ⟨_, _, exec_of_enters enters (Dev.workGatherPool_many mm pin bags done good many), second, rfl, rfl, work.routes.trans routes, work.cores.trans cores⟩
  case list =>
    rw [listRows, List.getElem?_map, List.getElem?_range small]
    rfl
  case empty =>
    have none_ (j : Nat) : poolElement pool fmt (([] : List (RowVal × Num)).map fun v => (v.1.vals.getD j .zero, v.2)) = {} := by
      unfold poolElement
      split
      · rfl
      · split <;> rfl
    unfold poolRow
    rw [List.map_congr_left fun j _ => none_ j, List.map_const', List.length_range]
  case nan =>
    cases vs with
    | nil => obtain ⟨v, listed, -⟩ := nan; cases listed
    | cons v t =>
      obtain ⟨u, listed, is⟩ := nan
      exact if_pos (List.any_eq_true.2 ⟨u, listed, is⟩)
  case prefetch =>
    obtain ⟨here, rfl⟩ := Dev.enters_place enters
    have done : x.1.done := by
      rcases ready with done | ⟨calm, feeds⟩
      · exact done
      · have calm' : e.Calm := by rw [pin]; exact calm
        have feeds' : e.Feeds p 0 0 (p.op.fld 2 0 4 * p.op.fld 2 6 1) := by rw [pin]; exact feeds
        obtain ⟨listing, ctx⟩ := feeds'.listing
        rw [list]
        exact ((e.io_sound p).readOperand p.frontEnd 0 0 _ ctx.symm calm' listing).done
    obtain ⟨q, now, spec⟩ := Dev.workPrefetch_spec here pin list done names
    rw [← epoch] at spec
    exact ⟨_, q, exec_of_enters enters rfl, now, spec⟩
  case lands =>
    obtain rfl : p.id = i := Dev.place_id here
    subst table epoch
    have done : r.1.waits = false ∧ r.1.fault = false := by
      rcases ready with done | ⟨calm, reads⟩
      · exact done
      · have start : Mio.Sound s.dev { dev := s.dev } := ⟨.refl _, .of rfl⟩
        have sound := start.rowAtoms calm reads 0 (p.epoch.getD 0)
        rw [read]
        exact ⟨sound.done.1, sound.done.2.1⟩
    obtain ⟨q, now, spec⟩ := Dev.landRow_spec here ended live flight issued absent read done.1 done.2
    have run : exec (.prefetchLineLand p.id) s = .next { s with dev := s.dev.landRow p } := by
      refine congrArg Host.Outcome.next ?_
      rw [here]
      exact if_pos ⟨opcode, ended⟩
    exact ⟨_, q, run, now, spec⟩

end Sys2Proof.Machine
end

section
/-! SUPPORT. Core operations: their commands, their factors and accumulators, and their combine buffers (08, R288 to R291). -/

namespace Sys2Proof.Machine

/-! ## Commands -/

/-- The work of the core operation in a place, by its opcode. -/
def Dev.coreWork (d : Dev) (p : Place) : Dev :=
  match p.op.opcode with
  | 0x40 | 0x41 => d.workMatmul p
  | 0x48 => d.workVector p
  | 0x49 => d.workReduce p
  | 0x4A => d.workQuantize p
  | 0x4B => d.workDequantize p
  | _ => d.workSummary p

/-- Work on a place whose tiles have come runs at once. -/
theorem Dev.whenFed_ready {p : Place} (fed : p.inputsReady = true) (f : Dev → Place → Dev) (d : Dev) : Dev.whenFed f d p = f d p := if_pos fed

/-- A product that its combine buffers do not hold back runs (R291). -/
theorem Dev.whenCombined_runs {d : Dev} {p : Place} (combines : d.Combines p) (f : Dev → Place → Dev) : Dev.whenCombined f d p = f d p := by
  unfold Dev.whenCombined
  rcases combines with freed | ⟨unheld, room⟩
  · exact if_pos freed
  · simp [unheld, room]

theorem exec_fed {s : State} {i : Nat} {sel : OpWord → Bool} {d : Dev} {p : Place} (enters : s.dev.enters i sel = some (d, p))
    (fed : p.inputsReady = true) (f : Dev → Place → Dev) :
    Host.Outcome.next ({ s with dev := s.dev.runOp i sel (Dev.whenFed f) } : State) =
      (Host.Outcome.next { s with dev := f d p } : Host.Outcome State Fault Refusal) :=
  exec_of_enters enters (Dev.whenFed_ready fed f d)

/-- The command of a core operation that works stands for its work on the device that it enters. -/
theorem State.Enters.runs {s : State} {c : Instr} {d : Dev} {p : Place} (enters : s.Enters c d p) :
    d.place p.id = some p ∧ exec c s = .next { s with dev := d.coreWork p } := by
  obtain ⟨fed, ⟨⟨rfl, enters⟩ | ⟨rfl, enters⟩, combines⟩ | ⟨rfl, enters⟩ | ⟨rfl, enters⟩ | ⟨rfl, enters⟩ | ⟨rfl, enters⟩ | ⟨rfl, enters⟩⟩ := enters
  all_goals
    have op := beq_iff_eq.1 (Dev.enters_sel enters).1
    refine ⟨(Dev.enters_place enters).1, (exec_fed enters fed _).trans (congrArg (fun e : Dev => (Host.Outcome.next { s with dev := e } :
      Host.Outcome State Fault Refusal)) ?_)⟩
    unfold Dev.coreWork; rw [op]
  · exact Dev.whenCombined_runs combines _
  · exact Dev.whenCombined_runs combines _
  all_goals rfl

/-! ## Results -/

theorem Keeps.noteElems (es : List (List OutElem)) {f : Place → Place} (keeps : Keeps f) : Keeps fun q => f (q.noteElems es) := by
  intro q
  obtain ⟨id, phase, status, poisoned⟩ := keeps (q.noteElems es)
  exact ⟨id, phase, status, poisoned.trans (by simp [Place.noteElems, Flags.or, flagsOf])⟩

/-- The matrix of result elements has the size asked for, and every row is full. -/
theorem Dev.elemsOut_size (d : Dev) (p : Place) (rows cols fmt : Nat) (po : Nat → Nat → Bool) (f : Nat → Nat → OutElem) :
    (d.elemsOut p rows cols fmt po f).2.rows = rows ∧ (d.elemsOut p rows cols fmt po f).2.cols = cols ∧
      (d.elemsOut p rows cols fmt po f).2.fmt = fmt ∧ (d.elemsOut p rows cols fmt po f).2.Full := by
  refine ⟨?_, rfl, rfl, fun r hr => ?_⟩
  · simp [Dev.elemsOut, Mat.ofElems, elemsOf]
  · have bound : r < rows := by simpa [Dev.elemsOut, Mat.ofElems, elemsOf] using hr
    simp [Dev.elemsOut, Mat.ofElems, elemsOf, bound]

/-- A result element carries its code, and the poison of its row and column block (R294). -/
theorem Dev.elemsOut_at {d : Dev} {p : Place} {rows cols fmt : Nat} {po : Nat → Nat → Bool} {f : Nat → Nat → OutElem} {r c : Nat} (hr : r < rows)
    (hc : c < cols) (sound : p.failed = []) :
    (d.elemsOut p rows cols fmt po f).2.code r c = (if po r (c / 64) then 0 else (f r c).code) ∧
      (d.elemsOut p rows cols fmt po f).2.poisonAt r (c / 64) = po r (c / 64) := by
  have clean : d.failedOf p rows cols = [] := by simp [Dev.failedOf, sound]
  have block : c / 64 < ceilDiv cols 64 := by unfold ceilDiv; omega
  constructor
  · simp [Dev.elemsOut, Mat.ofElems, Mat.code, elemsOf, clean, hitsFailed, hr, hc]
    split <;> rfl
  · simp [Dev.elemsOut, Mat.ofElems, Mat.poisonAt, poisonRows, clean, hitsFailed, hr, block]

/-- A place that took a result's flags and first offender shows them. -/
theorem Place.shows_deliverEnd {p q : Place} {es : List (List OutElem)} {x : Mat} {n : Mio}
    (eq : q = { deliverEnd (fun q => q.noteElems es) x (p.noted n) with unsent := q.unsent, stall := q.stall, excursions := q.excursions }) : p.Shows q es := by
  rw [eq]; exact ⟨rfl, rfl, rfl, rfl⟩

/-- Result elements that can reach their destination are delivered, and the place shows them. -/
theorem Dev.elems_delivered {d : Dev} {p : Place} {m : Mio} {x : List (List OutElem) × Mat} (here : m.dev.place p.id = some p)
    (delivers : m.delivers (p.op.ref 2) (m.written d p 2 x.2)) :
    ∃ e q, d.deliver p m 2 x.2 (fun q => q.noteElems x.1) = e ∧ Delivered m p 2 x.2 (m.written d p 2 x.2) e q ∧ p.Shows q x.1 := by
  obtain ⟨e, q, n, run, delivered, eq⟩ := Dev.deliver_done (f := fun q => q.noteElems x.1) here rfl rfl delivers (Keeps.id.noteElems x.1)
  exact ⟨e, q, run, delivered, Place.shows_deliverEnd eq⟩

/-- A full result of the size of operand `w` reaches a destination that accepts it. -/
theorem Mio.From.accepted {d : Dev} {m : Mio} (going : m.From d) {p : Place} {w : Nat} {x : Mat} (full : x.Full)
    (size : (x.rows, x.cols, x.fmt) = p.op.shape w) (accepts : d.Accepts p w) : m.delivers (p.op.ref w) (m.written d p w x) := by
  refine going.delivers full ?_
  unfold Dev.Accepts at accepts
  rwa [← size] at accepts

/-! ## Sources -/

/-- Rows read one after another give a matrix of that many rows. -/
theorem Mio.readMat_size (m : Mio) (g : Agent) (p : Place) (w stride rows cols fmt : Nat) :
    (m.readMat g p w stride rows cols fmt).2.rows = rows ∧ (m.readMat g p w stride rows cols fmt).2.cols = cols ∧
      (m.readMat g p w stride rows cols fmt).2.fmt = fmt := by
  have count : ∀ (l : List Nat) (a : Mio × List (List Byte × List Bool)), (l.foldl (fun (a : Mio × List (List Byte × List Bool)) i =>
      ((a.1.readOperand g p w (i * stride) (rowBytes fmt cols)).1, a.2 ++ [(a.1.readOperand g p w (i * stride) (rowBytes fmt cols)).2])) a).2.length =
        a.2.length + l.length := by
    intro l
    induction l with
    | nil => intro a; rfl
    | cons i l ih => intro a; rw [List.foldl_cons, ih]; simp; omega
  refine ⟨?_, rfl, rfl⟩
  exact (count (List.range rows) (m, [])).trans (by simp)

/-- A source operand has the size that its operation gives. -/
theorem Mio.source_size (m : Mio) (g : Agent) (p : Place) (w : Nat) (k : Nat → Nat → Nat) :
    ((m.source g p w k).2.rows, (m.source g p w k).2.cols, (m.source g p w k).2.fmt) = p.op.shape w := by
  unfold Mio.source
  dsimp only
  split
  · rfl
  · split
    · rfl
    · obtain ⟨rows, cols, fmt⟩ := m.readMat_size g p w (rowBytes (p.op.shape w).2.2 (p.op.shape w).2.1) (p.op.shape w).1 (p.op.shape w).2.1 (p.op.shape w).2.2
      rw [rows, cols, fmt]

/-- B of a GEMV is read from memory once for every output row; nothing stops the work if it can be read (R297). -/
theorem Mio.From.readB {d : Dev} {m : Mio} (going : m.From d) {g : Agent} {p : Place} (ctx : g.ctx = p.ctxIx) (feeds : d.Supplies p 1) :
    (m.readB g p).1.From d := by
  unfold Mio.readB
  dsimp only
  split
  · refine iter_from (fun m going => ?_) _ _ (going.sourceBy ctx feeds)
    split
    · exact going
    · exact going.sourceBy ctx feeds
  · exact going.sourceBy ctx feeds

theorem Mio.work_readB (m : Mio) (g : Agent) (p : Place) : m.dev.WorkOnly (m.readB g p).1.dev := by
  unfold Mio.readB
  dsimp only
  split
  · have again : ∀ (n : Nat) (k : Mio), m.dev.WorkOnly k.dev →
        m.dev.WorkOnly (iter (fun m => if m.waits || m.fault then m else (m.sourceBy g p 1).1) n k).dev := by
      intro n
      induction n with
      | zero => exact fun k work => work
      | succ n ih =>
        refine fun k work => ih _ ?_
        dsimp only
        by_cases stopped : (k.waits || k.fault) = true
        · rwa [if_pos stopped]
        · rw [if_neg stopped]; exact work.trans (k.work_sourceBy g p 1)
    exact again _ _ (m.work_sourceBy g p 1)
  · exact m.work_sourceBy g p 1

theorem Dev.readFactors_work (d : Dev) (p : Place) : d.WorkOnly (d.readFactors p).1.dev :=
  ((d.work_io p).trans ((d.io p).work_sourceBy (d.agent p) p 0)).trans (Mio.work_readB _ _ _)

theorem Dev.readFactors_from {d : Dev} {p : Place} (a : d.Supplies p 0) (b : d.Supplies p 1) : (d.readFactors p).1.From d :=
  ((d.io_from p).sourceBy rfl a).readB rfl b

/-- The first pass reads B as stored (R322). -/
theorem Dev.readFactors_bf (d : Dev) (p : Place) : (d.readFactors p).2.bf = false := rfl

/-! ## Accumulators -/

/-- Core number `c.2` of an operation, the core `c.1`, takes the parts of its last unit. -/
def Dev.setUnit (d : Dev) (p : Place) (f : Factors) (e : Dev) (c : Nat × Nat) : Dev :=
  match (d.unitsOf p c.2).getLast? with
  | some u => e.updCore c.1 fun k => k.setParts (p.op.fld 4 7 1 == 1) (d.unitParts p f u)
  | none => e

theorem Dev.setParts_cores (d : Dev) (p : Place) (f : Factors) :
    d.setParts p f = if p.op.opcode = 0x41 ∧ (p.op.fld 4 7 1 == 1) = false then d else (d.opCores p).zipIdx.foldl (d.setUnit p f) d := rfl

/-- Accumulators are written, and nothing but cores. -/
theorem Dev.setUnits_coresOnly (d : Dev) (p : Place) (f : Factors) : ∀ (l : List (Nat × Nat)) (e : Dev), ∃ c, l.foldl (d.setUnit p f) e = { e with cores := c }
  | [], e => ⟨_, rfl⟩
  | x :: l, e => by
    obtain ⟨c, rest⟩ := d.setUnits_coresOnly p f l (d.setUnit p f e x)
    refine ⟨c, rest.trans ?_⟩
    unfold Dev.setUnit
    split <;> rfl

theorem Dev.setParts_coresOnly (d : Dev) (p : Place) (f : Factors) : ∃ c, d.setParts p f = { d with cores := c } := by
  rw [d.setParts_cores p f]
  split
  · exact ⟨_, rfl⟩
  · exact d.setUnits_coresOnly p f _ d

theorem Dev.core_setUnit (d : Dev) (p : Place) (f : Factors) (e : Dev) (x : Nat × Nat) (k : Nat) : (d.setUnit p f e x).core k =
    if k = x.1 then (match (d.unitsOf p x.2).getLast? with
      | some u => (e.core k).setParts (p.op.fld 4 7 1 == 1) (d.unitParts p f u)
      | none => e.core k) else e.core k := by
  unfold Dev.setUnit
  cases (d.unitsOf p x.2).getLast? with
  | none => simp
  | some u => simp only [Dev.core_updCore]; split <;> simp_all

theorem Dev.core_setUnits_other (d : Dev) (p : Place) (f : Factors) {k : Nat} : ∀ (l : List (Nat × Nat)) (e : Dev), k ∉ l.map (·.1) →
    (l.foldl (d.setUnit p f) e).core k = e.core k
  | [], _, _ => rfl
  | x :: l, e, apart => by
    rw [List.map_cons, List.mem_cons, not_or] at apart
    rw [List.foldl_cons, d.core_setUnits_other p f l _ apart.2, d.core_setUnit, if_neg apart.1]

/-- Each core of an operation whose cores are distinct takes the parts of its own last unit. -/
theorem Dev.core_setUnits (d : Dev) (p : Place) (f : Factors) {k n u : Nat} (last : (d.unitsOf p n).getLast? = some u) : ∀ (l : List (Nat × Nat)) (e : Dev),
    (l.map (·.1)).Nodup → (k, n) ∈ l → (l.foldl (d.setUnit p f) e).core k = (e.core k).setParts (p.op.fld 4 7 1 == 1) (d.unitParts p f u)
  | [], _, _, mem => absurd mem List.not_mem_nil
  | x :: l, e, distinct, mem => by
    rw [List.map_cons, List.nodup_cons] at distinct
    obtain ⟨apart, distinct⟩ := distinct
    rw [List.foldl_cons]
    rcases List.mem_cons.1 mem with rfl | mem
    · rw [d.core_setUnits_other p f l _ apart, d.core_setUnit, if_pos rfl, last]
    · have other : k ≠ x.1 := fun same => apart (List.mem_map.2 ⟨_, mem, same⟩)
      rw [d.core_setUnits p f last l _ distinct mem, d.core_setUnit, if_neg other]

/-- Writes that agree on a key leave its value there. -/
theorem SMap.get_foldl_put_agree {v : Nat × Nat} : ∀ (l : List (Nat × Nat)) (m : SMap Nat), (∀ e ∈ l, e.1 = v.1 → e.2 = v.2) →
    (v ∈ l ∨ m.get 0 v.1 = v.2) → (l.foldl (fun m e => m.put 0 e.1 e.2) m).get 0 v.1 = v.2
  | [], m, _, found => by simpa using found
  | e :: l, m, agree, found => by
    rw [List.forall_mem_cons] at agree
    refine SMap.get_foldl_put_agree l _ agree.2 ?_
    rw [SMap.get_put]
    by_cases same : v.1 = e.1
    · exact .inr ((if_pos same).trans (agree.1 same.symm))
    · rw [if_neg same]
      rcases found with found | held
      · exact .inl ((List.mem_cons.1 found).resolve_left fun eq => same (eq ▸ rfl))
      · exact .inr held

/-- The accumulator of row `i` and column `j` of a unit's output. -/
def accKey (exact : Bool) (i j : Nat) : Nat := if exact then j else 64 * (j / 8) + 8 * i + j % 8

/-- A unit's parts lie in different accumulators: one row in EXACT mode, else eight rows by sixteen columns (R285, R286). -/
theorem Dev.unitParts_agree {d : Dev} {p : Place} {f : Factors} {u : Nat} (mode : p.op.fld 4 7 1 = 1 ∨ p.op.opcode ≠ 0x41) {e v : Nat × Nat}
    (he : e ∈ d.unitParts p f u) (hv : v ∈ d.unitParts p f u) (same : e.1 = v.1) : e.2 = v.2 := by
  unfold Dev.unitParts at he hv
  simp only [List.mem_flatMap, List.mem_map, List.mem_range] at he hv
  obtain ⟨i, hi, j, hj, rfl⟩ := he
  obtain ⟨i', hi', j', hj', rfl⟩ := hv
  obtain ⟨rfl, rfl⟩ : i = i' ∧ j = j' := by
    by_cases exact : p.op.fld 4 7 1 = 1
    · have row : p.op.unitShape.1 = 1 := by unfold OpWord.unitShape; simp only [exact]; split <;> rfl
      simp only [exact, if_pos] at same
      exact ⟨by omega, same⟩
    · have shape : p.op.unitShape = (8, 16) := by
        unfold OpWord.unitShape; rw [if_neg (mode.resolve_left exact), if_neg exact]
      rw [shape] at hi hj hi' hj'
      simp only [if_neg exact] at same
      constructor <;> omega
  rfl

/-- Each core's accumulators hold the parts of the last unit that it ran (R269, R284, log 146). -/
theorem Dev.setParts_holds {d : Dev} {p : Place} {f : Factors} {n c u : Nat} (core : (d.opCores p)[n]? = some c) (distinct : (d.opCores p).Nodup)
    (last : (d.unitsOf p n).getLast? = some u) {e : Nat × Nat} (mem : e ∈ d.unitParts p f u) :
    (p.op.fld 4 7 1 = 1 → ((d.setParts p f).core c).exact.get 0 e.1 = e.2) ∧
      (p.op.fld 4 7 1 ≠ 1 → p.op.opcode = 0x40 → ((d.setParts p f).core c).acc.get 0 e.1 = e.2) := by
  have found : (c, n) ∈ (d.opCores p).zipIdx := by rw [List.mem_zipIdx_iff_getElem?]; exact core
  have apart : ((d.opCores p).zipIdx.map (·.1)).Nodup := by rwa [List.zipIdx_map_fst]
  have taken := d.core_setUnits p f last (d.opCores p).zipIdx d apart found
  constructor
  · intro exact
    rw [d.setParts_cores p f, if_neg (by simp [exact]), taken]
    simp only [exact, Core.setParts, beq_self_eq_true, if_pos]
    exact SMap.get_foldl_put_agree _ _ (fun v hv same => Dev.unitParts_agree (.inl exact) hv mem same) (.inl mem)
  · intro normal op
    rw [d.setParts_cores p f, if_neg (by simp [op]), taken]
    simp only [beq_eq_false_iff_ne.2 normal, Core.setParts, Bool.false_eq_true, if_false]
    exact SMap.get_foldl_put_agree _ _ (fun v hv same => Dev.unitParts_agree (.inr (by simp [op])) hv mem same) (.inl mem)

/-! ## Combine buffers -/

/-- A full combine buffer holds 16 K-blocks (R291). -/
theorem Dev.fullBuffers_sixteen {d : Dev} {p : Place} {f : Nat × Nat × List Nat} (mem : f ∈ d.fullBuffers p) : f.2.2.length = 16 := by
  unfold Dev.fullBuffers at mem
  obtain ⟨b, -, mem⟩ := List.mem_filterMap.1 mem
  obtain ⟨l, full, rfl⟩ := Option.map_eq_some_iff.1 mem
  unfold Dev.overflowing at full
  have more := List.find?_some full
  simp at more
  simp; omega

/-- A home core's combine buffer takes the parts that it holds. -/
def Dev.fillBuffer (i : Nat) (d : Dev) (f : Nat × Nat × List Nat) : Dev := d.updCore f.1 fun k => { k with combine := f.2.2.map fun x => (i, f.2.1, x) }

theorem Dev.fillBuffers_spec (i : Nat) : ∀ (fs : List (Nat × Nat × List Nat)) (d : Dev), (∀ f ∈ fs, f.2.2 ≠ []) →
    (∃ c, fs.foldl (Dev.fillBuffer i) d = { d with cores := c }) ∧
      ∀ k, (k ∈ fs.map (·.1) ∨ (d.core k).combine ≠ []) → ((fs.foldl (Dev.fillBuffer i) d).core k).combine ≠ []
  | [], d, _ => ⟨⟨_, rfl⟩, fun k held => by simpa using held⟩
  | f :: fs, d, full => by
    rw [List.forall_mem_cons] at full
    obtain ⟨⟨c, only⟩, filled⟩ := Dev.fillBuffers_spec i fs (d.fillBuffer i f) full.2
    refine ⟨⟨c, only⟩, fun k held => filled k ?_⟩
    unfold Dev.fillBuffer
    rw [Dev.core_updCore]
    split
    · exact .inr (by simpa using full.1)
    · rename_i other
      rw [List.map_cons, List.mem_cons] at held
      exact held.imp_left fun mem => mem.resolve_left fun eq => other eq

/-- Parts held for full combine buffers: the operation shows ROUTE_CREDIT, and the buffers hold K-blocks (R291). -/
theorem Dev.holdParts_spec {d : Dev} {p : Place} {fs : List (Nat × Nat × List Nat)} (here : d.place p.id = some p) (full : ∀ f ∈ fs, f.2.2 ≠ []) :
    ∃ q, (d.holdParts p fs).place p.id = some q ∧ q.stall = .routeCredit ∧ q.combineHeld = true ∧ q.phase = p.phase ∧
      (d.holdParts p fs).mem = d.mem ∧ (d.holdParts p fs).rings = d.rings ∧ (d.holdParts p fs).routes = d.routes ∧
      ∀ f ∈ fs, ((d.holdParts p fs).core f.1).combine ≠ [] := by
  obtain ⟨⟨c, only⟩, filled⟩ := Dev.fillBuffers_spec p.id fs d full
  obtain ⟨e, held⟩ : ∃ e, e = fs.foldl (Dev.fillBuffer p.id) d := ⟨_, rfl⟩
  rw [← held] at only filled
  have there : (e.updPlace p.id fun q => { q with combineHeld := true }).place p.id = some { p with combineHeld := true } :=
    Dev.place_upd_of (fun q => { q with combineHeld := true }) (by rw [only]) here fun _ => rfl
  have run : d.holdParts p fs = (e.updPlace p.id fun q => { q with combineHeld := true }).stallPlace p .routeCredit := by rw [held]; rfl
  obtain ⟨place, x, rest⟩ := Dev.stallPlace_spec _ p .routeCredit _ there
  rw [run]
  refine ⟨_, place, rfl, rfl, rfl, ?_, ?_, ?_, fun f mem => ?_⟩
  · rw [rest]; dsimp only [Dev.updPlace]; rw [only]
  · rw [rest]; dsimp only [Dev.updPlace]; rw [only]
  · rw [rest]; dsimp only [Dev.updPlace]; rw [only]
  · rw [rest]; exact filled f.1 (.inl (List.mem_map_of_mem mem))

/-- The parts of one operation leave a core's combine buffer. -/
def Dev.drainBuffer (i : Nat) (d : Dev) (k : Nat) : Dev := d.updCore k fun c => { c with combine := c.combine.filter fun e => e.1 != i }

theorem Dev.drainBuffers_spec (i : Nat) : ∀ (ks : List Nat) (d : Dev), (∃ c, ks.foldl (Dev.drainBuffer i) d = { d with cores := c }) ∧
    ∀ k, (k ∈ ks ∨ ∀ e ∈ (d.core k).combine, e.1 ≠ i) → ∀ e ∈ ((ks.foldl (Dev.drainBuffer i) d).core k).combine, e.1 ≠ i
  | [], d => ⟨⟨_, rfl⟩, fun k drained => drained.resolve_left List.not_mem_nil⟩
  | x :: ks, d => by
    obtain ⟨⟨c, only⟩, drained⟩ := Dev.drainBuffers_spec i ks (d.drainBuffer i x)
    refine ⟨⟨c, only⟩, fun k mem => drained k ?_⟩
    unfold Dev.drainBuffer
    rw [Dev.core_updCore]
    split
    · exact .inr fun e he => by simpa using (List.mem_filter.1 he).2
    · rename_i other
      exact mem.imp_left fun mem => (List.mem_cons.1 mem).resolve_left fun eq => other eq

/-- Space freed in the combine buffers: nothing of the operation is left in them, and it goes on (R291). -/
theorem Dev.freeCombine_spec {d : Dev} {p : Place} (here : d.place p.id = some p) (held : p.combineHeld = true) :
    (d.freeCombine p).place p.id = some { p with combineHeld := false, combineFreed := true, stall := .none } ∧ (d.freeCombine p).mem = d.mem ∧
      (d.freeCombine p).rings = d.rings ∧ (d.freeCombine p).routes = d.routes ∧
      ∀ c ∈ d.opCores p, ∀ e ∈ ((d.freeCombine p).core c).combine, e.1 ≠ p.id := by
  obtain ⟨⟨c, only⟩, drained⟩ := Dev.drainBuffers_spec p.id (d.opCores p) d
  obtain ⟨e, freed⟩ : ∃ e, e = (d.opCores p).foldl (Dev.drainBuffer p.id) d := ⟨_, rfl⟩
  rw [← freed] at only drained
  have run : d.freeCombine p = e.updPlace p.id fun q => { q with combineHeld := false, combineFreed := true, stall := .none } := by
    rw [freed]; unfold Dev.freeCombine; rw [held]; rfl
  rw [run]
  refine ⟨Dev.place_upd_of (fun q => { q with combineHeld := false, combineFreed := true, stall := .none }) (by rw [only]) here fun _ => rfl,
    ?_, ?_, ?_, fun k mem => drained k (.inl mem)⟩
  · dsimp only [Dev.updPlace]; rw [only]
  · dsimp only [Dev.updPlace]; rw [only]
  · dsimp only [Dev.updPlace]; rw [only]

end Sys2Proof.Machine
end

section
/-! SUPPORT. The arithmetic of core operations, and O48 (07, 08). -/

namespace Sys2Proof.Machine

/-! ## Sums (R265 to R274) -/

/-- Pieces of 64 of whole K-blocks and a last one. -/
theorem piecesOf_append {α : Type} {xs ys : List α} (whole : xs.length % 64 = 0) (some : ys ≠ []) (short : ys.length ≤ 64) :
    piecesOf 64 (xs ++ ys) = piecesOf 64 xs ++ [ys] := by
  obtain ⟨n, len⟩ : ∃ n, xs.length = 64 * n := ⟨xs.length / 64, by omega⟩
  have pos : 0 < ys.length := List.length_pos_of_ne_nil some
  have count : ceilDiv (xs ++ ys).length 64 = n + 1 := by unfold ceilDiv; rw [List.length_append]; omega
  have before : ceilDiv xs.length 64 = n := by unfold ceilDiv; omega
  unfold piecesOf
  rw [count, before, List.range_succ, List.map_append, List.map_singleton]
  congr 1
  · refine List.map_congr_left fun i hi => ?_
    have bound := List.mem_range.1 hi
    rw [List.drop_append_of_le_length (by omega), List.take_append_of_le_length (by rw [List.length_drop]; omega)]
  · rw [← len, List.drop_left, List.take_of_length_le short]

theorem length_piecesOf {α : Type} (n : Nat) (xs : List α) : (piecesOf n xs).length = ceilDiv xs.length n := by
  simp [piecesOf]

/-- Parts join the accumulator in the order of their K-blocks (R267). -/
theorem normalSum_append (w mode : Nat) (split : Bool) {xs ys : List (Elem × Elem)} (whole : xs.length % 64 = 0) (some : ys ≠ [])
    (short : ys.length ≤ 64) : normalSum w mode split (xs ++ ys) =
      (normalSum w mode split xs).addPart (normalPart w mode split ys (xs.length / 64)) (xs.length / 64) := by
  have last : ceilDiv xs.length 64 = xs.length / 64 := by unfold ceilDiv; omega
  unfold normalSum
  rw [piecesOf_append whole some short, List.zipIdx_append, List.foldl_append, length_piecesOf, last]
  simp

/-- Zero times infinity makes a group NaN and INVALID (R272). -/
theorem groupValue_zeroInf {ps : List (Num × Num)} {w : Nat}
    (meets : ∃ p ∈ ps, p.1.isZero = true ∧ p.2.isInf = true ∨ p.1.isInf = true ∧ p.2.isZero = true) : groupValue w ps = (.nan, true, false) := by
  have found : (ps.any fun p => (p.1.isZero && p.2.isInf) || (p.1.isInf && p.2.isZero)) = true := by
    obtain ⟨p, mem, meets⟩ := meets
    exact List.any_eq_true.2 ⟨p, mem, by simpa using meets⟩
  unfold groupValue nonFinite
  rw [if_pos found]

theorem vecFunc_nan {f : Nat} {y imm : Num} (range : 0x10 ≤ f ∧ f ≤ 0x15) : vecFunc f .nan y imm = ⟨.nan, false, false⟩ := by
  obtain ⟨low, high⟩ := range
  interval_cases f <;> rfl

theorem vecFunc_negative {f m : Nat} {e : Int} {y imm : Num} (which : f = 0x11 ∨ f = 0x12) (pos : 0 < m) :
    vecFunc f (.fin true m e) y imm = ⟨.nan, true, false⟩ := by
  have nonzero : m ≠ 0 := by omega
  rcases which with rfl | rfl
  · exact (if_neg nonzero).trans (if_pos rfl)
  · exact (if_neg nonzero).trans (if_pos rfl)

/-! ## Sizes -/

theorem OpWord.shape_product {o : OpWord} (op : o.opcode = 0x40 ∨ o.opcode = 0x41) : o.shape 2 = (o.fld 3 0 4, o.fld 4 0 4, o.fld 4 6 1) := by
  unfold OpWord.shape
  rcases op with op | op
  · simp only [op]
  · simp only [op]

theorem OpWord.shape_vector {o : OpWord} (op : o.opcode = 0x48) :
    o.shape 0 = (o.fld 3 0 4, o.fld 3 4 4, o.fld 4 5 1) ∧ o.shape 2 = (o.fld 3 0 4, o.fld 3 4 4, o.fld 4 6 1) := by
  unfold OpWord.shape
  simp only [op, and_self]

theorem OpWord.shape_reduce {o : OpWord} (op : o.opcode = 0x49) : o.shape 0 = (o.fld 3 0 4, o.fld 3 4 4, o.fld 4 2 1) ∧
    (o.fld 4 1 1 = 0 → o.shape 2 = (o.fld 3 0 4, 1, o.fld 4 3 1)) ∧ (o.fld 4 1 1 ≠ 0 → o.shape 2 = (1, o.fld 3 4 4, o.fld 4 3 1)) := by
  unfold OpWord.shape
  simp only [op]
  exact ⟨rfl, fun axis => if_pos axis, fun axis => if_neg axis⟩

/-! ## The clauses of O48 -/

/-- Answers that differ in the device only. -/
theorem State.next_dev {s : State} {d e : Dev} (same : d = e) :
    (Host.Outcome.next { s with dev := d } : Host.Outcome State Fault Refusal) = .next { s with dev := e } := by rw [same]

/-- Elements of the size of destination word 2 are delivered by an operation whose work is theirs. -/
theorem elements_delivered {s : State} {c : Instr} {d : Dev} {p : Place} {m : Mio} {x : List (List OutElem) × Mat} (enters : s.Enters c d p)
    (work : d.WorkOnly m.dev) (runs : d.coreWork p = d.deliver p m 2 x.2 fun q => q.noteElems x.1)
    (can : m.delivers (p.op.ref 2) (m.written d p 2 x.2)) :
    ∃ t q, exec c s = .next t ∧ Delivered m p 2 x.2 (m.written d p 2 x.2) t.dev q ∧ p.Shows q x.1 := by
  obtain ⟨here, run⟩ := enters.runs
  obtain ⟨e, q, done, delivered, shows⟩ := Dev.elems_delivered ((work.place _).trans here) can
  exact ⟨{ s with dev := e }, q, run.trans (State.next_dev (runs.trans done)), delivered, shows⟩

/-- Settles the clause of O48 about MATMUL and GEMV. -/
theorem product_delivered {s : State} {c : Instr} {d : Dev} {p : Place} {r : Mio × Factors} {m : Mio} {x : List (List OutElem) × Mat} (enters : s.Enters c d p)
    (op : p.op.opcode = 0x40 ∨ p.op.opcode = 0x41) (single : p.partner = none) (read : r = d.readFactors p)
    (kept : m = { r.1 with dev := r.1.dev.setParts p r.2 }) (result : x = d.product p r.2)
    (can : m.delivers (p.op.ref 2) (m.written d p 2 x.2) ∨ d.Supplies p 0 ∧ d.Supplies p 1 ∧ d.Accepts p 2) :
    d.WorkOnly r.1.dev ∧ ∃ t q, exec c s = .next t ∧ Delivered m p 2 x.2 (m.written d p 2 x.2) t.dev q ∧ p.Shows q x.1 := by
  obtain ⟨here, run⟩ := enters.runs
  have work : d.WorkOnly r.1.dev := read ▸ d.readFactors_work p
  obtain ⟨cores, only⟩ := r.1.dev.setParts_coresOnly p r.2
  have there : m.dev.place p.id = some p := by rw [kept]; dsimp only; rw [only]; exact (work.place _).trans here
  obtain ⟨rows, cols, fmt, full⟩ := d.elemsOut_size p (p.op.fld 3 0 4) (p.op.fld 4 0 4) (p.op.fld 4 6 1)
    (fun i j => (d.poisonOf p r.2).1.getD i false || (d.poisonOf p r.2).2.getD j false) (d.dotAt p r.2)
  have delivers : m.delivers (p.op.ref 2) (m.written d p 2 x.2) := by
    rcases can with can | ⟨a, b, c⟩
    · exact can
    · have going : m.From d := by
        rw [kept, read]
        exact (Dev.readFactors_from a b).setDev (by rw [← read, only]) (by rw [← read, only])
      refine going.accepted (result ▸ full) ?_ c
      rw [result]; unfold Dev.product; dsimp only
      rw [rows, cols, fmt, OpWord.shape_product op]
  obtain ⟨e, q, done, delivered, shows⟩ := Dev.elems_delivered (d := d) there delivers
  refine ⟨work, { s with dev := e }, q, run.trans (State.next_dev ?_), delivered, shows⟩
  rw [← done, result, kept, read]
  unfold Dev.coreWork Dev.workMatmul Dev.sendProduct
  rcases op with op | op
  · rw [op, single]; rfl
  · rw [op, single]; rfl

/-- The work of VECTOR with one source or two. -/
theorem Dev.coreWork_vector {d : Dev} {p : Place} {r q : Mio × Mat} {b : Mio × (Nat → Mat)} {f : Nat} {x : List (List OutElem) × Mat} {imm : Num}
    (op : p.op.opcode = 0x48) (read : r = (d.io p).source (d.agent p) p 0 (d.elementCore p)) (func : f = p.op.fld 4 4 1)
    (const : imm = fp32.decode (p.op.fld 4 0 4)) (second : b = r.1.sourceBy (d.agent p) p 1)
    (result : (vecBinary (f % 64) = true ∧ q = (b.1, r.2) ∧
        x = d.elemsOut p r.2.rows r.2.cols (p.op.fld 4 6 1)
          (fun i _ => r.2.rowPoison i || (d.src2Rows p (f / 64) r.2.rows r.2.cols b.2).getD i false)
          (fun i j => vecElement (f % 64) (p.op.fld 4 6 1) (r.2.wide i j) (src2At (f / 64) (b.2 (d.elementCore p i j)) i j) imm)) ∨
      (vecBinary (f % 64) = false ∧ q = r ∧ x = d.elemsOut p r.2.rows r.2.cols (p.op.fld 4 6 1) (fun i _ => r.2.rowPoison i)
        (fun i j => vecElement (f % 64) (p.op.fld 4 6 1) (r.2.wide i j) .zero imm))) :
    d.coreWork p = d.deliver p q.1 2 x.2 fun y => y.noteElems x.1 := by
  unfold Dev.coreWork
  simp only [op]
  unfold Dev.workVector
  dsimp only
  rw [← read, ← func, ← const, ← second]
  rcases result with ⟨two, rfl, rfl⟩ | ⟨one, rfl, rfl⟩
  · exact if_pos two
  · exact if_neg (by simp [one])

/-- Settles the clause of O48 about VECTOR. -/
theorem vector_delivered {s : State} {c : Instr} {d : Dev} {p : Place} {r q : Mio × Mat} {b : Mio × (Nat → Mat)} {f : Nat} {x : List (List OutElem) × Mat} {imm : Num}
    (enters : s.Enters c d p) (op : p.op.opcode = 0x48) (read : r = (d.io p).source (d.agent p) p 0 (d.elementCore p)) (func : f = p.op.fld 4 4 1)
    (const : imm = fp32.decode (p.op.fld 4 0 4)) (second : b = r.1.sourceBy (d.agent p) p 1)
    (result : (vecBinary (f % 64) = true ∧ q = (b.1, r.2) ∧
        x = d.elemsOut p r.2.rows r.2.cols (p.op.fld 4 6 1)
          (fun i _ => r.2.rowPoison i || (d.src2Rows p (f / 64) r.2.rows r.2.cols b.2).getD i false)
          (fun i j => vecElement (f % 64) (p.op.fld 4 6 1) (r.2.wide i j) (src2At (f / 64) (b.2 (d.elementCore p i j)) i j) imm)) ∨
      (vecBinary (f % 64) = false ∧ q = r ∧ x = d.elemsOut p r.2.rows r.2.cols (p.op.fld 4 6 1) (fun i _ => r.2.rowPoison i)
        (fun i j => vecElement (f % 64) (p.op.fld 4 6 1) (r.2.wide i j) .zero imm)))
    (can : q.1.delivers (p.op.ref 2) (q.1.written d p 2 x.2) ∨ d.Supplies p 0 ∧ (vecBinary (f % 64) = true → d.Supplies p 1) ∧ d.Accepts p 2) :
    d.WorkOnly q.1.dev ∧ ∃ t y, exec c s = .next t ∧ Delivered q.1 p 2 x.2 (q.1.written d p 2 x.2) t.dev y ∧ p.Shows y x.1 := by
  have runs := Dev.coreWork_vector op read func const second result
  have first : d.WorkOnly r.1.dev := read ▸ (d.work_io p).trans ((d.io p).work_source _ _ _ _)
  have size : (r.2.rows, r.2.cols, r.2.fmt) = p.op.shape 0 := read ▸ (d.io p).source_size _ _ _ _
  obtain ⟨source, dest⟩ := OpWord.shape_vector op
  rw [source, Prod.mk.injEq, Prod.mk.injEq] at size
  obtain ⟨rows, cols, -⟩ := size
  have work : d.WorkOnly q.1.dev := by
    rcases result with ⟨-, rfl, -⟩ | ⟨-, rfl, -⟩
    · exact second ▸ first.trans (r.1.work_sourceBy _ _ _)
    · exact first
  refine ⟨work, elements_delivered enters work runs ?_⟩
  rcases can with can | ⟨a, two, c⟩
  · exact can
  · have start : r.1.From d := read ▸ (d.io_from p).source _ rfl a
    have going : q.1.From d := by
      rcases result with ⟨yes, rfl, -⟩ | ⟨-, rfl, -⟩
      · exact second ▸ start.sourceBy rfl (two yes)
      · exact start
    obtain ⟨full, fit⟩ : x.2.Full ∧ (x.2.rows, x.2.cols, x.2.fmt) = (r.2.rows, r.2.cols, p.op.fld 4 6 1) := by
      rcases result with ⟨-, -, rfl⟩ | ⟨-, -, rfl⟩
      · obtain ⟨rows, cols, fmt, full⟩ := d.elemsOut_size p r.2.rows r.2.cols (p.op.fld 4 6 1)
          (fun i _ => r.2.rowPoison i || (d.src2Rows p (f / 64) r.2.rows r.2.cols b.2).getD i false)
          (fun i j => vecElement (f % 64) (p.op.fld 4 6 1) (r.2.wide i j) (src2At (f / 64) (b.2 (d.elementCore p i j)) i j) imm)
        exact ⟨full, by rw [rows, cols, fmt]⟩
      · obtain ⟨rows, cols, fmt, full⟩ := d.elemsOut_size p r.2.rows r.2.cols (p.op.fld 4 6 1) (fun i _ => r.2.rowPoison i)
          (fun i j => vecElement (f % 64) (p.op.fld 4 6 1) (r.2.wide i j) .zero imm)
        exact ⟨full, by rw [rows, cols, fmt]⟩
    exact going.accepted full (by rw [fit, dest, rows, cols]) c

/-- Away from scratchpads, a poisoned row of SRC2 poisons the rows that it meets (R294). -/
theorem Dev.src2Rows_at {d : Dev} {p : Place} {shape rows cols i : Nat} {y : Nat → Mat} (elsewhere : p.inPads 1 = false) (bound : i < rows) :
    (d.src2Rows p shape rows cols y).getD i false = (y 0).rowPoison (if shape = 1 then 0 else i) := by
  simp [Dev.src2Rows, Place.readers, elsewhere, bound, src2Poison]

/-- Settles the clause of O48 about REDUCE. -/
theorem reduce_delivered {s : State} {c : Instr} {d : Dev} {p : Place} {r : Mio × Mat} {x : List (List OutElem) × Mat} (enters : s.Enters c d p)
    (op : p.op.opcode = 0x49) (read : r = (d.io p).source (d.agent p) p 0 (d.elementCore p))
    (result : (p.op.fld 4 1 1 = 0 ∧ x = d.elemsOut p r.2.rows 1 (p.op.fld 4 3 1) (fun i _ => r.2.rowPoison i)
        (fun i _ => reduceElement (p.op.fld 4 0 1) (p.op.fld 4 3 1) (r.2.rowWide i))) ∨
      (p.op.fld 4 1 1 ≠ 0 ∧ x = d.elemsOut p 1 r.2.cols (p.op.fld 4 3 1) (fun _ _ => r.2.anyPoison)
        (fun _ j => reduceElement (p.op.fld 4 0 1) (p.op.fld 4 3 1) (r.2.colWide j))))
    (can : r.1.delivers (p.op.ref 2) (r.1.written d p 2 x.2) ∨ d.Supplies p 0 ∧ d.Accepts p 2) :
    d.WorkOnly r.1.dev ∧ ∃ t q, exec c s = .next t ∧ Delivered r.1 p 2 x.2 (r.1.written d p 2 x.2) t.dev q ∧ p.Shows q x.1 := by
  have work : d.WorkOnly r.1.dev := read ▸ (d.work_io p).trans ((d.io p).work_source _ _ _ _)
  have size : (r.2.rows, r.2.cols, r.2.fmt) = p.op.shape 0 := read ▸ (d.io p).source_size _ _ _ _
  obtain ⟨source, byRow, byCol⟩ := OpWord.shape_reduce op
  rw [source, Prod.mk.injEq, Prod.mk.injEq] at size
  obtain ⟨rows, cols, -⟩ := size
  have runs : d.coreWork p = d.deliver p r.1 2 x.2 fun q => q.noteElems x.1 := by
    unfold Dev.coreWork
    simp only [op]
    unfold Dev.workReduce
    dsimp only
    rw [← read]
    rcases result with ⟨axis, rfl⟩ | ⟨axis, rfl⟩
    · exact if_pos axis
    · exact if_neg axis
  refine ⟨work, elements_delivered enters work runs ?_⟩
  rcases can with can | ⟨a, c⟩
  · exact can
  · have going : r.1.From d := read ▸ (d.io_from p).source _ rfl a
    rcases result with ⟨axis, rfl⟩ | ⟨axis, rfl⟩
    · obtain ⟨h, w, fmt, full⟩ := d.elemsOut_size p r.2.rows 1 (p.op.fld 4 3 1) (fun i _ => r.2.rowPoison i)
        (fun i _ => reduceElement (p.op.fld 4 0 1) (p.op.fld 4 3 1) (r.2.rowWide i))
      exact going.accepted full (by rw [h, w, fmt, byRow axis, rows]) c
    · obtain ⟨h, w, fmt, full⟩ := d.elemsOut_size p 1 r.2.cols (p.op.fld 4 3 1) (fun _ _ => r.2.anyPoison)
        (fun _ j => reduceElement (p.op.fld 4 0 1) (p.op.fld 4 3 1) (r.2.colWide j))
      exact going.accepted full (by rw [h, w, fmt, byCol axis, cols]) c

/-- Settles the clause of O48 about SUMMARY. -/
theorem summary_kept {s : State} {c : Instr} {d : Dev} {p : Place} {r : Mio × Mat} {v : Nat × Bool} (enters : s.Enters c d p) (op : p.op.opcode = 0x50)
    (sound : p.failed = []) (read : r = (d.io p).source (d.agent p) p 0 (d.elementCore p)) (can : r.1.done ∨ d.Supplies p 0)
    (value : v = summaryValue (p.op.fld 4 0 1) (p.op.fld 1 0 4) r.2) :
    ∃ t q, exec c s = .next t ∧ t.dev.place p.id = some q ∧ q.phase = .finished ∧ q.status = p.status ∧
      q.summary = some (p.op.fld 4 2 1, v.1) ∧ q.flags.overflow = (p.flags.overflow || v.2) ∧
      q.flags.poisoned = (p.flags.poisoned || r.2.anyPoison) ∧ ∃ e, d.WorkOnly e ∧ t.dev = { e with board := t.dev.board } := by
  obtain ⟨here, run⟩ := enters.runs
  have work : d.WorkOnly r.1.dev := read ▸ (d.work_io p).trans ((d.io p).work_source _ _ _ _)
  have done : r.1.done := can.elim id fun a => (read ▸ (d.io_from p).source _ rfl a : r.1.From d).done
  have runs : d.coreWork p = (r.1.dev.updPlace p.id (Place.noted · r.1)).updPlace p.id (fun q =>
      { q.finish with summary := some (p.op.fld 4 2 1, v.1), flags := q.flags.or { overflow := v.2, poisoned := r.2.anyPoison } }) := by
    unfold Dev.coreWork
    simp only [op]
    unfold Dev.workSummary
    dsimp only
    rw [← read, sound, if_pos (by rfl), ← value]
    exact Dev.conclude_noted d p _ done
  refine ⟨_, _, run.trans (State.next_dev runs), Dev.place_upd_again _ (Dev.place_upd_again (Place.noted · r.1) ((work.place _).trans here) fun _ => rfl) fun _ => rfl,
    rfl, rfl, rfl, rfl, rfl, r.1.dev, work, rfl⟩

/-- Settles the clause of O48 about full combine buffers. -/
theorem combine_holds {s : State} {i : Nat} {c : Instr} {d : Dev} {p : Place}
    (enters : (c = .matmul i ∧ s.dev.enters i (·.opcode == 0x40) = some (d, p)) ∨ (c = .gemv i ∧ s.dev.enters i (·.opcode == 0x41) = some (d, p)))
    (fed : p.inputsReady = true) (unfreed : p.combineFreed = false) (unheld : p.combineHeld = false) (full : d.fullBuffers p ≠ []) :
    ∃ t q, exec c s = .next t ∧ t.dev.place i = some q ∧ q.stall = .routeCredit ∧
      q.combineHeld = true ∧ q.phase = p.phase ∧ t.dev.mem = d.mem ∧ t.dev.rings = d.rings ∧ t.dev.routes = d.routes ∧
      ∀ f ∈ d.fullBuffers p, (t.dev.core f.1).combine ≠ [] := by
  have holds : Dev.whenCombined Dev.workMatmul d p = d.holdParts p (d.fullBuffers p) := by
    unfold Dev.whenCombined
    simp [unfreed, unheld, full]
  obtain ⟨here, rfl, run⟩ : d.place i = some p ∧ p.id = i ∧ exec c s = .next { s with dev := d.holdParts p (d.fullBuffers p) } := by
    rcases enters with ⟨rfl, enters⟩ | ⟨rfl, enters⟩
    · exact ⟨(Dev.enters_place enters).1, (Dev.enters_place enters).2, (exec_fed enters fed _).trans (State.next_dev holds)⟩
    · exact ⟨(Dev.enters_place enters).1, (Dev.enters_place enters).2, (exec_fed enters fed _).trans (State.next_dev holds)⟩
  have kept : ∀ f ∈ d.fullBuffers p, f.2.2 ≠ [] := fun f mem none => by simpa [none] using Dev.fullBuffers_sixteen mem
  obtain ⟨q, place, stall, held, phase, mem, rings, routes, filled⟩ := Dev.holdParts_spec here kept
  exact ⟨_, q, run, place, stall, held, phase, mem, rings, routes, filled⟩

/-- Settles the clause of O48 about COMBINE_BUFFER_SPACE_FREED. -/
theorem combine_freed {s : State} {i : Nat} {p : Place} (here : s.dev.place i = some p) :
    (p.combineHeld = true → ∃ t q, exec (.combineBufferSpaceFreed i) s = .next t ∧ t.dev.place i = some q ∧ q.stall = .none ∧
      q.combineFreed = true ∧ q.phase = p.phase ∧ t.dev.mem = s.dev.mem ∧ t.dev.rings = s.dev.rings ∧ t.dev.routes = s.dev.routes ∧
      ∀ c ∈ s.dev.opCores p, ∀ e ∈ (t.dev.core c).combine, e.1 ≠ i) ∧
    (p.combineHeld = false → exec (.combineBufferSpaceFreed i) s = .next s) := by
  obtain rfl := Dev.place_id here
  have run : exec (.combineBufferSpaceFreed p.id) s = .next { s with dev := s.dev.freeCombine p } := by
    refine congrArg Host.Outcome.next ?_
    rw [here]
  constructor
  · intro held
    obtain ⟨place, mem, rings, routes, drained⟩ := Dev.freeCombine_spec here held
    exact ⟨_, _, run, place, rfl, rfl, rfl, mem, rings, routes, drained⟩
  · intro unheld
    refine run.trans (congrArg Host.Outcome.next ?_)
    unfold Dev.freeCombine
    rw [unheld]; rfl

/-- Settles O48: the work of each core operation is one delivery of its elements. -/
theorem coreOperations : Obligations.CoreOperations := by
  unfold Obligations.CoreOperations
  refine ⟨fun s c d p r m x enters op single read kept result can => product_delivered enters op single read kept (result.trans ?_) can,
    fun d p f n c u core distinct last e mem => Dev.setParts_holds core distinct last mem,
    fun s c d p r q b f x imm enters op read func const second result can => vector_delivered enters op read func const second result can,
    fun d p shape rows cols i y elsewhere bound => Dev.src2Rows_at elsewhere bound,
    fun s c d p r x enters op read result can => reduce_delivered enters op read result can,
    fun s c d p r v enters op sound read can value => summary_kept enters op sound read can value,
    fun k th x poisoned => if_pos poisoned,
    fun s i c d p enters fed unfreed unheld full =>
      ⟨fun f mem => Dev.fullBuffers_sixteen mem, combine_holds enters fed unfreed unheld full⟩,
    fun s i p here => combine_freed here,
    fun d p rows cols fmt po f x r c result hr hc sound => ?at_,
    fun w mode split xs ys whole some short => normalSum_append w mode split whole some short,
    fun a p kb => rfl, fun ps w meets => groupValue_zeroInf meets, fun f y imm range => vecFunc_nan range,
    fun f m e y imm which pos => vecFunc_negative which pos⟩
  · rw [read]; rfl
  · obtain ⟨code, poison⟩ := Dev.elemsOut_at (d := d) (fmt := fmt) (po := po) (f := f) hr hc sound
    obtain ⟨rows, cols, fmt, -⟩ := d.elemsOut_size p rows cols fmt po f
    rw [result]
    exact ⟨rows, cols, fmt, code, poison⟩

end Sys2Proof.Machine
end

section
/-! SUPPORT. Shifts, codes and tiles of QUANTIZE (09, R312 to R318, R324). -/

namespace Sys2Proof.Machine

/-! ## Finite values as rationals -/

/-- The magnitude of a finite value. -/
def magnitude (m : Nat) (e : Int) : ℚ := m * (2 : ℚ) ^ e

/-- The significand at a smaller exponent keeps the value. -/
theorem intAt_magnitude {m : Nat} {e g : Int} (below : g ≤ e) : (Num.intAt false m e g : ℚ) * (2 : ℚ) ^ g = magnitude m e := by
  obtain ⟨n, rfl⟩ : ∃ n : Nat, e = g + n := ⟨(e - g).toNat, by omega⟩
  have gap : (g + (n : Int) - g).toNat = n := by omega
  simp only [Num.intAt, magnitude, gap, Nat.shiftLeft_eq, Bool.false_eq_true, if_false]
  rw [zpow_add₀ (by norm_num), zpow_natCast]
  push_cast
  ring

/-- Positive values compare as their magnitudes do. -/
theorem cmp_le_iff (m k : Nat) (e f : Int) : Num.cmp (.fin false m e) (.fin false k f) ≤ 0 ↔ magnitude m e ≤ magnitude k f := by
  have pos : (0 : ℚ) < 2 ^ min e f := by positivity
  have values : magnitude m e ≤ magnitude k f ↔ Num.intAt false m e (min e f) ≤ Num.intAt false k f (min e f) := by
    rw [← intAt_magnitude (m := m) (min_le_left e f), ← intAt_magnitude (m := k) (min_le_right e f), mul_le_mul_iff_left₀ pos]
    exact Int.cast_le
  rw [values]
  unfold Num.cmp
  dsimp only
  split
  · exact ⟨fun _ => by omega, fun _ => by omega⟩
  · split
    · exact ⟨fun _ => by omega, fun _ => by omega⟩
    · exact ⟨fun h => by omega, fun h => by omega⟩

/-- A positive value lies from the power of two of its exponent to the next. -/
theorem magnitude_expo {m : Nat} (e : Int) (pos : 0 < m) :
    (2 : ℚ) ^ Num.expo (.fin false m e) ≤ magnitude m e ∧ magnitude m e < (2 : ℚ) ^ (Num.expo (.fin false m e) + 1) := by
  have unit : (0 : ℚ) < 2 ^ e := by positivity
  have low : (2 : ℚ) ^ Nat.log2 m ≤ m := by exact_mod_cast Nat.log2_self_le (by omega)
  have high : (m : ℚ) < 2 ^ (Nat.log2 m + 1) := by exact_mod_cast Nat.lt_log2_self
  unfold magnitude Num.expo
  dsimp only
  constructor
  · rw [zpow_add₀ (by norm_num), zpow_natCast]
    exact mul_le_mul_of_nonneg_right low unit.le
  · rw [show (Nat.log2 m : Int) + e + 1 = ((Nat.log2 m + 1 : Nat) : Int) + e by push_cast; ring, zpow_add₀ (by norm_num), zpow_natCast]
    exact mul_lt_mul_of_pos_right high unit

theorem magnitude_shift (k : Nat) (f s : Int) : magnitude k (f + s) = magnitude k f * 2 ^ s := by
  unfold magnitude
  rw [zpow_add₀ (by norm_num), mul_assoc]

/-- The shift found is the least under which the bound reaches the value (R313). -/
theorem leastShift_spec {m k : Nat} (e f : Int) (hm : 0 < m) (hk : 0 < k) :
    Num.cmp (.fin false m e) ((Num.fin false k f).shift (leastShift (.fin false m e) (.fin false k f))) ≤ 0 ∧
      0 < Num.cmp (.fin false m e) ((Num.fin false k f).shift (leastShift (.fin false m e) (.fin false k f) - 1)) := by
  obtain ⟨mLow, mHigh⟩ := magnitude_expo e hm
  obtain ⟨kLow, kHigh⟩ := magnitude_expo f hk
  have reach : ∀ s, Num.cmp (.fin false m e) ((Num.fin false k f).shift s) ≤ 0 ↔ magnitude m e ≤ magnitude k f * 2 ^ s := fun s => by
    rw [← magnitude_shift]; exact cmp_le_iff m k e (f + s)
  rw [← not_le, reach, reach]
  have pick : ∀ t, leastShift (.fin false m e) (.fin false k f) = t → magnitude m e ≤ magnitude k f * 2 ^ t ∧ ¬magnitude m e ≤ magnitude k f * 2 ^ (t - 1) →
      magnitude m e ≤ magnitude k f * 2 ^ leastShift (.fin false m e) (.fin false k f) ∧
        ¬magnitude m e ≤ magnitude k f * 2 ^ (leastShift (.fin false m e) (.fin false k f) - 1) := fun t found fits => found ▸ fits
  obtain ⟨E, hE⟩ : ∃ E, E = Num.expo (.fin false m e) := ⟨_, rfl⟩
  obtain ⟨F, hF⟩ : ∃ F, F = Num.expo (.fin false k f) := ⟨_, rfl⟩
  rw [← hE] at mLow mHigh
  rw [← hF] at kLow kHigh
  by_cases under : Num.cmp (.fin false m e) ((Num.fin false k f).shift (E - F - 1)) ≤ 0
  · refine pick (E - F - 1) (by unfold leastShift; rw [← hE, ← hF]; exact if_pos under) ⟨(reach _).1 under, not_le.2 (lt_of_lt_of_le ?_ mLow)⟩
    calc magnitude k f * 2 ^ (E - F - 1 - 1) < 2 ^ (F + 1) * 2 ^ (E - F - 1 - 1) := mul_lt_mul_of_pos_right kHigh (by positivity)
      _ = 2 ^ (E - 1) := by rw [← zpow_add₀ (by norm_num)]; congr 1; ring
      _ ≤ 2 ^ E := zpow_le_zpow_right₀ (by norm_num) (by omega)
  · by_cases fits : Num.cmp (.fin false m e) ((Num.fin false k f).shift (E - F)) ≤ 0
    · exact pick (E - F) (by unfold leastShift; rw [← hE, ← hF]; exact (if_neg under).trans (if_pos fits)) ⟨(reach _).1 fits, mt (reach _).2 under⟩
    · refine pick (E - F + 1) (by unfold leastShift; rw [← hE, ← hF]; exact (if_neg under).trans (if_neg fits))
        ⟨mHigh.le.trans ?_, by rw [add_sub_cancel_right]; exact mt (reach _).2 fits⟩
      calc (2 : ℚ) ^ (E + 1) = 2 ^ F * 2 ^ (E - F + 1) := by rw [← zpow_add₀ (by norm_num)]; congr 1; ring
        _ ≤ magnitude k f * 2 ^ (E - F + 1) := mul_le_mul_of_nonneg_right kLow (by positivity)

/-! ## Segments -/

/-- The magnitude that an element brings to the search for the largest. -/
def quantSize (out : Nat) (x : Num) : Num := if out = 8 then (if x.sign then .zero else x) else x.abs

theorem quantMax_fold (out : Nat) (xs : List Num) :
    quantMax out xs = (xs.filter Num.isFinite).foldl (fun m x => if Num.cmp m (quantSize out x) < 0 then quantSize out x else m) .zero := rfl

theorem quantSize_zero {out : Nat} {x : Num} (zero : x.isZero = true) : (quantSize out x).isZero = true := by
  unfold quantSize
  split
  · split
    · rfl
    · exact zero
  · cases x with
    | nan => cases zero
    | inf n => cases zero
    | fin n k e => exact zero

/-- Zeros leave the largest magnitude zero. -/
theorem quantMax_zero {out : Nat} {xs : List Num} (small : ∀ x ∈ xs, x.isZero = true ∨ x.isFinite = false) : (quantMax out xs).isZero = true := by
  rw [quantMax_fold]
  refine List.foldlRecOn (motive := fun m : Num => m.isZero = true) _ _ rfl fun m held x mem => ?_
  obtain ⟨mem, finite⟩ := List.mem_filter.1 mem
  split
  · exact quantSize_zero ((small x mem).resolve_right (by simp [finite]))
  · exact held

/-- The shift of a segment, whether it exceeds its headroom, and whether it is capped (R313, R316, R317). -/
theorem quantSegment_spec {out : Nat} {h : Int} {xs : List Num} {m : Num} {s0 s1 : Int} (most : m = quantMax out xs)
    (least : s0 = if m.isZero then 0 else leastShift m (quantBound out)) (capped : s1 = max (min s0 127) (-128)) :
    (m.isZero = false → (quantSegment out h xs).shift = if h < s1 then h else s1) ∧ (quantSegment out h xs).exceeds = decide (h < s1) ∧
      (quantSegment out h xs).capped = decide (127 < s0) ∧
      ((∀ x ∈ xs, x.isZero = true ∨ x.isFinite = false) → (quantSegment out h xs).shift = 0) := by
  have shift : (quantSegment out h xs).shift = if (decide (h < s1) && !(xs.all fun x => x.isZero || !x.isFinite)) = true then h else s1 := by
    rw [capped, least, most]; rfl
  refine ⟨fun some => ?_, by rw [capped, least, most]; rfl, by rw [least, most]; rfl, fun small => ?_⟩
  · have big : (xs.all fun x => x.isZero || !x.isFinite) = false := by
      refine Bool.eq_false_iff.2 fun all => ?_
      have zero := quantMax_zero (out := out) (xs := xs) (by simpa using all)
      rw [most, zero] at some
      cases some
    rw [shift, big]
    simp
  · have all : (xs.all fun x => x.isZero || !x.isFinite) = true := by simpa using small
    rw [shift, all, capped, least, most, quantMax_zero small]
    simp

/-- Integer codes are clamped to their format (R314). -/
theorem quantCode_clamped (s : Int) (x : Num) :
    signed 8 (quantCode 6 s x) = max (-127) (min 127 (roundInt (x.shift (-s)))) ∧
    signed 4 (quantCode 7 s x) = max (-7) (min 7 (roundInt (x.shift (-s)))) ∧
    (quantCode 8 s x : Int) = max 0 (min 255 (roundInt (x.shift (-s)))) := by
  have int8 : quantCode 6 s x = (max (-127) (min 127 (roundInt (x.shift (-s)))) % 256).toNat := rfl
  have int4 : quantCode 7 s x = (max (-7) (min 7 (roundInt (x.shift (-s)))) % 16).toNat := rfl
  have uint8 : quantCode 8 s x = (max 0 (min 255 (roundInt (x.shift (-s)))) % 256).toNat := rfl
  rw [int8, int4, uint8]
  generalize roundInt (x.shift (-s)) = v
  unfold signed
  refine ⟨?_, ?_, ?_⟩
  · split <;> omega
  · split <;> omega
  · omega

theorem length_quantSegment (out : Nat) (h : Int) (xs : List Num) : (quantSegment out h xs).codes.length = xs.length := by
  simp [quantSegment]

/-! ## The tiles of a quantised matrix -/

/-- The positions of a matrix's tiles, in order. -/
def tilePlaces (x : Mat) : List (Nat × Nat) := (List.range (ceilDiv x.rows 64)).flatMap fun i => (List.range x.blocks).map fun j => (i, j)

/-- The data tile at a position. -/
def Mat.dataTile (x : Mat) (stream base mode : Nat) (i : Nat × Nat) : Tile :=
  Tile.sealed { format := x.fmt, rows := min 64 (x.rows - 64 * i.1), cols := min 64 (x.cols - 64 * i.2), shiftMode := mode, stream := stream,
                sequence := (base + i.1 * x.blocks + i.2) % 2 ^ 32,
                poison := ((List.range (min 64 (x.rows - 64 * i.1))).map fun r => if x.poisonAt (64 * i.1 + r) i.2 then 2 ^ r else 0).foldl (· + ·) 0,
                payload := padTo ((List.range (min 64 (x.rows - 64 * i.1))).flatMap fun r =>
                  codesRow x.fmt (if x.poisonAt (64 * i.1 + r) i.2 then List.replicate (min 64 (x.cols - 64 * i.2)) 0
                    else ((x.codes.getD (64 * i.1 + r) []).drop (64 * i.2)).take (min 64 (x.cols - 64 * i.2)))) 64 }

/-- The scale tile at a position. -/
def Mat.scaleTile (x : Mat) (stream base : Nat) (i : Nat × Nat) : Tile :=
  Tile.sealed { format := 10, rows := min 64 (x.rows - 64 * i.1), cols := 1, stream := stream + 2 ^ 31, sequence := (base + i.1 * x.blocks + i.2) % 2 ^ 32,
                poison := ((List.range (min 64 (x.rows - 64 * i.1))).map fun r => if x.poisonAt (64 * i.1 + r) i.2 then 2 ^ r else 0).foldl (· + ·) 0,
                payload := padTo ((List.range (min 64 (x.rows - 64 * i.1))).flatMap fun r =>
                  codesRow 10 [(x.shiftAt (64 * i.1 + r) (64 * i.2) % 256).toNat]) 64 }

theorem Mat.tiles_places (x : Mat) (stream base mode : Nat) : x.tiles stream base mode = (tilePlaces x).map (x.dataTile stream base mode) := by
  unfold tilePlaces
  rw [List.map_flatMap]
  simp only [List.map_map]
  rfl

theorem Mat.scaleTiles_places (x : Mat) (stream base : Nat) : x.scaleTiles stream base = (tilePlaces x).map (x.scaleTile stream base) := by
  unfold tilePlaces
  rw [List.map_flatMap]
  simp only [List.map_map]
  rfl

/-- Each data tile has its scale tile, of the same rows and SEQUENCE (R324). -/
theorem Mat.scaleTile_beside {x : Mat} {stream base k : Nat} {t u : Tile} (data : (x.tiles stream base 2)[k]? = some t)
    (scale : (x.scaleTiles stream base)[k]? = some u) : t.shiftMode = 2 ∧ t.shift = 0 ∧ u.format = 10 ∧ u.cols = 1 ∧ u.shiftMode = 0 ∧ u.rows = t.rows ∧
      u.sequence = t.sequence ∧ u.stream = t.stream + 2 ^ 31 ∧ t.stream = stream := by
  rw [Mat.tiles_places, List.getElem?_map] at data
  rw [Mat.scaleTiles_places, List.getElem?_map] at scale
  obtain ⟨i, at_, rfl⟩ := Option.map_eq_some_iff.1 data
  obtain ⟨j, at', rfl⟩ := Option.map_eq_some_iff.1 scale
  obtain rfl := Option.some.inj (at_.symm.trans at')
  exact ⟨rfl, rfl, rfl, rfl, rfl, rfl, rfl, rfl, rfl⟩

/-- The data tiles and the scale tiles leave together. -/
theorem Mat.mem_pairedTiles {x : Mat} {stream base : Nat} {a : Tile} (mem : a ∈ x.tiles stream base 2 ∨ a ∈ x.scaleTiles stream base) :
    a ∈ ((x.tiles stream base 2).zip (x.scaleTiles stream base)).flatMap fun t => [t.1, t.2] := by
  rw [Mat.tiles_places, Mat.scaleTiles_places] at mem ⊢
  rw [List.zip_map', List.mem_flatMap]
  rcases mem with mem | mem
  · obtain ⟨i, place, rfl⟩ := List.mem_map.1 mem
    exact ⟨_, List.mem_map_of_mem place, by simp⟩
  · obtain ⟨i, place, rfl⟩ := List.mem_map.1 mem
    exact ⟨_, List.mem_map_of_mem place, by simp⟩

/-! ## The quantised matrix -/

/-- Segments of 64 columns fill a row. -/
theorem sum_segments : ∀ (cols n : Nat), n = ceilDiv cols 64 → ((List.range n).map fun j => min 64 (cols - 64 * j)).sum = cols := by
  have part : ∀ (cols n : Nat), 64 * n ≤ cols + 63 → ((List.range n).map fun j => min 64 (cols - 64 * j)).sum = min cols (64 * n) := by
    intro cols n
    induction n with
    | zero => intro _; simp
    | succ n ih =>
      intro bound
      rw [List.range_succ, List.map_append, List.sum_append, ih (by omega)]
      simp
      omega
  intro cols n count
  rw [part cols n (by rw [count]; unfold ceilDiv; omega), count]
  unfold ceilDiv
  omega

end Sys2Proof.Machine
end

section
/-! SUPPORT. The operations of quantisation, and O49 (09). -/

namespace Sys2Proof.Machine

/-! ## QUANTIZE -/

/-- Every row of a quantised matrix is full. -/
theorem quantMat_full (out fmt : Nat) (h : Int) (x : Mat) : (quantMat fmt x (quantRows out h x)).Full := by
  intro r bound
  have rows : r < x.rows := bound
  unfold quantMat quantRows
  simp only [List.getD_eq_getElem?_getD, List.getElem?_map, List.getElem?_range rows, Option.map_some, Option.getD_some]
  rw [List.length_flatMap]
  refine Eq.trans (congrArg List.sum (List.ext_getElem (by simp) fun j h1 h2 => ?_)) (sum_segments x.cols x.blocks rfl)
  simp only [List.getElem_map, List.getElem_zipIdx, List.getElem_range, Nat.zero_add]
  split
  · rename_i g eq
    split at eq
    · cases eq
    · obtain rfl := Option.some.inj eq
      simp [length_quantSegment, Mat.rowWide]
  · simp

theorem length_shiftArray (x : Mat) : x.shiftArray.1.length = x.rows * ceilDiv x.cols 64 := by
  simp [Mat.shiftArray, List.length_flatMap, Mat.blocks]

/-- The place of a QUANTIZE that ends. -/
def Place.quantized (p : Place) (x : Mat) (segs : List (List (Option SegOut))) (q : Place) : Place :=
  { q.finish with flags := (q.flags.or (quantFlags p.op.widens (segsOf segs))).or { poisoned := x.anyPoison, overflow := p.op.widens && x.keepOverflows },
                  offender := quantOffender segs }

/-- How a QUANTIZE ends: its place, the counters of its ring, and what its partner learns. -/
def Dev.endQuantize (d : Dev) (p : Place) (x : Mat) (segs : List (List (Option SegOut))) : Dev :=
  ((d.updPlace p.id (p.quantized x segs)).updRing p.ring fun k => k.countQuant p.op.widens (segsOf segs)).tellPartner p x
    (if p.op.widens then exceededOf (segsOf segs) else 0)

/-- A QUANTIZE with the poison that its rows spread is its source's when no core failed (R294). -/
theorem Dev.workQuantize_sound {d : Dev} {p : Place} {r : Mio × Mat} {x y : Mat} {segs : List (List (Option SegOut))} (sound : p.failed = [])
    (read : r = (d.io p).source (d.agent p) p 0 (d.elementCore p))
    (spread : x = { r.2 with poison := (List.range r.2.rows).map fun i => (List.range r.2.blocks).map fun _ => r.2.rowPoison i })
    (cut : segs = quantRows (p.op.fld 4 3 1) (sbyte (p.op.fld 4 0 1)) x) (result : y = quantMat (p.op.fld 4 3 1) x segs) :
    d.workQuantize p = if (p.op.ref 2).kind = 1 then
        d.conclude p r.1 fun d => (d.endQuantize p x segs).produce p
          (((y.tiles (p.op.ref 2).addr p.op.seqBase 2).zip (y.scaleTiles (p.op.ref 2).addr p.op.seqBase)).flatMap fun t => [t.1, t.2])
      else
        d.conclude p ((r.1.writeMat (d.agent p) (p.op.ref 2) (rowBytes y.fmt y.cols) y).write (d.agent p) (p.op.ref 2)
          (shiftBase (p.op.ref 2).addr y.fmt y.rows y.cols) y.shiftArray.1 y.shiftArray.2) fun d => d.endQuantize p x segs := by
  have clean : { r.2 with
      poison := (List.range r.2.rows).map fun i => (List.range r.2.blocks).map fun j =>
        r.2.rowPoison i || hitsFailed (d.failedOf p r.2.rows r.2.cols) i j } = x := by
    rw [spread]; simp [Dev.failedOf, sound, hitsFailed]
  unfold Dev.workQuantize
  dsimp only
  rw [← read, clean, ← cut, ← result]
  rfl

/-- What the end of a QUANTIZE leaves: its place and its flags, its ring's counters, and what its partner learns. -/
structure Dev.QuantEnds (d e : Dev) (p : Place) (x : Mat) (segs : List (List (Option SegOut))) (q : Place) : Prop where
  place : e.place p.id = some q
  finished : q.phase = .finished
  status : q.status = p.status
  flags : q.flags = (p.flags.or (quantFlags p.op.widens (segsOf segs))).or { poisoned := x.anyPoison, overflow := p.op.widens && x.keepOverflows }
  offender : q.offender = quantOffender segs
  ring : e.ring p.ring = (d.ring p.ring).countQuant p.op.widens (segsOf segs)
  rings : ∀ k, k ≠ p.ring → e.ring k = d.ring k
  partner : ∀ k u, p.partner = some k → k ≠ p.id → d.place k = some u →
    ∃ v, e.place k = some v ∧ v.exceeded = (if p.op.widens then exceededOf (segsOf segs) else 0) ∧ v.phase = u.phase

/-- A place of a widening pair's partner, told what was kept. -/
def Place.told (x : Mat) (n : Nat) (q : Place) : Place := { q with exceeded := n, kept := if n = 0 then [] else x.keep q.op.seqBase }

theorem Dev.tellPartner_spec (d : Dev) (p : Place) (x : Mat) (n : Nat) : (∃ b, d.tellPartner p x n = { d with board := b }) ∧
    (∀ q, d.place p.id = some q → (d.tellPartner p x n).place p.id = some q ∨ (d.tellPartner p x n).place p.id = some (q.told x n)) ∧
    ∀ k u, p.partner = some k → d.place k = some u → (d.tellPartner p x n).place k = some (u.told x n) := by
  unfold Dev.tellPartner
  cases partner : p.partner with
  | none => exact ⟨⟨_, rfl⟩, fun q here => .inl here, fun k u eq => by cases eq⟩
  | some k =>
    refine ⟨⟨_, rfl⟩, fun q here => ?_, fun k' u eq there => ?_⟩
    · by_cases same : p.id = k
      · exact .inr (by rw [same] at here ⊢; exact Dev.place_upd_again (Place.told x n) here fun _ => rfl)
      · exact .inl ((Dev.updPlace_other' (Place.told x n) (fun _ => rfl) same).trans here)
    · obtain rfl := Option.some.inj eq
      exact Dev.place_upd_again (Place.told x n) there fun _ => rfl

/-- The end of a QUANTIZE on a device that its work left. -/
theorem Dev.endQuantize_spec {d e : Dev} {p q : Place} (x : Mat) (segs : List (List (Option SegOut))) (here : e.place p.id = some q) (status : q.status = p.status)
    (flags : q.flags = p.flags) (rings : e.rings = d.rings) (others : ∀ k, k ≠ p.id → e.place k = d.place k) :
    (∃ q, d.QuantEnds (e.endQuantize p x segs) p x segs q) ∧ ∃ b r, e.endQuantize p x segs = { e with board := b, rings := r } := by
  obtain ⟨n, learned⟩ : ∃ n, n = if p.op.widens then exceededOf (segsOf segs) else 0 := ⟨_, rfl⟩
  obtain ⟨f, ended⟩ : ∃ f, f = (e.updPlace p.id (p.quantized x segs)).updRing p.ring fun k => k.countQuant p.op.widens (segsOf segs) := ⟨_, rfl⟩
  have run : e.endQuantize p x segs = f.tellPartner p x n := by rw [ended, learned]; rfl
  have fields : ∃ b r, f = { e with board := b, rings := r } := by rw [ended]; exact ⟨_, _, rfl⟩
  have place : f.place p.id = some (p.quantized x segs q) := by rw [ended]; exact Dev.place_upd_again (p.quantized x segs) here fun _ => rfl
  have ring : ∀ k, f.ring k = if k = p.ring then (d.ring p.ring).countQuant p.op.widens (segsOf segs) else d.ring k := fun k => by
    rw [ended, Dev.ring_updRing]
    unfold Dev.ring
    dsimp only [Dev.updPlace]
    rw [rings]
  have elsewhere : ∀ k, k ≠ p.id → f.place k = d.place k := fun k other => by
    rw [ended]; exact (Dev.updPlace_other' (p.quantized x segs) (fun _ => rfl) other).trans (others k other)
  obtain ⟨⟨b, only⟩, own, told⟩ := f.tellPartner_spec p x n
  have ringOf : ∀ k, (f.tellPartner p x n).ring k = f.ring k := fun k => by rw [only]; rfl
  obtain ⟨b', r, fields⟩ := fields
  rw [run]
  have ends : ∀ q', (f.tellPartner p x n).place p.id = some q' → q'.phase = .finished → q'.status = q.status → q'.flags = (p.quantized x segs q).flags →
      q'.offender = quantOffender segs → d.QuantEnds (f.tellPartner p x n) p x segs q' := fun q' there phase st fl off =>
    { place := there, finished := phase, status := st.trans status, flags := by rw [fl, ← flags]; rfl, offender := off,
      ring := (ringOf _).trans ((ring _).trans (if_pos rfl)), rings := fun k other => (ringOf k).trans ((ring k).trans (if_neg other)),
      partner := fun k u partner other there => ⟨_, told k u partner ((elsewhere k other).trans there), learned, rfl⟩ }
  refine ⟨?_, b, r, ?_⟩
  · rcases own _ place with there | there
    · exact ⟨_, ends _ there rfl rfl rfl rfl⟩
    · exact ⟨_, ends _ there rfl rfl rfl rfl⟩
  · rw [only, fields]

/-- Result tiles that leave: each is on a route or waits, the place keeps its outcome, and every other place and the rings stay. -/
theorem Dev.produce_spec {d : Dev} {p q : Place} (ts : List Tile) (here : d.place p.id = some q) :
    ∃ q', (d.produce p ts).place p.id = some q' ∧ q' = { q with unsent := q'.unsent, stall := q'.stall, excursions := q'.excursions } ∧
      (∀ t ∈ ts, t ∈ q'.unsent ∨ ∃ g ∈ (d.produce p ts).routes, ∃ z ∈ g.queue, z.tile = t) ∧ (∀ j, j ≠ p.id → (d.produce p ts).place j = d.place j) ∧
      ∃ b r x s, d.produce p ts = { d with board := b, routes := r, qlk := x, slots := s } := by
  obtain ⟨e, q', run, place, same, sent, -, others, x, rest⟩ := Dev.sendTiles_spec (d := d.countTiles p ts.length) (p := p) ts here
  have eq : d.produce p ts = e := run
  rw [eq]
  exact ⟨q', place, same, sent, others, e.board, e.routes, x, (d.countTiles p ts.length).slots, rest⟩

/-- Sending a QUANTIZE's tiles keeps what it ended with. -/
theorem Dev.QuantEnds.produce {d e : Dev} {p : Place} {x : Mat} {segs : List (List (Option SegOut))} {q : Place} (ends : d.QuantEnds e p x segs q) (ts : List Tile) :
    ∃ q', d.QuantEnds (e.produce p ts) p x segs q' ∧ (∀ t ∈ ts, t ∈ q'.unsent ∨ ∃ g ∈ (e.produce p ts).routes, ∃ z ∈ g.queue, z.tile = t) ∧
      (e.produce p ts).mem = e.mem ∧ (e.produce p ts).cache = e.cache := by
  obtain ⟨q', place, same, sent, others, b, r, y, s, rest⟩ := Dev.produce_spec ts ends.place
  have ring : ∀ k, (e.produce p ts).ring k = e.ring k := fun k => by rw [rest]; rfl
  refine ⟨q', ?_, sent, by rw [rest], by rw [rest]⟩
  exact { place := place, finished := by rw [same]; exact ends.finished, status := by rw [same]; exact ends.status,
          flags := by rw [same]; exact ends.flags, offender := by rw [same]; exact ends.offender, ring := (ring _).trans ends.ring,
          rings := fun k other => (ring k).trans (ends.rings k other),
          partner := fun k u partner other there => by rw [others k other]; exact ends.partner k u partner other there }

theorem OpWord.shape_quantize {o : OpWord} (op : o.opcode = 0x4A ∨ o.opcode = 0x4B) :
    o.shape 0 = (o.fld 3 0 4, o.fld 3 4 4, o.fld 4 2 1) ∧ o.shape 2 = (o.fld 3 0 4, o.fld 3 4 4, o.fld 4 3 1) := by
  unfold OpWord.shape
  rcases op with op | op
  · simp only [op]; exact ⟨rfl, rfl⟩
  · simp only [op]; exact ⟨rfl, rfl⟩

/-- The memory work of a QUANTIZE: its source, and where its destination is memory its codes and its shifts (R327). -/
def Dev.quantWork (d : Dev) (p : Place) (m : Mio) (y : Mat) : Mio :=
  if (p.op.ref 2).kind = 1 then m else
    (m.writeMat (d.agent p) (p.op.ref 2) (rowBytes y.fmt y.cols) y).write (d.agent p) (p.op.ref 2)
      (shiftBase (p.op.ref 2).addr y.fmt y.rows y.cols) y.shiftArray.1 y.shiftArray.2

theorem Dev.quantWork_work (d : Dev) (p : Place) (m : Mio) (y : Mat) : m.dev.WorkOnly (d.quantWork p m y).dev := by
  unfold Dev.quantWork
  split
  · exact .refl _
  · exact (m.work_writeMat _ _ _ _).trans (Mio.work_write _ _ _ _ _ _)

/-- The end of a QUANTIZE whose work is done: what it leaves, and where its tiles are. -/
theorem Dev.quantize_done {d : Dev} {p : Place} {r : Mio × Mat} {x y : Mat} {segs : List (List (Option SegOut))} {m : Mio} (here : d.place p.id = some p)
    (sound : p.failed = []) (read : r = (d.io p).source (d.agent p) p 0 (d.elementCore p))
    (spread : x = { r.2 with poison := (List.range r.2.rows).map fun i => (List.range r.2.blocks).map fun _ => r.2.rowPoison i })
    (cut : segs = quantRows (p.op.fld 4 3 1) (sbyte (p.op.fld 4 0 1)) x) (result : y = quantMat (p.op.fld 4 3 1) x segs) (work : m = d.quantWork p r.1 y)
    (done : m.done) : d.WorkOnly m.dev ∧ ∃ q, d.QuantEnds (d.workQuantize p) p x segs q ∧ (d.workQuantize p).mem = m.dev.mem ∧
      (d.workQuantize p).cache = m.dev.cache ∧ ((p.op.ref 2).kind = 1 → ∀ a, (a ∈ y.tiles (p.op.ref 2).addr p.op.seqBase 2 ∨
        a ∈ y.scaleTiles (p.op.ref 2).addr p.op.seqBase) → a ∈ q.unsent ∨ ∃ g ∈ (d.workQuantize p).routes, ∃ z ∈ g.queue, z.tile = a) := by
  have first : d.WorkOnly r.1.dev := read ▸ (d.work_io p).trans ((d.io p).work_source _ _ _ _)
  have only : d.WorkOnly m.dev := work ▸ first.trans (d.quantWork_work p r.1 y)
  obtain ⟨e, noted⟩ : ∃ e, e = m.dev.updPlace p.id (Place.noted · m) := ⟨_, rfl⟩
  have there : e.place p.id = some (p.noted m) := by rw [noted]; exact Dev.place_upd_again (Place.noted · m) ((only.place _).trans here) fun _ => rfl
  have others : ∀ k, k ≠ p.id → e.place k = d.place k := fun k other => by
    rw [noted]; exact (Dev.updPlace_other' (Place.noted · m) (fun _ => rfl) other).trans (only.place k)
  obtain ⟨⟨q, ends⟩, b, s, fields⟩ := Dev.endQuantize_spec (d := d) x segs there rfl rfl (by rw [noted]; exact only.rings) others
  have mem : (e.endQuantize p x segs).mem = m.dev.mem := by rw [fields, noted]; rfl
  have cache : (e.endQuantize p x segs).cache = m.dev.cache := by rw [fields, noted]; rfl
  refine ⟨only, ?_⟩
  by_cases stream : (p.op.ref 2).kind = 1
  · have own : m = r.1 := work.trans (if_pos stream)
    have run : d.workQuantize p = (e.endQuantize p x segs).produce p
        (((y.tiles (p.op.ref 2).addr p.op.seqBase 2).zip (y.scaleTiles (p.op.ref 2).addr p.op.seqBase)).flatMap fun t => [t.1, t.2]) := by
      rw [Dev.workQuantize_sound sound read spread cut result, if_pos stream, Dev.conclude_noted d p _ (own ▸ done), noted, own]
    obtain ⟨q', ends, sent, mem', cache'⟩ := ends.produce
      (((y.tiles (p.op.ref 2).addr p.op.seqBase 2).zip (y.scaleTiles (p.op.ref 2).addr p.op.seqBase)).flatMap fun t => [t.1, t.2])
    rw [run]
    exact ⟨q', ends, mem'.trans mem, cache'.trans cache, fun _ a mem => sent a (Mat.mem_pairedTiles mem)⟩
  · have own : m = (r.1.writeMat (d.agent p) (p.op.ref 2) (rowBytes y.fmt y.cols) y).write (d.agent p) (p.op.ref 2)
        (shiftBase (p.op.ref 2).addr y.fmt y.rows y.cols) y.shiftArray.1 y.shiftArray.2 := work.trans (if_neg stream)
    have run : d.workQuantize p = e.endQuantize p x segs := by
      rw [Dev.workQuantize_sound sound read spread cut result, if_neg stream, ← own, Dev.conclude_noted d p _ done, noted]
    rw [run]
    exact ⟨q, ends, mem, cache, fun k => absurd k stream⟩

end Sys2Proof.Machine
end

section
/-! SUPPORT. O49: QUANTIZE, widening pairs, re-runs and DEQUANTIZE (09). -/

namespace Sys2Proof.Machine

/-- The writes of a QUANTIZE reach memory that takes its rows and its shifts. -/
theorem Mio.From.quantWork {d : Dev} {m : Mio} (going : m.From d) {p : Place} {out fmt : Nat} {h : Int} {x y : Mat}
    (result : y = quantMat fmt x (quantRows out h x)) (can : (p.op.ref 2).kind = 1 ∨ d.Calm ∧
      (∀ k, k < y.rows → d.Writes p.ctxIx ((p.op.ref 2).addr + k * rowBytes y.fmt y.cols) (rowBytes y.fmt y.cols)) ∧
      d.Writes p.ctxIx (shiftBase (p.op.ref 2).addr y.fmt y.rows y.cols) (y.rows * ceilDiv y.cols 64)) : (d.quantWork p m y).From d := by
  unfold Dev.quantWork
  rcases can with stream | ⟨calm, rows, shifts⟩
  · rwa [if_pos stream]
  · split
    · exact going
    · exact (going.written (result ▸ quantMat_full out fmt h x) rfl calm rows).write _ _ _ _ _ calm (length_shiftArray y ▸ shifts)

/-- Settles the clause of O49 about QUANTIZE. -/
theorem quantize_done {s : State} {i : Nat} {d : Dev} {p : Place} {r : Mio × Mat} {x y : Mat} {segs : List (List (Option SegOut))} {m : Mio}
    (enters : s.dev.enters i (·.opcode == 0x4A) = some (d, p)) (fed : p.inputsReady = true) (sound : p.failed = [])
    (read : r = (d.io p).source (d.agent p) p 0 (d.elementCore p))
    (spread : x = { r.2 with poison := (List.range r.2.rows).map fun i => (List.range r.2.blocks).map fun _ => r.2.rowPoison i })
    (cut : segs = quantRows (p.op.fld 4 3 1) (sbyte (p.op.fld 4 0 1)) x) (result : y = quantMat (p.op.fld 4 3 1) x segs) (work : m = d.quantWork p r.1 y)
    (can : m.done ∨ d.Supplies p 0 ∧ ((p.op.ref 2).kind = 1 ∨ d.Calm ∧
      (∀ k, k < (p.op.shape 2).1 → d.Writes p.ctxIx ((p.op.ref 2).addr + k * rowBytes y.fmt (p.op.shape 2).2.1) (rowBytes y.fmt (p.op.shape 2).2.1)) ∧
      d.Writes p.ctxIx (shiftBase (p.op.ref 2).addr y.fmt (p.op.shape 2).1 (p.op.shape 2).2.1) ((p.op.shape 2).1 * ceilDiv (p.op.shape 2).2.1 64))) :
    d.WorkOnly m.dev ∧ p.id = i ∧ ∃ t q, exec (.quantize i) s = .next t ∧ d.QuantEnds t.dev p x segs q ∧ t.dev.mem = m.dev.mem ∧ t.dev.cache = m.dev.cache ∧
      ((p.op.ref 2).kind = 1 → ∀ a, (a ∈ y.tiles (p.op.ref 2).addr p.op.seqBase 2 ∨ a ∈ y.scaleTiles (p.op.ref 2).addr p.op.seqBase) →
        a ∈ q.unsent ∨ ∃ g ∈ t.dev.routes, ∃ z ∈ g.queue, z.tile = a) := by
  have op := beq_iff_eq.1 (Dev.enters_sel enters).1
  obtain ⟨here, rfl⟩ := Dev.enters_place enters
  have done : m.done := by
    refine can.elim (fun done => done) fun ⟨supplies, dest⟩ => ?_
    have size : (r.2.rows, r.2.cols, r.2.fmt) = p.op.shape 0 := read ▸ (d.io p).source_size _ _ _ _
    obtain ⟨source, shape⟩ := OpWord.shape_quantize (.inl op)
    rw [source, Prod.mk.injEq, Prod.mk.injEq] at size
    obtain ⟨rows, cols, -⟩ := size
    have high : y.rows = (p.op.shape 2).1 := by rw [result, shape]; exact (congrArg Mat.rows spread).trans rows
    have wide : y.cols = (p.op.shape 2).2.1 := by rw [result, shape]; exact (congrArg Mat.cols spread).trans cols
    rw [← high, ← wide] at dest
    exact work ▸ (Mio.From.quantWork (read ▸ (d.io_from p).source _ rfl supplies) (cut ▸ result) dest).done
  obtain ⟨only, q, ends, mem, cache, sent⟩ := Dev.quantize_done here sound read spread cut result work done
  exact ⟨only, rfl, { s with dev := d.workQuantize p }, q, exec_fed enters fed _, ends, mem, cache, sent⟩

/-- Settles the clause of O49 about the first pass of a widening pair's partner (R321). -/
theorem firstPass_keeps {s : State} {c : Instr} {d : Dev} {p : Place} {r : Mio × Factors} {m : Mio} {x : List (List OutElem) × Mat} (enters : s.Enters c d p)
    (op : p.op.opcode = 0x40 ∨ p.op.opcode = 0x41) (pair : p.partner ≠ none) (first : p.result = none) (read : r = d.readFactors p)
    (kept : m = { r.1 with dev := r.1.dev.setParts p r.2 }) (result : x = d.product p r.2) (can : m.done ∨ d.Supplies p 0 ∧ d.Supplies p 1) :
    ∃ t q, exec c s = .next t ∧ t.dev.place p.id = some q ∧ q.phase = p.phase ∧ q.status = p.status ∧
      q.result = some ⟨x.2.codes, x.2.poison⟩ ∧ p.Shows q x.1 ∧ t.dev.routes = d.routes ∧ t.dev.mem = m.dev.mem ∧ t.dev.rings = d.rings := by
  obtain ⟨here, run⟩ := enters.runs
  have work : d.WorkOnly r.1.dev := read ▸ d.readFactors_work p
  obtain ⟨cores, only⟩ := r.1.dev.setParts_coresOnly p r.2
  have done : m.done := by
    rcases can with done | ⟨a, b⟩
    · exact done
    · rw [kept]; exact (read ▸ Dev.readFactors_from a b : r.1.From d).done
  have device : m.dev = { r.1.dev with cores := cores } := by rw [kept]; exact only
  have there : m.dev.place p.id = some p := by rw [device]; exact (work.place _).trans here
  have runs : d.coreWork p = (m.dev.updPlace p.id (Place.noted · m)).updPlace p.id fun q =>
      { q.noteElems x.1 with result := some ⟨x.2.codes, x.2.poison⟩ } := by
    have pass : d.coreWork p = d.firstPass p := by
      unfold Dev.coreWork Dev.workMatmul
      rcases op with op | op
      · simp only [op, first, Option.isSome_iff_ne_none.2 pair, if_true]
      · simp only [op, first, Option.isSome_iff_ne_none.2 pair, if_true]
    have concludes : d.firstPass p = d.conclude p m fun d => d.updPlace p.id fun q => { q.noteElems x.1 with result := some ⟨x.2.codes, x.2.poison⟩ } := by
      rw [result, kept, read]; rfl
    rw [pass, concludes]
    exact Dev.conclude_noted d p _ done
  refine ⟨_, _, run.trans (State.next_dev runs), Dev.place_upd_again (fun q => { q.noteElems x.1 with result := some ⟨x.2.codes, x.2.poison⟩ })
    (Dev.place_upd_again (Place.noted · m) there fun _ => rfl) fun _ => rfl, rfl, rfl, rfl, ⟨rfl, rfl, rfl, rfl⟩, ?_, rfl, ?_⟩
  · dsimp only [Dev.updPlace]; rw [device]; exact work.routes
  · dsimp only [Dev.updPlace]; rw [device]; exact work.rings

/-- Settles the clause of O49 about the result that a partner keeps and sends (R321). -/
theorem kept_sent {s : State} {c : Instr} {d : Dev} {p : Place} {k : KeptResult} (enters : s.Enters c d p) (op : p.op.opcode = 0x40 ∨ p.op.opcode = 0x41)
    (pair : p.partner ≠ none) (second : p.result = some k) :
    (d.pairOpen p = true ∨ 0 < p.exceeded → exec c s = .next { s with dev := d }) ∧
    (∀ (x : Mat) (m : Mio), d.pairOpen p = false → p.exceeded = 0 → m = { dev := d } →
      x = ⟨p.op.fld 4 6 1, p.op.fld 3 0 4, p.op.fld 4 0 4, k.codes, [], k.poison⟩ →
      m.delivers (p.op.ref 2) (m.written d p 2 x) ∨ (∀ r, r < x.rows → (x.codes.getD r []).length = x.cols) ∧ d.Accepts p 2 →
      ∃ t q, exec c s = .next t ∧ Delivered m p 2 x (m.written d p 2 x) t.dev q ∧ q.result = none ∧ q.offender = p.offender) := by
  obtain ⟨here, run⟩ := enters.runs
  have runs : d.coreWork p = if (d.pairOpen p || decide (0 < p.exceeded)) = true then d else d.sendKept p k := by
    unfold Dev.coreWork Dev.workMatmul
    rcases op with op | op
    · simp only [op, second, Option.isSome_iff_ne_none.2 pair, if_true]
    · simp only [op, second, Option.isSome_iff_ne_none.2 pair, if_true]
  refine ⟨fun waits => run.trans (State.next_dev (runs.trans (if_pos ?_))), fun x m closed within start result can => ?_⟩
  · simpa using waits
  · have delivers : m.delivers (p.op.ref 2) (m.written d p 2 x) := by
      rcases can with can | ⟨full, accepts⟩
      · exact can
      · refine Mio.From.accepted (start ▸ d.from) full ?_ accepts
        rw [OpWord.shape_product op, result]
    obtain ⟨e, q, n, sends, delivered, eq⟩ := Dev.deliver_done (d := d) (q := p) (f := fun q => { q with result := none }) (by rw [start]; exact here) rfl rfl delivers
      fun _ => ⟨rfl, rfl, rfl, rfl⟩
    refine ⟨{ s with dev := e }, q, run.trans (State.next_dev ((runs.trans (if_neg (by simp [closed, within]))).trans ?_)), delivered, by rw [eq]; rfl, by rw [eq]; rfl⟩
    rw [← sends, start, result]
    rfl

/-- Settles the clause of O49 about the re-run of a widening pair (R322). -/
theorem rerun_sends {s : State} {i : Nat} {d : Dev} {p : Place} {b : Mio × (Nat → Mat)} {m : Mio} {f : Factors} {x : List (List OutElem) × Mat}
    (enters : s.dev.enters i (fun o => o.opcode == 0x40 || o.opcode == 0x41) = some (d, p)) (fed : p.inputsReady = true) (closed : d.pairOpen p = false)
    (beyond : p.exceeded ≠ 0) (second : p.result ≠ none) (read : b = ({ dev := d } : Mio).readB (d.agent p) p)
    (factors : f = { a := fun _ => p.keptMat, b := b.2, bf := true }) (kept : m = { b.1 with dev := b.1.dev.setParts p f }) (result : x = d.product p f)
    (can : m.delivers (p.op.ref 2) (m.written d p 2 x.2) ∨ d.Supplies p 1 ∧ d.Accepts p 2) :
    ∃ t q, exec (.wideningRerun i) s = .next t ∧ Delivered m p 2 x.2 (m.written d p 2 x.2) t.dev q ∧ q.flags.widened = true ∧ q.kept = [] ∧
      q.result = none ∧ q.offender = (p.offender <|> offenderOf x.1) := by
  have op : p.op.opcode = 0x40 ∨ p.op.opcode = 0x41 := by simpa using (Dev.enters_sel enters).1
  have here := (Dev.enters_place enters).1
  rw [← (Dev.enters_place enters).2] at here
  have work : d.WorkOnly b.1.dev := read ▸ Mio.work_readB { dev := d } _ _
  obtain ⟨cores, only⟩ := b.1.dev.setParts_coresOnly p f
  have there : m.dev.place p.id = some p := by rw [kept]; dsimp only; rw [only]; exact (work.place _).trans here
  obtain ⟨rows, cols, fmt, full⟩ := d.elemsOut_size p (p.op.fld 3 0 4) (p.op.fld 4 0 4) (p.op.fld 4 6 1)
    (fun i j => (d.poisonOf p f).1.getD i false || (d.poisonOf p f).2.getD j false) (d.dotAt p f)
  have delivers : m.delivers (p.op.ref 2) (m.written d p 2 x.2) := by
    rcases can with can | ⟨supplies, accepts⟩
    · exact can
    · have start : b.1.From d := read ▸ d.from.readB rfl supplies
      have going : m.From d := by rw [kept]; exact start.setDev (by rw [only]) (by rw [only])
      refine going.accepted (result ▸ full) ?_ accepts
      rw [result]; unfold Dev.product; dsimp only
      rw [rows, cols, fmt, OpWord.shape_product op]
  have keeps : Keeps fun q => { q.noteElems x.1 with flags := { (q.noteElems x.1).flags with widened := true }, kept := [], result := none } :=
    Keeps.noteElems x.1 (f := fun q => { q with flags := { q.flags with widened := true }, kept := [], result := none }) fun _ => ⟨rfl, rfl, rfl, rfl⟩
  obtain ⟨e, q, n, sends, delivered, eq⟩ := Dev.deliver_done (d := d) there rfl rfl delivers keeps
  refine ⟨{ s with dev := e }, q, (exec_fed enters fed _).trans (State.next_dev ?_), delivered, by rw [eq]; rfl, by rw [eq]; rfl, by rw [eq]; rfl, by rw [eq]; rfl⟩
  unfold Dev.workRerun
  rw [if_neg (by simp [closed, beyond, second]), ← sends, result, kept, ← read, factors]
  rfl

/-- A quantised matrix in memory is read whole where its rows and its shift array can be (R327). -/
theorem Mio.From.readQuantised {d : Dev} {m : Mio} (going : m.From d) {g : Agent} {p : Place} (ctx : g.ctx = p.ctxIx) (calm : d.Calm)
    (rows : ∀ r, r < (p.op.shape 0).1 → d.Feeds p 0 (r * rowBytes (p.op.shape 0).2.2 (p.op.shape 0).2.1) (rowBytes (p.op.shape 0).2.2 (p.op.shape 0).2.1))
    (shifts : d.Feeds p 0 (shiftBase 0 (p.op.shape 0).2.2 (p.op.shape 0).1 (p.op.shape 0).2.1) ((p.op.shape 0).1 * ceilDiv (p.op.shape 0).2.1 64)) :
    (m.readQuantised g p).1.From d := by
  have data : (m.readMat g p 0 (rowBytes (p.op.shape 0).2.2 (p.op.shape 0).2.1) (p.op.shape 0).1 (p.op.shape 0).2.1 (p.op.shape 0).2.2).1.From d :=
    going.smooth (m.readMat_smooth _ _ _ _ _ _ _ ctx (going.calm calm) going.done.1 going.done.2.2 fun i hi => going.feeds calm (rows i hi))
  exact data.readOperand g 0 _ _ ctx calm shifts

theorem Mio.work_readQuantised (m : Mio) (g : Agent) (p : Place) : m.dev.WorkOnly (m.readQuantised g p).1.dev :=
  (m.work_readMat g p _ _ _ _ _).trans (Mio.work_readOperand _ g p _ _ _)

theorem Mio.readQuantised_size (m : Mio) (g : Agent) (p : Place) :
    (m.readQuantised g p).2.rows = (p.op.shape 0).1 ∧ (m.readQuantised g p).2.cols = (p.op.shape 0).2.1 :=
  ⟨(m.readMat_size g p 0 _ _ _ _).1, rfl⟩

/-- A DEQUANTIZE marks no element INVALID. -/
theorem dequantElement_valid (out : Nat) (v : Num) : (dequantElement out v).invalid = none := by
  unfold dequantElement
  split <;> rfl

/-- The source of a DEQUANTIZE: a quantised matrix in memory or in the payload, else as any other. -/
def Dev.dequantSource (d : Dev) (p : Place) : Mio × Mat :=
  if paysFor p.payload 0 || (p.op.ref 0).kind == 0 then (d.io p).readQuantised (d.agent p) p else (d.io p).source (d.agent p) p 0 (d.elementCore p)

theorem Dev.dequantSource_work (d : Dev) (p : Place) : d.WorkOnly (d.dequantSource p).1.dev := by
  unfold Dev.dequantSource
  split
  · exact (d.work_io p).trans (Mio.work_readQuantised _ _ _)
  · exact (d.work_io p).trans (Mio.work_source _ _ _ _ _)

theorem Dev.dequantSource_size (d : Dev) (p : Place) : (d.dequantSource p).2.rows = (p.op.shape 0).1 ∧ (d.dequantSource p).2.cols = (p.op.shape 0).2.1 := by
  unfold Dev.dequantSource
  split
  · exact Mio.readQuantised_size _ _ _
  · have size := (d.io p).source_size (d.agent p) p 0 (d.elementCore p)
    exact ⟨congrArg (·.1) size, congrArg (·.2.1) size⟩

theorem Dev.dequantSource_from {d : Dev} {p : Place} (supplies : d.Supplies p 0)
    (shifts : (p.inPads 0 = false ∧ (paysFor p.payload 0 = true ∨ (p.op.ref 0).kind = 0)) →
      d.Feeds p 0 (shiftBase 0 (p.op.shape 0).2.2 (p.op.shape 0).1 (p.op.shape 0).2.1) ((p.op.shape 0).1 * ceilDiv (p.op.shape 0).2.1 64)) :
    (d.dequantSource p).1.From d := by
  unfold Dev.dequantSource
  split
  · rename_i stored
    have stored : paysFor p.payload 0 = true ∨ (p.op.ref 0).kind = 0 := by simpa using stored
    have away : p.inPads 0 = false := by
      unfold Place.inPads
      rcases stored with pays | memory
      · simp [pays]
      · simp [memory]
    rcases supplies with pads | ⟨unpaid, stream⟩ | ⟨calm, rows⟩
    · rw [away] at pads; cases pads
    · rcases stored with pays | memory
      · rw [unpaid] at pays; cases pays
      · rw [stream] at memory; cases memory
    · exact (d.io_from p).readQuantised rfl calm rows (shifts ⟨away, stored⟩)
  · exact (d.io_from p).source _ rfl supplies

/-- Settles the clause of O49 about DEQUANTIZE (R328). -/
theorem dequantize_delivered {s : State} {c : Instr} {d : Dev} {p : Place} {r : Mio × Mat} {x : List (List OutElem) × Mat} (enters : s.Enters c d p)
    (op : p.op.opcode = 0x4B) (read : r = d.dequantSource p)
    (result : x = d.elemsOut p r.2.rows r.2.cols (p.op.fld 4 3 1) (fun i _ => r.2.rowPoison i) (fun i j => dequantElement (p.op.fld 4 3 1) (r.2.elem i j).value))
    (can : r.1.delivers (p.op.ref 2) (r.1.written d p 2 x.2) ∨ d.Supplies p 0 ∧ d.Accepts p 2 ∧
      ((p.inPads 0 = false ∧ (paysFor p.payload 0 = true ∨ (p.op.ref 0).kind = 0)) →
        d.Feeds p 0 (shiftBase 0 (p.op.shape 0).2.2 (p.op.shape 0).1 (p.op.shape 0).2.1) ((p.op.shape 0).1 * ceilDiv (p.op.shape 0).2.1 64))) :
    d.WorkOnly r.1.dev ∧ ∃ t q, exec c s = .next t ∧ Delivered r.1 p 2 x.2 (r.1.written d p 2 x.2) t.dev q ∧
      q.flags.overflow = (p.flags.overflow || (flagsOf x.1).overflow) ∧ q.flags.invalid = p.flags.invalid := by
  have work : d.WorkOnly r.1.dev := read ▸ d.dequantSource_work p
  obtain ⟨rows, cols⟩ : r.2.rows = (p.op.shape 0).1 ∧ r.2.cols = (p.op.shape 0).2.1 := read ▸ d.dequantSource_size p
  obtain ⟨high, wide, fmt, full⟩ := d.elemsOut_size p r.2.rows r.2.cols (p.op.fld 4 3 1) (fun i _ => r.2.rowPoison i)
    (fun i j => dequantElement (p.op.fld 4 3 1) (r.2.elem i j).value)
  have runs : d.coreWork p = d.deliver p r.1 2 x.2 fun q => q.noteElems x.1 := by
    unfold Dev.coreWork
    simp only [op]
    rw [result, read]
    rfl
  have delivers : r.1.delivers (p.op.ref 2) (r.1.written d p 2 x.2) := by
    rcases can with can | ⟨supplies, accepts, shifts⟩
    · exact can
    · have going : r.1.From d := read ▸ Dev.dequantSource_from supplies shifts
      obtain ⟨source, dest⟩ := OpWord.shape_quantize (.inr op)
      exact going.accepted (result ▸ full) (by rw [result, high, wide, fmt, rows, cols, dest, source]) accepts
  obtain ⟨t, q, run, delivered, shows⟩ := elements_delivered enters work runs delivers
  have valid : (flagsOf x.1).invalid = false := by
    rw [result]
    unfold flagsOf Dev.elemsOut elemsOf
    simp only [List.any_map, List.any_eq_false, Function.comp, List.any_eq_true, not_exists, not_and]
    intro i _ j _
    split
    · simp
    · simp [dequantElement_valid]
  exact ⟨work, t, q, run, delivered, shows.overflow, by rw [shows.invalid, valid, Bool.or_false]⟩

/-- Settles O49: a QUANTIZE, a first pass, a kept result, a re-run and a DEQUANTIZE each end as one delivery of what they computed. -/
theorem quantisation : Obligations.Quantisation := by
  unfold Obligations.Quantisation
  refine ⟨fun s i d p r x y segs gs m enters fed sound read spread cut segments result work can => ?quantize,
    fun y stream base k t u data scale => Mat.scaleTile_beside data scale,
    fun m k e e' s x q hm hk hx hq least => ?least,
    fun out h xs m s0 s1 most least capped => quantSegment_spec most least capped,
    quantCode_clamped,
    fun s c d p r m x enters op pair first read kept result can => firstPass_keeps enters op pair first read kept result can,
    fun s c d p k enters op pair second => kept_sent enters op pair second,
    fun s i d p b m f x enters fed closed beyond second read factors kept result can =>
      rerun_sends enters fed closed beyond second read factors kept (result.trans ?product) can,
    fun s c d p r x enters op read result can => dequantize_delivered enters op read result can⟩
  case quantize =>
    obtain ⟨only, rfl, t, q, run, ends, mem, cache, sent⟩ := quantize_done enters fed sound read spread cut result work can
    have flags := ends.flags
    refine ⟨only, t, q, run, ends.place, ends.finished, ends.status, ?_, ?_, ?_, ?_, ends.offender, segments ▸ ends.ring, ends.rings, mem, cache,
      fun a ts us stream hts hus listed => ?_, fun k u partner other there => segments ▸ ends.partner k u partner other there⟩
    · rw [flags, segments]; simp [Flags.or, quantFlags]
    · rw [flags, segments]; simp [Flags.or, quantFlags, Bool.or_assoc]
    · rw [flags, segments]; simp [Flags.or, quantFlags]
    · rw [flags]; simp [Flags.or, quantFlags]
    · rw [hts, hus] at listed
      exact sent stream a listed
  case least =>
    rw [hx, hq] at least
    rw [hx, hq, least]
    exact leastShift_spec e e' hm hk
  case product =>
    rw [factors]
    rfl

end Sys2Proof.Machine
end

section
/-! SUPPORT. Stored graphs and the bodies of launches (03, 04, R108 to R114). -/

namespace Sys2Proof.Machine

/-! ## Versions -/

/-- Freeing versions changes a seat's graphs, and nothing else. -/
theorem Dev.pruneGraphs_seat (d : Dev) (n k : Nat) : ((d.pruneGraphs n).seat k) = { d.seat k with graphs := ((d.pruneGraphs n).seat k).graphs } := by
  unfold Dev.pruneGraphs
  rw [Dev.seat_updSeat]
  split
  · rename_i same; rw [same]
  · rfl

theorem Dev.pruneGraphs_rest (d : Dev) (n : Nat) : ∃ s, d.pruneGraphs n = { d with seats := s } := ⟨_, rfl⟩

/-- What freeing versions keeps of the graphs that it had, in a seat. -/
theorem Dev.mem_pruneGraphs {d : Dev} {n : Nat} {g : Graph} : g ∈ ((d.pruneGraphs n).seat n).graphs ↔ g ∈ (d.seat n).graphs ∧
    ((g.live && !(d.seat n).graphs.any fun h => h.graph == g.graph && decide (g.version < h.version) && h.since != d.slow)
      || d.board.any fun p => p.seat == n && p.pinned == some (g.graph, g.version)) = true := by
  unfold Dev.pruneGraphs
  rw [Dev.seat_updSeat, if_pos rfl]
  exact List.mem_filter

/-- The version that a PUBLISH makes as it retires. -/
def Dev.newVersion (d : Dev) (p : Place) : Graph :=
  ⟨p.op.fld 0 0 2, (d.seat p.seat).graphCount.get 0 (p.op.fld 0 0 2) + 1, p.body.map fun o => (o.op, o.payload), p.op.fld 2 0 4, true, d.slow⟩

/-- A version newer than all of its graph is the newest after its PUBLISH (R109). -/
theorem Dev.publish_spec {d : Dev} {p : Place} {v : Nat} (next : v = (d.seat p.seat).graphCount.get 0 (p.op.fld 0 0 2) + 1)
    (newest : ∀ h ∈ (d.seat p.seat).graphs, h.graph = p.op.fld 0 0 2 → h.version < v) :
    ((d.publish p).seat p.seat).graphCount.get 0 (p.op.fld 0 0 2) = v ∧ d.newVersion p ∈ ((d.publish p).seat p.seat).graphs := by
  obtain ⟨e, made⟩ : ∃ e, e = d.updSeat p.seat fun k => { k with
      graphCount := k.graphCount.put 0 (p.op.fld 0 0 2) v
      graphs := k.graphs ++ [d.newVersion p] } := ⟨_, rfl⟩
  have run : d.publish p = e.pruneGraphs p.seat := by rw [made, next]; rfl
  have seat : e.seat p.seat = { d.seat p.seat with
      graphCount := (d.seat p.seat).graphCount.put 0 (p.op.fld 0 0 2) v
      graphs := (d.seat p.seat).graphs ++ [d.newVersion p] } := by rw [made, Dev.seat_updSeat, if_pos rfl]
  have own : (d.newVersion p).version = v := next.symm
  rw [run]
  constructor
  · rw [Dev.pruneGraphs_seat, seat]
    exact SMap.get_put_same
  · refine Dev.mem_pruneGraphs.2 ⟨by rw [seat]; simp, ?_⟩
    have top : ((e.seat p.seat).graphs.any fun h => h.graph == (d.newVersion p).graph && decide ((d.newVersion p).version < h.version) && h.since != e.slow) = false := by
      rw [seat]
      refine List.any_eq_false.2 fun h mem => ?_
      rcases List.mem_append.1 mem with mem | mem
      · have lower := newest h mem
        rw [own]
        simp only [Bool.and_eq_true, beq_iff_eq, decide_eq_true_eq, not_and, bne_iff_ne]
        rintro ⟨same, above⟩
        exact absurd above (Nat.not_lt.2 (lower same).le)
      · rw [List.mem_singleton.1 mem]
        simp
    rw [top]
    rfl

/-- After a RETIRE no version of its graph can be launched (R113, R114). -/
theorem Dev.retireGraph_dead {d : Dev} {p : Place} {x : Graph} (mem : x ∈ ((d.retireGraph p).seat p.seat).graphs) (own : x.graph = p.op.fld 0 0 2) :
    x.live = false := by
  have kept := (Dev.mem_pruneGraphs.1 mem).1
  rw [Dev.seat_updSeat, if_pos rfl] at kept
  obtain ⟨g, -, rfl⟩ := List.mem_map.1 kept
  split
  · rfl
  · rename_i other
    rw [if_neg other] at own
    exact absurd own other

/-- The search for the newest version of a list. -/
def newerOf (b : Option Graph) (x : Graph) : Option Graph := match b with
  | none => some x
  | some y => if y.version < x.version then some x else b

theorem newest_spec : ∀ (l : List Graph) (b : Option Graph) (x : Graph), l.foldl newerOf b = some x →
    (x ∈ l ∨ b = some x) ∧ (∀ y ∈ l, y.version ≤ x.version) ∧ ∀ y, b = some y → y.version ≤ x.version
  | [], b, x, found => ⟨.inr found, fun y mem => absurd mem List.not_mem_nil, fun y eq => by
      obtain rfl := Option.some.inj (eq.symm.trans found); exact Nat.le_refl _⟩
  | g :: l, b, x, found => by
    obtain ⟨from_, all, start⟩ := newest_spec l (newerOf b g) x found
    have cases : newerOf b g = some g ∨ newerOf b g = b := by
      unfold newerOf
      split
      · exact .inl rfl
      · split
        · exact .inl rfl
        · exact .inr rfl
    have here : ∃ y, newerOf b g = some y ∧ g.version ≤ y.version ∧ ∀ z, b = some z → z.version ≤ y.version := by
      unfold newerOf
      split
      · exact ⟨g, rfl, Nat.le_refl _, fun z eq => by cases eq⟩
      · rename_i y
        split
        · rename_i lower
          exact ⟨g, rfl, Nat.le_refl _, fun z eq => by obtain rfl := Option.some.inj eq; exact lower.le⟩
        · rename_i lower
          exact ⟨y, rfl, by omega, fun z eq => by obtain rfl := Option.some.inj eq; exact Nat.le_refl _⟩
    obtain ⟨y, picked, above, over_⟩ := here
    have bound := start y picked
    refine ⟨?_, fun z mem => ?_, fun z eq => (over_ z eq).trans bound⟩
    · rcases from_ with mem | eq
      · exact .inl (List.mem_cons_of_mem _ mem)
      · rcases cases with own | old
        · exact .inl (Option.some.inj (own.symm.trans eq) ▸ List.mem_cons_self)
        · exact .inr (old.symm.trans eq)
    · rcases List.mem_cons.1 mem with rfl | mem
      · exact above.trans bound
      · exact all z mem

/-- A launch without VERSION pins the newest version at the start of the slow cycle (R111). -/
theorem Dev.findVersion_newest {d : Dev} {n g : Nat} {x : Graph} (found : d.findVersion n g 0 = some x) : x ∈ (d.seat n).graphs ∧ x.graph = g ∧ x.live = true ∧
    x.since ≠ d.slow ∧ ∀ y ∈ (d.seat n).graphs, y.graph = g → y.live = true → y.since ≠ d.slow → y.version ≤ x.version := by
  have search : (((d.seat n).graphs.filter fun x => x.graph == g && x.live).filter (·.since != d.slow)).foldl newerOf none = some x := found
  obtain ⟨mem, all, -⟩ := newest_spec _ _ _ search
  have mem := mem.resolve_right fun eq => by cases eq
  simp only [List.mem_filter, Bool.and_eq_true, beq_iff_eq, bne_iff_ne] at mem
  obtain ⟨⟨listed, graph, live⟩, old⟩ := mem
  exact ⟨listed, graph, live, old, fun y listed graph live old => all y (by simp [listed, graph, live, old])⟩

/-- A launch with VERSION pins that version (R111). -/
theorem Dev.findVersion_exact {d : Dev} {n g v : Nat} {x : Graph} (named : v ≠ 0) (found : d.findVersion n g v = some x) :
    x ∈ (d.seat n).graphs ∧ x.graph = g ∧ x.live = true ∧ x.version = v := by
  unfold Dev.findVersion at found
  dsimp only at found
  rw [if_pos named] at found
  have mem := List.mem_of_find?_eq_some found
  have version := List.find?_some found
  simp only [List.mem_filter, Bool.and_eq_true, beq_iff_eq] at mem version
  obtain ⟨listed, graph, live⟩ := mem
  exact ⟨listed, graph, live, version⟩

/-! ## Bodies -/

/-- Places added at the end of the scoreboard leave the place of a number. -/
theorem Dev.place_append {d : Dev} {i : Nat} {p : Place} (here : d.place i = some p) (l : List Place) (n : Nat) :
    ({ d with board := d.board ++ l, nextPlace := n } : Dev).place i = some p := by
  unfold Dev.place at here ⊢
  dsimp only
  rw [List.find?_append, here]
  rfl

/-- A launch whose body is `b` has placed the first `bodyNext` of its operations, and keeps what else it was. -/
structure Place.Placing (p q : Place) (b : List BodyOp) : Prop where
  id : q.id = p.id
  phase : q.phase = p.phase
  status : q.status = p.status
  pinned : q.pinned = p.pinned
  rest : q.body = b.drop q.bodyNext
  count : q.bodyNext + q.body.length = b.length

/-- The place of number `i` is a launch placing its body, and nothing but the scoreboard has changed. -/
structure Dev.Fills (d e : Dev) (i : Nat) (p : Place) (b : List BodyOp) : Prop where
  placing : ∃ q, e.place i = some q ∧ p.Placing q b
  only : ∃ l n, e = { d with board := l, nextPlace := n }

/-- The places that a fill adds leave a launch where it was; taking `k` operations moves it on. -/
theorem Dev.Fills.step {d e : Dev} {i j : Nat} {p : Place} {b : List BodyOp} (fills : d.Fills e i p b) (l : List Place) (n k s : Nat) {q : Place}
    (found : e.place j = some q) (enough : k ≤ q.body.length) {rest : List BodyOp} (taken : rest = q.body.drop k) (f : Place → Place)
    (hf : f = fun q => { q with body := rest, bodyNext := q.bodyNext + k, bodySkip := q.bodySkip - s }) :
    d.Fills (({ e with board := e.board ++ l, nextPlace := n } : Dev).updPlace j f) i p b := by
  obtain ⟨⟨r, here, placing⟩, ⟨l', n', only⟩⟩ := fills
  refine ⟨?_, ⟨_, n, by rw [only]; rfl⟩⟩
  have keeps : ∀ q, (f q).id = q.id := fun q => by rw [hf]
  have there := Dev.place_append here l n
  by_cases same : i = j
  · subst same
    obtain rfl := Option.some.inj (here.symm.trans found)
    refine ⟨_, Dev.place_upd_again f there keeps, ?_⟩
    rw [hf]
    obtain ⟨id, phase, status, pinned, rest, count⟩ := placing
    refine ⟨id, phase, status, pinned, ?_, ?_⟩
    · dsimp only; rw [taken, rest, List.drop_drop]
    · dsimp only; rw [taken, List.length_drop]; omega
  · exact ⟨r, (Dev.updPlace_other' f keeps same).trans there, placing⟩

/-- Filling a launch's body keeps the launches of other bodies, and its own account (R112). -/
theorem Dev.Fills.fillBody {d : Dev} {i : Nat} {p : Place} {b : List BodyOp} (j : Nat) : ∀ (fuel : Nat) (e : Dev), d.Fills e i p b → d.Fills (Dev.fillBody j fuel e) i p b
  | 0, _, fills => fills
  | fuel + 1, e, fills => by
    unfold Dev.fillBody
    split
    · exact fills
    · rename_i q found
      split
      · exact fills
      · rename_i o rest body
        dsimp only
        split
        · rename_i o2 pair
          split
          · exact fills
          · have next : rest.head? = some o2 := by
              split at pair
              · exact pair
              · cases pair
            refine Dev.Fills.fillBody j fuel _ (fills.step _ _ 2 2 found ?_ ?_ _ rfl)
            · rw [body]
              cases rest with
              | nil => cases next
              | cons a t => simp
            · rw [body]; simp [List.drop_one]
        · split
          · exact fills
          · refine Dev.Fills.fillBody j fuel _ (fills.step _ _ 1 1 found ?_ ?_ _ rfl)
            · rw [body]; simp
            · rw [body]; rfl

theorem Dev.Fills.fillBodies {d e : Dev} {i : Nat} {p : Place} {b : List BodyOp} (fills : d.Fills e i p b) : d.Fills e.fillBodies i p b := by
  unfold Dev.fillBodies
  refine List.foldlRecOn (motive := fun e => d.Fills e i p b) _ _ fills fun e fills q _ => ?_
  exact Dev.Fills.fillBody q.id q.body.length e fills

/-- A launch that gets its body starts to place it (R112). -/
theorem Dev.startBody_fills {d : Dev} {p q : Place} (ops : List BodyOp) (here : d.place p.id = some q) (fresh : q.bodyNext = 0) :
    d.Fills (d.startBody p ops) p.id q ops := by
  unfold Dev.startBody
  refine Dev.Fills.fillBodies ⟨⟨_, Dev.place_upd_again (fun q => { q with body := ops, stall := .none }) here fun _ => rfl, rfl, rfl, rfl, rfl, ?_, ?_⟩, ⟨_, _, rfl⟩⟩
  · dsimp only; rw [fresh, List.drop_zero]
  · dsimp only; rw [fresh, Nat.zero_add]

/-- What a body operation's place shows of its launch (R112, R479). -/
theorem Dev.bodyPlace_spec (d : Dev) (p : Place) (o : BodyOp) (ix : Nat) (good skip : Bool) : (d.bodyPlace p o ix good skip).op = o.op ∧
    (d.bodyPlace p o ix good skip).parent = some p.id ∧ (d.bodyPlace p o ix good skip).needs = o.needs ∧
    (d.bodyPlace p o ix good skip).acquire = (p.op.opcode == 0x7F && p.op.acquires) := ⟨rfl, rfl, rfl, rfl⟩

/-- What an operation acquires: by its own flag, or by its launch's, which leaves out STREAM, KEEP and a segment default of KEEP (R97, R479). -/
theorem Dev.acquiresRef_iff (d : Dev) (p : Place) (w : Nat) : d.acquiresRef p w = true ↔ p.op.has p.payload w = true ∧ paysFor p.payload w = false ∧
    (p.op.ref w).kind = 0 ∧ (p.op.acquires = true ∨ p.acquire = true ∧ ((p.op.ref w).hint = 3 ∨ (p.op.ref w).hint = 0 ∧
      ¬ ∃ g, (d.ctx p.ctxIx).covering (p.op.ref w).addr = some g ∧ g.2.hint = 2)) := by
  have keeps : (((d.ctx p.ctxIx).covering (p.op.ref w).addr).any fun g => g.2.hint == 2) = true ↔
      ∃ g, (d.ctx p.ctxIx).covering (p.op.ref w).addr = some g ∧ g.2.hint = 2 := by
    simp [Option.any_eq_true]
  rw [← keeps]
  unfold Dev.acquiresRef
  simp [and_assoc]

/-! ## The launch's outcome (R112) -/

/-- An operation of a body comes first in body order among those that decided a field. -/
def firstIn (c : Place) (i : Option Nat) : Bool := match i with
  | none => true
  | some k => decide (c.bodyIx < k)

/-- A launch with the flags of a body operation joined. -/
def Place.joinFlags (q c : Place) : Place :=
  { q with flags := q.flags.or c.flags, excursions := q.excursions.or c.excursions, touched := c.touched.foldl (fun l x => insertAsc x l) q.touched }

/-- A launch with the status of a body operation joined. -/
def Place.joinStatus (q c : Place) : Place :=
  if c.status ≠ .ok ∧ firstIn c q.statusIx = true then { q with status := c.status, statusIx := some c.bodyIx } else q

theorem Place.absorb_eq (q c : Place) : ∃ a b e, q.absorb c = { (q.joinFlags c).joinStatus c with offender := a, offenderOp := b, offenderIx := e } := by
  have run : q.absorb c = if c.flags.invalid ∧ firstIn c ((q.joinFlags c).joinStatus c).offenderOp = true then
      { (q.joinFlags c).joinStatus c with offender := c.offender, offenderOp := some c.bodyIx, offenderIx := c.shownIx } else (q.joinFlags c).joinStatus c := rfl
  rw [run]
  split
  · exact ⟨_, _, _, rfl⟩
  · exact ⟨_, _, _, rfl⟩

theorem Place.joinStatus_rest (q c : Place) : ∃ a b, q.joinStatus c = { q with status := a, statusIx := b } := by
  unfold Place.joinStatus
  split
  · exact ⟨_, _, rfl⟩
  · exact ⟨_, _, rfl⟩

/-- The status of a launch: the first in body order that is not OK (R112). -/
theorem Place.joinStatus_spec (q c : Place) :
    (c.status ≠ .ok → q.statusIx = none → (q.joinStatus c).status = c.status ∧ (q.joinStatus c).statusIx = some c.bodyIx) ∧
    (∀ k, q.statusIx = some k → k < c.bodyIx → (q.joinStatus c).status = q.status ∧ (q.joinStatus c).statusIx = some k) ∧
    (∀ k, q.statusIx = some k → c.bodyIx < k → c.status ≠ .ok → (q.joinStatus c).status = c.status ∧ (q.joinStatus c).statusIx = some c.bodyIx) ∧
    (c.status = .ok → (q.joinStatus c).status = q.status) := by
  unfold Place.joinStatus
  refine ⟨fun bad none => ?_, fun k held after => ?_, fun k held before bad => ?_, fun ok => ?_⟩
  · rw [if_pos ⟨bad, by rw [none]; rfl⟩]; exact ⟨rfl, rfl⟩
  · have late : ¬firstIn c q.statusIx = true := by rw [held]; simp [firstIn]; omega
    rw [if_neg fun both => late both.2]
    exact ⟨rfl, held⟩
  · rw [if_pos ⟨bad, by rw [held]; simpa [firstIn] using before⟩]; exact ⟨rfl, rfl⟩
  · rw [if_neg fun both => both.1 ok]

/-- A body operation that retired joins its launch (R112). -/
theorem Place.absorb_spec (q c : Place) : (q.absorb c).flags = q.flags.or c.flags ∧ (q.absorb c).phase = q.phase ∧
    (c.status ≠ .ok → q.statusIx = none → (q.absorb c).status = c.status ∧ (q.absorb c).statusIx = some c.bodyIx) ∧
    (∀ k, q.statusIx = some k → k < c.bodyIx → (q.absorb c).status = q.status ∧ (q.absorb c).statusIx = some k) ∧
    (∀ k, q.statusIx = some k → c.bodyIx < k → c.status ≠ .ok → (q.absorb c).status = c.status ∧ (q.absorb c).statusIx = some c.bodyIx) ∧
    (c.status = .ok → (q.absorb c).status = q.status) := by
  obtain ⟨a, b, e, eq⟩ := q.absorb_eq c
  obtain ⟨s, t, rest⟩ := (q.joinFlags c).joinStatus_rest c
  rw [eq]
  exact ⟨by dsimp only; rw [rest]; rfl, by dsimp only; rw [rest]; rfl, (q.joinFlags c).joinStatus_spec c⟩

end Sys2Proof.Machine
end

section
/-! SUPPORT. O50: PUBLISH, LAUNCH, RETIRE and command buffers (R108 to R114, R164 to R166). -/

namespace Sys2Proof.Machine

/-! ## PUBLISH -/

/-- Work goes on from a device whose memory and contexts are the same. -/
theorem Dev.from_like {d e : Dev} (mem : e.mem = d.mem) (ctxs : e.ctxs = d.ctxs) (p : Place) : (e.io p).From d :=
  (d.from.setDev mem ctxs).trans (e.io_from p)

/-- Bytes in use in a graph store do not depend on what memory work a place notes. -/
theorem Dev.storeUsed_updPlace (d : Dev) (i n : Nat) {f : Place → Place} (seat : ∀ q, (f q).seat = q.seat) (op : ∀ q, (f q).op = q.op)
    (body : ∀ q, (f q).body = q.body) : (d.updPlace i f).storeUsed n = d.storeUsed n := by
  obtain ⟨g, change⟩ : ∃ g : Place → Place, g = fun p => if p.id = i then f p else p := ⟨_, rfl⟩
  have same : ∀ q, (g q).seat = q.seat ∧ (g q).op = q.op ∧ (g q).body = q.body := fun q => by
    rw [change]; dsimp only
    split
    · exact ⟨seat q, op q, body q⟩
    · exact ⟨rfl, rfl, rfl⟩
  have board : (d.updPlace i f).board = d.board.map g := by rw [change]; rfl
  unfold Dev.storeUsed
  rw [board, List.filter_map, List.map_map]
  have test : ((fun p : Place => p.seat == n && p.op.opcode == 0x7F && p.op.fld 0 2 1 == 1 && !p.body.isEmpty) ∘ g) =
      fun p : Place => p.seat == n && p.op.opcode == 0x7F && p.op.fld 0 2 1 == 1 && !p.body.isEmpty := by
    funext q
    obtain ⟨seat, op, body⟩ := same q
    simp only [Function.comp, seat, op, body]
  have bytes : ((fun p : Place => versionBytes (p.op.fld 2 0 4)) ∘ g) = fun p : Place => versionBytes (p.op.fld 2 0 4) := by
    funext q
    simp only [Function.comp, (same q).2.1]
  rw [test, bytes]
  rfl

/-- How a PUBLISH that read its body ends (R109). -/
def Dev.endPublish (d : Dev) (p : Place) (n : Nat) (b : List (OpWord × Option Payload) × Bool) : Dev :=
  if !(b.2 && (d.layout.map fun l => bodyGood l p.seat p.ring b.1).getD false) then d.updPlace p.id (·.fail .badDescriptor)
  else if (d.seatRec p.seat).store < d.storeUsed p.seat + versionBytes n then d.updPlace p.id (·.fail .noSpace)
  else d.updPlace p.id fun q => { q.finish with body := bodyOf b.1 }

/-- The three ends of a PUBLISH: refused, without space, or with its body kept. -/
theorem Dev.endPublish_spec {e : Dev} {p q : Place} {l : Layout} {n : Nat} {b : List (OpWord × Option Payload) × Bool} {good : Bool} (here : e.place p.id = some q)
    (layout : e.layout = some l) (passes : good = (b.2 && bodyGood l p.seat p.ring b.1)) :
    (∃ y x, e.endPublish p n b = { e with board := y } ∧ (e.endPublish p n b).place p.id = some x ∧ x.phase = .finished ∧
      (good = false → x.status = .badDescriptor) ∧
      (good = true → (e.seatRec p.seat).store < e.storeUsed p.seat + 64 * (n + 1) → x.status = .noSpace) ∧
      (good = true → e.storeUsed p.seat + 64 * (n + 1) ≤ (e.seatRec p.seat).store → x.status = q.status ∧ x.body = bodyOf b.1)) := by
  have check : (b.2 && (e.layout.map fun l => bodyGood l p.seat p.ring b.1).getD false) = good := by rw [layout, passes]; rfl
  have size : versionBytes n = 64 * (n + 1) := by unfold versionBytes; omega
  unfold Dev.endPublish
  rw [check, size]
  cases good with
  | false => exact ⟨_, _, rfl, Dev.place_upd_again (·.fail .badDescriptor) here fun _ => rfl, rfl, fun _ => rfl, (fun h => by cases h), fun h => by cases h⟩
  | true =>
    rw [if_neg (by simp)]
    split
    · rename_i short
      exact ⟨_, _, rfl, Dev.place_upd_again (·.fail .noSpace) here fun _ => rfl, rfl, (fun h => by cases h), fun _ _ => rfl, fun _ fits => absurd short (Nat.not_lt.2 fits)⟩
    · rename_i fits
      exact ⟨_, _, rfl, Dev.place_upd_again (fun q => { q.finish with body := bodyOf b.1 }) here fun _ => rfl, rfl, (fun h => by cases h),
        fun _ short => absurd short fits, fun _ _ => ⟨rfl, rfl⟩⟩

/-- Settles the clause of O50 about PUBLISH. -/
theorem publish_ends {s : State} {i n : Nat} {d e : Dev} {p : Place} {l : Layout} {r : Mio × List Byte × List Bool} {b : List (OpWord × Option Payload) × Bool}
    {good : Bool} (enters : s.dev.enters i (fun o => o.opcode == 0x7F && o.fld 0 2 1 == 1) = some (d, p)) (layout : d.layout = some l)
    (pruned : e = d.pruneGraphs p.seat) (size : n = p.op.fld 2 0 4) (read : r = (e.io p).readOperand (d.agent p) p 1 0 (64 * n))
    (can : r.1.done ∨ d.Calm ∧ d.Feeds p 1 0 (64 * n)) (cut : b = bodyOps n (entriesOf r.2.1)) (passes : good = (b.2 && bodyGood l p.seat p.ring b.1)) :
    ∃ t q, exec (.launchGraphPublish i) s = .next t ∧ t.dev.place i = some q ∧ q.phase = .finished ∧
      (t.dev.seat p.seat).graphs = (e.seat p.seat).graphs ∧ (t.dev.seat p.seat).graphCount = (d.seat p.seat).graphCount ∧
      t.dev.rings = d.rings ∧
      (good = false → q.status = .badDescriptor) ∧
      (good = true → (d.seatRec p.seat).store < r.1.dev.storeUsed p.seat + 64 * (n + 1) → q.status = .noSpace) ∧
      (good = true → r.1.dev.storeUsed p.seat + 64 * (n + 1) ≤ (d.seatRec p.seat).store → q.status = p.status ∧ q.body = bodyOf b.1) := by
  obtain ⟨here, rfl⟩ := Dev.enters_place enters
  obtain ⟨k, only⟩ := d.pruneGraphs_rest p.seat
  have fields : e = { d with seats := k } := pruned.trans only
  have start : (e.io p).From d := Dev.from_like (by rw [fields]) (by rw [fields]) p
  have done : r.1.done := can.elim id fun ⟨calm, feeds⟩ => (read ▸ start.readOperand _ 1 0 (64 * n) rfl calm feeds : r.1.From d).done
  have work : e.WorkOnly r.1.dev := read ▸ (e.work_io p).trans (Mio.work_readOperand _ _ _ _ _ _)
  obtain ⟨f, noted⟩ : ∃ f, f = r.1.dev.updPlace p.id (Place.noted · r.1) := ⟨_, rfl⟩
  have run : d.workPublish p = f.endPublish p n b := by
    unfold Dev.workPublish
    dsimp only
    rw [← pruned, ← size, ← read, ← cut, Dev.conclude_noted d p _ done, ← noted]
    rfl
  have there : f.place p.id = some (p.noted r.1) := by
    rw [noted]; exact Dev.place_upd_again (Place.noted · r.1) ((work.place _).trans (by rw [fields]; exact here)) fun _ => rfl
  have image : f.layout = d.layout := by rw [noted]; exact work.layout.trans (by rw [fields])
  have used : f.storeUsed p.seat = r.1.dev.storeUsed p.seat := by
    rw [noted]; exact r.1.dev.storeUsed_updPlace _ _ (fun _ => rfl) (fun _ => rfl) fun _ => rfl
  have store : f.seatRec p.seat = d.seatRec p.seat := by unfold Dev.seatRec; rw [image]
  obtain ⟨y, x, rest, place, phase, refused, crowded, kept⟩ := Dev.endPublish_spec (n := n) there (image.trans layout) passes
  have seat : (f.endPublish p n b).seat p.seat = r.1.dev.seat p.seat := by rw [rest, noted]; rfl
  obtain ⟨_, _, _, _, _, keeps⟩ := work.seat p.seat
  refine ⟨_, x, (congrArg (fun d : Dev => (Host.Outcome.next { s with dev := d } : Host.Outcome State Fault Refusal))
    ((Dev.runOp_entered enters Dev.workPublish).trans run)), place, phase, ?_, ?_, ?_, refused, ?_, ?_⟩
  · dsimp only; rw [seat, keeps]
  · dsimp only; rw [seat, keeps, pruned, Dev.pruneGraphs_seat]
  · dsimp only; rw [rest, noted]; exact work.rings.trans (by rw [fields])
  · rw [← store, ← used]; exact crowded
  · rw [← store, ← used]; exact kept

end Sys2Proof.Machine
end

section
/-! SUPPORT. O50: LAUNCH, and command buffers (R111, R112, R164 to R166). -/

namespace Sys2Proof.Machine

/-! ## LAUNCH -/

/-- A launch that has no body yet. -/
theorem Place.unloaded {p : Place} (empty : p.body = []) (fresh : p.bodyNext = 0) : p.loaded = false := by simp [Place.loaded, empty, fresh]

theorem Dev.workLaunch_none {d e : Dev} {p : Place} (fresh : p.loaded = false) (unpinned : p.pinned = none) (pruned : e = d.pruneGraphs p.seat)
    (none : e.findVersion p.seat (p.op.fld 0 0 2) (p.op.fld 0 4 4) = none) : d.workLaunch p = e.updPlace p.id (·.fail .badDescriptor) := by
  unfold Dev.workLaunch
  simp only [fresh, unpinned, ← pruned, none, Bool.false_eq_true, if_false]

theorem Dev.workLaunch_some {d e : Dev} {p : Place} {g : Graph} (fresh : p.loaded = false) (unpinned : p.pinned = none) (pruned : e = d.pruneGraphs p.seat)
    (found : e.findVersion p.seat (p.op.fld 0 0 2) (p.op.fld 0 4 4) = some g) :
    d.workLaunch p = (e.updPlace p.id fun q => { q with pinned := some (g.graph, g.version) }).launchBody p g := by
  unfold Dev.workLaunch
  simp only [fresh, unpinned, ← pruned, found, Bool.false_eq_true, if_false]

/-- The arguments that a launch reads (R111). -/
def Dev.readArgs (d : Dev) (p : Place) (n : Nat) : Mio × List Byte × List Bool :=
  if n = 0 then (({ dev := d } : Mio), ([], [])) else (d.io p).readOperand (d.agent p) p 1 0 (8 * n)

theorem Dev.readArgs_work (d : Dev) (p : Place) (n : Nat) : d.WorkOnly (d.readArgs p n).1.dev := by
  unfold Dev.readArgs
  split
  · exact .refl _
  · exact (d.work_io p).trans (Mio.work_readOperand _ _ _ _ _ _)

theorem Dev.readArgs_from {d e : Dev} (mem : e.mem = d.mem) (ctxs : e.ctxs = d.ctxs) {p : Place} {n : Nat} (can : n = 0 ∨ d.Calm ∧ d.Feeds p 1 0 (8 * n)) :
    (e.readArgs p n).1.From d := by
  unfold Dev.readArgs
  split
  · exact d.from.setDev mem ctxs
  · rename_i some
    obtain ⟨calm, feeds⟩ := can.resolve_left some
    exact (Dev.from_like mem ctxs p).readOperand _ 1 0 _ rfl calm feeds

/-- A launch whose arguments were read ends, or starts its body. -/
def Dev.endLaunch (d : Dev) (p : Place) (g : Graph) (n : Nat) (args : List Nat) : Dev :=
  if g.body.any fun o => (o.1.argRefs o.2).any fun w => decide (n ≤ (o.1.ref w).addr) then
    d.updPlace p.id fun q => { q.fail .badDescriptor with pinned := none }
  else d.startBody p (bodyOf (g.body.map fun o => (o.1.substArgs o.2 args, o.2)))

theorem length_bodyOf (ops : List (OpWord × Option Payload)) : (bodyOf ops).length = ops.length := by simp [bodyOf]

/-- The device on which a launch whose arguments were read ends. -/
theorem Dev.launchBody_done {d f : Dev} {p q : Place} {g : Graph} {n : Nat} {r : Mio × List Byte × List Bool} {args : List Nat} (here : f.place p.id = some q)
    (rings : f.rings = d.rings) (size : n = p.op.fld 2 0 4) (read : r = f.readArgs p n) (done : r.1.done)
    (words : args = (List.range n).map fun k => field r.2.1 (8 * k) 8) :
    ∃ z : Dev, f.launchBody p g = z.endLaunch p g n args ∧ z.place p.id = some (q.noted r.1) ∧ z.board.length = f.board.length ∧ z.rings = d.rings ∧
      z.mem = r.1.dev.mem := by
  have work : f.WorkOnly r.1.dev := read ▸ f.readArgs_work p n
  refine ⟨r.1.dev.updPlace p.id (Place.noted · r.1), ?_, Dev.place_upd_again (Place.noted · r.1) ((work.place _).trans here) fun _ => rfl, ?_,
    work.rings.trans rings, rfl⟩
  · have concludes : f.launchBody p g = f.conclude p r.1 fun d => d.endLaunch p g n args := by rw [words, read, size]; rfl
    rw [concludes, Dev.conclude_noted f p _ done]
  · dsimp only [Dev.updPlace]
    rw [List.length_map, work.board]

/-- Settles the clause of O50 about LAUNCH. -/
theorem launch_runs {s : State} {i : Nat} {d e : Dev} {p : Place} (enters : s.dev.enters i (fun o => o.opcode == 0x7F && o.fld 0 2 1 == 0) = some (d, p))
    (empty : p.body = []) (start : p.bodyNext = 0) (unpinned : p.pinned = none) (pruned : e = d.pruneGraphs p.seat) :
    (e.findVersion p.seat (p.op.fld 0 0 2) (p.op.fld 0 4 4) = none →
      exec (.launchGraphLaunch i) s = .next { s with dev := e.updPlace i (·.fail .badDescriptor) }) ∧
    (∀ (g : Graph) (n : Nat) (f : Dev) (r : Mio × List Byte × List Bool) (args : List Nat),
      e.findVersion p.seat (p.op.fld 0 0 2) (p.op.fld 0 4 4) = some g → n = p.op.fld 2 0 4 →
      f = e.updPlace i (fun q => { q with pinned := some (g.graph, g.version) }) → r = f.readArgs p n →
      r.1.done ∨ n = 0 ∨ d.Calm ∧ d.Feeds p 1 0 (8 * n) → args = (List.range n).map (fun k => field r.2.1 (8 * k) 8) →
      ((∃ o ∈ g.body, ∃ w ∈ o.1.argRefs o.2, n ≤ (o.1.ref w).addr) →
        ∃ t q, exec (.launchGraphLaunch i) s = .next t ∧ t.dev.place i = some q ∧ q.phase = .finished ∧ q.status = .badDescriptor ∧
          q.pinned = none ∧ t.dev.board.length = d.board.length) ∧
      ((∀ o ∈ g.body, ∀ w ∈ o.1.argRefs o.2, (o.1.ref w).addr < n) → p.phase = .running →
        ∃ t q, exec (.launchGraphLaunch i) s = .next t ∧ t.dev.place i = some q ∧ q.phase = .running ∧ q.status = p.status ∧
          q.pinned = some (g.graph, g.version) ∧ q.bodyNext + q.body.length = g.body.length ∧ t.dev.rings = d.rings ∧
          q.body = (bodyOf (g.body.map fun o => (o.1.substArgs o.2 args, o.2))).drop q.bodyNext ∧ t.dev.mem = r.1.dev.mem)) := by
  obtain ⟨here, rfl⟩ := Dev.enters_place enters
  have fresh := Place.unloaded empty start
  have answer : ∀ z, d.workLaunch p = z → exec (.launchGraphLaunch p.id) s = .next { s with dev := z } := fun z eq =>
    congrArg (fun d : Dev => (Host.Outcome.next { s with dev := d } : Host.Outcome State Fault Refusal)) ((Dev.runOp_entered enters Dev.workLaunch).trans eq)
  obtain ⟨k, only⟩ := d.pruneGraphs_rest p.seat
  have fields : e = { d with seats := k } := pruned.trans only
  refine ⟨fun none => answer _ (Dev.workLaunch_none fresh unpinned pruned none), fun g n f r args found size pin read can words => ?_⟩
  have launched : d.workLaunch p = f.launchBody p g := by rw [Dev.workLaunch_some fresh unpinned pruned found, pin]
  have there : f.place p.id = some { p with pinned := some (g.graph, g.version) } := by
    rw [pin, fields]; exact Dev.place_upd_of (fun q => { q with pinned := some (g.graph, g.version) }) rfl here fun _ => rfl
  have done : r.1.done := can.elim id fun can => (read ▸ Dev.readArgs_from (by rw [pin, fields]; rfl) (by rw [pin, fields]; rfl) can : r.1.From d).done
  obtain ⟨z, ends, place, board, rings, mem⟩ := Dev.launchBody_done (d := d) (g := g) there (by rw [pin, fields]; rfl) size read done words
  have length : z.board.length = d.board.length := board.trans (by rw [pin, fields]; exact List.length_map _)
  constructor
  · rintro ⟨o, listed, w, ref, beyond⟩
    have bad : (g.body.any fun o => (o.1.argRefs o.2).any fun w => decide (n ≤ (o.1.ref w).addr)) = true :=
      List.any_eq_true.2 ⟨o, listed, List.any_eq_true.2 ⟨w, ref, decide_eq_true beyond⟩⟩
    refine ⟨_, _, answer _ ((launched.trans ends).trans (if_pos bad)), Dev.place_upd_again (fun q => { q.fail .badDescriptor with pinned := none }) place fun _ => rfl,
      rfl, rfl, rfl, ?_⟩
    dsimp only [Dev.updPlace]
    rw [List.length_map, length]
  · intro good running
    have fine : ¬(g.body.any fun o => (o.1.argRefs o.2).any fun w => decide (n ≤ (o.1.ref w).addr)) = true := by
      simp only [List.any_eq_true, decide_eq_true_eq, not_exists, not_and, Nat.not_le]
      exact fun o listed w ref => good o listed w ref
    obtain ⟨⟨q, found, placing⟩, ⟨l, m, rest⟩⟩ := Dev.startBody_fills (d := z) (p := p) (bodyOf (g.body.map fun o => (o.1.substArgs o.2 args, o.2))) place start
    refine ⟨_, q, answer _ ((launched.trans ends).trans (if_neg fine)), found, placing.phase.trans running, placing.status, placing.pinned, ?_, ?_, placing.rest, ?_⟩
    · rw [placing.count, length_bodyOf, List.length_map]
    · dsimp only; rw [rest]; exact rings
    · dsimp only; rw [rest]; exact mem

/-! ## Command buffers -/

/-- Settles the clause of O50 about the start of a command buffer. -/
theorem cmdbuf_starts {s : State} {i : Nat} {d : Dev} {p : Place} (enters : s.dev.enters i (·.opcode == 0x7E) = some (d, p)) (empty : p.body = [])
    (start : p.bodyNext = 0) : ∃ t q, exec (.runCmdbuf i) s = .next t ∧ t.dev.place i = some q ∧ q.phase = p.phase ∧ q.stall = .cmdbuf ∧ t.dev.mem = d.mem ∧
      t.dev.rings = d.rings := by
  obtain ⟨here, rfl⟩ := Dev.enters_place enters
  obtain ⟨place, x, rest⟩ := d.stallPlace_spec p .cmdbuf p here
  have runs : d.workCmdbuf p = d.stallPlace p .cmdbuf := if_neg (by simp [Place.unloaded empty start])
  refine ⟨_, _, exec_of_enters enters runs, place, rfl, rfl, ?_, ?_⟩
  · dsimp only; rw [rest]
  · dsimp only; rw [rest]

/-- RESULT of a buffer (R164). -/
def cmdbufResult (ops : Except Nat (List BodyOp)) : Nat := match ops with
  | .ok _ => 0xFFFFFFFF
  | .error k => k

/-- A buffer whose RESULT is written ends, or its operations start (R166). -/
def Dev.endCmdbuf (d : Dev) (p : Place) (ops : Except Nat (List BodyOp)) : Dev := match ops with
  | .error _ => d.updPlace p.id (·.fail .cmdbufError)
  | .ok [] => d.updPlace p.id Place.finish
  | .ok (op :: rest) => d.startBody p (op :: rest)

theorem Dev.endCmdbuf_rest (d : Dev) (p : Place) (ops : Except Nat (List BodyOp)) {q : Place} (here : d.place p.id = some q) (start : q.bodyNext = 0)
    (running : q.phase = .running) : ∃ x, (d.endCmdbuf p ops).place p.id = some x ∧ (d.endCmdbuf p ops).mem = d.mem ∧ (d.endCmdbuf p ops).rings = d.rings ∧
      (∀ k, ops = .error k → x.phase = .finished ∧ x.status = .cmdbufError ∧ (d.endCmdbuf p ops).board.length = d.board.length) ∧
      (ops = .ok [] → x.phase = .finished ∧ x.status = q.status) ∧
      (∀ l, ops = .ok l → l ≠ [] → x.phase = .running ∧ x.status = q.status ∧ x.bodyNext + x.body.length = l.length ∧ x.body = l.drop x.bodyNext) := by
  match ops with
  | .error k =>
    refine ⟨_, Dev.place_upd_again (·.fail .cmdbufError) here fun _ => rfl, rfl, rfl, fun _ _ => ⟨rfl, rfl, List.length_map _⟩, (fun eq => by cases eq), fun l eq => by cases eq⟩
  | .ok [] =>
    refine ⟨_, Dev.place_upd_again Place.finish here fun _ => rfl, rfl, rfl, (fun k eq => by cases eq), fun _ => ⟨rfl, rfl⟩, fun l eq some => ?_⟩
    cases eq
    exact absurd rfl some
  | .ok (op :: rest) =>
    obtain ⟨⟨x, found, placing⟩, ⟨b, m, only⟩⟩ := Dev.startBody_fills (p := p) (op :: rest) here start
    have run : d.endCmdbuf p (.ok (op :: rest)) = d.startBody p (op :: rest) := rfl
    rw [run]
    refine ⟨x, found, by rw [only], by rw [only], (fun k eq => by cases eq), (fun eq => by cases eq), fun l eq _ => ?_⟩
    cases eq
    exact ⟨placing.phase.trans running, placing.status, placing.count, placing.rest⟩

/-- Settles the clause of O50 about the translation of a command buffer. -/
theorem cmdbuf_translated {s : State} {i : Nat} {p : Place} {r : Mio × List Byte × List Bool} {m : Mio} {result : Nat} (here : s.dev.place i = some p)
    (op : p.op.opcode = 0x7E) (running : p.phase = .running) (empty : p.body = []) (start : p.bodyNext = 0)
    (read : r = (s.dev.io p).readOperand (s.dev.agent p) p 0 0 (p.op.word 1)) (shows : result = cmdbufResult (cmdbufOps r.2.1))
    (write : m = (if paysFor p.payload 0 || r.1.short then r.1 else
      r.1.write (s.dev.agent p) (p.op.ref 0) ((p.op.ref 0).addr + 12) (leBytes 4 result) [false, false, false, false]))
    (can : m.done ∨ s.dev.Calm ∧ s.dev.Feeds p 0 0 (p.op.word 1) ∧
      (paysFor p.payload 0 = true ∨ s.dev.Writes p.ctxIx ((p.op.ref 0).addr + 12) 4)) :
    ∃ t q, exec (.cmdbufTranslated i) s = .next t ∧ t.dev.place i = some q ∧ t.dev.mem = m.dev.mem ∧ t.dev.rings = s.dev.rings ∧
      (∀ k, cmdbufOps r.2.1 = .error k → q.phase = .finished ∧ q.status = .cmdbufError ∧ t.dev.board.length = s.dev.board.length) ∧
      (cmdbufOps r.2.1 = .ok [] → q.phase = .finished ∧ q.status = p.status) ∧
      (∀ ops, cmdbufOps r.2.1 = .ok ops → ops ≠ [] → q.phase = .running ∧ q.status = p.status ∧
        q.bodyNext + q.body.length = ops.length ∧ q.body = ops.drop q.bodyNext) := by
  obtain rfl := Dev.place_id here
  have first : s.dev.WorkOnly r.1.dev := read ▸ (s.dev.work_io p).trans (Mio.work_readOperand _ _ _ _ _ _)
  have work : s.dev.WorkOnly m.dev := by
    rw [write]
    split
    · exact first
    · exact first.trans (Mio.work_write _ _ _ _ _ _)
  have done : m.done := can.elim id fun ⟨calm, feeds, writes⟩ => by
    have going : r.1.From s.dev := read ▸ (s.dev.io_from p).readOperand _ 0 0 _ rfl calm feeds
    rw [write]
    split
    · exact going.done
    · rename_i unpaid
      have writes := writes.resolve_left fun pays => unpaid (by simp [pays])
      exact (going.write _ _ _ _ _ calm (by rw [length_leBytes]; exact writes)).done
  obtain ⟨z, noted⟩ : ∃ z, z = m.dev.updPlace p.id (Place.noted · m) := ⟨_, rfl⟩
  have there : z.place p.id = some (p.noted m) := by rw [noted]; exact Dev.place_upd_again (Place.noted · m) ((work.place _).trans here) fun _ => rfl
  have concludes : s.dev.workTranslated p = s.dev.conclude p m fun d => d.endCmdbuf p (cmdbufOps r.2.1) := by rw [write, shows, read]; rfl
  have ends : s.dev.workTranslated p = z.endCmdbuf p (cmdbufOps r.2.1) := by rw [concludes, Dev.conclude_noted s.dev p _ done, noted]
  have run : exec (.cmdbufTranslated p.id) s = .next { s with dev := s.dev.workTranslated p } := by
    refine congrArg Host.Outcome.next ?_
    rw [here]
    exact if_pos ⟨op, running, Place.unloaded empty start⟩
  obtain ⟨x, place, mem, rings, refused, nothing, begun⟩ := z.endCmdbuf_rest p (cmdbufOps r.2.1) there start running
  refine ⟨_, x, run.trans (State.next_dev ends), place, mem.trans (by rw [noted]; rfl), rings.trans (by rw [noted]; exact work.rings), fun k eq => ?_, nothing, begun⟩
  obtain ⟨phase, status, length⟩ := refused k eq
  refine ⟨phase, status, length.trans ?_⟩
  rw [noted]
  exact (List.length_map _).trans (congrArg List.length work.board)

/-- Whether a record is refused does not depend on what its dependences became. -/
theorem translateRecord_none {ix : Nat} {b : List Byte} {gone : Nat → List Nat} (refused : translateRecord ix b gone = none) (g : Nat → List Nat) :
    translateRecord ix b g = none := by
  unfold translateRecord at refused ⊢
  dsimp only at refused ⊢
  split at refused
  · rename_i bad; exact if_pos bad
  · rename_i good
    rw [if_neg good]
    rw [Option.map_eq_none_iff] at refused ⊢
    exact refused

/-- A refused buffer's RESULT is its first refused record (R166). -/
theorem translateAll_error : ∀ (recs : List (List Byte)) (ix k : Nat) (gone : Nat → List Nat), translateAll ix recs gone = .error k →
    ∃ j b, recs[j]? = some b ∧ k = ix + j ∧ (∀ g, translateRecord k b g = none) ∧
      ∀ j' b', j' < j → recs[j']? = some b' → ∀ g, translateRecord (ix + j') b' g ≠ none
  | [], ix, k, gone, failed => by cases failed
  | b :: recs, ix, k, gone, failed => by
    unfold translateAll at failed
    split at failed
    · rename_i refused
      cases failed
      exact ⟨0, b, rfl, rfl, translateRecord_none refused, fun j' b' before => absurd before (Nat.not_lt_zero _)⟩
    · rename_i ops translated
      dsimp only at failed
      split at failed
      · cases failed
      · rename_i k' later
        cases failed
        obtain ⟨j, b', at_, eq, refused, before⟩ := translateAll_error recs (ix + 1) k _ later
        refine ⟨j + 1, b', at_, by omega, refused, fun j' b'' less found g none => ?_⟩
        cases j' with
        | zero =>
          cases found
          have refused : translateRecord ix b gone = .none := translateRecord_none none gone
          rw [refused] at translated
          cases translated
        | succ j' =>
          refine before j' b'' (by omega) found g ?_
          rwa [show ix + 1 + j' = ix + (j' + 1) by omega]

/-- The operations of a record wait for the records that it names (R164, R165). -/
theorem translateRecord_some {ix : Nat} {b : List Byte} {gone : Nat → List Nat} {ops : List BodyOp} (translated : translateRecord ix b gone = some ops) :
    dependsOk ix (field b 2 2) = true ∧ ∀ o ∈ ops, o.index = ix ∧ ∀ k, k ∈ o.needs ↔
      ∃ i < 16, (field b 2 2).testBit i = true ∧ k ∈ gone (ix - 1 - i) := by
  unfold translateRecord at translated
  dsimp only at translated
  split at translated
  · cases translated
  · rename_i good
    refine ⟨by simpa using good, fun o mem => ?_⟩
    obtain ⟨l, -, rfl⟩ := Option.map_eq_some_iff.1 translated
    obtain ⟨ws, -, rfl⟩ := List.mem_map.1 mem
    refine ⟨rfl, fun k => ?_⟩
    simp [dependsOn, and_assoc]

/-- Settles O50: the store of graph versions, and launches and command buffers that place their bodies. -/
theorem graphs : Obligations.Graphs := by
  unfold Obligations.Graphs
  refine ⟨fun s i n d e p l r b good enters layout pruned size read can cut passes => publish_ends enters layout pruned size read can cut passes,
    fun d p v next newest => ?_, fun d p x mem own => Dev.retireGraph_dead mem own, fun d n g x found => Dev.findVersion_newest found,
    fun d n g v x named found => Dev.findVersion_exact named found,
    fun s i d e p enters empty start unpinned pruned => launch_runs enters empty start unpinned pruned,
    fun s i d p enters => ?_, fun s i d p enters empty start => cmdbuf_starts enters empty start,
    fun s i p r m result here op running empty start read shows write can => cmdbuf_translated here op running empty start read (shows.trans ?_) write can,
    fun b bad => ?_, translateAll_error, fun ix b gone ops translated => translateRecord_some translated,
    fun d p o ix good skip => d.bodyPlace_spec p o ix good skip, fun d p w => d.acquiresRef_iff p w, fun q c => q.absorb_spec c⟩
  · obtain ⟨count, mem⟩ := Dev.publish_spec next newest
    exact ⟨count, d.newVersion p, mem, rfl, next.symm, rfl, rfl⟩
  · obtain ⟨-, rfl⟩ := Dev.enters_place enters
    exact exec_of_enters enters rfl
  · unfold cmdbufResult; rfl
  · unfold cmdbufOps
    exact if_pos (by simp [bad])

end Sys2Proof.Machine
end
